-- ==== Sys2Proof/Word.lean ====
section
/-! DEFINITION. The widths the manual counts in (R1, 00_scope.md; R28, 02_numbers.md): a byte, a 64-bit
word, a 32-byte link word. Only names: every operation on them that a test could show wrong stands under
Machine/. -/
namespace Sys2Proof

/-- A byte of memory. -/
abbrev Byte := BitVec 8

/-- A 64-bit word: an op word, a configuration word, a tag, a system register. -/
abbrev Word := BitVec 64

/-- One link word of a token's payload (R86): 256 bits. -/
abbrev LinkWord := BitVec 256

end Sys2Proof
end

