-- ==== Sys2Proof/Fields.lean ====
section
/-! DEFINITION. The fields of an op word as types: element types (R28), the immediate and predicate fields
(R60), targets (R61), and the coded fields that the chapters give XF. Reserved codes have no constructor: an
encoding that uses one decodes to nothing (R7, R70). -/
namespace Sys2Proof

/-- The element types of TY codes 0 to 11 (R28). -/
inductive Ty where
  | s64 | s32 | s16 | s8 | w64 | w32 | w16 | w8 | f32 | f16 | bf16 | lane
  deriving DecidableEq, Repr

/-- The immediate port IM marks (R60). -/
inductive Imm where
  | none | port0 | port1 | port2
  deriving DecidableEq, Repr

/-- The predicate field PR (R60). -/
inductive Predicate where
  | always | ifTrue | ifFalse
  deriving DecidableEq, Repr

/-- A target in use (R61): a slot of the same block and one of its ports (3 is the predicate port). -/
structure Target where
  slot : BitVec 7
  port : BitVec 2
  deriving DecidableEq, Repr

/-- What every op word and configuration word hold beside OPC and XF (R60, R65). A target that is not in use
is none (R63 makes its other bits zero). -/
structure Head where
  ty : Ty
  im : Imm
  pr : Predicate
  t0 : Option Target
  t1 : Option Target
  t2 : Option Target
  cfg : BitVec 64
  deriving DecidableEq, Repr

/-- Rounding modes (R39). -/
inductive Rnd where
  | rne | rtz | rup | rdn | rna | sr
  deriving DecidableEq, Repr

/-- MODE of `tagwr` (R112). -/
inductive TagMode where
  | repl | push | pop | set
  deriving DecidableEq, Repr

/-- SEL of `thrd` (R113). -/
inductive ThrdSel where
  | thread | gslot | wave | count
  deriving DecidableEq, Repr

/-- CC of `cmp` (R124). -/
inductive CmpCond where
  | eq | ne | lt | le | gt | ge | tst
  deriving DecidableEq, Repr

/-- CC of `fcmp` (R152). -/
inductive FloatCond where
  | eq | ne | lt | le | gt | ge | un | ord
  deriving DecidableEq, Repr

/-- OP of `pkr` and `pkscan` (R142). -/
inductive FoldOp where
  | add | min | max | and | or | xor | adds
  deriving DecidableEq, Repr

/-- ORD of R67. -/
inductive MemOrd where
  | plain | acquire | release | acqrel
  deriving DecidableEq, Repr

/-- SCOPE of R67. -/
inductive Scope where
  | plot | device | system | none
  deriving DecidableEq, Repr

/-- CP of R67. -/
inductive CachePol where
  | normal | stream | l2keep | l2first
  deriving DecidableEq, Repr

/-- The XF field of the memory class at base 0x100 (R67). -/
structure MemXf where
  aop : BitVec 4
  take : Bool
  cp : CachePol
  done : Bool
  scope : Scope
  ord : MemOrd
  deriving DecidableEq, Repr

/-- OP of `cnwr` (R226). -/
inductive CnwrOp where
  | hold | seek | go | snap
  deriving DecidableEq, Repr

/-- CLS of `mwr` (R324). -/
inductive RunCls where
  | unscaled | scaled | f16 | bf16
  deriving DecidableEq, Repr

/-- CLS of `mtol` (R324). -/
inductive TolCls where
  | f16 | bf16 | bps | int
  deriving DecidableEq, Repr

/-- OF of `mdrn` and `mst` (R324). -/
inductive OutFmt where
  | native | f16 | bf16 | f32
  deriving DecidableEq, Repr

/-- SEL of `mrd` (R334). -/
inductive MrdSel where
  | data | cc | cr | sum | status
  deriving DecidableEq, Repr

/-- OP of `grex` (R346). -/
inductive GrexOp where
  | hnd | exit | gnum
  deriving DecidableEq, Repr

/-- OP of `halt` (R435). -/
inductive HaltOp where
  | preempt | freeze | kill
  deriving DecidableEq, Repr

/-- OP of `rrec` (R440). -/
inductive RrecOp where
  | norecord | record | replay | status
  deriving DecidableEq, Repr

/-- KIND of `minj` (R436). -/
inductive InjKind where
  | dat | ccol | crow | ecc1 | ecc2
  deriving DecidableEq, Repr

/-- MODE of `tlbi` (R459). -/
inductive TlbiMode where
  | ctx | va | all
  deriving DecidableEq, Repr

/-- OP of `imtr` (R479). -/
inductive ImtrOp where
  | set | rd | clr
  deriving DecidableEq, Repr

/-- The 169 opcodes of R73, without operands. -/
inductive Opc where
  | mov | sink | steer | select | gate | const | exit | call | ret | lpent
  | lpnext | lpexit | tagrd | tagwr | thrd | reord | join | argwr | add | sub
  | mul | mulh | mad | div | rem | neg | abs | min | max | and
  | or | xor | andn | shl | shr | sar | rotl | cmp | clz | ctz
  | popc | brev | sext | zext | adds | subs | lea | lut4 | bext | bins
  | bsplit | bjoin | dec | pext | pdep | bsel | pkb | pkm | pks | pkx
  | pki | pkr | pkp | pkl | pkscan | fadd | fsub | fmul | fma | fmin
  | fmax | fcmp | fabs | fneg | fcls | frcp | frsq | fex2 | flg2 | fsin
  | fcos | ftanh | fdiv | fsqrt | cvt | frnd | fscl | wad | plgat | plsct
  | qnt | dqnt | bsc | ld | st | lds | stf | clre | mnop | wadv
  | fence | atom | red | pref | cctl | ldg | sts | cnt | cchn | agen
  | strl | strs | ctks | ctkw | cnrd | cnwr | cbini | cbres | cbcom | cbacq
  | cbrel | cbst | cpy | cpy2 | cpycb | cpyq | pmini | pment | pmex | frq
  | frl | mwld | mwsw | mma | mgat | mrep | mfil | mclr | mwr | mchk
  | mdrn | mst | mloc | mfix | mrty | mrd | mtol | grex | post | recv
  | bari | bar | barq | sow | kdep | kdec | yld | srd | swr | trap
  | hcse | hres | hkil | halt | rrec | minj | tlbi | pwrq | imtr
  deriving DecidableEq, Repr

end Sys2Proof
end

