-- ==== Sys2Proof/Syntax.lean ====
section
/-! DEFINITION. The instruction set as syntax: one constructor of Instr for each row of spec/opcode_table.json,
the 169 instructions of R73 (03_encoding.md) first. Those hold the fields every op word has (Head) and those that
the instruction's own description gives XF, already told apart. The other 120 rows are steps of the hardware
itself, which have no encoding (95_what_each_step_holds.md): what such a step acts on stands in the state, where
the schedule puts it (Machine.Cur), as the matched set of a firing does. -/
namespace Sys2Proof


/-- Every instruction and every step of the hardware (spec/opcode_table.json, in the table's order). -/
inductive Instr where
  /-- `mov` (R102) -/
  | mov (h : Head)
  /-- `sink` (R102) -/
  | sink (h : Head)
  /-- `steer` (R103) -/
  | steer (h : Head) (tm : BitVec 3)
  /-- `select` (R104) -/
  | select (h : Head)
  /-- `gate` (R102) -/
  | gate (h : Head)
  /-- `const` (R102) -/
  | const (h : Head)
  /-- `exit` (R107) -/
  | exit (h : Head)
  /-- `call` (R108) -/
  | call (h : Head) (ind : Bool) (site : BitVec 15)
  /-- `ret` (R109) -/
  | ret (h : Head)
  /-- `lpent` (R110) -/
  | lpent (h : Head) (w : BitVec 6)
  /-- `lpnext` (R110) -/
  | lpnext (h : Head) (w : BitVec 6)
  /-- `lpexit` (R110) -/
  | lpexit (h : Head) (w : BitVec 6)
  /-- `tagrd` (R111) -/
  | tagrd (h : Head) (pos w : BitVec 6)
  /-- `tagwr` (R112) -/
  | tagwr (h : Head) (mode : TagMode) (w : BitVec 6)
  /-- `thrd` (R113) -/
  | thrd (h : Head) (sel : ThrdSel)
  /-- `reord` (R114) -/
  | reord (h : Head)
  /-- `join` (R115) -/
  | join (h : Head) (all : Bool)
  /-- `argwr` (R116) -/
  | argwr (h : Head)
  /-- `add` (R121) -/
  | add (h : Head)
  /-- `sub` (R121) -/
  | sub (h : Head)
  /-- `mul` (R121) -/
  | mul (h : Head)
  /-- `mulh` (R121) -/
  | mulh (h : Head)
  /-- `mad` (R121) -/
  | mad (h : Head)
  /-- `div` (R125) -/
  | div (h : Head)
  /-- `rem` (R125) -/
  | rem (h : Head)
  /-- `neg` (R122) -/
  | neg (h : Head)
  /-- `abs` (R122) -/
  | abs (h : Head)
  /-- `min` (R121) -/
  | min (h : Head)
  /-- `max` (R121) -/
  | max (h : Head)
  /-- `and` (R121) -/
  | and (h : Head)
  /-- `or` (R121) -/
  | or (h : Head)
  /-- `xor` (R121) -/
  | xor (h : Head)
  /-- `andn` (R121) -/
  | andn (h : Head)
  /-- `shl` (R123) -/
  | shl (h : Head)
  /-- `shr` (R123) -/
  | shr (h : Head)
  /-- `sar` (R123) -/
  | sar (h : Head)
  /-- `rotl` (R123) -/
  | rotl (h : Head)
  /-- `cmp` (R124) -/
  | cmp (h : Head) (cc : CmpCond)
  /-- `clz` (R121) -/
  | clz (h : Head)
  /-- `ctz` (R121) -/
  | ctz (h : Head)
  /-- `popc` (R121) -/
  | popc (h : Head)
  /-- `brev` (R121) -/
  | brev (h : Head)
  /-- `sext` (R126) -/
  | sext (h : Head)
  /-- `zext` (R126) -/
  | zext (h : Head)
  /-- `adds` (R32) -/
  | adds (h : Head)
  /-- `subs` (R32) -/
  | subs (h : Head)
  /-- `lea` (R127) -/
  | lea (h : Head) (sc : BitVec 3)
  /-- `lut4` (R130) -/
  | lut4 (h : Head) (tt : BitVec 16)
  /-- `bext` (R131) -/
  | bext (h : Head) (sx : Bool) (len : BitVec 7) (pos : BitVec 6)
  /-- `bins` (R131) -/
  | bins (h : Head) (len : BitVec 7) (pos : BitVec 6)
  /-- `bsplit` (R132) -/
  | bsplit (h : Head) (sx : Bool) (pos : BitVec 6)
  /-- `bjoin` (R132) -/
  | bjoin (h : Head) (pos : BitVec 6)
  /-- `dec` (R133) -/
  | dec (h : Head) (hi : BitVec 8) (iw : BitVec 3)
  /-- `pext` (R134) -/
  | pext (h : Head)
  /-- `pdep` (R134) -/
  | pdep (h : Head)
  /-- `bsel` (R135) -/
  | bsel (h : Head)
  /-- `pkb` (R137) -/
  | pkb (h : Head) (lenM1 e : BitVec 3)
  /-- `pkm` (R138) -/
  | pkm (h : Head)
  /-- `pks` (R139) -/
  | pks (h : Head) (k : BitVec 3)
  /-- `pkx` (R140) -/
  | pkx (h : Head)
  /-- `pki` (R141) -/
  | pki (h : Head)
  /-- `pkr` (R142) -/
  | pkr (h : Head) (op : FoldOp)
  /-- `pkp` (R143) -/
  | pkp (h : Head) (dyn : Bool) (lenM1 : BitVec 3)
  /-- `pkl` (R144) -/
  | pkl (h : Head) (lM1 : BitVec 3)
  /-- `pkscan` (R142) -/
  | pkscan (h : Head) (exc : Bool) (op : FoldOp)
  /-- `fadd` (R150) -/
  | fadd (h : Head) (rm : Rnd)
  /-- `fsub` (R150) -/
  | fsub (h : Head) (rm : Rnd)
  /-- `fmul` (R150) -/
  | fmul (h : Head) (rm : Rnd)
  /-- `fma` (R150) -/
  | fma (h : Head) (rm : Rnd)
  /-- `fmin` (R151) -/
  | fmin (h : Head)
  /-- `fmax` (R151) -/
  | fmax (h : Head)
  /-- `fcmp` (R152) -/
  | fcmp (h : Head) (cc : FloatCond)
  /-- `fabs` (R153) -/
  | fabs (h : Head)
  /-- `fneg` (R153) -/
  | fneg (h : Head)
  /-- `fcls` (R154) -/
  | fcls (h : Head) (cm : BitVec 9)
  /-- `frcp` (R155) -/
  | frcp (h : Head) (rm : Rnd)
  /-- `frsq` (R155) -/
  | frsq (h : Head) (rm : Rnd)
  /-- `fex2` (R155) -/
  | fex2 (h : Head) (rm : Rnd)
  /-- `flg2` (R155) -/
  | flg2 (h : Head) (rm : Rnd)
  /-- `fsin` (R155) -/
  | fsin (h : Head) (rm : Rnd)
  /-- `fcos` (R155) -/
  | fcos (h : Head) (rm : Rnd)
  /-- `ftanh` (R155) -/
  | ftanh (h : Head) (rm : Rnd)
  /-- `fdiv` (R150) -/
  | fdiv (h : Head) (rm : Rnd)
  /-- `fsqrt` (R150) -/
  | fsqrt (h : Head) (rm : Rnd)
  /-- `cvt` (R156) -/
  | cvt (h : Head) (sty : Ty) (rm : Rnd)
  /-- `frnd` (R157) -/
  | frnd (h : Head) (rm : Rnd)
  /-- `fscl` (R158) -/
  | fscl (h : Head) (rm : Rnd)
  /-- `wad` (R168) -/
  | wad (h : Head) (ft : BitVec 5)
  /-- `plgat` (R162) -/
  | plgat (h : Head) (ft : BitVec 5)
  /-- `plsct` (R163) -/
  | plsct (h : Head) (ft : BitVec 5)
  /-- `qnt` (R165) -/
  | qnt (h : Head) (ft : BitVec 5) (rm : Rnd)
  /-- `dqnt` (R166) -/
  | dqnt (h : Head) (sc : Bool) (rm : Rnd)
  /-- `bsc` (R164) -/
  | bsc (h : Head) (sty : Ty)
  /-- `ld` (R209) -/
  | ld (h : Head) (m : MemXf)
  /-- `st` (R209) -/
  | st (h : Head) (m : MemXf)
  /-- `lds` (R210) -/
  | lds (h : Head) (m : MemXf)
  /-- `stf` (R210) -/
  | stf (h : Head) (m : MemXf)
  /-- `clre` (R210) -/
  | clre (h : Head) (m : MemXf)
  /-- `mnop` (R201) -/
  | mnop (h : Head) (m : MemXf)
  /-- `wadv` (R202) -/
  | wadv (h : Head)
  /-- `fence` (R212) -/
  | fence (h : Head) (m : MemXf)
  /-- `atom` (R211) -/
  | atom (h : Head) (m : MemXf)
  /-- `red` (R211) -/
  | red (h : Head) (m : MemXf)
  /-- `pref` (R213) -/
  | pref (h : Head) (m : MemXf)
  /-- `cctl` (R214) -/
  | cctl (h : Head) (m : MemXf)
  /-- `ldg` (R209) -/
  | ldg (h : Head) (m : MemXf)
  /-- `sts` (R209) -/
  | sts (h : Head) (m : MemXf)
  /-- `cnt` (R220) -/
  | cnt (h : Head) (idx : Bool) (d : BitVec 2) (w : BitVec 6)
  /-- `cchn` (R223) -/
  | cchn (h : Head) (idx : Bool) (d : BitVec 2) (w : BitVec 6)
  /-- `agen` (R227) -/
  | agen (h : Head)
  /-- `strl` (R228) -/
  | strl (h : Head) (row : Bool) (lenM1 : BitVec 3) (ft : BitVec 5) (cp : CachePol) (done : Bool) (scope : Scope)
  /-- `strs` (R228) -/
  | strs (h : Head) (cp : CachePol) (done : Bool) (scope : Scope)
  /-- `ctks` (R234) -/
  | ctks (h : Head) (one : Bool) (ch : BitVec 4)
  /-- `ctkw` (R235) -/
  | ctkw (h : Head) (mM1 : BitVec 10) (ch : BitVec 4)
  /-- `cnrd` (R225) -/
  | cnrd (h : Head)
  /-- `cnwr` (R226) -/
  | cnwr (h : Head) (op : CnwrOp)
  /-- `cbini` (R277) -/
  | cbini (h : Head) (cb : BitVec 4)
  /-- `cbres` (R278) -/
  | cbres (h : Head) (wait : Bool) (cb : BitVec 4)
  /-- `cbcom` (R279) -/
  | cbcom (h : Head) (cb : BitVec 4)
  /-- `cbacq` (R278) -/
  | cbacq (h : Head) (wait : Bool) (cb : BitVec 4)
  /-- `cbrel` (R279) -/
  | cbrel (h : Head) (cb : BitVec 4)
  /-- `cbst` (R280) -/
  | cbst (h : Head) (cb : BitVec 4)
  /-- `cpy` (R283) -/
  | cpy (h : Head) (done : Bool) (scope : Scope)
  /-- `cpy2` (R283) -/
  | cpy2 (h : Head) (done : Bool) (scope : Scope)
  /-- `cpycb` (R284) -/
  | cpycb (h : Head) (done : Bool) (cb : BitVec 4)
  /-- `cpyq` (R283) -/
  | cpyq (h : Head) (done : Bool) (scope : Scope)
  /-- `pmini` (R289) -/
  | pmini (h : Head)
  /-- `pment` (R289) -/
  | pment (h : Head)
  /-- `pmex` (R289) -/
  | pmex (h : Head)
  /-- `frq` (R292) -/
  | frq (h : Head) (wait : Bool)
  /-- `frl` (R292) -/
  | frl (h : Head)
  /-- `mwld` (R302) -/
  | mwld (h : Head) (ws : Bool)
  /-- `mwsw` (R303) -/
  | mwsw (h : Head) (ws : Bool)
  /-- `mma` (R306) -/
  | mma (h : Head) (nrM1 : BitVec 6) (a : BitVec 3)
  /-- `mgat` (R309) -/
  | mgat (h : Head) (ft : BitVec 5)
  /-- `mrep` (R310) -/
  | mrep (h : Head) (pace : Bool)
  /-- `mfil` (R311) -/
  | mfil (h : Head)
  /-- `mclr` (R325) -/
  | mclr (h : Head) (a : BitVec 3)
  /-- `mwr` (R326) -/
  | mwr (h : Head) (cls : RunCls) (a : BitVec 3)
  /-- `mchk` (R327) -/
  | mchk (h : Head) (a : BitVec 3)
  /-- `mdrn` (R328) -/
  | mdrn (h : Head) (scope : Scope) (done : Bool) (rm : Rnd) (sh : Bool) (outf : OutFmt) (a : BitVec 3)
  /-- `mst` (R329) -/
  | mst (h : Head) (rm : Rnd) (sh : Bool) (outf : OutFmt) (a : BitVec 3)
  /-- `mloc` (R330) -/
  | mloc (h : Head)
  /-- `mfix` (R331) -/
  | mfix (h : Head)
  /-- `mrty` (R332) -/
  | mrty (h : Head)
  /-- `mrd` (R334) -/
  | mrd (h : Head) (sel : MrdSel)
  /-- `mtol` (R335) -/
  | mtol (h : Head) (cls : TolCls)
  /-- `grex` (R346) -/
  | grex (h : Head) (op : GrexOp)
  /-- `post` (R347) -/
  | post (h : Head) (done : Bool) (ipt : BitVec 2)
  /-- `recv` (R348) -/
  | recv (h : Head) (wait : Bool) (ipt : BitVec 2)
  /-- `bari` (R355) -/
  | bari (h : Head) (b : BitVec 4)
  /-- `bar` (R354) -/
  | bar (h : Head) (wait : Bool) (b : BitVec 4)
  /-- `barq` (R356) -/
  | barq (h : Head) (b : BitVec 4)
  /-- `sow` (R385) -/
  | sow (h : Head)
  /-- `kdep` (R386) -/
  | kdep (h : Head)
  /-- `kdec` (R387) -/
  | kdec (h : Head)
  /-- `yld` (R418) -/
  | yld (h : Head)
  /-- `srd` (R414) -/
  | srd (h : Head) (dx : Bool) (die : BitVec 2) (reg : BitVec 12)
  /-- `swr` (R414) -/
  | swr (h : Head) (dx : Bool) (die : BitVec 2) (reg : BitVec 12)
  /-- `trap` (R431) -/
  | trap (h : Head) (code : BitVec 7)
  /-- `hcse` (R432) -/
  | hcse (h : Head)
  /-- `hres` (R433) -/
  | hres (h : Head) (drop : Bool)
  /-- `hkil` (R434) -/
  | hkil (h : Head)
  /-- `halt` (R435) -/
  | halt (h : Head) (op : HaltOp)
  /-- `rrec` (R440) -/
  | rrec (h : Head) (op : RrecOp)
  /-- `minj` (R436) -/
  | minj (h : Head) (kind : InjKind)
  /-- `tlbi` (R459) -/
  | tlbi (h : Head) (mode : TlbiMode)
  /-- `pwrq` (R478) -/
  | pwrq (h : Head) (can : Bool) (fmask : BitVec 4)
  /-- `imtr` (R479) -/
  | imtr (h : Head) (op : ImtrOp)
  /-- Cold reset of the module: every register field takes its Reset value and every HBM and plot-store word is set full (R5) -/
  | coldReset
  /-- A write to a system register that has no behaviour of its own sets its RW fields, ignores its RO fields, and ignores a table base that would lie outside HBM (R5) -/
  | registerWrite
  /-- The LAST word of a token reaches a station; the token completes a matched set or takes a matching-store entry (R89) -/
  | tokenArrival
  /-- As matching-store entries free, overflowed tokens return to the store in the order in which they were written out (R92) -/
  | overflowReturn
  /-- An access arrives after its crossing at its reserved store-buffer entry (R203) -/
  | accessArrival
  /-- A wave-ready access whose gates pass issues from the wave store buffer and updates the wave record (R204) -/
  | storeBufferIssue
  /-- An access is performed at a scope, frees its entry and sends its data or done token (R205) -/
  | accessPerformed
  /-- A refused lds, buffer request, pment or recv is sent again 64 plot cycles after the refusal arrives (R210) -/
  | waiterRefusalRetry
  /-- A read request reaches the home directory (R252) -/
  | gets
  /-- A read-exclusive request reaches the home directory (R252) -/
  | getx
  /-- An upgrade request reaches the home directory (R252) -/
  | upg
  /-- An eviction of a clean owned line reaches the home (R252) -/
  | pute
  /-- An eviction of a dirty owned line, with data, reaches the home (R252) -/
  | putm
  /-- An invalidation acknowledgement reaches the home (R252) -/
  | invAck
  /-- An owner's answer to a forward reaches the home (R252) -/
  | fwdDone
  /-- A line arrives at an L1 in state S (R251) -/
  | dataS
  /-- A line arrives at an L1 in state E (R251) -/
  | dataE
  /-- A line arrives at an L1 in state M and waiting stores perform (R251) -/
  | dataM
  /-- Ownership without data arrives at an L1 in SM_D (R251) -/
  | grant
  /-- An invalidation arrives at an L1 and is acknowledged (R251) -/
  | inv
  /-- A forwarded read reaches the owner L1 (R251) -/
  | fwdGets
  /-- A forwarded read-exclusive reaches the owner L1 (R251) -/
  | fwdGetx
  /-- An eviction acknowledgement frees the L1 write-back buffer (R251) -/
  | putAck
  /-- An L1 request refused by a full home queue is reissued 64 plot cycles later (R253) -/
  | requestReissue
  /-- Back-invalidation of a host copy completes and the device store is performed at system scope (R257) -/
  | backInvalidation
  /-- A credit token of the owner adds one to the chain's CREDIT (R223) -/
  | creditArrival
  /-- The network accepts a chain point; the chain advances and sends the next point or its finish token (R224) -/
  | pointAccepted
  /-- A stream access is performed and sends its data and done tokens (R229) -/
  | streamAccessPerformed
  /-- The add of a ctks is made at the channel table 8 plot cycles later, and the token is sent on (R234) -/
  | counterAdd
  /-- A ctkw reaches the channel table and joins the counter's waiters (R235) -/
  | ctkwJoin
  /-- A walk returns to a waiting station, which installs its translation entry and resumes firing (R230) -/
  | walkReturn
  /-- A plot-store bank serves one word: the oldest write, or a broadcast read (R267) -/
  | wordServe
  /-- A copy chunk is performed; the engine starts the next chunk, descriptor or request (R282) -/
  | chunkDone
  /-- A row's LAST word arrives at a row port or staging buffer (R295) -/
  | rowArrival
  /-- At a row boundary ACT changes, the weight change is made and the mwsw trigger is sent (R303) -/
  | rowBoundarySwitch
  /-- A push result is written 72 beats after it began and the accumulator leaves SWAP (R304) -/
  | pushWritten
  /-- A row's result is written into its accumulator 72 beats after it started, freeing a port slot (R312) -/
  | rowResultWritten
  /-- A gathered row's words have been read and the row is sent down the row path (R309) -/
  | gatherRowSent
  /-- A pass of collected rows is sent once its rows or its credit are present; the completion follows the last (R310) -/
  | mrepPass
  /-- A filler row, of mfil or the furrow controller, fires in a beat in which no mma row fires (R311) -/
  | fillerRow
  /-- A comparison ends clean, located or multiple, moving the accumulator to CLEAN, FAULT_LOC or FAULT_MULTI (R320) -/
  | comparisonEnd
  /-- Every drained row is performed; the status and done token are sent and the accumulator is DRAINED (R328) -/
  | drainPerformed
  /-- One queued group is placed per plot cycle on a qualifying plot and its region reserved (R337) -/
  | groupPlacement
  /-- One dispatch token per plot cycle is sent for each thread; after the last the group is RUNNING (R339) -/
  | dispatchToken
  /-- A group's live count reaches zero and it enters RETIRING (R342) -/
  | quiescence
  /-- After its accesses are performed, a retiring group frees its resources and hands on its exit code (R342) -/
  | groupRetired
  /-- A completing child decrements its DRAINING parent's CHILD and may finish it (R381) -/
  | childCompletion
  /-- A spilled inbound-port message returns to the port as room frees (R344) -/
  | portSpillReturn
  /-- A phase's completion signal reaches a station and releases its waiting bar sets (R359) -/
  | completionSignal
  /-- QCMD ENABLE reads a DISABLED queue's descriptor and arms it, or sets ERROR 0x02 (R365) -/
  | enable
  /-- QCMD DISABLE stops a queue, at the packet boundary when FETCHING (R365) -/
  | disable
  /-- QCMD CLEAR rereads an ERROR queue's descriptor and re-arms it (R365) -/
  | clear
  /-- A write to a queue's kick register wakes an ARMED queue (R371) -/
  | kick
  /-- A store to the watched header line, or a host snoop of it, wakes an ARMED queue (R370) -/
  | watchWake
  /-- The back-off interval on the headland timer ends and the header is read again (R370) -/
  | backoffExpiry
  /-- The header read of slot RP returns; KIND 0 re-arms, any other starts FETCHING (R369) -/
  | headerRead
  /-- The body read completes; the packet is checked, the kernel record built, the header cleared and RP advanced (R369) -/
  | packetConsume
  /-- The root sequencer serves a full load request: read, check, verify, select and write the load image (R394) -/
  | fullLoad
  /-- The root sequencer serves a load from the translation cache by digest (R394) -/
  | cachedLoad
  /-- The root sequencer verifies a signed raise and burns a new security-version floor (R398) -/
  | floorRaise
  /-- A load request arriving while 16 are held receives RESULT 0x18 (R392) -/
  | loadBusy
  /-- Takes a FREE context to LOADED with its record's register fields (R409) -/
  | create
  /-- Takes a LOADED context to RUNNABLE (R409) -/
  | start
  /-- Restores a SAVED context to RUNNING on a free hardware slot (R424) -/
  | resume
  /-- Sets every plot's deadline to ICNT plus the grace (R415) -/
  | preempt
  /-- Pre-empts a RUNNING context with a freeze mark (R409) -/
  | freeze
  /-- Takes a FROZEN context to SAVED (R409) -/
  | thaw
  /-- Kills a context, directly or through pre-emption with a kill mark (R409) -/
  | kill
  /-- Takes a DEAD context to FREE and rewrites its record (R409) -/
  | release
  /-- Turns record mode on for a LOADED or SAVED context (R437) -/
  | record
  /-- Turns replay mode on for a LOADED or SAVED context (R438) -/
  | replay
  /-- Turns record and replay off (R437) -/
  | norecord
  /-- After 4,096 plot cycles with no group and no request, a RUNNING context returns to RUNNABLE (R409) -/
  | contextIdle
  /-- A counted firing brings ICNT above DLINE and makes a pre-emption request (R416) -/
  | expiry
  /-- A plot consumes no set of a live context for CTXSTL plot cycles; a forced request with STALL is made (R417) -/
  | stall
  /-- An engine class stops at its unit, saves its state and acknowledges (R419) -/
  | acknowledgement
  /-- The walker's read of one table level returns; the entry is checked and the walk descends, installs or faults (R443) -/
  | walkLevelRead
  /-- The compare-and-exchange setting A or D completes, or restarts the walk (R452) -/
  | adUpdate
  /-- The read of a contiguous group returns and one 64 KiB or one 4 KiB entry is installed (R453) -/
  | contiguousCheck
  /-- A station that found the walker queue full retries after 16 plot cycles (R455) -/
  | walkerQueueRetry
  /-- Every plot has acknowledged and affected accesses are performed; the tlbi status is sent (R460) -/
  | tlbiComplete
  /-- Every 8 plot cycles with a free tile the scheduler chooses the block with the most waiting tokens and starts its load (R180) -/
  | blockLoadStarted
  /-- The image has been read and checked; the copy becomes RESIDENT or is rejected (R175) -/
  | blockLoadComplete
  /-- A byte of the image fails translation, ending the load and delivering the fault (R177) -/
  | imageTranslationFault
  /-- A waiting entry token is delivered to its station, one per plot cycle (R179) -/
  | entryTokenDelivery
  /-- With waiting work and no free tile, the longest-idle eligible copy is chosen as victim (R182) -/
  | eviction
  /-- After 16 plot cycles the evicting copy becomes ABSENT and its tile is freed (R174) -/
  | evictionEnd
  /-- On a freed tile with no waiting work, the scheduler asks for one migration that improves co-issue (R186) -/
  | consolidation
  /-- A migration request reserves a destination tile and starts copying stations and matrix state (R183) -/
  | migrationRequest
  /-- The plot's routing for the block changes to the new tile in one plot cycle (R183) -/
  | migrationSwitch
  /-- The drain markers have returned and the old store is empty; the old tile is freed (R183) -/
  | migrationRelease
  /-- At the end of each 64-cycle window the controller updates readings, FIL and BSTEP of each furrow (R469) -/
  | samplingWindow
  /-- At each 25 us boundary permits are spent, refilled and granted, and the cap step updated (R473) -/
  | intervalBoundary
  /-- A tile voltage leaves 620 to 880 mV; the furrow stops, is cleared and reports FURROW_GUARD (R477) -/
  | guardTrip
  /-- A die temperature reaches a threshold's TEMP and the threshold trips (R475) -/
  | thresholdTrip
  /-- A die temperature falls 2 C below TEMP and the threshold releases (R475) -/
  | thresholdRelease
  /-- A threshold's 4 ms dwell ends and a crossing that still holds takes effect (R475) -/
  | dwellEnd
  /-- A rack cap write is judged by sequence and may set the cap and start a lease (R476) -/
  | rackCapMessage
  /-- A 100 ms lease expires with no newer message and the cap returns to the fallback (R476) -/
  | leaseExpiry
  /-- A write to PRTBASE discards every cached route entry (R481) -/
  | prtbaseWrite
  /-- LNKCTL TRAIN starts training a DOWN port (R487) -/
  | train
  /-- LNKCTL QUARANTINE quarantines a port and moves its streams (R487) -/
  | quarantine
  /-- LNKCTL RELEASE takes a QUARANTINED port to DOWN with spare lane and counts restored (R487) -/
  | linkRelease
  /-- A port trains on 8 lanes, latches its neighbour and goes UP (R487) -/
  | trainingComplete
  /-- Training fails or 50 ms elapse and the port returns to DOWN (R487) -/
  | trainingTimeout
  /-- A lane fails; the spare takes its place, the port retrains on 4 lanes, or it is quarantined (R487) -/
  | laneFailure
  /-- A DEGRADED port finishes retraining on 4 lanes and releases held traffic (R487) -/
  | retrainComplete
  /-- The retry of one flit fails 8 times and the port is quarantined (R487) -/
  | crcRetryFailure
  /-- A peer request is unanswered for 1 ms and its port is quarantined (R487) -/
  | requestTimeout
  /-- An incoming peer request is performed in sequence order or answered from kept responses (R484) -/
  | peerRequest
  /-- A peer's response or acknowledgement arrives and completes the outstanding request (R484) -/
  | peerResponse
  /-- A host CXL.mem read is performed as a home operation (R491) -/
  | hostRead
  /-- A host CXL.mem write is performed at the home and sets its words full (R491) -/
  | hostWrite
  /-- A host CXL.cache snoop takes a line back from the device's L2 (R261) -/
  | hostSnoop
  /-- An atomic, reduction, lds, stf, clre, L2-keep store or cctl operation reaches its line's home, joins the directory queue or waiter list and performs there (R256) -/
  | homeOperation
  /-- A load with CP L2-keep or L2-evict-first to a coherent line reaches the home and is read there, forwarding to the owner when the line is EM (R256) -/
  | homeRead
  /-- A write to OBREQ whose request lies in HBM or host memory is held in the root sequencer's queue of up to 16 requests (R392) -/
  | obreqWrite
  /-- Each cycle of the plot clock, stall counters that select per-plot-cycle events (0x01, 0x05, 0x0A, 0x0E to 0x11, 0x17 to 0x19) add the count of that cycle (R191) -/
  | plotCycle
  /-- A flit arrives at a link port with a bad CRC; CRCERR and RETRY are counted and the flit is retransmitted from the sender's retry buffer (R480) -/
  | flitCrcError
  /-- Root firmware takes a plot offline after an uncorrectable fault by clearing its bit in DEVID.PLOTS, so no further group is placed there (R22) -/
  | plotOffline
  deriving DecidableEq, Repr

end Sys2Proof
end

