-- ==== Sys2Proof/Machine/State.lean ====
section
/-! DEFINITION. The state of the machine: everything the manual gives it, as plain data. The types come first,
one group for each chapter that owns them; `State` and `State.reset` stand at the end. -/
namespace Sys2Proof.Machine

/-! ### Tokens (04_token.md) -/

/-- The envelope of a token (R86), and what the token must not let an arrival at a barrier go ahead of: the model keeps with it the
accesses that stand before an access of their thread on whose done token it depends, and that were not yet performed when that token
was sent (R357, assumption 51). -/
structure Envelope where
  tag : Word
  thread : BitVec 10
  gslot : BitVec 3
  wave : BitVec 24
  edges : List Nat
  deriving DecidableEq, Repr

/-- What names the work a token belongs to: its key without slot and port (R89). -/
structure Key where
  tag : Word
  thread : BitVec 10
  gslot : BitVec 3
  deriving DecidableEq, Repr

/-- A packet: format tag, length minus one, and one or two link words (R87, R88). -/
structure Packet where
  fmt : BitVec 5
  lenM1 : BitVec 3
  lo : LinkWord
  hi : Option LinkWord
  deriving DecidableEq, Repr

/-- A token: an envelope and a packet (R86). -/
structure Token where
  env : Envelope
  pkt : Packet
  deriving DecidableEq, Repr

/-- A row of a matrix row stream (R47): its words together are at most 1,088 bits. -/
structure Row where
  env : Envelope
  fmt : BitVec 5
  ridx : BitVec 6
  bits : BitVec 1088
  deriving DecidableEq, Repr

/-- A block of a code object of a context (R171): the object is named by its load address KOBJ. -/
structure BlockId where
  ctx : BitVec 12
  obj : Word
  bid : BitVec 32
  deriving DecidableEq, Repr

/-- Where a token goes: a port of a slot of a block on a plot. -/
structure Dest where
  plot : Nat
  block : BlockId
  slot : BitVec 7
  port : BitVec 2
  deriving DecidableEq, Repr

/-- Where a token in flight arrives: at a station of the block that sent it, at one through the return port of a memory PE, at an
entry of that block, at an entry of another (R105, R174), or at the entry of a kernel, dispatched with its group (R339). The second
and the last two are edge ports of their tile (R471). -/
inductive EdgeKind where
  | inner | back | own | entry | dispatch
  deriving DecidableEq, Repr

/-- A token in flight (R94); `before` marks one that was sent before the switch of a migration on its plot, which the drain
markers follow (R183), `refused` one that a meter has refused (R471). -/
structure Flight where
  dest : Dest
  tok : Token
  edge : EdgeKind
  before : Bool
  refused : Bool
  deriving DecidableEq, Repr

/-- A row in flight on the row path of a plot (R295), from the station at slot `source`; `before` as for a token. -/
structure RowFlight where
  source : BitVec 7
  dest : Dest
  row : Row
  before : Bool
  deriving DecidableEq, Repr

/-! ### Memory (01_device.md R17 to R19, 08_wave.md, 10_order.md, 20_page.md) -/

/-- A fault of a firing: cause, translation level, and word 1 of the cause record (R426, R427). -/
structure FaultInfo where
  cause : BitVec 8
  level : BitVec 8
  word1 : Word
  deriving DecidableEq, Repr

/-- The data of one 64-byte line: byte i in bits 8i to 8i + 7 (R1). -/
abbrev LineData := BitVec 512

/-- An error mark of a word (R436): its next read finds a correctable error, or uncorrectable data. -/
structure EccMark where
  word : Nat
  uncorrectable : Bool
  deriving DecidableEq, Repr

/-- Memory (R17, R19): the bytes that are not what an unlisted byte reads as, in rising address order; the 8-byte words
that are empty, in rising order (every other word of HBM and of a plot store is full); and error marks. The bytes of
host memory stand here as the device sees them. -/
structure Mem where
  cells : List Host.Cell
  empty : List Nat
  marks : List EccMark
  deriving DecidableEq, Repr

/-- The states of an L1 line other than I, which is no line (R251). -/
inductive L1State where
  | s | e | m | isD | isI | imD | smD | miA | iiA
  deriving DecidableEq, Repr

/-- The two forwards (R249). -/
inductive FwdKind where
  | gets | getx
  deriving DecidableEq, Repr

/-- A forward to an owner; with no requester, the home itself is the requester (R249). -/
structure Forward where
  kind : FwdKind
  requester : Option Nat
  deriving DecidableEq, Repr

/-- A line of a plot's L1, or in its write-back buffer (R251); `rep` marks a copy of a replicated page (R246). -/
structure L1Line where
  line : Nat
  st : L1State
  data : LineData
  rep : Bool
  held : List Forward
  deriving DecidableEq, Repr

/-- One part of an access: its plot, the access and the part's place in it. -/
structure PartRef where
  plot : Nat
  id : Nat
  idx : Nat
  deriving DecidableEq, Repr

/-- Whose a request at the memory system is: a part of an access, which stands for every part of it in the same line or
word (R209, R266), or a request of an engine, of the host or of a peer, by its number. -/
inductive ReqRef where
  | part (r : PartRef)
  | eng (id : Nat)
  deriving DecidableEq, Repr

/-- A request in a line's queue at its home (R252, R256, R257). -/
inductive DirReq where
  | gets (p : Nat)
  | getx (p : Nat)
  | upg (p : Nat)
  | pute (p : Nat)
  | putm (p : Nat) (d : LineData)
  /-- A home operation, and a home read. -/
  | op (r : ReqRef)
  | read (r : ReqRef)
  deriving DecidableEq, Repr

/-- The states of a directory entry (R252). -/
inductive DirState where
  | i | s | em | sx | emFs | emFx
  deriving DecidableEq, Repr

/-- A directory entry of a line at its home slice (R252), with its host flag (R257). `serving` is the request that a
transient state serves. -/
structure DirEntry where
  line : Nat
  st : DirState
  sharers : List Nat
  owner : Nat
  count : Nat
  serving : Option DirReq
  queue : List DirReq
  hostFlag : Bool
  deriving DecidableEq, Repr

/-- What travels from a plot to a home slice (R249, R256). -/
inductive HomeMsg where
  | gets | getx | upg | pute
  | putm (d : LineData)
  | invAck
  | fwdDone (d : LineData) (retain : Bool)
  | op (r : ReqRef)
  | read (r : ReqRef)
  deriving DecidableEq, Repr

/-- A message to the home of a line; its sender is a plot, the host (36) or a peer (37). -/
structure ToHome where
  plot : Nat
  line : Nat
  msg : HomeMsg
  deriving DecidableEq, Repr

/-- What travels to an L1 (R249); `refused` is the refusal of a request (R253). -/
inductive PlotMsg where
  | dataS (d : LineData)
  | dataE (d : LineData)
  | dataM (d : LineData)
  | grant | inv
  | fwd (f : Forward)
  | putAck
  | refused (m : HomeMsg)
  deriving DecidableEq, Repr

/-- A message to an L1 about a line. -/
structure ToPlot where
  plot : Nat
  line : Nat
  msg : PlotMsg
  deriving DecidableEq, Repr

/-- The kind of the page an access goes through, with where its frame lies (R447). -/
inductive PageKind where
  | coherent | sequential | home | replicated | window | host | peer
  deriving DecidableEq, Repr

/-- Where a part of an access stands. -/
inductive PartState where
  /-- Not yet issued; skipped by `pref` or `cctl` (R213, R214). -/
  | todo | skipped
  /-- Waiting for a line of the plot's L1; the same since before an INV of the line (R251, IS_I); on its way to a home or
  there; refused by the home; sent to a peer. -/
  | atL1 | atInv | atHome | refused | atPeer
  /-- Withdrawn from its home at a pre-emption (R217). -/
  | withdrawn
  /-- Not performed: it has met uncorrectable data (R216). -/
  | bad
  /-- Performed at plot and device scope (R205), and for a store to be performed at system scope besides where `sys`
  of the part says so. -/
  | done
  deriving DecidableEq, Repr

/-- A leaf that a cache or a station holds (R443, R453, R454): the virtual page number (VA >> 12) of its first 4 KiB
page, log2 of its size, the entry's value, the address of its table entry (of the first of 16 where merged), and a D
bit for each 4 KiB page of a merged leaf (bit 0 otherwise). -/
structure Leaf where
  ctx : BitVec 12
  vpn : Nat
  shift : Nat
  pte : Word
  addr : Nat
  dirty : BitVec 16
  deriving DecidableEq, Repr

/-- One part of an access: an element, or a line of a `clre`, `pref`, `cctl` or row (R195). `pa` is none until it is
translated, `level` the level of its leaf, `leaf` the entry it went through and `seq` whether that names a sequential page (R447). `val` is what it writes or combines, `cmp` the comparand of `.cas`, `got` what
it read. -/
structure Part where
  ea : Word
  pa : Option Nat
  level : Nat
  leaf : Option Leaf
  bytes : Nat
  kind : PageKind
  seq : Bool
  sysAtomic : Bool
  val : Word
  cmp : Word
  state : PartState
  got : Word
  sys : Bool
  deriving DecidableEq, Repr

/-- What an access does (R193, R228). -/
inductive MemOp where
  | ld | st | lds | stf | clre | mnop | fence | atom | red | pref | cctl | ldg | sts | strl | strlRow | strs
  deriving DecidableEq, Repr

/-- Where an access stands: its pages being translated (with `asked`, by the walker; else its station retries), on its
way to its store-buffer entry, waiting to issue, issued, or stopped by a fault that its group's handler has. -/
inductive AccessPhase where
  | translating (asked : Bool)
  | transit | waiting | issued | faulted
  deriving DecidableEq, Repr

/-- A matched set (R89): one token for each port that receives tokens, lowest port first. `entries` counts the
matching-store entries that the set holds until it starts issue (R91), and `spills` lists, by the order in which they were
written there, those of its tokens that stand in the overflow area (R92). -/
structure MatchedSet where
  slot : BitVec 7
  toks : List (BitVec 2 × Token)
  entries : Nat
  spills : List Nat
  deriving DecidableEq, Repr

/-- An access of the wave store buffer (R203) or of a stream station (R229). `freed` says that its entry is free: it
has been performed at plot scope and only its system-scope point is to come. `withdrawn` marks a withdrawn `lds`
(R217), `again` an access to be translated again before it issues (R460), `fresh` one that is issued again after a fault and walks
anew, from level 1 or the walk cache (R231, R451). -/
structure Access where
  id : Nat
  op : MemOp
  block : BlockId
  set : MatchedSet
  head : Head
  xf : MemXf
  ftz : Bool
  handler : Bool
  parts : List Part
  code : Nat
  status : Nat
  phase : AccessPhase
  fault : Option FaultInfo
  freed : Bool
  withdrawn : Bool
  again : Bool
  fresh : Bool
  deriving DecidableEq, Repr

/-- A wave record (R198); `handler` marks the second record of R428. -/
structure WaveRec where
  ctx : BitVec 12
  gslot : BitVec 3
  thread : BitVec 10
  handler : Bool
  w : BitVec 24
  i : BitVec 254
  s : BitVec 8
  deriving DecidableEq, Repr

/-- The translation entry of a station (R454). -/
structure StationEntry where
  block : BlockId
  slot : BitVec 7
  leaf : Leaf
  deriving DecidableEq, Repr

/-- A walk-cache entry (R456): the non-leaf entry of a level for a prefix of the virtual address. -/
structure WalkEntry where
  ctx : BitVec 12
  level : Nat
  pre : Nat
  table : Nat
  deriving DecidableEq, Repr

/-- What an access needs of a leaf (R450); `userLoad` and `userStore` are what a queue engine reads and writes, which need
U = 1 in every context (R362); `area` is what a load of an object asks of its area (R394). -/
inductive Need where
  | load | store | fetch | userLoad | userStore | area
  deriving DecidableEq, Repr

/-- The access writes. -/
def Need.stores : Need → Bool
  | .store | .userStore => true
  | .load | .fetch | .userLoad | .area => false

/-- Who asks a walker (R454): an access of a station, a memory-class station for the record of an instruction that is no access, a
copy engine, the block scheduler, or the queue engine of the die. -/
inductive WalkFor where
  | access (id : Nat)
  | station (b : BlockId) (slot : BitVec 7)
  | copy (e : Nat)
  | sched
  | queue
  deriving DecidableEq, Repr

/-- A request at the walker (R455): the address that is needed next, whether it asks for a walk whatever the leaf cache holds (R451),
the plot cycle of its arrival, and the rank of its requester. -/
structure WalkReq where
  who : WalkFor
  ctx : BitVec 12
  va : Word
  need : Need
  fresh : Bool
  cycle : Nat
  rank : Nat
  deriving DecidableEq, Repr

/-- What a walk does next: read a level's entry in a table, set A and D of the entry it read, read a contiguous group,
or nothing, abandoned until the `tlbi` with these numbers have completed (R460). -/
inductive WalkPhase where
  | level (l : Nat) (table : Nat)
  | update (l : Nat) (addr : Nat) (pte : Word)
  | group (addr : Nat) (pte : Word)
  | parked (jobs : List Nat)
  deriving DecidableEq, Repr

/-- A walk in flight with the requests that joined it (R455), and the non-leaf entries it has passed, which it installs with its leaf
(R449, R456). -/
structure Walk where
  ctx : BitVec 12
  va : Word
  phase : WalkPhase
  reqs : List WalkReq
  passed : List WalkEntry
  deriving DecidableEq, Repr

/-- What the walker answers. -/
inductive WalkResult where
  | leaf (l : Leaf)
  | fault (f : FaultInfo)
  deriving DecidableEq, Repr

/-- An answer on its way to the station that asked (R230). -/
structure Returned where
  who : WalkFor
  ctx : BitVec 12
  va : Word
  result : WalkResult
  deriving DecidableEq, Repr

/-- The walker of a plot (R455) with its caches (R456), least recently used first, its stations' entries, and those besides accesses
whose last request ended in a fault, which they meet as they go on. -/
structure Walker where
  queue : List WalkReq
  walks : List Walk
  returned : List Returned
  walkCache : List WalkEntry
  leafCache : List Leaf
  stations : List StationEntry
  failed : List WalkFor
  deriving DecidableEq, Repr

/-- A word request at a bank of a plot store (R267), with the plot cycle of its arrival and the rank of its requester port. -/
structure BankReq where
  store : Nat
  word : Nat
  write : Bool
  /-- Performed by the store's atomic unit (R210, R211). -/
  atomic : Bool
  ref : ReqRef
  /-- It has been passed over for the first time (R268). -/
  seen : Bool
  cycle : Nat
  rank : Nat
  deriving DecidableEq, Repr

/-- A line in an L2 slice (R208, R259, R261), by its physical address; a peer's line by the context whose copy it is. `keep`
numbers its keep mark. -/
structure L2Line where
  line : Nat
  ctx : Option (BitVec 12)
  keep : Option Nat
  deriving DecidableEq, Repr

/-- What a peer asks for: an operation at an offset of this device, with its bytes, operands and, for an atomic, AOP, type
and FTZ. -/
structure PeerAsk where
  kind : Nat
  offset : Nat
  bytes : Nat
  val : LineData
  cmp : Word
  aop : BitVec 4
  ty : Ty
  ftz : Bool
  deriving DecidableEq, Repr

/-- Who makes a request that is no part of an access: a copy request (by its number, on an engine), a drain or `mst` (by
number, on a tile), an `mgat` of a tile, the completion record of a kernel record, another unit of the device, the host, or a peer's
stream. -/
inductive EngOwner where
  | copy (id engine : Nat)
  | drain (id tile : Nat)
  | gather (id tile : Nat)
  | record (pa : Nat)
  | unit
  | host
  | peer (src port : Nat) (seq : BitVec 32)
  deriving DecidableEq, Repr

/-- What such a request does: read; write a value, and set its words full (R247); the host's read and write, each keeping a
copy or not (R257); and what a peer asks for. -/
inductive EngAct where
  | read
  | write (v : Nat)
  | hostRead (keep : Bool)
  | hostWrite (v : Nat) (keep : Bool)
  | ask (q : PeerAsk)
  deriving DecidableEq, Repr

/-- A request of an engine, of the host or of a peer to one line, or to one word of a plot store: whether it has been
performed at device scope (`done`) and at system scope (`sys`), the fault it has met, what it read, and the entry that its address
went through. -/
structure EngReq where
  id : Nat
  owner : EngOwner
  plot : Nat
  ctx : BitVec 12
  gslot : BitVec 3
  va : Word
  pa : Nat
  bytes : Nat
  act : EngAct
  done : Bool
  sys : Bool
  fault : Option FaultInfo
  got : Nat
  leaf : Option Leaf
  deriving DecidableEq, Repr

/-- A copy of a peer's line in this device's L2 (R259). -/
structure PeerCopy where
  ctx : BitVec 12
  line : Nat
  data : LineData
  deriving DecidableEq, Repr

/-! ### Blocks (07_block.md) -/

/-- A token waiting at a station (R91), in the matching store or, where `spilled`, in the overflow area, with the order in
which it was written there (R92). -/
structure Waiting where
  slot : BitVec 7
  port : BitVec 2
  tok : Token
  spilled : Option Nat
  deriving DecidableEq, Repr

/-- The states of a block copy (R174). -/
inductive CopyPhase where
  | absent | loading | resident | migrating | evicting
  deriving DecidableEq, Repr

/-- The two words of a station (R55). -/
structure Station where
  op : Word
  cfg : Word
  deriving DecidableEq, Repr

/-- An entry token waiting for its block (R178); `seq` is its place in the order of arrival (R176, R177). -/
structure EntryToken where
  slot : BitVec 7
  port : BitVec 2
  tok : Token
  seq : Nat
  deriving DecidableEq, Repr

/-- A copy of a block that a plot tracks (R171, R174). -/
structure Copy where
  id : BlockId
  phase : CopyPhase
  tile : Nat
  /-- The tile a migration goes to, and whether the switch has been made (R183). -/
  newTile : Option Nat
  switched : Bool
  stations : List Station
  nent : Nat
  load : BitVec 3
  /-- Tokens waiting for the block, at most 64, and those spilled (R178). -/
  buffer : List EntryToken
  spilled : List EntryToken
  /-- Tokens and complete sets at the stations, in order of arrival and of completion (R91, R92). -/
  waiting : List Waiting
  ready : List MatchedSet
  /-- The numbers of its spilled items that lie in the reserve (R422). -/
  reserved : List Nat
  /-- Plot cycles since the copy received a token (R182), since it entered EVICTING (R174), and since its last
  migration ended (R186). -/
  idle : Nat
  evictFor : Nat
  sinceMove : Nat
  deriving DecidableEq, Repr

/-! ### Groups, causes and the handler (14_group.md, 19_context.md) -/

/-- The four words of a cause record (R426). -/
structure CauseRecord where
  w0 : Word
  w1 : Word
  w2 : Word
  w3 : Word
  deriving DecidableEq, Repr

/-- What a fault keeps for `hres` (R425, R433). -/
inductive Kept where
  /-- Nothing: another instruction has discarded the set, or the fault had none. -/
  | nothing
  /-- A matched set of a block, to fire again. -/
  | set (block : BlockId) (m : MatchedSet)
  /-- The set of a `trap`, which completes instead of firing (R431). -/
  | trap (block : BlockId) (m : MatchedSet) (head : Head)
  /-- A faulted access of the wave store buffer (R215) or of a stream station (R231). -/
  | access (id : Nat)
  /-- An entry token of a rejected block or of a load that failed (R176, R177). -/
  | entry (block : BlockId) (t : EntryToken)
  /-- A copy request that stopped, by its number (R286). -/
  | copy (id : Nat)
  /-- The row at the head of a row port (R314). -/
  | row (block : BlockId) (slot : BitVec 7)
  deriving DecidableEq, Repr

/-- The states of a cause slot (R425, R432). -/
inductive CauseState where
  | free | delivered | read
  deriving DecidableEq, Repr

/-- A cause slot of a group (R425). -/
structure CauseSlot where
  state : CauseState
  record : CauseRecord
  kept : Kept
  deriving DecidableEq, Repr

/-- The states of a group that a plot holds (R343); QUEUED groups stand in the ready queue. -/
inductive GroupPhase where
  | placed | running | stopped | saved | retiring
  deriving DecidableEq, Repr

/-- The mark of a buffer slot (R271). -/
inductive SlotMark where
  | free | resv | comm | acq | reld
  deriving DecidableEq, Repr

/-- The geometry of a circular buffer (R271). -/
structure CbShape where
  ofs : Nat
  slots : Nat
  slotBytes : Nat
  deriving DecidableEq, Repr

/-- A circular-buffer record (R271), with the geometry that its kernel declared. The pointers are kept modulo 2 × SLOTS. -/
structure CircBuf where
  ofs : Nat
  slots : Nat
  slotBytes : Nat
  rp : Nat
  cp : Nat
  ap : Nat
  fp : Nat
  marks : List SlotMark
  declared : CbShape
  deriving DecidableEq, Repr

/-- A barrier record (R351), with the count its kernel declared. -/
structure Barrier where
  declared : Nat
  count : Nat
  phase : Bool
  arr : Nat
  waiters : Nat
  deriving DecidableEq, Repr

/-- A frame that a group holds (R292): its first block and its length in blocks. -/
structure Frame where
  first : Nat
  blocks : Nat
  deriving DecidableEq, Repr

/-- A group on a plot (R336, R340). -/
structure Group where
  ctx : BitVec 12
  obj : Word
  /-- The handler block of the object, 0xFFFF_FFFF for none (R389, R430). -/
  hbid : BitVec 32
  /-- The address of its kernel record, its number and the group count of its launch (R336). -/
  record : Nat
  number : BitVec 32
  count : BitVec 32
  priority : Nat
  threads : Nat
  entry : BitVec 32
  argVa : Word
  phase : GroupPhase
  /-- Whether a SAVED group was STOPPED (R343). -/
  wasStopped : Bool
  regionFirst : Nat
  regionBlocks : Nat
  /-- Whether steps 1 and 2 of R339 are done, and the thread of the next dispatch token. -/
  prepared : Bool
  nextThread : Nat
  exitCode : BitVec 32
  seq : BitVec 23
  causes : List CauseSlot
  buffers : List CircBuf
  barriers : List Barrier
  ports : List (List Packet)
  portSpill : List (List Packet)
  frames : List Frame
  /-- CAUSE that `hkil` or a fault without a handler hands to the kernel record (R430, R434). -/
  killCause : BitVec 8
  deriving DecidableEq, Repr

/-- A set that has fired and waits at a unit of the plot (R274, R348, R354): it is still its station's. `head` is that
of its instruction. -/
structure Held where
  block : BlockId
  set : MatchedSet
  head : Head
  deriving DecidableEq, Repr

/-- What a waiter of the plot's control unit waits for (R274, R284, R292, R348). -/
inductive WaitKind where
  | reserve (cb : Nat) (k : Nat)
  | acquire (cb : Nat) (k : Nat)
  /-- A `cpycb` before its slots are reserved, and one that holds its slots from the first given. -/
  | copyReserve (cb : Nat) (k : Nat)
  | copyPlace (cb : Nat) (k : Nat) (first : Nat)
  | receive (port : Nat)
  | frame (bytes : Nat)
  /-- A `pment` that its store has refused, by the permit's address (R289). -/
  | permit (va : Word)
  /-- A `post` whose turn in a replay has not come, or whose record has no room (R349, R437, R438). -/
  | post
  deriving DecidableEq, Repr

/-- A waiter of the plot's control unit, in order of arrival (R274). -/
structure Waiter where
  held : Held
  gslot : BitVec 3
  kind : WaitKind
  deriving DecidableEq, Repr

/-- A waiting `bar` set with its barrier and phase marks (R354); `stamp` is the order of its record, and `spilled` says
that its matching-store entry has overflowed, and in which order it was written out (R92). -/
structure BarWaiter where
  held : Held
  gslot : BitVec 3
  bar : Nat
  phase : Bool
  stamp : Nat
  spilled : Option Nat
  deriving DecidableEq, Repr

/-- A completion signal on its way to the stations (R354). -/
structure Signal where
  gslot : BitVec 3
  bar : Nat
  phase : Bool
  stamp : Nat
  deriving DecidableEq, Repr

/-- An operation that a unit refused for want of room, to be sent again (R210, R274, R289, R348). -/
structure Refused where
  held : Held
  gslot : BitVec 3
  kind : WaitKind
  deriving DecidableEq, Repr

/-- What waits at a home in the 256-entry list it shares (R210, R289). -/
inductive HomeWaiter where
  /-- An `lds` for a word to become full. -/
  | lds (home : Nat) (ref : ReqRef) (word : Nat)
  /-- An atomic or `lds` whose turn in a replay has not come, or whose record has no room (R437, R438). -/
  | replay (home : Nat) (part : PartRef)
  /-- A `pment` for the permit at an address. -/
  | permit (home : Nat) (plot : Nat) (held : Held) (gslot : BitVec 3) (va : Word) (pa : Nat)
  deriving DecidableEq, Repr

/-! ### Copy engines (11_plotstore.md) -/

/-- One linear piece of a copy: source, destination and bytes (R281, R283), the addresses virtual; the destination is an
offset in the store of the request's headland where `own` says so (R16). Without a source the piece writes zeros (R284). -/
structure CopyPiece where
  src : Option Word
  dst : Word
  own : Bool
  bytes : Nat
  deriving DecidableEq, Repr

/-- Where the work on a request stands: nothing in flight; a descriptor being read; a chunk whose source is being read, or
whose destination is being written (R282, R283). -/
inductive ChunkPhase where
  | idle
  | descriptor
  | reading (n : Nat)
  | writing (n : Nat)
  deriving DecidableEq, Repr

/-- The forms of a copy request (R283, R284). -/
inductive CopyForm where
  | rows (src sstride dst dstride : Word) (rows : Nat) (bytes : Nat)
  | list (next : Word) (seen : Nat)
  | buffer (cb : Nat) (first k : Nat) (src : Word) (bytes : Nat)
  deriving DecidableEq, Repr

/-- A copy request (R281 to R286): what is left of it, the piece in progress, and where its done token goes. -/
structure CopyReq where
  held : Held
  gslot : BitVec 3
  form : CopyForm
  row : Nat
  piece : Option CopyPiece
  phase : ChunkPhase
  scope : Scope
  done : Bool
  /-- The request has met a fault that its group's handler has (R286). -/
  faulted : Bool
  id : Nat
  deriving DecidableEq, Repr

/-! ### Queues and kernels (16_queue.md, 17_kernel.md) -/

/-- The states of a queue (R364, R372). -/
inductive QueuePhase where
  | disabled | idle | armed | fetching | error
  deriving DecidableEq, Repr

/-- A queue as its engine holds it (R364, R369, R370): the fields of its descriptor; the plot cycle at which it woke, where a
read of the header is due; the header word that FETCHING works on; the line it watches, and whether a store or snoop of that
line has woken the watch; the back-off interval in ticks, and the tick of its die's timer at which it ends; and whether a
DISABLE waits for the packet boundary. -/
structure Queue where
  phase : QueuePhase
  err : BitVec 8
  rp : BitVec 32
  ctx : BitVec 12
  logn : Nat
  base : Word
  msie : Bool
  msiv : BitVec 11
  due : Option Nat
  header : Word
  watch : Option Nat
  hit : Bool
  interval : Nat
  expiry : Nat
  stopping : Bool
  deriving DecidableEq, Repr

/-- How far a kernel record has finished (R381): not at all; with its completion record of a STATUS and CAUSE still to be written; or
with that written, but not yet performed at system scope. -/
inductive KernelFinish where
  | open
  | writing (status cause : Nat)
  | written (status : Nat)
  deriving DecidableEq, Repr

/-- A kernel record that the device has built (R377), by its physical and virtual address; the record itself stands in
memory. `childFaulted` is the mark of R381. -/
structure KernelRef where
  pa : Nat
  va : Word
  ctx : BitVec 12
  childFaulted : Bool
  /-- What its completion waits for as a release at system scope (R383): requests of its groups to peers, by peer, port and
  sequence number, and lines whose host copies are still to be back-invalidated. -/
  acks : List (Nat × Nat × BitVec 32)
  lines : List Nat
  /-- Its completion is due and waits for them. -/
  due : Bool
  finish : KernelFinish
  deriving DecidableEq, Repr

/-- An entry of a level of the ready queue (R379): a record, or a group of it that has come back from PLACED (R343). -/
structure ReadyEntry where
  record : Nat
  ctx : BitVec 12
  group : Option (BitVec 32)
  deriving DecidableEq, Repr

/-- A child's completion on its way to its parent, with the queue whose message follows it (R381). -/
structure ChildDone where
  parent : Nat
  faulted : Bool
  message : Option Nat
  deriving DecidableEq, Repr

/-! ### The root sequencer (18_object.md) -/

/-- What a loader makes a load image of: the object's header, its kernel and indirect-target tables, and the selected
image with its directory entry's GEN, STEP and NBLK; bytes as little-endian numbers. -/
structure Selected where
  header : Nat
  kernels : Nat
  targets : Nat
  gen : Nat
  stepping : Nat
  nblk : Nat
  len : Nat
  image : Nat
  deriving DecidableEq, Repr

/-- An entry of the translation cache (R399): its key, the version of the translator among it (R397), SV, what it holds, and the
signature of the device identity key over all of these. -/
structure CacheEntry where
  digest : BitVec 256
  gen : Nat
  stepping : Nat
  version : Nat
  sv : Nat
  held : Selected
  sig : BitVec 512
  deriving DecidableEq, Repr

/-! ### Contexts (19_context.md) -/

/-- The registers of a context (R407, R410, R411, R322). -/
structure CtxRegs where
  cfg : Word
  seed : Word
  psva : Word
  slc : Word
  stl : Word
  ptroot : Word
  spbase : Word
  spsize : Word
  svbase : Word
  recbase : Word
  recsize : Word
  recpos : Word
  csec : CauseRecord
  ctolF16 : Word
  ctolBf16 : Word
  ctolBps : Word
  ctolInt : Word
  deriving DecidableEq, Repr

/-- What a plot counts for a context (R415 to R417): sets issued, the deadline, whether a counted firing has passed
the deadline (with true for a `yld`), the plot cycles begun since it last consumed a set, and the place of that set in the
counting order. -/
structure PlotCount where
  icnt : BitVec 48
  dline : BitVec 48
  late : Option Bool
  idle : Nat
  last : Nat
  deriving DecidableEq, Repr

/-- The states of a context (R409). -/
inductive CtxPhase where
  | free | loaded | runnable | running | preempting | saved | frozen | dead
  deriving DecidableEq, Repr

/-- The record modes of a context (R437, R440). -/
inductive RecMode where
  | off | record | replay
  deriving DecidableEq, Repr

/-- A code object that a context has loaded (R394): its address, and the bytes of its override tables (R423). -/
structure Loaded where
  obj : Word
  tableBytes : Nat
  deriving DecidableEq, Repr

/-- The engine classes of a plot (R420): fabric stations; matrix engines with their gather units; accumulators; drains, `mst` and `mwr`;
stream stations with the counter chains; copy engines; the walker; the wave store buffer; the control unit's waiters; waiting `bar`; the
control-token network; the block scheduler; and its groups. -/
inductive EngineClass where
  | fabric | matrix | accumulators | drains | streams | copy | walker | storeBuffer | waiters | barriers | network | scheduler | groups
  deriving DecidableEq, Repr

/-- What acknowledges a stop (R419): an engine class of a plot, the queue engine of a die, or a home. -/
inductive StopUnit where
  | plot (p : Nat) (k : EngineClass)
  | queueEngine (die : Nat)
  | home (h : Nat)
  deriving DecidableEq, Repr

/-- How far a plot section of a save area has been written (R421): its records, and its bytes. -/
structure PlotSection where
  plot : Nat
  records : Nat
  bytes : Nat
  deriving DecidableEq, Repr

/-- A block marked rejected, with the slot that R70 names (R176). -/
structure Rejected where
  block : BlockId
  slot : BitVec 8
  deriving DecidableEq, Repr

/-- A context (R406 to R409, R415, R419, R421). -/
structure Ctx where
  phase : CtxPhase
  slot : Option Nat
  lastCmd : BitVec 4
  refused : Bool
  flags : BitVec 16
  cause : BitVec 8
  freezeMark : Bool
  killMark : Bool
  saves : Nat
  regs : CtxRegs
  recMode : RecMode
  /-- In replay: the entries of the record buffer that have been served, by their offset (R438). -/
  served : List Nat
  counts : List PlotCount
  /-- Units that have not yet acknowledged the stop (R419), and the plot sections written so far (R421). -/
  unacked : List StopUnit
  sections : List PlotSection
  /-- The STATE word is to be written (R407). -/
  stateDue : Bool
  /-- Plot cycles in RUNNING with no group and no request (R409). -/
  idle : Nat
  objects : List Loaded
  /-- Blocks marked rejected (R176). -/
  rejected : List Rejected
  deriving DecidableEq, Repr

/-- An entry of an argument override table (R116, R423). -/
structure Override where
  plot : Nat
  block : BlockId
  slot : BitVec 7
  value : Word
  deriving DecidableEq, Repr

/-! ### Device registers -/

/-- Registers of the device: DEVID's STEP, PEERID and PLOTS (R22), CTXTBL (R410), SVFLOOR (R398), PRTBASE and the
cached route entries by peer id (R481), and PWIN of each die (R483). -/
structure DevRegs where
  step : BitVec 8
  peerid : BitVec 10
  plots : BitVec 32
  ctxtbl : Word
  left : BitVec 8
  floor : BitVec 16
  prtbase : Word
  routes : List (Nat × Word)
  pwin : List Word
  deriving DecidableEq, Repr

/-! ### Links (22_link.md) -/

/-- The states of a link port (R487). -/
inductive PortState where
  | down | training | up | degraded | quarantined
  deriving DecidableEq, Repr

/-- A link port (R480, R487 to R489): LNKST's fields, LNKCTL's EVE and EVV, lane failures counted since its counts were
restored, whether it is retraining on 4 lanes and holds its traffic, and for the order of R8 the state and row of R487 of the last
event that it has taken in this plot cycle. -/
structure LinkPort where
  st : PortState
  lanes : Nat
  spare : Bool
  retry : BitVec 16
  crcerr : BitVec 16
  nport : BitVec 4
  nid : BitVec 10
  eve : Bool
  evv : BitVec 11
  failures : Nat
  retraining : Bool
  taken : Option (PortState × Nat)
  deriving DecidableEq, Repr

/-- A request to a peer that has not been answered (R484): its sequence number, offset, the request it serves, whether it
is a store, the effective mask it was sent under (R482), whether its stream has moved since (R485), the port it goes through now, the
tick of the timer of that port's die at which it was sent (R487), and the context and line whose copy in L2 the answer to a read makes
(R259): none once that copy has been dropped meanwhile. -/
structure OutReq where
  seq : BitVec 32
  offset : Nat
  ref : ReqRef
  store : Bool
  mask : List Nat
  moved : Bool
  via : Nat
  sentAt : Nat
  keep : Option (BitVec 12 × Nat)
  deriving DecidableEq, Repr

/-- A stream to a peer (R484), by its original port. -/
structure LinkStream where
  peer : Nat
  port : Nat
  next : BitVec 32
  out : List OutReq
  deriving DecidableEq, Repr

/-- A kept response (R484): what the request with a sequence number was answered. -/
structure KeptResponse where
  seq : BitVec 32
  refused : Bool
  value : Nat
  deriving DecidableEq, Repr

/-- A stream from a peer (R484): the last sequence number performed, and the kept responses, at most 256. -/
structure LinkIn where
  src : Nat
  port : Nat
  last : Option (BitVec 32)
  kept : List KeptResponse
  deriving DecidableEq, Repr

/-! ### The furrow (21_furrow.md) -/

/-- The supply of a furrow (R464): 3.00 V, 3.40 V while it is BOOSTED, 3.20 V in STEPDOWN. -/
inductive Supply where
  | nominal | boost | stepdown
  deriving DecidableEq, Repr

/-- A furrow (R465 to R469, R477): GUARDED, its supply, FIL with the position of its filler tile, BSTEP, PSTEP and REQ;
the readings of its last sampling window, whether every tile lies within the guard band, and the windows counted by the
balance control. -/
structure Furrow where
  guarded : Bool
  /-- The guard has tripped and the tiles have not been cleared yet (R477). -/
  clearing : Bool
  supply : Supply
  fil : Bool
  filler : Nat
  bstep : Nat
  pstep : Nat
  /-- The meter step that its edge ports go by in this plot cycle (R471). -/
  meter : Nat
  req : Nat
  n1 : BitVec 12
  n2 : BitVec 12
  n3 : BitVec 12
  sat : BitVec 3
  volts : List (BitVec 10)
  inBand : Bool
  windows : Nat
  satRun : Nat
  clearRun : Nat
  quietRun : Nat
  filRun : Nat
  highRun : Nat
  sinceRaise : Nat
  deriving DecidableEq, Repr

/-- An edge port of a tile under a meter (R471): port 0 for entry tokens from outside, 1 for group dispatch, 2 for what returns to
the memory PEs; the plot cycles of its last admissions, and the accesses whose return, or the buffered entry tokens, it has refused. -/
structure EdgePort where
  tile : Nat
  port : Nat
  used : List Nat
  refused : List Nat
  deriving DecidableEq, Repr

/-- A thermal threshold (R475): the fields of TTHR, whether it is tripped, and the tick of its last change. -/
structure Threshold where
  mstep : BitVec 3
  en : Bool
  temp : BitVec 11
  tripped : Bool
  changed : Option Nat
  deriving DecidableEq, Repr

/-- The thermal state of a die (R475): its hottest sensor, its thresholds, and the thermal step that the last interval boundary has
imposed (R467). -/
structure Thermal where
  temp : BitVec 11
  thresholds : List Threshold
  imposed : Nat
  deriving DecidableEq, Repr

/-- The package power controller (R473, R474, R476): the fields of BPOOL and PWCAP, LAST, the counts of RCCNT, the tick at
which the lease started, the boundaries that have passed, and the plot cycle of the last. -/
structure Power where
  rthr : BitVec 16
  cstep : Nat
  start : Nat
  free : Nat
  fallback : BitVec 16
  cap : BitVec 16
  src : BitVec 2
  last : Option (BitVec 32)
  acc : BitVec 16
  gap : BitVec 16
  old : BitVec 16
  dup : BitVec 16
  lease : Option Nat
  intervals : Nat
  boundaryAt : Option Nat
  deriving DecidableEq, Repr

/-- A `tlbi` that waits for the accesses that had issued through a removed entry (R460), by plot and number. -/
structure TlbiJob where
  id : Nat
  plot : Nat
  held : Held
  accesses : List (Nat × Nat)
  deriving DecidableEq, Repr

/-- The answer that an `swr` of a context register owes: its plot and firing, and the value that the register held (R412, R414). -/
structure WriteReply where
  plot : Nat
  held : Held
  old : Word
  deriving DecidableEq, Repr

/-- A write to a register of a context that has still to reach some plots, which read the register as it was until then (R412). -/
structure RegWrite where
  ctx : BitVec 12
  reg : Nat
  value : Word
  left : List Nat
  reply : Option WriteReply
  deriving DecidableEq, Repr

/-! ### Counter chains and control tokens (09_stream.md) -/

/-- The states of a chain record (R224). -/
inductive ChainState where
  | idle | running | held
  deriving DecidableEq, Repr

/-- The owner of a chain (R223): the thread and group slot of its latest start. -/
structure ChainOwner where
  thread : BitVec 10
  gslot : BitVec 3
  deriving DecidableEq, Repr

/-- The chain record of a `cnt` or `cchn` station (R220 to R224): its state, the envelope of its start token, BASE, the
extents and strides from level 0, p, P, ORIGIN and CREDIT. `sent` is the point on offer to the network, `moves` whether
its acceptance moves p on. -/
structure Chain where
  block : BlockId
  slot : BitVec 7
  state : ChainState
  env : Envelope
  base : Word
  levels : List (Nat × Word)
  p : Nat
  points : Nat
  origin : Nat
  sent : Option Nat
  moves : Bool
  credit : Nat
  owner : Option ChainOwner
  deriving DecidableEq, Repr

/-- A `ctkw` that waits for its counter to reach M (R235). -/
structure ChannelWaiter where
  held : Held
  m : Nat
  deriving DecidableEq, Repr

/-- A control-token counter with its waiters (R233, R235); `spilled` where the table had no room for it. -/
structure Channel where
  ctx : BitVec 12
  ch : BitVec 4
  gslot : BitVec 3
  tag : Word
  value : BitVec 48
  waiters : List ChannelWaiter
  spilled : Bool
  deriving DecidableEq, Repr

/-- A `ctks` on its way to the channel table: what it adds (R234). -/
structure ChannelAdd where
  held : Held
  ch : BitVec 4
  add : Nat
  deriving DecidableEq, Repr

/-- A `ctkw` on its way to the channel table (R235). -/
structure ChannelJoin where
  held : Held
  ch : BitVec 4
  m : Nat
  deriving DecidableEq, Repr

/-! ### Tiles (12_matrix.md, 13_accumulator.md) -/

/-- 64 elements of 32 bits: element i in bits 32i to 32i + 31. -/
abbrev Vec32 := BitVec 2048

/-- A weight slot (R294): LATCHED or not, its format, the 64 rows of the block (row c holds column c of W), its
checksum column v and magnitude column u (R300, R321), and LCNT. -/
structure WeightSlot where
  latched : Bool
  fmt : BitVec 5
  rows : List Row
  v : Vec32
  u : Vec32
  lcnt : BitVec 32
  deriving DecidableEq, Repr

/-- A row at its position in a staging buffer (R300). -/
structure StagedRow where
  pos : Nat
  row : Row
  deriving DecidableEq, Repr

/-- The states of an accumulator (R319). -/
inductive AccState where
  | empty | open | swap | checking | clean | faultLoc | faultMulti | retrying | drained
  deriving DecidableEq, Repr

/-- The kind that a run has latched (R298, R318). -/
inductive RunKind where
  | none | unscaled | scaled | floating
  deriving DecidableEq, Repr

/-- What a comparison is made for (R327, R328, R331): a check, a drain to ADDR with PITCH, or the re-check of an
`mfix`. -/
inductive CheckKind where
  | mchk
  | mdrn (addr pitch : Word)
  | mfix
  deriving DecidableEq, Repr

/-- A check that has fired on an accumulator; of a drain whose rows are being written, the number of its requests. -/
structure Check where
  held : Held
  kind : CheckKind
  writes : Option Nat
  deriving DecidableEq, Repr

/-- A located error (R320). -/
structure Located where
  i : Nat
  j : Nat
  delta : BitVec 32
  deriving DecidableEq, Repr

/-- One row of an accumulator's data. -/
structure AccRow where
  r : Nat
  data : Vec32
  deriving DecidableEq, Repr

/-- An accumulator (R315): data (rows not listed are zero), checksums, activation and magnitude sums, row and push
counts, the fields of its status word, and its run record. -/
structure Acc where
  st : AccState
  kind : RunKind
  ka : Nat
  kb : Nat
  d : List AccRow
  cc : Vec32
  cr : Vec32
  s : Vec32
  sa : Vec32
  mr : Vec32
  mc : Vec32
  fr : BitVec 1024
  pc : BitVec 16
  rows : BitVec 32
  rc : Nat
  gslot : BitVec 3
  ps : Bool
  bound : Bool
  origin : Word
  chains : List (BitVec 7)
  snapW0 : BitVec 32
  snapW1 : BitVec 32
  snapAct : Bool
  tol : Word
  nr : Nat
  located : Option Located
  /-- The check in progress, whether its comparison has ended clean with rows to write (R328), and the set of the check that has
  failed (R332). -/
  check : Option Check
  draining : Bool
  failed : Option MatchedSet
  /-- Its elements that hold an uncorrectable error (R315, R323), numbered as they stand in R315: data by rows from 0, then cc, cr, s,
  sa, mr and mc. -/
  bad : List Nat
  deriving DecidableEq, Repr

/-- A row that has started in the array and is not written yet (R306, R312): the `mma` station and accumulator it
fired for, and the weight slot it fired against. -/
structure ArrayRow where
  slot : BitVec 7
  acc : Nat
  weights : Bool
  row : Row
  deriving DecidableEq, Repr

/-- The rows held at a row port (R295), oldest first. -/
structure RowPort where
  slot : BitVec 7
  rows : List Row
  deriving DecidableEq, Repr

/-- An `mwsw` that waits for the row boundary, and an `mwld` that waits to latch (R302, R303). -/
structure SlotChange where
  held : Held
  weights : Bool
  deriving DecidableEq, Repr

/-- An `mgat` in the operand latch (R309): the addresses and row indices still to send, how many of these rows are being
read, the plot cycle in which the last was asked for, and the number of its requests. -/
structure Gather where
  held : Held
  ft : BitVec 5
  left : List (Nat × BitVec 6)
  asked : Nat
  last : Option Nat
  id : Nat
  deriving DecidableEq, Repr

/-- What a tile does with memory besides a drain's writes: an `mst` whose rows are being written (R329), an `mdrn` whose done token
waits for system scope (R328), and an `mwr` of `n` rows from row `f` of an accumulator that are being read (R326). -/
inductive JobKind where
  | store
  | drain
  | write (acc : BitVec 3) (cls : RunCls) (f n : Nat)
  deriving DecidableEq, Repr

/-- Such a job, by the number of its requests. -/
structure TileJob where
  held : Held
  id : Nat
  kind : JobKind
  deriving DecidableEq, Repr

/-- A count token that an `mrep` serves (R310): n, cnt, the pass it is on and the position in it, and its collected rows once
present. -/
structure RepJob where
  held : Held
  n : Nat
  cnt : Nat
  pass : Nat
  pos : Nat
  rows : Option (List Row)
  deriving DecidableEq, Repr

/-- An `mrep` station (R310): its row buffer, its job and its CREDIT. -/
structure Repeat where
  slot : BitVec 7
  buffer : List Row
  job : Option RepJob
  credit : Nat
  deriving DecidableEq, Repr

/-- An `mfil` in progress (R311): filler rows still to fire, and its count. -/
structure Filler where
  held : Held
  left : Nat
  count : Nat
  deriving DecidableEq, Repr

/-- The matrix engine and accumulator store of a tile. -/
structure Tile where
  act : Bool
  w0 : WeightSlot
  w1 : WeightSlot
  stage0 : List StagedRow
  stage1 : List StagedRow
  ports : List RowPort
  accs : List (Nat × Acc)
  array : List ArrayRow
  switch : Option SlotChange
  latches : List SlotChange
  gather : Option Gather
  jobs : List TileJob
  repeats : List Repeat
  fillers : List Filler
  /-- The last activation row fired (R311), and `mma` stations by the last firing, most recent first (R305). -/
  lastRow : Option Row
  fired : List (BitVec 7)
  deriving DecidableEq, Repr

/-- The matrix state of a block of a context that is not on the device (R313, R333), with the tile it was taken from. -/
structure SavedTile where
  block : BlockId
  place : Nat
  tile : Tile
  deriving DecidableEq, Repr

/-! ### The plot's units -/

/-- A migration that has been asked for (R183, R186, R470). -/
structure MoveRequest where
  block : BlockId
  tile : Nat
  deriving DecidableEq, Repr

/-- The block count of a code object that a plot runs, from the directory entry of its load image (R106). -/
structure BlockCount where
  ctx : BitVec 12
  obj : Word
  blocks : Nat
  deriving DecidableEq, Repr

/-- The block scheduler of a plot (07_block.md): its copies, the block counts it keeps (R106), and plot cycles since its last
choice (R180). -/
structure BlockUnit where
  copies : List Copy
  counts : List BlockCount
  loadClock : Nat
  /-- A tile has become free while the conditions of R186 held and consolidation has not looked since, and a migration
  that has been asked for. -/
  freed : Bool
  request : Option MoveRequest
  /-- SCEVn and SCCTn (R190). -/
  scev : List Word
  scct : List Word
  /-- What each counter has counted since the last tick of the plot clock (R192). -/
  sccy : List Nat
  deriving DecidableEq, Repr

/-- The control unit of a plot (11_plotstore.md, 14_group.md, 15_barrier.md): its groups by slot, placements made
into each slot (R338), waiters, and the order counter of barrier marks and signals. -/
structure GroupUnit where
  groups : List (Option Group)
  seqs : List (BitVec 23)
  waiters : List Waiter
  barWaiters : List BarWaiter
  signals : List Signal
  stamp : Nat
  refused : List Refused
  /-- The control-token network (R233 to R235). -/
  channels : List Channel
  adds : List ChannelAdd
  joins : List ChannelJoin
  deriving DecidableEq, Repr

/-- The turn that a `reord` or `join` slot has reached for a (TAG, GSLOT) (R114). -/
structure Turn where
  block : BlockId
  slot : BitVec 7
  tag : Word
  gslot : BitVec 3
  next : Nat
  deriving DecidableEq, Repr

/-- The iterative unit of a PE of a tile, held by a firing of a block (R125). -/
structure IterUnit where
  tile : Nat
  pe : Nat
  block : BlockId
  deriving DecidableEq, Repr

/-- One plot (R13); plots 32 to 35 stand for the headlands of dies 0 to 3 (R16). -/
structure Plot where
  /-- The edge ports that meters have acted on (R471). -/
  edges : List EdgePort
  blocks : BlockUnit
  unit : GroupUnit
  /-- The iterative units in use (R125). -/
  iterative : List IterUnit
  turns : List Turn
  copyQueues : List (List CopyReq)
  /-- Copy requests and `cpycb` that hold their slots, of contexts that are not on the device (R287): each request with its
  engine. -/
  savedCopies : List (Nat × CopyReq)
  savedPlaces : List Waiter
  accesses : List Access
  waves : List WaveRec
  /-- Threads that have lost a store to a peer (R486). -/
  lost : List (BitVec 12 × BitVec 3 × BitVec 10)
  /-- The L1, first line to be replaced first (R208). -/
  l1 : List L1Line
  walker : Walker
  chains : List Chain
  /-- The matrix engines of tiles that are not as a freed tile is, and those saved with their contexts. -/
  tiles : List (Nat × Tile)
  savedTiles : List SavedTile
  /-- Single-bit errors corrected in the accumulator stores of the plot (R315). -/
  corrected : Nat
  deriving DecidableEq, Repr

/-! ### The whole machine -/

/-- What the present step acts on: nothing, a matched set of a station, a row port of a station, or what a step of
the hardware names (each meaning says what its numbers stand for). -/
inductive Cur where
  | idle
  | firing (plot : Nat) (block : BlockId) (set : MatchedSet)
  | row (plot : Nat) (block : BlockId) (slot : BitVec 7)
  | at (p n m : Nat) (v : List Nat)
  deriving DecidableEq, Repr

/-- One entry of the schedule (assumption 1): which agent moves next. The manual leaves the choice open; the model
takes it from this list, which no rule constrains. -/
inductive Sched where
  /-- A PE of a tile starts its earliest complete set (R91). -/
  | fire (plot tile pe : Nat)
  /-- A PE whose earliest set is that of an `argwr` starts the set behind it, in the beats before the rewrite takes effect
  (R117). -/
  | behind (plot tile pe : Nat)
  /-- The iterative unit of a PE finishes its firing (R125). -/
  | unit (plot tile pe : Nat)
  /-- A memory-class station of a PE asks its plot's walker for an address of the set that it is to start (R454). -/
  | walk (plot tile pe : Nat)
  /-- A row port of a tile takes its oldest row (R295). -/
  | row (plot tile slot : Nat)
  /-- A queue engine goes on to the next slot of a queue (R369, R372). -/
  | slot (queue : Nat)
  /-- An engine of a plot goes on with the requests of its work: copy engine `n` below 2 (R281), the drain of an accumulator
  with handle n - 2 below 130 (R328), the gather unit of tile n - 130 (R309). -/
  | engine (plot n : Nat)
  /-- The job at a place of a tile is looked at: its requests may have been performed (R326, R328, R329). -/
  | job (plot tile place : Nat)
  /-- A plot takes the oldest write to a register of a context that it has not taken (R412). -/
  | write (plot ctx : Nat)
  /-- An element of an accumulator of a tile takes an error that `acc` describes (R315, R323). -/
  | accError (plot tile acc : Nat)
  /-- A step of the hardware. -/
  | event (i : Instr) (p n m : Nat) (v : List Nat)
  deriving DecidableEq, Repr

/-- The state of the device. -/
structure State where
  /-- The model's own: the schedule and what the present step acts on (assumption 1), and the counter that free
  values are drawn by (assumption 6). -/
  sched : List Sched
  cur : Cur
  fresh : Nat
  /-- The model's own: the number of the next access, request, entry token or overflowed token. -/
  nextId : Nat
  flights : List Flight
  rows : List RowFlight
  plots : List Plot
  ctxs : List (Nat × Ctx)
  overrides : List Override
  mem : Mem
  dir : List DirEntry
  toHome : List ToHome
  toPlot : List ToPlot
  fromOwner : List ToPlot
  homeWaiters : List HomeWaiter
  banks : List BankReq
  /-- Requests of engines, of the host and of peers that are still wanted. -/
  engReqs : List EngReq
  /-- Lines in the L2 slices, the first of a set to be replaced first (R208). -/
  l2 : List L2Line
  /-- Banks that have served a word in this plot cycle (R267), and lines with the highest plot whose request has reached their
  home in it (R253). -/
  served : List (Nat × Nat)
  arrived : List (Nat × Nat)
  /-- What the last read of BAR 2 has returned to the host, as a number (R493). -/
  barData : Nat
  /-- Operations that have reached the control units of plots in this plot cycle, the last first: the plot and the rank (R274, R344). -/
  reached : List (Nat × Nat)
  peerCopies : List PeerCopy
  /-- Lines of host memory that a slice holds with ownership (R261). -/
  hostLines : List Nat
  /-- HACOL.COUNT of each die (R263). -/
  hacol : List (BitVec 48)
  dev : DevRegs
  ports : List LinkPort
  streams : List LinkStream
  inStreams : List LinkIn
  /-- MSI-X vectors sent to the host, oldest first (R375, R409, R489). -/
  msi : List (BitVec 11)
  /-- Queues that a command has touched (R362), QTBASE of each die (R363), the ready queue by level and its turn counter
  (R379), the kernel records that live, completions on their way, and records whose group has met a double fault
  (R429). -/
  queues : List (Nat × Queue)
  qtbase : List Word
  ready : List (List ReadyEntry)
  turn : Nat
  kernels : List KernelRef
  childDone : List ChildDone
  doubled : List Nat
  /-- Load requests held by the root sequencer, oldest first, those that arrived while 16 were held, and the translation
  cache (R392, R399). -/
  loads : List Nat
  busyLoads : List Nat
  cache : List CacheEntry
  /-- `tlbi` firings whose status is to come (R460), and writes to context registers that have still to reach plots, oldest first
  (R412). -/
  tlbis : List TlbiJob
  regWrites : List RegWrite
  /-- The furrows, 0 to 131 (R14, R465), the thermal state of each die, and the package power controller. -/
  furrows : List Furrow
  thermal : List Thermal
  power : Power
  /-- Plot cycles since reset (R24), and the ticks of each die's headland timer (R25). -/
  cycles : Nat
  timers : List Nat
  deriving DecidableEq, Repr

/-- Why the model stops (R10 bounds what software can do; these are the model's own stops). -/
inductive Fault where
  /-- Raised by no meaning: an access to an address that the map of R19 lacks takes the fault of R19 and R427, which is a
  next state. The constructor keeps the type inhabited. Safe. -/
  | noSuchAddress (pa : Nat)
  deriving DecidableEq, Repr

/-- Why an instruction has no meaning here. -/
inductive Refusal where
  /-- Raised by Dispatch for an instruction that has no meaning yet. Safe. -/
  | notModelled (mnemonic : String)
  /-- Raised by Step when a station holds words that decode to no instruction; a loaded block never does (R70).
  Safe. -/
  | undecodable (op cfg : Word)
  deriving DecidableEq, Repr

/-- A cause slot that is FREE (R432). -/
def CauseSlot.empty : CauseSlot := CauseSlot.mk .free (CauseRecord.mk 0 0 0 0) .nothing

/-- The registers that a record holds after RELEASE (R407, R411, R322). -/
def CtxRegs.released : CtxRegs where
  cfg := 0x20_0000
  seed := 0
  psva := 0
  slc := 0x100_0000
  stl := 0x20_0000
  ptroot := 0
  spbase := 0
  spsize := 0
  svbase := 0
  recbase := 0
  recsize := 0
  recpos := 0
  csec := CauseRecord.mk 0 0 0 0
  ctolF16 := 0x8C16
  ctolBf16 := 0x8C16
  ctolBps := 0x8C16
  ctolInt := 0

/-- A context that no command has touched (R409). -/
def Ctx.free : Ctx where
  phase := .free
  slot := none
  lastCmd := 0
  refused := false
  flags := 0
  cause := 0
  freezeMark := false
  killMark := false
  saves := 0
  regs := CtxRegs.released
  recMode := .off
  served := []
  counts := List.replicate 36 (PlotCount.mk 0 0x100_0000 none 0 0)
  unacked := []
  sections := []
  stateDue := false
  idle := 0
  objects := []
  rejected := []

/-- The plot after reset (R17, R174, R338). -/
def Plot.reset : Plot where
  edges := []
  blocks := BlockUnit.mk [] [] 0 false none (List.replicate 16 0) (List.replicate 16 0) (List.replicate 16 0)
  unit := GroupUnit.mk (List.replicate 8 none) (List.replicate 8 0) [] [] [] 0 [] [] [] []
  iterative := []
  turns := []
  copyQueues := [[], []]
  savedCopies := []
  savedPlaces := []
  accesses := []
  waves := []
  lost := []
  l1 := []
  walker := Walker.mk [] [] [] [] [] [] []
  chains := []
  tiles := []
  savedTiles := []
  corrected := 0

/-- The device registers after reset (R22, R398, R410, R481; assumption 5). -/
def DevRegs.reset : DevRegs := DevRegs.mk 1 0 0xFFFF_FFFF 0 255 0 0 [] [0, 0, 0, 0]

/-- A link port after reset (R487 to R489). -/
def LinkPort.reset : LinkPort := LinkPort.mk .down 0 false 0 0 0 0 false 0 0 false none

/-- A furrow after reset (R465, R466): BALANCED, its tiles at 750 mV. -/
def Furrow.reset : Furrow where
  guarded := false
  clearing := false
  supply := .nominal
  fil := false
  filler := 0
  bstep := 0
  pstep := 0
  meter := 0
  req := 0
  n1 := 0
  n2 := 0
  n3 := 0
  sat := 0
  volts := [750, 750, 750, 750]
  inBand := true
  windows := 0
  satRun := 0
  clearRun := 0
  quietRun := 0
  filRun := 0
  highRun := 0
  sinceRaise := 16

/-- The power controller after reset (R474). -/
def Power.reset : Power := Power.mk 1500 0 0 64 1200 1200 2 none 0 0 0 0 none 0 none

/-- The machine after cold reset (R5). -/
def State.reset : State where
  sched := []
  cur := .idle
  fresh := 0
  flights := []
  rows := []
  nextId := 0
  plots := List.replicate 36 Plot.reset
  ctxs := []
  overrides := []
  mem := Mem.mk [] [] []
  dir := []
  toHome := []
  toPlot := []
  fromOwner := []
  homeWaiters := []
  banks := []
  engReqs := []
  l2 := []
  served := []
  arrived := []
  barData := 0
  reached := []
  peerCopies := []
  hostLines := []
  hacol := List.replicate 4 0
  dev := DevRegs.reset
  ports := List.replicate 12 LinkPort.reset
  streams := []
  inStreams := []
  msi := []
  queues := []
  qtbase := List.replicate 4 0
  ready := [[], [], [], []]
  turn := 0
  kernels := []
  childDone := []
  doubled := []
  loads := []
  busyLoads := []
  cache := []
  tlbis := []
  regWrites := []
  furrows := List.replicate 132 Furrow.reset
  thermal := List.replicate 4 (Thermal.mk 0 (List.replicate 4 (Threshold.mk 0 false 0 false none)) 0)
  power := Power.reset
  cycles := 0
  timers := [0, 0, 0, 0]

end Sys2Proof.Machine
end

