-- ==== Sys2Proof/Machine/Memory.lean ====
section
/-! DEFINITION. Memory as bytes, full-empty bits and error marks: reading and writing them (R1, R17), in the one
canonical form that equal memories share, and the physical map (R18 to R21). -/
namespace Sys2Proof.Machine

/-! ### Bytes -/

/-- What a byte of memory that nothing has written reads as (assumption 4). -/
def unwrittenByte : Byte := 0

/-- The byte at an address. -/
def cellAt : List Host.Cell → Nat → Byte
  | [], _ => unwrittenByte
  | (k, v) :: l, a => if a = k then v else cellAt l a

/-- The list with the byte at an address written, in canonical form. -/
def cellPut : List Host.Cell → Nat → Byte → List Host.Cell
  | [], a, b => if b = unwrittenByte then [] else [(a, b)]
  | (k, v) :: l, a, b =>
    if a < k then (if b = unwrittenByte then (k, v) :: l else (a, b) :: (k, v) :: l)
    else if a = k then (if b = unwrittenByte then l else (a, b) :: l)
    else (k, v) :: cellPut l a b

/-- Every address of a list of cells lies above a bound, rising, and no cell holds what an unlisted byte reads as. -/
def cellsAbove : Nat → List Host.Cell → Bool
  | _, [] => true
  | lo, (k, v) :: l => decide (lo ≤ k) && decide (v ≠ unwrittenByte) && cellsAbove (k + 1) l

/-- The list of empty words rises. -/
def wordsAbove : Nat → List Nat → Bool
  | _, [] => true
  | lo, k :: l => decide (lo ≤ k) && wordsAbove (k + 1) l

/-- The canonical form of memory: bytes and empty words in strictly rising order, no byte listed that reads as an
unlisted one. -/
def Mem.wf (m : Mem) : Bool := cellsAbove 0 m.cells && wordsAbove 0 m.empty

/-- One byte of memory. -/
def Mem.byte (m : Mem) (a : Nat) : Byte := cellAt m.cells a

/-- Memory with one byte written. -/
def Mem.setByte (m : Mem) (a : Nat) (b : Byte) : Mem := { m with cells := cellPut m.cells a b }

/-- The number in `n` bytes at an address, little-endian (R1). -/
def Mem.read (m : Mem) (a : Nat) : Nat → Nat
  | 0 => 0
  | n + 1 => (m.byte a).toNat + 256 * Mem.read m (a + 1) n

/-- Memory with a number written to `n` bytes, little-endian (R1). -/
def Mem.write (m : Mem) (a : Nat) : Nat → Nat → Mem
  | 0, _ => m
  | n + 1, v => Mem.write (m.setByte a (BitVec.ofNat 8 v)) (a + 1) n (v / 256)

/-! ### Full-empty bits (R17, R210) -/

/-- The list of empty words with one added. -/
def wordAdd : List Nat → Nat → List Nat
  | [], w => [w]
  | k :: l, w => if w < k then w :: k :: l else if w = k then k :: l else k :: wordAdd l w

/-- Whether the 8-byte word that holds an address is full. -/
def Mem.full (m : Mem) (a : Nat) : Bool := !m.empty.contains (a / 8)

/-- Memory with the words of a range of bytes set full. -/
def Mem.setFull (m : Mem) (a n : Nat) : Mem :=
  { m with empty := m.empty.filter (fun w => !(decide (a / 8 ≤ w) && decide (8 * w < a + n))) }

/-- Memory with `n` words from an address set empty. -/
def Mem.setEmpty (m : Mem) (a : Nat) : Nat → Mem
  | 0 => m
  | n + 1 => Mem.setEmpty { m with empty := wordAdd m.empty (a / 8) } (a + 8) n

/-! ### Error marks (R436, R216) -/

/-- The marks that touch a range of bytes. -/
def marksIn (m : Mem) (a n : Nat) : List EccMark :=
  m.marks.filter (fun x => decide (a / 8 ≤ x.word) && decide (8 * x.word < a + n))

/-- Whether a read of a range finds uncorrectable data. -/
def Mem.bad (m : Mem) (a n : Nat) : Bool := (marksIn m a n).any (fun x => x.uncorrectable)

/-- Memory without the marks of a range: a write ends them. -/
def Mem.clearMarks (m : Mem) (a n : Nat) : Mem :=
  { m with marks := m.marks.filter (fun x => !(decide (a / 8 ≤ x.word) && decide (8 * x.word < a + n))) }

/-! ### Lines -/

/-- The 64 bytes of a line. -/
def Mem.line (m : Mem) (l : Nat) : LineData := BitVec.ofNat 512 (m.read (64 * l) 64)

/-- Memory with the data of a line brought home: what was stored to it has ended its words' marks already (R436). -/
def Mem.setLine (m : Mem) (l : Nat) (d : LineData) : Mem := m.write (64 * l) 64 d.toNat

/-- `n` bytes of a line from an offset. -/
def lineGet (d : LineData) (o n : Nat) : Nat := (d.toNat >>> (8 * o)) % 2 ^ (8 * n)

/-- A line with `n` bytes written from an offset. -/
def lineSet (d : LineData) (o n v : Nat) : LineData :=
  let mask := (2 ^ (8 * n) - 1) <<< (8 * o)
  (d &&& ~~~(BitVec.ofNat 512 mask)) ||| BitVec.ofNat 512 ((v % 2 ^ (8 * n)) <<< (8 * o))

/-! ### The physical map (R18 to R21) -/

def hbmBytes : Nat := 0x80_0000_0000
def windowBase : Nat := 0x100_0000_0000
def windowEnd : Nat := 0x100_0200_0000
def hostBase : Nat := 0x4000_0000_0000
def hostEnd : Nat := 0x8000_0000_0000
def peerBase : Nat := 0x8_0000_0000_0000
def peerEnd : Nat := 0x10_0000_0000_0000

/-- Where the model keeps the store of the headland of a die, which has no physical address (R16). -/
def headlandStore (die : Nat) : Nat := peerEnd + die * 0x4_0000

/-- The ranges of R19. -/
inductive Range where
  | hbm | window | host | peer | unmapped
  deriving DecidableEq, Repr

/-- The range that holds a physical address (R19). -/
def rangeOf (a : Nat) : Range :=
  if a < hbmBytes then .hbm
  else if windowBase ≤ a && a < windowEnd then .window
  else if hostBase ≤ a && a < hostEnd then .host
  else if peerBase ≤ a && a < peerEnd then .peer
  else .unmapped

/-- Whether a range of bytes lies wholly in one range of R19. -/
def wholly (r : Range) (a n : Nat) : Bool :=
  rangeOf a == r && (n == 0 || rangeOf (a + n - 1) == r)

/-- The home slice of a physical address outside the plot-store windows (R18). -/
def sliceOf (a : Nat) : Nat := (a / 64 % 64) ^^^ (a / 4096 % 64)

/-- The base die of a home slice, wherever the line comes from (R18). -/
def sliceDie (a : Nat) : Nat := sliceOf a / 16

/-- The HBM stack of a physical address in the HBM range, and the base die that it is wired to (R18). -/
def stackOf (a : Nat) : Nat := (a / 256 % 8) ^^^ (a / 2048 % 8)
def stackDie (a : Nat) : Nat := stackOf a / 2

/-- The plot whose store holds a window address (R19). -/
def storeOf (a : Nat) : Nat := (a - windowBase) / 0x10_0000

/-- The home of an address: its L2 slice, or 64 more than the plot whose store holds it (R18, R210). -/
def homeOf (a : Nat) : Nat := if rangeOf a = .window then 64 + storeOf a else sliceOf a

/-- Where a plot-store offset of a plot or headland stands in memory (R16, R19). -/
def storeAddr (p o : Nat) : Nat := if p < 32 then windowBase + p * 0x10_0000 + o else headlandStore (p - 32) + o

/-- The bytes of the store of a plot or headland (R16, R17). -/
def storeBytes (p : Nat) : Nat := if p < 32 then 0x10_0000 else 0x4_0000

end Sys2Proof.Machine
end

