-- ==== Sys2Proof/Machine/ContextRegs.lean ====
section
/-! DEFINITION. The registers of a context as a write leaves them (13_accumulator.md R322, 19_context.md R411). -/
namespace Sys2Proof.Machine

/-- CTXCFG after a write: a user context leaves EVE, EVV, PMU and INJ as they are (R411). -/
def newCfg (user : Bool) (old v : Word) : Word :=
  let mask : Word := if user then 0xF0_0001 else 0xF0_FFFD
  (old &&& ~~~mask) ||| (v &&& mask)

/-- A tolerance register as a write leaves it (R322). -/
def clampTolerance (v : Word) : Word :=
  BitVec.ofNat 64 (min 149 (v.extractLsb' 8 8).toNat * 256 + min 24 (v.extractLsb' 0 5).toNat)

/-- The registers of a context after a write of one by its number; a number that names none that can be written changes nothing, as
CTOL_INT (R322, R410). The model's choice (assumption 53): the reserved bits of PTROOT, which R442 makes writable and a fault of a walk, are
stored and read back, though R6 has reserved bits read as zero. -/
def writeCtxRegs (user : Bool) (x : CtxRegs) (r : Nat) (v : Word) : CtxRegs :=
  match r with
  | 0x200 => { x with cfg := newCfg user x.cfg v }
  | 0x201 => { x with seed := v }
  | 0x202 => { x with psva := v }
  | 0x203 => { x with slc := v }
  | 0x204 => { x with stl := v }
  | 0x208 => { x with ptroot := v }
  | 0x209 => { x with spbase := v }
  | 0x20A => { x with spsize := v }
  | 0x20B => { x with svbase := v }
  | 0x20C => { x with recbase := v }
  | 0x20D => { x with recsize := v }
  | 0x20E => { x with recpos := v }
  | 0x220 => { x with ctolF16 := clampTolerance v }
  | 0x221 => { x with ctolBf16 := clampTolerance v }
  | 0x222 => { x with ctolBps := clampTolerance v }
  | _ => x

/-- A register of a context by its number; one that holds no register reads as zero (R410). -/
def readCtxRegs (x : CtxRegs) (r : Nat) : Word :=
  match r with
  | 0x200 => x.cfg
  | 0x201 => x.seed
  | 0x202 => x.psva
  | 0x203 => x.slc
  | 0x204 => x.stl
  | 0x208 => x.ptroot
  | 0x209 => x.spbase
  | 0x20A => x.spsize
  | 0x20B => x.svbase
  | 0x20C => x.recbase
  | 0x20D => x.recsize
  | 0x20E => x.recpos
  | 0x210 => x.csec.w0
  | 0x211 => x.csec.w1
  | 0x212 => x.csec.w2
  | 0x213 => x.csec.w3
  | 0x220 => x.ctolF16
  | 0x221 => x.ctolBf16
  | 0x222 => x.ctolBps
  | 0x223 => x.ctolInt
  | _ => 0

/-- The number of the tolerance register that a class names (R322). -/
def toleranceReg (k : TolCls) : Nat :=
  match k with
  | .f16 => 0x220
  | .bf16 => 0x221
  | .bps => 0x222
  | .int => 0x223

end Sys2Proof.Machine
end

