-- ==== Sys2Proof/Config.lean ====
section
/-! DEFINITION. What the manual leaves to the implementation or leaves open, as constants without a body: nothing
in Lean can evaluate them or prove a value of them. The assumption log names each. -/
namespace Sys2Proof.Config

/-- Free values (assumption 6): the n-th value that the manual leaves open, for a counter that the state holds. -/
opaque freeWord : Nat → BitVec 64

/-- The L1 set of a line, one of 256 (assumption 10): the manual gives the number of sets and ways (R17) and no index. -/
opaque l1Set : Nat → BitVec 8

/-- The set of a line within its L2 slice (assumption 40): the manual gives 16 ways of 64-byte lines in 4 MiB (R17), 4,096
sets, and no index. -/
opaque l2Set : Nat → BitVec 12

/-- A byte of a peer's memory as a unit of this device finds it, for the counter of free values and its address (assumption
12): what a peer holds is an input. -/
opaque peerByte : Nat → Nat → BitVec 8

/-- The bytes that one spilled item takes (assumption 10): the layout of the spill area is private to the stepping
(R422). -/
opaque spillItem : Nat

/-- The body of a record of a plot section, in units of 16 bytes, for its TYPE and the counter of free values (assumption 10):
the layout of the bodies is private to the stepping (R421). -/
opaque recordLines : Nat → Nat → BitVec 16

/-- The SM2 public key that a key slot holds, by its coordinates, if it holds one (R395; assumption 9). -/
opaque keySlot : BitVec 3 → Option (Nat × Nat)

/-- The SM3 digest that the fuses hold for a key slot; blank fuses hold none (R395; assumption 9). -/
opaque fuseDigest : BitVec 3 → Option (BitVec 256)

/-- Whether the address producers of two memory operations, at two places of a block of a Slaloth image, allow one access of
consecutive elements (R403; assumption 11): how the structural verifier judges it is not stated. -/
opaque addressesJoin : List Nat → Nat → Nat → Nat → Bool

/-- Whether one access of a translated image, given by its block and slot, stands below another in address, where their address
producers are not one (R403; assumption 11): how the structural verifier judges it is not stated. -/
opaque addressesRise : Nat → Nat → Nat → Nat → Bool

/-- The SM2 signature of the device identity key over the parts of an entry of the translation cache (R399; assumption 9): the key is
the root sequencer's own. -/
opaque identitySignature : List Nat → BitVec 512

end Sys2Proof.Config
end

