-- ==== Sys2Proof/Decode.lean ====
section
/-! DEFINITION. From op words and configuration words to instructions and back (R60 to R75, 03_encoding.md, and
the field tables of the chapters that own the instructions). The decoder is total: it names what it refuses. The
encoder is written from the same tables, and the decoder takes a word only where the encoder gives that word
back, so every bit that no description assigns must be zero (R63, R68). -/
namespace Sys2Proof

/-- Why a pair of words is no instruction. -/
inductive DecodeError where
  /-- OPC is 0x000 or reserved (R74). -/
  | opcode (code : BitVec 9)
  /-- TY is 12 to 15 (R28). -/
  | elementType (code : BitVec 4)
  /-- IM is not zero or one-hot (R60). -/
  | immediate (code : BitVec 3)
  /-- PR is 0b11 (R60). -/
  | predicate
  /-- A target with V = 0 holds a nonzero SLOT or PORT (R63). -/
  | deadTarget (n : Nat)
  /-- A coded field of XF holds a reserved code, or a bit of XF that the description does not assign is set
  (R7, R68). -/
  | opFields (xf : BitVec 16)
  /-- The words are not of the length of an instruction (R55). -/
  | length (nbits : Nat)
  deriving DecidableEq, Repr


/-- The code of each Rnd (R39). -/
def rndCode : Rnd → BitVec 3
  | .rne => 0
  | .rtz => 1
  | .rup => 2
  | .rdn => 3
  | .rna => 4
  | .sr => 5

/-- The Rnd a code names; a reserved code names none (R7). -/
def rndOfCode (c : BitVec 3) : Option Rnd :=
  [.rne, .rtz, .rup, .rdn, .rna, .sr].find? (fun x => rndCode x == c)

/-- The code of each TagMode (R112). -/
def tagModeCode : TagMode → BitVec 2
  | .repl => 0
  | .push => 1
  | .pop => 2
  | .set => 3

/-- The TagMode a code names; a reserved code names none (R7). -/
def tagModeOfCode (c : BitVec 2) : Option TagMode :=
  [.repl, .push, .pop, .set].find? (fun x => tagModeCode x == c)

/-- The code of each ThrdSel (R113). -/
def thrdSelCode : ThrdSel → BitVec 2
  | .thread => 0
  | .gslot => 1
  | .wave => 2
  | .count => 3

/-- The ThrdSel a code names; a reserved code names none (R7). -/
def thrdSelOfCode (c : BitVec 2) : Option ThrdSel :=
  [.thread, .gslot, .wave, .count].find? (fun x => thrdSelCode x == c)

/-- The code of each CmpCond (R124). -/
def cmpCondCode : CmpCond → BitVec 3
  | .eq => 0
  | .ne => 1
  | .lt => 2
  | .le => 3
  | .gt => 4
  | .ge => 5
  | .tst => 6

/-- The CmpCond a code names; a reserved code names none (R7). -/
def cmpCondOfCode (c : BitVec 3) : Option CmpCond :=
  [.eq, .ne, .lt, .le, .gt, .ge, .tst].find? (fun x => cmpCondCode x == c)

/-- The code of each FloatCond (R152). -/
def floatCondCode : FloatCond → BitVec 3
  | .eq => 0
  | .ne => 1
  | .lt => 2
  | .le => 3
  | .gt => 4
  | .ge => 5
  | .un => 6
  | .ord => 7

/-- The FloatCond a code names; a reserved code names none (R7). -/
def floatCondOfCode (c : BitVec 3) : Option FloatCond :=
  [.eq, .ne, .lt, .le, .gt, .ge, .un, .ord].find? (fun x => floatCondCode x == c)

/-- The code of each FoldOp (R142). -/
def foldOpCode : FoldOp → BitVec 3
  | .add => 0
  | .min => 1
  | .max => 2
  | .and => 3
  | .or => 4
  | .xor => 5
  | .adds => 6

/-- The FoldOp a code names; a reserved code names none (R7). -/
def foldOpOfCode (c : BitVec 3) : Option FoldOp :=
  [.add, .min, .max, .and, .or, .xor, .adds].find? (fun x => foldOpCode x == c)

/-- The code of each Ty (R28). -/
def tyCode : Ty → BitVec 4
  | .s64 => 0
  | .s32 => 1
  | .s16 => 2
  | .s8 => 3
  | .w64 => 4
  | .w32 => 5
  | .w16 => 6
  | .w8 => 7
  | .f32 => 8
  | .f16 => 9
  | .bf16 => 10
  | .lane => 11

/-- The Ty a code names; a reserved code names none (R7). -/
def tyOfCode (c : BitVec 4) : Option Ty :=
  [.s64, .s32, .s16, .s8, .w64, .w32, .w16, .w8, .f32, .f16, .bf16, .lane].find? (fun x => tyCode x == c)

/-- The code of each CachePol (R67). -/
def cachePolCode : CachePol → BitVec 2
  | .normal => 0
  | .stream => 1
  | .l2keep => 2
  | .l2first => 3

/-- The CachePol a code names; a reserved code names none (R7). -/
def cachePolOfCode (c : BitVec 2) : Option CachePol :=
  [.normal, .stream, .l2keep, .l2first].find? (fun x => cachePolCode x == c)

/-- The code of each Scope (R67). -/
def scopeCode : Scope → BitVec 2
  | .plot => 0
  | .device => 1
  | .system => 2
  | .none => 3

/-- The Scope a code names; a reserved code names none (R7). -/
def scopeOfCode (c : BitVec 2) : Option Scope :=
  [.plot, .device, .system, .none].find? (fun x => scopeCode x == c)

/-- The code of each MemOrd (R67). -/
def memOrdCode : MemOrd → BitVec 2
  | .plain => 0
  | .acquire => 1
  | .release => 2
  | .acqrel => 3

/-- The MemOrd a code names; a reserved code names none (R7). -/
def memOrdOfCode (c : BitVec 2) : Option MemOrd :=
  [.plain, .acquire, .release, .acqrel].find? (fun x => memOrdCode x == c)

/-- The code of each CnwrOp (R226). -/
def cnwrOpCode : CnwrOp → BitVec 2
  | .hold => 0
  | .seek => 1
  | .go => 2
  | .snap => 3

/-- The CnwrOp a code names; a reserved code names none (R7). -/
def cnwrOpOfCode (c : BitVec 2) : Option CnwrOp :=
  [.hold, .seek, .go, .snap].find? (fun x => cnwrOpCode x == c)

/-- The code of each RunCls (R324). -/
def runClsCode : RunCls → BitVec 2
  | .unscaled => 0
  | .scaled => 1
  | .f16 => 2
  | .bf16 => 3

/-- The RunCls a code names; a reserved code names none (R7). -/
def runClsOfCode (c : BitVec 2) : Option RunCls :=
  [.unscaled, .scaled, .f16, .bf16].find? (fun x => runClsCode x == c)

/-- The code of each TolCls (R324). -/
def tolClsCode : TolCls → BitVec 2
  | .f16 => 0
  | .bf16 => 1
  | .bps => 2
  | .int => 3

/-- The TolCls a code names; a reserved code names none (R7). -/
def tolClsOfCode (c : BitVec 2) : Option TolCls :=
  [.f16, .bf16, .bps, .int].find? (fun x => tolClsCode x == c)

/-- The code of each OutFmt (R324). -/
def outFmtCode : OutFmt → BitVec 2
  | .native => 0
  | .f16 => 1
  | .bf16 => 2
  | .f32 => 3

/-- The OutFmt a code names; a reserved code names none (R7). -/
def outFmtOfCode (c : BitVec 2) : Option OutFmt :=
  [.native, .f16, .bf16, .f32].find? (fun x => outFmtCode x == c)

/-- The code of each MrdSel (R334). -/
def mrdSelCode : MrdSel → BitVec 3
  | .data => 0
  | .cc => 1
  | .cr => 2
  | .sum => 3
  | .status => 4

/-- The MrdSel a code names; a reserved code names none (R7). -/
def mrdSelOfCode (c : BitVec 3) : Option MrdSel :=
  [.data, .cc, .cr, .sum, .status].find? (fun x => mrdSelCode x == c)

/-- The code of each GrexOp (R346). -/
def grexOpCode : GrexOp → BitVec 2
  | .hnd => 0
  | .exit => 1
  | .gnum => 2

/-- The GrexOp a code names; a reserved code names none (R7). -/
def grexOpOfCode (c : BitVec 2) : Option GrexOp :=
  [.hnd, .exit, .gnum].find? (fun x => grexOpCode x == c)

/-- The code of each HaltOp (R413). -/
def haltOpCode : HaltOp → BitVec 2
  | .preempt => 0
  | .freeze => 1
  | .kill => 2

/-- The HaltOp a code names; a reserved code names none (R7). -/
def haltOpOfCode (c : BitVec 2) : Option HaltOp :=
  [.preempt, .freeze, .kill].find? (fun x => haltOpCode x == c)

/-- The code of each RrecOp (R413). -/
def rrecOpCode : RrecOp → BitVec 2
  | .norecord => 0
  | .record => 1
  | .replay => 2
  | .status => 3

/-- The RrecOp a code names; a reserved code names none (R7). -/
def rrecOpOfCode (c : BitVec 2) : Option RrecOp :=
  [.norecord, .record, .replay, .status].find? (fun x => rrecOpCode x == c)

/-- The code of each InjKind (R436). -/
def injKindCode : InjKind → BitVec 3
  | .dat => 0
  | .ccol => 1
  | .crow => 2
  | .ecc1 => 3
  | .ecc2 => 4

/-- The InjKind a code names; a reserved code names none (R7). -/
def injKindOfCode (c : BitVec 3) : Option InjKind :=
  [.dat, .ccol, .crow, .ecc1, .ecc2].find? (fun x => injKindCode x == c)

/-- The code of each TlbiMode (R459). -/
def tlbiModeCode : TlbiMode → BitVec 2
  | .ctx => 0
  | .va => 1
  | .all => 2

/-- The TlbiMode a code names; a reserved code names none (R7). -/
def tlbiModeOfCode (c : BitVec 2) : Option TlbiMode :=
  [.ctx, .va, .all].find? (fun x => tlbiModeCode x == c)

/-- The code of each ImtrOp (R479). -/
def imtrOpCode : ImtrOp → BitVec 2
  | .set => 0
  | .rd => 1
  | .clr => 2

/-- The ImtrOp a code names; a reserved code names none (R7). -/
def imtrOpOfCode (c : BitVec 2) : Option ImtrOp :=
  [.set, .rd, .clr].find? (fun x => imtrOpCode x == c)

/-- The code of each Predicate (R60). -/
def predicateCode : Predicate → BitVec 2
  | .always => 0
  | .ifTrue => 1
  | .ifFalse => 2

/-- The Predicate a code names; a reserved code names none (R7). -/
def predicateOfCode (c : BitVec 2) : Option Predicate :=
  [.always, .ifTrue, .ifFalse].find? (fun x => predicateCode x == c)

/-- The code of IM (R60): one bit for each port. -/
def immCode : Imm → BitVec 3
  | .none => 0
  | .port0 => 1
  | .port1 => 2
  | .port2 => 4

/-- The Imm a code names (R60). -/
def immOfCode (c : BitVec 3) : Option Imm :=
  [.none, .port0, .port1, .port2].find? (fun x => immCode x == c)

/-- The code of each opcode (R73). -/
def opcCode : Opc → BitVec 9
  | .mov => 0x001
  | .sink => 0x002
  | .steer => 0x003
  | .select => 0x004
  | .gate => 0x005
  | .const => 0x006
  | .exit => 0x007
  | .call => 0x008
  | .ret => 0x009
  | .lpent => 0x00A
  | .lpnext => 0x00B
  | .lpexit => 0x00C
  | .tagrd => 0x00D
  | .tagwr => 0x00E
  | .thrd => 0x00F
  | .reord => 0x010
  | .join => 0x011
  | .argwr => 0x012
  | .add => 0x020
  | .sub => 0x021
  | .mul => 0x022
  | .mulh => 0x023
  | .mad => 0x024
  | .div => 0x025
  | .rem => 0x026
  | .neg => 0x027
  | .abs => 0x028
  | .min => 0x029
  | .max => 0x02A
  | .and => 0x02B
  | .or => 0x02C
  | .xor => 0x02D
  | .andn => 0x02E
  | .shl => 0x02F
  | .shr => 0x030
  | .sar => 0x031
  | .rotl => 0x032
  | .cmp => 0x033
  | .clz => 0x034
  | .ctz => 0x035
  | .popc => 0x036
  | .brev => 0x037
  | .sext => 0x038
  | .zext => 0x039
  | .adds => 0x03A
  | .subs => 0x03B
  | .lea => 0x03C
  | .lut4 => 0x060
  | .bext => 0x061
  | .bins => 0x062
  | .bsplit => 0x063
  | .bjoin => 0x064
  | .dec => 0x065
  | .pext => 0x066
  | .pdep => 0x067
  | .bsel => 0x068
  | .pkb => 0x080
  | .pkm => 0x081
  | .pks => 0x082
  | .pkx => 0x083
  | .pki => 0x084
  | .pkr => 0x085
  | .pkp => 0x086
  | .pkl => 0x087
  | .pkscan => 0x088
  | .fadd => 0x0A0
  | .fsub => 0x0A1
  | .fmul => 0x0A2
  | .fma => 0x0A3
  | .fmin => 0x0A4
  | .fmax => 0x0A5
  | .fcmp => 0x0A6
  | .fabs => 0x0A7
  | .fneg => 0x0A8
  | .fcls => 0x0A9
  | .frcp => 0x0AA
  | .frsq => 0x0AB
  | .fex2 => 0x0AC
  | .flg2 => 0x0AD
  | .fsin => 0x0AE
  | .fcos => 0x0AF
  | .ftanh => 0x0B0
  | .fdiv => 0x0B1
  | .fsqrt => 0x0B2
  | .cvt => 0x0B3
  | .frnd => 0x0B4
  | .fscl => 0x0B5
  | .wad => 0x0E0
  | .plgat => 0x0E1
  | .plsct => 0x0E2
  | .qnt => 0x0E3
  | .dqnt => 0x0E4
  | .bsc => 0x0E5
  | .ld => 0x100
  | .st => 0x101
  | .lds => 0x102
  | .stf => 0x103
  | .clre => 0x104
  | .mnop => 0x105
  | .wadv => 0x106
  | .fence => 0x107
  | .atom => 0x108
  | .red => 0x109
  | .pref => 0x10A
  | .cctl => 0x10B
  | .ldg => 0x10C
  | .sts => 0x10D
  | .cnt => 0x140
  | .cchn => 0x141
  | .agen => 0x142
  | .strl => 0x143
  | .strs => 0x144
  | .ctks => 0x145
  | .ctkw => 0x146
  | .cnrd => 0x147
  | .cnwr => 0x148
  | .cbini => 0x160
  | .cbres => 0x161
  | .cbcom => 0x162
  | .cbacq => 0x163
  | .cbrel => 0x164
  | .cbst => 0x165
  | .cpy => 0x166
  | .cpy2 => 0x167
  | .cpycb => 0x168
  | .cpyq => 0x169
  | .pmini => 0x16A
  | .pment => 0x16B
  | .pmex => 0x16C
  | .frq => 0x16D
  | .frl => 0x16E
  | .mwld => 0x180
  | .mwsw => 0x181
  | .mma => 0x183
  | .mgat => 0x184
  | .mrep => 0x185
  | .mfil => 0x18E
  | .mclr => 0x182
  | .mwr => 0x18C
  | .mchk => 0x187
  | .mdrn => 0x186
  | .mst => 0x18D
  | .mloc => 0x188
  | .mfix => 0x189
  | .mrty => 0x18A
  | .mrd => 0x18B
  | .mtol => 0x18F
  | .grex => 0x1C3
  | .post => 0x1C7
  | .recv => 0x1C8
  | .bari => 0x1C4
  | .bar => 0x1C5
  | .barq => 0x1C6
  | .sow => 0x1C0
  | .kdep => 0x1C1
  | .kdec => 0x1C2
  | .yld => 0x1C9
  | .srd => 0x1E0
  | .swr => 0x1E1
  | .trap => 0x1E2
  | .hcse => 0x1E3
  | .hres => 0x1E4
  | .hkil => 0x1E5
  | .halt => 0x1EA
  | .rrec => 0x1EB
  | .minj => 0x1E9
  | .tlbi => 0x1E6
  | .pwrq => 0x1E7
  | .imtr => 0x1E8

/-- Every opcode, in the order of R73's codes within each family. -/
def allOpcs : List Opc :=
  [Opc.mov, Opc.sink, Opc.steer, Opc.select, Opc.gate, Opc.const, Opc.exit, Opc.call, Opc.ret, Opc.lpent,
    Opc.lpnext, Opc.lpexit, Opc.tagrd] ++
  [Opc.tagwr, Opc.thrd, Opc.reord, Opc.join, Opc.argwr, Opc.add, Opc.sub, Opc.mul, Opc.mulh, Opc.mad, Opc.div,
    Opc.rem, Opc.neg] ++
  [Opc.abs, Opc.min, Opc.max, Opc.and, Opc.or, Opc.xor, Opc.andn, Opc.shl, Opc.shr, Opc.sar, Opc.rotl, Opc.cmp,
    Opc.clz] ++
  [Opc.ctz, Opc.popc, Opc.brev, Opc.sext, Opc.zext, Opc.adds, Opc.subs, Opc.lea, Opc.lut4, Opc.bext, Opc.bins,
    Opc.bsplit, Opc.bjoin] ++
  [Opc.dec, Opc.pext, Opc.pdep, Opc.bsel, Opc.pkb, Opc.pkm, Opc.pks, Opc.pkx, Opc.pki, Opc.pkr, Opc.pkp, Opc.pkl,
    Opc.pkscan] ++
  [Opc.fadd, Opc.fsub, Opc.fmul, Opc.fma, Opc.fmin, Opc.fmax, Opc.fcmp, Opc.fabs, Opc.fneg, Opc.fcls, Opc.frcp,
    Opc.frsq, Opc.fex2] ++
  [Opc.flg2, Opc.fsin, Opc.fcos, Opc.ftanh, Opc.fdiv, Opc.fsqrt, Opc.cvt, Opc.frnd, Opc.fscl, Opc.wad, Opc.plgat,
    Opc.plsct, Opc.qnt] ++
  [Opc.dqnt, Opc.bsc, Opc.ld, Opc.st, Opc.lds, Opc.stf, Opc.clre, Opc.mnop, Opc.wadv, Opc.fence, Opc.atom, Opc.red,
    Opc.pref] ++
  [Opc.cctl, Opc.ldg, Opc.sts, Opc.cnt, Opc.cchn, Opc.agen, Opc.strl, Opc.strs, Opc.ctks, Opc.ctkw, Opc.cnrd,
    Opc.cnwr, Opc.cbini] ++
  [Opc.cbres, Opc.cbcom, Opc.cbacq, Opc.cbrel, Opc.cbst, Opc.cpy, Opc.cpy2, Opc.cpycb, Opc.cpyq, Opc.pmini,
    Opc.pment, Opc.pmex, Opc.frq] ++
  [Opc.frl, Opc.mwld, Opc.mwsw, Opc.mma, Opc.mgat, Opc.mrep, Opc.mfil, Opc.mclr, Opc.mwr, Opc.mchk, Opc.mdrn,
    Opc.mst, Opc.mloc] ++
  [Opc.mfix, Opc.mrty, Opc.mrd, Opc.mtol, Opc.grex, Opc.post, Opc.recv, Opc.bari, Opc.bar, Opc.barq, Opc.sow,
    Opc.kdep, Opc.kdec] ++
  [Opc.yld, Opc.srd, Opc.swr, Opc.trap, Opc.hcse, Opc.hres, Opc.hkil, Opc.halt, Opc.rrec, Opc.minj, Opc.tlbi,
    Opc.pwrq, Opc.imtr]

/-- The opcode a code names; illegal and reserved codes name none (R74). -/
def opcOfCode (c : BitVec 9) : Option Opc := allOpcs.find? (fun o => opcCode o == c)

/-- XF of the memory class as a structure (R67). -/
def memXfOf (xf : BitVec 16) : Option MemXf := do
  let cp ← cachePolOfCode (xf.extractLsb' 5 2)
  let scope ← scopeOfCode (xf.extractLsb' 2 2)
  let ord ← memOrdOfCode (xf.extractLsb' 0 2)
  some (MemXf.mk (xf.extractLsb' 8 4) (xf.getLsbD 7) cp (xf.getLsbD 4) scope ord)

/-- XF of the memory class as bits (R67). -/
def memXfBits (m : MemXf) : BitVec 16 :=
  0#4 ++ m.aop ++ BitVec.ofBool m.take ++ cachePolCode m.cp ++ BitVec.ofBool m.done ++ scopeCode m.scope ++ memOrdCode m.ord

/-- The fields that the description of an opcode reads from XF (its own chapter), with no check that the other
bits are zero; none where a coded field holds a reserved code (R7). -/
def readFields (o : Opc) (h : Head) (xf : BitVec 16) : Option Instr :=
  match o with
  | .mov => some (.mov h)
  | .sink => some (.sink h)
  | .steer => some (Instr.steer h (xf.extractLsb' 0 3))
  | .select => some (.select h)
  | .gate => some (.gate h)
  | .const => some (.const h)
  | .exit => some (.exit h)
  | .call => some (Instr.call h (xf.getLsbD 15) (xf.extractLsb' 0 15))
  | .ret => some (.ret h)
  | .lpent => some (Instr.lpent h (xf.extractLsb' 0 6))
  | .lpnext => some (Instr.lpnext h (xf.extractLsb' 0 6))
  | .lpexit => some (Instr.lpexit h (xf.extractLsb' 0 6))
  | .tagrd => some (Instr.tagrd h (xf.extractLsb' 6 6) (xf.extractLsb' 0 6))
  | .tagwr => (tagModeOfCode (xf.extractLsb' 12 2)).map (fun mode => Instr.tagwr h mode (xf.extractLsb' 0 6))
  | .thrd => (thrdSelOfCode (xf.extractLsb' 0 2)).map (fun sel => Instr.thrd h sel)
  | .reord => some (.reord h)
  | .join => some (Instr.join h (xf.getLsbD 0))
  | .argwr => some (.argwr h)
  | .add => some (.add h)
  | .sub => some (.sub h)
  | .mul => some (.mul h)
  | .mulh => some (.mulh h)
  | .mad => some (.mad h)
  | .div => some (.div h)
  | .rem => some (.rem h)
  | .neg => some (.neg h)
  | .abs => some (.abs h)
  | .min => some (.min h)
  | .max => some (.max h)
  | .and => some (.and h)
  | .or => some (.or h)
  | .xor => some (.xor h)
  | .andn => some (.andn h)
  | .shl => some (.shl h)
  | .shr => some (.shr h)
  | .sar => some (.sar h)
  | .rotl => some (.rotl h)
  | .cmp => (cmpCondOfCode (xf.extractLsb' 0 3)).map (fun cc => Instr.cmp h cc)
  | .clz => some (.clz h)
  | .ctz => some (.ctz h)
  | .popc => some (.popc h)
  | .brev => some (.brev h)
  | .sext => some (.sext h)
  | .zext => some (.zext h)
  | .adds => some (.adds h)
  | .subs => some (.subs h)
  | .lea => some (Instr.lea h (xf.extractLsb' 0 3))
  | .lut4 => some (Instr.lut4 h (xf.extractLsb' 0 16))
  | .bext => some (Instr.bext h (xf.getLsbD 13) (xf.extractLsb' 6 7) (xf.extractLsb' 0 6))
  | .bins => some (Instr.bins h (xf.extractLsb' 6 7) (xf.extractLsb' 0 6))
  | .bsplit => some (Instr.bsplit h (xf.getLsbD 13) (xf.extractLsb' 0 6))
  | .bjoin => some (Instr.bjoin h (xf.extractLsb' 0 6))
  | .dec => some (Instr.dec h (xf.extractLsb' 8 8) (xf.extractLsb' 0 3))
  | .pext => some (.pext h)
  | .pdep => some (.pdep h)
  | .bsel => some (.bsel h)
  | .pkb => some (Instr.pkb h (xf.extractLsb' 3 3) (xf.extractLsb' 0 3))
  | .pkm => some (.pkm h)
  | .pks => some (Instr.pks h (xf.extractLsb' 0 3))
  | .pkx => some (.pkx h)
  | .pki => some (.pki h)
  | .pkr => (foldOpOfCode (xf.extractLsb' 0 3)).map (fun op => Instr.pkr h op)
  | .pkp => some (Instr.pkp h (xf.getLsbD 3) (xf.extractLsb' 0 3))
  | .pkl => some (Instr.pkl h (xf.extractLsb' 0 3))
  | .pkscan => (foldOpOfCode (xf.extractLsb' 0 3)).map (fun op => Instr.pkscan h (xf.getLsbD 3) op)
  | .fadd => (rndOfCode (xf.extractLsb' 0 3)).map (fun rm => Instr.fadd h rm)
  | .fsub => (rndOfCode (xf.extractLsb' 0 3)).map (fun rm => Instr.fsub h rm)
  | .fmul => (rndOfCode (xf.extractLsb' 0 3)).map (fun rm => Instr.fmul h rm)
  | .fma => (rndOfCode (xf.extractLsb' 0 3)).map (fun rm => Instr.fma h rm)
  | .fmin => some (.fmin h)
  | .fmax => some (.fmax h)
  | .fcmp => (floatCondOfCode (xf.extractLsb' 3 3)).map (fun cc => Instr.fcmp h cc)
  | .fabs => some (.fabs h)
  | .fneg => some (.fneg h)
  | .fcls => some (Instr.fcls h (xf.extractLsb' 3 9))
  | .frcp => (rndOfCode (xf.extractLsb' 0 3)).map (fun rm => Instr.frcp h rm)
  | .frsq => (rndOfCode (xf.extractLsb' 0 3)).map (fun rm => Instr.frsq h rm)
  | .fex2 => (rndOfCode (xf.extractLsb' 0 3)).map (fun rm => Instr.fex2 h rm)
  | .flg2 => (rndOfCode (xf.extractLsb' 0 3)).map (fun rm => Instr.flg2 h rm)
  | .fsin => (rndOfCode (xf.extractLsb' 0 3)).map (fun rm => Instr.fsin h rm)
  | .fcos => (rndOfCode (xf.extractLsb' 0 3)).map (fun rm => Instr.fcos h rm)
  | .ftanh => (rndOfCode (xf.extractLsb' 0 3)).map (fun rm => Instr.ftanh h rm)
  | .fdiv => (rndOfCode (xf.extractLsb' 0 3)).map (fun rm => Instr.fdiv h rm)
  | .fsqrt => (rndOfCode (xf.extractLsb' 0 3)).map (fun rm => Instr.fsqrt h rm)
  | .cvt => do
    let sty ← tyOfCode (xf.extractLsb' 3 4)
    let rm ← rndOfCode (xf.extractLsb' 0 3)
    some (Instr.cvt h sty rm)
  | .frnd => (rndOfCode (xf.extractLsb' 0 3)).map (fun rm => Instr.frnd h rm)
  | .fscl => (rndOfCode (xf.extractLsb' 0 3)).map (fun rm => Instr.fscl h rm)
  | .wad => some (Instr.wad h (xf.extractLsb' 3 5))
  | .plgat => some (Instr.plgat h (xf.extractLsb' 3 5))
  | .plsct => some (Instr.plsct h (xf.extractLsb' 3 5))
  | .qnt => (rndOfCode (xf.extractLsb' 0 3)).map (fun rm => Instr.qnt h (xf.extractLsb' 3 5) rm)
  | .dqnt => (rndOfCode (xf.extractLsb' 0 3)).map (fun rm => Instr.dqnt h (xf.getLsbD 3) rm)
  | .bsc => (tyOfCode (xf.extractLsb' 3 4)).map (fun sty => Instr.bsc h sty)
  | .ld => (memXfOf xf).map (Instr.ld h)
  | .st => (memXfOf xf).map (Instr.st h)
  | .lds => (memXfOf xf).map (Instr.lds h)
  | .stf => (memXfOf xf).map (Instr.stf h)
  | .clre => (memXfOf xf).map (Instr.clre h)
  | .mnop => (memXfOf xf).map (Instr.mnop h)
  | .wadv => some (.wadv h)
  | .fence => (memXfOf xf).map (Instr.fence h)
  | .atom => (memXfOf xf).map (Instr.atom h)
  | .red => (memXfOf xf).map (Instr.red h)
  | .pref => (memXfOf xf).map (Instr.pref h)
  | .cctl => (memXfOf xf).map (Instr.cctl h)
  | .ldg => (memXfOf xf).map (Instr.ldg h)
  | .sts => (memXfOf xf).map (Instr.sts h)
  | .cnt => some (Instr.cnt h (xf.getLsbD 8) (xf.extractLsb' 6 2) (xf.extractLsb' 0 6))
  | .cchn => some (Instr.cchn h (xf.getLsbD 8) (xf.extractLsb' 6 2) (xf.extractLsb' 0 6))
  | .agen => some (.agen h)
  | .strl => do
    let cp ← cachePolOfCode (xf.extractLsb' 5 2)
    let scope ← scopeOfCode (xf.extractLsb' 2 2)
    some (Instr.strl h (xf.getLsbD 15) (xf.extractLsb' 12 3) (xf.extractLsb' 7 5) cp (xf.getLsbD 4) scope)
  | .strs => do
    let cp ← cachePolOfCode (xf.extractLsb' 5 2)
    let scope ← scopeOfCode (xf.extractLsb' 2 2)
    some (Instr.strs h cp (xf.getLsbD 4) scope)
  | .ctks => some (Instr.ctks h (xf.getLsbD 4) (xf.extractLsb' 0 4))
  | .ctkw => some (Instr.ctkw h (xf.extractLsb' 4 10) (xf.extractLsb' 0 4))
  | .cnrd => some (.cnrd h)
  | .cnwr => (cnwrOpOfCode (xf.extractLsb' 0 2)).map (fun op => Instr.cnwr h op)
  | .cbini => some (Instr.cbini h (xf.extractLsb' 0 4))
  | .cbres => some (Instr.cbres h (xf.getLsbD 4) (xf.extractLsb' 0 4))
  | .cbcom => some (Instr.cbcom h (xf.extractLsb' 0 4))
  | .cbacq => some (Instr.cbacq h (xf.getLsbD 4) (xf.extractLsb' 0 4))
  | .cbrel => some (Instr.cbrel h (xf.extractLsb' 0 4))
  | .cbst => some (Instr.cbst h (xf.extractLsb' 0 4))
  | .cpy => (scopeOfCode (xf.extractLsb' 2 2)).map (fun scope => Instr.cpy h (xf.getLsbD 4) scope)
  | .cpy2 => (scopeOfCode (xf.extractLsb' 2 2)).map (fun scope => Instr.cpy2 h (xf.getLsbD 4) scope)
  | .cpycb => some (Instr.cpycb h (xf.getLsbD 4) (xf.extractLsb' 0 4))
  | .cpyq => (scopeOfCode (xf.extractLsb' 2 2)).map (fun scope => Instr.cpyq h (xf.getLsbD 4) scope)
  | .pmini => some (.pmini h)
  | .pment => some (.pment h)
  | .pmex => some (.pmex h)
  | .frq => some (Instr.frq h (xf.getLsbD 0))
  | .frl => some (.frl h)
  | .mwld => some (Instr.mwld h (xf.getLsbD 0))
  | .mwsw => some (Instr.mwsw h (xf.getLsbD 0))
  | .mma => some (Instr.mma h (xf.extractLsb' 4 6) (xf.extractLsb' 0 3))
  | .mgat => some (Instr.mgat h (xf.extractLsb' 3 5))
  | .mrep => some (Instr.mrep h (xf.getLsbD 8))
  | .mfil => some (.mfil h)
  | .mclr => some (Instr.mclr h (xf.extractLsb' 0 3))
  | .mwr => (runClsOfCode (xf.extractLsb' 3 2)).map (fun cls => Instr.mwr h cls (xf.extractLsb' 0 3))
  | .mchk => some (Instr.mchk h (xf.extractLsb' 0 3))
  | .mdrn => do
    let scope ← scopeOfCode (xf.extractLsb' 10 2)
    let rm ← rndOfCode (xf.extractLsb' 6 3)
    let outf ← outFmtOfCode (xf.extractLsb' 3 2)
    some (Instr.mdrn h scope (xf.getLsbD 9) rm (xf.getLsbD 5) outf (xf.extractLsb' 0 3))
  | .mst => do
    let rm ← rndOfCode (xf.extractLsb' 6 3)
    let outf ← outFmtOfCode (xf.extractLsb' 3 2)
    some (Instr.mst h rm (xf.getLsbD 5) outf (xf.extractLsb' 0 3))
  | .mloc => some (.mloc h)
  | .mfix => some (.mfix h)
  | .mrty => some (.mrty h)
  | .mrd => (mrdSelOfCode (xf.extractLsb' 0 3)).map (fun sel => Instr.mrd h sel)
  | .mtol => (tolClsOfCode (xf.extractLsb' 0 2)).map (fun cls => Instr.mtol h cls)
  | .grex => (grexOpOfCode (xf.extractLsb' 0 2)).map (fun op => Instr.grex h op)
  | .post => some (Instr.post h (xf.getLsbD 2) (xf.extractLsb' 0 2))
  | .recv => some (Instr.recv h (xf.getLsbD 4) (xf.extractLsb' 0 2))
  | .bari => some (Instr.bari h (xf.extractLsb' 0 4))
  | .bar => some (Instr.bar h (xf.getLsbD 4) (xf.extractLsb' 0 4))
  | .barq => some (Instr.barq h (xf.extractLsb' 0 4))
  | .sow => some (.sow h)
  | .kdep => some (.kdep h)
  | .kdec => some (.kdec h)
  | .yld => some (.yld h)
  | .srd => some (Instr.srd h (xf.getLsbD 14) (xf.extractLsb' 12 2) (xf.extractLsb' 0 12))
  | .swr => some (Instr.swr h (xf.getLsbD 14) (xf.extractLsb' 12 2) (xf.extractLsb' 0 12))
  | .trap => some (Instr.trap h (xf.extractLsb' 0 7))
  | .hcse => some (.hcse h)
  | .hres => some (Instr.hres h (xf.getLsbD 0))
  | .hkil => some (.hkil h)
  | .halt => (haltOpOfCode (xf.extractLsb' 0 2)).map (fun op => Instr.halt h op)
  | .rrec => (rrecOpOfCode (xf.extractLsb' 0 2)).map (fun op => Instr.rrec h op)
  | .minj => (injKindOfCode (xf.extractLsb' 0 3)).map (fun kind => Instr.minj h kind)
  | .tlbi => (tlbiModeOfCode (xf.extractLsb' 0 2)).map (fun mode => Instr.tlbi h mode)
  | .pwrq => some (Instr.pwrq h (xf.getLsbD 4) (xf.extractLsb' 0 4))
  | .imtr => (imtrOpOfCode (xf.extractLsb' 0 2)).map (fun op => Instr.imtr h op)

/-- The opcode, the common fields and XF of an instruction: the parts of its op word (R60). The steps of the
hardware have none. -/
def parts : Instr → Option (Opc × Head × BitVec 16)
  | .mov h => some (.mov, h, 0#16)
  | .sink h => some (.sink, h, 0#16)
  | .steer h tm => some (.steer, h, 0#13 ++ tm)
  | .select h => some (.select, h, 0#16)
  | .gate h => some (.gate, h, 0#16)
  | .const h => some (.const, h, 0#16)
  | .exit h => some (.exit, h, 0#16)
  | .call h ind site => some (.call, h, BitVec.ofBool ind ++ site)
  | .ret h => some (.ret, h, 0#16)
  | .lpent h w => some (.lpent, h, 0#10 ++ w)
  | .lpnext h w => some (.lpnext, h, 0#10 ++ w)
  | .lpexit h w => some (.lpexit, h, 0#10 ++ w)
  | .tagrd h pos w => some (.tagrd, h, 0#4 ++ pos ++ w)
  | .tagwr h mode w => some (.tagwr, h, 0#2 ++ tagModeCode mode ++ 0#6 ++ w)
  | .thrd h sel => some (.thrd, h, 0#14 ++ thrdSelCode sel)
  | .reord h => some (.reord, h, 0#16)
  | .join h all => some (.join, h, 0#15 ++ BitVec.ofBool all)
  | .argwr h => some (.argwr, h, 0#16)
  | .add h => some (.add, h, 0#16)
  | .sub h => some (.sub, h, 0#16)
  | .mul h => some (.mul, h, 0#16)
  | .mulh h => some (.mulh, h, 0#16)
  | .mad h => some (.mad, h, 0#16)
  | .div h => some (.div, h, 0#16)
  | .rem h => some (.rem, h, 0#16)
  | .neg h => some (.neg, h, 0#16)
  | .abs h => some (.abs, h, 0#16)
  | .min h => some (.min, h, 0#16)
  | .max h => some (.max, h, 0#16)
  | .and h => some (.and, h, 0#16)
  | .or h => some (.or, h, 0#16)
  | .xor h => some (.xor, h, 0#16)
  | .andn h => some (.andn, h, 0#16)
  | .shl h => some (.shl, h, 0#16)
  | .shr h => some (.shr, h, 0#16)
  | .sar h => some (.sar, h, 0#16)
  | .rotl h => some (.rotl, h, 0#16)
  | .cmp h cc => some (.cmp, h, 0#13 ++ cmpCondCode cc)
  | .clz h => some (.clz, h, 0#16)
  | .ctz h => some (.ctz, h, 0#16)
  | .popc h => some (.popc, h, 0#16)
  | .brev h => some (.brev, h, 0#16)
  | .sext h => some (.sext, h, 0#16)
  | .zext h => some (.zext, h, 0#16)
  | .adds h => some (.adds, h, 0#16)
  | .subs h => some (.subs, h, 0#16)
  | .lea h sc => some (.lea, h, 0#13 ++ sc)
  | .lut4 h tt => some (.lut4, h, tt)
  | .bext h sx len pos => some (.bext, h, 0#2 ++ BitVec.ofBool sx ++ len ++ pos)
  | .bins h len pos => some (.bins, h, 0#3 ++ len ++ pos)
  | .bsplit h sx pos => some (.bsplit, h, 0#2 ++ BitVec.ofBool sx ++ 0#7 ++ pos)
  | .bjoin h pos => some (.bjoin, h, 0#10 ++ pos)
  | .dec h hi iw => some (.dec, h, hi ++ 0#5 ++ iw)
  | .pext h => some (.pext, h, 0#16)
  | .pdep h => some (.pdep, h, 0#16)
  | .bsel h => some (.bsel, h, 0#16)
  | .pkb h lenM1 e => some (.pkb, h, 0#10 ++ lenM1 ++ e)
  | .pkm h => some (.pkm, h, 0#16)
  | .pks h k => some (.pks, h, 0#13 ++ k)
  | .pkx h => some (.pkx, h, 0#16)
  | .pki h => some (.pki, h, 0#16)
  | .pkr h op => some (.pkr, h, 0#13 ++ foldOpCode op)
  | .pkp h dyn lenM1 => some (.pkp, h, 0#12 ++ BitVec.ofBool dyn ++ lenM1)
  | .pkl h lM1 => some (.pkl, h, 0#13 ++ lM1)
  | .pkscan h exc op => some (.pkscan, h, 0#12 ++ BitVec.ofBool exc ++ foldOpCode op)
  | .fadd h rm => some (.fadd, h, 0#13 ++ rndCode rm)
  | .fsub h rm => some (.fsub, h, 0#13 ++ rndCode rm)
  | .fmul h rm => some (.fmul, h, 0#13 ++ rndCode rm)
  | .fma h rm => some (.fma, h, 0#13 ++ rndCode rm)
  | .fmin h => some (.fmin, h, 0#16)
  | .fmax h => some (.fmax, h, 0#16)
  | .fcmp h cc => some (.fcmp, h, 0#10 ++ floatCondCode cc ++ 0#3)
  | .fabs h => some (.fabs, h, 0#16)
  | .fneg h => some (.fneg, h, 0#16)
  | .fcls h cm => some (.fcls, h, 0#4 ++ cm ++ 0#3)
  | .frcp h rm => some (.frcp, h, 0#13 ++ rndCode rm)
  | .frsq h rm => some (.frsq, h, 0#13 ++ rndCode rm)
  | .fex2 h rm => some (.fex2, h, 0#13 ++ rndCode rm)
  | .flg2 h rm => some (.flg2, h, 0#13 ++ rndCode rm)
  | .fsin h rm => some (.fsin, h, 0#13 ++ rndCode rm)
  | .fcos h rm => some (.fcos, h, 0#13 ++ rndCode rm)
  | .ftanh h rm => some (.ftanh, h, 0#13 ++ rndCode rm)
  | .fdiv h rm => some (.fdiv, h, 0#13 ++ rndCode rm)
  | .fsqrt h rm => some (.fsqrt, h, 0#13 ++ rndCode rm)
  | .cvt h sty rm => some (.cvt, h, 0#9 ++ tyCode sty ++ rndCode rm)
  | .frnd h rm => some (.frnd, h, 0#13 ++ rndCode rm)
  | .fscl h rm => some (.fscl, h, 0#13 ++ rndCode rm)
  | .wad h ft => some (.wad, h, 0#8 ++ ft ++ 0#3)
  | .plgat h ft => some (.plgat, h, 0#8 ++ ft ++ 0#3)
  | .plsct h ft => some (.plsct, h, 0#8 ++ ft ++ 0#3)
  | .qnt h ft rm => some (.qnt, h, 0#8 ++ ft ++ rndCode rm)
  | .dqnt h sc rm => some (.dqnt, h, 0#12 ++ BitVec.ofBool sc ++ rndCode rm)
  | .bsc h sty => some (.bsc, h, 0#9 ++ tyCode sty ++ 0#3)
  | .ld h m => some (.ld, h, memXfBits m)
  | .st h m => some (.st, h, memXfBits m)
  | .lds h m => some (.lds, h, memXfBits m)
  | .stf h m => some (.stf, h, memXfBits m)
  | .clre h m => some (.clre, h, memXfBits m)
  | .mnop h m => some (.mnop, h, memXfBits m)
  | .wadv h => some (.wadv, h, 0#16)
  | .fence h m => some (.fence, h, memXfBits m)
  | .atom h m => some (.atom, h, memXfBits m)
  | .red h m => some (.red, h, memXfBits m)
  | .pref h m => some (.pref, h, memXfBits m)
  | .cctl h m => some (.cctl, h, memXfBits m)
  | .ldg h m => some (.ldg, h, memXfBits m)
  | .sts h m => some (.sts, h, memXfBits m)
  | .cnt h idx d w => some (.cnt, h, 0#7 ++ BitVec.ofBool idx ++ d ++ w)
  | .cchn h idx d w => some (.cchn, h, 0#7 ++ BitVec.ofBool idx ++ d ++ w)
  | .agen h => some (.agen, h, 0#16)
  | .strl h row lenM1 ft cp done scope => some (.strl, h, BitVec.ofBool row ++ lenM1 ++ ft ++ cachePolCode cp ++ BitVec.ofBool done ++ scopeCode scope ++ 0#2)
  | .strs h cp done scope => some (.strs, h, 0#9 ++ cachePolCode cp ++ BitVec.ofBool done ++ scopeCode scope ++ 0#2)
  | .ctks h one ch => some (.ctks, h, 0#11 ++ BitVec.ofBool one ++ ch)
  | .ctkw h mM1 ch => some (.ctkw, h, 0#2 ++ mM1 ++ ch)
  | .cnrd h => some (.cnrd, h, 0#16)
  | .cnwr h op => some (.cnwr, h, 0#14 ++ cnwrOpCode op)
  | .cbini h cb => some (.cbini, h, 0#12 ++ cb)
  | .cbres h wait cb => some (.cbres, h, 0#11 ++ BitVec.ofBool wait ++ cb)
  | .cbcom h cb => some (.cbcom, h, 0#12 ++ cb)
  | .cbacq h wait cb => some (.cbacq, h, 0#11 ++ BitVec.ofBool wait ++ cb)
  | .cbrel h cb => some (.cbrel, h, 0#12 ++ cb)
  | .cbst h cb => some (.cbst, h, 0#12 ++ cb)
  | .cpy h done scope => some (.cpy, h, 0#11 ++ BitVec.ofBool done ++ scopeCode scope ++ 0#2)
  | .cpy2 h done scope => some (.cpy2, h, 0#11 ++ BitVec.ofBool done ++ scopeCode scope ++ 0#2)
  | .cpycb h done cb => some (.cpycb, h, 0#11 ++ BitVec.ofBool done ++ cb)
  | .cpyq h done scope => some (.cpyq, h, 0#11 ++ BitVec.ofBool done ++ scopeCode scope ++ 0#2)
  | .pmini h => some (.pmini, h, 0#16)
  | .pment h => some (.pment, h, 0#16)
  | .pmex h => some (.pmex, h, 0#16)
  | .frq h wait => some (.frq, h, 0#15 ++ BitVec.ofBool wait)
  | .frl h => some (.frl, h, 0#16)
  | .mwld h ws => some (.mwld, h, 0#15 ++ BitVec.ofBool ws)
  | .mwsw h ws => some (.mwsw, h, 0#15 ++ BitVec.ofBool ws)
  | .mma h nrM1 a => some (.mma, h, 0#6 ++ nrM1 ++ 0#1 ++ a)
  | .mgat h ft => some (.mgat, h, 0#8 ++ ft ++ 0#3)
  | .mrep h pace => some (.mrep, h, 0#7 ++ BitVec.ofBool pace ++ 0#8)
  | .mfil h => some (.mfil, h, 0#16)
  | .mclr h a => some (.mclr, h, 0#13 ++ a)
  | .mwr h cls a => some (.mwr, h, 0#11 ++ runClsCode cls ++ a)
  | .mchk h a => some (.mchk, h, 0#13 ++ a)
  | .mdrn h scope done rm sh outf a => some (.mdrn, h, 0#4 ++ scopeCode scope ++ BitVec.ofBool done ++ rndCode rm ++ BitVec.ofBool sh ++ outFmtCode outf ++ a)
  | .mst h rm sh outf a => some (.mst, h, 0#7 ++ rndCode rm ++ BitVec.ofBool sh ++ outFmtCode outf ++ a)
  | .mloc h => some (.mloc, h, 0#16)
  | .mfix h => some (.mfix, h, 0#16)
  | .mrty h => some (.mrty, h, 0#16)
  | .mrd h sel => some (.mrd, h, 0#13 ++ mrdSelCode sel)
  | .mtol h cls => some (.mtol, h, 0#14 ++ tolClsCode cls)
  | .grex h op => some (.grex, h, 0#14 ++ grexOpCode op)
  | .post h done ipt => some (.post, h, 0#13 ++ BitVec.ofBool done ++ ipt)
  | .recv h wait ipt => some (.recv, h, 0#11 ++ BitVec.ofBool wait ++ 0#2 ++ ipt)
  | .bari h b => some (.bari, h, 0#12 ++ b)
  | .bar h wait b => some (.bar, h, 0#11 ++ BitVec.ofBool wait ++ b)
  | .barq h b => some (.barq, h, 0#12 ++ b)
  | .sow h => some (.sow, h, 0#16)
  | .kdep h => some (.kdep, h, 0#16)
  | .kdec h => some (.kdec, h, 0#16)
  | .yld h => some (.yld, h, 0#16)
  | .srd h dx die reg => some (.srd, h, 0#1 ++ BitVec.ofBool dx ++ die ++ reg)
  | .swr h dx die reg => some (.swr, h, 0#1 ++ BitVec.ofBool dx ++ die ++ reg)
  | .trap h code => some (.trap, h, 0#9 ++ code)
  | .hcse h => some (.hcse, h, 0#16)
  | .hres h drop => some (.hres, h, 0#15 ++ BitVec.ofBool drop)
  | .hkil h => some (.hkil, h, 0#16)
  | .halt h op => some (.halt, h, 0#14 ++ haltOpCode op)
  | .rrec h op => some (.rrec, h, 0#14 ++ rrecOpCode op)
  | .minj h kind => some (.minj, h, 0#13 ++ injKindCode kind)
  | .tlbi h mode => some (.tlbi, h, 0#14 ++ tlbiModeCode mode)
  | .pwrq h can fmask => some (.pwrq, h, 0#11 ++ BitVec.ofBool can ++ fmask)
  | .imtr h op => some (.imtr, h, 0#14 ++ imtrOpCode op)
  | .coldReset => none
  | .registerWrite => none
  | .tokenArrival => none
  | .overflowReturn => none
  | .accessArrival => none
  | .storeBufferIssue => none
  | .accessPerformed => none
  | .waiterRefusalRetry => none
  | .gets => none
  | .getx => none
  | .upg => none
  | .pute => none
  | .putm => none
  | .invAck => none
  | .fwdDone => none
  | .dataS => none
  | .dataE => none
  | .dataM => none
  | .grant => none
  | .inv => none
  | .fwdGets => none
  | .fwdGetx => none
  | .putAck => none
  | .requestReissue => none
  | .backInvalidation => none
  | .creditArrival => none
  | .pointAccepted => none
  | .streamAccessPerformed => none
  | .counterAdd => none
  | .ctkwJoin => none
  | .walkReturn => none
  | .wordServe => none
  | .chunkDone => none
  | .rowArrival => none
  | .rowBoundarySwitch => none
  | .pushWritten => none
  | .rowResultWritten => none
  | .gatherRowSent => none
  | .mrepPass => none
  | .fillerRow => none
  | .comparisonEnd => none
  | .drainPerformed => none
  | .groupPlacement => none
  | .dispatchToken => none
  | .quiescence => none
  | .groupRetired => none
  | .childCompletion => none
  | .portSpillReturn => none
  | .completionSignal => none
  | .enable => none
  | .disable => none
  | .clear => none
  | .kick => none
  | .watchWake => none
  | .backoffExpiry => none
  | .headerRead => none
  | .packetConsume => none
  | .fullLoad => none
  | .cachedLoad => none
  | .floorRaise => none
  | .loadBusy => none
  | .create => none
  | .start => none
  | .resume => none
  | .preempt => none
  | .freeze => none
  | .thaw => none
  | .kill => none
  | .release => none
  | .record => none
  | .replay => none
  | .norecord => none
  | .contextIdle => none
  | .expiry => none
  | .stall => none
  | .acknowledgement => none
  | .walkLevelRead => none
  | .adUpdate => none
  | .contiguousCheck => none
  | .walkerQueueRetry => none
  | .tlbiComplete => none
  | .blockLoadStarted => none
  | .blockLoadComplete => none
  | .imageTranslationFault => none
  | .entryTokenDelivery => none
  | .eviction => none
  | .evictionEnd => none
  | .consolidation => none
  | .migrationRequest => none
  | .migrationSwitch => none
  | .migrationRelease => none
  | .samplingWindow => none
  | .intervalBoundary => none
  | .guardTrip => none
  | .thresholdTrip => none
  | .thresholdRelease => none
  | .dwellEnd => none
  | .rackCapMessage => none
  | .leaseExpiry => none
  | .prtbaseWrite => none
  | .train => none
  | .quarantine => none
  | .linkRelease => none
  | .trainingComplete => none
  | .trainingTimeout => none
  | .laneFailure => none
  | .retrainComplete => none
  | .crcRetryFailure => none
  | .requestTimeout => none
  | .peerRequest => none
  | .peerResponse => none
  | .hostRead => none
  | .hostWrite => none
  | .hostSnoop => none
  | .homeOperation => none
  | .homeRead => none
  | .obreqWrite => none
  | .plotCycle => none
  | .flitCrcError => none
  | .plotOffline => none

/-- A target field as bits (R61). -/
def targetBits : Option Target → BitVec 10
  | none => 0
  | some t => 1#1 ++ t.slot ++ t.port

/-- A target field (R61); V = 0 with other bits set is refused (R63). -/
def targetOf (n : Nat) (b : BitVec 10) : Except DecodeError (Option Target) :=
  if b.getLsbD 9 then .ok (some (Target.mk (b.extractLsb' 2 7) (b.extractLsb' 0 2)))
  else if b = 0 then .ok none
  else .error (.deadTarget n)

/-- The op word of parts (R60). -/
def opWordOf (o : Opc) (h : Head) (xf : BitVec 16) : Word :=
  opcCode o ++ tyCode h.ty ++ immCode h.im ++ predicateCode h.pr ++
    targetBits h.t0 ++ targetBits h.t1 ++ targetBits h.t2 ++ xf

/-- The op word and the configuration word of an instruction (R55, R60, R65); the hardware's own steps have none.
-/
def encode (i : Instr) : Option (Word × Word) :=
  (parts i).map (fun p => (opWordOf p.1 p.2.1 p.2.2, p.2.1.cfg))

/-- A field's value, or the refusal that names it. -/
def need {α : Type} (o : Option α) (e : DecodeError) : Except DecodeError α :=
  match o with
  | some a => .ok a
  | none => .error e

/-- The common fields of an op word (R60, R61, R63). -/
def headOf (op cfg : Word) : Except DecodeError Head := do
  let ty ← need (tyOfCode (op.extractLsb' 51 4)) (.elementType (op.extractLsb' 51 4))
  let im ← need (immOfCode (op.extractLsb' 48 3)) (.immediate (op.extractLsb' 48 3))
  let pr ← need (predicateOfCode (op.extractLsb' 46 2)) .predicate
  let t0 ← targetOf 0 (op.extractLsb' 36 10)
  let t1 ← targetOf 1 (op.extractLsb' 26 10)
  let t2 ← targetOf 2 (op.extractLsb' 16 10)
  .ok (Head.mk ty im pr t0 t1 t2 cfg)

/-- The instruction with these parts, where XF holds nothing but its fields (R68). -/
def instrOf (o : Opc) (h : Head) (xf : BitVec 16) : Except DecodeError Instr :=
  match readFields o h xf with
  | none => .error (.opFields xf)
  | some i => if parts i = some (o, h, xf) then .ok i else .error (.opFields xf)

/-- The instruction that an op word and a configuration word hold, or why they hold none (R60 to R68, R74). What
further its place in a block demands is WellFormed's and the block load's (R63, R70). -/
def decode (op cfg : Word) : Except DecodeError Instr := do
  let o ← need (opcOfCode (op.extractLsb' 55 9)) (.opcode (op.extractLsb' 55 9))
  let h ← headOf op cfg
  instrOf o h (op.extractLsb' 0 16)

/-- The instruction in the sixteen bytes of an instruction slot, op word first, each word little-endian (R1, R55).
-/
def decodeBytes (bs : List Byte) : Except DecodeError Instr :=
  let word := fun (l : List Byte) => l.foldr (fun b (a : Word) => (a <<< 8) ||| b.setWidth 64) 0
  if bs.length = 16 then decode (word (bs.take 8)) (word (bs.drop 8)) else .error (.length (8 * bs.length))

/-- The host's question: the instruction whose bits are `w`, the op word in bits 63 to 0 and the configuration
word in bits 127 to 64 (R55, R1), every bit at or above `nbits` read as zero. -/
def decodeTableWord (nbits w : Nat) : Option Instr :=
  let v := w % 2 ^ nbits
  match decode (BitVec.ofNat 64 v) (BitVec.ofNat 64 (v >>> 64)) with
  | .ok i => some i
  | .error _ => none

end Sys2Proof
end

