-- ==== Sys2Proof/Machine/Info.lean ====
section
/-! DEFINITION. What an instruction must be for a block to be loaded with it, as far as its own two words decide
it (R63 to R69 and the field table of its chapter): its type, its immediate port, its input ports, its targets,
its configuration word and the limits of its fields. What the rest of the block decides (a target's slot and
port, row ports, named slots, class counts, headland tiles) is the block load's (R70, Machine/Block.lean). -/
namespace Sys2Proof

/-- The three classes of PE (R58, R75). -/
inductive PeClass where
  | compute | memory | agen
  deriving DecidableEq, Repr

/-- What an instruction sends to a target field (the columns T0 to T2 of its chapter's table). -/
inductive TargetUse where
  /-- A result (R62). -/
  | result
  /-- Nothing: V = 1 is rejected. -/
  | unused
  /-- The done token alone. R63 rejects V = 0 with DONE = 1; the column gives the field to nothing else, and V = 1 with DONE = 0 is
  rejected too. DEDUCED (assumption 52). -/
  | done
  /-- The done token when DONE = 1, otherwise a result (R62, R63). Of a memory instruction whose result is nothing R193 rejects
  T0 and T1 with V = 1 and says nothing of T2: with DONE = 0 such a T2 is loaded and sent nothing. DEDUCED (assumption 52). -/
  | doneOrResult
  /-- Rows: the target must name a row port (R167, R228, R301). -/
  | row
  deriving DecidableEq, Repr

/-- What an instruction does with its configuration word when IM is 0 (R65). -/
inductive CfgUse where
  /-- Nothing: it must be zero. -/
  | zero
  /-- What its description assigns; its limits stand with its other limits. -/
  | own
  /-- The wave word of R66. -/
  | wave
  deriving DecidableEq, Repr

/-- One row of the field tables: what an instruction's description allows. -/
structure Info where
  cls : PeClass
  types : List Ty
  /-- The input ports 0 to 2, an immediate port among them. -/
  ports : List Nat
  /-- The ports IM may mark. -/
  imms : List Imm
  t0 : TargetUse
  t1 : TargetUse
  t2 : TargetUse
  /-- The DONE bit, false where the instruction has none. -/
  done : Bool
  cfg : CfgUse
  /-- Whether PR may be other than 0b00. -/
  predicated : Bool
  /-- The limits that the description sets on its own fields. -/
  limits : Bool
  deriving DecidableEq, Repr

/-- TY 0 to 7 (R28). -/
def intTys : List Ty := [.s64, .s32, .s16, .s8, .w64, .w32, .w16, .w8]

/-- TY 8 to 10 (R28). -/
def floatTys : List Ty := [.f32, .f16, .bf16]

/-- TY 0 to 10 (R28). -/
def valueTys : List Ty := intTys ++ floatTys

/-- TY 0 to 11 (R28). -/
def allTys : List Ty := valueTys ++ [.lane]

/-- The width in bits of a TY 0 to 10 (R28); a `.lane` has none of its own. -/
def tyWidth : Ty → Nat
  | .s64 | .w64 => 64
  | .s32 | .w32 | .f32 => 32
  | .s16 | .w16 | .f16 | .bf16 => 16
  | .s8 | .w8 => 8
  | .lane => 0

/-- W of a tag field, 1 to 58 (R110, R219). -/
def fieldWidth (w : BitVec 6) : Bool := decide (1 ≤ w.toNat ∧ w.toNat ≤ 58)

/-- LEN and POS of `bext` and `bins` (R131). -/
def bitField (ty : Ty) (len : BitVec 7) (pos : BitVec 6) : Bool :=
  decide (1 ≤ len.toNat ∧ pos.toNat + len.toNat ≤ tyWidth ty)

/-- POS of `bsplit` and `bjoin` (R132). -/
def cutPoint (ty : Ty) (pos : BitVec 6) : Bool := decide (1 ≤ pos.toNat ∧ pos.toNat < tyWidth ty)

/-- A bit-plane format tag that FT may hold (R160): 0x10 to 0x16 or 0x18 to 0x1E. -/
def bitPlaneTag (ft : BitVec 5) : Bool :=
  decide (0x10 ≤ ft.toNat ∧ ft.toNat ≤ 0x1E) && ft != 0x17

/-- A tag that a row may carry: f16, bf16 or bit-plane (R219, R301). -/
def rowTag (ft : BitVec 5) : Bool := bitPlaneTag ft || ft == 0x09 || ft == 0x0A

/-- D and W of `cnt` and `cchn` (R219). -/
def chainFields (d : BitVec 2) (w : BitVec 6) : Bool := d != 0 && fieldWidth w

/-- The reserved bits of the chain list of `mclr`, and no slot under V = 0 (R325). -/
def chainList (c : Word) : Bool :=
  c.extractLsb' 24 40 == 0 && (c.getLsbD 23 || c.extractLsb' 16 7 == 0) &&
    (c.getLsbD 15 || c.extractLsb' 8 7 == 0) && (c.getLsbD 7 || c.extractLsb' 0 7 == 0)

/-- The TY that an AOP takes (R211); none for a reserved AOP. -/
def atomTys (aop : BitVec 4) : List Ty :=
  if aop.toNat ≤ 5 then [.s64, .s32, .w64, .w32]
  else if aop.toNat ≤ 7 then [.w64, .w32]
  else if aop.toNat ≤ 9 then [.s64, .s32, .w64, .w32, .f32]
  else if aop.toNat ≤ 12 then [.f32]
  else []

/-- OWN of a wave word is not a mark (R66). -/
def waveOwn (cfg : Word) : Bool := cfg.extractLsb' 48 8 != 0xFE && cfg.extractLsb' 48 8 != 0xFF

/-- The limits of R67 that every instruction of the class shares, and the ORD, SCOPE and CP that R193 lists for
this one. -/
def memLimits (m : MemXf) (ords : List MemOrd) (scopes : List Scope) (anyPolicy : Bool) : Bool :=
  ords.contains m.ord && scopes.contains m.scope && (anyPolicy || m.cp == .normal) &&
    !(m.ord != .plain && m.scope == .none) && !(m.done && m.scope == .none)

/-- The row of the field tables for each instruction; the steps of the hardware have none. -/
def info : Instr → Option Info
  | .mov _ => some (Info.mk .compute allTys [0] [] .result .result .result false .zero true
      (true))
  | .sink _ => some (Info.mk .compute [.s64] [0] [] .unused .unused .unused false .zero true
      (true))
  | .steer h tm => some (Info.mk .compute allTys [0, 1] [.port0] .result .result .result false .zero true
      ((!tm.getLsbD 0 || h.t0.isSome) && (!tm.getLsbD 1 || h.t1.isSome) && (!tm.getLsbD 2 || h.t2.isSome)))
  | .select _ => some (Info.mk .compute allTys [0, 1, 2] [.port1, .port2] .result .result .result false .zero true
      (true))
  | .gate _ => some (Info.mk .compute allTys [0, 1] [] .result .result .result false .zero true
      (true))
  | .const _ => some (Info.mk .compute valueTys [0] [] .result .result .result false .own true
      (true))
  | .exit h => some (Info.mk .compute allTys [0] [] .unused .unused .unused false .own true
      (h.cfg.extractLsb' 38 26 == 0))
  | .call h ind _ => some (Info.mk .compute allTys (if ind then [0, 1] else [0]) [] .unused .unused .unused false .own true
      (h.cfg.extractLsb' 50 14 == 0 && h.cfg.extractLsb' 38 6 != h.cfg.extractLsb' 32 6 && (!ind || h.cfg.extractLsb' 0 32 == 0)))
  | .ret _ => some (Info.mk .compute allTys [0, 1] [] .unused .unused .unused false .zero true
      (true))
  | .lpent _ w => some (Info.mk .compute allTys [0] [] .result .result .result false .zero true
      (fieldWidth w))
  | .lpnext _ w => some (Info.mk .compute allTys [0] [] .result .result .result false .zero true
      (fieldWidth w))
  | .lpexit _ w => some (Info.mk .compute allTys [0] [] .result .result .result false .zero true
      (fieldWidth w))
  | .tagrd _ pos w => some (Info.mk .compute [.w64] [0] [] .result .result .result false .zero true
      (if w = 0 then pos == 0 else decide (w.toNat + pos.toNat ≤ 58)))
  | .tagwr _ mode w => some (Info.mk .compute allTys (if mode = .pop then [0] else [0, 1]) [.port1] .result .result .result false .zero true
      (if mode = .repl then w == 0 else fieldWidth w))
  | .thrd _ _ => some (Info.mk .compute [.w32] [0] [] .result .result .result false .zero true
      (true))
  | .reord _ => some (Info.mk .compute allTys [0] [] .result .result .result false .zero true
      (true))
  | .join _ _ => some (Info.mk .compute allTys [0] [] .result .result .result false .zero true
      (true))
  | .argwr h => some (Info.mk .compute [.s64, .w64] [0] [] .result .unused .unused false .own true
      (h.cfg.extractLsb' 7 57 == 0))
  | .add _ => some (Info.mk .compute intTys [0, 1] [.port0, .port1] .result .result .result false .zero true
      (true))
  | .sub _ => some (Info.mk .compute intTys [0, 1] [.port0, .port1] .result .result .result false .zero true
      (true))
  | .mul _ => some (Info.mk .compute intTys [0, 1] [.port0, .port1] .result .result .result false .zero true
      (true))
  | .mulh _ => some (Info.mk .compute intTys [0, 1] [.port0, .port1] .result .result .result false .zero true
      (true))
  | .mad _ => some (Info.mk .compute intTys [0, 1, 2] [.port0, .port1, .port2] .result .result .result false .zero true
      (true))
  | .div _ => some (Info.mk .compute intTys [0, 1] [.port0, .port1] .result .result .result false .zero true
      (true))
  | .rem _ => some (Info.mk .compute intTys [0, 1] [.port0, .port1] .result .result .result false .zero true
      (true))
  | .neg _ => some (Info.mk .compute intTys [0] [] .result .result .result false .zero true
      (true))
  | .abs _ => some (Info.mk .compute intTys [0] [] .result .result .result false .zero true
      (true))
  | .min _ => some (Info.mk .compute intTys [0, 1] [.port0, .port1] .result .result .result false .zero true
      (true))
  | .max _ => some (Info.mk .compute intTys [0, 1] [.port0, .port1] .result .result .result false .zero true
      (true))
  | .and _ => some (Info.mk .compute intTys [0, 1] [.port0, .port1] .result .result .result false .zero true
      (true))
  | .or _ => some (Info.mk .compute intTys [0, 1] [.port0, .port1] .result .result .result false .zero true
      (true))
  | .xor _ => some (Info.mk .compute intTys [0, 1] [.port0, .port1] .result .result .result false .zero true
      (true))
  | .andn _ => some (Info.mk .compute intTys [0, 1] [.port0, .port1] .result .result .result false .zero true
      (true))
  | .shl _ => some (Info.mk .compute intTys [0, 1] [.port0, .port1] .result .result .result false .zero true
      (true))
  | .shr _ => some (Info.mk .compute intTys [0, 1] [.port0, .port1] .result .result .result false .zero true
      (true))
  | .sar _ => some (Info.mk .compute intTys [0, 1] [.port0, .port1] .result .result .result false .zero true
      (true))
  | .rotl _ => some (Info.mk .compute intTys [0, 1] [.port0, .port1] .result .result .result false .zero true
      (true))
  | .cmp _ _ => some (Info.mk .compute intTys [0, 1] [.port0, .port1] .result .result .result false .zero true
      (true))
  | .clz _ => some (Info.mk .compute intTys [0] [] .result .result .result false .zero true
      (true))
  | .ctz _ => some (Info.mk .compute intTys [0] [] .result .result .result false .zero true
      (true))
  | .popc _ => some (Info.mk .compute intTys [0] [] .result .result .result false .zero true
      (true))
  | .brev _ => some (Info.mk .compute intTys [0] [] .result .result .result false .zero true
      (true))
  | .sext _ => some (Info.mk .compute intTys [0, 1] [.port0, .port1] .result .result .result false .zero true
      (true))
  | .zext _ => some (Info.mk .compute intTys [0, 1] [.port0, .port1] .result .result .result false .zero true
      (true))
  | .adds _ => some (Info.mk .compute intTys [0, 1] [.port0, .port1] .result .result .result false .zero true
      (true))
  | .subs _ => some (Info.mk .compute intTys [0, 1] [.port0, .port1] .result .result .result false .zero true
      (true))
  | .lea _ _ => some (Info.mk .compute [.s64, .s32, .w64, .w32] [0, 1] [.port0, .port1] .result .result .result false .zero true
      (true))
  | .lut4 _ _ => some (Info.mk .compute intTys [0, 1, 2] [] .result .result .result false .own true
      (true))
  | .bext h _ len pos => some (Info.mk .compute intTys [0] [] .result .result .result false .zero true
      (bitField h.ty len pos))
  | .bins h len pos => some (Info.mk .compute intTys [0, 1] [.port0, .port1] .result .result .result false .zero true
      (bitField h.ty len pos))
  | .bsplit h _ pos => some (Info.mk .compute intTys [0] [] .result .result .unused false .zero true
      (cutPoint h.ty pos))
  | .bjoin h pos => some (Info.mk .compute intTys [0, 1] [.port0, .port1] .result .result .result false .zero true
      (cutPoint h.ty pos))
  | .dec h hi iw => some (Info.mk .compute allTys [0, 1] [] .result .result .result false .own true
      (decide (1 ≤ iw.toNat ∧ iw.toNat ≤ 6) && (iw == 6 || (hi == 0 && h.cfg.toNat / 2 ^ (2 * 2 ^ iw.toNat) == 0))))
  | .pext _ => some (Info.mk .compute intTys [0, 1] [.port1] .result .result .result false .zero true
      (true))
  | .pdep _ => some (Info.mk .compute intTys [0, 1] [.port1] .result .result .result false .zero true
      (true))
  | .bsel _ => some (Info.mk .compute intTys [0, 1, 2] [.port0, .port1, .port2] .result .result .result false .zero true
      (true))
  | .pkb _ _ _ => some (Info.mk .compute allTys [0] [] .result .result .result false .zero true
      (true))
  | .pkm _ => some (Info.mk .compute allTys [0, 1] [.port0, .port1] .result .result .result false .zero true
      (true))
  | .pks _ k => some (Info.mk .compute allTys [0] [] .result .result .unused false .zero true
      (k != 0))
  | .pkx _ => some (Info.mk .compute allTys [0, 1] [.port1] .result .result .result false .zero true
      (true))
  | .pki _ => some (Info.mk .compute allTys [0, 1, 2] [.port1, .port2] .result .result .result false .zero true
      (true))
  | .pkr _ _ => some (Info.mk .compute intTys [0] [] .result .result .result false .zero true
      (true))
  | .pkp h dyn lenM1 => some (Info.mk .compute allTys (if dyn then [0, 1] else [0]) [] .result .result .result false .own true
      (if dyn then lenM1 == 0 && h.cfg == 0 else h.cfg.toNat / 2 ^ (3 * (lenM1.toNat + 1)) == 0))
  | .pkl _ _ => some (Info.mk .compute allTys [0] [] .result .result .result false .zero true
      (true))
  | .pkscan _ _ _ => some (Info.mk .compute intTys [0] [] .result .result .result false .zero true
      (true))
  | .fadd _ _ => some (Info.mk .compute floatTys [0, 1] [.port0, .port1] .result .result .result false .zero true
      (true))
  | .fsub _ _ => some (Info.mk .compute floatTys [0, 1] [.port0, .port1] .result .result .result false .zero true
      (true))
  | .fmul _ _ => some (Info.mk .compute floatTys [0, 1] [.port0, .port1] .result .result .result false .zero true
      (true))
  | .fma _ _ => some (Info.mk .compute floatTys [0, 1, 2] [.port0, .port1, .port2] .result .result .result false .zero true
      (true))
  | .fmin _ => some (Info.mk .compute floatTys [0, 1] [.port0, .port1] .result .result .result false .zero true
      (true))
  | .fmax _ => some (Info.mk .compute floatTys [0, 1] [.port0, .port1] .result .result .result false .zero true
      (true))
  | .fcmp _ _ => some (Info.mk .compute floatTys [0, 1] [.port0, .port1] .result .result .result false .zero true
      (true))
  | .fabs _ => some (Info.mk .compute floatTys [0] [] .result .result .result false .zero true
      (true))
  | .fneg _ => some (Info.mk .compute floatTys [0] [] .result .result .result false .zero true
      (true))
  | .fcls _ cm => some (Info.mk .compute floatTys [0] [] .result .result .result false .zero true
      (cm != 0))
  | .frcp _ _ => some (Info.mk .compute floatTys [0] [] .result .result .result false .zero true
      (true))
  | .frsq _ _ => some (Info.mk .compute floatTys [0] [] .result .result .result false .zero true
      (true))
  | .fex2 _ _ => some (Info.mk .compute floatTys [0] [] .result .result .result false .zero true
      (true))
  | .flg2 _ _ => some (Info.mk .compute floatTys [0] [] .result .result .result false .zero true
      (true))
  | .fsin _ _ => some (Info.mk .compute floatTys [0] [] .result .result .result false .zero true
      (true))
  | .fcos _ _ => some (Info.mk .compute floatTys [0] [] .result .result .result false .zero true
      (true))
  | .ftanh _ _ => some (Info.mk .compute floatTys [0] [] .result .result .result false .zero true
      (true))
  | .fdiv _ _ => some (Info.mk .compute floatTys [0, 1] [.port0, .port1] .result .result .result false .zero true
      (true))
  | .fsqrt _ _ => some (Info.mk .compute floatTys [0] [] .result .result .result false .zero true
      (true))
  | .cvt _ _ _ => some (Info.mk .compute valueTys [0] [] .result .result .result false .zero true
      (true))
  | .frnd _ _ => some (Info.mk .compute floatTys [0] [] .result .result .result false .zero true
      (true))
  | .fscl _ _ => some (Info.mk .compute floatTys [0, 1] [.port1] .result .result .result false .zero true
      (true))
  | .wad _ ft => some (Info.mk .compute [.lane] [0] [] .row .row .row false .zero false
      (bitPlaneTag ft))
  | .plgat _ ft => some (Info.mk .compute [.w8] [0] [] .result .result .result false .zero true
      (bitPlaneTag ft))
  | .plsct _ ft => some (Info.mk .compute [.w8] [0] [] .result .result .result false .zero true
      (bitPlaneTag ft))
  | .qnt _ ft _ => some (Info.mk .compute floatTys (if ft.getLsbD 3 then [0, 1] else [0]) [.port1] .result .result .result false .zero true
      (bitPlaneTag ft))
  | .dqnt _ sc _ => some (Info.mk .compute floatTys (if sc then [0, 1] else [0]) [.port1] .result .result .result false .zero true
      (true))
  | .bsc _ sty => some (Info.mk .compute [.s8] [0] [] .result .result .result false .zero true
      (floatTys.contains sty))
  | .ld _ m => some (Info.mk .memory valueTys [0] [] .result .result .doneOrResult m.done .wave true
      (memLimits m [.plain, .acquire] [.plot, .device, .system, .none] true && m.aop == 0 && !m.take))
  | .st _ m => some (Info.mk .memory valueTys [0, 1] [] .unused .unused .doneOrResult m.done .wave true
      (memLimits m [.plain, .release] [.plot, .device, .system, .none] true && m.aop == 0 && !m.take))
  | .lds _ m => some (Info.mk .memory valueTys [0] [] .result .result .doneOrResult m.done .wave true
      (memLimits m [.plain, .acquire] [.plot, .device, .system, .none] false && m.aop == 0))
  | .stf _ m => some (Info.mk .memory valueTys [0, 1] [] .unused .unused .doneOrResult m.done .wave true
      (memLimits m [.plain, .release] [.plot, .device, .system, .none] false && m.aop == 0 && !m.take))
  | .clre _ m => some (Info.mk .memory [.s64] [0, 1] [] .unused .unused .doneOrResult m.done .wave true
      (memLimits m [.plain, .release] [.plot, .device, .system, .none] false && m.aop == 0 && !m.take))
  | .mnop h m => some (Info.mk .memory [.s64] [0] [] .unused .unused .doneOrResult m.done .wave true
      (memLimits m [.plain] [.none] false && m.aop == 0 && !m.take && !m.done && h.cfg.extractLsb' 0 40 == 0))
  | .wadv _ => some (Info.mk .memory allTys [0] [] .result .result .result false .zero true
      (true))
  | .fence h m => some (Info.mk .memory [.s64] [0] [] .result .result .result m.done .wave true
      (memLimits m [.acquire, .release, .acqrel] [.plot, .device, .system] false && m.aop == 0 && !m.take && !m.done && h.cfg.extractLsb' 0 40 == 0))
  | .atom _ m => some (Info.mk .memory (atomTys m.aop) (if m.aop = 9 then [0, 1, 2] else [0, 1]) [] .result .result .doneOrResult m.done .wave true
      (memLimits m [.plain, .acquire, .release, .acqrel] [.plot, .device, .system, .none] false && !m.take))
  | .red _ m => some (Info.mk .memory (atomTys m.aop) [0, 1] [] .unused .unused .doneOrResult m.done .wave true
      (memLimits m [.plain, .release] [.plot, .device, .system, .none] false && !m.take && m.aop != 8 && m.aop != 9))
  | .pref _ m => some (Info.mk .memory [.s64] [0, 1] [] .unused .unused .doneOrResult m.done .wave true
      (memLimits m [.plain] [.plot, .device, .none] true && m.aop == 0 && !m.take))
  | .cctl _ m => some (Info.mk .memory [.s64] [0, 1] [] .unused .unused .doneOrResult m.done .wave true
      (memLimits m [.plain] [.plot, .device, .system, .none] false && m.aop == 0 && !m.take))
  | .ldg _ m => some (Info.mk .memory valueTys [0, 1] [] .result .result .doneOrResult m.done .wave true
      (memLimits m [.plain, .acquire] [.plot, .device, .system, .none] true && m.aop == 0 && !m.take))
  | .sts _ m => some (Info.mk .memory valueTys [0, 1, 2] [] .unused .unused .doneOrResult m.done .wave true
      (memLimits m [.plain, .release] [.plot, .device, .system, .none] true && m.aop == 0 && !m.take))
  | .cnt _ _ d w => some (Info.mk .agen [.s64] [0] [] .result .result .unused false .zero true
      (chainFields d w))
  | .cchn _ _ d w => some (Info.mk .agen [.s64] [0, 1] [] .result .result .unused false .zero true
      (chainFields d w))
  | .agen _ => some (Info.mk .agen [.s64] [0, 1] [] .result .result .result false .zero true
      (true))
  | .strl h row lenM1 ft _ done scope => some (Info.mk .agen allTys [0] [] (if row then .row else .result) (if row then .row else .result) .done done .zero true
      ((if row then h.ty = .lane && lenM1 == 0 && rowTag ft else h.ty != .lane && ft == 0) && !(done && scope == .none)))
  | .strs _ _ done scope => some (Info.mk .agen valueTys [0, 1] [] .unused .unused .done done .zero true
      (!(done && scope == .none)))
  | .ctks h one _ => some (Info.mk .agen allTys [0] [] .result .result .result false .zero true
      (one || [Ty.w64, .w32, .w16, .w8].contains h.ty))
  | .ctkw _ _ _ => some (Info.mk .agen allTys [0] [] .result .result .result false .zero true
      (true))
  | .cnrd h => some (Info.mk .agen [.s64] [0] [] .result .result .result false .own true
      (h.cfg.extractLsb' 7 57 == 0))
  | .cnwr h _ => some (Info.mk .agen [.s64] [0] [] .result .result .result false .own true
      (h.cfg.extractLsb' 7 57 == 0))
  | .cbini _ _ => some (Info.mk .memory [.s64] [0] [] .result .result .result false .zero true
      (true))
  | .cbres _ _ _ => some (Info.mk .memory [.s64] [0, 1] [.port1] .result .result .unused false .zero true
      (true))
  | .cbcom _ _ => some (Info.mk .memory [.s64] [0, 1] [.port1] .result .result .result false .zero true
      (true))
  | .cbacq _ _ _ => some (Info.mk .memory [.s64] [0, 1] [.port1] .result .result .unused false .zero true
      (true))
  | .cbrel _ _ => some (Info.mk .memory [.s64] [0, 1] [.port1] .result .result .result false .zero true
      (true))
  | .cbst _ _ => some (Info.mk .memory [.s64] [0] [] .result .result .result false .zero true
      (true))
  | .cpy _ done scope => some (Info.mk .memory [.s64] [0, 1, 2] [.port2] .unused .unused .done done .zero true
      (scope != .none))
  | .cpy2 _ done scope => some (Info.mk .memory [.s64] [0, 1, 2] [.port2] .unused .unused .done done .zero true
      (scope != .none))
  | .cpycb _ done _ => some (Info.mk .memory [.s64] [0, 1] [.port1] .unused .unused .done done .zero true
      (true))
  | .cpyq _ done scope => some (Info.mk .memory [.s64] [0] [] .unused .unused .done done .zero true
      (scope != .none))
  | .pmini _ => some (Info.mk .memory [.s64] [0] [] .result .result .result false .zero true
      (true))
  | .pment _ => some (Info.mk .memory [.s64] [0] [] .result .result .result false .zero true
      (true))
  | .pmex _ => some (Info.mk .memory [.s64] [0, 1] [] .result .result .result false .zero true
      (true))
  | .frq _ _ => some (Info.mk .memory [.s64] [0, 1] [.port1] .result .result .unused false .zero true
      (true))
  | .frl _ => some (Info.mk .memory [.s64] [0] [] .result .result .result false .zero true
      (true))
  | .mwld _ _ => some (Info.mk .compute [.lane] [0, 1] [] .result .result .result false .zero false
      (true))
  | .mwsw _ _ => some (Info.mk .compute [.s64] [0] [] .result .result .result false .zero true
      (true))
  | .mma h nrM1 _ => some (Info.mk .compute [.lane] [0] [] .result .result .unused false .zero false
      (nrM1 == 0 || h.t0.isSome || h.t1.isSome))
  | .mgat _ ft => some (Info.mk .compute [.s64] [0, 1] [] .row .row .row false .zero true
      (rowTag ft))
  | .mrep _ pace => some (Info.mk .compute [.lane] (if pace then [0, 1, 2] else [0, 1]) [] .row .row .result false .zero false
      (true))
  | .mfil _ => some (Info.mk .compute [.s64] [0] [] .result .result .result false .zero true
      (true))
  | .mclr h _ => some (Info.mk .compute [.s64] [0] [] .result .result .result false .own true
      (chainList h.cfg))
  | .mwr _ _ _ => some (Info.mk .compute [.s64] [0] [] .result .result .result false .zero true
      (true))
  | .mchk _ _ => some (Info.mk .compute [.s64] [0] [] .result .result .result false .zero true
      (true))
  | .mdrn _ scope done _ _ _ _ => some (Info.mk .compute [.s64] [0, 1] [] .result .result .doneOrResult done .zero true
      (!(done && scope == .none)))
  | .mst _ _ _ _ _ => some (Info.mk .compute [.s64] [0] [] .result .result .result false .zero true
      (true))
  | .mloc _ => some (Info.mk .compute [.s64] [0] [] .result .result .result false .zero true
      (true))
  | .mfix _ => some (Info.mk .compute [.s64] [0, 1] [] .result .result .result false .zero true
      (true))
  | .mrty _ => some (Info.mk .compute [.s64] [0] [] .result .result .result false .zero true
      (true))
  | .mrd _ sel => some (Info.mk .compute [.s64] (if sel = .data then [0, 1] else [0]) [] .result .result .result false .zero true
      (true))
  | .mtol _ _ => some (Info.mk .compute [.s64] [0, 1] [.port1] .result .result .unused false .zero true
      (true))
  | .grex h op => some (Info.mk .memory [.s64] [0] [] .result .result .result false .zero true
      (op != .exit || (h.t0.isNone && h.t1.isNone && h.t2.isNone)))
  | .post _ done _ => some (Info.mk .memory [.s64] [0, 1] [] .unused .unused .done done .zero true
      (true))
  | .recv _ _ _ => some (Info.mk .memory [.s64] [0] [] .result .result .unused false .zero true
      (true))
  | .bari _ _ => some (Info.mk .memory [.s64] [0] [] .result .result .result false .zero true
      (true))
  | .bar _ _ _ => some (Info.mk .memory [.s64] [0, 1] [.port1] .result .result .result false .zero true
      (true))
  | .barq _ _ => some (Info.mk .memory [.s64] [0] [] .result .result .result false .zero true
      (true))
  | .sow _ => some (Info.mk .memory [.s64] [0, 1] [] .result .result .result false .zero true
      (true))
  | .kdep _ => some (Info.mk .memory [.s64] [0, 1] [] .result .result .result false .zero true
      (true))
  | .kdec _ => some (Info.mk .memory [.s64] [0] [] .result .result .result false .zero true
      (true))
  | .yld _ => some (Info.mk .memory [.s64] [0] [] .result .result .result false .zero true
      (true))
  | .srd _ _ _ _ => some (Info.mk .compute [.s64] [0] [] .result .result .result false .zero true
      (true))
  | .swr h _ _ _ => some (Info.mk .compute [.s64] (if h.im = .port0 then [0, 1] else [0]) [.port0] .result .result .result false .zero true
      (true))
  | .trap _ _ => some (Info.mk .compute allTys [0] [] .result .result .result false .zero true
      (true))
  | .hcse h => some (Info.mk .compute [.s64] (if h.im = .port0 then [0, 1] else [0]) [.port0] .result .result .result false .zero true
      (true))
  | .hres h _ => some (Info.mk .compute [.s64] (if h.im = .port0 then [0, 1] else [0]) [.port0] .result .result .result false .zero true
      (true))
  | .hkil h => some (Info.mk .compute [.s64] (if h.im = .port0 then [0, 1] else [0]) [.port0] .unused .unused .unused false .zero true
      (true))
  | .halt _ _ => some (Info.mk .compute [.s64] [0] [] .result .result .result false .zero true
      (true))
  | .rrec _ _ => some (Info.mk .compute [.s64] [0] [] .result .result .result false .zero true
      (true))
  | .minj _ _ => some (Info.mk .compute [.s64] [0, 1] [] .result .result .result false .zero true
      (true))
  | .tlbi _ _ => some (Info.mk .compute [.s64] [0] [] .result .result .result false .zero true
      (true))
  | .pwrq _ _ fmask => some (Info.mk .compute [.s64] [0] [] .result .result .result false .zero true
      (fmask != 0))
  | .imtr _ _ => some (Info.mk .compute [.s64] [0] [] .result .result .result false .zero true
      (true))
  | .coldReset | .registerWrite | .tokenArrival | .overflowReturn | .accessArrival | .storeBufferIssue
  | .accessPerformed | .waiterRefusalRetry | .gets | .getx | .upg | .pute | .putm | .invAck | .fwdDone | .dataS
  | .dataE | .dataM | .grant | .inv | .fwdGets | .fwdGetx | .putAck | .requestReissue | .backInvalidation
  | .creditArrival | .pointAccepted | .streamAccessPerformed | .counterAdd | .ctkwJoin | .walkReturn
  | .wordServe | .chunkDone | .rowArrival | .rowBoundarySwitch | .pushWritten | .rowResultWritten
  | .gatherRowSent | .mrepPass | .fillerRow | .comparisonEnd | .drainPerformed | .groupPlacement
  | .dispatchToken | .quiescence | .groupRetired | .childCompletion | .portSpillReturn | .completionSignal
  | .enable | .disable | .clear | .kick | .watchWake | .backoffExpiry | .headerRead | .packetConsume
  | .fullLoad | .cachedLoad | .floorRaise | .loadBusy | .create | .start | .resume | .preempt | .freeze | .thaw
  | .kill | .release | .record | .replay | .norecord | .contextIdle | .expiry | .stall | .acknowledgement
  | .walkLevelRead | .adUpdate | .contiguousCheck | .walkerQueueRetry | .tlbiComplete | .blockLoadStarted
  | .blockLoadComplete | .imageTranslationFault | .entryTokenDelivery | .eviction | .evictionEnd
  | .consolidation | .migrationRequest | .migrationSwitch | .migrationRelease | .samplingWindow
  | .intervalBoundary | .guardTrip | .thresholdTrip | .thresholdRelease | .dwellEnd | .rackCapMessage
  | .leaseExpiry | .prtbaseWrite | .train | .quarantine | .linkRelease | .trainingComplete | .trainingTimeout
  | .laneFailure | .retrainComplete | .crcRetryFailure | .requestTimeout | .peerRequest | .peerResponse
  | .hostRead | .hostWrite | .hostSnoop | .homeOperation | .homeRead | .obreqWrite | .plotCycle | .flitCrcError
  | .plotOffline => none

/-- The common fields of an instruction; none for a step of the hardware. -/
def head? : Instr → Option Head
  | .mov h => some h
  | .sink h => some h
  | .steer h _ => some h
  | .select h => some h
  | .gate h => some h
  | .const h => some h
  | .exit h => some h
  | .call h _ _ => some h
  | .ret h => some h
  | .lpent h _ => some h
  | .lpnext h _ => some h
  | .lpexit h _ => some h
  | .tagrd h _ _ => some h
  | .tagwr h _ _ => some h
  | .thrd h _ => some h
  | .reord h => some h
  | .join h _ => some h
  | .argwr h => some h
  | .add h => some h
  | .sub h => some h
  | .mul h => some h
  | .mulh h => some h
  | .mad h => some h
  | .div h => some h
  | .rem h => some h
  | .neg h => some h
  | .abs h => some h
  | .min h => some h
  | .max h => some h
  | .and h => some h
  | .or h => some h
  | .xor h => some h
  | .andn h => some h
  | .shl h => some h
  | .shr h => some h
  | .sar h => some h
  | .rotl h => some h
  | .cmp h _ => some h
  | .clz h => some h
  | .ctz h => some h
  | .popc h => some h
  | .brev h => some h
  | .sext h => some h
  | .zext h => some h
  | .adds h => some h
  | .subs h => some h
  | .lea h _ => some h
  | .lut4 h _ => some h
  | .bext h _ _ _ => some h
  | .bins h _ _ => some h
  | .bsplit h _ _ => some h
  | .bjoin h _ => some h
  | .dec h _ _ => some h
  | .pext h => some h
  | .pdep h => some h
  | .bsel h => some h
  | .pkb h _ _ => some h
  | .pkm h => some h
  | .pks h _ => some h
  | .pkx h => some h
  | .pki h => some h
  | .pkr h _ => some h
  | .pkp h _ _ => some h
  | .pkl h _ => some h
  | .pkscan h _ _ => some h
  | .fadd h _ => some h
  | .fsub h _ => some h
  | .fmul h _ => some h
  | .fma h _ => some h
  | .fmin h => some h
  | .fmax h => some h
  | .fcmp h _ => some h
  | .fabs h => some h
  | .fneg h => some h
  | .fcls h _ => some h
  | .frcp h _ => some h
  | .frsq h _ => some h
  | .fex2 h _ => some h
  | .flg2 h _ => some h
  | .fsin h _ => some h
  | .fcos h _ => some h
  | .ftanh h _ => some h
  | .fdiv h _ => some h
  | .fsqrt h _ => some h
  | .cvt h _ _ => some h
  | .frnd h _ => some h
  | .fscl h _ => some h
  | .wad h _ => some h
  | .plgat h _ => some h
  | .plsct h _ => some h
  | .qnt h _ _ => some h
  | .dqnt h _ _ => some h
  | .bsc h _ => some h
  | .ld h _ => some h
  | .st h _ => some h
  | .lds h _ => some h
  | .stf h _ => some h
  | .clre h _ => some h
  | .mnop h _ => some h
  | .wadv h => some h
  | .fence h _ => some h
  | .atom h _ => some h
  | .red h _ => some h
  | .pref h _ => some h
  | .cctl h _ => some h
  | .ldg h _ => some h
  | .sts h _ => some h
  | .cnt h _ _ _ => some h
  | .cchn h _ _ _ => some h
  | .agen h => some h
  | .strl h _ _ _ _ _ _ => some h
  | .strs h _ _ _ => some h
  | .ctks h _ _ => some h
  | .ctkw h _ _ => some h
  | .cnrd h => some h
  | .cnwr h _ => some h
  | .cbini h _ => some h
  | .cbres h _ _ => some h
  | .cbcom h _ => some h
  | .cbacq h _ _ => some h
  | .cbrel h _ => some h
  | .cbst h _ => some h
  | .cpy h _ _ => some h
  | .cpy2 h _ _ => some h
  | .cpycb h _ _ => some h
  | .cpyq h _ _ => some h
  | .pmini h => some h
  | .pment h => some h
  | .pmex h => some h
  | .frq h _ => some h
  | .frl h => some h
  | .mwld h _ => some h
  | .mwsw h _ => some h
  | .mma h _ _ => some h
  | .mgat h _ => some h
  | .mrep h _ => some h
  | .mfil h => some h
  | .mclr h _ => some h
  | .mwr h _ _ => some h
  | .mchk h _ => some h
  | .mdrn h _ _ _ _ _ _ => some h
  | .mst h _ _ _ _ => some h
  | .mloc h => some h
  | .mfix h => some h
  | .mrty h => some h
  | .mrd h _ => some h
  | .mtol h _ => some h
  | .grex h _ => some h
  | .post h _ _ => some h
  | .recv h _ _ => some h
  | .bari h _ => some h
  | .bar h _ _ => some h
  | .barq h _ => some h
  | .sow h => some h
  | .kdep h => some h
  | .kdec h => some h
  | .yld h => some h
  | .srd h _ _ _ => some h
  | .swr h _ _ _ => some h
  | .trap h _ => some h
  | .hcse h => some h
  | .hres h _ => some h
  | .hkil h => some h
  | .halt h _ => some h
  | .rrec h _ => some h
  | .minj h _ => some h
  | .tlbi h _ => some h
  | .pwrq h _ _ => some h
  | .imtr h _ => some h
  | .coldReset | .registerWrite | .tokenArrival | .overflowReturn | .accessArrival | .storeBufferIssue
  | .accessPerformed | .waiterRefusalRetry | .gets | .getx | .upg | .pute | .putm | .invAck | .fwdDone | .dataS
  | .dataE | .dataM | .grant | .inv | .fwdGets | .fwdGetx | .putAck | .requestReissue | .backInvalidation
  | .creditArrival | .pointAccepted | .streamAccessPerformed | .counterAdd | .ctkwJoin | .walkReturn
  | .wordServe | .chunkDone | .rowArrival | .rowBoundarySwitch | .pushWritten | .rowResultWritten
  | .gatherRowSent | .mrepPass | .fillerRow | .comparisonEnd | .drainPerformed | .groupPlacement
  | .dispatchToken | .quiescence | .groupRetired | .childCompletion | .portSpillReturn | .completionSignal
  | .enable | .disable | .clear | .kick | .watchWake | .backoffExpiry | .headerRead | .packetConsume
  | .fullLoad | .cachedLoad | .floorRaise | .loadBusy | .create | .start | .resume | .preempt | .freeze | .thaw
  | .kill | .release | .record | .replay | .norecord | .contextIdle | .expiry | .stall | .acknowledgement
  | .walkLevelRead | .adUpdate | .contiguousCheck | .walkerQueueRetry | .tlbiComplete | .blockLoadStarted
  | .blockLoadComplete | .imageTranslationFault | .entryTokenDelivery | .eviction | .evictionEnd
  | .consolidation | .migrationRequest | .migrationSwitch | .migrationRelease | .samplingWindow
  | .intervalBoundary | .guardTrip | .thresholdTrip | .thresholdRelease | .dwellEnd | .rackCapMessage
  | .leaseExpiry | .prtbaseWrite | .train | .quarantine | .linkRelease | .trainingComplete | .trainingTimeout
  | .laneFailure | .retrainComplete | .crcRetryFailure | .requestTimeout | .peerRequest | .peerResponse
  | .hostRead | .hostWrite | .hostSnoop | .homeOperation | .homeRead | .obreqWrite | .plotCycle | .flitCrcError
  | .plotOffline => none

/-- The number of the port that IM marks (R60). -/
def immPort : Imm → Option Nat
  | .none => none
  | .port0 => some 0
  | .port1 => some 1
  | .port2 => some 2

/-- The ports that receive tokens (R65, R89): the data ports that IM does not mark, and the predicate port. -/
def tokenPorts (h : Head) (f : Info) : List Nat :=
  f.ports.filter (fun p => immPort h.im != some p) ++ (if h.pr = .always then [] else [3])

/-- Whether a target field is used as its column says (R62, R63; assumption 52 for a done target with DONE = 0). -/
def targetAllowed (u : TargetUse) (done : Bool) (t : Option Target) : Bool :=
  match u with
  | .result | .row => true
  | .unused => t.isNone
  | .done => t.isSome == done
  | .doneOrResult => !done || t.isSome

/-- The configuration word is a constant, a wave word, what the description assigns, or zero (R65, R66). -/
def cfgAllowed (h : Head) (f : Info) : Bool :=
  h.im != .none || (match f.cfg with
    | .zero => h.cfg == 0
    | .own => true
    | .wave => waveOwn h.cfg)

/-- An instruction that a block may be loaded with, as far as its own words decide it (R63 to R69). -/
def wellFormedIn (h : Head) (f : Info) : Bool :=
  f.types.contains h.ty &&
  (h.im == .none || (f.imms.contains h.im && h.ty != .lane &&
    f.ports.any (fun p => immPort h.im == some p))) &&
  (f.predicated || h.pr == .always) &&
  !(tokenPorts h f).isEmpty &&
  targetAllowed f.t0 f.done h.t0 && targetAllowed f.t1 f.done h.t1 && targetAllowed f.t2 f.done h.t2 &&
  cfgAllowed h f && f.limits


end Sys2Proof
end

