-- ==== Sys2Proof/Machine/Numbers.lean ====
section
/-! DEFINITION. Numbers (02_numbers.md): element types and format tags, integer arithmetic (R31 to R34), floating
values, rounding and subnormals (R35 to R42), bit-plane integers (R44, R45), conversions (R53). A floating value
in the middle of a computation is exact: a sign, a natural mantissa, an integer power of two, and a mark that
something smaller was left out below the mantissa's last bit. This hardware has no flags: nothing is recorded
beside a result (R31, R36). -/
namespace Sys2Proof.Machine

/-- Bits `lo` to `lo + n - 1` of a number. -/
def bitsOf (x lo n : Nat) : Nat := (x >>> lo) % 2 ^ n

/-- A truth value as a number. -/
def natOfBool (b : Bool) : Nat := if b then 1 else 0

/-- What a format tag names (R46): an element type, or a bit-plane format of precision k. -/
inductive Fmt where
  | elem (t : Ty)
  | plane (scaled : Bool) (k : Nat)
  deriving DecidableEq, Repr

/-- The format of a tag; a reserved tag has none (R46). -/
def fmtOfTag (t : BitVec 5) : Option Fmt :=
  if t.toNat ≤ 10 then (tyOfCode (t.setWidth 4)).map .elem
  else if bitPlaneTag t then some (.plane (t.getLsbD 3) (t.toNat % 8 + 2))
  else none

/-- The width N of a format (R46): the element width, or k. -/
def fmtWidth : Fmt → Nat
  | .elem t => tyWidth t
  | .plane _ k => k

/-- The tag of an element type (R46). -/
def tagOfTy (t : Ty) : BitVec 5 := (tyCode t).setWidth 5

/-- Lane width of a row tag in bits (R46, R47); none for a tag that no row carries. -/
def laneWidth (t : BitVec 5) : Option Nat :=
  match fmtOfTag t with
  | some (.plane _ k) => some (if k ≤ 4 then 4 else if k ≤ 6 then 6 else 8)
  | some (.elem .f16) | some (.elem .bf16) => some 16
  | _ => none

/-- Whether elements of this tag have 64-bit slots (R30, R136). -/
def wideTag (t : BitVec 5) : Bool := t == 0x00 || t == 0x04

/-- Whether elements of this type have 64-bit slots (R30). -/
def wideTy (t : Ty) : Bool := t == .s64 || t == .w64

/-- An integer tag, 0x00 to 0x07 (R194). -/
def intTag (t : BitVec 5) : Bool := decide (t.toNat ≤ 7)

/-- Signed integer types (R28). -/
def tySigned : Ty → Bool
  | .s64 | .s32 | .s16 | .s8 => true
  | _ => false

/-- Floating types (R28). -/
def tyFloating : Ty → Bool
  | .f32 | .f16 | .bf16 => true
  | _ => false

/-! ### Integers -/

/-- The low `n` bits of a number read as two's complement. -/
def signedOf (n : Nat) (x : Nat) : Int :=
  let v := x % 2 ^ n
  if 2 * v < 2 ^ n then (v : Int) else (v : Int) - (2 ^ n : Nat)

/-- `sext(v, n)` as a 64-bit word (R54). -/
def sextWord (n : Nat) (x : Nat) : Word := BitVec.ofInt 64 (signedOf n x)

/-- The low N bits of a slot as an unsigned number: `pattern` of R119. -/
def patternOf (t : Ty) (slot : Word) : Nat := slot.toNat % 2 ^ tyWidth t

/-- An element read as a value of an integer type (R30, R119). -/
def readInt (t : Ty) (slot : Word) : Int :=
  if tySigned t then signedOf (tyWidth t) slot.toNat else (patternOf t slot : Int)

/-- `wrap(v, ty)` as its slot holds it: the low N bits, extended by the type's signedness (R30, R31). -/
def writeInt (t : Ty) (v : Int) : Word :=
  let low := (v % (2 ^ tyWidth t : Nat)).toNat
  if tySigned t then sextWord (tyWidth t) low else BitVec.ofNat 64 low

/-- The smallest value of an integer type (R28). -/
def minOf (t : Ty) : Int := if tySigned t then -((2 ^ (tyWidth t - 1) : Nat) : Int) else 0

/-- The largest value of an integer type (R28). -/
def maxOf (t : Ty) : Int :=
  if tySigned t then ((2 ^ (tyWidth t - 1) : Nat) : Int) - 1 else ((2 ^ tyWidth t : Nat) : Int) - 1

/-- `v` clamped between two bounds. -/
def clampInt (lo hi v : Int) : Int := if v < lo then lo else if hi < v then hi else v

/-- `sat(v, ty)` (R32). -/
def satInt (t : Ty) (v : Int) : Int := clampInt (minOf t) (maxOf t) v

/-- `int_div` (R33, R54). -/
def intDiv (t : Ty) (a b : Int) : Int :=
  if b = 0 then -1
  else if tySigned t ∧ a = minOf t ∧ b = -1 then minOf t
  else a.tdiv b

/-- `int_rem` (R33, R54). -/
def intRem (t : Ty) (a b : Int) : Int :=
  if b = 0 then a
  else if tySigned t ∧ a = minOf t ∧ b = -1 then 0
  else a - b * intDiv t a b

/-- `shamt(c, ty)` (R34, R123). -/
def shamt (t : Ty) (b : Word) : Nat := patternOf t b % tyWidth t

/-- Bit `j` of the result takes bit `f j` of a list of choices: a number from its bits, low bit first. -/
def natOfBits : List Bool → Nat
  | [] => 0
  | b :: bs => natOfBool b + 2 * natOfBits bs

/-- The low `n` bits of a number, low bit first. -/
def bitList (n x : Nat) : List Bool := (List.range n).map x.testBit

/-- The number of leading true entries of a list. -/
def leadingWhile (p : Bool → Bool) : List Bool → Nat
  | [] => 0
  | b :: bs => if p b then leadingWhile p bs + 1 else 0

/-! ### Floating values -/

/-- A floating value that is exact but for `sticky`, which says that a nonzero amount below the last bit of the
mantissa was left out. -/
inductive FVal where
  | nan
  | inf (neg : Bool)
  | fin (neg : Bool) (m : Nat) (e : Int) (sticky : Bool)
  deriving DecidableEq, Repr

/-- Precision in bits, the hidden bit counted (R35). -/
def prec : Ty → Nat
  | .f16 => 11
  | .bf16 => 8
  | _ => 24

/-- The exponent of the smallest normal value (R35). -/
def expMin : Ty → Int
  | .f16 => -14
  | _ => -126

/-- The bits of +inf, all-ones exponent and zero fraction (R35). -/
def infBits : Ty → Nat
  | .f16 => 0x7C00
  | .bf16 => 0x7F80
  | _ => 0x7F80_0000

/-- The default NaN (R35, R54). -/
def defaultNan : Ty → Nat
  | .f16 => 0x7E00
  | .bf16 => 0x7FC0
  | _ => 0x7FC0_0000

/-- The sign bit set or clear on the bits of a magnitude (R35). -/
def withSign (t : Ty) (neg : Bool) (bits : Nat) : Nat :=
  if neg then bits + 2 ^ (tyWidth t - 1) else bits

/-- The value of the low N bits of a slot in a floating type (R35). -/
def unpack (t : Ty) (slot : Word) : FVal :=
  let x := patternOf t slot
  let neg := x.testBit (tyWidth t - 1)
  let mag := x % 2 ^ (tyWidth t - 1)
  let f := mag % 2 ^ (prec t - 1)
  let ex := mag / 2 ^ (prec t - 1)
  if mag > infBits t then .nan
  else if mag = infBits t then .inf neg
  else if ex = 0 then .fin neg f (expMin t - (prec t - 1 : Nat)) false
  else .fin neg (f + 2 ^ (prec t - 1)) (expMin t - (prec t - 1 : Nat) + (ex - 1 : Nat)) false

/-- The mantissa `m` cut by `sh` bits and rounded in a mode (R39, R41); `rho` is the 16-bit draw of SR. -/
def roundShift (rm : Rnd) (neg : Bool) (rho m sh : Nat) (sticky : Bool) : Nat :=
  let t := m >>> sh
  let r := m % 2 ^ sh
  let up := match rm with
    | .rne => decide (2 ^ sh < 2 * r) || (decide (2 * r = 2 ^ sh) && (sticky || t.testBit 0))
    | .rtz => false
    | .rup => !neg && (decide (r ≠ 0) || sticky)
    | .rdn => neg && (decide (r ≠ 0) || sticky)
    | .rna => decide (2 ^ sh ≤ 2 * r)
    | .sr => decide (2 ^ 16 ≤ (r * 2 ^ 16) >>> sh + rho)
  if up then t + 1 else t

/-- The bits of an overflowed result (R40). -/
def overflowBits (t : Ty) (rm : Rnd) (neg : Bool) : Nat :=
  let toInf := match rm with
    | .rne | .rna | .sr => true
    | .rtz => false
    | .rup => !neg
    | .rdn => neg
  withSign t neg (if toInf then infBits t else infBits t - 1)

/-- The bits of a finite magnitude at quantum exponent `q`, before overflow: the exponent field counts quanta above
the subnormal one, and a mantissa that carries runs into it (R35). -/
def magBits (t : Ty) (q : Int) (m : Nat) : Nat :=
  (q - (expMin t - (prec t - 1 : Nat))).toNat * 2 ^ (prec t - 1) + m

/-- `round(x, fmt, mode)` as bits (R39 to R41, R54). -/
def roundReal (t : Ty) (rm : Rnd) (rho : Nat) : FVal → Nat
  | .nan => defaultNan t
  | .inf neg => withSign t neg (infBits t)
  | .fin neg m e sticky =>
    if m = 0 then withSign t neg 0
    else
      let q := max (e + (Nat.log2 m : Int) - (prec t - 1 : Nat)) (expMin t - (prec t - 1 : Nat))
      let n := if q ≤ e then m <<< (e - q).toNat else roundShift rm neg rho m (q - e).toNat sticky
      let b := magBits t q n
      if infBits t ≤ b then overflowBits t rm neg else withSign t neg b

/-- `ftz_src` on a value (R42): a subnormal of the format becomes a zero of its sign. -/
def ftzSrc (ftz : Bool) (t : Ty) : FVal → FVal
  | .fin neg m e s =>
    if ftz && m != 0 && decide (e + (Nat.log2 m : Int) < expMin t) then .fin neg 0 0 false else .fin neg m e s
  | r => r

/-- `ftz_res` on result bits (R42). -/
def ftzRes (ftz : Bool) (t : Ty) (bits : Nat) : Nat :=
  let mag := bits % 2 ^ (tyWidth t - 1)
  if ftz && decide (mag < 2 ^ (prec t - 1)) then bits - mag else bits

/-- The sign of a value. -/
def realNeg : FVal → Bool
  | .nan => false
  | .inf n => n
  | .fin n _ _ _ => n

/-- A signed mantissa. -/
def signedMant (neg : Bool) (m : Nat) : Int := if neg then -(m : Int) else (m : Int)

/-- A value with its sign changed. -/
def negReal : FVal → FVal
  | .nan => .nan
  | .inf n => .inf (!n)
  | .fin n m e s => .fin (!n) m e s

/-- The exact value of an integer. -/
def realOfInt (v : Int) : FVal := .fin (decide (v < 0)) v.natAbs 0 false

/-- An exact sum. The sign of an exact zero sum is R38's: negative only in RDN, unless both operands are zeros of
one sign. -/
def addReal (rm : Rnd) : FVal → FVal → FVal
  | .nan, _ | _, .nan => .nan
  | .inf a, .inf b => if a = b then .inf a else .nan
  | .inf a, .fin _ _ _ _ => .inf a
  | .fin _ _ _ _, .inf b => .inf b
  | .fin na ma ea _, .fin nb mb eb _ =>
    let e := min ea eb
    let v := signedMant na (ma <<< (ea - e).toNat) + signedMant nb (mb <<< (eb - e).toNat)
    if v = 0 then .fin (if ma = 0 ∧ mb = 0 ∧ na = nb then na else rm = .rdn) 0 0 false
    else .fin (decide (v < 0)) v.natAbs e false

/-- An exact product (R37). -/
def mulReal : FVal → FVal → FVal
  | .nan, _ | _, .nan => .nan
  | .inf a, .inf b => .inf (xor a b)
  | .inf a, .fin n m _ _ => if m = 0 then .nan else .inf (xor a n)
  | .fin n m _ _, .inf b => if m = 0 then .nan else .inf (xor n b)
  | .fin na ma ea _, .fin nb mb eb _ => .fin (xor na nb) (ma * mb) (ea + eb) false

/-- A quotient to at least 66 bits, with the rest in the mark (R36, R37). -/
def divReal : FVal → FVal → FVal
  | .nan, _ | _, .nan => .nan
  | .inf _, .inf _ => .nan
  | .inf a, .fin n _ _ _ => .inf (xor a n)
  | .fin n _ _ _, .inf b => .fin (xor n b) 0 0 false
  | .fin na ma ea _, .fin nb mb eb _ =>
    if mb = 0 then (if ma = 0 then .nan else .inf (xor na nb))
    else
      let k := 66 + Nat.log2 mb - Nat.log2 ma
      .fin (xor na nb) ((ma <<< k) / mb) (ea - eb - k) (decide ((ma <<< k) % mb ≠ 0))

/-- The integer square root of `n`, bit by bit from bit `i - 1` down, above the part `r` already found. -/
def isqrtFrom : Nat → Nat → Nat → Nat
  | 0, _, r => r
  | i + 1, n, r => isqrtFrom i n (if (r + 2 ^ i) * (r + 2 ^ i) ≤ n then r + 2 ^ i else r)

/-- floor(√n). -/
def isqrt (n : Nat) : Nat := isqrtFrom (Nat.log2 n / 2 + 1) n 0

/-- A square root to at least 66 bits, with the rest in the mark (R37, R38). -/
def sqrtReal : FVal → FVal
  | .nan => .nan
  | .inf n => if n then .nan else .inf false
  | .fin n m e _ =>
    if m = 0 then .fin n 0 0 false
    else if n then .nan
    else
      let k := if e % 2 = 0 then 132 else 133
      let r := isqrt (m <<< k)
      .fin false r ((e - k) / 2) (decide (r * r ≠ m <<< k))

/-- Whether a ≤ b for values that are not NaN, with −0 below +0 only where `zeros` says so (R151, R152). -/
def leReal (zeros : Bool) : FVal → FVal → Bool
  | .inf a, .inf b => a || !b
  | .inf a, _ => a
  | _, .inf b => !b
  | .fin na ma ea _, .fin nb mb eb _ =>
    let e := min ea eb
    let a := signedMant na (ma <<< (ea - e).toNat)
    let b := signedMant nb (mb <<< (eb - e).toNat)
    if ma = 0 ∧ mb = 0 ∧ zeros then na || !nb else decide (a ≤ b)
  | _, _ => false

/-- Whether a value is a NaN. -/
def isNan : FVal → Bool
  | .nan => true
  | _ => false

/-- `fmin` (R151), or `fmax` where `larger`. -/
def minReal (larger : Bool) (a b : FVal) : FVal :=
  if isNan a || isNan b then .nan
  else if (if larger then leReal true b a else leReal true a b) then a else b

/-- The condition of `fcmp` (R152). -/
def floatCond (c : FloatCond) (a b : FVal) : Bool :=
  let un := isNan a || isNan b
  let le := leReal false a b
  let ge := leReal false b a
  match c with
  | .eq => !un && le && ge
  | .ne => un || !(le && ge)
  | .lt => !un && !ge
  | .le => !un && le
  | .gt => !un && !le
  | .ge => !un && ge
  | .un => un
  | .ord => !un

/-- The class bit of `fcls` (R154). -/
def classBit (t : Ty) : FVal → Nat
  | .nan => 8
  | .inf n => if n then 0 else 7
  | .fin n m e _ =>
    if m = 0 then (if n then 3 else 4)
    else if e + (Nat.log2 m : Int) < expMin t then (if n then 2 else 5)
    else (if n then 1 else 6)

/-- A finite value rounded to an integer in a mode, with ulp 1 under SR (R41, R53). -/
def roundInt (rm : Rnd) (rho : Nat) (neg : Bool) (m : Nat) (e : Int) (sticky : Bool) : Int :=
  signedMant neg (if 0 ≤ e then m <<< e.toNat else roundShift rm neg rho m (-e).toNat sticky)

/-- `cvt_to(x, ty, mode)` for an integer type (R53). -/
def realToInt (t : Ty) (rm : Rnd) (rho : Nat) : FVal → Int
  | .nan => 0
  | .inf n => if n then minOf t else maxOf t
  | .fin n m e s => satInt t (roundInt rm rho n m e s)

/-- `frnd` (R157): an integral value of the same sign. -/
def roundIntegral (rm : Rnd) (rho : Nat) : FVal → FVal
  | .fin n m e s => if 0 ≤ e then .fin n m e s else .fin n (roundInt rm rho n m e s).natAbs 0 false
  | r => r

/-- x × 2^n, with n held to a range beyond which every format has over- or underflowed (R158). -/
def scaleReal (n : Int) : FVal → FVal
  | .fin neg m e s => .fin neg m (e + clampInt (-4096) 4096 n) s
  | r => r

/-- `q × 2^(8−k) × 2^s`, or +0 for the scale code 0x80 (R45, R54, R166). -/
def planeReal (k : Nat) (s : Int) (q : Int) : FVal :=
  if s = -128 then .fin false 0 0 false else .fin (decide (q < 0)) q.natAbs (8 - (k : Int) + s) false

/-! ### Stochastic rounding -/

/-- `mix64` (R41). -/
def mix64 (z : Word) : Word :=
  let a := (z ^^^ (z >>> 30)) * 0xBF58_476D_1CE4_E5B9
  let b := (a ^^^ (a >>> 27)) * 0x94D0_49BB_1331_11EB
  b ^^^ (b >>> 31)

/-- `sr_bits(tag, thread, elem, bid, slot)` under a context's seed (R41). -/
def srBits (seed tag : Word) (thread elem bid slot : Nat) : Nat :=
  let w : Word := BitVec.ofNat 64 (thread ||| (slot <<< 10) ||| (elem <<< 17) ||| (bid <<< 29))
  (mix64 (mix64 (seed ^^^ tag) ^^^ w)).toNat >>> 48

end Sys2Proof.Machine
end

