-- ==== Sys2Proof/Machine/Operands.lean ====
section
/-! DEFINITION. Operands and results of a firing: reading an element of a packet or a constant (R29, R30, R65,
R119), the widths that a token's own tag gives (R46, R64, R99), lengths (R118), and building the packets that a
firing sends (R29, R62). Nothing here reads the state: what a firing needs of it stands in FireCtx. -/
namespace Sys2Proof.Machine

/-- A fault with its cause alone. -/
def causeOnly (c : BitVec 8) : FaultInfo := FaultInfo.mk c 0 0

/-! Cause codes (R427). -/

def causeBadOpcode : BitVec 8 := 0x01
def causePrivilege : BitVec 8 := 0x02
def causeTagOverflow : BitVec 8 := 0x03
def causePacketLength : BitVec 8 := 0x04
def causeFormat : BitVec 8 := 0x05
def causeAlign : BitVec 8 := 0x06
def causeTrInvalid : BitVec 8 := 0x10
def causeTrPerm : BitVec 8 := 0x11
def causeTrRsvd : BitVec 8 := 0x12
def causeTrAttr : BitVec 8 := 0x13
def causeTrPeer : BitVec 8 := 0x14
def causeCbOversize : BitVec 8 := 0x20
def causeBadTarget : BitVec 8 := 0x22
def causeChkLocated : BitVec 8 := 0x30
def causeChkMulti : BitVec 8 := 0x31
def causeRetryExhausted : BitVec 8 := 0x32
def causeMemUncorrectable : BitVec 8 := 0x40
def causeFurrowGuard : BitVec 8 := 0x50
def causeDeadline : BitVec 8 := 0x60
def causeDoubleFault : BitVec 8 := 0x7F

/-- A check inside a firing: the fault where it fails. -/
def require (ok : Bool) (c : BitVec 8) : Except FaultInfo Unit :=
  if ok then .ok () else .error (causeOnly c)

/-- What a firing has: where it stands, its op word's fields, its matched set (lowest port first), the settings of
its context that it reads once (R149), and the state's counter of free values. -/
structure FireCtx where
  plot : Nat
  block : BlockId
  slot : BitVec 7
  head : Head
  toks : List (BitVec 2 × Token)
  ftz : Bool
  seed : Word
  fresh : Nat
  deriving DecidableEq, Repr

/-- The empty envelope: that of no token. -/
def noEnv : Envelope := Envelope.mk 0 0 0 0 []

/-- The envelope of a firing's results (R89): that of the lowest-numbered input port of the set. -/
def envOf (toks : List (BitVec 2 × Token)) : Envelope :=
  match toks with
  | (_, t) :: l => { t.env with edges := (t.env.edges ++ l.flatMap (fun x => x.2.env.edges)).eraseDups }
  | [] => noEnv

/-- The envelope of a firing's results (R89). -/
def FireCtx.env (c : FireCtx) : Envelope := envOf c.toks

/-- The envelope's key (R89). -/
def keyOf (e : Envelope) : Key := Key.mk e.tag e.thread e.gslot

/-- A packet of no elements' value, for a port that holds none. -/
def noPacket : Packet := Packet.mk 0 0 0 none

/-- The token on a port, if the set holds one. -/
def tokenAt (toks : List (BitVec 2 × Token)) (p : Nat) : Option Token :=
  (toks.find? (fun t => t.1.toNat == p)).map Prod.snd

/-- The packet on a port of the firing. -/
def packetAt (c : FireCtx) (p : Nat) : Packet :=
  match tokenAt c.toks p with
  | some t => t.pkt
  | none => noPacket

/-- Whether IM marks a port, so that its operand is the configuration word (R65). -/
def isConst (c : FireCtx) (p : Nat) : Bool := immPort c.head.im == some p

/-- The length of a packet (R87). -/
def packetLen (k : Packet) : Nat := k.lenM1.toNat + 1

/-- The length of the operand on a port; a constant has length 1 (R65). -/
def lenAt (c : FireCtx) (p : Nat) : Nat := if isConst c p then 1 else packetLen (packetAt c p)

/-- The slot of element `i` of a packet (R30), 64-bit slots where `wide`. A 64-bit element that no link word
carries is a free value (assumption 7). -/
def packetSlot (wide : Bool) (free : Nat) (k : Packet) (i : Nat) : Word :=
  if wide then
    if i < 4 then k.lo.extractLsb' (64 * i) 64
    else match k.hi with
      | some h => h.extractLsb' (64 * (i - 4)) 64
      | none => Config.freeWord (free + i)
  else (k.lo.extractLsb' (32 * i) 32).setWidth 64

/-- The slot of element `i` of the operand on a port, read with slots of the given size (R30, R65). -/
def slotAt (c : FireCtx) (wide : Bool) (p i : Nat) : Word :=
  if isConst c p then c.head.cfg else packetSlot wide (c.fresh + 8 * p) (packetAt c p) i

/-- `elem(p, i)` of R119 as a slot: element i, or element 0 of an operand of length 1. -/
def elemAt (c : FireCtx) (wide : Bool) (p i : Nat) : Word := slotAt c wide p (if lenAt c p = 1 then 0 else i)

/-- The format of the token on a port; a reserved tag faults with FORMAT (R46). -/
def formatAt (c : FireCtx) (p : Nat) : Except FaultInfo Fmt :=
  match fmtOfTag (packetAt c p).fmt with
  | some f => .ok f
  | none => .error (causeOnly causeFormat)

/-- Element `i` of a port read as an unsigned integer of the width of its own tag (R46, R119); a constant is its 64
bits. -/
def ownUnsigned (c : FireCtx) (p i : Nat) : Except FaultInfo Nat :=
  if isConst c p then .ok c.head.cfg.toNat
  else do
    let f ← formatAt c p
    .ok ((packetSlot (wideTag (packetAt c p).fmt) (c.fresh + 8 * p) (packetAt c p) i).toNat % 2 ^ fmtWidth f)

/-- `idx(p)` (R119). -/
def idxAt (c : FireCtx) (p : Nat) : Except FaultInfo Nat := ownUnsigned c p 0

/-- Element `i` of a port that must carry an integer tag, read with that tag's width and signedness (R194); a
constant is a signed 64-bit word. -/
def intOperand (c : FireCtx) (p i : Nat) : Except FaultInfo Int :=
  if isConst c p then .ok (c.head.cfg.toInt)
  else
    match fmtOfTag (packetAt c p).fmt with
    | some (.elem t) =>
      if tyFloating t then .error (causeOnly causeFormat)
      else .ok (readInt t (packetSlot (wideTag (packetAt c p).fmt) (c.fresh + 8 * p) (packetAt c p) i))
    | _ => .error (causeOnly causeFormat)

/-- Element `i` of a port that must carry an integer tag, read as a signed integer of that tag's width (R158); a
constant is a signed 64-bit word. -/
def signedOperand (c : FireCtx) (p i : Nat) : Except FaultInfo Int :=
  if isConst c p then .ok (c.head.cfg.toInt)
  else
    match fmtOfTag (packetAt c p).fmt with
    | some (.elem t) =>
      if tyFloating t then .error (causeOnly causeFormat)
      else .ok (signedOf (fmtWidth (.elem t))
        ((packetSlot (wideTag (packetAt c p).fmt) (c.fresh + 8 * p) (packetAt c p) i).toNat % 2 ^ fmtWidth (.elem t)))
    | _ => .error (causeOnly causeFormat)

/-- The same as an unsigned integer of its tag's width (R194). -/
def natOperand (c : FireCtx) (p i : Nat) : Except FaultInfo Nat :=
  if isConst c p then .ok c.head.cfg.toNat
  else if intTag (packetAt c p).fmt then ownUnsigned c p i else .error (causeOnly causeFormat)

/-- Whether element 0 of a packet is nonzero in the low N bits of its slot, N from its own tag: the predicate and
control test (R64, R99). A reserved tag has no answer. -/
def truthOf (free : Nat) (k : Packet) (i : Nat) : Option Bool :=
  (fmtOfTag k.fmt).map (fun f => decide ((packetSlot (wideTag k.fmt) free k i).toNat % 2 ^ fmtWidth f ≠ 0))

/-- The control value on a port (R99); a reserved tag faults with FORMAT. -/
def controlAt (c : FireCtx) (p i : Nat) : Except FaultInfo Bool :=
  match truthOf (c.fresh + 8 * p) (packetAt c p) i with
  | some b => .ok b
  | none => .error (causeOnly causeFormat)

/-! ### Lengths (R118) -/

/-- The largest of some lengths, at least 1. -/
def maxLen (ls : List Nat) : Nat := ls.foldl max 1

/-- The result length of an element-wise firing (R118). -/
def commonLen (ls : List Nat) : Except FaultInfo Nat :=
  if ls.all (fun l => l == 1 || l == maxLen ls) then .ok (maxLen ls) else .error (causeOnly causePacketLength)

/-! ### Results -/

/-- Slots laid out in a link word, `w` bits each (R30). -/
def layOut (w : Nat) : List Word → LinkWord
  | [] => 0
  | x :: xs => (x.setWidth w).setWidth 256 ||| (layOut w xs <<< w)

/-- A packet of the given slots under a tag (R29, R30, R88). -/
def mkPacket (fmt : BitVec 5) (xs : List Word) : Packet :=
  if wideTag fmt then
    Packet.mk fmt (BitVec.ofNat 3 (xs.length - 1)) (layOut 64 (xs.take 4))
      (if xs.length ≤ 4 then none else some (layOut 64 (xs.drop 4)))
  else Packet.mk fmt (BitVec.ofNat 3 (xs.length - 1)) (layOut 32 (xs.take 8)) none

/-- A packet under another tag with the same bits (R101). A packet that travels in one link word has no second one
(R88). -/
def retag (fmt : BitVec 5) (k : Packet) : Packet :=
  Packet.mk fmt k.lenM1 k.lo (if wideTag fmt && decide (3 < k.lenM1.toNat) then k.hi else none)

/-- A length-1 .w32 packet (R324, R413: a status). -/
def statusPacket (n : Nat) : Packet := mkPacket 0x05 [BitVec.ofNat 64 n]

/-- A length-1 .w64 packet: an address, a tag, a register value. -/
def word64Packet (w : Word) : Packet := mkPacket 0x04 [w]

/-- A token to a target field of the firing's op word. -/
structure Send where
  dest : Target
  tok : Token
  deriving DecidableEq, Repr

/-- A token to a target field, if it is in use. -/
def sendTo (t : Option Target) (tok : Token) : List Send :=
  match t with
  | some t => [Send.mk t tok]
  | none => []

/-- The same token to every target in use (R62). -/
def sendEach (h : Head) (tok : Token) : List Send := sendTo h.t0 tok ++ sendTo h.t1 tok ++ sendTo h.t2 tok

/-- A packet to every target in use under the firing's envelope (R62, R89). -/
def emit (c : FireCtx) (k : Packet) : List Send := sendEach c.head (Token.mk c.env k)

/-- The format tag that a firing writes for TY (R29): TY's own, or the tag of the operand on port 0. -/
def resultTag (c : FireCtx) : BitVec 5 :=
  if c.head.ty = .lane then (packetAt c 0).fmt else tagOfTy c.head.ty

/-- An element-wise firing (R118, R119, R121): each result slot from the operands' slots at its position. -/
def elementwise (c : FireCtx) (ports : List Nat) (f : Nat → List Word → Word) : Except FaultInfo (List Send) := do
  let n ← commonLen (ports.map (lenAt c))
  .ok (emit c (mkPacket (tagOfTy c.head.ty)
    ((List.range n).map (fun i => f i (ports.map (fun p => elemAt c (wideTy c.head.ty) p i))))))

/-- The tags of data operands of a `.lane` firing are equal and not reserved (R29). -/
def laneCheck (c : FireCtx) (ports : List Nat) : Except FaultInfo Unit :=
  if c.head.ty = .lane then do
    let _ ← formatAt c 0
    require (ports.all (fun p => isConst c p || (packetAt c p).fmt == (packetAt c 0).fmt)) causeFormat
  else .ok ()

/-- The format that a firing reads its data in: TY's, or with `.lane` that of port 0's tag (R29). -/
def dataFmt (c : FireCtx) : Except FaultInfo Fmt :=
  if c.head.ty = .lane then formatAt c 0 else .ok (.elem c.head.ty)

/-- Whether data slots are 64 bits wide (R136). -/
def dataWide (c : FireCtx) : Bool := wideTag (resultTag c)

/-- A slot as a producer of its format writes it (R30): the low N bits, sign-extended for signed and bit-plane
values, zero-extended for the rest. -/
def normSlot (f : Fmt) (x : Word) : Word :=
  match f with
  | .elem t => if tyFloating t then BitVec.ofNat 64 (patternOf t x) else writeInt t (readInt t x)
  | .plane _ k => sextWord k x.toNat

/-- The packet on a port passed through with its type handled as R101 says; a constant is a length-1 packet. -/
def passed (c : FireCtx) (p : Nat) : Packet :=
  if isConst c p then mkPacket (tagOfTy c.head.ty) [normSlot (.elem c.head.ty) c.head.cfg]
  else if c.head.ty = .lane then packetAt c p else retag (tagOfTy c.head.ty) (packetAt c p)

/-- Every element of the operand on a port in the firing's data format, as a producer writes it. -/
def elemsAt (c : FireCtx) (f : Fmt) (p : Nat) : List Word :=
  (List.range (lenAt c p)).map (fun i => normSlot f (slotAt c (dataWide c) p i))

end Sys2Proof.Machine
end

