-- ==== Sys2Proof/Machine/Ops.lean ====
section
/-! DEFINITION. The named operations over the state that every family shares: reading and changing a plot, a block
copy, a group or a context; sending tokens (R62, R94); counting an event (R191, R192); making a pre-emption request
(R419); taking a fault (R425 to R430), killing a group (R430, R434), and what every firing does (R64, R89, R91,
R415). -/
namespace Sys2Proof.Machine

/-- What every step of this machine answers. -/
abbrev Result := Host.Outcome State Fault Refusal

/-! ### Association lists -/

/-- The value of a key, or a default. -/
def lookupD {α β : Type} [DecidableEq α] (d : β) (k : α) : List (α × β) → β
  | [] => d
  | (a, b) :: l => if a = k then b else lookupD d k l

/-- The list with a key's value replaced, or added at the end. -/
def assocSet {α β : Type} [DecidableEq α] (k : α) (v : β) : List (α × β) → List (α × β)
  | [] => [(k, v)]
  | (a, b) :: l => if a = k then (k, v) :: l else (a, b) :: assocSet k v l

/-! ### Parts of the state -/

/-- A plot; one that does not exist reads as a plot after reset. -/
def plotAt (s : State) (p : Nat) : Plot := s.plots.getD p Plot.reset

/-- The state with a plot changed. -/
def modPlot (s : State) (p : Nat) (f : Plot → Plot) : State := { s with plots := s.plots.modify p f }

/-- The state with the block scheduler of a plot changed. -/
def modBlocks (s : State) (p : Nat) (f : BlockUnit → BlockUnit) : State :=
  modPlot s p (fun x => { x with blocks := f x.blocks })

/-- The state with the control unit of a plot changed. -/
def modUnit (s : State) (p : Nat) (f : GroupUnit → GroupUnit) : State :=
  modPlot s p (fun x => { x with unit := f x.unit })

/-- The copy of a block on a plot, if the plot tracks one (R171). -/
def copyOf (s : State) (p : Nat) (b : BlockId) : Option Copy :=
  (plotAt s p).blocks.copies.find? (fun c => c.id == b)

/-- The state with the copy of a block changed. -/
def modCopy (s : State) (p : Nat) (b : BlockId) (f : Copy → Copy) : State :=
  modBlocks s p (fun u => { u with copies := u.copies.map (fun c => if c.id = b then f c else c) })

/-- A context by its id (R406). -/
def ctxAt (s : State) (c : BitVec 12) : Ctx := lookupD Ctx.free c.toNat s.ctxs

/-- The state with a context changed. -/
def modCtx (s : State) (c : BitVec 12) (f : Ctx → Ctx) : State :=
  { s with ctxs := assocSet c.toNat (f (ctxAt s c)) s.ctxs }

/-- The headland context (R406). -/
def headland : BitVec 12 := 0

/-- The registers of a context as a plot has them (R412): with the writes that have reached it. -/
def regsOn (s : State) (c : BitVec 12) (p : Nat) : CtxRegs :=
  (s.regWrites.filter (fun w => w.ctx == c && !w.left.contains p)).foldl (fun r w => writeCtxRegs (c != headland) r w.reg w.value)
    (ctxAt s c).regs

/-- The state with what a plot counts for a context changed (R415). -/
def modCount (s : State) (c : BitVec 12) (p : Nat) (f : PlotCount → PlotCount) : State :=
  modCtx s c (fun x => { x with counts := x.counts.modify p f })

/-- The group in a slot of a plot (R336). -/
def groupAt (s : State) (p : Nat) (g : BitVec 3) : Option Group :=
  ((plotAt s p).unit.groups.getD g.toNat none)

/-- The state with a group changed. -/
def modGroup (s : State) (p : Nat) (g : BitVec 3) (f : Group → Group) : State :=
  modUnit s p (fun u => { u with groups := u.groups.modify g.toNat (fun o => o.map f) })

/-- The die of a plot; plots 32 to 35 are the headlands of dies 0 to 3 (R15, R16). -/
def dieOf (p : Nat) : Nat := if p < 32 then p / 8 else p - 32

/-! ### Event counters (R190 to R192) -/

/-- A counter counts an event of a context (none: of no context; it then counts under CF only while a group of CID is on
the plot). -/
def countsEvent (ev : BitVec 6) (mine : BitVec 12 → Bool) (scev : Word) : Bool :=
  scev.getLsbD 6 && scev.extractLsb' 0 6 == ev && ev != 0 && decide (ev.toNat < 0x1E) &&
    (!scev.getLsbD 28 || mine (scev.extractLsb' 16 12))

/-- One counter after `k` occurrences of an event. -/
def countOne (ev : BitVec 6) (k : Nat) (mine : BitVec 12 → Bool) (scev scct : Word) : Word :=
  if countsEvent ev mine scev then ((scct.setWidth 48 + BitVec.ofNat 48 k : BitVec 48)).setWidth 64 else scct

/-- Whether a group of a context is on a plot. -/
def ctxOnPlot (s : State) (p : Nat) (c : BitVec 12) : Bool :=
  (plotAt s p).unit.groups.any (fun o => o.any (fun g => g.ctx == c))

/-- `k` occurrences of an event on a plot (R191, R192). -/
def countEvent (s : State) (p : Nat) (ev : BitVec 6) (ctx : Option (BitVec 12)) (k : Nat) : State :=
  let mine := fun c => match ctx with
    | some x => x == c
    | none => ctxOnPlot s p c
  modBlocks s p (fun u => { u with
    scct := List.zipWith (countOne ev k mine) u.scev u.scct
    sccy := List.zipWith (fun e n => if countsEvent ev mine e then n + k else n) u.scev u.sccy })

/-! ### Sending -/

/-- Tokens put into flight to slots of the sending block (R61, R94). -/
def sendAll (s : State) (p : Nat) (b : BlockId) (xs : List Send) : State :=
  { s with flights := s.flights ++ xs.map (fun x => Flight.mk (Dest.mk p b x.dest.slot x.dest.port) x.tok .inner false false) }

/-- The tokens among those in flight from the `n`-th on that leave a station come back through a memory PE's return port (R471). -/
def markReturns (n : Nat) (s : State) : State :=
  { s with flights := s.flights.take n ++ (s.flights.drop n).map (fun f => if f.edge = .inner then { f with edge := .back } else f) }

/-- What a memory PE's instruction has sent leaves through its return port: `r` is what becomes of `s` (R471). -/
def throughPort (s : State) (r : Result) : Result :=
  match r with
  | .next t => .next (markReturns s.flights.length t)
  | .fault f => .fault f
  | .refused f => .refused f

/-- Tokens that a memory PE returns (R471). -/
def sendBack (s : State) (p : Nat) (b : BlockId) (xs : List Send) : State := markReturns s.flights.length (sendAll s p b xs)

/-- A token in flight enters its block from outside (R105, R174). -/
def isEntry (f : Flight) : Bool := f.edge == .own || f.edge == .entry || f.edge == .dispatch

/-- A token put into flight to an entry of a block (R105, R174). -/
def sendEntry (s : State) (edge : EdgeKind) (p : Nat) (b : BlockId) (slot : BitVec 7) (port : BitVec 2) (t : Token) : State :=
  { s with flights := s.flights ++ [Flight.mk (Dest.mk p b slot port) t edge false false] }

/-! ### Requests (R419) -/

/-- The engine classes of a plot (R420). -/
def engineClasses : List EngineClass :=
  [.fabric, .matrix, .accumulators, .drains, .streams, .copy, .walker, .storeBuffer, .waiters, .barriers, .network, .scheduler, .groups]

/-- A control unit holds something of a context. -/
def unitHasCtx (c : BitVec 12) (u : GroupUnit) : Bool :=
  let mine := fun (h : Held) => h.block.ctx == c
  u.groups.any (fun o => o.any (fun g => g.ctx == c)) || u.waiters.any (fun w => mine w.held) || u.barWaiters.any (fun w => mine w.held) ||
    u.refused.any (fun w => mine w.held) || u.channels.any (fun k => k.ctx == c) || u.adds.any (fun w => mine w.held) ||
    u.joins.any (fun w => mine w.held)

/-- A walker holds something of a context. -/
def walkerHasCtx (c : BitVec 12) (w : Walker) : Bool :=
  w.queue.any (fun q => q.ctx == c) || w.walks.any (fun x => x.ctx == c) || w.returned.any (fun x => x.ctx == c) ||
    w.stations.any (fun x => x.block.ctx == c || x.leaf.ctx == c)

/-- A plot holds state of a context (R419). -/
def plotHasCtx (s : State) (c : BitVec 12) (p : Nat) : Bool :=
  let x := plotAt s p
  let mine := fun (b : BlockId) => b.ctx == c
  unitHasCtx c x.unit || walkerHasCtx c x.walker || x.blocks.copies.any (fun k => mine k.id) || x.accesses.any (fun a => mine a.block) ||
    x.iterative.any (fun y => mine y.block) || x.waves.any (fun w => w.ctx == c) || x.chains.any (fun k => mine k.block) ||
    x.savedTiles.any (fun t => mine t.block) || x.savedCopies.any (fun r => mine r.2.held.block) ||
    x.savedPlaces.any (fun w => mine w.held.block) || x.copyQueues.any (fun q => q.any (fun r => mine r.held.block)) ||
    s.engReqs.any (fun q => q.plot == p && q.ctx == c) || s.flights.any (fun t => t.dest.plot == p && mine t.dest.block) ||
    s.rows.any (fun t => t.dest.plot == p && mine t.dest.block)

/-- The home at which a part of an access of a context waits, for its word or for its turn. -/
def waiterHome (s : State) (c : BitVec 12) (w : HomeWaiter) : Option Nat :=
  let mine := fun (r : PartRef) => (plotAt s r.plot).accesses.any (fun a => a.id == r.id && a.block.ctx == c)
  match w with
  | .lds h (.part r) _ => if mine r then some h else none
  | .replay h r => if mine r then some h else none
  | .lds _ (.eng _) _ | .permit _ _ _ _ _ _ => none

/-- The units that acknowledge a stop of a context: each engine class of every plot that holds state of it, every queue engine with a
queue of it, and every home at which something of it waits (R419, R420). -/
def stopUnits (s : State) (c : BitVec 12) : List StopUnit :=
  ((List.range 36).filter (plotHasCtx s c)).flatMap (fun p => engineClasses.map (StopUnit.plot p)) ++
    ((List.range 4).filter (fun d => s.queues.any (fun x => x.1 / 256 % 4 == d && x.2.ctx == c))).map StopUnit.queueEngine ++
    ((s.homeWaiters.filterMap (waiterHome s c)).eraseDups).map StopUnit.home

/-- Bits of FLAGS (R421). -/
def flagYield : BitVec 16 := 0x01
def flagDeadline : BitVec 16 := 0x02
def flagStall : BitVec 16 := 0x04
def flagPreempt : BitVec 16 := 0x08
def flagFreeze : BitVec 16 := 0x10
def flagSpx : BitVec 16 := 0x20
def flagRfx : BitVec 16 := 0x40
def flagDiverge : BitVec 16 := 0x80

/-- A pre-emption request of a context (R409, R419): a RUNNING context becomes PREEMPTING, and a PREEMPTING one combines flags and marks.
Its STATE word is written as the step ends (R407). -/
def requestStop (s : State) (c : BitVec 12) (flags : BitVec 16) (cause : BitVec 8) (freeze kill : Bool) : State :=
  modCtx s c (fun x =>
    match x.phase with
    | .running => { x with
        phase := .preempting, flags := x.flags ||| flags, cause := cause, freezeMark := freeze, killMark := kill
        unacked := stopUnits s c, sections := [], stateDue := true }
    | .preempting => { x with
        flags := x.flags ||| flags, cause := if cause = 0x7F ∨ x.cause = 0 then cause else x.cause
        freezeMark := x.freezeMark || freeze, killMark := x.killMark || kill, stateDue := true }
    | _ => x)

/-! ### Dropping a group's work (R430, R434) -/

/-- The envelope belongs to a group slot. -/
def ofGroup (g : BitVec 3) (t : Token) : Bool := t.env.gslot == g

/-- The group slot of a matched set (R89). -/
def setSlot (m : MatchedSet) : BitVec 3 := (envOf m.toks).gslot

/-- A copy without the tokens of a group slot. -/
def Copy.dropGroup (g : BitVec 3) (c : Copy) : Copy :=
  { c with
    buffer := c.buffer.filter (fun t => !ofGroup g t.tok)
    spilled := c.spilled.filter (fun t => !ofGroup g t.tok)
    waiting := c.waiting.filter (fun t => !ofGroup g t.tok)
    ready := c.ready.filter (fun m => setSlot m != g) }

/-- Counters of the channel tables with those freed that hold nothing, and spilled ones in the places of their context that
are free, first ones first (R233). -/
def tidyChannels (ks : List Channel) : List Channel :=
  let ks := ks.filter (fun k => k.value != 0 || !k.waiters.isEmpty)
  (List.range ks.length).foldl (fun (l : List Channel) i => match l[i]? with
    | some k => if k.spilled && decide (l.countP (fun x => x.ctx == k.ctx && !x.spilled) < 128) then
        l.modify i (fun x => { x with spilled := false })
      else l
    | none => l) ks

/-- A control unit without the waiters of a group slot. -/
def GroupUnit.dropGroup (g : BitVec 3) (u : GroupUnit) : GroupUnit :=
  { u with
    waiters := u.waiters.filter (fun w => w.gslot != g)
    barWaiters := u.barWaiters.filter (fun w => w.gslot != g)
    refused := u.refused.filter (fun w => w.gslot != g)
    channels := tidyChannels (u.channels.map (fun k => if k.gslot = g then { k with waiters := [] } else k))
    adds := u.adds.filter (fun w => setSlot w.held.set != g)
    joins := u.joins.filter (fun w => setSlot w.held.set != g) }

/-- A held set of a group slot. -/
def heldBy (g : BitVec 3) (h : Held) : Bool := setSlot h.set == g

/-- A tile without the rows and the work of a group slot (R434). Rows that have started are written. -/
def Tile.dropGroup (g : BitVec 3) (t : Tile) : Tile :=
  let keep := fun (r : Row) => r.env.gslot != g
  { t with
    ports := (t.ports.map (fun q => { q with rows := q.rows.filter keep })).filter (fun q => !q.rows.isEmpty)
    stage0 := t.stage0.filter (fun r => keep r.row)
    stage1 := t.stage1.filter (fun r => keep r.row)
    switch := t.switch.filter (fun x => !heldBy g x.held)
    latches := t.latches.filter (fun x => !heldBy g x.held)
    gather := t.gather.filter (fun x => !heldBy g x.held)
    repeats := t.repeats.map (fun r => { r with
      buffer := r.buffer.filter keep, job := r.job.filter (fun j => !heldBy g j.held) })
    jobs := t.jobs.filter (fun f => !heldBy g f.held)
    fillers := t.fillers.filter (fun f => !heldBy g f.held)
    accs := t.accs.map (fun y => match y.2.check with
      | some k => if heldBy g k.held then (y.1, { y.2 with check := none, draining := false }) else y
      | none => y) }

/-- An access that has issued and is no `lds` waiting at its home: it completes, sending nothing (R434). -/
def Access.mute (a : Access) : Access :=
  { a with head := { a.head with t0 := none, t1 := none, t2 := none } }

/-- What waits at a home for a word or for its turn is of an access that a test holds of. -/
def waiterOf (f : PartRef → Bool) (w : HomeWaiter) : Bool :=
  match w with
  | .lds _ (.part r) _ => f r
  | .lds _ (.eng _) _ => false
  | .replay _ r => f r
  | .permit _ _ _ _ _ _ => false

/-- An access waits at its home for a word or for its turn. -/
def waitsAtHome (ws : List HomeWaiter) (p : Nat) (a : Access) : Bool := ws.any (waiterOf (fun r => r.plot == p && r.id == a.id))

/-- A plot without the tokens, waiters and unissued work of a group slot. -/
def Plot.dropGroup (ws : List HomeWaiter) (p : Nat) (g : BitVec 3) (x : Plot) : Plot :=
  { x with
    blocks := { x.blocks with copies := x.blocks.copies.map (Copy.dropGroup g) }
    unit := x.unit.dropGroup g
    copyQueues := x.copyQueues.map (fun q => q.filter (fun r => r.gslot != g))
    savedCopies := x.savedCopies.filter (fun r => r.2.gslot != g)
    savedPlaces := x.savedPlaces.filter (fun w => w.gslot != g)
    accesses := (x.accesses.filter (fun a => setSlot a.set != g || (a.phase == .issued && !waitsAtHome ws p a))).map
      (fun a => if setSlot a.set = g then a.mute else a)
    chains := x.chains.map (fun c => if c.env.gslot = g then { c with state := .idle, sent := none } else c)
    tiles := x.tiles.map (fun y => (y.1, y.2.dropGroup g))
    savedTiles := x.savedTiles.map (fun y => { y with tile := y.tile.dropGroup g }) }

/-- The tokens of a group slot of a plot that are in flight are gone, and what waits for it at homes. -/
def dropFlights (s : State) (p : Nat) (g : BitVec 3) : State :=
  let mine := fun (r : PartRef) => r.plot == p && (plotAt s p).accesses.any (fun a => a.id == r.id && setSlot a.set == g)
  { s with
    flights := s.flights.filter (fun f => !(f.dest.plot == p && ofGroup g f.tok))
    rows := s.rows.filter (fun r => !(r.dest.plot == p && r.row.env.gslot == g))
    homeWaiters := s.homeWaiters.filter (fun w => !waiterOf mine w)
    engReqs := s.engReqs.filter (fun q => !(q.plot == p && q.gslot == g && q.act == .read)) }

/-- A pending `tlbi` or `swr` of a group slot of a plot sends nothing when it completes. -/
def mutePending (s : State) (p : Nat) (g : BitVec 3) : State :=
  { s with
    tlbis := s.tlbis.map (fun j => if j.plot = p ∧ heldBy g j.held = true then
      { j with held := { j.held with head := { j.held.head with t0 := none, t1 := none, t2 := none } } } else j)
    regWrites := s.regWrites.map (fun w => if w.reply.any (fun r => r.plot == p && heldBy g r.held) then { w with reply := none } else w) }

/-- `hkil` (R434), or a fault of an object without a handler (R430): every token of the group is discarded and the
group enters RETIRING, with the cause for its kernel record. -/
def killGroup (s : State) (p : Nat) (g : BitVec 3) (cause : BitVec 8) : State :=
  modGroup (modPlot (dropFlights (mutePending s p g) p g) p (Plot.dropGroup s.homeWaiters p g)) p g
    (fun x => { x with phase := .retiring, killCause := cause })

/-! ### Faults (R425 to R430) -/

/-- The cause record of a fault (R426). -/
def causeRecord (e : FaultInfo) (slot : BitVec 8) (h : Bool) (bid : BitVec 32) (env : Envelope) : CauseRecord :=
  CauseRecord.mk
    (bid ++ (0#7 ++ BitVec.ofBool h ++ slot ++ e.level ++ e.cause))
    e.word1
    env.tag
    (0#24 ++ env.wave ++ 0#3 ++ env.gslot ++ env.thread)

/-- The lowest FREE cause slot (R425). -/
def freeCause (cs : List CauseSlot) : Option Nat := cs.findIdx? (fun c => c.state == .free)

/-- The handler token of a delivery (R425). -/
def handlerToken (thread : BitVec 10) (g : BitVec 3) (n : Nat) : Token :=
  Token.mk (Envelope.mk 0 thread g 0 []) (statusPacket n)

/-- A second fault in the handler (R429): its record goes to CSEC, the context is frozen, and the kernel record of the
group is to become FAULTED. -/
def doubleFault (s : State) (c : BitVec 12) (record : Nat) (r : CauseRecord) : State :=
  let s := { s with doubled := s.doubled ++ [record] }
  requestStop (modCtx s c (fun x => { x with regs := { x.regs with csec := r } })) c flagFreeze causeDoubleFault
    true false

/-- The handler's wave record of a thread set up anew (R198, R428). -/
def freshHandlerWave (s : State) (p : Nat) (c : BitVec 12) (g : BitVec 3) (thread : BitVec 10) : State :=
  modPlot s p (fun x => { x with waves := x.waves.filter (fun w =>
    !(w.handler && w.ctx == c && w.gslot == g && w.thread == thread)) })

/-- A fault delivered to a group, in its handler block or not (R425, R429, R430): the state, and whether a cause slot was
taken (then what the fault keeps has gone there). A PLACED group has no fault (R343): that of a dispatch token whose block
cannot be loaded waits until the group is RUNNING (DEDUCED, assumption 48). -/
def deliverTo (s : State) (p : Nat) (g : BitVec 3) (x : Group) (inHandler : Bool) (e : FaultInfo) (slot : BitVec 8)
    (b : BlockId) (env : Envelope) (kept : Kept) : State × Bool :=
  let r := causeRecord e slot inHandler b.bid env
  if x.phase = .placed then (s, false)
  else if x.hbid = 0xFFFF_FFFF then (killGroup s p g e.cause, true)
  else if inHandler && (x.causes.any (fun c => c.state == .delivered) || (freeCause x.causes).isNone) then
    (doubleFault s x.ctx x.record r, false)
  else
    match freeCause x.causes with
    | none => (s, false)
    | some n =>
      let s := modGroup s p g (fun y => { y with
        causes := y.causes.set n (CauseSlot.mk .delivered r kept)
        phase := if y.phase = .running then .stopped else y.phase })
      let s := freshHandlerWave s p x.ctx g env.thread
      (sendEntry s .entry p (BlockId.mk x.ctx x.obj x.hbid) 0 0 (handlerToken env.thread g n), true)

/-- A fault delivered to the group of a slot. -/
def deliverFault (s : State) (p : Nat) (g : BitVec 3) (e : FaultInfo) (slot : BitVec 8) (b : BlockId)
    (env : Envelope) (kept : Kept) : State × Bool :=
  match groupAt s p g with
  | none => (s, false)
  | some x => deliverTo s p g x (x.hbid != 0xFFFF_FFFF && b.bid == x.hbid && b.obj == x.obj) e slot b env kept

/-! ### Firings -/

/-- What a firing of a matched set has (R89, R149). -/
def fireCtxOf (s : State) (p : Nat) (b : BlockId) (m : MatchedSet) (h : Head) : FireCtx where
  plot := p
  block := b
  slot := m.slot
  head := h
  toks := m.toks
  ftz := (regsOn s b.ctx p).cfg.getLsbD 0
  seed := (regsOn s b.ctx p).seed
  fresh := s.fresh

/-- Whether the predicate selects firing (R64); none where its token has a reserved tag. -/
def predicateOf (c : FireCtx) : Option Bool :=
  match c.head.pr with
  | .always => some true
  | .ifTrue => truthOf (c.fresh + 24) (packetAt c 3) 0
  | .ifFalse => (truthOf (c.fresh + 24) (packetAt c 3) 0).map not

/-- The state with a complete set removed from its station, its entries free (R91). -/
def takeSet (s : State) (p : Nat) (b : BlockId) (m : MatchedSet) : State :=
  modCopy s p b (fun c => { c with ready := c.ready.erase m })

/-- The count of one consumed set (R415, R416); the plot's idle time for the context starts again (R417). -/
def countSet (s : State) (p : Nat) (c : BitVec 12) (yld : Bool) : State :=
  modCount s c p (fun x => { x with
    icnt := x.icnt + 1
    late := if decide (x.dline.toNat < (x.icnt + 1).toNat) && x.late.isNone then some yld else x.late
    idle := 0 })

/-- A set consumed: taken from its station and counted (R91, R93, R415). The free values drawn for it are spent. -/
def consume (s : State) (p : Nat) (b : BlockId) (m : MatchedSet) : State :=
  countSet { takeSet s p b m with cur := .idle, fresh := s.fresh + 64 } p b.ctx false

/-- A firing that faults (R9, R425): nothing is sent, and the set is kept for the handler, or at its station where no
cause slot is free. -/
def faultSet (s : State) (c : FireCtx) (m : MatchedSet) (e : FaultInfo) : State :=
  let (s', taken) := deliverFault { s with cur := .idle, fresh := s.fresh + 64 } c.plot c.env.gslot e
    (0#1 ++ c.slot) c.block c.env (.set c.block m)
  if taken then takeSet s' c.plot c.block m else s'

/-- A firing (R64, R89, R91): with its predicate false it consumes its set and sends nothing, `skip` aside; otherwise
`body` gives the new state and what is sent, or the fault. `body` sees the state with the set consumed. -/
def fireWith (h : Head) (skip : FireCtx → State → State)
    (body : FireCtx → State → Except FaultInfo (State × List Send)) (s : State) : Result :=
  match s.cur with
  | .firing p b m =>
    let c := fireCtxOf s p b m h
    match predicateOf c with
    | none => .next (faultSet s c m (causeOnly causeFormat))
    | some false => .next (skip c (consume s p b m))
    | some true =>
      match body c (consume s p b m) with
      | .error e => .next (faultSet s c m e)
      | .ok (s', xs) => .next (sendAll s' p b xs)
  | _ => .next s

/-- A firing whose effect is the tokens it sends (R146). -/
def fire (h : Head) (body : FireCtx → Except FaultInfo (List Send)) (s : State) : Result :=
  fireWith h (fun _ s => s) (fun c s => (body c).map (fun xs => (s, xs))) s

/-- A firing that changes the state as well. -/
def fireState (h : Head) (body : FireCtx → State → Except FaultInfo (State × List Send)) (s : State) : Result :=
  fireWith h (fun _ s => s) body s

/-- A privileged instruction outside the headland context faults (R72). -/
def privileged (c : FireCtx) : Except FaultInfo Unit := require (c.block.ctx == headland) causePrivilege

end Sys2Proof.Machine
end

