-- ==== Sys2Proof/Machine/Lines.lean ====
section
/-! DEFINITION. L1 lines and directory entries as data, and the coherent accesses of the engines (R247, R282, R443): a
coherent read returns the value of the latest store performed at device scope; a coherent write removes the copies of
the line and writes it at its home. -/
namespace Sys2Proof.Machine

/-! ### L1 lines -/

/-- A tracked line of a plot's L1 (R251); no entry is state I. -/
def l1At (s : State) (p line : Nat) : Option L1Line :=
  (plotAt s p).l1.find? (fun x => x.line == line && !x.rep)

/-- A copy of a replicated page's line (R246). -/
def repAt (s : State) (p line : Nat) : Option L1Line :=
  (plotAt s p).l1.find? (fun x => x.line == line && x.rep)

/-- The state with the L1 of a plot changed. -/
def modL1 (s : State) (p : Nat) (f : List L1Line → List L1Line) : State :=
  modPlot s p (fun x => { x with l1 := f x.l1 })

/-- The state with a tracked line of an L1 changed where it stands. -/
def setLineState (s : State) (p line : Nat) (f : L1Line → L1Line) : State :=
  modL1 s p (fun l => l.map (fun x => if x.line = line ∧ x.rep = false then f x else x))

/-- The state with a tracked line in state I. -/
def dropLine (s : State) (p line : Nat) : State :=
  modL1 s p (fun l => l.filter (fun x => !(x.line == line && !x.rep)))

/-- The state without replicated copies on a plot where a test holds (R246). -/
def dropRep (s : State) (p : Nat) (f : Nat → Bool) : State :=
  modL1 s p (fun l => l.filter (fun x => !(x.rep && f x.line)))

/-- The state without replicated copies on any plot where a test holds (R246, R460). -/
def dropRepAll (s : State) (f : Nat → Bool) : State := (List.range 36).foldl (fun s p => dropRep s p f) s

/-- A line with owned data: E, M, or in the write-back buffer (R251). -/
def ownedState : L1State → Bool
  | .e | .m | .miA => true
  | _ => false

/-! ### Directory entries -/

/-- The entry of a line that no request has reached. -/
def DirEntry.none (line : Nat) : DirEntry := DirEntry.mk line .i [] 0 0 Option.none [] false

/-- The directory entry of a line (R252). -/
def dirAt (s : State) (line : Nat) : DirEntry :=
  (s.dir.find? (fun e => e.line == line)).getD (DirEntry.none line)

/-- The state with a directory entry written; an entry of no content is not listed. -/
def setDir (s : State) (e : DirEntry) : State :=
  let rest := s.dir.filter (fun x => x.line != e.line)
  { s with dir := if e = DirEntry.none e.line then rest else e :: rest }

/-- The host flag of a line (R257). -/
def hostFlag (s : State) (line : Nat) : Bool := (dirAt s line).hostFlag

/-- The state with the host flag of a line set or clear. -/
def setHostFlag (s : State) (line : Nat) (b : Bool) : State := setDir s { dirAt s line with hostFlag := b }

/-- The queues whose engines watch a line are woken (R370). -/
def wakeWatch (s : State) (line : Nat) : State :=
  { s with queues := s.queues.map (fun x =>
      if x.2.watch = some line then (x.1, { x.2 with watch := none, hit := true }) else x) }

/-- A store performed to a line of device memory wakes the queues whose engines watch it (R370). -/
def noteStore (s : State) (line : Nat) : State := if rangeOf (64 * line) = .host then s else wakeWatch s line

/-- A line of host memory that leaves L2 is watched no more (R370). -/
def endWatch (s : State) (line : Nat) : State :=
  if rangeOf (64 * line) = .host then
    { s with queues := s.queues.map (fun x => if x.2.watch = some line then (x.1, { x.2 with watch := none }) else x) }
  else s

/-! ### Lines in L2 (R208, R259, R261) -/

/-- The lines of the set of a line in its L2 slice (R17, R18), first to be replaced first. -/
def l2Rivals (s : State) (line : Nat) : List L2Line :=
  s.l2.filter (fun x => sliceOf (64 * x.line) == sliceOf (64 * line) && Config.l2Set x.line == Config.l2Set line)

/-- The state without a line in L2: a host line goes back to the host, with its watch, and a context's copy of a peer's line is gone
(R259, R261, R370). -/
def l2Leave (s : State) (x : L2Line) : State :=
  let s := { s with l2 := s.l2.erase x }
  match x.ctx with
  | none => endWatch { s with hostLines := s.hostLines.erase x.line } x.line
  | some c => { s with peerCopies := s.peerCopies.filter (fun y => !(y.ctx == c && y.line == x.line)) }

/-- The line of a set that gives way: the first that is not marked keep, else the first (R208). -/
def l2Victim (l : List L2Line) : Option L2Line :=
  match l.find? (fun x => x.keep.isNone) with
  | some x => some x
  | none => l.head?

/-- The marked line of a list whose keep mark is the oldest. -/
def oldestKeep (l : List L2Line) : Option L2Line :=
  l.foldl (fun m x => match x.keep, m with
    | none, _ => m
    | some _, none => some x
    | some k, some y => if k < y.keep.getD 0 then some x else m) none

/-- A line marked keep (R208): at most 12 of the 16 ways of a set are marked, and a thirteenth mark takes the place of the
oldest (assumption 40). -/
def l2Mark (s : State) (x : L2Line) : State :=
  let rivals := (l2Rivals s x.line).filter (fun y => y != x)
  let stamp := rivals.foldl (fun n y => max n (y.keep.getD 0)) 0 + 1
  let set := fun (y : L2Line) (k : Option Nat) (s : State) => { s with l2 := s.l2.map (fun z => if z = y then { z with keep := k } else z) }
  let s := if 12 ≤ rivals.countP (fun y => y.keep.isSome) then
      (match oldestKeep rivals with
      | some y => set y none s
      | none => s)
    else s
  set x (some stamp) s

/-- An access at a slice through its L2 (R208): a hit of CP normal or stream makes the line most recent; a line that is not there
is allocated, another of its set replaced where all 16 ways are taken. -/
def l2Touch (s : State) (cp : CachePol) (c : Option (BitVec 12)) (line : Nat) : State :=
  match s.l2.find? (fun x => x.line == line && x.ctx == c) with
  | some x =>
    (match cp with
    | .normal | .stream => { s with l2 := s.l2.erase x ++ [x] }
    | .l2keep => l2Mark s x
    | .l2first => s)
  | none =>
    let rivals := l2Rivals s line
    let s := if rivals.length < 16 then s
      else match l2Victim rivals with
        | some v => l2Leave s v
        | none => s
    let x := L2Line.mk line c none
    match cp with
    | .normal | .stream => { s with l2 := s.l2 ++ [x] }
    | .l2keep => l2Mark { s with l2 := s.l2 ++ [x] } x
    | .l2first => { s with l2 := x :: s.l2 }

/-- A line that no L2 slice holds any more (R214). -/
def l2Drop (s : State) (line : Nat) : State :=
  match s.l2.find? (fun x => x.line == line && x.ctx.isNone) with
  | some x => l2Leave s x
  | none => s

/-- A slice holds a line of host memory with ownership (R261). -/
def ownHostLine (s : State) (pa : Nat) : State :=
  if rangeOf pa = .host ∧ s.hostLines.contains (pa / 64) = false then { s with hostLines := pa / 64 :: s.hostLines } else s

/-- The context's copies of peer lines dropped where a test holds (R259, R260): a line still on its way from the peer, which was read
before, makes no copy as it comes. -/
def dropPeer (s : State) (c : BitVec 12) (f : Nat → Bool) : State :=
  { s with
    peerCopies := s.peerCopies.filter (fun x => !(x.ctx == c && f x.line))
    l2 := s.l2.filter (fun x => !(x.ctx == some c && f x.line))
    streams := s.streams.map (fun x => { x with
      out := x.out.map (fun r => if r.keep.any (fun k => k.1 == c && f k.2) then { r with keep := none } else r) }) }

/-! ### The order of a plot cycle (R253) -/

/-- A request of plot `p` reaches the home of a line: not after one of a higher plot in the same plot cycle, since requests of
one cycle enter in ascending plot index, the host (36) and peers (37) after all plots. The model's choice (assumption 15): the host comes
before peers. -/
def reaches (s : State) (line p : Nat) : Option State :=
  match s.arrived.find? (fun x => x.1 == line) with
  | some x => if p < x.2 then none else some { s with arrived := (line, p) :: s.arrived.erase x }
  | none => some { s with arrived := (line, p) :: s.arrived }

/-! ### Coherent reads and writes of the engines -/

/-- The data that a message carries, if any. -/
def plotMsgData : PlotMsg → Option LineData
  | .dataS d | .dataE d | .dataM d => some d
  | _ => none

/-- The data of an answered forward on its way to the home. -/
def homeMsgData : HomeMsg → Option LineData
  | .fwdDone d _ => some d
  | _ => none

/-- The data of the L1 that owns a line. -/
def ownerData (s : State) (line : Nat) : Option LineData :=
  s.plots.findSome? (fun x => (x.l1.find? (fun y => y.line == line && !y.rep && ownedState y.st)).map (fun y => y.data))

/-- The value of the latest store to each byte of a line that has been performed at device scope (R240): at the owner,
on its way from one owner to the next or to the home, or at the home. -/
def cohLine (s : State) (line : Nat) : LineData :=
  match ownerData s line with
  | some d => d
  | none =>
    match s.fromOwner.findSome? (fun m => if m.line = line then plotMsgData m.msg else none) with
    | some d => d
    | none =>
      match s.toHome.findSome? (fun m => if m.line = line then homeMsgData m.msg else none) with
      | some d => d
      | none => s.mem.line line

/-- `n` bytes at a physical address, read coherently by a unit of the device: an HBM line through its directory, a peer's byte
as an input (assumption 12), any other address at its home. -/
def engineRead (s : State) (a : Nat) : Nat → Nat
  | 0 => 0
  | n + 1 =>
    let b := if rangeOf a = .hbm then lineGet (cohLine s (a / 64)) (a % 64) 1
      else if rangeOf a = .peer then (Config.peerByte s.fresh a).toNat
      else (s.mem.byte a).toNat
    b + 256 * engineRead s (a + 1) n

/-- Whether a line is at rest: its entry is in I, S or EM and no message about it is on its way to an L1 (R250). -/
def quiet (s : State) (line : Nat) : Bool :=
  ((dirAt s line).st == .i || (dirAt s line).st == .s || (dirAt s line).st == .em) &&
    s.toPlot.all (fun m => m.line != line) && s.fromOwner.all (fun m => m.line != line) &&
    s.toHome.all (fun m => m.line != line || (homeMsgData m.msg).isNone)

/-- What removing its copies does to a line at an L1 (R251): an owner's copy goes, a copy in the write-back buffer has
been answered, a shared copy goes. -/
def recalled (x : L1Line) : Option L1Line :=
  match x.st with
  | .s | .e | .m => none
  | .miA => some { x with st := .iiA }
  | .smD => some { x with st := .imD }
  | _ => some x

/-- Every L1 copy of a line at rest removed and its data at the home (R247, R256). -/
def recallLine (s : State) (line : Nat) : State :=
  let d := cohLine s line
  let s := { s with plots := s.plots.map (fun p =>
    { p with l1 := p.l1.filterMap (fun x => if x.line = line ∧ x.rep = false then recalled x else some x) }) }
  let s := setDir s { dirAt s line with st := .i, sharers := [], owner := 0 }
  if s.mem.line line = d then s else { s with mem := s.mem.setLine line d }

/-- A shared copy of a line that a write removes (R247): an upgrade that waits then needs the line's data. -/
def unshared (f : LineData → LineData) (x : L1Line) : Option L1Line :=
  match x.st with
  | .s => none
  | .smD => some { x with st := .imD }
  | _ => some { x with data := f x.data }

/-- The directory entry of a line without sharers: an upgrade that it serves will be answered with the line. -/
def unlisted (e : DirEntry) : DirEntry :=
  { e with
    sharers := []
    serving := match e.serving with
      | some (.upg p) => some (.getx p)
      | x => x }

/-- A message with the data that it carries changed. -/
def patchMsg (f : LineData → LineData) : PlotMsg → PlotMsg
  | .dataS d => .dataS (f d)
  | .dataE d => .dataE (f d)
  | .dataM d => .dataM (f d)
  | x => x

/-- A change made to a line that is not at rest (assumption 13): its shared copies are removed, and its bytes changed at the
owner, in the messages that carry them, and at its home. -/
def patchLine (s : State) (line : Nat) (f : LineData → LineData) : State :=
  let d := f (s.mem.line line)
  let fp := fun (m : ToPlot) => if m.line = line then { m with msg := if m.msg = .grant then .dataM d else patchMsg f m.msg } else m
  let fo := fun (m : ToPlot) => if m.line = line then { m with msg := patchMsg f m.msg } else m
  let fh := fun (m : ToHome) => if m.line = line then
      { m with msg := match m.msg with
        | .fwdDone d r => .fwdDone (f d) r
        | .putm d => .putm (f d)
        | x => x } else m
  let s := setDir s (unlisted (dirAt s line))
  { s with
    plots := s.plots.map (fun p =>
      { p with l1 := p.l1.filterMap (fun x => if x.line = line ∧ x.rep = false then unshared f x else some x) })
    toPlot := s.toPlot.map fp
    fromOwner := s.fromOwner.map fo
    toHome := s.toHome.map fh
    mem := s.mem.setLine line d }

/-- An engine's write inside one line of HBM (R247): at rest, every copy is removed and the line written at its home;
otherwise the write reaches the line wherever it stands (assumption 13). A host copy is removed (R257). -/
def hbmWrite (s : State) (a n v : Nat) : State :=
  let line := a / 64
  let s := if (dirAt s line).hostFlag then setHostFlag s line false else s
  if quiet s line then
    let s := recallLine s line
    { s with mem := (s.mem.write a n v).clearMarks a n }
  else
    let s := patchLine s line (fun d => lineSet d (a % 64) n v)
    { s with mem := s.mem.clearMarks a n }

/-- An engine's write inside one line: to HBM through its directory, to a plot store at the store, to host memory at
the slice that then holds the line with ownership (R205, R261). -/
def lineWrite (s : State) (a n v : Nat) : State :=
  let s := noteStore s (a / 64)
  match rangeOf a with
  | .hbm => hbmWrite s a n v
  | .host =>
    let s := ownHostLine s a
    { s with mem := s.mem.write a n v }
  | _ => { s with mem := (s.mem.write a n v).clearMarks a n }

/-- An engine's write of any extent, cut at the lines; `fuel` bounds the pieces. -/
def engineWriteFrom : Nat → State → Nat → Nat → Nat → State
  | 0, s, _, _, _ => s
  | fuel + 1, s, a, n, v =>
    let k := 64 - a % 64
    if n = 0 then s
    else if n ≤ k then lineWrite s a n v
    else engineWriteFrom fuel (lineWrite s a k v) (a + k) (n - k) (v / 256 ^ k)

/-- A coherent write of `n` bytes at a physical address. -/
def engineWrite (s : State) (a n v : Nat) : State := engineWriteFrom (n / 64 + 2) s a n v

/-- The same, with each word it writes set full in the same step (R247); host memory has no full-empty bits. -/
def engineStore (s : State) (a n v : Nat) : State :=
  let s := engineWrite s a n v
  if rangeOf a = .hbm || rangeOf a = .window then { s with mem := s.mem.setFull a n } else s

/-- A 64-bit field of a record in memory. -/
def readWord (s : State) (a : Nat) : Word := BitVec.ofNat 64 (engineRead s a 8)

/-- A 64-bit field of a record written. -/
def writeWord (s : State) (a : Nat) (v : Word) : State := engineWrite s a 8 v.toNat

end Sys2Proof.Machine
end

