-- ==== Sys2Proof/Machine/Record.lean ====
section
/-! DEFINITION. Record and replay (R437, R438): appending an entry to a context's record buffer, and finding the turn
that a recorded event has in a replay. The bodies of the entries are laid out by the model (assumption 14). -/
namespace Sys2Proof.Machine

/-- Kinds of entries, in the order of R437. -/
def recQueue : Nat := 1
def recAtomic : Nat := 2
def recLds : Nat := 3
def recPermit : Nat := 4
def recPort : Nat := 5

/-- The identity of a firing (R437): kernel record, group number with THREAD and SLOT, BID, TAG. -/
def identityOf (s : State) (p : Nat) (b : BlockId) (slot : BitVec 7) (e : Envelope) : List Word :=
  match groupAt s p e.gslot with
  | some g => [BitVec.ofNat 64 g.record,
      g.number.setWidth 64 ||| (e.thread.setWidth 64 <<< 32) ||| (slot.setWidth 64 <<< 48), b.bid.setWidth 64, e.tag]
  | none => [0, (e.thread.setWidth 64 <<< 32) ||| (slot.setWidth 64 <<< 48), b.bid.setWidth 64, e.tag]

/-- The channel of R437 that an access's value passes through. -/
def channelOf (op : MemOp) : Option Nat :=
  match op with
  | .atom => some recAtomic
  | .lds => some recLds
  | _ => none

/-- The bytes of an entry with a number of words: a 16-byte head and the words, in whole 16-byte units. -/
def recBytes (n : Nat) : Nat := 16 + 16 * ((n + 1) / 2)

/-- Words of the entry of an event, identified by a list of words: a value follows those of an atomic or `lds`. -/
def entryWords (kind : Nat) (ident : List Word) : Nat := ident.length + (if kind = recAtomic ∨ kind = recLds then 1 else 0)

/-- Entries of one address whose events stand in one order (R437, R438): the values of atomics and of `lds` there together. -/
def sameChannel (a b : Nat) : Bool := a == b || ((a == recAtomic || a == recLds) && (b == recAtomic || b == recLds))

/-- Words written one after another. -/
def writeWords (s : State) (a : Nat) : List Word → State
  | [] => s
  | w :: ws => writeWords (writeWord s a w) (a + 8) ws

/-- The record buffer lies wholly in HBM or wholly in host memory (R509). -/
def bufferSound (r : CtxRegs) : Bool :=
  wholly .hbm r.recbase.toNat r.recsize.toNat || wholly .host r.recbase.toNat r.recsize.toNat

/-- Bytes of the entries that accesses at peers have still to append: their values come with the answers. -/
def recOwed (s : State) (c : BitVec 12) : Nat :=
  recBytes 5 * (s.plots.map (fun y => (y.accesses.map (fun a => if a.block.ctx = c ∧ (channelOf a.op).isSome = true then
    a.parts.countP (fun x => x.state == .atPeer) else 0)).sum)).sum

/-- An entry with a number of words has room in the record buffer beside what is owed, or is not to be made (R437). A buffer that a START
has taken from the record and that does not lie in its range has none: nothing is written outside it (R509, assumption 25). -/
def recordFits (s : State) (c : BitVec 12) (n : Nat) : Bool :=
  let x := ctxAt s c
  x.recMode != .record ||
    (bufferSound x.regs && decide (x.regs.recpos.toNat + recOwed s c + recBytes n ≤ x.regs.recsize.toNat))

/-- The forced request of a context whose record buffer has no room for an entry (R437). -/
def askDrain (s : State) (c : BitVec 12) : State := requestStop s c flagRfx causeDeadline false false

/-- One entry appended to the record buffer (R437). What makes an entry has found room for it first, and waits where there is none. -/
def recordEntry (s : State) (c : BitVec 12) (kind addr : Nat) (words : List Word) : State :=
  let x := ctxAt s c
  if x.recMode = .record then
    let n := recBytes words.length
    if bufferSound x.regs = false ∨ x.regs.recsize.toNat < x.regs.recpos.toNat + n then askDrain s c
    else
      let a := x.regs.recbase.toNat + x.regs.recpos.toNat
      let head := BitVec.ofNat 64 (kind + n / 16 * 256)
      let s := writeWords s a (head :: BitVec.ofNat 64 addr :: words)
      modCtx s c (fun y => { y with regs := { y.regs with recpos := y.regs.recpos + BitVec.ofNat 64 n } })
  else s

/-- An entry of a record buffer as a replay reads it. -/
structure RecEntry where
  ofs : Nat
  kind : Nat
  addr : Nat
  words : List Word
  deriving DecidableEq, Repr

/-- `n` words from an address. -/
def readWords (s : State) (a : Nat) : Nat → List Word
  | 0 => []
  | n + 1 => readWord s a :: readWords s (a + 8) n

/-- The entries of a record buffer from an offset: they end at a head of no kind, and before one that passes RECSIZE
(R509). -/
def recEntries (s : State) (base size : Nat) : Nat → Nat → List RecEntry
  | 0, _ => []
  | fuel + 1, o =>
    let h := if o + 16 ≤ size then readWord s (base + o) else 0
    let kind := (h.extractLsb' 0 8).toNat
    let n := (h.extractLsb' 8 8).toNat
    if size < o + 16 * n ∨ kind = 0 ∨ 5 < kind ∨ n = 0 then []
    else RecEntry.mk o kind (readWord s (base + o + 8)).toNat (readWords s (base + o + 16) (2 * n - 2)) ::
      recEntries s base size fuel (o + 16 * n)

/-- The entries of a context that a replay has not served. -/
def unserved (s : State) (c : BitVec 12) : List RecEntry :=
  let x := ctxAt s c
  if bufferSound x.regs then
    (recEntries s x.regs.recbase.toNat x.regs.recsize.toNat (x.regs.recsize.toNat / 16) 0).filter
      (fun e => !x.served.contains e.ofs)
  else []

/-- What the record says to an event (R437, R438): it may happen, it is this event's turn in a replay, it waits for its turn, or it waits
until the record buffer has room for its entry. -/
inductive Verdict where
  | free
  | now (e : RecEntry)
  | wait
  | full
  deriving DecidableEq, Repr

/-- The verdict on an event of a kind, identified by its first words, whose order stands in the entries that `mine` holds of. -/
def verdictIn (s : State) (c : BitVec 12) (mine : RecEntry → Bool) (kind : Nat) (ident : List Word) : Verdict :=
  if (ctxAt s c).recMode = .replay then
    let es := unserved s c
    if es.isEmpty then .free
    else match es.find? mine with
      | some e => if e.kind = kind ∧ e.words.take ident.length = ident then .now e else .wait
      | none => .wait
  else if recordFits s c (entryWords kind ident) then .free else .full

/-- The verdict on an event of a kind at an address. -/
def verdict (s : State) (c : BitVec 12) (kind addr : Nat) (ident : List Word) : Verdict :=
  verdictIn s c (fun e => sameChannel e.kind kind && e.addr == addr) kind ident

/-- The event waits. -/
def Verdict.waits : Verdict → Bool
  | .free | .now _ => false
  | .wait | .full => true

/-- What an event that waits does meanwhile: one without room in the record buffer has the context stopped (R437). -/
def awaitTurn (s : State) (c : BitVec 12) (v : Verdict) : State :=
  match v with
  | .full => askDrain s c
  | .free | .now _ | .wait => s

/-- A served entry: RECPOS counts the bytes read, and the replay ends with the last entry (R438). -/
def serveEntry (s : State) (c : BitVec 12) (e : RecEntry) : State :=
  let n := recBytes e.words.length
  let s := modCtx s c (fun x => { x with
    served := e.ofs :: x.served, regs := { x.regs with recpos := x.regs.recpos + BitVec.ofNat 64 n } })
  if (unserved s c).isEmpty then modCtx s c (fun x => { x with recMode := .off, served := [] }) else s

/-- A recorded value (R437, R438): what an atomic or `lds` returns for the value it found. -/
def valueChannel (s : State) (c : BitVec 12) (kind addr : Nat) (ident : List Word) (found : Word) : State × Word :=
  match verdict s c kind addr ident with
  | .now e =>
    let v := e.words.getD ident.length found
    let s := serveEntry s c e
    (if v = found then s else modCtx s c (fun x => { x with flags := x.flags ||| flagDiverge }), v)
  | _ => (recordEntry s c kind addr (ident ++ [found]), found)

end Sys2Proof.Machine
end

