-- ==== Sys2Proof/Machine/Access.lean ====
section
/-! DEFINITION. Accesses (R194 to R196, R209 to R214, R228): the parts of an access from its operands, what its pages
must allow, and what a part does at its home. -/
namespace Sys2Proof.Machine

/-! ### Operands (R194) -/

/-- A fault at a byte address (R426). -/
def faultAt (c : BitVec 8) (level : Nat) (va : Word) : FaultInfo := FaultInfo.mk c (BitVec.ofNat 8 level) va

/-- The address operand on a port (R194): element 0 of a token with tag 0x00 or 0x04. -/
def addressAt (c : FireCtx) (p : Nat) : Except FaultInfo Word :=
  if isConst c p then .ok c.head.cfg
  else if wideTag (packetAt c p).fmt then .ok (packetSlot true (c.fresh + 8 * p) (packetAt c p) 0)
  else .error (causeOnly causeFormat)

/-- OFS of a wave word (R66), zero where the configuration word is zero. -/
def waveOffset (h : Head) : Word := sextWord 40 (h.cfg.extractLsb' 0 40).toNat

/-- The effective address (R194). -/
def effectiveAddress (c : FireCtx) : Except FaultInfo Word := do
  let a ← addressAt c 0
  .ok (a + waveOffset c.head)

/-- A virtual address whose bits [63:57] are zero (R194). -/
def vaValid (va : Word) : Bool := va.extractLsb' 57 7 == 0

/-- The lowest of the addresses that fail a test (R197). -/
def lowestFailing (ok : Word → Bool) (as : List Word) : Option Word :=
  (as.filter (fun a => !ok a)).foldl (fun m a => match m with
    | none => some a
    | some b => if a.toNat < b.toNat then some a else some b) none

/-- The EA must be valid (R194), and every element address a multiple of `k` (R196). An element address that is not valid
fails with its page, lowest address first (R197). -/
def checkAddresses (ea : Word) (as : List Word) (k : Nat) : Except FaultInfo Unit :=
  if !vaValid ea then .error (faultAt causeTrInvalid 0 ea)
  else
    match lowestFailing (fun a => a.toNat % k == 0) as with
    | some a => .error (faultAt causeAlign 0 a)
    | none => .ok ()

/-- Bytes of an element type (R194). -/
def tyBytes (t : Ty) : Nat := tyWidth t / 8

/-- A part before translation. -/
def mkPart (ea : Word) (bytes : Nat) (val cmp : Word) : Part where
  ea := ea
  pa := none
  level := 0
  leaf := none
  bytes := bytes
  kind := .coherent
  seq := false
  sysAtomic := false
  val := val
  cmp := cmp
  state := .todo
  got := 0
  sys := false

/-- The addresses of the 64-byte lines that cover `n` bytes from an address, each with the bytes of it that lie in the
range. -/
def lineParts (ea : Word) (n : Nat) : List Part :=
  if n = 0 then []
  else
    let first := ea.toNat / 64
    let last := (ea.toNat + n - 1) / 64
    (List.range (last + 1 - first)).map (fun i => mkPart (BitVec.ofNat 64 (64 * (first + i))) 64 0 0)

/-- The pieces of `count` words from an address, one for each 16-byte word of a plot store (R266). -/
def clreParts (ea : Word) (count : Nat) : List Part :=
  if count = 0 then []
  else
    let a := ea.toNat
    let e := a + 8 * count
    let first := a / 16
    (List.range ((e - 1) / 16 + 1 - first)).map (fun i =>
      let lo := max a (16 * (first + i))
      let hi := min e (16 * (first + i) + 16)
      mkPart (BitVec.ofNat 64 lo) (hi - lo) 0 0)

/-- What an access is made of: its parts, and the operation word of a `cctl`. -/
structure Extent where
  parts : List Part
  code : Nat
  deriving DecidableEq, Repr

/-- Elements at addresses with the values they write. -/
def elementParts (as : List Word) (bytes : Nat) (val : Nat → Word) : List Part :=
  (as.zip (List.range as.length)).map (fun x => mkPart x.1 bytes (val x.2) 0)

/-- Consecutive element addresses. -/
def runAddresses (ea : Word) (n k : Nat) : List Word := (List.range n).map (fun i => ea + BitVec.ofNat 64 (i * k))

/-- The element addresses of `ldg` and `sts` (R195). -/
def indexAddresses (c : FireCtx) (ea : Word) (k : Nat) : Except FaultInfo (List Word) :=
  (List.range (lenAt c 1)).mapM (fun i => do
    let x ← intOperand c 1 i
    .ok (ea + BitVec.ofInt 64 (x * (k : Int))))

/-- The bytes of a row bit string with its scale (R47, R228). -/
def rowBytes (ft : BitVec 5) : Nat := 8 * ((laneWidth ft).getD 0) + (if ft.toNat ≥ 0x18 then 8 else 0)

/-- The parts of an access from its operands, with the faults of R194 to R196 and R228. `ft` is FT of a row stream
load and LEN − 1 of another (R228). The model's choice (assumption 23): a wrong len(0) of an `ldg` or `sts` faults before the tag of its
indices. -/
def extentOf (op : MemOp) (ft : BitVec 5) (aop : BitVec 4) (c : FireCtx) : Except FaultInfo Extent := do
  let k := tyBytes c.head.ty
  let elem := fun (p i : Nat) => elemAt c (wideTy c.head.ty) p i
  match op with
  | .mnop | .fence => .ok (Extent.mk [] 0)
  | .ld | .strl =>
    let ea ← effectiveAddress c
    let n := if op = .strl then ft.toNat % 8 + 1 else lenAt c 0
    let as := runAddresses ea n k
    checkAddresses ea as k
    .ok (Extent.mk (elementParts as k (fun _ => 0)) 0)
  | .strlRow =>
    let ea ← effectiveAddress c
    let as := runAddresses ea (rowBytes ft / 8) 8
    checkAddresses ea as 8
    .ok (Extent.mk (elementParts as 8 (fun _ => 0)) 0)
  | .st | .strs | .red =>
    let ea ← effectiveAddress c
    require (lenAt c 0 == 1) causePacketLength
    let as := runAddresses ea (lenAt c 1) k
    checkAddresses ea as k
    .ok (Extent.mk (elementParts as k (elem 1)) 0)
  | .lds =>
    let ea ← effectiveAddress c
    require (lenAt c 0 == 1) causePacketLength
    checkAddresses ea [ea] k
    .ok (Extent.mk [mkPart ea k 0 0] 0)
  | .stf =>
    let ea ← effectiveAddress c
    require (lenAt c 0 == 1 && lenAt c 1 == 1) causePacketLength
    checkAddresses ea [ea] k
    .ok (Extent.mk [mkPart ea k (elem 1 0) 0] 0)
  | .atom =>
    let ea ← effectiveAddress c
    require (lenAt c 0 == 1 && lenAt c 1 == 1 && (aop != 9 || lenAt c 2 == 1)) causePacketLength
    checkAddresses ea [ea] k
    .ok (Extent.mk [mkPart ea k (elem 1 0) (elem 2 0)] 0)
  | .ldg =>
    let ea ← effectiveAddress c
    require (lenAt c 0 == 1) causePacketLength
    let as ← indexAddresses c ea k
    checkAddresses ea as k
    .ok (Extent.mk (elementParts as k (fun _ => 0)) 0)
  | .sts =>
    let ea ← effectiveAddress c
    require (lenAt c 0 == 1 && (lenAt c 2 == 1 || lenAt c 2 == lenAt c 1)) causePacketLength
    let as ← indexAddresses c ea k
    checkAddresses ea as k
    .ok (Extent.mk (elementParts as k (elem 2)) 0)
  | .clre =>
    let ea ← effectiveAddress c
    let n ← natOperand c 1 0
    checkAddresses ea [ea] 8
    if n = 0 ∨ ea.toNat / 2 ^ 21 = (ea.toNat + 8 * n - 1) / 2 ^ 21 then .ok (Extent.mk (clreParts ea n) 0)
    else .error (faultAt causeAlign 0 ea)
  | .pref =>
    let ea ← effectiveAddress c
    let n ← natOperand c 1 0
    checkAddresses ea [ea] 1
    .ok (Extent.mk (lineParts ea (min n 65536)) 0)
  | .cctl =>
    let ea ← effectiveAddress c
    let w ← natOperand c 1 0
    checkAddresses ea [ea] 1
    let code := w / 2 ^ 60 % 16
    .ok (Extent.mk (if code < 4 then lineParts ea (64 * (w % 2 ^ 20)) else []) code)

/-- The leaf bits an access needs (R450). -/
def needOf (op : MemOp) (take : Bool) : Need :=
  match op with
  | .ld | .ldg | .strl | .strlRow | .pref | .cctl | .mnop | .fence => .load
  | .lds => if take then .store else .load
  | _ => .store

/-- A stream access (R229). -/
def isStream (op : MemOp) : Bool :=
  match op with
  | .strl | .strlRow | .strs => true
  | _ => false

/-- An access that writes memory as plain bytes (R207). -/
def isPlainStore (op : MemOp) : Bool := op == .st || op == .sts

/-- An access that only reads bytes. -/
def isRead (op : MemOp) : Bool := op == .ld || op == .ldg || op == .strl || op == .strlRow

/-- An access that the atomic unit of its home performs (R210, R211). -/
def isAtomic (op : MemOp) : Bool := op == .lds || op == .stf || op == .clre || op == .atom || op == .red

/-! ### The accesses of a plot -/

/-- An access by its number. -/
def accessAt (s : State) (p id : Nat) : Option Access := (plotAt s p).accesses.find? (fun a => a.id == id)

/-- The state with the accesses of a plot changed. -/
def modAccesses (s : State) (p : Nat) (f : List Access → List Access) : State :=
  modPlot s p (fun x => { x with accesses := f x.accesses })

/-- The state with one access changed. -/
def modAccess (s : State) (p id : Nat) (f : Access → Access) : State :=
  modAccesses s p (fun l => l.map (fun a => if a.id = id then f a else a))

/-- An access without one part changed. -/
def Access.modPart (i : Nat) (f : Part → Part) (a : Access) : Access := { a with parts := a.parts.modify i f }

/-- The state with one part changed. -/
def modPart (s : State) (r : PartRef) (f : Part → Part) : State := modAccess s r.plot r.id (Access.modPart r.idx f)

/-- A part with its access. -/
def partAt (s : State) (r : PartRef) : Option (Access × Part) :=
  match accessAt s r.plot r.id with
  | some a => (a.parts[r.idx]?).map (fun x => (a, x))
  | none => none

/-- The envelope of an access (R198: that of its port 0 token). -/
def Access.env (a : Access) : Envelope := envOf a.set.toks

/-- A part performed with the bits it read. -/
def finishPart (s : State) (r : PartRef) (got : Word) (sys : Bool) : State :=
  modPart s r (fun x => { x with state := .done, got := got, sys := sys })

/-- The access before its translation (R460). -/
def Access.restart (a : Access) : Access :=
  { a with parts := a.parts.map (fun x => mkPart x.ea x.bytes x.val x.cmp), freed := false }

/-- A part as it is issued again after uncorrectable data (R216). A load is issued again from the beginning; of another access
the parts that have been performed stay performed (assumption 50). The part keeps its address for the gates of R204. -/
def againPart (op : MemOp) (x : Part) : Part :=
  if x.state = .skipped ∨ (x.state = .done ∧ isRead op = false) then x else { x with state := .todo, got := 0, sys := false }

/-- The lower of two faults by address: an access that fails at several addresses reports the lowest (R197). -/
def lowerFault (o : Option FaultInfo) (e : FaultInfo) : FaultInfo :=
  match o with
  | some f => if f.word1.toNat ≤ e.word1.toNat then f else e
  | none => e

/-- A part meets an error as it is performed (R216, R20): it is not performed, and its access keeps the fault until every
part has been tried. -/
def spoil (s : State) (r : PartRef) (e : FaultInfo) : State :=
  modAccess s r.plot r.id (fun a => { (Access.modPart r.idx (fun x => { x with state := .bad }) a) with
    fault := some (lowerFault a.fault e) })

/-- A part meets uncorrectable data (R216). -/
def spoilBad (s : State) (r : PartRef) (x : Part) : State := spoil s r (faultAt causeMemUncorrectable 0 x.ea)

/-- What one request serves together (R209, R266): a 16-byte word of a plot store, a line anywhere else. -/
def unitOf (x : Part) : Option Nat :=
  x.pa.map (fun pa => if x.kind = .window then pa / 16 else pa / 64)

/-- Two parts go in one request. -/
def sameUnit (x y : Part) : Bool := x.kind == y.kind && unitOf x == unitOf y && x.state == y.state

/-- The parts that go with a part in one request, lowest number first, as its access stands. -/
def unitMates (s : State) (r : PartRef) : List PartRef :=
  match partAt s r with
  | some (a, x) => ((List.range a.parts.length).filter (fun i => (a.parts[i]?).any (sameUnit x))).map (fun i => { r with idx := i })
  | none => []

/-- Every part of a request changed. -/
def modUnitOf (s : State) (r : PartRef) (f : Part → Part) : State := (unitMates s r).foldl (fun s m => modPart s m f) s

/-! ### Requests of engines, of the host and of peers -/

/-- Such a request by its number, and the state with one changed or gone. -/
def engAt (s : State) (id : Nat) : Option EngReq := s.engReqs.find? (fun q => q.id == id)
def modEng (s : State) (id : Nat) (f : EngReq → EngReq) : State :=
  { s with engReqs := s.engReqs.map (fun q => if q.id = id then f q else q) }
def dropEng (s : State) (id : Nat) : State := { s with engReqs := s.engReqs.filter (fun q => q.id != id) }

/-- The answer to a peer's request kept (R484): the last 256 of its stream. -/
def keepResponse (s : State) (src port : Nat) (seq : BitVec 32) (refused : Bool) (v : Nat) : State :=
  { s with inStreams := s.inStreams.map (fun y => if y.src = src ∧ y.port = port then
      { y with kept := (KeptResponse.mk seq refused v :: y.kept).take 256 } else y) }

/-- A peer's request performed (R484), or one word of it in a plot store (R266): it is answered when all of it has been, with what was
read at each, lowest bytes first. -/
def answerAsk (s : State) (q : EngReq) (v : Nat) : State :=
  let s := modEng s q.id (fun y => { y with done := true, got := v })
  match q.owner with
  | .peer src port seq =>
    let mates := s.engReqs.filter (fun y => y.owner == q.owner)
    if mates.all (fun y => y.done) then
      keepResponse { s with engReqs := s.engReqs.filter (fun y => y.owner != q.owner) } src port seq false
        (mates.foldr (fun y v => y.got + 256 ^ y.bytes * v) 0)
    else s
  | _ => dropEng s q.id

/-! ### At the home -/

/-- Old and operand as float values with FTZ (R37, R42, R211). -/
def atomFloat (ftz : Bool) (f : FVal → FVal → FVal) (old b : Word) : Word :=
  BitVec.ofNat 64 (ftzRes ftz .f32 (roundReal .f32 .rne 0 (f (ftzSrc ftz .f32 (unpack .f32 old)) (ftzSrc ftz .f32 (unpack .f32 b)))))

/-- The new value of an atomic (R211). -/
def atomNew (aop : BitVec 4) (ty : Ty) (ftz : Bool) (old b cmp : Word) : Word :=
  let x := readInt ty old
  let y := readInt ty b
  match aop.toNat with
  | 0 => writeInt ty (x + y)
  | 1 => old &&& b
  | 2 => old ||| b
  | 3 => old ^^^ b
  | 4 => if x ≤ y then old else b
  | 5 => if x ≥ y then old else b
  | 6 => if x ≥ y then 0 else writeInt ty (x + 1)
  | 7 => if x = 0 ∨ x > y then b else writeInt ty (x - 1)
  | 8 => b
  | 9 => if patternOf ty old = patternOf ty cmp then b else old
  | 10 => atomFloat ftz (addReal .rne) old b
  | 11 => atomFloat ftz (minReal false) old b
  | 12 => atomFloat ftz (minReal true) old b
  | _ => old

/-- Whether a part's data must be found correctable. -/
def reads (op : MemOp) : Bool := isRead op || op == .lds || op == .atom || op == .red

/-- The verdict of the record on an access at an address (R437, R438): one that returns no recorded value is free. -/
def accessVerdict (s : State) (r : PartRef) (a : Access) (pa : Nat) : Verdict :=
  match channelOf a.op with
  | none => .free
  | some k => verdict s a.block.ctx k pa (identityOf s r.plot a.block a.set.slot a.env)

/-- An access whose turn in a replay has not come, or whose record has no room (R437, R438). -/
def replayWaits (s : State) (r : PartRef) (a : Access) (pa : Nat) : Bool := (accessVerdict s r a pa).waits

/-- Such an access waits at its home. -/
def joinReplay (s : State) (r : PartRef) (a : Access) (pa : Nat) : State :=
  let s := awaitTurn s a.block.ctx (accessVerdict s r a pa)
  { s with homeWaiters := s.homeWaiters ++ [.replay (homeOf pa) r] }

/-- HACOL counts one more collision on the die of a slice (R262, R263). -/
def countCollision (s : State) (home : Nat) : State :=
  { s with hacol := s.hacol.modify (home / 16) (fun c => c + 1) }

/-- What an atomic unit's operation does to a host copy of its line first (R262). The rule does not say what a `red` of several
elements counts: the model counts each element, which is atomic on its own (R211; assumption 15). -/
def meetHostCopy (s : State) (sysAtomic : Bool) (pa : Nat) : State :=
  if rangeOf pa = .hbm ∧ hostFlag s (pa / 64) = true then
    if sysAtomic then setHostFlag s (pa / 64) false else countCollision s (sliceOf pa)
  else s

/-- An `lds` whose word is full, served at its home (R210): data that is uncorrectable faults it (R216), in a replay it waits
for its turn (R438), and else the value is bound, recorded, and the word emptied where TAKE is set. -/
def serveLds (s : State) (r : PartRef) (a : Access) (x : Part) (pa : Nat) : State :=
  if s.mem.bad pa x.bytes then spoilBad s r x
  else if replayWaits s r a pa then joinReplay s r a pa
  else
    let s := meetHostCopy s x.sysAtomic pa
    let found := BitVec.ofNat 64 (s.mem.read pa x.bytes)
    let (s, v) := valueChannel s a.block.ctx recLds pa (identityOf s r.plot a.block a.set.slot a.env) found
    let s := if a.xf.take then { s with mem := s.mem.setEmpty pa 1 } else s
    finishPart s r v true

/-- A peer's `lds` whose word is full (R210, R260). -/
def serveAskLds (s : State) (q : EngReq) (x : PeerAsk) : State :=
  let s := meetHostCopy s false q.pa
  let v := s.mem.read q.pa x.bytes
  answerAsk (if x.kind = 6 then { s with mem := s.mem.setEmpty q.pa 1 } else s) q v

/-- A waiting `lds` served: its word is full. -/
def serveWaiting (s : State) (r : ReqRef) : State :=
  match r with
  | .part p =>
    (match partAt s p with
    | some (a, y) => serveLds s p a y (y.pa.getD 0)
    | none => s)
  | .eng id =>
    (match engAt s id with
    | some q => (match q.act with
      | .ask x => serveAskLds s q x
      | _ => s)
    | none => s)

/-- Waiting `lds` of a word proceed in their order while it is full (R210). -/
def wakeLds : Nat → State → Nat → State
  | 0, s, _ => s
  | fuel + 1, s, word =>
    if s.mem.full (8 * word) then
      match s.homeWaiters.find? (fun w => match w with
        | .lds _ _ x => x == word
        | _ => false) with
      | some (.lds h r x) => wakeLds fuel (serveWaiting { s with homeWaiters := s.homeWaiters.erase (.lds h r x) } r) word
      | _ => s
    else s

/-- A word has become full: its waiting `lds` proceed. -/
def wakeWord (s : State) (a : Nat) : State := wakeLds s.homeWaiters.length s (a / 8)

/-- Waiting `lds` of the words of a range proceed: they have become full (R210). -/
def wakeRange (s : State) (a n : Nat) : State :=
  ((s.homeWaiters.filterMap (fun w => match w with
    | .lds _ _ x => if decide (a / 8 ≤ x) && decide (8 * x < a + n) then some x else none
    | _ => none)).eraseDups).foldl (fun s x => wakeWord s (8 * x)) s

/-- Waiters in the list of a home (R210, R289). -/
def waitersAt (s : State) (home : Nat) : Nat :=
  s.homeWaiters.countP (fun w => match w with
    | .lds h _ _ => h == home
    | .permit h _ _ _ _ _ => h == home
    | .replay _ _ => false)

/-- An `lds` that finds its word empty joins the waiters of its home; none where the list is full (R210). -/
def joinLds (s : State) (r : ReqRef) (pa : Nat) : Option State :=
  if waitersAt s (homeOf pa) < 256 then some { s with homeWaiters := s.homeWaiters ++ [.lds (homeOf pa) r (pa / 8)] } else none

/-- Bytes stored at their home, the line's watch told (R370). -/
def storeAt (s : State) (pa n v : Nat) : State :=
  noteStore { s with mem := (s.mem.write pa n v).clearMarks pa n } (pa / 64)

/-- A read-modify-write of a part at its home (R211): the old value and the state after it. -/
def modifyAt (s : State) (a : Access) (x : Part) (pa : Nat) : State × Word :=
  let s := meetHostCopy s x.sysAtomic pa
  let old := BitVec.ofNat 64 (s.mem.read pa x.bytes)
  (storeAt s pa x.bytes (atomNew a.xf.aop a.head.ty a.ftz old x.val x.cmp).toNat, old)

/-- A part performed at its home, its line there and every L1 copy gone (R205, R210, R211, R216, R245). -/
def performAt (s : State) (r : PartRef) (a : Access) (x : Part) (pa : Nat) : State :=
  let sysNow := x.kind == .home || !(rangeOf pa == .hbm && hostFlag s (pa / 64))
  match a.op with
  | .ld | .ldg | .strl | .strlRow =>
    if s.mem.bad pa x.bytes then spoilBad s r x else finishPart s r (BitVec.ofNat 64 (s.mem.read pa x.bytes)) true
  | .st | .sts | .strs => finishPart (storeAt s pa x.bytes x.val.toNat) r 0 sysNow
  | .stf =>
    let s := storeAt (meetHostCopy s x.sysAtomic pa) pa x.bytes x.val.toNat
    wakeWord (finishPart { s with mem := s.mem.setFull pa x.bytes } r 0 true) pa
  | .clre => finishPart { s with mem := s.mem.setEmpty pa (x.bytes / 8) } r 0 true
  | .atom =>
    if s.mem.bad pa x.bytes then spoilBad s r x
    else if replayWaits s r a pa then joinReplay s r a pa
    else
      let (s, old) := modifyAt s a x pa
      let (s, v) := valueChannel s a.block.ctx recAtomic pa (identityOf s r.plot a.block a.set.slot a.env) old
      finishPart s r v true
  | .red => finishPart (modifyAt s a x pa).1 r 0 true
  | .lds =>
    if s.mem.full pa then serveLds s r a x pa
    else (joinLds s (.part r) pa).getD (modPart s r (fun y => { y with state := .refused }))
  | .cctl => finishPart (l2Drop s (pa / 64)) r 0 true
  | .pref | .mnop | .fence => finishPart s r 0 true

/-- One part of a request performed at its home, if it is still there. -/
def performPart (s : State) (r : PartRef) : State :=
  match partAt s r with
  | some (a, x) =>
    match x.pa with
    | some pa => if x.state = .atHome then performAt s r a x pa else s
    | none => s
  | none => s

/-- The fault of a `red` some of whose data is uncorrectable (R216), at the lowest such address: it leaves memory unchanged, wherever
its other elements lie. -/
def redFault (s : State) (a : Access) : Option FaultInfo :=
  (a.parts.filter (fun x => x.state != .done && x.pa.any (fun pa => s.mem.bad pa x.bytes))).foldl
    (fun m x => some (lowerFault m (faultAt causeMemUncorrectable 0 x.ea))) a.fault

/-- A request of an access performed at its home: its parts in ascending number, through the slice's L2, which CP does not steer for a
home-executed page (R208, R209, R266). A `clre` meets a host copy of its line once (R262). -/
def performUnit (s : State) (r : PartRef) : State :=
  match partAt s r with
  | none => s
  | some (a, x) =>
    let pa := x.pa.getD 0
    let s := ownHostLine s pa
    let s := if x.kind = .window ∨ a.op = .cctl then s else l2Touch s (if x.kind = .home then .normal else a.xf.cp) none (pa / 64)
    let s := if a.op = .clre ∧ x.state = .atHome then meetHostCopy s x.sysAtomic pa else s
    match if a.op = .red ∧ x.state = .atHome then redFault s a else none with
    | some e => (unitMates s r).foldl (fun s m => spoil s m e) s
    | none => (unitMates s r).foldl performPart s

/-- A peer's `lds` that a full list of waiters has refused comes again (R210); the wait is left out (assumption 2). -/
def retryAsk (s : State) (q : EngReq) : State :=
  if rangeOf q.pa = .window then
    { s with banks := s.banks ++ [BankReq.mk (storeOf q.pa) ((q.pa - windowBase) % 0x10_0000 / 16) false true (.eng q.id) false s.cycles 2048] }
  else { s with toHome := s.toHome ++ [ToHome.mk q.plot (q.pa / 64) (.op (.eng q.id))] }

/-- What a peer's request does at its home (R260, R484): read 0, store 1, atomic 2, `stf` 3, `clre` 4, `lds` 5, `lds` with TAKE
6. The old value, or for a read the line, is its answer. The model's choice (assumption 15): a peer's operation meets a host copy as on
a page with SA clear, since its page is not known here. -/
def performAsk (s : State) (q : EngReq) (x : PeerAsk) : State :=
  let old := BitVec.ofNat 64 (s.mem.read q.pa x.bytes)
  let val := x.val.setWidth 64
  match x.kind with
  | 0 => answerAsk s q (if rangeOf q.pa = .window then s.mem.read q.pa q.bytes else s.mem.read (q.pa / 64 * 64) 64)
  | 1 => answerAsk (storeAt s q.pa x.bytes x.val.toNat) q 0
  | 2 => answerAsk (storeAt (meetHostCopy s false q.pa) q.pa x.bytes (atomNew x.aop x.ty x.ftz old val x.cmp).toNat) q old.toNat
  | 3 =>
    let s := storeAt (meetHostCopy s false q.pa) q.pa x.bytes x.val.toNat
    wakeRange (answerAsk { s with mem := s.mem.setFull q.pa x.bytes } q 0) q.pa x.bytes
  | 4 =>
    let s := meetHostCopy s false q.pa
    answerAsk { s with mem := s.mem.setEmpty q.pa (x.bytes / 8) } q 0
  | _ => if s.mem.full q.pa then serveAskLds s q x else (joinLds s (.eng q.id) q.pa).getD (retryAsk s q)

/-- A request of an engine, of the host or of a peer performed at its home (R247, R256, R257, R260). A write sets its words full in
the same step, except in host memory and in a headland's store (R17). A request that nothing waits for any more is gone. -/
def performEng (s : State) (id : Nat) : State :=
  match engAt s id with
  | none => s
  | some q =>
    let s := ownHostLine s q.pa
    let s := if rangeOf q.pa = .hbm ∨ rangeOf q.pa = .host then l2Touch s .normal none (q.pa / 64) else s
    let fill := fun (s : State) => if rangeOf q.pa = .hbm ∨ rangeOf q.pa = .window then { s with mem := s.mem.setFull q.pa q.bytes } else s
    let held := rangeOf q.pa == .hbm && hostFlag s (q.pa / 64)
    match q.act with
    | .read => modEng s id (fun y => { y with
        done := true, sys := true, got := s.mem.read q.pa q.bytes
        fault := if s.mem.bad q.pa q.bytes then some (faultAt causeMemUncorrectable 0 q.va) else none })
    | .write v =>
      let s := fill (storeAt s q.pa q.bytes v)
      wakeRange (if held then modEng s id (fun y => { y with done := true }) else dropEng s id) q.pa q.bytes
    | .hostRead keep => dropEng (if keep then setHostFlag s (q.pa / 64) true else s) id
    | .hostWrite v keep =>
      let s := fill (storeAt s q.pa q.bytes v)
      wakeRange (dropEng (if keep then setHostFlag s (q.pa / 64) true else s) id) q.pa q.bytes
    | .ask x => performAsk s q x

/-- A request performed at its home. -/
def performRef (s : State) (r : ReqRef) : State :=
  match r with
  | .part p => performUnit s p
  | .eng id => performEng s id

end Sys2Proof.Machine
end

