-- ==== Sys2Proof/Machine/Coherence.lean ====
section
/-! DEFINITION. The coherence protocol (R249 to R257): an L1's accesses and messages, the directory entry of a line at
its home, and the twenty steps that move a message. In each step `p` is the plot and `n` the home slice whose oldest
message it takes. -/
namespace Sys2Proof.Machine

/-! ### Messages -/

def sendHome (s : State) (p line : Nat) (m : HomeMsg) : State := { s with toHome := s.toHome ++ [ToHome.mk p line m] }
def sendPlot (s : State) (p line : Nat) (m : PlotMsg) : State := { s with toPlot := s.toPlot ++ [ToPlot.mk p line m] }
def sendOwner (s : State) (p line : Nat) (m : PlotMsg) : State := { s with fromOwner := s.fromOwner ++ [ToPlot.mk p line m] }

/-- The home slice of a line. -/
def lineSlice (line : Nat) : Nat := sliceOf (64 * line)

/-- The oldest message from a plot to a slice (R250). -/
def headHome (s : State) (p slice : Nat) : Option ToHome :=
  s.toHome.find? (fun m => m.plot == p && lineSlice m.line == slice)

/-- The oldest message from a slice to a plot (R250). -/
def headPlot (s : State) (p slice : Nat) : Option ToPlot :=
  s.toPlot.find? (fun m => m.plot == p && lineSlice m.line == slice)

/-! ### The L1 (R251) -/

/-- A line that occupies a way of its set. -/
def occupies (x : L1Line) : Bool := x.st != .miA && x.st != .iiA

/-- A line that replacement may take. -/
def replaceable (x : L1Line) : Bool := x.st == .s || x.st == .e || x.st == .m

/-- Replacement of a tracked line (R251): silent from S, with PUTE or PUTM from E or M. -/
def replaceLine (s : State) (p : Nat) (x : L1Line) : State :=
  if x.rep then dropRep s p (fun l => l == x.line)
  else match x.st with
    | .s => dropLine s p x.line
    | .e => sendHome (setLineState s p x.line (fun y => { y with st := .miA })) p x.line .pute
    | .m => sendHome (setLineState s p x.line (fun y => { y with st := .miA })) p x.line (.putm x.data)
    | _ => s

/-- The lines that compete with a line for a place in the L1 of a plot, and how many places they share (R16, R17): the 20 ways
of its set of 256, or on a headland 64 KiB in all, of which R16 gives no sets. -/
def wayRivals (s : State) (p line : Nat) : List L1Line × Nat :=
  let held := (plotAt s p).l1.filter occupies
  if p < 32 then (held.filter (fun x => Config.l1Set x.line == Config.l1Set line), 20) else (held, 1024)

/-- A place for a line in the L1 (R17, R251), the first replaceable rival replaced where there is none free; none where every
rival is in a transient state. -/
def makeWay (s : State) (p line : Nat) : Option State :=
  let (rivals, ways) := wayRivals s p line
  if rivals.length < ways then some s else (rivals.find? replaceable).map (replaceLine s p)

/-- A line placed in the L1: stream lines first to be replaced (R208). -/
def addLine (s : State) (p : Nat) (stream : Bool) (x : L1Line) : State :=
  modL1 s p (fun l => if stream then x :: l else l ++ [x])

/-- A hit by an access with CP normal makes the line most recently used (R208). -/
def touchLine (s : State) (p : Nat) (stream rep : Bool) (line : Nat) : State :=
  if stream then s
  else modL1 s p (fun l => l.filter (fun x => !(x.line == line && x.rep == rep)) ++
    l.filter (fun x => x.line == line && x.rep == rep))

/-- A prefetch of a context that is being stopped: it starts no line (R217). -/
def prefStops (s : State) (a : Access) : Bool := a.op == .pref && (ctxAt s a.block.ctx).phase != .running

/-- A miss: the line enters a transient state, the request is sent, event 0x15 counted (R251, R191). Without a way the
part waits. -/
def missLine (s : State) (r : PartRef) (a : Access) (line : Nat) (st : L1State) (m : HomeMsg) : State :=
  match if prefStops s a then none else makeWay s r.plot line with
  | none => s
  | some s =>
    let s := addLine s r.plot (a.xf.cp == .stream) (L1Line.mk line st 0 false [])
    countEvent (sendHome s r.plot line m) r.plot 0x15 (some a.block.ctx) 1

/-- A read bound to a line's data (R205); a prefetch has its line. -/
def bindRead (s : State) (r : PartRef) (a : Access) (x : Part) (pa : Nat) (d : LineData) : State :=
  if a.op = .pref then finishPart s r 0 true
  else if s.mem.bad pa x.bytes then spoilBad s r x
  else finishPart s r (BitVec.ofNat 64 (lineGet d (pa % 64) x.bytes)) true

/-- A store written into a line held in M: performed at plot and device scope (R205). -/
def writeOwned (s : State) (r : PartRef) (x : Part) (pa : Nat) : State :=
  let s := setLineState s r.plot (pa / 64) (fun y => { y with
    st := .m, data := lineSet y.data (pa % 64) x.bytes x.val.toNat })
  finishPart (noteStore { s with mem := s.mem.clearMarks pa x.bytes } (pa / 64)) r 0 (!hostFlag s (pa / 64))

/-- A read of a replicated page at the L1 (R246, R251): it hits the plot's copy, waits for one that is on its way, or misses:
with a way for the line, the line is read at the home; without one it waits. -/
def tryRep (s : State) (r : PartRef) (a : Access) (x : Part) (pa : Nat) : State :=
  let line := pa / 64
  match repAt s r.plot line with
  | some l => if l.st = .s then bindRead (touchLine s r.plot (a.xf.cp == .stream) true line) r a x pa l.data else s
  | none =>
    match if prefStops s a then none else makeWay s r.plot line with
    | none => s
    | some s =>
      let s := addLine s r.plot (a.xf.cp == .stream) (L1Line.mk line .isD 0 true [])
      countEvent (sendHome (modUnitOf s r (fun y => { y with state := .atHome })) r.plot line (.read (.part r))) r.plot 0x15
        (some a.block.ctx) 1

/-- A part at the L1, tried (R251). -/
def tryL1 (s : State) (r : PartRef) : State :=
  match partAt s r with
  | none => s
  | some (a, x) =>
    match x.pa with
    | none => s
    | some pa =>
      if x.state = .atL1 then
        let line := pa / 64
        let stream := a.xf.cp == .stream
        if x.kind = .replicated then tryRep s r a x pa
        else if isPlainStore a.op || a.op == .strs then
          match l1At s r.plot line with
          | none => missLine s r a line .imD .getx
          | some l =>
            match l.st with
            | .e | .m => touchLine (writeOwned s r x pa) r.plot stream false line
            | .s => sendHome (setLineState s r.plot line (fun y => { y with st := .smD })) r.plot line .upg
            | _ => s
        else
          match l1At s r.plot line with
          | none => missLine s r a line .isD .gets
          | some l =>
            match l.st with
            | .s | .e | .m | .smD => bindRead (touchLine s r.plot stream false line) r a x pa l.data
            | _ => s
      else s

/-- Every part of a plot's accesses, in the order in which they issued. -/
def partRefs (s : State) (p : Nat) : List PartRef :=
  (plotAt s p).accesses.flatMap (fun a => (List.range a.parts.length).map (fun i => PartRef.mk p a.id i))

/-- Every waiting part of a plot's L1, tried in issue order. -/
def kickL1 (s : State) (p : Nat) : State := (partRefs s p).foldl tryL1 s

/-- A forward answered by the owner (R251, R255, R256). -/
def answerForward (s : State) (p line : Nat) (f : Forward) : State :=
  match l1At s p line with
  | none => s
  | some x =>
    let send := fun (s : State) => match f.requester, f.kind with
      | some q, .gets => sendOwner s q line (.dataS x.data)
      | some q, .getx => sendOwner s q line (.dataM x.data)
      | none, _ => s
    if x.st = .miA then
      sendHome (send (setLineState s p line (fun y => { y with st := .iiA }))) p line (.fwdDone x.data false)
    else match f.kind with
      | .gets => sendHome (send (setLineState s p line (fun y => { y with st := .s }))) p line (.fwdDone x.data true)
      | .getx => sendHome (send (dropLine s p line)) p line (.fwdDone x.data false)

/-- The forwards an L1 held, answered (R251). -/
def answerHeld (s : State) (p line : Nat) : State :=
  match l1At s p line with
  | none => s
  | some x => x.held.foldl (fun s f => answerForward s p line f) (setLineState s p line (fun y => { y with held := [] }))

/-- The reads that wait for a line in a state, each changed by its own step. -/
def forReads (st : PartState) (line : Nat) (f : State → PartRef → Access → Part → Nat → State) (s : State) (p : Nat) : State :=
  (partRefs s p).foldl (fun s r => match partAt s r with
    | some (a, x) =>
      (match x.pa with
      | some pa => if x.state = st ∧ x.kind ≠ .replicated ∧ pa / 64 = line ∧ (isPlainStore a.op || a.op == .strs) = false then
          f s r a x pa else s
      | none => s)
    | none => s) s

/-- The reads that waited for a line as an INV reached it (R251): they complete with the line that comes. A read that joins
later waits for the line anew, since a store of another observer may have been performed (R240). -/
def markWaiting (s : State) (p line : Nat) : State :=
  forReads .atL1 line (fun s r _ _ _ => modPart s r (fun y => { y with state := .atInv })) s p

/-- These reads bound to the line's data (R251, IS_I). -/
def bindWaiting (s : State) (p line : Nat) (d : LineData) : State :=
  forReads .atInv line (fun s r a x pa => bindRead s r a x pa d) s p

/-- What a line that arrives does to an L1 line (R251). -/
def arriveData (s : State) (p line : Nat) (d : LineData) (st : L1State) : State :=
  match l1At s p line with
  | none => s
  | some x =>
    match x.st with
    | .isD => kickL1 (setLineState s p line (fun y => { y with st := st, data := d })) p
    | .isI => kickL1 (dropLine (bindWaiting s p line d) p line) p
    | .imD => answerHeld (kickL1 (setLineState s p line (fun y => { y with st := st, data := d })) p) p line
    | _ => s

/-- An invalidation (R251): every one is acknowledged. -/
def arriveInv (s : State) (p line : Nat) : State :=
  let s := sendHome s p line .invAck
  match l1At s p line with
  | none => s
  | some x =>
    match x.st with
    | .isD => markWaiting (setLineState s p line (fun y => { y with st := .isI })) p line
    | .s => kickL1 (dropLine s p line) p
    | .smD => setLineState s p line (fun y => { y with st := .imD })
    | _ => s

/-- A forward at an L1 (R251): the owner answers it, a line in IM_D holds it. -/
def arriveForward (s : State) (p line : Nat) (f : Forward) : State :=
  match l1At s p line with
  | none => s
  | some x =>
    match x.st with
    | .e | .m | .miA => answerForward s p line f
    | .imD => setLineState s p line (fun y => { y with held := y.held ++ [f] })
    | _ => s

/-- Ownership without data (R251). -/
def arriveGrant (s : State) (p line : Nat) : State :=
  match l1At s p line with
  | some x => if x.st = .smD then kickL1 (setLineState s p line (fun y => { y with st := .m })) p else s
  | none => s

/-- The write-back buffer is freed (R251). -/
def arrivePutAck (s : State) (p line : Nat) : State :=
  match l1At s p line with
  | some x => if x.st = .miA ∨ x.st = .iiA then kickL1 (dropLine s p line) p else s
  | none => s

/-! ### The directory (R252) -/

/-- A request of an L1 with its plot. -/
def reqPlot : DirReq → Option Nat
  | .gets p | .getx p | .upg p | .pute p | .putm p _ => some p
  | _ => none

/-- A transient directory state. -/
def dirTransient (e : DirEntry) : Bool := e.st == .sx || e.st == .emFs || e.st == .emFx

/-- Invalidations to some sharers and the request that waits for their acknowledgements (R252). -/
def invalidate (s : State) (e : DirEntry) (others : List Nat) (req : DirReq) : State :=
  others.foldl (fun s q => sendPlot s q e.line .inv)
    (setDir s { e with st := .sx, count := others.length, serving := some req })

/-- The line of a request of an L1 in the slice's L2 (R208): read, or written back, there. -/
def l2Request (s : State) (line : Nat) (req : DirReq) : State :=
  match req with
  | .gets _ | .getx _ | .upg _ => l2Touch s .normal none line
  | .pute _ | .op _ | .read _ => s
  | .putm _ _ => if s.l2.any (fun x => x.line == line && x.ctx.isNone) then s else l2Touch s .normal none line

/-- A request served in I, S or EM (R252). A request from the recorded owner does not arise. -/
def serveReq (s : State) (line : Nat) (req : DirReq) : State :=
  let s := l2Request s line req
  let e := dirAt s line
  let d := s.mem.line line
  let give := fun (p : Nat) (m : PlotMsg) =>
    sendPlot (setDir s { e with st := .em, owner := p, sharers := [], serving := none, count := 0 }) p line m
  match e.st, req with
  | .i, .gets p => give p (.dataE d)
  | .i, .getx p => give p (.dataM d)
  | .i, .upg p => give p (.dataM d)
  | .i, .pute p => sendPlot s p line .putAck
  | .i, .putm p _ => sendPlot s p line .putAck
  | .i, .op r => performRef s r
  | .i, .read r => performRef s r
  | .s, .gets p =>
    sendPlot (setDir s { e with sharers := if e.sharers.contains p then e.sharers else p :: e.sharers }) p line (.dataS d)
  | .s, .upg p =>
    let others := e.sharers.filter (fun q => q != p)
    if e.sharers.contains p then
      if others.isEmpty then give p .grant else invalidate s e others (.upg p)
    else if others.isEmpty then give p (.dataM d) else invalidate s e others (.getx p)
  | .s, .getx p =>
    let others := e.sharers.filter (fun q => q != p)
    if others.isEmpty then give p (.dataM d) else invalidate s e others (.getx p)
  | .s, .pute p => sendPlot s p line .putAck
  | .s, .putm p _ => sendPlot s p line .putAck
  | .s, .op r =>
    if e.sharers.isEmpty then performRef (setDir s { e with st := .i }) r
    else invalidate s e e.sharers (.op r)
  | .s, .read r => performRef s r
  | .em, .gets p =>
    if p = e.owner then s
    else sendPlot (setDir s { e with st := .emFs, serving := some req }) e.owner line (.fwd (Forward.mk .gets (some p)))
  | .em, .getx p | .em, .upg p =>
    if p = e.owner then s
    else sendPlot (setDir s { e with st := .emFx, serving := some req }) e.owner line (.fwd (Forward.mk .getx (some p)))
  | .em, .op _ =>
    sendPlot (setDir s { e with st := .emFx, serving := some req }) e.owner line (.fwd (Forward.mk .getx none))
  | .em, .read _ =>
    sendPlot (setDir s { e with st := .emFs, serving := some req }) e.owner line (.fwd (Forward.mk .gets none))
  | .em, .pute p =>
    if p = e.owner then sendPlot (setDir s { e with st := .i, owner := 0 }) p line .putAck else sendPlot s p line .putAck
  | .em, .putm p x =>
    if p = e.owner then
      let s := setDir s { e with st := .i, owner := 0 }
      sendPlot { s with mem := s.mem.setLine line x } p line .putAck
    else sendPlot s p line .putAck
  | _, _ => s

/-- The queue of a line served from its head while the line is in no transient state (R252). -/
def serveQueue : Nat → State → Nat → State
  | 0, s, _ => s
  | fuel + 1, s, line =>
    let e := dirAt s line
    if dirTransient e then s
    else match e.queue with
      | [] => s
      | req :: rest => serveQueue fuel (serveReq (setDir s { e with queue := rest }) line req) line

/-- The queue of a line after it has left a transient state. -/
def serveLine (s : State) (line : Nat) : State := serveQueue ((dirAt s line).queue.length) s line

/-- The requests queued at a slice (R253). -/
def queuedAt (s : State) (slice : Nat) : Nat :=
  (s.dir.filter (fun e => lineSlice e.line == slice)).foldl (fun n e => n + e.queue.length) 0

/-- The context of a request, for its event: those of the host and of peers have none (R192). -/
def refCtx (s : State) (r : ReqRef) : Option (BitVec 12) :=
  match r with
  | .part p => (accessAt s p.plot p.id).map (fun a => a.block.ctx)
  | .eng id =>
    match engAt s id with
    | some q => (match q.owner with
      | .host | .peer _ _ _ => none
      | _ => some q.ctx)
    | none => none

/-- A refused request of an engine, of the host or of a peer is sent to the home again (R253); the wait is left out
(assumption 2). -/
def againEng (s : State) (line id : Nat) (m : HomeMsg) : State :=
  match engAt s id with
  | some q => countEvent (sendHome s q.plot line m) q.plot 0x15 (refCtx s (.eng id)) 1
  | none => s

/-- A request refused by a full slice (R253): event 0x15 counts it, for an L1's request as the refusal arrives there. -/
def refuseReq (s : State) (line : Nat) (req : DirReq) : State :=
  match req with
  | .gets p => sendPlot s p line (.refused .gets)
  | .getx p => sendPlot s p line (.refused .getx)
  | .upg p => sendPlot s p line (.refused .upg)
  | .pute p => sendPlot s p line (.refused .pute)
  | .putm p d => sendPlot s p line (.refused (.putm d))
  | .op (.part r) | .read (.part r) =>
    countEvent (modUnitOf s r (fun x => { x with state := .refused })) r.plot 0x15 ((accessAt s r.plot r.id).map (fun a => a.block.ctx)) 1
  | .op (.eng id) => againEng s line id (.op (.eng id))
  | .read (.eng id) => againEng s line id (.read (.eng id))

/-- A request that reaches its home (R252, R253): served, or queued behind a transient state. -/
def arriveReq (s : State) (line : Nat) (req : DirReq) : State :=
  let e := dirAt s line
  if dirTransient e then
    if 512 ≤ queuedAt s (lineSlice line) then refuseReq s line req
    else setDir s { e with queue := e.queue ++ [req] }
  else serveLine (serveReq s line req) line

/-- An invalidation acknowledged (R252). -/
def arriveInvAck (s : State) (line : Nat) : State :=
  let e := dirAt s line
  if e.st ≠ .sx then s
  else if 1 < e.count then setDir s { e with count := e.count - 1 }
  else
    let own := fun (p : Nat) (m : PlotMsg) =>
      sendPlot (setDir s { e with st := .em, owner := p, sharers := [], count := 0, serving := none }) p line m
    let s := match e.serving with
      | some (.upg p) => own p .grant
      | some (.getx p) => own p (.dataM (s.mem.line line))
      | some (.op r) => performRef (setDir s { e with st := .i, sharers := [], count := 0, serving := none }) r
      | _ => setDir s { e with st := .i, sharers := [], count := 0, serving := none }
    serveLine s line

/-- A forward answered (R252). -/
def arriveFwdDone (s : State) (line : Nat) (d : LineData) (retain : Bool) : State :=
  let e := dirAt s line
  let kept := if retain then [e.owner] else []
  let rest : DirEntry := { e with serving := none, owner := 0, count := 0 }
  let wr := fun (s : State) => { s with mem := s.mem.setLine line d }
  let s := match e.st, e.serving with
    | .emFs, some (.gets q) => wr (setDir s { rest with st := .s, sharers := q :: kept })
    | .emFs, some (.read r) =>
      performRef (wr (setDir s { rest with st := if retain then .s else .i, sharers := kept })) r
    | .emFx, some (.getx q) | .emFx, some (.upg q) => setDir s { rest with st := .em, owner := q, sharers := [] }
    | .emFx, some (.op r) => performRef (wr (setDir s { rest with st := .i, sharers := [] })) r
    | _, _ => s
  serveLine s line

/-! ### The steps -/

/-- The message taken from a plot's channel to a slice, if it is one that the step is for. -/
def takeHome (s : State) (p n : Nat) (want : HomeMsg → Bool) : Option (ToHome × State) :=
  match headHome s p n with
  | some m => if want m.msg then some (m, { s with toHome := s.toHome.erase m }) else none
  | none => none

/-- The message to plot `p` that a step takes: with `k = 0` the oldest of slice `n`, with `k = i + 1` the i-th of those
on their way from owners, which have no order (R250). -/
def takePlot (s : State) (p n k : Nat) (want : PlotMsg → Bool) : Option (ToPlot × State) :=
  match k with
  | 0 =>
    match headPlot s p n with
    | some m => if want m.msg then some (m, { s with toPlot := s.toPlot.erase m }) else none
    | none => none
  | i + 1 =>
    match (s.fromOwner.filter (fun m => m.plot == p))[i]? with
    | some m => if want m.msg then some (m, { s with fromOwner := s.fromOwner.erase m }) else none
    | none => none

/-- A request's message taken as it reaches its home: not behind one of a higher plot in the same plot cycle (R253). -/
def takeRequest (s : State) (p n : Nat) (want : HomeMsg → Bool) : Option (ToHome × State) :=
  match takeHome s p n want with
  | some (m, s) => (reaches s m.line p).map (fun s => (m, s))
  | none => none

/-- A step at the home: nothing where the oldest message is another (R8). -/
def homeStep (want : HomeMsg → Bool) (f : State → ToHome → State) (s : State) : Result :=
  match s.cur with
  | .at p n _ _ =>
    let s := { s with cur := .idle }
    match takeHome s p n want with
    | some (m, s) => .next (f s m)
    | none => .next s
  | _ => .next s

/-- A step at the home for a request, which R253 ranks. -/
def requestStep (want : HomeMsg → Bool) (f : State → ToHome → State) (s : State) : Result :=
  match s.cur with
  | .at p n _ _ =>
    let s := { s with cur := .idle }
    match takeRequest s p n want with
    | some (m, s) => .next (f s m)
    | none => .next s
  | _ => .next s

/-- A step at an L1. -/
def plotStep (want : PlotMsg → Bool) (f : State → ToPlot → State) (s : State) : Result :=
  match s.cur with
  | .at p n k _ =>
    let s := { s with cur := .idle }
    match takePlot s p n k want with
    | some (m, s) => .next (f s m)
    | none => .next s
  | _ => .next s

def execGets (s : State) : Result :=
  requestStep (fun m => m == .gets) (fun s m => arriveReq s m.line (.gets m.plot)) s
def execGetx (s : State) : Result :=
  requestStep (fun m => m == .getx) (fun s m => arriveReq s m.line (.getx m.plot)) s
def execUpg (s : State) : Result :=
  requestStep (fun m => m == .upg) (fun s m => arriveReq s m.line (.upg m.plot)) s
def execPute (s : State) : Result :=
  requestStep (fun m => m == .pute) (fun s m => arriveReq s m.line (.pute m.plot)) s
def execPutm (s : State) : Result :=
  requestStep (fun m => match m with | .putm _ => true | _ => false) (fun s m => match m.msg with
    | .putm d => arriveReq s m.line (.putm m.plot d)
    | _ => s) s
def execInvAck (s : State) : Result := homeStep (fun m => m == .invAck) (fun s m => arriveInvAck s m.line) s
def execFwdDone (s : State) : Result :=
  homeStep (fun m => match m with | .fwdDone _ _ => true | _ => false) (fun s m => match m.msg with
    | .fwdDone d r => arriveFwdDone s m.line d r
    | _ => s) s

def execDataS (s : State) : Result :=
  plotStep (fun m => match m with | .dataS _ => true | _ => false) (fun s m => match m.msg with
    | .dataS d => arriveData s m.plot m.line d .s
    | _ => s) s
def execDataE (s : State) : Result :=
  plotStep (fun m => match m with | .dataE _ => true | _ => false) (fun s m => match m.msg with
    | .dataE d => arriveData s m.plot m.line d .e
    | _ => s) s
def execDataM (s : State) : Result :=
  plotStep (fun m => match m with | .dataM _ => true | _ => false) (fun s m => match m.msg with
    | .dataM d => arriveData s m.plot m.line d .m
    | _ => s) s
def execGrant (s : State) : Result := plotStep (fun m => m == .grant) (fun s m => arriveGrant s m.plot m.line) s
def execInv (s : State) : Result := plotStep (fun m => m == .inv) (fun s m => arriveInv s m.plot m.line) s
def execFwdGets (s : State) : Result :=
  plotStep (fun m => match m with | .fwd f => f.kind == .gets | _ => false) (fun s m => match m.msg with
    | .fwd f => arriveForward s m.plot m.line f
    | _ => s) s
def execFwdGetx (s : State) : Result :=
  plotStep (fun m => match m with | .fwd f => f.kind == .getx | _ => false) (fun s m => match m.msg with
    | .fwd f => arriveForward s m.plot m.line f
    | _ => s) s
def execPutAck (s : State) : Result := plotStep (fun m => m == .putAck) (fun s m => arrivePutAck s m.plot m.line) s

/-- The context of a refused request for event 0x15: that of the oldest access that waits for the line. -/
def waitingCtx (s : State) (p line : Nat) : Option (BitVec 12) :=
  ((plotAt s p).accesses.find? (fun a => a.parts.any (fun x => x.state == .atL1 && x.pa.map (fun y => y / 64) == some line))).map
    (fun a => a.block.ctx)

/-- A refused request sent again as its line now stands: an upgrade whose copy an INV has dropped awaits the line's data
(R251). -/
def reissueRequest (s : State) (p line : Nat) (x : HomeMsg) : State :=
  match x, (l1At s p line).map (fun y => y.st) with
  | HomeMsg.upg, some L1State.imD => sendHome s p line .getx
  | _, _ => sendHome s p line x

/-- The refusal of an L1's request reaches the L1, which sends the request again 64 plot cycles later (R253); the wait
is left out (assumption 2). -/
def execRequestReissue (s : State) : Result :=
  plotStep (fun m => match m with | .refused _ => true | _ => false) (fun s m => match m.msg with
    | .refused x => reissueRequest (countEvent s m.plot 0x15 (waitingCtx s m.plot m.line) 1) m.plot m.line x
    | _ => s) s

/-- Back-invalidation of the host copy of line `n` of HBM completes: device stores to it are performed at system scope (R257). -/
def execBackInvalidation (s : State) : Result :=
  match s.cur with
  | .at _ n _ _ =>
    if rangeOf (64 * n) ≠ .hbm then .next { s with cur := .idle } else
    let s := setHostFlag s n false
    let f := fun (x : Part) => if x.state = .done ∧ x.pa.map (fun y => y / 64) = some n then { x with sys := true } else x
    .next { s with
      cur := .idle
      engReqs := s.engReqs.filter (fun q => !(q.done && !q.sys && q.pa / 64 == n && rangeOf q.pa == .hbm))
      kernels := s.kernels.map (fun k => { k with lines := k.lines.erase n })
      plots := s.plots.map (fun p => { p with accesses := p.accesses.map (fun a => { a with parts := a.parts.map f }) }) }
  | _ => .next s

/-- A replay waiter of a home whose turn has come (R438). -/
def replayReady (s : State) (home : Nat) : Option PartRef :=
  s.homeWaiters.findSome? (fun w => match w with
    | .replay h r => if h = home then
        (match partAt s r with
        | some (a, x) => if replayWaits s r a (x.pa.getD 0) then none else some r
        | none => none)
      else none
    | _ => none)

/-- A request of an access or an engine at its home: through its line's queue in HBM (R252), at once at a slice that holds a line
of host memory (R261). -/
def arriveHome (s : State) (line : Nat) (req : DirReq) (r : ReqRef) : State :=
  if rangeOf (64 * line) = .hbm then arriveReq s line req else performRef s r

/-- A replay waiter whose turn has come (R438): in HBM it is a home operation anew, since L1s may have taken copies of its line
meanwhile (R256). -/
def resumeReplay (s : State) (home : Nat) (r : PartRef) : State :=
  let s := { s with homeWaiters := s.homeWaiters.erase (.replay home r) }
  match partAt s r with
  | some (_, x) => (match x.pa with
    | some pa => arriveHome s (pa / 64) (.op (.part r)) (.part r)
    | none => s)
  | none => s

/-! ### The banks of a plot store (R266 to R268) -/

/-- A bank may serve a request in this plot cycle: the request came in an earlier one, with all that ranks before it, and the bank
has served no word yet. -/
def bankMay (s : State) (store b : Nat) (q : BankReq) : Bool := decide (q.cycle < s.cycles) && !s.served.contains (store, b)

/-- Requests that a bank passed over for another word for the first time count event 0x16 (R268). -/
def countConflicts (s : State) (store b w : Nat) (served : List BankReq) : State :=
  let mine := fun (q : BankReq) => q.store == store && q.word % 64 == b && decide (q.cycle < s.cycles) && !served.contains q
  let s := (s.banks.filter (fun q => mine q && !q.seen && q.word != w)).foldl (fun s q => countEvent s store 0x16 (refCtx s q.ref) 1) s
  { s with banks := (s.banks.filter (fun q => !served.contains q)).map (fun q => if mine q then { q with seen := true } else q) }

/-- The requests of a bank, oldest first. -/
def bankQueue (s : State) (store b : Nat) : List BankReq := s.banks.filter (fun q => q.store == store && q.word % 64 == b)

/-- Requests served by a bank in its plot cycle. -/
def serveWords (s : State) (store b w : Nat) (served : List BankReq) : State :=
  let s := countConflicts s store b w served
  served.foldl (fun s r => performRef s r.ref) { s with served := (store, b) :: s.served }

/-- A request to the atomic unit of a plot store: the oldest of bank `b` (R210, R211, R267). -/
def storeAtomic (s : State) (store b : Nat) : State :=
  match bankQueue s store b with
  | q :: _ => if q.atomic && bankMay s store b q then serveWords s store b q.word [q] else s
  | [] => s

/-- A home operation (R256): with `m = 0` the oldest message from plot `p`, the host (36) or peers (37) to slice `n`, or to the
atomic unit of the plot store `n − 64` the oldest request of bank `p`; with `m = 1` a waiting replay of home `n` whose turn has
come (R438). -/
def execHomeOperation (s : State) : Result :=
  match s.cur with
  | .at p n m _ =>
    let s := { s with cur := .idle }
    if m = 1 then
      match replayReady s n with
      | some r => .next (resumeReplay s n r)
      | none => .next s
    else if 64 ≤ n then .next (storeAtomic s (n - 64) p)
    else
      match takeRequest s p n (fun x => match x with | .op _ => true | _ => false) with
      | some (x, s) =>
        (match x.msg with
        | .op r => .next (arriveHome s x.line (.op r) r)
        | _ => .next s)
      | none => .next s
  | _ => .next s

/-- A load of a replicated page at the home (R246): its value, and the copy that its plot waits for, if it has not been dropped
meanwhile. -/
def repRead (s : State) (r : PartRef) (line : Nat) : State :=
  let d := cohLine s line
  let cp := ((partAt s r).map (fun x => x.1.xf.cp)).getD .normal
  let s := (unitMates s r).foldl (fun s m => match partAt s m with
    | some (a, x) => bindRead s m a x (x.pa.getD 0) d
    | none => s) (l2Touch s cp none line)
  kickL1 (modL1 s r.plot (fun l => l.map (fun y => if y.line = line ∧ y.rep = true ∧ y.st = .isD then { y with st := .s, data := d } else y)))
    r.plot

/-- A home read that reaches its slice. -/
def arriveRead (s : State) (line : Nat) (r : ReqRef) : State :=
  match r with
  | .part p =>
    (match partAt s p with
    | some (_, x) => if x.kind = .replicated then repRead s p line else arriveHome s line (.read r) r
    | none => repRead s p line)
  | .eng _ => arriveHome s line (.read r) r

/-- A home read (R256): the oldest message from plot `p`, the host or peers to slice `n`. -/
def execHomeRead (s : State) : Result :=
  requestStep (fun m => match m with | .read _ => true | _ => false) (fun s m => match m.msg with
    | .read r => arriveRead s m.line r
    | _ => s) s

end Sys2Proof.Machine
end

