-- ==== Sys2Proof/WellFormed.lean ====
section
/-! DEFINITION. Which instructions a block may be loaded with, as far as their own two words decide it. The tables
stand in Machine/Info.lean. -/
namespace Sys2Proof

/-- R63 to R69 for an instruction by itself. The steps of the hardware have no encoding, so none of them is an
instruction that a block can hold. -/
def wellFormed (i : Instr) : Bool :=
  match head? i, info i with
  | some h, some f => wellFormedIn h f
  | _, _ => false

end Sys2Proof
end

