-- ==== Sys2Proof/Machine/Select.lean ====
section
/-! DEFINITION. What decides where and whether a set may start (R91, R172, R428): the place of a slot on its
tile, and what its context and group let start. -/
namespace Sys2Proof.Machine

/-- The instruction in a slot of a copy; none where the slot holds no instruction, and the words where they decode to
none. -/
def stationInstr (c : Copy) (slot : BitVec 7) : Except (Word × Word) Instr :=
  match c.stations[slot.toNat]? with
  | none => .error (0, 0)
  | some st =>
    match decode st.op st.cfg with
    | .ok i => .ok i
    | .error _ => .error (st.op, st.cfg)

/-- Port 0 of the instruction is a row port (R295, R167): it receives rows and no tokens. -/
def hasRowPort : Instr → Bool
  | .mwld _ _ | .mma _ _ _ | .mrep _ _ | .wad _ _ => true
  | _ => false

/-- The credit port of an instruction (R223, R310): tokens there are counted, not matched. -/
def creditPort : Instr → Option Nat
  | .cchn _ _ _ _ => some 1
  | .mrep _ pace => if pace then some 2 else none
  | _ => none

/-- The ports whose tokens form the matched sets of an instruction (R89). -/
def matchPorts (i : Instr) : List Nat :=
  match head? i, info i with
  | some h, some f => (tokenPorts h f).filter (fun p => !(hasRowPort i && p == 0) && creditPort i != some p)
  | _, _ => []

/-- The class of the instruction in two words; none where they decode to none. -/
def stationClass (st : Station) : Option PeClass :=
  match decode st.op st.cfg with
  | .ok i => (info i).map (fun f => f.cls)
  | .error _ => none

/-- The PE of the j-th instruction of a class (R172). -/
def peOfNth (cls : PeClass) (j : Nat) : Nat :=
  match cls with
  | .compute => j % 12
  | .memory => 12 + j % 2
  | .agen => 14 + j % 2

/-- The PE that holds a slot (R172). -/
def peOf (stations : List Station) (slot : Nat) : Option Nat :=
  match stations[slot]? with
  | none => none
  | some st => (stationClass st).map (fun cls =>
      peOfNth cls ((stations.take slot).countP (fun x => stationClass x == some cls)))

/-- The tile whose stations a copy fires on: the new tile once a migration has switched (R183). -/
def firingTile (c : Copy) : Nat :=
  match c.newTile with
  | some t => if c.switched then t else c.tile
  | none => c.tile

/-- A copy whose stations take tokens and start firings (R174, R183). -/
def copyLive (c : Copy) : Bool := c.phase == .resident || c.phase == .migrating

/-- The place of a slot in the counting order: by tile, then PE, then slot (R415). -/
def startKey (t pe : Nat) (slot : BitVec 7) : Nat := 2048 * t + 128 * pe + slot.toNat + 1

/-- The place of a copy's slot in the counting order. -/
def slotKey (c : Copy) (slot : BitVec 7) : Nat := startKey (firingTile c) ((peOf c.stations slot.toNat).getD 0) slot

/-- A firing's turn in the counting order taken on its plot (R415). -/
def turnTaken (s : State) (p : Nat) (c : BitVec 12) (k : Nat) : State := modCount s c p (fun x => { x with last := k })

/-- A row firing counted, in its turn (R415). -/
def countRow (s : State) (p : Nat) (b : BlockId) (slot : BitVec 7) : State :=
  turnTaken (countSet s p b.ctx false) p b.ctx ((copyOf s p b).elim 0 (fun c => slotKey c slot))

/-- A group whose sets may start: RUNNING, or STOPPED for the handler block's own firings (R428). -/
def groupLets (x : Group) (b : BlockId) : Bool :=
  x.phase == .running || (x.phase == .stopped && b.obj == x.obj && b.bid == x.hbid)

/-- A furrow by its number. -/
def furrowAt (s : State) (f : Nat) : Furrow := s.furrows.getD f Furrow.reset

/-- The furrow of a tile (R14, R465): 0 to 131. -/
def furrowOf (p t : Nat) : Nat := if p < 32 then 4 * p + t / 4 else 96 + p

/-- No firing starts on the tiles of a furrow: it is GUARDED, or still to be cleared (R477). -/
def furrowStops (x : Furrow) : Bool := x.guarded || x.clearing

/-- A block stands on a tile of a furrow whose guard has tripped, where no firing starts (R477). -/
def guardStops (s : State) (p : Nat) (b : BlockId) : Bool :=
  (copyOf s p b).any (fun c => copyLive c && furrowStops (furrowAt s (furrowOf p (firingTile c))))

/-- A set of a group slot of a block may start as far as its context, its group and the guard decide it (R95, R343, R428, R477). -/
def mayStart (s : State) (p : Nat) (b : BlockId) (g : BitVec 3) : Bool :=
  (ctxAt s b.ctx).phase == .running && !guardStops s p b &&
    (match groupAt s p g with
    | some x => x.ctx == b.ctx && groupLets x b
    | none => false)

/-- The copy that fires on a tile, if any (R171, R183). -/
def copyOnTile (s : State) (p t : Nat) : Option Copy :=
  (plotAt s p).blocks.copies.find? (fun c => copyLive c && firingTile c == t)

/-- A tile as a freed one is, with W0 and W1 EMPTY, every accumulator EMPTY and nothing waiting (R294, R317). -/
def Tile.fresh : Tile where
  act := false
  w0 := WeightSlot.mk false 0 [] 0 0 0
  w1 := WeightSlot.mk false 0 [] 0 0 0
  stage0 := []
  stage1 := []
  ports := []
  accs := []
  array := []
  switch := none
  latches := []
  gather := none
  jobs := []
  repeats := []
  fillers := []
  lastRow := none
  fired := []

end Sys2Proof.Machine
end

