-- ==== Sys2Proof/Machine/Tokens.lean ====
section
/-! DEFINITION. Token and control instructions that stay in their block (04_token.md, opcodes 0x001 to 0x006, 0x00A to
0x012), and the tag operations (R96, R97). -/
namespace Sys2Proof.Machine

/-! ### Tags (R96, R97) -/

/-- U of a tag: field bits in use (R96). -/
def tagUse (t : Word) : Nat := t.toNat >>> 58

/-- FIELDS of a tag (R96). -/
def tagFields (t : Word) : Nat := t.toNat % 2 ^ 58

/-- A tag of its two fields. -/
def mkTag (u f : Nat) : Word := BitVec.ofNat 64 (u * 2 ^ 58 + f % 2 ^ 58)

/-- A valid tag (R96). -/
def tagValid (t : Word) : Bool := decide (tagUse t ≤ 58) && decide (tagFields t >>> tagUse t = 0)

/-- `tag_push` (R97). -/
def tagPush (t : Word) (w v : Nat) : Except FaultInfo Word :=
  if 58 < tagUse t + w then .error (causeOnly causeTagOverflow)
  else .ok (mkTag (tagUse t + w) (tagFields t * 2 ^ w + v % 2 ^ w))

/-- `tag_pop` (R97). -/
def tagPop (t : Word) (w : Nat) : Except FaultInfo Word :=
  if tagUse t < w then .error (causeOnly causeTagOverflow)
  else .ok (mkTag (tagUse t - w) (tagFields t / 2 ^ w))

/-- `tag_set` (R97). -/
def tagSet (t : Word) (w v : Nat) : Except FaultInfo Word :=
  if tagUse t < w then .error (causeOnly causeTagOverflow)
  else .ok (BitVec.ofNat 64 (t.toNat - t.toNat % 2 ^ w + v % 2 ^ w))

/-- `tag_inc` (R97). -/
def tagInc (t : Word) (w : Nat) : Except FaultInfo Word :=
  if tagUse t < w || t.toNat % 2 ^ w == 2 ^ w - 1 then .error (causeOnly causeTagOverflow) else .ok (t + 1)

/-! ### Routing (R102 to R104) -/

def movResult (c : FireCtx) : Except FaultInfo (List Send) := .ok (emit c (passed c 0))
def sinkResult (_ : FireCtx) : Except FaultInfo (List Send) := .ok []
def gateResult (c : FireCtx) : Except FaultInfo (List Send) := .ok (emit c (passed c 0))

/-- `const` (R102). -/
def constResult (c : FireCtx) : Except FaultInfo (List Send) :=
  .ok (emit c (mkPacket (tagOfTy c.head.ty) [normSlot (.elem c.head.ty) c.head.cfg]))

/-- `steer` (R103): the targets on the control value's side. -/
def steerResult (tm : BitVec 3) (c : FireCtx) : Except FaultInfo (List Send) := do
  let v ← controlAt c 1 0
  let side := fun (n : Nat) (t : Option Target) =>
    if tm.getLsbD n == v then sendTo t (Token.mk c.env (passed c 0)) else []
  .ok (side 0 c.head.t0 ++ side 1 c.head.t1 ++ side 2 c.head.t2)

/-- The format that `select` reads ports 1 and 2 in and its result's tag: TY's, or with `.lane` their common tag (R29,
R101, R104). -/
def selectFmt (c : FireCtx) : Except FaultInfo (Fmt × BitVec 5) :=
  if c.head.ty = .lane then do
    let f ← formatAt c 1
    require ((packetAt c 1).fmt == (packetAt c 2).fmt) causeFormat
    .ok (f, (packetAt c 1).fmt)
  else .ok (.elem c.head.ty, tagOfTy c.head.ty)

/-- `select` (R104): element by element from port 1 or port 2, the slots kept as they are (R101). -/
def selectResult (c : FireCtx) : Except FaultInfo (List Send) := do
  let (f, tag) ← selectFmt c
  let n ← commonLen [lenAt c 0, lenAt c 1, lenAt c 2]
  let xs ← (List.range n).mapM (fun i => do
    let v ← controlAt c 0 (if lenAt c 0 = 1 then 0 else i)
    let q := if v then 1 else 2
    .ok (if isConst c q then normSlot f c.head.cfg else elemAt c (wideTag tag) q i))
  .ok (emit c (mkPacket tag xs))

/-! ### Tags (R110 to R113) -/

/-- The port 0 token under another tag (R110, R112). -/
def emitTagged (c : FireCtx) (t : Word) : List Send :=
  sendEach c.head (Token.mk { c.env with tag := t } (passed c 0))

def lpentResult (w : BitVec 6) (c : FireCtx) : Except FaultInfo (List Send) :=
  (tagPush c.env.tag w.toNat 0).map (emitTagged c)
def lpnextResult (w : BitVec 6) (c : FireCtx) : Except FaultInfo (List Send) :=
  (tagInc c.env.tag w.toNat).map (emitTagged c)
def lpexitResult (w : BitVec 6) (c : FireCtx) : Except FaultInfo (List Send) :=
  (tagPop c.env.tag w.toNat).map (emitTagged c)

/-- `tagrd` (R111). -/
def tagrdResult (pos w : BitVec 6) (c : FireCtx) : Except FaultInfo (List Send) :=
  .ok (emit c (word64Packet (if w = 0 then c.env.tag
    else BitVec.ofNat 64 (bitsOf (tagFields c.env.tag) pos.toNat w.toNat))))

/-- `tagwr` (R112). -/
def tagwrResult (mode : TagMode) (w : BitVec 6) (c : FireCtx) : Except FaultInfo (List Send) := do
  let t ← match mode with
    | .pop => tagPop c.env.tag w.toNat
    | .repl => do
      let v ← idxAt c 1
      if tagValid (BitVec.ofNat 64 v) then .ok (BitVec.ofNat 64 v) else .error (causeOnly causeTagOverflow)
    | .push => do
      let v ← idxAt c 1
      tagPush c.env.tag w.toNat v
    | .set => do
      let v ← idxAt c 1
      tagSet c.env.tag w.toNat v
  .ok (emitTagged c t)

/-- The threads of the firing's group (R113, R336). -/
def groupThreads (s : State) (p : Nat) (g : BitVec 3) : Nat := ((groupAt s p g).map (fun x => x.threads)).getD 0

/-- `thrd` (R113). -/
def thrdResult (sel : ThrdSel) (c : FireCtx) (s : State) : Except FaultInfo (State × List Send) :=
  let v := match sel with
    | .thread => c.env.thread.toNat
    | .gslot => c.env.gslot.toNat
    | .wave => c.env.wave.toNat
    | .count => groupThreads s c.plot c.env.gslot
  .ok (s, emit c (statusPacket v))

/-! ### Thread order (R114, R115) -/

/-- A turn record is that of a (TAG, GSLOT) at a slot of a block. -/
def isTurn (b : BlockId) (slot : BitVec 7) (e : Envelope) (t : Turn) : Bool :=
  t.block == b && t.slot == slot && t.tag == e.tag && t.gslot == e.gslot

/-- The thread whose turn it is (R114); 0 where nothing has left yet. -/
def turnOf (s : State) (p : Nat) (b : BlockId) (slot : BitVec 7) (e : Envelope) : Nat :=
  (((plotAt s p).turns.find? (isTurn b slot e)).map (fun t => t.next)).getD 0

/-- The complete sets of a slot that a test selects moved behind the others: they have become complete now (R91). -/
def requeue (c : Copy) (f : MatchedSet → Bool) : Copy :=
  { c with ready := c.ready.filter (fun m => !f m) ++ c.ready.filter f }

/-- A set of the same (TAG, GSLOT) at a slot (R114, R115). -/
def sameTurn (slot : BitVec 7) (e : Envelope) (m : MatchedSet) : Bool :=
  m.slot == slot && (envOf m.toks).tag == e.tag && (envOf m.toks).gslot == e.gslot

/-- The turn passed on after a thread has left; freed after the last (R114). The next thread's set becomes complete now
(R91). -/
def passTurn (s : State) (p : Nat) (b : BlockId) (slot : BitVec 7) (e : Envelope) : State :=
  let n := turnOf s p b slot e + 1
  modPlot (modCopy s p b (fun x => requeue x (sameTurn slot e))) p (fun x =>
    let rest := x.turns.filter (fun t => !isTurn b slot e t)
    { x with turns := if groupThreads s p e.gslot ≤ n then rest else Turn.mk b slot e.tag e.gslot n :: rest })

/-- `reord` (R114): the token leaves in its turn. -/
def reordResult (c : FireCtx) (s : State) : Except FaultInfo (State × List Send) :=
  .ok (passTurn s c.plot c.block c.slot c.env, emit c (passed c 0))

/-- The complete sets of a `join` for one (TAG, GSLOT), one for each thread that has sent, in thread order (R115). -/
def joinSets (s : State) (p : Nat) (b : BlockId) (slot : BitVec 7) (e : Envelope) : List MatchedSet :=
  match copyOf s p b with
  | none => []
  | some c => (List.range (groupThreads s p e.gslot)).filterMap (fun n => c.ready.find? (fun m =>
      m.slot == slot && (envOf m.toks).tag == e.tag && (envOf m.toks).gslot == e.gslot &&
        (envOf m.toks).thread.toNat == n))

/-- A set of a `join` with what the tokens of every thread carry for the barriers they reach (R357). -/
def addEdges (sets : List MatchedSet) (m : MatchedSet) : MatchedSet :=
  match m.toks with
  | (q, t) :: l => { m with toks := (q, { t with env := { t.env with edges := (sets.flatMap (fun x => (envOf x.toks).edges)).eraseDups } }) :: l }
  | [] => m

/-- What a `join` sends for the sets it collected: thread 0's token, or every token in thread order; a set whose
predicate does not select firing sends nothing (R64, R115). -/
def joinSends (all : Bool) (cs : List FireCtx) : List Send :=
  let live := cs.filter (fun c => predicateOf c == some true)
  let out := fun (c : FireCtx) => emit c (passed c 0)
  if all then live.flatMap out
  else (live.filter (fun c => c.env.thread == 0)).flatMap out

/-- `join` (R115): one firing that consumes every collected set and counts each. A reserved predicate tag faults before
any token is sent. The model's choice (assumption 21): the fault takes the set that carries the tag and no other; the sets of
the other threads stay collected at the station. -/
def joinFire (h : Head) (all : Bool) (s : State) : Result :=
  match s.cur with
  | .firing p b m =>
    let sets := joinSets s p b m.slot (envOf m.toks)
    let cs := sets.map (fun x => fireCtxOf s p b (addEdges sets x) h)
    match (sets.zip cs).find? (fun x => (predicateOf x.2).isNone) with
    | some (x, c) => .next (faultSet s c x (causeOnly causeFormat))
    | none => .next (sendAll (sets.foldl (fun s x => consume s p b x) { s with cur := .idle }) p b (joinSends all cs))
  | _ => .next s

/-! ### argwr (R116) -/

/-- The override table with one entry rewritten. -/
def setOverride (o : Override) (l : List Override) : List Override :=
  o :: l.filter (fun x => !(x.plot == o.plot && x.block == o.block && x.slot == o.slot))

/-- `argwr` (R116): the override and the configuration word of the resident copy take the 64 bits of element 0. -/
def argwrResult (c : FireCtx) (s : State) : Except FaultInfo (State × List Send) :=
  let slot := c.head.cfg.extractLsb' 0 7
  let v := packetSlot true c.fresh (packetAt c 0) 0
  let s := { s with overrides := setOverride (Override.mk c.plot c.block slot v) s.overrides }
  let s := modCopy s c.plot c.block (fun x =>
    { x with stations := x.stations.modify slot.toNat (fun st => { st with cfg := v }) })
  .ok (s, sendTo c.head.t0 (Token.mk c.env (passed c 0)))

/-! ### The instructions -/

def execMov (h : Head) (s : State) : Result := fire h movResult s
def execSink (h : Head) (s : State) : Result := fire h sinkResult s
def execSteer (h : Head) (tm : BitVec 3) (s : State) : Result := fire h (steerResult tm) s
def execSelect (h : Head) (s : State) : Result := fire h selectResult s
def execGate (h : Head) (s : State) : Result := fire h gateResult s
def execConst (h : Head) (s : State) : Result := fire h constResult s
def execLpent (h : Head) (w : BitVec 6) (s : State) : Result := fire h (lpentResult w) s
def execLpnext (h : Head) (w : BitVec 6) (s : State) : Result := fire h (lpnextResult w) s
def execLpexit (h : Head) (w : BitVec 6) (s : State) : Result := fire h (lpexitResult w) s
def execTagrd (h : Head) (pos w : BitVec 6) (s : State) : Result := fire h (tagrdResult pos w) s
def execTagwr (h : Head) (mode : TagMode) (w : BitVec 6) (s : State) : Result := fire h (tagwrResult mode w) s
def execThrd (h : Head) (sel : ThrdSel) (s : State) : Result := fireState h (thrdResult sel) s

/-- `reord` (R114). A set whose predicate does not select firing leaves in its turn too, sending nothing. -/
def execReord (h : Head) (s : State) : Result :=
  fireWith h (fun c s => passTurn s c.plot c.block c.slot c.env) reordResult s

def execJoin (h : Head) (all : Bool) (s : State) : Result := joinFire h all s
def execArgwr (h : Head) (s : State) : Result := fireState h argwrResult s

end Sys2Proof.Machine
end

