-- ==== Sys2Proof/Machine/Stations.lean ====
section
/-! DEFINITION. What stations hold besides their tokens: the matrix engine and accumulator store of a tile, the records of
counter chains (R220 to R224), credits (R223, R310), and the room of row ports (R295). -/
namespace Sys2Proof.Machine

/-! ### Tiles -/

/-- Tiles of a plot, or of a headland (R13, R16). -/
def tileCount (p : Nat) : Nat := if p < 32 then 16 else 4

/-- The matrix engine and accumulator store of a tile. -/
def tileAt (s : State) (p t : Nat) : Tile := lookupD Tile.fresh t (plotAt s p).tiles

/-- The state with a tile changed; a tile as a freed one is stands in no list. -/
def modTile (s : State) (p t : Nat) (f : Tile → Tile) : State :=
  modPlot s p (fun x =>
    let y := f (lookupD Tile.fresh t x.tiles)
    { x with tiles := if y = Tile.fresh then x.tiles.filter (fun z => z.1 != t) else assocSet t y x.tiles })

/-! ### Chain records (R220 to R224) -/

/-- The record of a station that has run no chain. -/
def Chain.blank (b : BlockId) (slot : BitVec 7) : Chain where
  block := b
  slot := slot
  state := .idle
  env := noEnv
  base := 0
  levels := []
  p := 0
  points := 0
  origin := 0
  sent := none
  moves := false
  credit := 0
  owner := none

/-- The chain record of a station. -/
def chainAt (s : State) (p : Nat) (b : BlockId) (slot : BitVec 7) : Chain :=
  ((plotAt s p).chains.find? (fun c => c.block == b && c.slot == slot)).getD (Chain.blank b slot)

/-- The state with a chain record written. -/
def setChain (s : State) (p : Nat) (x : Chain) : State :=
  modPlot s p (fun y => { y with chains := x :: y.chains.filter (fun c => !(c.block == x.block && c.slot == x.slot)) })

/-- What the instruction of a chain's station gives: whether it is a `cchn`, IDX, W and its head. -/
structure ChainForm where
  paced : Bool
  idx : Bool
  w : Nat
  head : Head
  deriving DecidableEq, Repr

/-- The form of a chain's station, where its block is on the plot. -/
def chainForm (s : State) (p : Nat) (x : Chain) : Option ChainForm :=
  match copyOf s p x.block with
  | none => none
  | some c =>
    match stationInstr c x.slot with
    | .ok (.cnt h idx _ w) => some (ChainForm.mk false idx w.toNat h)
    | .ok (.cchn h idx _ w) => some (ChainForm.mk true idx w.toNat h)
    | _ => none

/-- A chain that has stopped running: start tokens of its station may fire now (R222). -/
def chainFreed (s : State) (p : Nat) (x : Chain) : State :=
  modCopy s p x.block (fun c => requeue c (fun m => m.slot == x.slot))

/-- The next point offered to the network where the chain may send one (R221, R223). -/
def offerPoint (paced : Bool) (x : Chain) : Chain :=
  if x.state = .running ∧ x.sent.isNone = true ∧ x.p < x.points ∧ (paced = false ∨ 0 < x.credit) then
    { x with sent := some x.p, moves := true, credit := if paced then x.credit - 1 else x.credit }
  else x

/-- The finish token of a chain (R221). -/
def sendFinish (s : State) (p : Nat) (x : Chain) (h : Head) : State :=
  sendAll s p x.block (sendTo h.t1 (Token.mk x.env (word64Packet (BitVec.ofNat 64 x.points))))

/-! ### Credits (R223, R310) -/

/-- The earliest token waiting at a credit port that its owner counts. -/
def creditWaiting (c : Copy) (slot : BitVec 7) (port : Nat) (ok : Envelope → Bool) : Option Waiting :=
  c.waiting.find? (fun w => w.slot == slot && w.port.toNat == port && ok w.tok.env)

/-- The state without a waiting token. -/
def dropWaiting (s : State) (p : Nat) (b : BlockId) (w : Waiting) : State :=
  modCopy s p b (fun c => { c with waiting := c.waiting.erase w })

/-- The owner of a chain counts a credit of this envelope (R223). -/
def chainCounts (x : Chain) (e : Envelope) : Bool :=
  x.owner.any (fun o => e.thread == o.thread && e.gslot == o.gslot) && decide (x.credit < 65535)

/-- The credits waiting at a station that its chain's new owner counts now, in the order of arrival (R223): what waits on,
and the credits counted. -/
def takeCredits (slot : BitVec 7) (x : Chain) (ws : List Waiting) : List Waiting × Chain :=
  ws.foldl (fun (a : List Waiting × Chain) w =>
    if w.slot == slot && w.port == 1 && chainCounts a.2 w.tok.env then (a.1, { a.2 with credit := a.2.credit + 1 })
    else (a.1 ++ [w], a.2)) ([], x)

/-- The `mrep` station of a tile. -/
def repeatAt (t : Tile) (slot : BitVec 7) : Repeat := (t.repeats.find? (fun r => r.slot == slot)).getD (Repeat.mk slot [] none 0)

/-- A tile with an `mrep` station written. -/
def setRepeat (t : Tile) (r : Repeat) : Tile := { t with repeats := r :: t.repeats.filter (fun x => x.slot != r.slot) }

/-- A credit token that its station can count at once (R223, R310): the state with it counted. -/
def countAtOnce (s : State) (p : Nat) (c : Copy) (slot : BitVec 7) (i : Instr) (e : Envelope) : Option State :=
  match i with
  | .cchn _ _ _ _ =>
    let x := chainAt s p c.id slot
    if chainCounts x e then some (setChain s p (offerPoint true { x with credit := x.credit + 1 })) else none
  | .mrep _ true =>
    let r := repeatAt (tileAt s p (firingTile c)) slot
    if r.credit < 65535 then some (modTile s p (firingTile c) (fun t => setRepeat t { r with credit := r.credit + 1 })) else none
  | _ => none

/-! ### The row path (R295) -/

/-- The tile that a block's stations fire on. -/
def tileOf (s : State) (p : Nat) (b : BlockId) : Nat := ((copyOf s p b).map firingTile).getD 0

/-- The matrix engine of a block's tile. -/
def engineOf (s : State) (p : Nat) (b : BlockId) : Tile := tileAt s p (tileOf s p b)

/-- The rows held at a row port, oldest first (R295). -/
def portRows (t : Tile) (slot : BitVec 7) : List Row :=
  ((t.ports.find? (fun q => q.slot == slot)).map (fun q => q.rows)).getD []

/-- The instruction at a slot of a block on a plot. -/
def instrAt (s : State) (p : Nat) (b : BlockId) (slot : BitVec 7) : Option Instr :=
  match copyOf s p b with
  | none => none
  | some c =>
    match stationInstr c slot with
    | .ok i => some i
    | .error _ => none

/-- A row port has room for a row beside those on their way to it. -/
def portOpen (s : State) (p : Nat) (b : BlockId) (x : Target) : Bool :=
  decide ((portRows (engineOf s p b) x.slot).length +
    s.rows.countP (fun f => f.dest.plot == p && f.dest.block == b && f.dest.slot == x.slot) < 16)

/-- A producer of rows may send: every row port it feeds has room. -/
def rowPathOpen (s : State) (p : Nat) (b : BlockId) (h : Head) (t2 : Bool) : Bool :=
  let ok := fun (x : Option Target) => match x with
    | some x => portOpen s p b x
    | none => true
  ok h.t0 && ok h.t1 && (!t2 || ok h.t2)

end Sys2Proof.Machine
end

