-- ==== Sys2Proof/Machine/Meter.lean ====
section
/-! DEFINITION. The meters of the edge ports of a tile (R471). -/
namespace Sys2Proof.Machine

/-- A threshold that is in use and tripped (R475). -/
def trippedNow (t : Threshold) : Bool := t.en && t.tripped

/-- The thermal state of a die. -/
def thermalAt (s : State) (d : Nat) : Thermal := s.thermal.getD d (Thermal.mk 0 [] 0)

/-- The thermal step of a die (R475). -/
def thermalStep (s : State) (d : Nat) : Nat :=
  ((thermalAt s d).thresholds.filter trippedNow).foldl (fun m t => max m t.mstep.toNat) 0

/-- MSTEP of a furrow (R471). The thermal step in it is the one that the last interval boundary imposed: the package power controller
handles thermal limits there (R467; assumption 33). -/
def mstepOf (s : State) (f : Nat) : Nat :=
  let x := furrowAt s f
  let own := max x.bstep x.pstep
  if f < 128 then max own (max s.power.cstep (thermalAt s (f / 32)).imposed) else own

/-- An edge port of a tile. -/
def edgeAt (s : State) (p t k : Nat) : EdgePort :=
  ((plotAt s p).edges.find? (fun e => e.tile == t && e.port == k)).getD (EdgePort.mk t k [] [])

/-- The state with an edge port of a tile written. -/
def setEdge (s : State) (p : Nat) (e : EdgePort) : State :=
  modPlot s p (fun x => { x with edges := e :: x.edges.filter (fun y => !(y.tile == e.tile && y.port == e.port)) })

/-- The plot cycles among the last eight, this one included, in which an edge port has admitted a token. -/
def recentUse (s : State) (e : EdgePort) : List Nat := e.used.filter (fun c => decide (s.cycles < c + 8))

/-- The meter of an edge port admits a token (R471): at step m, in at most 8 - m of every 8 plot cycles. The step is that of the
furrow at the last tick of the plot clock: a change applies from the next plot cycle. -/
def meterOpen (s : State) (p t k : Nat) : Bool :=
  let m := (furrowAt s (furrowOf p t)).meter
  let r := recentUse s (edgeAt s p t k)
  m == 0 || r.contains s.cycles || decide (r.length + m < 8)

/-- A token admitted: while a meter acts, its plot cycle counts. -/
def passEdge (s : State) (p t k : Nat) : State :=
  if (furrowAt s (furrowOf p t)).meter = 0 then s
  else
    let e := edgeAt s p t k
    let r := recentUse s e
    setEdge s p { e with used := if r.contains s.cycles then r else s.cycles :: r }

/-- The return of access `id` at port 2 of a tile, or buffered entry token `id` at port 0, is refused, and counts event 0x1A once
(R471). -/
def refuseAt (s : State) (p t k : Nat) (ctx : BitVec 12) (id : Nat) : State :=
  let e := edgeAt s p t k
  if e.refused.contains id then s else countEvent (setEdge s p { e with refused := id :: e.refused }) p 0x1A (some ctx) 1

/-- A return or a buffered entry token is admitted at its edge port. -/
def admitAt (s : State) (p t k id : Nat) : State :=
  let s := passEdge s p t k
  let e := edgeAt s p t k
  if e.refused.contains id then setEdge s p { e with refused := e.refused.erase id } else s

end Sys2Proof.Machine
end

