-- ==== Sys2Proof/Machine/Translate.lean ====
section
/-! DEFINITION. Translation (20_page.md): table entries and their checks (R444 to R450), the walker of a plot with its
caches (R455, R456), its three steps, and the translation that the engines ask for in one step (assumption 16). -/
namespace Sys2Proof.Machine

/-! ### Table entries (R444 to R446) -/

def pteV (e : Word) : Bool := e.getLsbD 0
def pteL (e : Word) : Bool := e.getLsbD 1
def pteW (e : Word) : Bool := e.getLsbD 2
def pteX (e : Word) : Bool := e.getLsbD 3
def pteU (e : Word) : Bool := e.getLsbD 4
def pteMk (e : Word) : Nat := (e.extractLsb' 5 2).toNat
def pteSa (e : Word) : Bool := e.getLsbD 7
def pteG (e : Word) : Bool := e.getLsbD 8
def pteA (e : Word) : Bool := e.getLsbD 9
def pteD (e : Word) : Bool := e.getLsbD 10
def pteC (e : Word) : Bool := e.getLsbD 11
def pteP (e : Word) : Bool := e.getLsbD 63

/-- PA[51:12] of an entry, as an address. -/
def ptePa (e : Word) : Nat := (e.extractLsb' 12 40).toNat * 4096

/-- log2 of what a leaf of a level maps (R443). -/
def levelShift (l : Nat) : Nat := 57 - 9 * l

/-- The frame of a leaf: its PA aligned down to its size (R446). -/
def frameOf (e : Word) (shift : Nat) : Nat := ptePa e / 2 ^ shift * 2 ^ shift

/-- A reserved bit is set (R445, R446). -/
def pteReserved (l : Nat) (e : Word) : Bool :=
  if pteL e then
    decide (l ≤ 2) || e.extractLsb' 52 11 != 0 ||
      (decide (l ≤ 4) && (pteC e || decide (ptePa e % 2 ^ levelShift l ≠ 0)))
  else l == 5 || e.extractLsb' 52 12 != 0 || e.extractLsb' 2 10 != 0

/-- A leaf's kind is admitted by where its frame lies (R447). -/
def kindAdmitted (l : Nat) (e : Word) : Bool :=
  let a := frameOf e (levelShift l)
  let n := 2 ^ levelShift l
  let mk := pteMk e
  let ok := match rangeOf a with
    | .hbm => wholly .hbm a n
    | .window => wholly .window a n && mk == 2
    | .host => wholly .host a n && mk != 3
    | .peer => wholly .peer a n && mk != 3
    | .unmapped => false
  ok && !(mk == 3 && (pteW e || pteSa e))

/-- Checks 1 to 4 of R449. -/
def entryCause (l : Nat) (e : Word) : Option (BitVec 8) :=
  if !pteV e then some causeTrInvalid
  else if pteReserved l e then some causeTrRsvd
  else if !pteL e then (if wholly .hbm (ptePa e) 4096 then none else some causeTrAttr)
  else if kindAdmitted l e then none else some causeTrAttr

/-- Check 5 of R449: the bits an access needs (R450). In the headland context U is not checked, but for the queue engine,
which accesses with the permissions of a user (R362). -/
def permits (c : BitVec 12) (need : Need) (e : Word) : Bool :=
  match need with
  | .load => c == headland || pteU e
  | .store => (c == headland || pteU e) && pteW e
  | .fetch => (c == headland || pteU e) && pteX e
  | .userLoad => pteU e
  | .userStore => pteU e && pteW e
  | .area => pteX e

/-- The level-1 table of a context for the walker of a plot, where its PTROOT is sound (R412, R442). -/
def rootTable (s : State) (p : Nat) (c : BitVec 12) : Option Nat :=
  let r := (regsOn s c p).ptroot
  if r.extractLsb' 52 12 = 0 ∧ r.extractLsb' 0 12 = 0 ∧ wholly .hbm (ptePa r) 4096 = true then some (ptePa r) else none

/-- The address of the entry that a level reads (R443). -/
def entryAddr (l table : Nat) (va : Word) : Nat := table + va.toNat / 2 ^ levelShift l % 512 * 8

/-! ### Leaves -/

/-- A leaf covers an address for a context (R456). -/
def leafCovers (c : BitVec 12) (va : Word) (x : Leaf) : Bool :=
  (x.ctx == c || pteG x.pte) && va.toNat / 2 ^ x.shift == x.vpn * 4096 / 2 ^ x.shift

/-- The physical address of a virtual one through a leaf (R446). -/
def leafPa (x : Leaf) (va : Word) : Nat := frameOf x.pte x.shift + va.toNat % 2 ^ x.shift

/-- The level of a leaf by its size; a merged entry is level 5 (R443). -/
def leafLevel (x : Leaf) : Nat := if x.shift = 30 then 3 else if x.shift = 21 then 4 else 5

/-- Which D bit of a leaf an address has (R453). -/
def dirtyIndex (x : Leaf) (va : Word) : Nat := if x.shift = 16 then va.toNat / 4096 % 16 else 0

/-- A leaf that an access may use as it stands: its D bit is set where it stores (R452). -/
def leafReady (need : Need) (va : Word) (x : Leaf) : Bool := !need.stores || x.dirty.getLsbD (dirtyIndex x va)

/-- A leaf of one table entry. -/
def mkLeaf (c : BitVec 12) (va : Word) (l : Nat) (addr : Nat) (e : Word) : Leaf :=
  let sh := levelShift l
  Leaf.mk c (va.toNat / 2 ^ sh * 2 ^ sh / 4096) sh e addr (if pteD e then 1 else 0)

/-- The table entry of the page of an address in a leaf, with the value it then has: of a merged leaf, entry 0 moved on
and A set (R453). -/
def leafEntry (x : Leaf) (va : Word) : Nat × Word :=
  let i := dirtyIndex x va
  if x.shift = 16 then
    let e := (x.pte + BitVec.ofNat 64 (4096 * i)) ||| 0x200
    (x.addr + 8 * i, if x.dirty.getLsbD i then e ||| 0x400 else e &&& ~~~0x400)
  else (x.addr, x.pte)

/-- A leaf names a sequential page (R244, R447), wherever its frame lies. -/
def pteSequential (e : Word) : Bool := pteMk e == 1

/-- A page's kind as an access of a plot meets it (R447); a headland takes every page but a replicated one as
home-executed (R16). -/
def pageKind (p : Nat) (e : Word) (pa : Nat) : PageKind :=
  match rangeOf pa with
  | .window => .window
  | .host => .host
  | .peer => .peer
  | _ =>
    if pteMk e = 3 then .replicated
    else if pteMk e = 2 ∨ 32 ≤ p then .home
    else if pteMk e = 1 then .sequential
    else .coherent

/-! ### Peers (R20, R481) -/

/-- PA[50:41] and PA[40:0] of a peer address. -/
def peerId (pa : Nat) : Nat := pa / 2 ^ 41 % 1024
def peerOffset (pa : Nat) : Nat := pa % 2 ^ 41

/-- A peer's route entry: cached, or read from the table (R481). -/
def routeEntry (s : State) (peer : Nat) : Word :=
  match s.dev.routes.find? (fun x => x.1 == peer) with
  | some x => x.2
  | none => readWord s ((s.dev.prtbase.extractLsb' 13 39).toNat * 8192 + 8 * peer)

/-- The state with a peer's route entry cached (R481). -/
def cacheRoute (s : State) (peer : Nat) : State :=
  if s.dev.routes.any (fun x => x.1 == peer) then s
  else { s with dev := { s.dev with routes := (peer, routeEntry s peer) :: s.dev.routes } }

/-- A peer of the scale-up domain (R481). -/
def peerInDomain (s : State) (peer : Nat) : Bool :=
  let e := routeEntry s peer
  e.getLsbD 12 && e.extractLsb' 14 50 == 0

/-- A peer address that R20 refuses. -/
def peerInvalid (s : State) (pa : Nat) : Bool :=
  rangeOf pa == .peer &&
    (peerId pa == s.dev.peerid.toNat || !peerInDomain s (peerId pa) ||
      !(rangeOf (peerOffset pa) == .hbm || rangeOf (peerOffset pa) == .window))

/-! ### The caches (R456) -/

/-- The state with the walker of a plot changed. -/
def modWalker (s : State) (p : Nat) (f : Walker → Walker) : State := modPlot s p (fun x => { x with walker := f x.walker })

/-- A list with an item made most recently used. -/
def mostRecent {α : Type} [DecidableEq α] (x : α) (l : List α) : List α := l.erase x ++ [x]

/-- The leaf that the leaf cache finds for an address. -/
def leafLookup (s : State) (p : Nat) (c : BitVec 12) (va : Word) : Option Leaf :=
  (plotAt s p).walker.leafCache.find? (leafCovers c va)

/-- A leaf installed in the place of the one of its pages, which for G = 1 is that of every context, the least recently used without P replaced at 1,024 (R456). -/
def installLeaf (s : State) (p : Nat) (x : Leaf) : State :=
  modWalker s p (fun w =>
    let rest := w.leafCache.filter (fun y => !((y.ctx == x.ctx || (pteG y.pte && pteG x.pte)) && y.vpn == x.vpn && y.shift == x.shift))
    let rest := if rest.length < 1024 then rest
      else match rest.find? (fun y => !pteP y.pte) with
        | some y => rest.erase y
        | none => rest.drop 1
    { w with leafCache := rest ++ [x] })

/-- A non-leaf entry installed, the least recently used replaced at 64 (R456). -/
def installWalk (s : State) (p : Nat) (x : WalkEntry) : State :=
  modWalker s p (fun w =>
    let rest := w.walkCache.filter (fun y => !(y.ctx == x.ctx && y.level == x.level && y.pre == x.pre))
    { w with walkCache := (if rest.length < 64 then rest else rest.drop 1) ++ [x] })

/-- The deepest walk-cache entry for an address (R456). -/
def walkLookup (s : State) (p : Nat) (c : BitVec 12) (va : Word) : Option WalkEntry :=
  [4, 3, 2, 1].findSome? (fun l => (plotAt s p).walker.walkCache.find?
    (fun x => x.ctx == c && x.level == l && x.pre == va.toNat / 2 ^ levelShift l))

/-- Where a walk begins: below the deepest cached prefix, or at level 1 (R456); none where PTROOT faults it (R442). -/
def walkStart (s : State) (p : Nat) (c : BitVec 12) (va : Word) : Option (Nat × Nat) :=
  match rootTable s p c with
  | none => none
  | some t =>
    match walkLookup s p c va with
    | some x => some (x.level + 1, x.table)
    | none => some (1, t)

/-- The cached prefix below which a walk begins, made most recently used (R456). -/
def useWalk (s : State) (p : Nat) (c : BitVec 12) (va : Word) : State :=
  match walkLookup s p c va with
  | some x => modWalker s p (fun w => { w with walkCache := mostRecent x w.walkCache })
  | none => s

/-! ### A walk in steps (R443, R449, R452, R453) -/

/-- The answer to a request put on its way to its station. -/
def answer (s : State) (p : Nat) (q : WalkReq) (r : WalkResult) : State :=
  modWalker s p (fun w => { w with returned := w.returned ++ [Returned.mk q.who q.ctx q.va r] })

/-- A fault's answer to every request of a walk (R449): the faulting address is each one's own. -/
def failWalk (s : State) (p : Nat) (reqs : List WalkReq) (c : BitVec 8) (l : Nat) : State :=
  reqs.foldl (fun s q => answer s p q (.fault (faultAt c l q.va))) s

/-- The state with a walk of a plot replaced, or ended. -/
def setWalk (s : State) (p n : Nat) (w : Option Walk) : State :=
  modWalker s p (fun x => { x with walks := match w with
    | some w => x.walks.set n w
    | none => x.walks.eraseIdx n })

/-- A new walk for a request, with its miss counted (R456). -/
def beginWalk (s : State) (p : Nat) (q : WalkReq) : State :=
  let n := if (walkLookup s p q.ctx q.va).any (fun x => x.level == 4) then 0 else 1
  match walkStart s p q.ctx q.va with
  | none => failWalk (countEvent s p 0x12 (some q.ctx) n) p [q] causeTrAttr 1
  | some (l, t) =>
    let s := useWalk (countEvent s p 0x12 (some q.ctx) n) p q.ctx q.va
    modWalker s p (fun x => { x with walks := x.walks ++ [Walk.mk q.ctx q.va (.level l t) [q] []] })

/-- A walk that a request joins: it resolves the request's page (R455). -/
def walkFor (s : State) (p : Nat) (q : WalkReq) : Option Nat :=
  (plotAt s p).walker.walks.findIdx? (fun w => w.ctx == q.ctx && w.va.toNat / 4096 == q.va.toNat / 4096)

/-- A request that joins walk `n`. -/
def joinWalk (s : State) (p n : Nat) (q : WalkReq) : State :=
  modWalker s p (fun x => { x with walks := x.walks.modify n (fun w => { w with reqs := w.reqs ++ [q] }) })

/-- The leaf cache's answer to a request, if it has one: the leaf, ready for what the request does, or the refusal of its bits. -/
def cacheAnswer (s : State) (p : Nat) (q : WalkReq) : Option State :=
  match if q.fresh then none else leafLookup s p q.ctx q.va with
  | some x =>
    if !permits q.ctx q.need x.pte then some (answer s p q (.fault (faultAt causeTrPerm (leafLevel x) q.va)))
    else if leafReady q.need q.va x then
      some (answer (modWalker s p (fun w => { w with leafCache := mostRecent x w.leafCache })) p q (.leaf x))
    else none
  | none => none

/-- A request put in the walker's queue (R455): by arrival, with same-cycle arrivals by the rank of their requesters. -/
def walkInsert (q : WalkReq) : List WalkReq → List WalkReq
  | [] => [q]
  | x :: l => if x.cycle = q.cycle ∧ q.rank < x.rank then q :: x :: l else x :: walkInsert q l

/-- A request at the walker (R455): answered from the leaf cache, or it joins a walk in flight for its page, or it queues, for the 64
places and for the walks that are free when the plot cycle ends. The second result is false where there is no place. -/
def askWalker (s : State) (p : Nat) (q : WalkReq) : State × Bool :=
  match cacheAnswer s p q with
  | some s => (s, true)
  | none =>
    let s := if (leafLookup s p q.ctx q.va).isNone then countEvent s p 0x13 (some q.ctx) 1 else s
    match walkFor s p q with
    | some n => (joinWalk s p n q, true)
    | none =>
      let w := (plotAt s p).walker
      if w.queue.length < 64 + (8 - w.walks.length) then (modWalker s p (fun x => { x with queue := walkInsert q x.queue }), true)
      else (s, false)

/-- A queued request takes a walk, unless the leaf cache or a walk in flight serves it by now. Before the first store through a leaf
whose D is 0, the walk sets D (R452). -/
def startWalk (s : State) (p : Nat) (q : WalkReq) : State :=
  match cacheAnswer s p q, walkFor s p q with
  | some s, _ => s
  | none, some n => joinWalk s p n q
  | none, none =>
    match if q.fresh then none else leafLookup s p q.ctx q.va with
    | some x =>
      let (a, e) := leafEntry x q.va
      modWalker s p (fun w => { w with walks := w.walks ++ [Walk.mk q.ctx q.va (.update (leafLevel x) a e) [q] []] })
    | none => beginWalk s p q

/-- A queued request may take a walk: it came in an earlier plot cycle, with all that ranks before it, and its context is not being
stopped (R455, R462). -/
def mayWalk (s : State) (q : WalkReq) : Bool :=
  decide (q.cycle < s.cycles) && (q.who == .queue || (ctxAt s q.ctx).phase == .running)

/-- The queued requests take the free walks in their order (R455); `fuel` bounds them. -/
def nextWalks : Nat → State → Nat → State
  | 0, s, _ => s
  | fuel + 1, s, p =>
    if (plotAt s p).walker.walks.length < 8 then
      match (plotAt s p).walker.queue.find? (mayWalk s) with
      | some q => nextWalks fuel (startWalk (modWalker s p (fun w => { w with queue := w.queue.erase q })) p q) p
      | none => s
    else s

/-- The queued requests of a plot take its free walks. -/
def nextWalk (s : State) (p : Nat) : State := nextWalks (plotAt s p).walker.queue.length s p

/-- The refusal of a leaf to a request (R449, R450): its bits, or a peer address that R20 refuses. -/
def leafRefuses (s : State) (q : WalkReq) (x : Leaf) : Option (BitVec 8) :=
  if !permits q.ctx q.need x.pte then some causeTrPerm
  else if peerInvalid s (leafPa x q.va) then some causeTrPeer
  else none

/-- A walk ends with its leaf (R456): installed with the entries it has passed, and sent to each request that it serves. -/
def finishWalk (s : State) (p n : Nat) (w : Walk) (x : Leaf) : State :=
  let s := installLeaf (w.passed.foldl (fun s e => installWalk s p e) (setWalk s p n none)) p x
  nextWalk (w.reqs.foldl (fun s q => answer s p q (match leafRefuses s q x with
    | some c => .fault (faultAt c (leafLevel x) q.va)
    | none => .leaf x)) s) p

/-- A walk whose leaf is known and whose A and D stand as they must: the contiguous group next, or the end (R453). -/
def leafKnown (s : State) (p n : Nat) (w : Walk) (l addr : Nat) (e : Word) : State :=
  if l = 5 ∧ pteC e = true then setWalk s p n (some { w with phase := .group addr e })
  else finishWalk s p n w (mkLeaf w.ctx w.va l addr e)

/-- A and D must be set for the requests of a walk (R452). -/
def needsUpdate (reqs : List WalkReq) (e : Word) : Bool := !pteA e || (!pteD e && reqs.any (fun q => q.need.stores))

/-- A leaf read by a walk: the requests that it refuses fault, before A or D is set for them, and a walk that only faults installs
nothing (R20, R449). -/
def leafRead (s : State) (p n : Nat) (w : Walk) (l addr : Nat) (e : Word) : State :=
  let x := mkLeaf w.ctx w.va l addr e
  let good := w.reqs.filter (fun q => (leafRefuses s q x).isNone)
  let s := w.reqs.foldl (fun t q => match leafRefuses s q x with
    | some c => failWalk t p [q] c l
    | none => t) s
  if good.isEmpty then nextWalk (setWalk s p n none) p
  else if needsUpdate good e then setWalk s p n (some { w with phase := .update l addr e, reqs := good })
  else leafKnown s p n { w with reqs := good } l addr e

/-- One level read (R443, R449). -/
def levelRead (s : State) (p n : Nat) (w : Walk) (l table : Nat) : State :=
  let addr := entryAddr l table w.va
  let e := readWord s addr
  match entryCause l e with
  | some c => nextWalk (failWalk (setWalk s p n none) p w.reqs c l) p
  | none =>
    if pteL e then leafRead s p n w l addr e
    else
      setWalk s p n (some { w with
        phase := .level (l + 1) (ptePa e)
        passed := w.passed ++ [WalkEntry.mk w.ctx l (w.va.toNat / 2 ^ levelShift l) (ptePa e)] })

/-- A walk starts again from level 1 (R452, R460). -/
def restartWalk (s : State) (p n : Nat) (w : Walk) : State :=
  match rootTable s p w.ctx with
  | some t => setWalk s p n (some { w with phase := .level 1 t, passed := [] })
  | none => nextWalk (failWalk (setWalk s p n none) p w.reqs causeTrAttr 1) p

/-- The entry with A set, and D where a request stores. -/
def updatedEntry (reqs : List WalkReq) (e : Word) : Word :=
  e ||| 0x200 ||| (if reqs.any (fun q => q.need.stores) then 0x400 else 0)

/-- The compare-and-exchange that sets A and D (R452), for the requests that the leaf does not refuse: one that has joined since the
leaf was read is tested now (R449). -/
def adUpdate (s : State) (p n : Nat) (w : Walk) (l addr : Nat) (e : Word) : State :=
  if readWord s addr = e then
    if (w.reqs.filter (fun q => (leafRefuses s q (mkLeaf w.ctx w.va l addr e)).isNone)).isEmpty then leafRead s p n w l addr e
    else
      let good := w.reqs.filter (fun q => (leafRefuses s q (mkLeaf w.ctx w.va l addr e)).isNone)
      let e' := updatedEntry good e
      leafKnown (writeWord s addr e') p n w l addr e'
  else restartWalk s p n w

/-- The sixteen entries of a group (R453). -/
def groupEntries (s : State) (base : Nat) : List Word := (List.range 16).map (fun i => readWord s (base + 8 * i))

/-- Bits 63, 62 to 52 and 11 to 2 of an entry, A and D excepted (R453). -/
def groupBits (e : Word) : Word := e &&& 0xFFF0_0000_0000_09FC

/-- The group maps 64 KiB as one (R453). -/
def groupMerges (es : List Word) : Bool :=
  let e0 := es.getD 0 0
  es.all (fun e => pteV e && pteL e && pteC e && groupBits e == groupBits e0) &&
    (List.range 16).all (fun i => ptePa (es.getD i 0) == ptePa e0 + 4096 * i) && ptePa e0 % 0x1_0000 == 0

/-- The D bits of a group. -/
def groupDirty (es : List Word) : BitVec 16 :=
  es.reverse.foldl (fun d e => (d <<< 1) ||| (if pteD e then 1 else 0)) 0

/-- The leaf of a level-5 entry with C = 1 (R453): one of 64 KiB with A set in all sixteen, or one of 4 KiB. -/
def groupLeaf (s : State) (p : Nat) (c : BitVec 12) (va : Word) (addr : Nat) (e : Word) : State × Leaf :=
  let base := addr / 128 * 128
  let es := groupEntries s base
  if groupMerges es then
    let s := (List.range 16).foldl (fun s i =>
      let x := es.getD i 0
      if pteA x then s else writeWord s (base + 8 * i) (x ||| 0x200)) s
    (s, Leaf.mk c (va.toNat / 0x1_0000 * 16) 16 (es.getD 0 0 ||| 0x200) base (groupDirty es))
  else (countEvent s p 0x14 (some c) 1, mkLeaf c va 5 addr e)

/-- The step of walk `n` of plot `p` (R443): its table level is read. -/
def execWalkLevelRead (s : State) : Result :=
  match s.cur with
  | .at p n _ _ =>
    let s := { s with cur := .idle }
    match (plotAt s p).walker.walks[n]? with
    | some w => (match w.phase with
      | .level l t => .next (levelRead s p n w l t)
      | _ => .next s)
    | none => .next s
  | _ => .next s

/-- The compare-and-exchange of walk `n` of plot `p` (R452). -/
def execAdUpdate (s : State) : Result :=
  match s.cur with
  | .at p n _ _ =>
    let s := { s with cur := .idle }
    match (plotAt s p).walker.walks[n]? with
    | some w => (match w.phase with
      | .update l a e => .next (adUpdate s p n w l a e)
      | _ => .next s)
    | none => .next s
  | _ => .next s

/-- The contiguous read of walk `n` of plot `p` (R453). -/
def execContiguousCheck (s : State) : Result :=
  match s.cur with
  | .at p n _ _ =>
    let s := { s with cur := .idle }
    match (plotAt s p).walker.walks[n]? with
    | some w => (match w.phase with
      | .group a e =>
        let (s, x) := groupLeaf s p w.ctx w.va a e
        .next (finishWalk s p n w x)
      | _ => .next s)
    | none => .next s
  | _ => .next s

/-! ### A walk in one step, for the engines (R454; assumption 16) -/

/-- The leaf found from a table at a level, with the non-leaf entries passed. -/
def walkFrom (s : State) (c : BitVec 12) (va : Word) : Nat → Nat → Nat → Except FaultInfo (List WalkEntry × Nat × Nat × Word)
  | 0, _, _ => .error (faultAt causeTrInvalid 0 va)
  | fuel + 1, l, table =>
    let addr := entryAddr l table va
    let e := readWord s addr
    match entryCause l e with
    | some x => .error (faultAt x l va)
    | none =>
      if pteL e then .ok ([], l, addr, e)
      else do
        let (ws, r) ← walkFrom s c va fuel (l + 1) (ptePa e)
        .ok (WalkEntry.mk c l (va.toNat / 2 ^ levelShift l) (ptePa e) :: ws, r)

/-- The leaf of a walk that begins at a level, with A and D set (R443, R452, R453). -/
def engineWalk (s : State) (p : Nat) (c : BitVec 12) (va : Word) (need : Need) (l table : Nat) : Except FaultInfo (State × Leaf) := do
  let (ws, l, addr, e) ← walkFrom s c va 5 l table
  let q := WalkReq.mk .sched c va need false 0 0
  match leafRefuses s q (mkLeaf c va l addr e) with
  | some x => .error (faultAt x l va)
  | none =>
    let e' := if needsUpdate [q] e then updatedEntry [q] e else e
    let s := if e' = e then s else writeWord s addr e'
    let (s, x) := if l = 5 ∧ pteC e' = true then groupLeaf s p c va addr e' else (s, mkLeaf c va l addr e')
    .ok (installLeaf (ws.foldl (fun s e => installWalk s p e) s) p x, x)

/-- A lookup of the leaf cache that misses, and the walk for it begun below the deepest cached prefix: what they count (R456). -/
def countMiss (s : State) (p : Nat) (c : BitVec 12) (va : Word) : State :=
  let s := countEvent s p 0x13 (some c) 1
  match walkLookup s p c va with
  | some x => useWalk (if x.level = 4 then s else countEvent s p 0x12 (some c) 1) p c va
  | none => countEvent s p 0x12 (some c) 1

/-- The leaf an engine's access uses: from the leaf cache, its D set first where the access stores (R452), or walked, its misses
counted (R456). -/
def engineLeaf (s : State) (p : Nat) (c : BitVec 12) (va : Word) (need : Need) : Except FaultInfo (State × Leaf) :=
  if !vaValid va then .error (faultAt causeTrInvalid 0 va)
  else
    match leafLookup s p c va with
    | some x =>
      if !permits c need x.pte then .error (faultAt causeTrPerm (leafLevel x) va)
      else if leafReady need va x then .ok (modWalker s p (fun w => { w with leafCache := mostRecent x w.leafCache }), x)
      else
        let (a, e) := leafEntry x va
        if readWord s a = e then engineWalk s p c va need (leafLevel x) (a - va.toNat / 2 ^ levelShift (leafLevel x) % 512 * 8)
        else
          (match rootTable s p c with
          | some t => engineWalk s p c va need 1 t
          | none => .error (faultAt causeTrAttr 1 va))
    | none =>
      match walkStart s p c va with
      | none => .error (faultAt causeTrAttr 1 va)
      | some (l, t) => engineWalk (countMiss s p c va) p c va need l t

/-- An engine's virtual address translated: the physical address and the leaf. A peer address that R20 refuses faults
at the level of its leaf. -/
def engineTranslate (s : State) (p : Nat) (c : BitVec 12) (va : Word) (need : Need) :
    Except FaultInfo (State × Nat × Leaf) := do
  let (s, x) ← engineLeaf s p c va need
  let pa := leafPa x va
  if peerInvalid s pa then .error (faultAt causeTrPeer (leafLevel x) va) else .ok (s, pa, x)

/-- An address that the leaf cache resolves as it stands, or that is not valid. -/
def resolved (s : State) (p : Nat) (c : BitVec 12) (need : Need) (va : Word) : Bool :=
  !vaValid va || (leafLookup s p c va).any (fun x => !permits c need x.pte || leafReady need va x)

/-- The walker has still to answer a requester. -/
def asking (s : State) (p : Nat) (who : WalkFor) : Bool :=
  let w := (plotAt s p).walker
  w.queue.any (fun q => q.who == who) || w.walks.any (fun x => x.reqs.any (fun q => q.who == who)) || w.returned.any (fun x => x.who == who)

/-- A requester that is no access waits for its plot's walker (R454, R455): the state in which it does, its request made for the first
of its addresses that is not resolved; none where it goes on, since all of them are, or since its last request has ended in a fault,
which it meets as it goes on. -/
def walkWaits (s : State) (p : Nat) (who : WalkFor) (rank : Nat) (c : BitVec 12) (vas : List (Need × Word)) : Option State :=
  if (plotAt s p).walker.failed.contains who then none
  else
    (vas.find? (fun x => !resolved s p c x.1 x.2)).map (fun x =>
      if asking s p who then s else (askWalker s p (WalkReq.mk who c x.2 x.1 false s.cycles rank)).1)

/-- A requester goes on: a fault of its last request is met by what it does now. -/
def walkMet (s : State) (p : Nat) (who : WalkFor) : State := modWalker s p (fun w => { w with failed := w.failed.filter (fun x => x != who) })

/-- The translation entry of a station. -/
def stationEntry (s : State) (p : Nat) (b : BlockId) (slot : BitVec 7) : Option Leaf :=
  ((plotAt s p).walker.stations.find? (fun x => x.block == b && x.slot == slot)).map (fun x => x.leaf)

/-- The state with the translation entry of a station replaced. -/
def setStationEntry (s : State) (p : Nat) (b : BlockId) (slot : BitVec 7) (l : Leaf) : State :=
  modWalker s p (fun w => { w with
    stations := StationEntry.mk b slot l :: w.stations.filter (fun x => !(x.block == b && x.slot == slot)) })

/-- A memory-class station's address translated (R454): through the station's entry where that serves it, and else by a walk whose leaf
the station then holds. -/
def stationTranslate (s : State) (p : Nat) (b : BlockId) (slot : BitVec 7) (va : Word) (need : Need) :
    Except FaultInfo (State × Nat × Leaf) :=
  match (stationEntry s p b slot).filter (fun x => leafCovers b.ctx va x && permits b.ctx need x.pte && leafReady need va x &&
      !peerInvalid s (leafPa x va)) with
  | some x => .ok (s, leafPa x va, x)
  | none => do
    let (s, pa, l) ← engineTranslate s p b.ctx va need
    .ok (setStationEntry s p b slot l, pa, l)

/-- An address that a station resolves as it stands: through its entry, or the leaf cache (R454). -/
def stationResolved (s : State) (p : Nat) (b : BlockId) (slot : BitVec 7) (x : Need × Word) : Bool :=
  (stationEntry s p b slot).any (fun y => leafCovers b.ctx x.2 y && permits b.ctx x.1 y.pte && leafReady x.1 x.2 y) ||
    resolved s p b.ctx x.1 x.2

/-- The first address that a station has still to have translated before it fires; none too where its last request has ended in a
fault, which the firing meets. -/
def stationMisses (s : State) (p : Nat) (b : BlockId) (slot : BitVec 7) (l : List (Need × Word)) : Option (Need × Word) :=
  if (plotAt s p).walker.failed.contains (.station b slot) then none else l.find? (fun x => !stationResolved s p b slot x)

/-- What a walk that faults leaves (R449, R456): its misses counted, and nothing installed. -/
def missed (s : State) (p : Nat) (c : BitVec 12) (va : Word) : State :=
  if vaValid va && (leafLookup s p c va).isNone then countMiss s p c va else s

/-- What the walks for a list of addresses leave, up to the first that faults: table entries, caches and counts stand as those
walks have set them, though the access that asks for them faults (R449, R452, R456). -/
def walked (s : State) (p : Nat) (c : BitVec 12) (need : Need) : List Word → State
  | [] => s
  | va :: l =>
    match engineLeaf s p c va need with
    | .ok (t, x) => if peerInvalid t (leafPa x va) then t else walked t p c need l
    | .error _ => missed s p c va

/-- A cause that a translation gives (R426). -/
def translationCause (e : FaultInfo) : Bool := [causeTrInvalid, causeTrPerm, causeTrRsvd, causeTrAttr, causeTrPeer].contains e.cause

/-- A firing whose unit translates addresses before it knows whether it faults: what those walks have set stands, `walks` says what
it is. -/
def fireWalks (h : Head) (walks : FireCtx → FaultInfo → State → State)
    (body : FireCtx → MatchedSet → State → Except FaultInfo (State × List Send)) (s : State) : Result :=
  match s.cur with
  | .firing p b m =>
    let c := fireCtxOf s p b m h
    (match predicateOf c, body c m (consume s p b m) with
    | some true, .error e => .next (faultSet (walks c e s) c m e)
    | _, _ => fireState h (fun c s => body c m s) s)
  | _ => .next s

/-- Every 4 KiB page that a range of virtual addresses touches, by an address in it, lowest first. -/
def pagesOf (va : Word) (n : Nat) : List Word :=
  if n = 0 then []
  else
    let a := va.toNat
    (List.range ((a + n - 1) / 4096 + 1 - a / 4096)).map (fun i => if i = 0 then va else BitVec.ofNat 64 ((a / 4096 + i) * 4096))

/-- Every page of a range translated, lowest address first. -/
def translateRange (s : State) (p : Nat) (c : BitVec 12) (va : Word) (n : Nat) (need : Need) : Except FaultInfo State :=
  (pagesOf va n).foldlM (fun s a => do
    let (s, _, _) ← engineTranslate s p c a need
    .ok s) s

/-- `n` bytes at a virtual address, page by page; `fuel` bounds the pages. -/
def virtualReadFrom : Nat → State → Nat → BitVec 12 → Need → Word → Nat → Except FaultInfo (State × Nat)
  | 0, s, _, _, _, _, _ => .ok (s, 0)
  | fuel + 1, s, p, c, need, va, n =>
    if n = 0 then .ok (s, 0)
    else do
      let k := min n (4096 - va.toNat % 4096)
      let (s, pa, _) ← engineTranslate s p c va need
      let v := engineRead s pa k
      let (s, w) ← virtualReadFrom fuel s p c need (va + BitVec.ofNat 64 k) (n - k)
      .ok (s, v + 256 ^ k * w)

/-- `n` bytes at a virtual address, read by an engine that needs the given bits of its pages; none past a fault. -/
def virtualRead (s : State) (p : Nat) (c : BitVec 12) (need : Need) (va : Word) (n : Nat) : Except FaultInfo (State × Nat) :=
  virtualReadFrom (n / 4096 + 2) s p c need va n

end Sys2Proof.Machine
end

