-- ==== Sys2Proof/Machine/StoreBuffer.lean ====
section
/-! DEFINITION. The wave store buffer and the stream accesses of a plot (08_wave.md, R228 to R231): translation at the
station, wave order and gates, issue, performance and the tokens an access sends. -/
namespace Sys2Proof.Machine

/-! ### Wave order (R198, R199) -/

def wavePred (h : Head) : BitVec 8 := h.cfg.extractLsb' 56 8
def waveOwn (h : Head) : BitVec 8 := h.cfg.extractLsb' 48 8
def waveSucc (h : Head) : BitVec 8 := h.cfg.extractLsb' 40 8

/-- A wave record belongs to an access's thread (R198, R428). -/
def isWaveRec (c : BitVec 12) (e : Envelope) (handler : Bool) (r : WaveRec) : Bool :=
  r.ctx == c && r.gslot == e.gslot && r.thread == e.thread && r.handler == handler

/-- The wave record of a thread as dispatch sets it (R198). -/
def freshWave (c : BitVec 12) (e : Envelope) (handler : Bool) : WaveRec :=
  WaveRec.mk c e.gslot e.thread handler 0 0 0xFF

/-- The wave record of a thread. -/
def waveRec (s : State) (p : Nat) (c : BitVec 12) (e : Envelope) (handler : Bool) : WaveRec :=
  ((plotAt s p).waves.find? (isWaveRec c e handler)).getD (freshWave c e handler)

/-- The state with a wave record written. -/
def setWave (s : State) (p : Nat) (r : WaveRec) : State :=
  modPlot s p (fun x => { x with
    waves := r :: x.waves.filter (fun y => !(y.ctx == r.ctx && y.gslot == r.gslot && y.thread == r.thread && y.handler == r.handler)) })

/-- `wave_ready` of R199. -/
def waveReady (h : Head) (wave : BitVec 24) (r : WaveRec) : Bool :=
  if wave != r.w then false
  else if r.i.getLsbD (waveOwn h).toNat then false
  else if wavePred h = 0xFE then r.i == 0
  else if wavePred h = 0xFF then r.s == waveOwn h
  else r.i.getLsbD (wavePred h).toNat

/-- `on_issue` of R199. -/
def onIssue (h : Head) (r : WaveRec) : WaveRec :=
  if waveSucc h = 0xFE then { r with w := r.w + 1, i := 0, s := 0xFF }
  else { r with i := r.i ||| ((1 : BitVec 254) <<< (waveOwn h).toNat), s := waveSucc h }

/-- The access is wave-ready. -/
def accessReady (s : State) (p : Nat) (a : Access) : Bool :=
  a.withdrawn || waveReady a.head a.env.wave (waveRec s p a.block.ctx a.env a.handler)

/-! ### Performance (R205) -/

/-- A part performed at plot and device scope. -/
def partDone (x : Part) : Bool := x.state == .done || x.state == .skipped

/-- A part performed at system scope. -/
def partSys (x : Part) : Bool := x.state == .skipped || (x.state == .done && x.sys)

def isAcquire (a : Access) : Bool := a.xf.ord == .acquire || a.xf.ord == .acqrel
def isRelease (a : Access) : Bool := a.xf.ord == .release || a.xf.ord == .acqrel

/-- An access has been performed at a scope (R205). An acquire at system scope has only when the context's peer copies
are gone (R259), an acquire fence only when it is complete (R212). -/
def performedAt (sc : Scope) (a : Access) : Bool :=
  a.phase == .issued && a.parts.all (if sc = .system then partSys else partDone) &&
    (!(isAcquire a && (a.xf.scope == .system || a.op == .fence)) || a.freed)

/-! ### Gates (R204) -/

/-- An access of the wave store buffer that stands before others of its thread: issued, or holding its place in the wave
already (R216, R217). -/
def isOlder (a o : Access) : Bool :=
  o.id != a.id && !isStream o.op && o.block.ctx == a.block.ctx && o.env.gslot == a.env.gslot &&
    o.env.thread == a.env.thread && (o.phase == .issued || o.withdrawn)

/-- The accesses of a plot that stand before one, in the order in which they issued. -/
def before (s : State) (p id : Nat) : List Access := (plotAt s p).accesses.takeWhile (fun o => o.id != id)

/-- The older accesses of an access's thread, oldest issue first. One that holds its place in the wave already has only those
before it. -/
def olderOf (s : State) (p : Nat) (a : Access) : List Access :=
  (if a.withdrawn then before s p a.id else (plotAt s p).accesses).filter (isOlder a)

/-- An acquire fence is complete when every older acquire of its thread has been performed at its scope (R212): a plain load that
precedes it is one (R241). -/
def fenceClear (s : State) (p : Nat) (a : Access) : Bool :=
  a.op != .fence || !isAcquire a ||
    ((before s p a.id).filter (isOlder a)).all (fun o =>
      !(isAcquire o || isRead o.op || o.op == .lds || o.op == .atom) || performedAt a.xf.scope o)

/-- Two parts share a byte. -/
def partsOverlap (x y : Part) : Bool :=
  match x.pa, y.pa with
  | some a, some b => decide (a < b + y.bytes) && decide (b < a + x.bytes)
  | _, _ => false

/-- Two accesses share a byte. -/
def overlaps (a o : Access) : Bool := a.parts.any (fun x => o.parts.any (partsOverlap x))

/-- An access touches a sequential page, wherever its frame lies (R244, R447). -/
def touchesSequential (a : Access) : Bool := a.parts.any (fun x => x.seq)

/-- The byte that a store writes at an address, if it writes one: that of its highest element there (R209). -/
def storedByte (o : Access) (b : Nat) : Option Nat :=
  o.parts.reverse.findSome? (fun y => match y.pa with
    | some q => if q ≤ b ∧ b < q + y.bytes then some (y.val.toNat / 256 ^ (b - q) % 256) else none
    | none => none)

/-- The youngest older store that overlaps a load and has not been performed (R207). -/
def forwardSource (s : State) (p : Nat) (a : Access) : Option Access :=
  if a.op == .ld || a.op == .ldg then
    ((olderOf s p a).filter (fun o => isPlainStore o.op && o.phase == .issued && overlaps a o && !performedAt .device o)).getLast?
  else none

/-- A store covers a load in full (R207). -/
def coversAll (o a : Access) : Bool :=
  a.parts.all (fun x => match x.pa with
    | some q => (List.range x.bytes).all (fun i => (storedByte o (q + i)).isSome)
    | none => false)

/-- The same-address gate, with the load that forwarding serves let through (R204, R207). -/
def addressGate (s : State) (p : Nat) (a : Access) : Bool :=
  let open_ := fun (o : Access) => performedAt .device o || !overlaps a o
  match forwardSource s p a with
  | some f => coversAll f a && (olderOf s p a).all (fun o => open_ o || isPlainStore o.op)
  | none => (olderOf s p a).all open_

/-- The gates of R204. -/
def gatesOpen (s : State) (p : Nat) (a : Access) : Bool :=
  a.withdrawn ||
    (addressGate s p a &&
      (olderOf s p a).all (fun o => !isAcquire o || performedAt o.xf.scope o) &&
      (!isRelease a || (olderOf s p a).all (performedAt a.xf.scope)) &&
      (!touchesSequential a || (olderOf s p a).all (performedAt .device)) &&
      (olderOf s p a).all (fun o => !touchesSequential o || performedAt .device o))

/-! ### Peers (R482) -/

/-- The effective mask of a peer: its ports in UP or DEGRADED, and none where its route entry names no device of the domain (R481). -/
def effectiveMask (s : State) (peer : Nat) : List Nat :=
  let e := routeEntry s peer
  (List.range 12).filter (fun k => peerInDomain s peer && e.getLsbD k &&
    (match s.ports[k]? with
    | some x => x.st == .up || x.st == .degraded
    | none => false))

/-- A port that retrains on 4 lanes holds its traffic (R487). -/
def portHolds (s : State) (k : Nat) : Bool := s.ports.getD k LinkPort.reset |>.retraining

/-- The port for a peer offset (R482). -/
def portFor (s : State) (peer off : Nat) : Option Nat :=
  let m := effectiveMask s peer
  if m.isEmpty then none else m[((off / 64 % 256) ^^^ (off / 2 ^ 14 % 256)) % m.length]?

/-- The requests to a peer that have not been answered. -/
def outstanding (s : State) (peer : Nat) : List OutReq :=
  (s.streams.filter (fun x => x.peer == peer)).flatMap (fun x => x.out)

/-- A new request to a peer may be sent: nothing is outstanding under another mask, and its stream has room (R482,
R484). -/
def peerReady (s : State) (pa : Nat) : Bool :=
  let peer := peerId pa
  let m := effectiveMask s peer
  (outstanding s peer).all (fun r => r.moved || r.mask == m) &&
    (match portFor s peer (peerOffset pa) with
    | some k => !portHolds s k && (s.streams.filter (fun x => x.peer == peer && x.port == k)).all (fun x => decide (x.out.length < 256))
    | none => true)

/-- A request put on its stream (R484): it leaves on the port that R482 selects. `keep` names the copy that its answer makes. -/
def peerSend (s : State) (pa k : Nat) (r : ReqRef) (store : Bool) (keep : Option (BitVec 12 × Nat)) : State :=
  let peer := peerId pa
  let m := effectiveMask s peer
  let add := fun (x : LinkStream) => { x with
    next := x.next + 1, out := x.out ++ [OutReq.mk x.next (peerOffset pa) r store m false k (s.timers.getD (k / 3) 0) keep] }
  let s := cacheRoute s peer
  if s.streams.any (fun x => x.peer == peer && x.port == k) then
    { s with streams := s.streams.map (fun x => if x.peer = peer ∧ x.port = k then add x else x) }
  else { s with streams := s.streams ++ [add (LinkStream.mk peer k 0 [])] }

/-- A copy of a peer's line for a context (R259). -/
def peerCopy (s : State) (c : BitVec 12) (line : Nat) : Option PeerCopy :=
  s.peerCopies.find? (fun x => x.ctx == c && x.line == line)

/-! ### Sending a part where it performs -/

/-- A part put at the L1 and tried there. -/
def toL1 (s : State) (r : PartRef) : State := tryL1 (modPart s r (fun x => { x with state := .atL1 })) r

/-- A part, with the parts of its access in the same line, sent to its home slice as an operation or a read (R209, R256). -/
def toSlice (s : State) (r : PartRef) (pa : Nat) (read : Bool) : State :=
  sendHome (modUnitOf s r (fun x => { x with state := .atHome })) r.plot (pa / 64)
    (if read then .read (.part r) else .op (.part r))

/-- A word request put in its bank's order (R267): by arrival, with same-cycle arrivals by the rank of their ports. -/
def bankInsert (q : BankReq) : List BankReq → List BankReq
  | [] => [q]
  | x :: l => if x.store = q.store ∧ x.cycle = q.cycle ∧ q.rank < x.rank then q :: x :: l else x :: bankInsert q l

/-- The rank of a requester port at a store (R267): drains and `mst` by tile, gather units by tile, copy engines, stream stations
by tile and PE, the store buffer, and whatever comes from elsewhere. -/
def bankRank (s : State) (store : Nat) (r : ReqRef) : Nat :=
  match r with
  | .part x =>
    if x.plot ≠ store then 2048
    else
      (match accessAt s x.plot x.id with
      | some a =>
        if isStream a.op then
          (match copyOf s x.plot a.block with
          | some c => 64 + 16 * firingTile c + (peOf c.stations a.set.slot.toNat).getD 0
          | none => 64)
        else 1024
      | none => 1024)
  | .eng id =>
    match engAt s id with
    | some q =>
      if q.plot ≠ store then 2048
      else (match q.owner with
        | .drain _ t => t
        | .gather _ t => 16 + t
        | .copy _ e => 32 + e
        | .record _ | .unit | .host | .peer _ _ _ => 2048)
    | none => 2048

/-- A word request sent to its bank (R266). -/
def askBank (s : State) (pa : Nat) (r : ReqRef) (write atomic : Bool) : State :=
  let store := storeOf pa
  { s with banks := bankInsert (BankReq.mk store ((pa - windowBase) % 0x10_0000 / 16) write atomic r false s.cycles
      (bankRank s store r)) s.banks }

/-- A part, with the parts of its access in the same word, sent to the bank of its plot store (R266, R267). -/
def toBank (s : State) (r : PartRef) (pa : Nat) (op : MemOp) : State :=
  askBank (modUnitOf s r (fun x => { x with state := .atHome })) pa (.part r) (isPlainStore op || op == .strs) (isAtomic op)

/-- The L1 copy that `cctl` 0x0 writes back and drops (R214, R256). -/
def dropOwn (s : State) (p line : Nat) : State :=
  match l1At s p line with
  | some x => replaceLine s p x
  | none => s

/-- A part of a `cctl` by its page (R214). -/
def sendControl (s : State) (r : PartRef) (a : Access) (x : Part) (pa : Nat) : State :=
  let fin := fun (s : State) => finishPart s r 0 true
  match a.code, x.kind with
  | 0, .coherent | 0, .sequential => fin (dropOwn s r.plot (pa / 64))
  | 2, .coherent | 2, .sequential => toSlice s r pa false
  | 0, .replicated => fin (dropRep s r.plot (fun l => l == pa / 64))
  | 2, .replicated => fin (dropRepAll s (fun l => l == pa / 64))
  | 3, .peer => fin (dropPeer s a.block.ctx (fun l => l == pa / 64))
  | 2, .host | 2, .home => fin (l2Drop s (pa / 64))
  | _, _ => fin s

/-- A part of an access to a peer, with the parts of its access in the same line (R205, R209, R259, R260): a load may hit the
context's copy; anything else goes to the peer, a store performed at plot and device scope when it is sent. R260 says of a store
that it drops the context's copy; the model says it of every access that writes there (assumption 15). An atomic or `lds` whose turn in
a replay has not come, or whose record has no room, is not sent yet (R437, R438). -/
def sendPeer (s : State) (r : PartRef) (a : Access) (x : Part) (pa k : Nat) : State :=
  if isRead a.op || a.op == .pref then
    match peerCopy s a.block.ctx (pa / 64) with
    | some d => finishPart (l2Touch s .normal (some a.block.ctx) (pa / 64)) r (BitVec.ofNat 64 (lineGet d.data (pa % 64) x.bytes)) true
    | none => peerSend (modUnitOf s r (fun y => { y with state := .atPeer })) pa k (.part r) false (some (a.block.ctx, pa / 64))
  else if replayWaits s r a pa then
    modUnitOf (awaitTurn s a.block.ctx (accessVerdict s r a pa)) r (fun y => { y with state := .refused })
  else
    let s := dropPeer s a.block.ctx (fun l => l == pa / 64)
    let store := isPlainStore a.op || a.op == .strs
    peerSend (modUnitOf s r (fun y => { y with state := if store then .done else .atPeer, sys := false })) pa k (.part r) store none

/-- A line that a `pref` or `cctl` leaves out: for a `pref` its status counts it (R213, R217). -/
def skipPart (s : State) (r : PartRef) : State :=
  modAccess (modPart s r (fun x => { x with state := .skipped })) r.plot r.id
    (fun a => { a with status := if a.op = .pref then a.status + 1 else a.status })

/-- A part sent where it performs (R205, R208, R245, R246, R256); one for a peer whose stream has no room, or is held, stays (R482, R484,
R487). -/
def sendPart (s : State) (r : PartRef) : State :=
  match partAt s r with
  | none => s
  | some (a, x) =>
    match x.pa with
    | none => s
    | some pa =>
      if x.state ≠ .todo then s
      else
        let cached := a.xf.cp == .normal || a.xf.cp == .stream
        if a.op = .cctl then sendControl s r a x pa
        else match x.kind with
          | .coherent | .sequential =>
            if isAtomic a.op then toSlice s r pa false
            else if cached then toL1 s r
            else toSlice s r pa (isRead a.op || a.op == .pref)
          | .replicated =>
            if isAtomic a.op then toSlice s r pa false
            else if cached then toL1 s r
            else toSlice s r pa true
          | .home | .host => toSlice s r pa (a.op == .pref)
          | .window => if a.op = .pref then finishPart s r 0 true else toBank s r pa a.op
          | .peer =>
            match portFor s (peerId pa) (peerOffset pa) with
            | some k => if peerReady s pa then sendPeer s r a x pa k else s
            | none => if a.op = .pref then skipPart s r else spoil s r (faultAt causeTrPeer x.level x.ea)

/-- Every part of an access sent, in order. -/
def sendParts (s : State) (p : Nat) (a : Access) : State :=
  (List.range a.parts.length).foldl (fun s i => sendPart s (PartRef.mk p a.id i)) s

/-- An issued access with a part that no stream to its peer had room for. A `pref` that stops starts no line (R217). -/
def unsentPeer (s : State) (a : Access) : Bool :=
  a.phase == .issued && !prefStops s a && a.parts.any (fun x => x.kind == .peer && x.state == .todo)

/-- The parts for peers that no stream had room for, tried again. -/
def kickPeers (s : State) : State :=
  (List.range 36).foldl (fun s p => ((plotAt s p).accesses.filter (unsentPeer s)).foldl (fun s a => sendParts s p a) s) s

/-! ### Translation at the station (R197, R230, R454) -/

/-- The part of an access that is translated next: the lowest address first (R197). -/
def nextPart (a : Access) : Option (Nat × Part) :=
  ((List.range a.parts.length).filterMap (fun i => match a.parts[i]? with
    | some x => if x.pa.isNone && x.state == .todo then some (i, x) else none
    | none => none)).foldl (fun m x => match m with
      | none => some x
      | some y => if x.2.ea.toNat < y.2.ea.toNat then some x else some y) none

/-- `pref` and `cctl` skip a line whose page fails (R213, R214). -/
def skips (op : MemOp) : Bool := op == .pref || op == .cctl

/-- A part whose page fails: skipped, or the access's fault. -/
def failPart (a : Access) (i : Nat) (e : FaultInfo) : Access :=
  if skips a.op then
    { a.modPart i (fun x => { x with state := .skipped }) with status := if a.op = .pref then a.status + 1 else a.status }
  else { a with fault := some e, phase := .transit, fresh := false }

/-- A part through a leaf (R446, R447): R20 refuses some peer addresses, and full-empty operations reach no host memory
(R210). -/
def placePart (s : State) (p : Nat) (a : Access) (i : Nat) (x : Part) (l : Leaf) : Access :=
  let pa := leafPa l x.ea
  if peerInvalid s pa then failPart a i (faultAt causeTrPeer (leafLevel l) x.ea)
  else if (a.op == .lds || a.op == .stf || a.op == .clre) && rangeOf pa == .host then
    failPart a i (faultAt causeTrAttr (leafLevel l) x.ea)
  else a.modPart i (fun y => { y with
    pa := some pa, level := leafLevel l, leaf := some l, kind := pageKind p l.pte pa, seq := pteSequential l.pte, sysAtomic := pteSa l.pte })

/-- The access with a change written back. -/
def putAccess (s : State) (p : Nat) (a : Access) : State := modAccess s p a.id (fun _ => a)

/-- The rank of an access's request at its walker (R455): stream stations by tile and PE, memory-PE stations by tile, PE and station. -/
def walkRank (s : State) (p : Nat) (stream : Bool) (b : BlockId) (slot : BitVec 7) : Nat :=
  match copyOf s p b with
  | some c =>
    let pe := 16 * firingTile c + (peOf c.stations slot.toNat).getD 0
    if stream then 16 + pe else 1024 + 128 * pe + slot.toNat
  | none => 0

/-- The walker asked for the page of a part. -/
def askPart (s : State) (p : Nat) (a : Access) (x : Part) : State :=
  let (s, ok) := askWalker s p (WalkReq.mk (.access a.id) a.block.ctx x.ea (needOf a.op a.xf.take) a.fresh s.cycles
    (walkRank s p (isStream a.op) a.block a.set.slot))
  putAccess s p { a with phase := .translating ok }

/-- The parts of an access translated as far as the station's entry reaches, then the walker asked; an access whose
parts are all translated, or that has a fault, goes on (R203). -/
def translateParts : Nat → State → Nat → Nat → State
  | 0, s, _, _ => s
  | fuel + 1, s, p, id =>
    match accessAt s p id with
    | none => s
    | some a =>
      match a.phase, a.fault with
      | .translating _, none =>
        (match nextPart a with
        | none => putAccess s p { a with phase := .transit, fresh := false }
        | some (i, x) =>
          let need := needOf a.op a.xf.take
          if !vaValid x.ea then translateParts fuel (putAccess s p (failPart a i (faultAt causeTrInvalid 0 x.ea))) p id
          else
            match (stationEntry s p a.block a.set.slot).filter (leafCovers a.block.ctx x.ea) with
            | some l =>
              if !permits a.block.ctx need l.pte then
                translateParts fuel (putAccess s p (failPart a i (faultAt causeTrPerm (leafLevel l) x.ea))) p id
              else if leafReady need x.ea l then translateParts fuel (putAccess s p (placePart s p a i x l)) p id
              else askPart s p a x
            | none => askPart s p a x)
      | _, _ => s

/-- The entry of an access's station covers every part that is still to be translated (R230). -/
def entryCovers (s : State) (p : Nat) (a : Access) : Bool :=
  a.parts.all (fun x => x.pa.isSome || x.state != .todo ||
    (stationEntry s p a.block a.set.slot).any (leafCovers a.block.ctx x.ea))

/-- An access taken as far as its translation goes now: without delay where the station's entry covers all of it, and else by a
walk for each page, the lowest first (R230). -/
def translateAccess (s : State) (p id : Nat) : State :=
  match accessAt s p id with
  | some a =>
    (match a.phase, nextPart a with
    | .translating _, some (_, x) =>
      if a.fault.isNone && vaValid x.ea && !entryCovers s p a then
        askPart s p a x
      else translateParts (a.parts.length + 1) s p id
    | _, _ => translateParts (a.parts.length + 1) s p id)
  | none => s

/-! ### Issue of a stream access (R229) -/

/-- Accesses of one station. -/
def sameStation (a o : Access) : Bool := o.id != a.id && o.block == a.block && o.set.slot == a.set.slot

/-- The conditions of R229 and R482 under which a stream access issues. -/
def streamReady (s : State) (p : Nat) (a : Access) : Bool :=
  ((plotAt s p).accesses.filter (fun o => sameStation a o && o.phase == .issued)).all (fun o =>
      performedAt .device o || !(overlaps a o || touchesSequential a)) &&
    a.parts.all (fun x => x.kind != .peer || peerReady s (x.pa.getD 0))

/-- An access moved behind every other, where issue order puts it. -/
def moveLast (s : State) (p : Nat) (a : Access) : State :=
  modAccesses s p (fun l => l.filter (fun o => o.id != a.id) ++ [a])

/-- The peers of an access that no port leads to fault it (R482). -/
def peerFault (s : State) (a : Access) : Option FaultInfo :=
  (a.parts.find? (fun x => x.kind == .peer && x.state == .todo && !skips a.op &&
      (portFor s (peerId (x.pa.getD 0)) (peerOffset (x.pa.getD 0))).isNone)).map
    (fun x => faultAt causeTrPeer x.level x.ea)

/-- A fault of an access delivered (R215, R231): with no free cause slot it is taken again later. -/
def takeFault (s : State) (p : Nat) (a : Access) (e : FaultInfo) : State :=
  let (s, taken) := deliverFault s p a.env.gslot e (0#1 ++ a.set.slot) a.block a.env (.access a.id)
  if taken then modAccess s p a.id (fun x => { x with phase := .faulted, fault := some e })
  else modAccess s p a.id (fun x => { x with phase := .waiting, fault := some e })

/-- The group of an access lets it issue (R215, R428). A withdrawn one is sent again as soon as its context runs (R217). -/
def accessLets (s : State) (p : Nat) (a : Access) : Bool :=
  (ctxAt s a.block.ctx).phase == .running &&
    (a.withdrawn || match groupAt s p a.env.gslot with
    | some x => x.phase == .running || (x.phase == .stopped && a.handler)
    | none => false)

/-- A stream access that is translated issues, or takes its fault (R229, R231). -/
def tryStream (s : State) (p id : Nat) : State :=
  match accessAt s p id with
  | none => s
  | some a =>
    if !isStream a.op then s
    else match a.phase with
      | .transit | .waiting =>
        (match a.fault with
        | some e => if accessLets s p a then takeFault s p a e else putAccess s p { a with phase := .waiting }
        | none =>
          match (if accessLets s p a then peerFault s a else none) with
          | some e => takeFault s p a e
          | none =>
            if streamReady s p a && accessLets s p a then
              let a' := { a with phase := .issued }
              sendParts (moveLast s p a') p a'
            else putAccess s p { a with phase := .waiting })
      | _ => s

/-- The stream accesses of a plot that wait for others, tried in order. -/
def kickStreams (s : State) (p : Nat) : State :=
  ((plotAt s p).accesses.filter (fun a => isStream a.op && a.phase == .waiting && a.fault.isNone)).foldl
    (fun s a => tryStream s p a.id) s

/-- An access whose translation begins or is asked for again: translated as far as it goes, and a stream access issued when it can
be. -/
def advance (s : State) (p id : Nat) : State := tryStream (translateAccess s p id) p id

/-- An access whose station has had an answer: translated further by the entry it now holds. -/
def resume (s : State) (p id : Nat) : State :=
  match accessAt s p id with
  | some a => tryStream (translateParts (a.parts.length + 1) s p id) p id
  | none => s

/-! ### Firing a memory instruction -/

/-- The XF of an instruction that is not of the wave class: plain, with its own CP, DONE and SCOPE. -/
def plainXf (cp : CachePol) (done : Bool) (sc : Scope) : MemXf := MemXf.mk 0 false cp done sc .plain

/-- A firing in the handler block of its group (R428). -/
def inHandlerBlock (s : State) (p : Nat) (g : BitVec 3) (b : BlockId) : Bool :=
  (groupAt s p g).any (fun x => x.hbid != 0xFFFF_FFFF && b.bid == x.hbid && b.obj == x.obj)

/-- The access of a firing (R197): its parts, or the fault it is marked with. -/
def accessOf (s : State) (c : FireCtx) (m : MatchedSet) (op : MemOp) (ft : BitVec 5) (xf : MemXf) : Access :=
  let ext := extentOf op ft xf.aop c
  let (parts, code, fault) := match ext with
    | .ok x => (x.parts, x.code, none)
    | .error e => ([], 0, some e)
  { id := s.nextId, op := op, block := c.block, set := m, head := c.head, xf := xf, ftz := c.ftz
    handler := inHandlerBlock s c.plot c.env.gslot c.block
    parts := parts, code := code
    status := if op = .cctl ∧ 4 ≤ code then 1 else 0
    phase := if fault.isSome then .transit else .translating false
    fault := fault, freed := false, withdrawn := false, again := false, fresh := false }

/-- The state with a new access of a plot. -/
def addAccess (s : State) (p : Nat) (a : Access) : State :=
  { modAccesses s p (fun l => l ++ [a]) with nextId := s.nextId + 1 }

/-- A memory instruction's firing starts its access (R197, R203); an `mnop` stands in for one whose predicate does not
select firing (R64, R201). -/
def fireAccess (h : Head) (op : MemOp) (ft : BitVec 5) (xf : MemXf) (s : State) : Result :=
  match s.cur with
  | .firing _ _ m =>
    fireWith h
      (fun c s => if isStream op then s else
        let a := accessOf s c m .mnop 0 (plainXf .normal false .none)
        advance (addAccess s c.plot a) c.plot a.id)
      (fun c s =>
        let a := accessOf s c m op ft xf
        .ok (advance (addAccess s c.plot a) c.plot a.id, [])) s
  | _ => .next s

/-- Entries of the wave store buffer in use (R203). -/
def entriesUsed (s : State) (p : Nat) : Nat :=
  (plotAt s p).accesses.countP (fun a => !isStream a.op && !a.freed)

/-- An entry can be reserved for a firing (R203): the last 64 only by an access that is wave-ready. DESIGN CHOICE (assumption 52):
the first 1,984 entries are taken as a count of the entries in use, whoever uses them, not as places of their own. -/
def entryFree (s : State) (p : Nat) (b : BlockId) (m : MatchedSet) (h : Head) : Bool :=
  let e := envOf m.toks
  let handler := inHandlerBlock s p e.gslot b
  decide (entriesUsed s p < 1984) ||
    (decide (entriesUsed s p < 2048) && waveReady h e.wave (waveRec s p b.ctx e handler))

/-- The station waits for the walker, or for an access of its that has not issued (R229, R230, R231, R454). -/
def stationBusy (s : State) (p : Nat) (b : BlockId) (slot : BitVec 7) : Bool :=
  (plotAt s p).accesses.any (fun a => a.block == b && a.set.slot == slot &&
    (match a.phase with
    | .translating _ => true
    | .issued => false
    | _ => isStream a.op))

/-! ### Tokens of an access (R206, R209, R228) -/

/-- The targets of a result: T2 is for the done token where DONE is set (R62). -/
def resultHead (a : Access) : Head := if a.xf.done then { a.head with t2 := none } else a.head

/-- The row that a row stream load sends (R47, R228): lanes and scale as one bit string. -/
def rowOf (a : Access) (ft : BitVec 5) : Row :=
  Row.mk a.env ft (a.env.tag.extractLsb' 0 6)
    (BitVec.ofNat 1088 (a.parts.foldr (fun x n => x.got.toNat + 2 ^ 64 * n) 0))

/-- A row sent to every row port in use of the instruction at slot `src`. -/
def sendRow (s : State) (p : Nat) (b : BlockId) (src : BitVec 7) (h : Head) (r : Row) : State :=
  let sendTo := fun (t : Option Target) => match t with
    | some t => [RowFlight.mk src (Dest.mk p b t.slot t.port) r false]
    | none => []
  { s with rows := s.rows ++ (sendTo h.t0 ++ sendTo h.t1 ++ sendTo h.t2) }

/-- FT of a row stream load, from its op word (R228): the model keeps it in AOP and TAKE of the access's XF. -/
def rowTagOf (a : Access) : BitVec 5 := BitVec.ofBool a.xf.take ++ a.xf.aop

/-- What a performed access sends with its data (R206, R209 to R212, R228). -/
def sendData (s : State) (p : Nat) (a : Access) : State :=
  let vals := a.parts.map (fun x => normSlot (.elem a.head.ty) x.got)
  match a.op with
  | .ld | .ldg | .lds | .atom | .strl =>
    sendAll s p a.block (sendEach (resultHead a) (Token.mk a.env (mkPacket (tagOfTy a.head.ty) vals)))
  | .strlRow => sendRow s p a.block a.set.slot (resultHead a) (rowOf a (rowTagOf a))
  | .fence =>
    (match tokenAt a.set.toks 0 with
    | some t => sendAll s p a.block (sendEach (resultHead a) t)
    | none => s)
  | _ => s

/-- The envelope of an access's done token: it carries with it the older accesses of the thread that have not been performed
(R357). -/
def doneEnv (s : State) (p : Nat) (a : Access) : Envelope :=
  let ids := ((before s p a.id).filter (fun o => isOlder a o && !performedAt .device o)).map (fun o => o.id)
  { a.env with edges := (a.env.edges ++ ids).eraseDups }

/-- The done token (R206). -/
def sendDone (s : State) (p : Nat) (a : Access) : State :=
  if a.xf.done then sendAll s p a.block (sendTo a.head.t2 (Token.mk (doneEnv s p a) (statusPacket a.status))) else s

/-- The state without an access. -/
def removeAccess (s : State) (p id : Nat) : State := modAccesses s p (fun l => l.filter (fun a => a.id != id))

/-- An access performed at plot and device scope: its entry is free, its data is sent, and its done token unless it
waits for system scope; an acquire at system scope drops the context's peer copies (R203, R205, R206, R259). -/
def performLocal (s : State) (p : Nat) (a : Access) : State :=
  let s := if isAcquire a && a.xf.scope == .system then dropPeer s a.block.ctx (fun _ => true) else s
  let s := sendData s p a
  let s := if a.xf.scope = .system then s else sendDone s p a
  modAccess s p a.id (fun x => { x with freed := true })

/-- An access performed at system scope: what is left of it goes (R205, R206). -/
def performSystem (s : State) (p : Nat) (a : Access) : State :=
  removeAccess (if a.xf.scope = .system then sendDone s p a else s) p a.id

/-- A part of a `pref` whose line is on its way: in the plot's L1, or at a home or a peer. -/
def prefFlies (s : State) (p : Nat) (x : Part) : Bool :=
  match x.state with
  | .atInv | .atHome | .atPeer => true
  | .atL1 =>
    let line := x.pa.map (fun y => y / 64)
    (plotAt s p).l1.any (fun y => some y.line == line && y.rep == (x.kind == .replicated) && y.st == .isD)
  | .todo | .skipped | .refused | .withdrawn | .done | .bad => false

/-- A `pref` that stops at pre-emption (R217): after its lines in flight, the rest count as abandoned. -/
def abandonLines (s : State) (p : Nat) (a : Access) : State :=
  if a.op = .pref ∧ a.phase = .issued ∧ (ctxAt s a.block.ctx).phase ≠ .running ∧ a.parts.all (fun x => !prefFlies s p x) = true then
    (List.range a.parts.length).foldl (fun s i =>
      if (a.parts[i]?).any (fun x => !partDone x) then skipPart s (PartRef.mk p a.id i) else s) s
  else s

/-- What an access has read can leave: a row only where every port it goes to has room (R295). -/
def dataLeaves (s : State) (p : Nat) (a : Access) : Bool := a.op != .strlRow || a.freed || rowPathOpen s p a.block (resultHead a) true

/-- An access sends a token or a row back through its memory PE as it is performed at plot and device scope, or at system scope:
its data, or its done token. -/
def returnsLocal (a : Access) : Bool :=
  (match a.op with
    | .ld | .ldg | .lds | .atom | .strl | .strlRow | .fence => true
    | _ => false) || (a.xf.done && a.xf.scope != .system)
def returnsSystem (a : Access) : Bool := a.xf.done && a.xf.scope == .system

/-- An access performed, as far as the meter of its tile's return port lets what it sends back through (R471). -/
def throughReturn (s : State) (p : Nat) (a : Access) (sends : Bool) (f : State → State) : State :=
  let t := tileOf s p a.block
  if !sends then f s
  else if meterOpen s p t 2 then f (admitAt s p t 2 a.id)
  else refuseAt s p t 2 a.block.ctx a.id

/-- An issued access as far as it has been performed. One that has met an error faults when every part has been tried (R216, R231):
with no free cause slot it is taken again later. It has its place in the wave already. That of a killed group, which runs no handler
any more, is gone with its fault (assumption 50). -/
def performAccess (s : State) (p : Nat) (a : Access) : State :=
  if a.phase = .issued ∧ a.parts.all (fun x => partDone x || x.state == .bad) = true then
    match a.fault with
    | some e =>
      if (groupAt s p a.env.gslot).all (fun x => x.phase == .retiring) then removeAccess s p a.id
      else
        let (s, taken) := deliverFault s p a.env.gslot e (0#1 ++ a.set.slot) a.block a.env (.access a.id)
        if taken then modAccess s p a.id (fun x => { x with phase := .faulted, withdrawn := !isStream x.op }) else s
    | none =>
      if fenceClear s p a && dataLeaves s p a then
        let s := if a.freed then s else throughReturn s p a (returnsLocal a) (fun s => performLocal s p a)
        if (accessAt s p a.id).any (fun x => x.freed) && a.parts.all partSys then
          throughReturn s p a (returnsSystem a) (fun s => performSystem s p a)
        else s
      else s
  else s

/-! ### The steps of the store buffer -/

/-- Numbers in the order of a measure, lowest first. -/
def sortBy (f : Nat → Nat) : List Nat → List Nat
  | [] => []
  | i :: l => insertBy f i (sortBy f l)
where
  /-- A number put before those of no lower measure. -/
  insertBy (f : Nat → Nat) (i : Nat) : List Nat → List Nat
    | [] => [i]
    | j :: l => if f i ≤ f j then i :: j :: l else j :: insertBy f i l

/-- An access that was translated before a `tlbi` is translated again before it issues (R460), the lowest address first (R197): in
one step (assumption 16). -/
def translateAgain (s : State) (p : Nat) (a : Access) : State × Access :=
  (sortBy (fun i => ((a.parts[i]?).map (fun x => x.ea.toNat)).getD 0) (List.range a.parts.length)).foldl (fun (x : State × Access) i =>
    match x.2.parts[i]? with
    | none => x
    | some y =>
      if x.2.fault.isSome || y.state != .todo then x
      else
        match engineLeaf x.1 p a.block.ctx y.ea (needOf a.op a.xf.take) with
        | .ok (s, l) => (s, placePart s p x.2 i y l)
        | .error e => (x.1, failPart x.2 i e)) (s, { a with again := false })

/-- A load's value from the store that covers it (R207). -/
def forwardFrom (f a : Access) : Access :=
  { a with parts := a.parts.map (fun x => { x with
      state := .done, sys := true
      got := BitVec.ofNat 64 ((List.range x.bytes).foldl (fun v i =>
        v + (storedByte f (x.pa.getD 0 + i)).getD 0 * 256 ^ i) 0) }) }

/-- A release at system scope of a thread that has lost a store faults (R486). -/
def lostFault (s : State) (p : Nat) (a : Access) : Option FaultInfo :=
  if isRelease a && a.xf.scope == .system && (plotAt s p).lost.contains (a.block.ctx, a.env.gslot, a.env.thread) then
    some (match a.parts.head? with
    | some x => faultAt causeTrPeer x.level x.ea
    | none => causeOnly causeTrPeer)
  else none

/-- An access issues (R199, R204, R207): the wave record changes, and its parts go where they perform. One that holds its place in the
wave already keeps it. -/
def issueAccess (s : State) (p : Nat) (a : Access) : State :=
  let s := if a.withdrawn then s
    else setWave s p (onIssue a.head (waveRec s p a.block.ctx a.env a.handler))
  if a.op = .mnop then removeAccess s p a.id
  else
    let a' := { a with phase := .issued, withdrawn := false }
    let put := fun (x : Access) => if a.withdrawn then putAccess s p x else moveLast s p x
    match forwardSource s p a with
    | some f => put (forwardFrom f a')
    | none => sendParts (put a') p a'

/-- STORE_BUFFER_ISSUE of an access (R204, R215): translated again where it must be, and then held to its gates. -/
def tryIssue (s : State) (p : Nat) (a : Access) : State :=
  if a.phase = .waiting ∧ isStream a.op = false ∧ accessLets s p a = true ∧ accessReady s p a = true then
    let (s, a) := if a.again then translateAgain s p a else (s, a)
    if gatesOpen s p a then
      match (a.fault <|> lostFault s p a) <|> peerFault s a with
      | some e => takeFault (putAccess s p a) p a e
      | none =>
        if a.parts.all (fun x => x.kind != .peer || x.state != .todo || peerReady s (x.pa.getD 0)) then issueAccess s p a
        else putAccess s p a
    else putAccess s p a
  else s

/-- A step on access `n` of plot `p`. -/
def accessStep (f : State → Nat → Access → State) (s : State) : Result :=
  match s.cur with
  | .at p n _ _ =>
    let s := { s with cur := .idle }
    match accessAt s p n with
    | some a => .next (f s p a)
    | none => .next s
  | _ => .next s

/-- The access reaches its reserved entry (R203). -/
def execAccessArrival (s : State) : Result :=
  accessStep (fun s p a => if a.phase = .transit ∧ isStream a.op = false then putAccess s p { a with phase := .waiting } else s) s

def execStoreBufferIssue (s : State) : Result := accessStep tryIssue s

def execAccessPerformed (s : State) : Result :=
  accessStep (fun s p a => if isStream a.op then s
    else
      let s := abandonLines s p a
      match accessAt s p a.id with
      | some a => performAccess s p a
      | none => s) s

/-- A stream access is performed (R229); the station's next access may then issue. -/
def execStreamAccessPerformed (s : State) : Result :=
  accessStep (fun s p a => if isStream a.op then kickStreams (performAccess s p a) p else s) s

/-- An access whose translation is under way, taken out of the walker (R462). -/
def Access.unask (a : Access) : Access :=
  match a.phase with
  | .translating _ => { a with phase := .translating false }
  | _ => a

/-- The walker's answer to an access (R230). -/
def returnAccess (s : State) (p id : Nat) (x : Returned) : State :=
  match accessAt s p id with
  | none => s
  | some a =>
    if (ctxAt s a.block.ctx).phase ≠ .running then putAccess s p a.unask
    else match x.result with
      | .leaf l => resume (setStationEntry s p a.block a.set.slot l) p a.id
      | .fault e =>
        match a.parts.findIdx? (fun y => y.ea == x.va) with
        | some i => resume (putAccess s p (failPart a i e)) p a.id
        | none => s

/-- The walker's answer `x` of plot `p` reaches who asked (R230, R454). While the context is being stopped it leaves nothing at a
station, and a fault is not delivered: the access translates again on restore (R462). -/
def walkReturn (s : State) (p : Nat) (x : Returned) : State :=
  let s := modWalker s p (fun w => { w with returned := w.returned.erase x })
  match x.who with
  | .access id => returnAccess s p id x
  | who =>
    if (ctxAt s x.ctx).phase ≠ .running ∧ who ≠ .queue then s
    else match x.result, who with
      | .leaf l, .station b slot => setStationEntry s p b slot l
      | .leaf _, _ => s
      | .fault _, _ => modWalker s p (fun w => { w with failed := who :: w.failed.filter (fun y => y != who) })

def execWalkReturn (s : State) : Result :=
  match s.cur with
  | .at p n _ _ =>
    let s := { s with cur := .idle }
    match (plotAt s p).walker.returned[n]? with
    | some x => .next (walkReturn s p x)
    | none => .next s
  | _ => .next s

/-- A station that found the walker's queue full asks again (R455), after a wait that is left out (assumption 2). -/
def execWalkerQueueRetry (s : State) : Result :=
  accessStep (fun s p a =>
    if a.phase = .translating false ∧ (ctxAt s a.block.ctx).phase = .running then advance s p a.id else s) s

/-! ### The banks of a plot store (R266 to R268) -/

/-- The reads that a bank's broadcast serves: of one word, with no write to it ahead. -/
def broadcast (w : Nat) : List BankReq → List BankReq
  | [] => []
  | q :: l => if q.word = w then (if q.write || q.atomic then [] else q :: broadcast w l) else broadcast w l

/-- One word served by bank `b` of a store. -/
def serveBank (s : State) (store b : Nat) : State :=
  match bankQueue s store b with
  | [] => s
  | q :: l =>
    if q.atomic || !bankMay s store b q then s
    else serveWords s store b q.word (if q.write then [q] else broadcast q.word ((q :: l).filter (fun x => decide (x.cycle < s.cycles))))

/-- Bank `n` of plot store `p` serves one word (R267). -/
def execWordServe (s : State) : Result :=
  match s.cur with
  | .at p n _ _ => .next (serveBank { s with cur := .idle } p n)
  | _ => .next s

/-! ### The instructions -/

def execLd (h : Head) (m : MemXf) (s : State) : Result := fireAccess h .ld 0 m s
def execSt (h : Head) (m : MemXf) (s : State) : Result := fireAccess h .st 0 m s
def execLds (h : Head) (m : MemXf) (s : State) : Result := fireAccess h .lds 0 m s
def execStf (h : Head) (m : MemXf) (s : State) : Result := fireAccess h .stf 0 m s
def execClre (h : Head) (m : MemXf) (s : State) : Result := fireAccess h .clre 0 m s
def execMnop (h : Head) (m : MemXf) (s : State) : Result := fireAccess h .mnop 0 m s
def execFence (h : Head) (m : MemXf) (s : State) : Result := fireAccess h .fence 0 m s
def execAtom (h : Head) (m : MemXf) (s : State) : Result := fireAccess h .atom 0 m s
def execRed (h : Head) (m : MemXf) (s : State) : Result := fireAccess h .red 0 m s
def execPref (h : Head) (m : MemXf) (s : State) : Result := fireAccess h .pref 0 m s
def execCctl (h : Head) (m : MemXf) (s : State) : Result := fireAccess h .cctl 0 m s
def execLdg (h : Head) (m : MemXf) (s : State) : Result := fireAccess h .ldg 0 m s
def execSts (h : Head) (m : MemXf) (s : State) : Result := fireAccess h .sts 0 m s

/-- `strl` (R228): FT stands in the access's XF with ROW = 1, and LEN − 1 beside the extent with ROW = 0. -/
def execStrl (h : Head) (row : Bool) (lenM1 : BitVec 3) (ft : BitVec 5) (cp : CachePol) (done : Bool) (scope : Scope)
    (s : State) : Result :=
  if row then fireAccess h .strlRow ft (MemXf.mk (ft.extractLsb' 0 4) (ft.getLsbD 4) cp done scope .plain) s
  else fireAccess h .strl (lenM1.setWidth 5) (plainXf cp done scope) s

def execStrs (h : Head) (cp : CachePol) (done : Bool) (scope : Scope) (s : State) : Result :=
  fireAccess h .strs 0 (plainXf cp done scope) s

/-- `wadv` (R202): the token goes on with the next wave. -/
def wadvResult (c : FireCtx) : Except FaultInfo (List Send) :=
  .ok (sendEach c.head (Token.mk { c.env with wave := c.env.wave + 1 } (passed c 0)))

def execWadv (h : Head) (s : State) : Result := throughPort s (fire h wadvResult s)

end Sys2Proof.Machine
end

