-- ==== Sys2Proof/Machine/Requests.lean ====
section
/-! DEFINITION. The requests that engines make at the memory system (R247, R256, R260, R266, R282): cut at lines and words, sent to
their homes, banks and peers, and looked at again by the engine that made them; and the coherent writes that a unit of the
device makes in one step (assumption 13). -/
namespace Sys2Proof.Machine

/-! ### Writes in one step -/

/-- A unit's write with its words set full and their waiters let go (R210, R247, R282). -/
def fullStore (s : State) (a n v : Nat) : State := wakeRange (engineStore s a n v) a n

/-! ### Cutting a range -/

/-- Bytes at a physical address cut at every multiple of `u`, with their virtual addresses; `fuel` bounds the pieces. -/
def cutRange (u : Nat) : Nat → Word → Nat → Nat → List (Word × Nat × Nat)
  | 0, _, _, _ => []
  | fuel + 1, va, pa, n =>
    if n = 0 then []
    else
      let k := min n (u - pa % u)
      (va, pa, k) :: cutRange u fuel (va + BitVec.ofNat 64 k) (pa + k) (n - k)

/-- What one request covers at an address: a word of a plot store, a line anywhere else (R247, R266). -/
def requestSize (pa : Nat) : Nat := if rangeOf pa = .window then 16 else 64

/-- The requests that cover a range of bytes at a physical address. -/
def cutPhysical (va : Word) (pa n : Nat) : List (Word × Nat × Nat) := cutRange (requestSize pa) (n / requestSize pa + 2) va pa n

/-- The requests that cover a range of virtual addresses, every page of it translated, lowest first (R282). A peer that no port leads
to fails its page (R482). -/
def enginePieces (s : State) (p : Nat) (c : BitVec 12) (va : Word) (n : Nat) (need : Need) :
    Except FaultInfo (State × List (Word × Nat × Nat)) :=
  (pagesOf va n).foldlM (fun x a => do
    let (s, pa, l) ← engineTranslate x.1 p c a need
    let k := min (4096 - a.toNat % 4096) (n - (a - va).toNat)
    if rangeOf pa = .peer ∧ (portFor s (peerId pa) (peerOffset pa)).isNone = true then .error (faultAt causeTrPeer (leafLevel l) a)
    else .ok (s, x.2 ++ cutPhysical a pa k)) (s, [])

/-- Every request of a list that goes to a peer can be sent now (R482, R484). -/
def piecesReady (s : State) (l : List (Word × Nat × Nat)) : Bool :=
  l.all (fun x => rangeOf x.2.1 != .peer ||
    (peerReady s x.2.1 && s.streams.all (fun y => y.peer != peerId x.2.1 || decide (y.out.length + l.length ≤ 256))))

/-! ### Sending -/

/-- The write of a request, for its bank. -/
def engWrites (a : EngAct) : Bool :=
  match a with
  | .write _ | .hostWrite _ _ => true
  | .read | .hostRead _ => false
  | .ask q => q.kind == 1

/-- A peer's request that its atomic unit performs. -/
def engAtomic (a : EngAct) : Bool :=
  match a with
  | .ask q => decide (2 ≤ q.kind)
  | _ => false

/-- A request that only reads its line: a home read (R256). A host access is a home operation. -/
def engReads (a : EngAct) : Bool :=
  match a with
  | .read => true
  | .ask q => q.kind == 0
  | _ => false

/-- A request of an engine to a peer has failed (R20, R483, R486); one of a unit that waits for none is gone. -/
def failEng (s : State) (id : Nat) : State :=
  let s := { s with engReqs := s.engReqs.filter (fun q => q.id != id || q.owner != .unit) }
  modEng s id (fun q => { q with done := true, fault := some (faultAt causeTrPeer 0 q.va) })

/-- A request sent where it performs: to the home of its line, to its bank, to its peer (a write performed at device scope as it is
sent, R205), where a port leads to it (R482), or at once in the store of a headland, which has no banks (R16). -/
def routeEng (s : State) (q : EngReq) : State :=
  match rangeOf q.pa with
  | .hbm | .host => sendHome s q.plot (q.pa / 64) (if engReads q.act then .read (.eng q.id) else .op (.eng q.id))
  | .window => askBank s q.pa (.eng q.id) (engWrites q.act) (engAtomic q.act)
  | .peer =>
    (match portFor s (peerId q.pa) (peerOffset q.pa) with
    | some k =>
      if engWrites q.act then
        peerSend (modEng (dropPeer s q.ctx (fun l => l == q.pa / 64)) q.id (fun y => { y with done := true })) q.pa k (.eng q.id) true none
      else peerSend s q.pa k (.eng q.id) false none
    | none => failEng s q.id)
  | .unmapped => performEng s q.id

/-- A new request. -/
def newEng (s : State) (o : EngOwner) (p : Nat) (c : BitVec 12) (g : BitVec 3) (x : Word × Nat × Nat) (act : EngAct) : State :=
  let q := EngReq.mk s.nextId o p c g x.1 x.2.1 x.2.2 act false false none 0 (leafLookup s p c x.1)
  routeEng { s with nextId := s.nextId + 1, engReqs := s.engReqs ++ [q] } q

/-- Reads of the pieces of a range. -/
def requestReads (s : State) (o : EngOwner) (p : Nat) (c : BitVec 12) (g : BitVec 3) (l : List (Word × Nat × Nat)) : State :=
  l.foldl (fun s x => newEng s o p c g x .read) s

/-- Writes of a number to the pieces of a range, lowest bytes first. -/
def requestWrites : State → EngOwner → Nat → BitVec 12 → BitVec 3 → List (Word × Nat × Nat) → Nat → State
  | s, _, _, _, _, [], _ => s
  | s, o, p, c, g, x :: l, v =>
    requestWrites (newEng s o p c g x (.write (v % 256 ^ x.2.2))) o p c g l (v / 256 ^ x.2.2)

/-- A number written to the pieces of a range by a unit of the device, lowest bytes first: in one step, but for those that leave for a
peer (R260; assumption 13). -/
def writePieces (o : EngOwner) (p : Nat) (c : BitVec 12) : List (Word × Nat × Nat) → State → Nat → State
  | [], s, _ => s
  | x :: l, s, v =>
    let w := v % 256 ^ x.2.2
    let s := if rangeOf x.2.1 = .peer then newEng s o p c 0 x (.write w) else engineWrite s x.2.1 x.2.2 w
    writePieces o p c l s (v / 256 ^ x.2.2)

/-! ### Looking at them again -/

/-- Two owners are the same work, wherever it stands. -/
def sameOwner (a b : EngOwner) : Bool :=
  match a, b with
  | .copy i _, .copy j _ | .drain i _, .drain j _ | .gather i _, .gather j _ => i == j
  | a, b => a == b

/-- The requests of an owner that are still wanted. -/
def requestsOf (s : State) (o : EngOwner) : List EngReq := s.engReqs.filter (fun q => sameOwner q.owner o)

/-- Every request of an owner has been performed at device scope, or has failed. -/
def requestsDone (s : State) (o : EngOwner) : Bool := (requestsOf s o).all (fun q => q.done || q.fault.isSome)

/-- Every write of an owner has been performed at system scope: what remains is none. -/
def requestsSys (s : State) (o : EngOwner) : Bool := (requestsOf s o).isEmpty

/-- The fault that an owner's requests report: the lowest by address. -/
def requestFault (s : State) (o : EngOwner) : Option FaultInfo :=
  (requestsOf s o).foldl (fun m q => match q.fault with
    | some e => some (lowerFault m e)
    | none => m) none

/-- What an owner's reads have brought, lowest bytes first. -/
def requestData (s : State) (o : EngOwner) : Nat :=
  ((requestsOf s o).filter (fun q => q.act == .read)).foldr (fun q v => q.got + 256 ^ q.bytes * v) 0

/-- The state without an owner's reads, or without those that failed. -/
def dropReads (s : State) (o : EngOwner) : State := { s with engReqs := s.engReqs.filter (fun q => !(sameOwner q.owner o && q.act == .read)) }
def dropFailed (s : State) (o : EngOwner) : State := { s with engReqs := s.engReqs.filter (fun q => !(sameOwner q.owner o && q.fault.isSome)) }

/-! ### Virtual writes in one step -/

/-- `n` bytes at a virtual address written with their words set full, each page at the physical address that a translation of kind
`kind` gives; `fuel` bounds the pages. -/
def virtualWriteFrom (kind : Need) : Nat → State → Nat → BitVec 12 → Word → Nat → Nat → Except FaultInfo State
  | 0, s, _, _, _, _, _ => .ok s
  | fuel + 1, s, p, c, va, n, v =>
    if n = 0 then .ok s
    else do
      let k := min n (4096 - va.toNat % 4096)
      let (s, pa, _) ← engineTranslate s p c va kind
      virtualWriteFrom kind fuel (fullStore s pa k (v % 256 ^ k)) p c (va + BitVec.ofNat 64 k) (n - k) (v / 256 ^ k)

end Sys2Proof.Machine
end

