-- ==== Sys2Proof/Machine/BlockCheck.lean ====
section
/-! DEFINITION. The checks of a block at its load (R55 to R59, R63, R70): the header, the CRC, and each slot against the
rest of the block. What an instruction's own two words decide stands in WellFormed. -/
namespace Sys2Proof.Machine

/-! ### The header (R56) -/

def hdrVersion (h : Nat) : Nat := bitsOf h 120 8
def hdrNi (h : Nat) : Nat := bitsOf h 113 7 + 1
def hdrNcmp (h : Nat) : Nat := bitsOf h 106 7
def hdrNmem (h : Nat) : Nat := bitsOf h 101 5
def hdrNagn (h : Nat) : Nat := bitsOf h 96 5
def hdrNent (h : Nat) : Nat := bitsOf h 92 4 + 1
def hdrLoad (h : Nat) : BitVec 3 := BitVec.ofNat 3 (bitsOf h 89 3)
def hdrReserved (h : Nat) : Nat := bitsOf h 64 25
def hdrBid (h : Nat) : Nat := bitsOf h 32 32
def hdrCrc (h : Nat) : Nat := bitsOf h 0 32

/-! ### CRC-32 (R57) -/

/-- One bit of a reflected CRC-32 register shifted out. -/
def crcBit (c : BitVec 32) : BitVec 32 := if c.getLsbD 0 then (c >>> 1) ^^^ 0xEDB88320 else c >>> 1

/-- One byte taken in. -/
def crcByte (c : BitVec 32) (b : Nat) : BitVec 32 :=
  (List.range 8).foldl (fun c _ => crcBit c) (c ^^^ BitVec.ofNat 32 (b % 256))

/-- The register after `n` bytes of a little-endian number. -/
def crcRun : Nat → BitVec 32 → Nat → BitVec 32
  | 0, c, _ => c
  | n + 1, c, v => crcRun n (crcByte c v) (v / 256)

/-- The CRC-32 of `n` bytes (R57). -/
def crc32 (n v : Nat) : BitVec 32 := ~~~(crcRun n 0xFFFFFFFF v)

/-! ### The slots -/

/-- The instructions of an image: the two words of each slot, from the bytes after the header (R55). -/
def imageStations (ni v : Nat) : List Station :=
  (List.range ni).map (fun i => Station.mk (BitVec.ofNat 64 (v >>> (128 * i))) (BitVec.ofNat 64 (v >>> (128 * i + 64))))

/-- The word with the bits of XF of `op` that leave it an instruction, taken from the highest bit down; the base `w` has
none. -/
def keepXf (op cfg w : Word) : Word :=
  (List.range 16).foldl (fun a j =>
    let bit := (1 : Word) <<< (15 - j)
    if op &&& bit = 0 then a
    else match decode (a ||| bit) cfg with
      | .ok _ => a ||| bit
      | .error _ => a) w

/-- The instruction of two words, for its input ports; where a field other than OPC is what makes them none, the same opcode,
IM and PR with fields that decode (R63, R70). PR = 0b11 is not 0b00, so port 3 is then an input port. -/
def describe (st : Station) : Option Instr :=
  match decode st.op st.cfg with
  | .ok i => some i
  | .error (.opcode _) => none
  | .error _ =>
    let im : BitVec 3 := if (immOfCode (st.op.extractLsb' 48 3)).isSome then st.op.extractLsb' 48 3 else 0
    let pr : BitVec 2 := if st.op.extractLsb' 46 2 = 3 then 1 else st.op.extractLsb' 46 2
    let base := (st.op &&& 0xFF80_0000_0000_0000) ||| (im.setWidth 64 <<< 48) ||| (pr.setWidth 64 <<< 46)
    ((List.range 12).map (fun t => base ||| (BitVec.ofNat 64 t <<< 51))).findSome? (fun w =>
        match decode (keepXf st.op st.cfg w) st.cfg with
        | .ok i => some i
        | .error _ => none)

/-- A target of a slot is allowed by the block (R61, R63, R167): its slot and port are input ports that receive tokens,
or, for rows, a row port. -/
def targetFits (ws : List Station) (rows : Bool) (t : Target) : Bool :=
  match ws[t.slot.toNat]? with
  | none => false
  | some st =>
    match describe st with
    | none => false
    | some i =>
      match head? i, info i with
      | some h, some f => (tokenPorts h f).contains t.port.toNat && (!rows || (hasRowPort i && t.port == 0))
      | _, _ => false

/-- Every target field of an instruction is allowed by the block. -/
def targetsFit (ws : List Station) (h : Head) (f : Info) : Bool :=
  let one := fun (u : TargetUse) (t : Option Target) => match t with
    | some t => targetFits ws (u == .row) t
    | none => true
  one f.t0 h.t0 && one f.t1 h.t1 && one f.t2 h.t2

/-- A slot of the block names a counter chain (R219, R325). -/
def isChain (ws : List Station) (slot : BitVec 7) : Bool :=
  match (ws[slot.toNat]?).bind describe with
  | some (.cnt _ _ _ _) => true
  | some (.cchn _ _ _ _) => true
  | _ => false

/-- An instruction of the matrix chapters, which a headland tile has no place for (R16, R301, R324). -/
def isMatrix : Instr → Bool
  | .mwld _ _ | .mwsw _ _ | .mma _ _ _ | .mgat _ _ | .mrep _ _ | .mfil _ | .mclr _ _ | .mwr _ _ _ | .mchk _ _
  | .mdrn _ _ _ _ _ _ _ | .mst _ _ _ _ _ | .mloc _ | .mfix _ | .mrty _ | .mrd _ _ | .mtol _ _ => true
  | _ => false

/-- What the descriptions of single instructions require of the rest of the block (R108, R116, R219, R301, R325). -/
def blockLimits (ws : List Station) (nent : Nat) (onHeadland : Bool) (slot : Nat) (i : Instr) : Bool :=
  let before := (ws.take slot).filterMap describe
  (!onHeadland || !isMatrix i) &&
    (match i with
    | .call h _ _ => decide (bitsOf h.cfg.toNat 44 4 < nent)
    | .argwr h => !onHeadland && (match (ws[(h.cfg.extractLsb' 0 7).toNat]?).bind describe with
      | some d => (head? d).any (fun x => x.im != .none)
      | none => false)
    | .cnrd h | .cnwr h _ => isChain ws (h.cfg.extractLsb' 0 7)
    | .mclr h _ =>
      (!h.cfg.getLsbD 7 || isChain ws (h.cfg.extractLsb' 0 7)) &&
        (!h.cfg.getLsbD 15 || isChain ws (h.cfg.extractLsb' 8 7)) &&
        (!h.cfg.getLsbD 23 || isChain ws (h.cfg.extractLsb' 16 7))
    | .mwld _ ws' => before.all (fun d => match d with
      | .mwld _ w => w != ws'
      | _ => true)
    | .mma _ _ a => before.all (fun d => match d with
      | .mma _ _ b => b != a
      | _ => true)
    | _ => true)

/-- A class's count among the slots up to and with one does not pass the header's (R58). -/
def classFits (ws : List Station) (h : Nat) (slot : Nat) (cls : PeClass) : Bool :=
  let n := (ws.take (slot + 1)).countP (fun st => stationClass st == some cls)
  match cls with
  | .compute => decide (n ≤ hdrNcmp h)
  | .memory => decide (n ≤ hdrNmem h)
  | .agen => decide (n ≤ hdrNagn h)

/-- A slot passes step 5 of R70. -/
def slotFits (ws : List Station) (h : Nat) (onHeadland : Bool) (slot : Nat) : Bool :=
  match ws[slot]? with
  | none => false
  | some st =>
    match decode st.op st.cfg with
    | .error _ => false
    | .ok i =>
      match head? i, info i with
      | some hd, some f => wellFormed i && classFits ws h slot f.cls && targetsFit ws hd f &&
          blockLimits ws (hdrNent h) onHeadland slot i
      | _, _ => false

/-- The header passes steps 1 to 3 of R70. -/
def headerSound (h : Nat) : Bool :=
  let ni := hdrNi h
  decide (hdrVersion h = 1) && decide (hdrReserved h = 0) && decide (hdrNcmp h ≤ 96) && decide (hdrNmem h ≤ 16) &&
    decide (hdrNagn h ≤ 16) && decide (hdrNent h ≤ ni) && decide (hdrNcmp h + hdrNmem h + hdrNagn h = ni)

/-- The slot that R70 reports for an image, if any check fails: the header `h` and the number in its instruction
bytes. -/
def imageFault (h v : Nat) (onHeadland : Bool) : Option (BitVec 8) :=
  let ni := hdrNi h
  if headerSound h = false then some 0x80
  else if (crc32 (16 * ni) v).toNat ≠ hdrCrc h then some 0x80
  else
    let ws := imageStations ni v
    ((List.range ni).find? (fun i => !slotFits ws h onHeadland i)).map (BitVec.ofNat 8)

end Sys2Proof.Machine
end

