-- ==== Sys2Proof/Machine/Blocks.lean ====
section
/-! DEFINITION. The block (07_block.md) and tokens between blocks (04_token.md R89 to R94, R105 to R109): arrival at
stations and entry buffers, spilling, block loads, eviction, migration, and `exit`, `call` and `ret`. -/
namespace Sys2Proof.Machine

/-! ### Tiles -/

/-- A copy that a tile holds (R171, R183). -/
def holdsTile (t : Nat) (c : Copy) : Bool := c.phase != .absent && (c.tile == t || c.newTile == some t)

/-- The tile holds no block copy, and its furrow is not GUARDED (R477). -/
def tileFree (s : State) (p t : Nat) : Bool :=
  !((plotAt s p).blocks.copies.any (holdsTile t)) && !(furrowAt s (furrowOf p t)).guarded

/-- The free tiles of a plot, lowest first. -/
def freeTiles (s : State) (p : Nat) : List Nat := (List.range (tileCount p)).filter (tileFree s p)

/-- The score of a tile for a load class (R181). The model's choice (assumption 46): R181 does not say which tile holds a copy that
is on its way; a copy counts on the tile it fires on, and one that is LOADING on none. -/
def tileScore (s : State) (p t : Nat) (load : BitVec 3) : Nat :=
  (List.range 4).countP (fun i =>
    4 * (t / 4) + i != t && (plotAt s p).blocks.copies.any (fun c =>
      c.phase != .absent && c.phase != .loading && firingTile c == 4 * (t / 4) + i && c.load == load))

/-- The first of the tiles with the highest score (R181). -/
def bestTile (s : State) (p : Nat) (load : BitVec 3) (ts : List Nat) : Option Nat :=
  ts.foldl (fun m t => match m with
    | none => some t
    | some b => if tileScore s p b load < tileScore s p t load then some t else some b) none

/-! ### Spilling (R92, R178, R422) -/

/-- The numbers of a copy's items in the spill area: entry tokens, waiting tokens, and tokens of complete sets. -/
def spillNumbers (k : Copy) : List Nat :=
  k.spilled.map (fun e => e.seq) ++ k.waiting.filterMap (fun w => w.spilled) ++ k.ready.flatMap (fun m => m.spills)

/-- Items of a context in the spill area below the reserve: tokens, port messages and counters (R422, R423). -/
def spilledItems (s : State) (c : BitVec 12) : Nat :=
  (s.plots.map (fun x =>
    (x.blocks.copies.map (fun k =>
      if k.id.ctx = c then (spillNumbers k).countP (fun n => !k.reserved.contains n) else 0)).sum +
    (x.unit.groups.map (fun o => match o with
      | some g => if g.ctx = c then (g.portSpill.map List.length).sum else 0
      | none => 0)).sum +
    x.unit.channels.countP (fun k => k.ctx == c && k.spilled) +
    x.unit.barWaiters.countP (fun w => w.held.block.ctx == c && w.spilled.isSome))).sum

/-- Bytes that the override tables of a context's objects take (R423). -/
def overrideBytes (x : Ctx) : Nat := (x.objects.map (fun o => o.tableBytes)).sum

/-- Bytes below the reserve (R422). -/
def spillRoom (x : Ctx) : Nat := x.regs.spsize.toNat - 0x1000_0000

/-- After a spill: one outside pre-emption that found no room below the reserve makes a forced request with SPX (R93,
R422). The item is kept in either case. -/
def afterSpill (s : State) (c : BitVec 12) : State :=
  let x := ctxAt s c
  if x.phase = .running ∧ spillRoom x < overrideBytes x + spilledItems s c * Config.spillItem then
    requestStop s c flagSpx causeDeadline false false
  else s

/-! ### Arrival at a station (R89 to R92) -/

/-- The copy's station on a PE. -/
def onPe (c : Copy) (pe : Nat) (slot : BitVec 7) : Bool := peOf c.stations slot.toNat == some pe

/-- Matching-store entries of a PE in use (R91): waiting tokens, sets not started, and waiting `ctkw` and `bar` sets (R235,
R354). -/
def storeUsed (s : State) (p : Nat) (c : Copy) (pe : Nat) : Nat :=
  c.waiting.countP (fun w => w.spilled.isNone && onPe c pe w.slot) +
  ((c.ready.filter (fun m => onPe c pe m.slot)).map (fun m => m.entries)).sum +
  ((plotAt s p).unit.channels.map (fun k => k.waiters.countP (fun w => w.held.block == c.id && onPe c pe w.held.set.slot))).sum +
  (plotAt s p).unit.barWaiters.countP (fun w => w.spilled.isNone && w.held.block == c.id && onPe c pe w.held.set.slot)

/-- The PE of a slot has a free entry. -/
def storeRoom (s : State) (p : Nat) (c : Copy) (slot : BitVec 7) : Bool :=
  match peOf c.stations slot.toNat with
  | some pe => decide (storeUsed s p c pe < 256)
  | none => true

/-- The earliest token waiting at a port of a slot under a key (R90). -/
def earliest (c : Copy) (slot : BitVec 7) (port : Nat) (k : Key) : Option Waiting :=
  c.waiting.find? (fun w => w.slot == slot && w.port.toNat == port && keyOf w.tok.env == k)

/-- The tokens of the other ports of a set, none where one is missing. -/
def gatherSet (c : Copy) (slot : BitVec 7) (k : Key) : List Nat → Option (List Waiting)
  | [] => some []
  | q :: qs =>
    match earliest c slot q k, gatherSet c slot k qs with
    | some w, some ws => some (w :: ws)
    | _, _ => none

/-- A spill of a copy at pre-emption goes to the reserve: its number is noted (R422). -/
def noteReserve (s : State) (b : BlockId) (n : Nat) (c : Copy) : Copy :=
  if (ctxAt s b.ctx).phase = .running then c else { c with reserved := n :: c.reserved }

/-- A set that is about to hold its tokens waits unfired (R114, R115, R222): at a `reord` whose turn it is not or where an
earlier set of its thread waits, at a `join` that lacks a thread, at a chain that is not IDLE or that an earlier start
waits for. -/
def waitsTurn (s : State) (p : Nat) (c : Copy) (slot : BitVec 7) (e : Envelope) (i : Instr) : Bool :=
  match i with
  | .reord _ => turnOf s p c.id slot e != e.thread.toNat ||
      c.ready.any (fun m => sameTurn slot e m && (envOf m.toks).thread == e.thread)
  | .join _ _ => !((List.range (groupThreads s p e.gslot)).all (fun n => n == e.thread.toNat ||
      c.ready.any (fun m => sameTurn slot e m && (envOf m.toks).thread.toNat == n)))
  | .cnt _ _ _ _ | .cchn _ _ _ _ => (chainAt s p c.id slot).state != .idle || c.ready.any (fun m => m.slot == slot)
  | _ => false

/-- The overflow area takes a token of a copy (R92): event 0x08, and the request of R93 where it finds no room. -/
def overflowAt (s : State) (p : Nat) (c : Copy) : State := afterSpill (countEvent s p 0x08 (some c.id.ctx) 1) c.id.ctx

/-- A token that completes no set waits in the store, or in the overflow area where the store is full (R91, R92). -/
def waitAt (s : State) (p : Nat) (c : Copy) (slot : BitVec 7) (port : BitVec 2) (t : Token) : State :=
  if storeRoom s p c slot then modCopy s p c.id (fun x => { x with waiting := x.waiting ++ [Waiting.mk slot port t none] })
  else
    overflowAt { modCopy s p c.id (fun x => { x with waiting := x.waiting ++ [Waiting.mk slot port t (some s.nextId)] }) with
      nextId := s.nextId + 1 } p c

/-- A set complete at a station, or one that waits there unfired with its last token in the store or the overflow area
(R91, R92). -/
def completeAt (s : State) (p : Nat) (c : Copy) (slot : BitVec 7) (port : BitVec 2) (t : Token) (ws : List Waiting)
    (i : Instr) : State :=
  let toks := ((port, t) :: ws.map (fun w => (w.port, w.tok))).mergeSort (fun a b => decide (a.1.toNat ≤ b.1.toNat))
  let held := ws.countP (fun w => w.spilled.isNone)
  let spills := ws.filterMap (fun w => w.spilled)
  let waits := waitsTurn s p c slot t.env i
  let room := storeRoom s p c slot
  let m := MatchedSet.mk slot toks (if waits && room then held + 1 else held) (if waits && !room then spills ++ [s.nextId] else spills)
  let s := modCopy s p c.id (fun x =>
    let x := { x with waiting := ws.foldl (fun l w => l.erase w) x.waiting, ready := x.ready ++ [m] }
    match i with
    | .join _ _ => requeue x (sameTurn slot t.env)
    | _ => x)
  if waits && !room then overflowAt { s with nextId := s.nextId + 1 } p c else s

/-- A station has tokens in the overflow area (R92): tokens that wait there for others, tokens of sets that wait unfired, or waiting
`bar` sets. -/
def hasOverflow (s : State) (p : Nat) (c : Copy) (slot : BitVec 7) : Bool :=
  c.waiting.any (fun w => w.slot == slot && w.spilled.isSome) || c.ready.any (fun m => m.slot == slot && !m.spills.isEmpty) ||
    (plotAt s p).unit.barWaiters.any (fun w => w.held.block == c.id && w.held.set.slot == slot && w.spilled.isSome)

/-- A fault of a token that no set holds: it is kept, or stays where it is if no cause slot is free. -/
def tokenFault (s : State) (p : Nat) (b : BlockId) (slot : BitVec 7) (port : BitVec 2) (t : Token) (cause : BitVec 8)
    (named : BitVec 8) : State × Bool :=
  deliverFault s p t.env.gslot (causeOnly cause) named b t.env (.entry b (EntryToken.mk slot port t s.nextId))

/-- A token reaches a station of a copy that takes tokens (R89, R90, R92). A token that reaches a row port faults
(R295), and one that reaches a credit port is counted, or waits until it can be (R223, R310). -/
def arriveAt (s : State) (p : Nat) (c : Copy) (slot : BitVec 7) (port : BitVec 2) (t : Token) : State :=
  let s := modCopy s p c.id (fun x => { x with idle := 0 })
  match stationInstr c slot with
  | .error _ => waitAt s p c slot port t
  | .ok i =>
    if hasRowPort i && port == 0 then
      let (s', taken) := tokenFault s p c.id slot port t causeFormat (0#1 ++ slot)
      if taken then s' else waitAt s' p c slot port t
    else if creditPort i = some port.toNat then (countAtOnce s p c slot i t.env).getD (waitAt s p c slot port t)
    else if ¬ (matchPorts i).contains port.toNat then waitAt s p c slot port t
    else
      let s := if hasOverflow s p c slot then countEvent s p 0x09 (some c.id.ctx) 1 else s
      match gatherSet c slot (keyOf t.env) ((matchPorts i).filter (fun q => q != port.toNat)) with
      | some ws => completeAt s p c slot port t ws i
      | none => waitAt s p c slot port t

/-! ### Arrival at a block (R174, R178) -/

/-- A copy that a plot has not tracked before. -/
def newCopy (b : BlockId) : Copy where
  id := b
  phase := .absent
  tile := 0
  newTile := none
  switched := false
  stations := []
  nent := 0
  load := 0
  buffer := []
  spilled := []
  waiting := []
  ready := []
  reserved := []
  idle := 0
  evictFor := 0
  sinceMove := 4096

/-- The state with a copy of a block tracked. -/
def trackCopy (s : State) (p : Nat) (b : BlockId) : State :=
  if (copyOf s p b).isSome then s else modBlocks s p (fun u => { u with copies := u.copies ++ [newCopy b] })

/-- The slot that R70 named for a rejected block (R176). -/
def rejectedSlot (s : State) (b : BlockId) : Option (BitVec 8) :=
  ((ctxAt s b.ctx).rejected.find? (fun r => r.block == b)).map (fun r => r.slot)

/-- A token to an entry buffer, or to the spill area where the buffer holds 64 (R178). -/
def bufferEntry (s : State) (p : Nat) (b : BlockId) (e : EntryToken) : State :=
  let full := (copyOf s p b).any (fun c => decide (64 ≤ c.buffer.length))
  let s := { s with nextId := s.nextId + 1 }
  if full then
    afterSpill (countEvent (modCopy s p b (fun c => noteReserve s b e.seq { c with spilled := c.spilled ++ [e] })) p 0x07 (some b.ctx) 1) b.ctx
  else countEvent (modCopy s p b (fun c => { c with buffer := c.buffer ++ [e] })) p 0x06 (some b.ctx) 1

/-- An entry token of a rejected block faults its sending group (R176). -/
def rejectEntry (s : State) (p : Nat) (b : BlockId) (slot : BitVec 8) (e : EntryToken) : State × Bool :=
  tokenFault s p b e.slot e.port e.tok causeBadOpcode slot

/-- The last word of a token's payload reaches its destination (R88, R89, R174). A copy that is still RESIDENT on this plot
when its block is marked rejected goes on taking tokens: R174 gives RESIDENT no way out by the mark (assumption 46). A token to a station of a copy that is not on its tile goes to the spill
area. -/
def arrive (s : State) (f : Flight) : State :=
  let p := f.dest.plot
  let b := f.dest.block
  let e := EntryToken.mk f.dest.slot f.dest.port f.tok s.nextId
  match copyOf s p b with
  | some c =>
    if copyLive c then arriveAt s p c f.dest.slot f.dest.port f.tok
    else if isEntry f then
      match rejectedSlot s b with
      | some n =>
        let (s', taken) := rejectEntry s p b n e
        if taken then s' else bufferEntry s' p b e
      | none => bufferEntry s p b e
    else
      afterSpill { modCopy s p b (fun c => noteReserve s b s.nextId
        { c with waiting := c.waiting ++ [Waiting.mk f.dest.slot f.dest.port f.tok (some s.nextId)] }) with nextId := s.nextId + 1 } b.ctx
  | none =>
    let s := trackCopy s p b
    match rejectedSlot s b with
    | some n =>
      let (s', taken) := rejectEntry s p b n e
      if taken then s' else bufferEntry s' p b e
    | none => bufferEntry s p b e

/-- The edge port of a tile that a token in flight arrives at, if it comes to one: the tile and the port (R471). -/
def flightEdge (s : State) (f : Flight) : Option (Nat × Nat) :=
  match f.edge, (copyOf s f.dest.plot f.dest.block).filter copyLive with
  | .entry, some c => some (firingTile c, 0)
  | .dispatch, some c => some (firingTile c, 1)
  | .back, some c => some (firingTile c, 2)
  | _, _ => none

/-- Two tokens in flight are one return on its way to several targets. -/
def sameReturn (f g : Flight) : Bool :=
  f.edge == .back && g.edge == .back && g.tok == f.tok && g.dest.plot == f.dest.plot && g.dest.block == f.dest.block

/-- Token `n` of those in flight waits at the edge port whose meter refuses it, and counts event 0x1A once (R471), also where it is
sent to several targets. -/
def refuseFlight (s : State) (n : Nat) (f : Flight) : State :=
  if f.refused then s
  else countEvent { s with flights := (s.flights.set n { f with refused := true }).map (fun g =>
    if sameReturn f g then { g with refused := true } else g) } f.dest.plot 0x1A (some f.dest.block.ctx) 1

/-- Token `n` of those in flight arrives (R94), unless a meter refuses it (R471). -/
def landFlight (s : State) (n : Nat) (f : Flight) : State :=
  let take := fun (s : State) => arrive { s with flights := s.flights.eraseIdx n } f
  match flightEdge s f with
  | none => take s
  | some (t, k) => if meterOpen s f.dest.plot t k then take (passEdge s f.dest.plot t k) else refuseFlight s n f

/-- The token `n` of those in flight arrives (R94). -/
def execTokenArrival (s : State) : Result :=
  match s.cur with
  | .at _ n _ _ =>
    let s := { s with cur := .idle }
    match s.flights[n]? with
    | some f => .next (landFlight s n f)
    | none => .next s
  | _ => .next s

/-- The tokens in the overflow area for a PE, by the order in which they were written out: tokens that wait for others, those
of sets that wait unfired, and waiting `bar` sets (R92, R114, R115, R222, R354). -/
def overflowed (s : State) (p : Nat) (c : Copy) (pe : Nat) : List Nat :=
  (c.waiting.filter (fun w => onPe c pe w.slot)).filterMap (fun w => w.spilled) ++
    (c.ready.filter (fun m => onPe c pe m.slot)).flatMap (fun m => m.spills) ++
    ((plotAt s p).unit.barWaiters.filter (fun w => w.held.block == c.id && onPe c pe w.held.set.slot)).filterMap (fun w => w.spilled)

/-- The token written out earliest returns to the store (R92). -/
def returnSpilled (s : State) (p : Nat) (c : Copy) (pe : Nat) : State :=
  match (overflowed s p c pe).min? with
  | none => s
  | some n =>
    let s := modCopy s p c.id (fun x => { x with
      reserved := x.reserved.erase n
      waiting := x.waiting.map (fun w => if w.spilled = some n then { w with spilled := none } else w)
      ready := x.ready.map (fun m => if m.spills.contains n then { m with entries := m.entries + 1, spills := m.spills.erase n } else m) })
    modUnit s p (fun u => { u with barWaiters := u.barWaiters.map (fun w => if w.spilled = some n then { w with spilled := none } else w) })

/-- On tile `n` of plot `p`, PE `m` has an entry free (R92). -/
def execOverflowReturn (s : State) : Result :=
  match s.cur with
  | .at p n m _ =>
    let s := { s with cur := .idle }
    match copyOnTile s p n with
    | some c => if storeUsed s p c m < 256 then .next (returnSpilled s p c m) else .next s
    | none => .next s
  | _ => .next s

/-! ### The load image (R106, R175, R389, R390) -/

/-- A block in the load image: the address of its header, and the header. -/
structure ImageBlock where
  addr : Word
  header : Nat
  deriving DecidableEq, Repr

/-- The block count of an object, where the plot keeps it (R106). -/
def knownBlocks (s : State) (p : Nat) (b : BlockId) : Option Nat :=
  ((plotAt s p).blocks.counts.find? (fun x => x.ctx == b.ctx && x.obj == b.obj)).map (fun x => x.blocks)

/-- The block counts of a plot without that of an object. -/
def dropCount (c : BitVec 12) (obj : Word) (l : List BlockCount) : List BlockCount := l.filter (fun x => !(x.ctx == c && x.obj == obj))

/-- The block count of an object kept by a plot that runs it (R106). -/
def keepCount (s : State) (p : Nat) (b : BlockId) (n : Nat) : State :=
  modBlocks s p (fun u => { u with counts := BlockCount.mk b.ctx b.obj n :: dropCount b.ctx b.obj u.counts })

/-- The header of a block in the load image of an object, read with `read`; none where the image names no such block or lacks its
MAGIC. The plot keeps the block count that it reads. -/
def imageBlockBy {ε : Type} (read : State → Word → Nat → Except ε (State × Nat)) (s : State) (p : Nat) (b : BlockId) :
    Except ε (State × Option ImageBlock) := do
  let at_ := fun (s : State) (o n : Nat) => read s (b.obj + BitVec.ofNat 64 o) n
  let (s, magic) ← at_ s 0 4
  if magic ≠ 0x5A4B4F31 then .ok (s, none)
  else
    let (s, dir) ← at_ s 68 12
    let nblk := bitsOf dir 0 32
    let ofs := bitsOf dir 32 64
    let s := keepCount s p b nblk
    if nblk ≤ b.bid.toNat then .ok (s, none)
    else
      let (s, bo) ← at_ s (ofs + 4 * b.bid.toNat) 4
      let (s, h) ← at_ s (ofs + bo) 16
      .ok (s, some (ImageBlock.mk (b.obj + BitVec.ofNat 64 (ofs + bo)) h))

/-- The header of a block in the load image, read at the homes of its lines. -/
def imageBlock (s : State) (p : Nat) (b : BlockId) : Except FaultInfo (State × Option ImageBlock) :=
  imageBlockBy (fun s va n => virtualRead s p b.ctx .fetch va n) s p b

/-! ### Reads of a block load through the L1 (R175, R251) -/

/-- A line at rest read into the L1 of plot `p` as a GETS at its home leaves it (R251, R252); none where its owner is writing it
back. -/
def shareLine (s : State) (p line : Nat) : Option State :=
  let d := cohLine s line
  let e := dirAt s line
  let add := fun (s : State) (st : L1State) => addLine s p false (L1Line.mk line st d false [])
  match e.st with
  | .i => some (add (setDir s { e with st := .em, owner := p, sharers := [] }) .e)
  | .s => some (add (setDir s { e with sharers := p :: e.sharers }) .s)
  | .em =>
    if (l1At s e.owner line).any (fun x => x.st == .e || x.st == .m) then
      let s := setLineState s e.owner line (fun x => { x with st := .s })
      some (add { setDir s { e with st := .s, owner := 0, sharers := [p, e.owner] } with mem := s.mem.setLine line d } .s)
    else none
  | _ => none

/-- The line that holds a physical address as an ordinary read of a plot finds it, and its bytes: in the L1, or missed (event 0x15)
and brought in; at its home where its page has no L1 copies (R208, R447). None while the line is on its way or not at rest. -/
def lineThroughL1 (s : State) (p : Nat) (c : BitVec 12) (kind : PageKind) (pa : Nat) : Option (State × LineData) :=
  let line := pa / 64
  match kind with
  | .coherent =>
    (match l1At s p line with
    | some x => if x.st = .s ∨ x.st = .e ∨ x.st = .m ∨ x.st = .smD then some (touchLine s p false false line, x.data) else none
    | none =>
      if quiet s line then
        ((makeWay s p line).bind (fun s => shareLine s p line)).map (fun t => (countEvent t p 0x15 (some c) 1, cohLine s line))
      else none)
  | .replicated =>
    (match repAt s p line with
    | some x => if x.st = .s then some (touchLine s p false true line, x.data) else none
    | none => (makeWay s p line).map (fun t =>
        (countEvent (addLine t p false (L1Line.mk line .s (cohLine s line) true [])) p 0x15 (some c) 1, cohLine s line)))
  | _ => some (s, BitVec.ofNat 512 (engineRead s (64 * line) 64))

/-- What a read through the L1 waits for: a line that has still to come, or the walk for an address (R454); or the fault that ends it,
with what has been read and walked by then. -/
inductive ReadStop where
  | line
  | walk (va : Word)
  | fault (s : State) (e : FaultInfo)
  deriving DecidableEq, Repr

/-- `n` bytes at a virtual address, read line by line through the L1 of plot `p` for a block load (R175); `fuel` bounds the lines. With
`now` the pages are walked in the same step, and else the block scheduler waits for its plot's walker (R454). -/
def loadRead (now : Bool) : Nat → State → Nat → BitVec 12 → Word → Nat → Except ReadStop (State × Nat)
  | 0, s, _, _, _, _ => .ok (s, 0)
  | fuel + 1, s, p, c, va, n =>
    if n = 0 then .ok (s, 0)
    else if !now && !resolved s p c .fetch va then .error (.walk va)
    else
      let k := min n (64 - va.toNat % 64)
      match engineTranslate s p c va .fetch with
      | .error e => .error (.fault (walked s p c .fetch [va]) e)
      | .ok (s, pa, l) =>
        match lineThroughL1 s p c (pageKind p l.pte pa) pa with
        | none => .error .line
        | some (s, d) => do
          let (s, w) ← loadRead now fuel s p c (va + BitVec.ofNat 64 k) (n - k)
          .ok (s, lineGet d (pa % 64) k + 256 ^ k * w)

/-- What a block load reads: the header and the instruction bytes (R175). -/
structure ImageBytes where
  header : Nat
  bytes : Nat
  deriving DecidableEq, Repr

/-- The bytes of a block image; none where the load image names no such block, or where the header fails a check of R70,
which is made as the bytes arrive (R175): the rest is then not read. -/
def readImage (s : State) (p : Nat) (b : BlockId) : Except ReadStop (State × Option ImageBytes) := do
  let now := (plotAt s p).walker.failed.contains .sched
  let read := fun (s : State) (va : Word) (n : Nat) => loadRead now (n / 64 + 2) s p b.ctx va n
  let (s, o) ← imageBlockBy read s p b
  match o with
  | none => .ok (s, none)
  | some x =>
    if headerSound x.header then do
      let (s, v) ← read s (x.addr + 16) (16 * hdrNi x.header)
      .ok (s, some (ImageBytes.mk x.header v))
    else .ok (s, none)

/-! ### Choosing what to load (R180, R181) -/

/-- The block waits for the handler that a translation fault on its image has gone to (R177). -/
def loadHeld (s : State) (p : Nat) (b : BlockId) : Bool :=
  (plotAt s p).unit.groups.any (fun o => match o with
    | some g => g.ctx == b.ctx && g.obj == b.obj && g.phase == .stopped && b.bid != g.hbid &&
        g.causes.any (fun k => k.state != .free && k.record.w0.extractLsb' 16 8 == 0x80 && k.record.w0.extractLsb' 32 32 == b.bid)
    | none => false)

/-- Rows and fired sets that a saved matrix engine holds: at ports and in the array, latches, a gather, repeats, fillers and
checks (R313, R333). -/
def tileWork (t : Tile) : Nat :=
  (t.ports.map (fun q => q.rows.length)).sum + t.array.length + natOfBool t.switch.isSome + t.latches.length +
    natOfBool t.gather.isSome + t.fillers.length + t.jobs.length + (t.repeats.map (fun r => r.buffer.length + natOfBool r.job.isSome)).sum +
    t.accs.countP (fun y => y.2.check.isSome || y.2.draining)

/-- W of a block copy (R180): its tokens in the entry buffer and in the spill area, every token of a restored set among them
(R95). -/
def workOf (c : Copy) : Nat :=
  c.buffer.length + c.spilled.length + c.waiting.length + (c.ready.map (fun m => m.toks.length)).sum

/-- What the saved units of a block still have to do: rows and sets of its matrix engine, and a chain's point on offer. -/
def unitWork (s : State) (p : Nat) (c : Copy) : Nat :=
  (((plotAt s p).savedTiles.filter (fun x => x.block == c.id)).map (fun x => tileWork x.tile)).sum +
    (plotAt s p).chains.countP (fun x => x.block == c.id && x.state != .idle && x.sent.isSome)

/-- A copy that is ABSENT, not rejected and on the plot with its context (R180). -/
def mayLoad (s : State) (c : Copy) : Bool :=
  c.phase == .absent && (rejectedSlot s c.id).isNone && (ctxAt s c.id.ctx).phase == .running

/-- A copy that may be loaded and has W > 0 (R180). -/
def hasWork (s : State) (c : Copy) : Bool := mayLoad s c && decide (0 < workOf c)

/-- A copy that may be chosen (R177, R180). -/
def wantsLoad (s : State) (p : Nat) (c : Copy) : Bool := hasWork s c && !loadHeld s p c.id

/-- A copy without tokens whose saved units have work: they resume from their saved units (R424) once it is on a tile. -/
def resumesUnit (s : State) (p : Nat) (c : Copy) : Bool :=
  mayLoad s c && workOf c == 0 && decide (0 < unitWork s p c) && !loadHeld s p c.id

/-- The first copy goes before the second (R180). Where W, BID and context id agree, which only blocks of two code objects of
one context can, R180 gives no order: neither goes before the other, and the one tracked first is chosen (assumption 46). -/
def loadsBefore (a b : Copy) : Bool :=
  if workOf a ≠ workOf b then decide (workOf b < workOf a)
  else if a.id.bid ≠ b.id.bid then decide (a.id.bid.toNat < b.id.bid.toNat)
  else decide (a.id.ctx.toNat < b.id.ctx.toNat)

/-- The copy that the scheduler chooses (R180). DEDUCED: where no block has W > 0, a block whose saved units have work is loaded, since
every engine resumes from its saved unit (R424, assumption 35). -/
def chooseLoad (s : State) (p : Nat) : Option Copy :=
  let l := (plotAt s p).blocks.copies.filter (wantsLoad s p)
  if l.isEmpty then (plotAt s p).blocks.copies.find? (resumesUnit s p)
  else
    l.foldl (fun m c => match m with
      | none => some c
      | some b => if loadsBefore c b then some c else some b) none

/-- The scheduler is loading (R175). -/
def loadingCopy (s : State) (p : Nat) : Option Copy := (plotAt s p).blocks.copies.find? (fun c => c.phase == .loading)

/-- The load class in a block's header, read for the score of R181; zero where it cannot be read. -/
def loadClass (s : State) (p : Nat) (b : BlockId) : BitVec 3 :=
  match imageBlock s p b with
  | .ok (_, some x) => hdrLoad x.header
  | _ => 0

/-- The scheduler of plot `p` makes its choice (R180). -/
def startLoad (s : State) (p : Nat) : State :=
  if (plotAt s p).blocks.loadClock < 8 ∨ (loadingCopy s p).isSome = true then s
  else
    match chooseLoad s p with
    | none => s
    | some c =>
      match bestTile s p (loadClass s p c.id) (freeTiles s p) with
      | none => s
      | some t =>
        let s := modBlocks s p (fun u => { u with loadClock := 0 })
        let s := countEvent s p 0x02 (some c.id.ctx) 1
        modCopy s p c.id (fun x => { x with phase := .loading, tile := t, newTile := none, switched := false })

def execBlockLoadStarted (s : State) : Result :=
  match s.cur with
  | .at p _ _ _ => .next (startLoad { s with cur := .idle } p)
  | _ => .next s

/-! ### Tiles that become free (R174, R182, R186) -/

/-- A migration is in progress on the plot. -/
def migrating (s : State) (p : Nat) : Bool := (plotAt s p).blocks.copies.any (fun c => c.phase == .migrating)

/-- The conditions of R186 for a consolidation when a tile becomes free. -/
def mayConsolidate (s : State) (p : Nat) : Bool :=
  !migrating s p && !((plotAt s p).blocks.copies.any (hasWork s)) && (loadingCopy s p).isNone

/-- A tile of the plot has become free (R186). -/
def tileFreed (s : State) (p : Nat) : State :=
  if mayConsolidate s p then modBlocks s p (fun u => { u with freed := true }) else s

/-- A tile freed: its accumulators are EMPTY, its slots EMPTY (R182, R317). -/
def freeTile (s : State) (p t : Nat) : State := tileFreed (modTile s p t (fun _ => Tile.fresh)) p

/-- With no group of an object's kernels left on a plot, its resident copies are ABSENT and their tiles free, and the
plot's argument overrides of its blocks are discarded (R116, R174). -/
def dropObject (s : State) (p : Nat) (c : BitVec 12) (obj : Word) : State :=
  let mine := fun (b : BlockId) => b.ctx == c && b.obj == obj
  if (plotAt s p).unit.groups.any (fun o => o.any (fun g => g.ctx == c && g.obj == obj)) then s
  else
    let gone := (plotAt s p).blocks.copies.filter (fun k => mine k.id && (k.phase == .resident || k.phase == .absent))
    let s := modPlot s p (fun x => { x with
      savedTiles := x.savedTiles.filter (fun t => !mine t.block), chains := x.chains.filter (fun k => !mine k.block) })
    let s := { modBlocks s p (fun u => { u with
        copies := u.copies.filter (fun k => !gone.contains k), counts := dropCount c obj u.counts }) with
      overrides := s.overrides.filter (fun o => !(o.plot == p && mine o.block)) }
    gone.foldl (fun s k => if k.phase = .resident then freeTile s p k.tile else s) s

/-! ### The end of a load (R174 to R177) -/

/-- The stations of a copy with the argument overrides of its plot (R116, R174). -/
def overridden (s : State) (p : Nat) (b : BlockId) (ws : List Station) : List Station :=
  (s.overrides.filter (fun o => o.plot == p && o.block == b)).foldl (fun ws o =>
    ws.modify o.slot.toNat (fun st => { st with cfg := o.value })) ws

/-- The matrix state that a block had when its context was saved (R313, R333). -/
def restoreTile (s : State) (p : Nat) (b : BlockId) (t : Nat) : State :=
  match (plotAt s p).savedTiles.find? (fun x => x.block == b) with
  | some x =>
    let s := modPlot s p (fun y => { y with savedTiles := y.savedTiles.filter (fun z => z.block != b) })
    modTile s p t (fun _ => x.tile)
  | none => modTile s p t (fun _ => Tile.fresh)

/-- A token that reached its station while the copy was ABSENT meets what an arriving token meets: it completes its set
with the tokens that wait beside it, or faults at a row port (R89, R92, R295). -/
def settleToken (s : State) (p : Nat) (b : BlockId) (w : Waiting) : State :=
  match copyOf s p b with
  | none => s
  | some c =>
    let rest := { c with waiting := c.waiting.erase w }
    match stationInstr c w.slot with
    | .error _ => s
    | .ok i =>
      if c.waiting.contains w = false ∨ creditPort i = some w.port.toNat then s
      else if hasRowPort i && w.port == 0 then
        let (s', taken) := tokenFault s p b w.slot w.port w.tok causeFormat (0#1 ++ w.slot)
        if taken then modCopy s' p b (fun x => { x with waiting := x.waiting.erase w }) else s'
      else if (matchPorts i).contains w.port.toNat then
        match gatherSet rest w.slot (keyOf w.tok.env) ((matchPorts i).filter (fun q => q != w.port.toNat)) with
        | some ws => completeAt (modCopy s p b (fun x => { x with waiting := x.waiting.erase w })) p rest w.slot w.port w.tok ws i
        | none => s
      else s

/-- Every token that waits at a copy, in the order of arrival. -/
def settleTokens (s : State) (p : Nat) (b : BlockId) : State :=
  match copyOf s p b with
  | some c => c.waiting.foldl (fun s w => settleToken s p b w) s
  | none => s

/-- A token that waits at a row port: a word with ROW = 0 (R295). -/
def strayWord (c : Copy) (w : Waiting) : Bool :=
  match stationInstr c w.slot with
  | .ok i => hasRowPort i && w.port == 0
  | .error _ => false

/-- Words with ROW = 0 that have found no free cause slot at their row ports fault as soon as one is free (R295, R314). -/
def settleWords (s : State) (p : Nat) : State :=
  ((plotAt s p).blocks.copies.filter copyLive).foldl (fun s c =>
    (c.waiting.filter (strayWord c)).foldl (fun s w => settleToken s p c.id w) s) s

/-- The tokens of a copy that come from the spill area in the order in which they wait (R92, R95), numbered from `n`. Those that were
not below the reserve before lie in it, as spilled at pre-emption (R422). -/
def fromSpill (n : Nat) (c : Copy) : Copy :=
  let k := n + c.waiting.length
  let low := fun (i : Nat) => !c.reserved.contains i
  let sets := (c.ready.foldl (fun (a : List (MatchedSet × List Nat) × Nat) m =>
    (a.1 ++ [({ m with entries := 0, spills := (List.range m.toks.length).map (fun i => a.2 + i) },
      (List.range m.toks.length).filterMap (fun i => if i < m.spills.countP low then none else some (a.2 + i)))], a.2 + m.toks.length)) ([], k)).1
  { c with
    waiting := (c.waiting.zip (List.range c.waiting.length)).map (fun w => { w.1 with spilled := some (n + w.2) })
    ready := sets.map (fun m => m.1)
    reserved := c.reserved.filter (fun i => (c.spilled.map (fun e => e.seq)).contains i) ++
      ((c.waiting.zip (List.range c.waiting.length)).filterMap (fun w => if w.1.spilled.any low then none else some (n + w.2))) ++
      sets.flatMap (fun m => m.2) }

/-- All checks pass: the copy is RESIDENT (R174), or ABSENT at once where no group of its kernels is left on the plot. -/
def becomeResident (s : State) (p : Nat) (c : Copy) (x : ImageBytes) : State :=
  let ws := overridden s p c.id (imageStations (hdrNi x.header) x.bytes)
  let n := c.waiting.length + (c.ready.map (fun m => m.toks.length)).sum
  let s := { modCopy s p c.id (fun y => fromSpill s.nextId { y with
    phase := .resident, stations := ws, nent := hdrNent x.header, load := hdrLoad x.header, idle := 0 }) with
    nextId := s.nextId + n }
  dropObject (settleTokens (restoreTile s p c.id c.tile) p c.id) p c.id.ctx c.id.obj

/-- The waiting entry tokens of a copy in the order of arrival (R176, R177). -/
def byArrival (c : Copy) : List EntryToken := (c.buffer ++ c.spilled).mergeSort (fun a b => decide (a.seq ≤ b.seq))

/-- The tokens that wait for a rejected block fault their groups, as far as cause slots are free (R176). -/
def rejectWaiting (s : State) (p : Nat) (c : Copy) (slot : BitVec 8) : State :=
  (byArrival c).foldl (fun s e =>
    let (s', taken) := rejectEntry s p c.id slot e
    if taken then modCopy s' p c.id (fun x => { x with buffer := x.buffer.erase e, spilled := if x.buffer.contains e then x.spilled else x.spilled.erase e })
    else s') s

/-- A check fails: the block is rejected for its context (R176). -/
def rejectBlock (s : State) (p : Nat) (c : Copy) (slot : BitVec 8) : State :=
  let s := modCopy s p c.id (fun x => { x with phase := .absent })
  let s := modCtx s c.id.ctx (fun x => { x with rejected := Rejected.mk c.id slot :: x.rejected })
  tileFreed (rejectWaiting (countEvent s p 0x03 (some c.id.ctx) 1) p c slot) p

/-- The block scheduler asks the walker of its plot for a page of the image that it loads (R454, R455). -/
def askLoad (s : State) (p : Nat) (c : BitVec 12) (va : Word) : State :=
  if asking s p .sched then s else (askWalker s p (WalkReq.mk .sched c va .fetch false s.cycles 65536)).1

/-- The image has been read and checked (R70, R175); the load goes on while a line of it, or the walk for one, has still to come. -/
def finishLoad (s : State) (p : Nat) : State :=
  match loadingCopy s p with
  | none => s
  | some c =>
    match readImage s p c.id with
    | .error (.walk va) => askLoad s p c.id.ctx va
    | .error _ => s
    | .ok (s, none) => rejectBlock (walkMet s p .sched) p c 0x80
    | .ok (s, some x) =>
      let s := walkMet s p .sched
      match imageFault x.header x.bytes (decide (32 ≤ p)) with
      | some slot => rejectBlock s p c slot
      | none => becomeResident s p c x

def execBlockLoadComplete (s : State) : Result :=
  match s.cur with
  | .at p _ _ _ => .next (finishLoad { s with cur := .idle } p)
  | _ => .next s

/-- A byte of the image fails translation: the load ends and the sender of the earliest waiting entry token has the fault
(R177). Where no entry token waits (the block is loaded for restored tokens or units alone), R177 names no group: no fault is
delivered, and the block is a candidate again (assumption 46). -/
def faultLoad (s : State) (p : Nat) : State :=
  match loadingCopy s p with
  | none => s
  | some c =>
    match readImage s p c.id with
    | .error (.walk va) => askLoad s p c.id.ctx va
    | .ok _ | .error .line => s
    | .error (.fault s e) =>
      let s := modCopy (walkMet s p .sched) p c.id (fun x => { x with phase := .absent })
      let s := tileFreed (countEvent s p 0x04 (some c.id.ctx) 1) p
      match (byArrival c).head? with
      | some t => (deliverFault s p t.tok.env.gslot e 0x80 c.id t.tok.env .nothing).1
      | none => s

def execImageTranslationFault (s : State) : Result :=
  match s.cur with
  | .at p _ _ _ => .next (faultLoad { s with cur := .idle } p)
  | _ => .next s

/-! ### Delivery of waiting tokens (R98, R179) -/

/-- Tag `a` is lower than tag `b` (R98). -/
def tagLower (a b : Word) : Bool := tagUse a == tagUse b && decide (tagFields a < tagFields b)

/-- The token of a list that is delivered first: of the first token's entry, port and thread, the lowest tag (R98, R179). -/
def nextEntry : List EntryToken → Option EntryToken
  | [] => none
  | e :: l => some ((l.filter (fun x => x.slot == e.slot && x.port == e.port && x.tok.env.thread == e.tok.env.thread &&
      x.tok.env.gslot == e.tok.env.gslot)).foldl (fun m x =>
      if tagLower x.tok.env.tag m.tok.env.tag then x else m) e)

/-- One waiting entry token of a copy is delivered, unless the meter of the tile's port for entry tokens refuses it (R471); one of a
rejected block faults its group once a cause slot is free (R176, R179). -/
def deliverEntry (s : State) (p : Nat) (c : Copy) : State :=
  match nextEntry (if c.buffer.isEmpty then c.spilled else c.buffer) with
  | none => s
  | some e =>
    let drop := fun (s : State) => modCopy s p c.id (fun x =>
      if c.buffer.isEmpty then { x with spilled := x.spilled.erase e } else { x with buffer := x.buffer.erase e })
    if copyLive c then
      let t := firingTile c
      if meterOpen s p t 0 then
        let s := drop (admitAt s p t 0 e.seq)
        match copyOf s p c.id with
        | some c' => arriveAt s p c' e.slot e.port e.tok
        | none => s
      else refuseAt s p t 0 c.id.ctx e.seq
    else
      match rejectedSlot s c.id with
      | some n =>
        let (s', taken) := rejectEntry s p c.id n e
        if taken then drop s' else s'
      | none => s

/-- The copy that plot `p` tracks as its `n`-th. -/
def execEntryTokenDelivery (s : State) : Result :=
  match s.cur with
  | .at p n _ _ =>
    let s := { s with cur := .idle }
    match (plotAt s p).blocks.copies[n]? with
    | some c => .next (deliverEntry s p c)
    | none => .next s
  | _ => .next s

/-! ### Eviction (R182) -/

/-- An accumulator whose tile may be evicted. -/
def accIdle (a : Acc) : Bool := a.st == .empty || a.st == .drained

/-- Some unit of the plot still works for a block: a firing of it is in issue, or a row stream is in flight to it (R182). DEDUCED: a
set that a unit holds, a chain that is not IDLE and an access that has not ended are firings in issue (assumption 46). -/
def blockBusy (s : State) (p : Nat) (b : BlockId) : Bool :=
  let x := plotAt s p
  let heldHere := fun (h : Held) => h.block == b
  x.accesses.any (fun a => a.block == b) || x.iterative.any (fun y => y.block == b) ||
    x.chains.any (fun c => c.block == b && c.state != .idle) ||
    x.unit.waiters.any (fun w => heldHere w.held) || x.unit.barWaiters.any (fun w => heldHere w.held) ||
    x.unit.refused.any (fun w => heldHere w.held) ||
    x.unit.channels.any (fun k => k.waiters.any (fun w => heldHere w.held)) ||
    x.unit.adds.any (fun w => heldHere w.held) || x.unit.joins.any (fun w => heldHere w.held) ||
    x.copyQueues.any (fun q => q.any (fun r => heldHere r.held)) || x.savedCopies.any (fun r => heldHere r.2.held) ||
    x.savedPlaces.any (fun w => heldHere w.held) ||
    s.homeWaiters.any (fun w => match w with
      | .permit _ q h _ _ _ => q == p && heldHere h
      | _ => false) ||
    s.rows.any (fun f => f.dest.plot == p && f.dest.block == b)

/-- The matrix engine of a tile is at rest. The model's choice (assumption 46): rows held at a row port or in the buffer of an
`mrep`, of which R182 does not speak, keep a copy from being a victim as rows in flight do. -/
def tileQuiet (t : Tile) : Bool :=
  t.ports.all (fun q => q.rows.isEmpty) && t.array.isEmpty && t.switch.isNone && t.latches.isEmpty && t.gather.isNone &&
    t.repeats.all (fun r => r.job.isNone && r.buffer.isEmpty) && t.fillers.isEmpty && t.jobs.isEmpty

/-- A copy may be a victim (R182). -/
def evictable (s : State) (p : Nat) (c : Copy) : Bool :=
  c.phase == .resident && c.buffer.isEmpty && c.spilled.isEmpty && c.waiting.isEmpty && c.ready.isEmpty &&
    !blockBusy s p c.id && tileQuiet (tileAt s p c.tile) && (tileAt s p c.tile).accs.all (fun a => accIdle a.2) &&
    decide (256 ≤ c.idle)

/-- The victim: idle longest, then the lower tile (R182). -/
def chooseVictim (s : State) (p : Nat) : Option Copy :=
  ((plotAt s p).blocks.copies.filter (evictable s p)).foldl (fun m c => match m with
    | none => some c
    | some b => if b.idle < c.idle ∨ (b.idle = c.idle ∧ c.tile < b.tile) then some c else some b) none

/-- A block has W > 0 and no tile is free. -/
def wantsVictim (s : State) (p : Nat) : Bool :=
  (freeTiles s p).isEmpty && (plotAt s p).blocks.copies.any (hasWork s)

/-- A block whose saved units have work waits, no block has W > 0, and no tile is free (assumption 35). -/
def unitWantsVictim (s : State) (p : Nat) : Bool :=
  (freeTiles s p).isEmpty && (plotAt s p).blocks.copies.all (fun c => !hasWork s c) && (plotAt s p).blocks.copies.any (resumesUnit s p)

/-- The scheduler evicts a victim (R182). The model's choice (assumption 46): while one copy is EVICTING no second victim is
chosen on the plot, on which R182 is silent. -/
def evict (s : State) (p : Nat) : State :=
  if (wantsVictim s p || unitWantsVictim s p) && (plotAt s p).blocks.copies.all (fun c => c.phase != .evicting) then
    match chooseVictim s p with
    | some c => countEvent (modCopy s p c.id (fun x => { x with phase := .evicting, evictFor := 0 })) p 0x0B (some c.id.ctx) 1
    | none => s
  else s

def execEviction (s : State) : Result :=
  match s.cur with
  | .at p _ _ _ => .next (evict { s with cur := .idle } p)
  | _ => .next s

/-- After 16 plot cycles the evicting copy is ABSENT (R174). -/
def execEvictionEnd (s : State) : Result :=
  match s.cur with
  | .at p _ _ _ =>
    let s := { s with cur := .idle }
    match (plotAt s p).blocks.copies.find? (fun c => c.phase == .evicting && decide (16 ≤ c.evictFor)) with
    | some c => .next (freeTile (modCopy s p c.id (fun x => { x with phase := .absent, stations := [] })) p c.tile)
    | none => .next s
  | _ => .next s

/-! ### Migration (R183 to R186) -/

/-- A copy that consolidation may move (R186). -/
def movable (s : State) (p : Nat) (c : Copy) : Bool :=
  c.phase == .resident && decide (4096 ≤ c.sinceMove) &&
    (tileAt s p c.tile).accs.all (fun a => a.2.st != .swap && a.2.st != .checking)

/-- The gain of moving a copy to its best free tile. -/
def moveGain (s : State) (p : Nat) (c : Copy) : Option (Nat × Nat) :=
  (bestTile s p c.load (freeTiles s p)).map (fun t => (tileScore s p t c.load - tileScore s p c.tile c.load, t))

/-- The copy and tile that consolidation chooses (R186). -/
def chooseMove (s : State) (p : Nat) : Option MoveRequest :=
  (((plotAt s p).blocks.copies.filter (movable s p)).foldl (fun (m : Option (Copy × Nat × Nat)) c =>
    match moveGain s p c with
    | none => m
    | some (g, t) =>
      if g < 2 then m
      else match m with
        | none => some (c, g, t)
        | some (b, h, u) => if h < g ∨ (h = g ∧ c.tile < b.tile) then some (c, g, t) else some (b, h, u)) none).map
    (fun x => MoveRequest.mk x.1.id x.2.2)

/-- The scheduler looks at a freed tile (R186): once for each, and in vain where the conditions hold no longer. -/
def consolidate (s : State) (p : Nat) : State :=
  modBlocks s p (fun u => { u with
    freed := false, request := if u.freed && mayConsolidate s p then chooseMove s p <|> u.request else u.request })

def execConsolidation (s : State) : Result :=
  match s.cur with
  | .at p _ _ _ => .next (consolidate { s with cur := .idle } p)
  | _ => .next s

/-- The migration that has been asked for begins (R174, R183). -/
def beginMove (s : State) (p : Nat) : State :=
  match (plotAt s p).blocks.request with
  | none => s
  | some r =>
    let s := modBlocks s p (fun u => { u with request := none })
    if migrating s p || !tileFree s p r.tile then s
    else modCopy s p r.block (fun c =>
      if c.phase = .resident then { c with phase := .migrating, newTile := some r.tile, switched := false } else c)

def execMigrationRequest (s : State) : Result :=
  match s.cur with
  | .at p _ _ _ => .next (beginMove { s with cur := .idle } p)
  | _ => .next s

/-- The old engine is at a row boundary and no comparison runs (R184). -/
def mayCarry (t : Tile) : Bool :=
  t.array.isEmpty && t.accs.all (fun a => a.2.st != .checking && a.2.st != .swap)

/-- The tokens of a set that the store holds: those in the overflow area stay there (R183). -/
def inStore (m : MatchedSet) : Nat := m.toks.length - m.spills.length

/-- The routing of a block changes to its new tile, which takes the matrix state and the waiting tokens (R183, R184). -/
def switchMove (s : State) (p : Nat) : State :=
  match (plotAt s p).blocks.copies.find? (fun c => c.phase == .migrating && !c.switched) with
  | none => s
  | some c =>
    match c.newTile with
    | none => s
    | some t =>
      if mayCarry (tileAt s p c.tile) then
        let moved := c.waiting.countP (fun w => w.spilled.isNone) + (c.ready.map inStore).sum +
          s.flights.countP (fun f => f.dest.plot == p && f.dest.block == c.id)
        let tile := tileAt s p c.tile
        let s := modTile (modTile s p t (fun _ => tile)) p c.tile (fun _ => Tile.fresh)
        let s := { s with
          flights := s.flights.map (fun f => if f.dest.plot = p then { f with before := true } else f)
          rows := s.rows.map (fun f => if f.dest.plot = p then { f with before := true } else f) }
        let arrived := c.waiting.any (fun w => w.spilled.isNone) || c.ready.any (fun m => decide (0 < inStore m))
        countEvent (modCopy s p c.id (fun x => { x with switched := true, idle := if arrived then 0 else x.idle })) p 0x0D
          (some c.id.ctx) moved
      else s

def execMigrationSwitch (s : State) : Result :=
  match s.cur with
  | .at p _ _ _ => .next (switchMove { s with cur := .idle } p)
  | _ => .next s

/-- The drain markers of a plot have returned (R183): no token or row that was sent before the switch is on its way. -/
def markersBack (s : State) (p : Nat) : Bool :=
  !(s.flights.any (fun f => f.dest.plot == p && f.before)) && !(s.rows.any (fun f => f.dest.plot == p && f.before))

/-- The old tile is freed and the copy RESIDENT on the new one, once the markers have returned (R183). The old store is empty
since the switch; of its firings only those in an iterative unit outlast their step. -/
def releaseMove (s : State) (p : Nat) : State :=
  match (plotAt s p).blocks.copies.find? (fun c => c.phase == .migrating && c.switched) with
  | none => s
  | some c =>
    if markersBack s p && !((plotAt s p).iterative.any (fun y => y.block == c.id && y.tile == c.tile)) then
      let s := modCopy s p c.id (fun x => { x with
        phase := .resident, tile := x.newTile.getD x.tile, newTile := none, switched := false, sinceMove := 0 })
      dropObject (tileFreed (countEvent s p 0x0C (some c.id.ctx) 1) p) p c.id.ctx c.id.obj
    else s

def execMigrationRelease (s : State) : Result :=
  match s.cur with
  | .at p _ _ _ => .next (releaseMove { s with cur := .idle } p)
  | _ => .next s

/-! ### exit, call and ret (R105 to R109) -/

/-- The block of the firing's object that a block index names. -/
def siblingBlock (c : FireCtx) (bid : BitVec 32) : BlockId := { c.block with bid := bid }

/-- What a firing learns, or its fault with the state that its reads have left. -/
abbrev Reads (α : Type) := Except (State × FaultInfo) α

/-- A fault found with the state as it is. -/
def readsOr {α : Type} (s : State) (r : Except FaultInfo α) : Reads α := r.mapError (fun e => (s, e))

/-- `n` bytes of a load image that a firing reads through its plot's L1, as a block load reads (R106, R175). The model's choice
(assumption 16): where a line of them is on its way in the L1, the bytes are those at their homes. -/
def firingRead (s : State) (p : Nat) (b : BlockId) (va : Word) (n : Nat) : Reads (State × Nat) :=
  match loadRead true (n / 64 + 2) s p b.ctx va n with
  | .ok r => .ok r
  | .error (.fault t e) => .error (t, e)
  | .error _ => readsOr s (virtualRead s p b.ctx .fetch va n)

/-- The check of R106: the header from the copy that the plot tracks and the block count that it keeps, or both from the load
image. -/
def checkEntry (c : FireCtx) (s : State) (bid : BitVec 32) (entries : List Nat) : Reads State :=
  let b := siblingBlock c bid
  let test := fun (s : State) (nent : Nat) =>
    if entries.all (fun e => decide (e < nent)) then Except.ok s else .error (s, causeOnly causeBadTarget)
  match (copyOf s c.plot b).filter (fun k => k.nent != 0) with
  | some k => test s k.nent
  | none =>
    if (knownBlocks s c.plot b).any (fun n => decide (n ≤ bid.toNat)) then .error (s, causeOnly causeBadTarget)
    else do
      let (s, o) ← imageBlockBy (fun s va n => firingRead s c.plot b va n) s c.plot b
      match o with
      | some x => test s (hdrNent x.header)
      | none => .error (s, causeOnly causeBadTarget)

/-- A packet sent to an entry of a block under a tag (R105). -/
def sendInto (s : State) (c : FireCtx) (bid : BitVec 32) (entry port : Nat) (tag : Word) (k : Packet) : State :=
  sendEntry s (if bid = c.block.bid then .own else .entry) c.plot (siblingBlock c bid) (BitVec.ofNat 7 entry) (BitVec.ofNat 2 port) (Token.mk { c.env with tag := tag } k)

/-- `exit` (R107). -/
def exitResult (c : FireCtx) (s : State) : Reads (State × List Send) := do
  let w := c.head.cfg.toNat
  let bid := BitVec.ofNat 32 w
  let s ← checkEntry c s bid [bitsOf w 32 4]
  .ok (sendInto s c bid (bitsOf w 32 4) (bitsOf w 36 2) c.env.tag (passed c 0), [])

/-- The indirect-target table of the load image (R389). -/
def indirectTargets (s : State) (p : Nat) (b : BlockId) : Reads (State × List (BitVec 32)) := do
  let (s, h) ← firingRead s p b (b.obj + 32) 6
  let n := bitsOf h 32 16
  let (s, t) ← firingRead s p b (b.obj + BitVec.ofNat 64 (bitsOf h 0 32)) (4 * n)
  .ok (s, (List.range n).map (fun i => BitVec.ofNat 32 (t >>> (32 * i))))

/-- The block that a `call` names (R108). The model's choice (assumption 23): a reserved tag on port 1 of a `call.ind` faults with
FORMAT, and bits [31:0] are those of the slot whatever the width of the tag. -/
def calleeOf (ind : Bool) (c : FireCtx) (s : State) : Reads (State × BitVec 32) :=
  if ind then do
    let _ ← readsOr s (formatAt c 1)
    let bid := (packetSlot (wideTag (packetAt c 1).fmt) (c.fresh + 8) (packetAt c 1) 0).setWidth 32
    let (s, ts) ← indirectTargets s c.plot c.block
    if ts.contains bid then .ok (s, bid) else .error (s, causeOnly causeBadTarget)
  else .ok (s, c.head.cfg.setWidth 32)

/-- `call` (R108). -/
def callResult (ind : Bool) (site : BitVec 15) (c : FireCtx) (s : State) : Reads (State × List Send) := do
  let w := c.head.cfg.toNat
  let (s, bid) ← calleeOf ind c s
  let s ← checkEntry c s bid [bitsOf w 32 4, bitsOf w 38 4]
  let ntag ← readsOr s (tagPush c.env.tag 15 site.toNat)
  let k := mkPacket 0x00 [c.env.tag, BitVec.ofNat 64 (bitsOf w 48 2 * 2 ^ 36 + bitsOf w 44 4 * 2 ^ 32 + c.block.bid.toNat)]
  let s := sendInto s c bid (bitsOf w 32 4) (bitsOf w 36 2) ntag (passed c 0)
  .ok (sendInto s c bid (bitsOf w 38 4) (bitsOf w 42 2) ntag k, [])

/-- `ret` (R109). -/
def retResult (c : FireCtx) (s : State) : Reads (State × List Send) := do
  readsOr s (require (lenAt c 1 == 2) causePacketLength)
  readsOr s (require ((packetAt c 1).fmt == 0x00) causeFormat)
  let d := (packetSlot true c.fresh (packetAt c 1) 1).toNat
  readsOr s (require (d / 2 ^ 38 == 0) causeBadTarget)
  let bid := BitVec.ofNat 32 d
  let s ← checkEntry c s bid [bitsOf d 32 4]
  let tag := packetSlot true c.fresh (packetAt c 1) 0
  readsOr s (require (tagValid tag) causeTagOverflow)
  .ok (sendInto s c bid (bitsOf d 32 4) (bitsOf d 36 2) tag (passed c 0), [])

/-- What the reads of a firing that faults leave: lines in the L1, and what their walks have set and counted. -/
def readsLeft (s : State) (r : Reads (State × List Send)) : State :=
  match r with
  | .error (t, _) => t
  | .ok _ => s

/-- A firing that reads a load image before it knows whether it faults (R106). -/
def fireReads (h : Head) (body : FireCtx → State → Reads (State × List Send)) (s : State) : Result :=
  fireWalks h (fun c _ s => readsLeft s (body c s)) (fun c _ s => (body c s).mapError (fun e => e.2)) s

def execExit (h : Head) (s : State) : Result := fireReads h exitResult s
def execCall (h : Head) (ind : Bool) (site : BitVec 15) (s : State) : Result := fireReads h (callResult ind site) s
def execRet (h : Head) (s : State) : Result := fireReads h retResult s

end Sys2Proof.Machine
end

