-- ==== Sys2Proof/Machine/Streams.lean ====
section
/-! DEFINITION. Counter chains, address generators and the control-token network (09_stream.md). -/
namespace Sys2Proof.Machine

/-! ### Held sets -/

/-- The set of a firing, with what its unit needs to answer it. -/
def heldOf (c : FireCtx) (m : MatchedSet) : Held := Held.mk c.block m c.head

/-- The envelope of a held set. -/
def heldEnv (h : Held) : Envelope := envOf h.set.toks

/-- A token sent to every target of a held set. -/
def sendHeld (s : State) (p : Nat) (h : Held) (k : Packet) : State :=
  sendAll s p h.block (sendEach h.head (Token.mk (heldEnv h) k))

/-- The writes to registers of a context that every plot has taken stand in its registers, oldest first, and each `swr` among them sends
what it owes (R412, R414); `fuel` bounds them. -/
def endWrites (c : BitVec 12) : Nat → State → State
  | 0, s => s
  | fuel + 1, s =>
    match s.regWrites.find? (fun w => w.ctx == c) with
    | some w =>
      if w.left.isEmpty then
        let s := modCtx { s with regWrites := s.regWrites.erase w } c (fun x => { x with regs := writeCtxRegs (c != headland) x.regs w.reg w.value })
        endWrites c fuel (match w.reply with
          | some r => sendHeld s r.plot r.held (word64Packet r.old)
          | none => s)
      else s
    | none => s

/-- Every write to a register of a context taken at once: its registers leave the plots (R406, R409). -/
def flushWrites (s : State) (c : BitVec 12) : State :=
  endWrites c s.regWrites.length { s with regWrites := s.regWrites.map (fun w => if w.ctx = c then { w with left := [] } else w) }

/-- A write to a register of a context begins (R412). -/
def addWrite (s : State) (w : RegWrite) : State :=
  let s := { s with regWrites := s.regWrites ++ [w] }
  endWrites w.ctx s.regWrites.length s

/-- A plot takes the oldest write to a register of a context that it has not taken (R412). -/
def takeWrite (s : State) (p : Nat) (c : BitVec 12) : State :=
  match s.regWrites.findIdx? (fun w => w.ctx == c && w.left.contains p) with
  | some n =>
    let s := { s with regWrites := s.regWrites.modify n (fun w => { w with left := w.left.erase p }) }
    endWrites c s.regWrites.length s
  | none => s

/-- A held set of a memory PE answered: the answer leaves through its return port (R471). -/
def sendHeldBack (s : State) (p : Nat) (h : Held) (k : Packet) : State :=
  sendBack s p h.block (sendEach h.head (Token.mk (heldEnv h) k))

/-- The packet on a port of a held set, passed on with its type as R101 says. -/
def heldPassed (h : Held) : Packet :=
  match tokenAt h.set.toks 0 with
  | some t => if h.head.ty = .lane then t.pkt else retag (tagOfTy h.head.ty) t.pkt
  | none => noPacket

/-- The matched set of the present firing. -/
def curSet (s : State) : MatchedSet :=
  match s.cur with
  | .firing _ _ m => m
  | _ => MatchedSet.mk 0 [] 0 []

/-- A firing that also needs its matched set. -/
def fireHeld (h : Head) (body : FireCtx → MatchedSet → State → Except FaultInfo (State × List Send)) (s : State) : Result :=
  let m := curSet s
  fireState h (fun c s => body c m s) s

/-- A chain sends its finish token and is IDLE, its record kept (R224). -/
def endChain (s : State) (p : Nat) (x : Chain) (f : ChainForm) : State :=
  chainFreed (setChain (sendFinish s p x f.head) p { x with state := .idle }) p x

/-- A chain past its last point sends its finish token and is IDLE; any other offers its next point. -/
def runChain (s : State) (p : Nat) (x : Chain) (f : ChainForm) : State :=
  if x.state = .running ∧ x.sent.isNone = true ∧ x.points ≤ x.p then endChain s p x f
  else setChain s p (offerPoint f.paced x)

/-- The indices of a point (R220). -/
def pointIndices : List Nat → Nat → List Nat
  | [], _ => []
  | [_], p => [p]
  | n :: ns, p => p % n :: pointIndices ns (p / n)

/-- The payload of a point (R221). -/
def pointPacket (x : Chain) (idx : Bool) (q : Nat) : Packet :=
  let is := pointIndices (x.levels.map Prod.fst) q
  if idx then mkPacket 0x05 (is.map (BitVec.ofNat 64))
  else word64Packet ((is.zip x.levels).foldl (fun a y => a + BitVec.ofNat 64 y.1 * y.2.2) x.base)

/-- The tag of a point (R221); the push cannot fail, since the start has been checked (R220). -/
def pointTag (x : Chain) (w q : Nat) : Word :=
  match tagPush x.env.tag w q with
  | .ok t => t
  | .error _ => x.env.tag

/-- The network accepts the point on offer (R221, R224). The model's choice (assumption 30): while the chain is HELD the acceptance
moves P on too, and after a SEEK the point is sent and P stays where the SEEK has put it. -/
def acceptPoint (s : State) (p : Nat) (x : Chain) (f : ChainForm) : State :=
  match x.sent with
  | none => s
  | some q =>
    let t := Token.mk { x.env with tag := pointTag x f.w q } (pointPacket x f.idx q)
    let s := sendAll s p x.block (sendTo f.head.t0 t)
    let y := { x with sent := none }
    if x.moves = false then runChain s p y f
    else if x.state = .running ∧ x.points ≤ q + 1 then endChain s p y f
    else runChain s p { y with p := q + 1 } f

/-- Chain `n` of plot `p`. -/
def execPointAccepted (s : State) : Result :=
  match s.cur with
  | .at p n _ _ =>
    let s := { s with cur := .idle }
    match (plotAt s p).chains[n]? with
    | some x =>
      match chainForm s p x with
      | some f => if mayStart s p x.block x.env.gslot then .next (acceptPoint s p x f) else .next s
      | none => .next s
    | none => .next s
  | _ => .next s

/-! ### Starting a chain (R220, R223) -/

/-- The record that a start makes, or its fault. -/
def startRecord (d : BitVec 2) (w : BitVec 6) (c : FireCtx) (old : Chain) : Except FaultInfo Chain := do
  let k := packetAt c 0
  require (wideTag k.fmt) causeFormat
  require (packetLen k == 2 * d.toNat + 1) causePacketLength
  let e := fun i => packetSlot true c.fresh k i
  let levels := (List.range d.toNat).map (fun l => ((e (1 + 2 * l)).toNat, e (2 + 2 * l)))
  let points := (levels.map Prod.fst).foldl (fun a n => a * n) 1
  require (levels.all (fun l => decide (l.1 < 2 ^ 32)) && decide (points ≤ 2 ^ w.toNat) &&
    decide (tagUse c.env.tag + w.toNat ≤ 58)) causeTagOverflow
  .ok { old with
    state := .running, env := c.env, base := e 0, levels := levels, p := 0, points := points, origin := 0, sent := none
    moves := false, owner := some (ChainOwner.mk c.env.thread c.env.gslot) }

/-- `cnt` and `cchn` start their chain (R220 to R224); a `cchn` counts the credits that wait for its new owner. -/
def startChain (paced idx : Bool) (d : BitVec 2) (w : BitVec 6) (c : FireCtx) (s : State) :
    Except FaultInfo (State × List Send) := do
  let x ← startRecord d w c (chainAt s c.plot c.block c.slot)
  let form := ChainForm.mk paced idx w.toNat c.head
  if paced then
    let (ws, y) := takeCredits c.slot x (((copyOf s c.plot c.block).map (fun k => k.waiting)).getD [])
    .ok (runChain (modCopy s c.plot c.block (fun k => { k with waiting := ws })) c.plot y form, [])
  else .ok (runChain s c.plot x form, [])

def execCnt (h : Head) (idx : Bool) (d : BitVec 2) (w : BitVec 6) (s : State) : Result :=
  fireState h (startChain false idx d w) s
def execCchn (h : Head) (idx : Bool) (d : BitVec 2) (w : BitVec 6) (s : State) : Result :=
  fireState h (startChain true idx d w) s

/-! ### Credits (R223, R310) -/

/-- A credit that waits at a `cchn` counted, once CREDIT has room for it (R223). -/
def countCredit (s : State) (p : Nat) (c : Copy) (slot : BitVec 7) (f : ChainForm) : State :=
  let x := chainAt s p c.id slot
  match creditWaiting c slot 1 (chainCounts x) with
  | none => s
  | some w => setChain (dropWaiting s p c.id w) p (offerPoint f.paced { x with credit := x.credit + 1 })

/-- A credit of an `mrep` counted, whatever its key (R310). -/
def countPace (s : State) (p : Nat) (c : Copy) (slot : BitVec 7) : State :=
  let t := firingTile c
  let r := repeatAt (tileAt s p t) slot
  match creditWaiting c slot 2 (fun _ => true) with
  | none => s
  | some w =>
    if r.credit < 65535 then modTile (dropWaiting s p c.id w) p t (fun x => setRepeat x { r with credit := r.credit + 1 })
    else s

/-- A credit token at slot `m` of the `n`-th copy of plot `p`. -/
def execCreditArrival (s : State) : Result :=
  match s.cur with
  | .at p n m _ =>
    let s := { s with cur := .idle }
    let slot := BitVec.ofNat 7 m
    match (plotAt s p).blocks.copies[n]? with
    | some c =>
      if copyLive c then
        match stationInstr c slot with
        | .ok (.cchn h idx _ w) => .next (countCredit s p c slot (ChainForm.mk true idx w.toNat h))
        | .ok (.mrep _ true) => .next (countPace s p c slot)
        | _ => .next s
      else .next s
    | none => .next s
  | _ => .next s

/-! ### cnrd and cnwr (R225, R226) -/

/-- The number of a chain's state. -/
def chainCode : ChainState → Nat
  | .idle => 0
  | .running => 1
  | .held => 2

/-- `cnrd` (R225). -/
def cnrdResult (c : FireCtx) (s : State) : Except FaultInfo (State × List Send) :=
  let x := chainAt s c.plot c.block (c.head.cfg.extractLsb' 0 7)
  .ok (s, emit c (mkPacket 0x04 [BitVec.ofNat 64 (chainCode x.state + x.credit * 2 ^ 48), BitVec.ofNat 64 x.p,
    BitVec.ofNat 64 x.points, BitVec.ofNat 64 x.origin]))

/-- The record after a `cnwr`, and its status (R224). -/
def cnwrRecord (op : CnwrOp) (v : Nat) (x : Chain) : Chain × Nat :=
  match op, x.state with
  | _, .idle => (x, 1)
  | .hold, _ => ({ x with state := .held }, 0)
  | .snap, _ => ({ x with origin := x.p }, 0)
  | .seek, .running | .go, .running => (x, 1)
  | .seek, .held => if v ≤ x.points then ({ x with p := v, moves := false }, 0) else (x, 1)
  | .go, .held => ({ x with state := .running }, 0)

/-- `cnwr` (R226); v is read as .w64 from a token of an integer tag. -/
def cnwrResult (op : CnwrOp) (c : FireCtx) (s : State) : Except FaultInfo (State × List Send) := do
  require (op != .seek || intTag (packetAt c 0).fmt) causeFormat
  let v := (packetSlot true c.fresh (packetAt c 0) 0).toNat
  let old := chainAt s c.plot c.block (c.head.cfg.extractLsb' 0 7)
  let (x, status) := cnwrRecord op v old
  let s := match chainForm s c.plot old with
    | some f => if x.state = .idle then s else runChain s c.plot x f
    | none => s
  .ok (s, emit c (statusPacket status))

def execCnrd (h : Head) (s : State) : Result := fireState h cnrdResult s
def execCnwr (h : Head) (op : CnwrOp) (s : State) : Result := fireState h (cnwrResult op) s

/-- A rewind of a chain (R224, R229): p := ORIGIN, and it runs again; a point still on offer is among the tokens that the
retry squashes (R332). A chain that has never started has no start packet
to use. -/
def rewindChain (s : State) (p : Nat) (b : BlockId) (slot : BitVec 7) : State :=
  let x := chainAt s p b slot
  match x.owner, chainForm s p x with
  | some _, some f => runChain s p { x with state := .running, p := x.origin, sent := none, moves := false } f
  | _, _ => s

/-! ### agen (R227) -/

/-- `agen` (R227). -/
def agenResult (c : FireCtx) : Except FaultInfo (List Send) := do
  let n := lenAt c 0
  require (intTag (packetAt c 0).fmt && wideTag (packetAt c 1).fmt) causeFormat
  require (decide (n ≤ 3) && lenAt c 1 == n + 1) causePacketLength
  let is ← (List.range n).mapM (fun i => ownUnsigned c 0 i)
  let d := fun i => packetSlot true (c.fresh + 8) (packetAt c 1) i
  .ok (emit c (word64Packet ((is.zip (List.range n)).foldl (fun a x => a + BitVec.ofNat 64 x.1 * d (x.2 + 1)) (d 0))))

def execAgen (h : Head) (s : State) : Result := fire h agenResult s

/-! ### The control-token network (R233 to R235) -/

/-- A counter of a key. -/
def isChannel (c : BitVec 12) (ch : BitVec 4) (e : Envelope) (k : Channel) : Bool :=
  k.ctx == c && k.ch == ch && k.gslot == e.gslot && k.tag == e.tag

/-- The state with a counter in the table; one that finds no room is written to the spill area (R233). -/
def openChannel (s : State) (p : Nat) (c : BitVec 12) (ch : BitVec 4) (e : Envelope) : State :=
  let ks := (plotAt s p).unit.channels
  if ks.any (isChannel c ch e) then s
  else
    let full := decide (128 ≤ ks.countP (fun k => k.ctx == c && !k.spilled))
    let s := modUnit s p (fun u => { u with channels := u.channels ++ [Channel.mk c ch e.gslot e.tag 0 [] full] })
    if full then afterSpill (countEvent s p 0x08 (some c) 1) c else s

/-- The waiters that a counter serves, from the head, and what is left of it (R235). -/
def serveChannel : List ChannelWaiter → BitVec 48 → List Held × List ChannelWaiter × BitVec 48
  | [], v => ([], [], v)
  | w :: ws, v =>
    if w.m ≤ v.toNat then
      let (hs, rest, v') := serveChannel ws (v - BitVec.ofNat 48 w.m)
      (w.held :: hs, rest, v')
    else ([], w :: ws, v)

/-- A counter changed, its head waiters served, and freed where nothing is left of it (R233, R235). -/
def workChannel (s : State) (p : Nat) (c : BitVec 12) (ch : BitVec 4) (e : Envelope) (f : Channel → Channel) : State :=
  match (plotAt s p).unit.channels.find? (isChannel c ch e) with
  | none => s
  | some k =>
    let k := f k
    let (hs, ws, v) := serveChannel k.waiters k.value
    let k' := { k with value := v, waiters := ws }
    let s := modUnit s p (fun u =>
      { u with channels := tidyChannels (u.channels.map (fun x => if isChannel c ch e x then k' else x)) })
    hs.foldl (fun s h => sendHeld s p h (heldPassed h)) s

/-- `ctks` (R234): its add goes to the table. -/
def ctksResult (one : Bool) (ch : BitVec 4) (c : FireCtx) (m : MatchedSet) (s : State) :
    Except FaultInfo (State × List Send) :=
  let v := if one then 1 else patternOf c.head.ty (slotAt c (wideTy c.head.ty) 0 0)
  .ok (modUnit s c.plot (fun u => { u with adds := u.adds ++ [ChannelAdd.mk (heldOf c m) ch v] }), [])

/-- `ctkw` (R235): it goes to the table. -/
def ctkwResult (mM1 : BitVec 10) (ch : BitVec 4) (c : FireCtx) (m : MatchedSet) (s : State) :
    Except FaultInfo (State × List Send) :=
  .ok (modUnit s c.plot (fun u => { u with joins := u.joins ++ [ChannelJoin.mk (heldOf c m) ch (mM1.toNat + 1)] }), [])

def execCtks (h : Head) (one : Bool) (ch : BitVec 4) (s : State) : Result := fireHeld h (ctksResult one ch) s
def execCtkw (h : Head) (mM1 : BitVec 10) (ch : BitVec 4) (s : State) : Result := fireHeld h (ctkwResult mM1 ch) s

/-- Add `n` on its way on plot `p` is made, and its token sent on (R234). -/
def execCounterAdd (s : State) : Result :=
  match s.cur with
  | .at p n _ _ =>
    let s := { s with cur := .idle }
    match (plotAt s p).unit.adds[n]? with
    | some a =>
      if mayStart s p a.held.block (heldEnv a.held).gslot then
        let s := modUnit s p (fun u => { u with adds := u.adds.eraseIdx n })
        let s := openChannel s p a.held.block.ctx a.ch (heldEnv a.held)
        let s := workChannel s p a.held.block.ctx a.ch (heldEnv a.held)
          (fun k => { k with value := k.value + BitVec.ofNat 48 a.add })
        .next (sendHeld s p a.held (heldPassed a.held))
      else .next s
    | none => .next s
  | _ => .next s

/-- `ctkw` number `n` on its way on plot `p` joins its counter's waiters (R235). -/
def execCtkwJoin (s : State) : Result :=
  match s.cur with
  | .at p n _ _ =>
    let s := { s with cur := .idle }
    match (plotAt s p).unit.joins[n]? with
    | some a =>
      if mayStart s p a.held.block (heldEnv a.held).gslot then
        let s := modUnit s p (fun u => { u with joins := u.joins.eraseIdx n })
        let s := openChannel s p a.held.block.ctx a.ch (heldEnv a.held)
        .next (workChannel s p a.held.block.ctx a.ch (heldEnv a.held)
          (fun k => { k with waiters := k.waiters ++ [ChannelWaiter.mk a.held a.m] }))
      else .next s
    | none => .next s
  | _ => .next s

end Sys2Proof.Machine
end

