-- ==== Sys2Proof/Machine/Buffers.lean ====
section
/-! DEFINITION. The plot's control unit (11_plotstore.md): circular buffers, frames and permits, with the waiters of
each (R269 to R280, R288 to R292). -/
namespace Sys2Proof.Machine

/-! ### Regions and the window address (R269, R270) -/

/-- The virtual address of an offset of a plot's store (R269). The model's choice (assumption 28): R269 numbers the windows of plots 0 to
31 only, and the headland of die d counts as plot 32 + d here. -/
def windowVa (s : State) (c : BitVec 12) (p o : Nat) : Word :=
  (regsOn s c p).psva + BitVec.ofNat 64 (p * 0x10_0000 + o)

/-- The first byte of a group's region in its plot's store, and the region's bytes (R270). -/
def regionStart (g : Group) : Nat := g.regionFirst * 1024
def regionBytes (g : Group) : Nat := g.regionBlocks * 1024

/-! ### Buffer records (R271, R272) -/

/-- The record of a handle that is not declared. -/
def CircBuf.undeclared : CircBuf := CircBuf.mk 0 0 0 0 0 0 0 [] (CbShape.mk 0 0 0)

/-- A buffer record of a group slot. -/
def bufferAt (s : State) (p : Nat) (g : BitVec 3) (cb : Nat) : CircBuf :=
  match groupAt s p g with
  | some x => x.buffers.getD cb CircBuf.undeclared
  | none => CircBuf.undeclared

/-- The state with a buffer record written. -/
def setBuffer (s : State) (p : Nat) (g : BitVec 3) (cb : Nat) (b : CircBuf) : State :=
  modGroup s p g (fun x => { x with buffers := x.buffers.set cb b })

/-- A difference of two pointers (R271). -/
def ringDiff (n a b : Nat) : Nat := if n = 0 then 0 else (a + 2 * n - b) % (2 * n)

def cbAcquired (b : CircBuf) : Nat := ringDiff b.slots b.ap b.fp
def cbFilled (b : CircBuf) : Nat := ringDiff b.slots b.cp b.ap
def cbReserved (b : CircBuf) : Nat := ringDiff b.slots b.rp b.cp
def cbFree (b : CircBuf) : Nat := b.slots - cbAcquired b - cbFilled b - cbReserved b

/-- The slot that a pointer names. -/
def cbSlot (b : CircBuf) (ptr : Nat) : Nat := if b.slots = 0 then 0 else ptr % b.slots

/-- A pointer moved on. -/
def cbStep (b : CircBuf) (ptr k : Nat) : Nat := if b.slots = 0 then 0 else (ptr + k) % (2 * b.slots)

/-- The slots of a run of `k` from slot `s0`. -/
def cbRun (b : CircBuf) (s0 k : Nat) : List Nat := (List.range k).map (fun i => (s0 + i) % b.slots)

/-- A buffer with a run of slots marked. -/
def cbMark (b : CircBuf) (s0 k : Nat) (m : SlotMark) : CircBuf :=
  { b with marks := (cbRun b s0 k).foldl (fun l i => l.set i m) b.marks }

/-- CP over the consecutive COMM slots that stand at it (R272). -/
def advanceCommit : Nat → CircBuf → CircBuf
  | 0, b => b
  | n + 1, b => if b.marks[cbSlot b b.cp]? = some .comm then advanceCommit n { b with cp := cbStep b b.cp 1 } else b

/-- FP over the consecutive RELD slots that stand at it, each FREE (R272). -/
def advanceRelease : Nat → CircBuf → CircBuf
  | 0, b => b
  | n + 1, b =>
    if b.marks[cbSlot b b.fp]? = some .reld then
      advanceRelease n { b with fp := cbStep b b.fp 1, marks := b.marks.set (cbSlot b b.fp) .free }
    else b

/-- `k` slots reserved or acquired (R278). -/
def cbTake (acquire : Bool) (b : CircBuf) (k : Nat) : CircBuf :=
  if acquire then { cbMark b (cbSlot b b.ap) k .acq with ap := cbStep b b.ap k }
  else { cbMark b (cbSlot b b.rp) k .resv with rp := cbStep b b.rp k }

/-- A buffer as dispatch and `cbini` set it (R271, R277). -/
def cbFresh (declared : CbShape) (ofs slots bytes : Nat) : CircBuf :=
  CircBuf.mk ofs slots bytes 0 0 0 0 (List.replicate slots .free) declared

/-- The offset of a slot of a group's buffer in its plot's store (R271). -/
def slotOffset (s : State) (p : Nat) (g : BitVec 3) (b : CircBuf) (i : Nat) : Nat :=
  match groupAt s p g with
  | some x => regionStart x + b.ofs + i * b.slotBytes
  | none => 0

/-- The address of a slot of a group's buffer (R271). -/
def slotVa (s : State) (p : Nat) (g : BitVec 3) (b : CircBuf) (i : Nat) : Word :=
  match groupAt s p g with
  | some x => windowVa s x.ctx p (regionStart x + b.ofs + i * b.slotBytes)
  | none => 0

/-! ### Frames (R292) -/

/-- The blocks of a plot's store that a region or a frame holds (R270). -/
def heldBlocks (s : State) (p : Nat) : List (Nat × Nat) :=
  (plotAt s p).unit.groups.flatMap (fun o => match o with
    | some g => (g.regionFirst, g.regionBlocks) :: g.frames.map (fun f => (f.first, f.blocks))
    | none => [])

/-- A run of blocks is free. -/
def blocksFree (s : State) (p i n : Nat) : Bool :=
  decide (i + n ≤ storeBytes p / 1024) &&
    (heldBlocks s p).all (fun h => decide (i + n ≤ h.1) || decide (h.1 + h.2 ≤ i) || h.2 == 0)

/-- The lowest free run of `n` blocks (R292, R338): it starts at block 0 or where something held ends. -/
def lowestRun (s : State) (p n : Nat) : Option Nat :=
  ((0 :: (heldBlocks s p).map (fun h => h.1 + h.2)).filter (fun i => blocksFree s p i n)).foldl (fun m i => match m with
    | none => some i
    | some b => some (min b i)) none

/-- The handle of a frame. -/
def frameHandle (f : Frame) : Nat := 0x8000_0000 + (f.blocks - 1) * 1024 + f.first

/-- The answer of an `frq` (R276, R292). -/
def sendFrame (s : State) (p : Nat) (h : Held) (handle : Nat) (va : Word) : State :=
  sendBack s p h.block (sendTo h.head.t0 (Token.mk (heldEnv h) (statusPacket handle)) ++
    sendTo h.head.t1 (Token.mk (heldEnv h) (word64Packet va)))

/-- Blocks that a group's frames hold. -/
def groupFrameBlocks (s : State) (p : Nat) (g : BitVec 3) : Nat :=
  match groupAt s p g with
  | some x => (x.frames.map (fun f => f.blocks)).sum
  | none => 0

/-- A frame of `n` blocks given, its bytes zero and its words full (R292). -/
def giveFrame (s : State) (p : Nat) (g : BitVec 3) (h : Held) (i n : Nat) : State :=
  let s := modGroup s p g (fun x => { x with frames := x.frames ++ [Frame.mk i n] })
  let s := fullStore s (storeAddr p (i * 1024)) (n * 1024) 0
  sendFrame s p h (frameHandle (Frame.mk i n)) (windowVa s h.block.ctx p (i * 1024))

/-! ### Waiters (R274, R284, R292) -/

/-- A waiter stands in the queue of a buffer: its reserve queue, or its acquire queue. -/
def inQueue (acquire : Bool) (g : BitVec 3) (cb : Nat) (w : Waiter) : Bool :=
  w.gslot == g && (match w.kind with
    | .reserve b _ | .copyReserve b _ => !acquire && b == cb
    | .acquire b _ => acquire && b == cb
    | _ => false)

/-- A frame request waits on the plot. -/
def isFrameWaiter (w : Waiter) : Bool :=
  match w.kind with
  | .frame _ => true
  | _ => false

/-- A `cpycb` that holds its slots and waits for an engine place. -/
def isPlaceWaiter (w : Waiter) : Bool :=
  match w.kind with
  | .copyPlace _ _ _ => true
  | _ => false

/-- Buffer waiters of a plot (R274). -/
def bufferWaiters (s : State) (p : Nat) : Nat :=
  (plotAt s p).unit.waiters.countP (fun w => match w.kind with
    | .reserve _ _ | .acquire _ _ | .copyReserve _ _ | .copyPlace _ _ _ | .receive _ => true
    | _ => false)

/-- The state with the waiters of a plot changed. -/
def modWaiters (s : State) (p : Nat) (f : List Waiter → List Waiter) : State :=
  modUnit s p (fun u => { u with waiters := f u.waiters })

/-- The results of a `cbres` or `cbacq` that took slots from slot `i`, or none (R278). -/
def sendSlot (s : State) (p : Nat) (h : Held) (va : Word) (ok i : Nat) : State :=
  sendBack s p h.block (sendTo h.head.t0 (Token.mk (heldEnv h) (word64Packet va)) ++
    sendTo h.head.t1 (Token.mk (heldEnv h) (mkPacket 0x05 [BitVec.ofNat 64 ok, BitVec.ofNat 64 i])))

/-- `k` slots taken for a `cbres` or `cbacq` (R278). -/
def takeSlots (acquire : Bool) (s : State) (p : Nat) (g : BitVec 3) (cb k : Nat) (h : Held) : State :=
  let b := bufferAt s p g cb
  let i := cbSlot b (if acquire then b.ap else b.rp)
  sendSlot (setBuffer s p g cb (cbTake acquire b k)) p h (slotVa s p g b i) 1 i

/-- The engine with fewer requests, where it has room (R281). -/
def engineFor (s : State) (p : Nat) : Option Nat :=
  let n := fun i => ((plotAt s p).copyQueues.getD i []).length
  let i := if n 1 < n 0 then 1 else 0
  if n i < 16 then some i else none

/-- A request at the tail of an engine's queue. -/
def queueCopy (s : State) (p i : Nat) (r : CopyReq) : State :=
  { modPlot s p (fun x => { x with copyQueues := x.copyQueues.modify i (fun q => q ++ [r]) }) with nextId := s.nextId + 1 }

/-- The request of a `cpycb` whose slots are reserved from slot `first` (R284). -/
def bufferCopy (s : State) (h : Held) (cb first k : Nat) (src : Word) (bytes : Nat) : CopyReq where
  held := h
  gslot := (heldEnv h).gslot
  form := .buffer cb first k src bytes
  row := 0
  piece := none
  phase := .idle
  scope := .plot
  done := h.head.t2.isSome
  faulted := false
  id := s.nextId

/-- The source and bytes of a `cpycb` (R284), as its firing has checked them. -/
def cpycbOperands (s : State) (p : Nat) (h : Held) : Word × Nat :=
  let c := fireCtxOf s p h.block h.set h.head
  match natOperand c 0 0, natOperand c 1 0 with
  | .ok a, .ok m => (BitVec.ofNat 64 a, m)
  | _, _ => (0, 0)

/-- A `cpycb` whose slots are reserved takes an engine place, or waits for one holding its slots (R281, R284). The model's choice
(assumption 49): one that waits for a place counts among the 256 buffer waiters of R274 and is itself never refused. -/
def placeCopy (s : State) (p : Nat) (g : BitVec 3) (cb k first : Nat) (h : Held) : State :=
  let (src, bytes) := cpycbOperands s p h
  if (plotAt s p).unit.waiters.any isPlaceWaiter then
    modWaiters s p (fun l => l ++ [Waiter.mk h g (.copyPlace cb k first)])
  else
    match engineFor s p with
    | some i => queueCopy s p i (bufferCopy s h cb first k src bytes)
    | none => modWaiters s p (fun l => l ++ [Waiter.mk h g (.copyPlace cb k first)])

/-- The slots of a `cpycb` reserved (R284). -/
def reserveCopy (s : State) (p : Nat) (g : BitVec 3) (cb k : Nat) (h : Held) : State :=
  let b := bufferAt s p g cb
  let first := cbSlot b b.rp
  placeCopy (setBuffer s p g cb (cbTake false b k)) p g cb k first h

/-! ### Live groups (R341) -/

/-- Something on a tile belongs to a group slot. -/
def tileHolds (g : BitVec 3) (t : Tile) : Bool :=
  let mine := fun (r : Row) => r.env.gslot == g
  t.ports.any (fun q => q.rows.any mine) || t.stage0.any (fun r => mine r.row) || t.stage1.any (fun r => mine r.row) ||
    t.array.any (fun r => mine r.row) || t.switch.any (fun x => heldBy g x.held) || t.latches.any (fun x => heldBy g x.held) ||
    t.gather.any (fun x => heldBy g x.held) || t.fillers.any (fun f => heldBy g f.held) ||
    t.repeats.any (fun r => r.buffer.any mine || r.job.any (fun j => heldBy g j.held)) || t.jobs.any (fun j => heldBy g j.held) ||
    t.accs.any (fun y => y.2.check.any (fun k => heldBy g k.held))

/-- Tokens of a context's group slot in a copy of its plot. -/
def copyHolds (c : BitVec 12) (g : BitVec 3) (x : Copy) : Bool :=
  x.id.ctx == c && (x.buffer.any (fun t => ofGroup g t.tok) || x.spilled.any (fun t => ofGroup g t.tok) ||
    x.waiting.any (fun t => ofGroup g t.tok) || x.ready.any (fun m => setSlot m == g))

/-- An access that keeps its group live: its entry is held, or a done token of it is still to come. -/
def accessLive (a : Access) : Bool := !a.freed || (a.xf.done && a.xf.scope == .system && a.head.t2.isSome)

/-- A unit of the plot holds something for a group slot. -/
def unitHolds (g : BitVec 3) (u : GroupUnit) : Bool :=
  u.waiters.any (fun w => w.gslot == g) || u.barWaiters.any (fun w => w.gslot == g) || u.refused.any (fun w => w.gslot == g) ||
    u.channels.any (fun k => k.gslot == g && !k.waiters.isEmpty) || u.adds.any (fun w => heldBy g w.held) ||
    u.joins.any (fun w => heldBy g w.held)

/-- A group is live (R341). -/
def groupLive (s : State) (p : Nat) (g : BitVec 3) (x : Group) : Bool :=
  let y := plotAt s p
  y.blocks.copies.any (copyHolds x.ctx g) ||
    s.flights.any (fun f => f.dest.plot == p && ofGroup g f.tok) || s.rows.any (fun f => f.dest.plot == p && f.row.env.gslot == g) ||
    y.tiles.any (fun t => tileHolds g t.2) ||
    y.savedTiles.any (fun t => t.block.ctx == x.ctx && tileHolds g t.tile) || y.accesses.any (fun a => setSlot a.set == g && accessLive a) ||
    y.copyQueues.any (fun q => q.any (fun r => r.gslot == g)) || y.savedCopies.any (fun r => r.2.gslot == g) ||
    y.savedPlaces.any (fun w => w.gslot == g) || unitHolds g y.unit ||
    s.homeWaiters.any (fun w => match w with
      | .permit _ q _ h _ _ => q == p && h == g
      | _ => false) ||
    y.chains.any (fun c => c.state != .idle && c.env.gslot == g) ||
    s.tlbis.any (fun j => j.plot == p && j.held.block.ctx == x.ctx && heldBy g j.held) ||
    s.regWrites.any (fun w => w.reply.any (fun r => r.plot == p && r.held.block.ctx == x.ctx && heldBy g r.held))

/-! ### Inbound ports (R344, R347, R348) -/

/-- The oldest message in an inbound port of a group slot. -/
def portHead (s : State) (p : Nat) (g : BitVec 3) (port : Nat) : Option Packet :=
  (groupAt s p g).bind (fun x => (x.ports.getD port []).head?)

/-- A `recv` takes the oldest message (R348). -/
def takeMessage (s : State) (p : Nat) (g : BitVec 3) (port : Nat) (h : Held) : State :=
  match portHead s p g port with
  | some k =>
    let s := modGroup s p g (fun x => { x with ports := x.ports.modify port (fun l => l.drop 1) })
    sendBack s p h.block (sendTo h.head.t0 (Token.mk (heldEnv h) k) ++
      sendTo h.head.t1 (Token.mk (heldEnv h) (statusPacket 1)))
  | none => s

/-- A `recv` waits at a port. -/
def atPort (g : BitVec 3) (port : Nat) (w : Waiter) : Bool := w.gslot == g && w.kind == .receive port

/-- The handle that a held `post` names: bits [31:0] of element 0 of port 0. -/
def postHandle (s : State) (p : Nat) (h : Held) : BitVec 32 :=
  match natOperand (fireCtxOf s p h.block h.set h.head) 0 0 with
  | .ok v => BitVec.ofNat 32 v
  | .error _ => 0

/-- A group is RETIRING, or RUNNING and quiescent: quiescence takes effect before a `post` (R342, R343). -/
def groupEnds (s : State) (p : Nat) (g : BitVec 3) (x : Group) : Bool :=
  x.phase == .retiring || (x.phase == .running && !groupLive s p g x)

/-- The group that a handle names (R338, R347), if a message may be delivered to it. -/
def postTarget (s : State) (ctx : BitVec 12) (v : BitVec 32) : Option Group :=
  let p := (v.extractLsb' 26 5).toNat
  let g := v.extractLsb' 23 3
  match groupAt s p g with
  | some x => if v.getLsbD 31 && x.seq == v.extractLsb' 0 23 && x.ctx == ctx && !groupEnds s p g x then some x else none
  | none => none

/-- IPT of a held `post`, from its station's words. -/
def postPort (s : State) (p : Nat) (h : Held) : Nat :=
  match copyOf s p h.block with
  | none => 0
  | some c =>
    match stationInstr c h.set.slot with
    | .ok (.post _ _ ipt) => ipt.toNat
    | _ => 0

/-- The entry of a message's acceptance (R437): where it stands, and what identifies it. -/
def portAddr (g : Group) (ipt : Nat) : Nat := g.record + ipt
def portIdent (s : State) (p : Nat) (h : Held) (g : Group) : List Word :=
  g.number.setWidth 64 :: identityOf s p h.block h.set.slot (heldEnv h)

/-- The verdict of the record on a message (R349, R437, R438). -/
def postVerdict (s : State) (p : Nat) (h : Held) (g : Group) (ipt : Nat) : Verdict :=
  verdictIn s h.block.ctx (fun e => e.kind == recPort && e.addr == portAddr g ipt && e.words.head? == some (g.number.setWidth 64)) recPort
    (portIdent s p h g)

/-- A message appended to a port, or to the spill area where the port is full (R344). -/
def appendMessage (s : State) (q : Nat) (g : BitVec 3) (ipt : Nat) (k : Packet) : State :=
  match groupAt s q g with
  | none => s
  | some x =>
    if (x.ports.getD ipt []).length < 16 ∧ (x.portSpill.getD ipt []).isEmpty = true then
      modGroup s q g (fun y => { y with ports := y.ports.modify ipt (fun l => l ++ [k]) })
    else afterSpill (modGroup s q g (fun y => { y with portSpill := y.portSpill.modify ipt (fun l => l ++ [k]) })) x.ctx

/-- The message of a held `post`. -/
def postMessage (h : Held) : Packet := ((tokenAt h.set.toks 1).map (fun t => t.pkt)).getD noPacket

/-- The verdict of the record on a `post`: one that is undelivered is free. -/
def postTurn (s : State) (p : Nat) (h : Held) : Verdict :=
  match postTarget s h.block.ctx (postHandle s p h) with
  | none => .free
  | some g => postVerdict s p h g (postPort s p h)

/-- The plot whose control unit an instruction's operation on a buffer record, a barrier or a port reaches (R274, R344, R352). -/
def unitReached (s : State) (p : Nat) (h : Held) : Instr → Option Nat
  | .cbini _ _ | .cbres _ _ _ | .cbcom _ _ | .cbacq _ _ _ | .cbrel _ _ | .cbst _ _ | .cpycb _ _ _ | .bar _ _ _ => some p
  | .post _ _ _ =>
    let v := postHandle s p h
    if (postTarget s h.block.ctx v).isSome then some (v.extractLsb' 26 5).toNat else none
  | _ => none

/-- The rank of an operation of a held set among those that reach a control unit in one plot cycle (R267): the PEs' stations of the
plot by tile, PE and slot, then every other plot. -/
def arrivalRank (s : State) (p q : Nat) (h : Held) : Nat :=
  if q ≠ p then 65536 else (copyOf s p h.block).elim 0 (fun c => slotKey c h.set.slot)

/-- An operation's rank has not been passed at a control unit in this plot cycle (R274, R344). -/
def rankOpen (s : State) (q r : Nat) : Bool := (s.reached.find? (fun x => x.1 == q)).all (fun x => decide (x.2 ≤ r))

/-- The state with an operation of a rank at a control unit. -/
def rankTaken (s : State) (q r : Nat) : State := { s with reached := (q, r) :: s.reached }

/-- A `post` may be made now: it is undelivered, or its turn has come. -/
def postReady (s : State) (p : Nat) (h : Held) : Bool := !(postTurn s p h).waits

/-- A `post` made (R347): delivered, or found undelivered. -/
def performPost (s : State) (p : Nat) (h : Held) : State :=
  let v := postHandle s p h
  let done := fun (s : State) (n : Nat) => sendBack s p h.block (sendTo h.head.t2 (Token.mk (heldEnv h) (statusPacket n)))
  match postTarget s h.block.ctx v with
  | none => done (countEvent s (if v.getLsbD 31 then (v.extractLsb' 26 5).toNat else p) 0x1B (some h.block.ctx) 1) 1
  | some g =>
    let ipt := postPort s p h
    let s := match postVerdict s p h g ipt with
      | .now e => serveEntry s h.block.ctx e
      | _ => recordEntry s h.block.ctx recPort (portAddr g ipt) (portIdent s p h g)
    done (appendMessage s (v.extractLsb' 26 5).toNat (v.extractLsb' 23 3) ipt (postMessage h)) 0

/-- A waiter can be served now: it is the head of its queue, and what it waits for is there. -/
def canServe (s : State) (p : Nat) (before : List Waiter) (w : Waiter) : Bool :=
  match w.kind with
  | .reserve cb k | .copyReserve cb k =>
    !before.any (inQueue false w.gslot cb) && decide (k ≤ cbFree (bufferAt s p w.gslot cb))
  | .acquire cb k => !before.any (inQueue true w.gslot cb) && decide (k ≤ cbFilled (bufferAt s p w.gslot cb))
  | .copyPlace _ _ _ => !before.any isPlaceWaiter && (engineFor s p).isSome
  | .frame n => !before.any isFrameWaiter && (decide (64 < groupFrameBlocks s p w.gslot + n) || (lowestRun s p n).isSome)
  | .receive port => !before.any (atPort w.gslot port) && (portHead s p w.gslot port).isSome
  | .post => postReady s p w.held
  | .permit _ => false

/-- The first waiter that can be served, by its place. -/
def servable (s : State) (p : Nat) : Nat → List Waiter → List Waiter → Option (Nat × Waiter)
  | _, _, [] => none
  | i, before, w :: ws => if canServe s p before w then some (i, w) else servable s p (i + 1) (before ++ [w]) ws

/-- A waiter served. -/
def serveWaiter (s : State) (p : Nat) (w : Waiter) : State :=
  match w.kind with
  | .reserve cb k => takeSlots false s p w.gslot cb k w.held
  | .acquire cb k => takeSlots true s p w.gslot cb k w.held
  | .copyReserve cb k => reserveCopy s p w.gslot cb k w.held
  | .copyPlace cb k first =>
    let (src, bytes) := cpycbOperands s p w.held
    (match engineFor s p with
    | some i => queueCopy s p i (bufferCopy s w.held cb first k src bytes)
    | none => s)
  | .frame n =>
    if 64 < groupFrameBlocks s p w.gslot + n then sendFrame s p w.held 0 0
    else (match lowestRun s p n with
      | some i => giveFrame s p w.gslot w.held i n
      | none => s)
  | .receive port => takeMessage s p w.gslot port w.held
  | .post => performPost s p w.held
  | .permit _ => s

/-- The waiters of the control unit served as far as they can be, earliest first (R274). -/
def kickWaiters : Nat → State → Nat → State
  | 0, s, _ => s
  | fuel + 1, s, p =>
    match servable s p 0 [] (plotAt s p).unit.waiters with
    | some (i, w) => kickWaiters fuel (serveWaiter (modWaiters s p (fun l => l.eraseIdx i)) p w) p
    | none => s

/-- The control unit tries its waiters again; a waiter may be served once for its slots and once for its place. -/
def kickUnit (s : State) (p : Nat) : State := kickWaiters (2 * (plotAt s p).unit.waiters.length) s p

/-- A buffer request waits, or is refused where the plot holds 256 (R274). -/
def joinWaiters (s : State) (p : Nat) (g : BitVec 3) (h : Held) (k : WaitKind) : State :=
  if bufferWaiters s p < 256 then modWaiters s p (fun l => l ++ [Waiter.mk h g k])
  else modUnit s p (fun u => { u with refused := u.refused ++ [Refused.mk h g k] })

/-! ### The buffer instructions (R276 to R280) -/

/-- A buffer request reaches the control unit (R274, R278, R284). -/
def requestSlots (s : State) (p : Nat) (g : BitVec 3) (h : Held) (k : WaitKind) : State :=
  match k with
  | .reserve cb n =>
    if (plotAt s p).unit.waiters.any (inQueue false g cb) ∨ cbFree (bufferAt s p g cb) < n then joinWaiters s p g h k
    else takeSlots false s p g cb n h
  | .acquire cb n =>
    if (plotAt s p).unit.waiters.any (inQueue true g cb) ∨ cbFilled (bufferAt s p g cb) < n then joinWaiters s p g h k
    else kickUnit (takeSlots true s p g cb n h) p
  | .copyReserve cb n =>
    if (plotAt s p).unit.waiters.any (inQueue false g cb) ∨ cbFree (bufferAt s p g cb) < n then joinWaiters s p g h k
    else reserveCopy s p g cb n h
  | _ => s

/-- `cbini` (R277). DEDUCED: with length 1 the buffer has the geometry that its kernel declared, whatever a `cbini` of length 3 has
set since (assumption 55). -/
def cbiniResult (cb : BitVec 4) (c : FireCtx) (s : State) : Except FaultInfo (State × List Send) := do
  let g := c.env.gslot
  let old := bufferAt s c.plot g cb.toNat
  let n := lenAt c 0
  require (n == 1 || n == 3) causePacketLength
  let fresh ← if n = 1 then .ok (cbFresh old.declared old.declared.ofs old.declared.slots old.declared.slotBytes)
    else do
      let ofs ← natOperand c 0 0
      let slots ← natOperand c 0 1
      let bytes ← natOperand c 0 2
      require (ofs % 16 == 0 && bytes % 16 == 0) causeAlign
      let room := match groupAt s c.plot g with
        | some x => regionBytes x
        | none => 0
      require (decide (1 ≤ slots ∧ slots ≤ 256 ∧ 16 ≤ bytes ∧ bytes ≤ 65536 ∧ ofs + slots * bytes ≤ room)) causeCbOversize
      .ok (cbFresh old.declared ofs slots bytes)
  let idle := cbReserved old == 0 && cbAcquired old == 0 &&
    !(plotAt s c.plot).unit.waiters.any (fun w => inQueue false g cb.toNat w || inQueue true g cb.toNat w)
  .ok (if idle then setBuffer s c.plot g cb.toNat fresh else s, emit c (statusPacket (natOfBool (!idle))))

/-- `cbres` and `cbacq` (R278). -/
def takeResult (acquire wait : Bool) (cb : BitVec 4) (c : FireCtx) (m : MatchedSet) (s : State) :
    Except FaultInfo (State × List Send) := do
  let g := c.env.gslot
  let b := bufferAt s c.plot g cb.toNat
  let h := heldOf c m
  let k ← natOperand c 1 0
  require (b.slots != 0 && decide (k ≤ b.slots)) causeCbOversize
  let have_ := if acquire then cbFilled b else cbFree b
  let i := cbSlot b (if acquire then b.ap else b.rp)
  if k = 0 then .ok (sendSlot s c.plot h (slotVa s c.plot g b i) 1 i, [])
  else if wait then
    .ok (requestSlots s c.plot g h (if acquire then .acquire cb.toNat k else .reserve cb.toNat k), [])
  else if (plotAt s c.plot).unit.waiters.any (inQueue acquire g cb.toNat) ∨ have_ < k then .ok (sendSlot s c.plot h 0 0 0, [])
  else .ok (takeSlots acquire s c.plot g cb.toNat k h, [])

/-- `cbcom` and `cbrel` (R279). -/
def giveResult (release : Bool) (cb : BitVec 4) (c : FireCtx) (s : State) : Except FaultInfo (State × List Send) := do
  let g := c.env.gslot
  let b := bufferAt s c.plot g cb.toNat
  let i ← natOperand c 0 0
  let k ← natOperand c 1 0
  let need : SlotMark := if release then .acq else .resv
  if i < b.slots ∧ 1 ≤ k ∧ k ≤ b.slots ∧ (cbRun b i k).all (fun j => b.marks[j]? == some need) = true then
    let b := if release then advanceRelease (cbAcquired b) (cbMark b i k .reld)
      else advanceCommit (cbReserved b) (cbMark b i k .comm)
    .ok (kickUnit (setBuffer s c.plot g cb.toNat b) c.plot, emit c (statusPacket 0))
  else .ok (s, emit c (statusPacket 1))

/-- `cbst` (R280). -/
def cbstResult (cb : BitVec 4) (c : FireCtx) (s : State) : Except FaultInfo (State × List Send) :=
  let b := bufferAt s c.plot c.env.gslot cb.toNat
  .ok (s, emit c (mkPacket 0x05 ([cbFree b, cbReserved b, cbFilled b, cbAcquired b, cbSlot b b.rp, cbSlot b b.ap, b.slots,
    b.slotBytes].map (BitVec.ofNat 64))))

def execCbini (h : Head) (cb : BitVec 4) (s : State) : Result := throughPort s (fireState h (cbiniResult cb) s)
def execCbres (h : Head) (wait : Bool) (cb : BitVec 4) (s : State) : Result := fireHeld h (takeResult false wait cb) s
def execCbcom (h : Head) (cb : BitVec 4) (s : State) : Result := throughPort s (fireState h (giveResult false cb) s)
def execCbacq (h : Head) (wait : Bool) (cb : BitVec 4) (s : State) : Result := fireHeld h (takeResult true wait cb) s
def execCbrel (h : Head) (cb : BitVec 4) (s : State) : Result := throughPort s (fireState h (giveResult true cb) s)
def execCbst (h : Head) (cb : BitVec 4) (s : State) : Result := throughPort s (fireState h (cbstResult cb) s)

/-! ### The frame instructions (R292) -/

/-- `frq` (R292). -/
def frqResult (wait : Bool) (c : FireCtx) (m : MatchedSet) (s : State) : Except FaultInfo (State × List Send) := do
  let b ← natOperand c 1 0
  let g := c.env.gslot
  let h := heldOf c m
  let n := (b + 1023) / 1024
  if b = 0 ∨ 16384 < b ∨ 64 < groupFrameBlocks s c.plot g + n then .ok (sendFrame s c.plot h 0 0, [])
  else
    match lowestRun s c.plot n with
    | some i => .ok (giveFrame s c.plot g h i n, [])
    | none =>
      if wait then .ok (modWaiters s c.plot (fun l => l ++ [Waiter.mk h g (.frame n)]), [])
      else .ok (sendFrame s c.plot h 0 0, [])

/-- `frl` (R292). -/
def frlResult (c : FireCtx) (s : State) : Except FaultInfo (State × List Send) := do
  let v ← natOperand c 0 0
  let g := c.env.gslot
  match (groupAt s c.plot g).bind (fun x => x.frames.find? (fun f => frameHandle f == v)) with
  | some f =>
    let s := modGroup s c.plot g (fun x => { x with frames := x.frames.erase f })
    .ok (kickUnit s c.plot, emit c (statusPacket 0))
  | none => .ok (s, emit c (statusPacket 1))

def execFrq (h : Head) (wait : Bool) (s : State) : Result := fireHeld h (frqResult wait) s
def execFrl (h : Head) (s : State) : Result := throughPort s (fireState h frlResult s)

/-! ### Permits (R288 to R291) -/

/-- The address of a permit: 16-byte aligned, in a plot-store window (R289). -/
def permitAddress (c : FireCtx) (s : State) : Except FaultInfo (State × Word × Nat) := do
  let a ← natOperand c 0 0
  let va := BitVec.ofNat 64 a
  if !vaValid va then .error (faultAt causeTrInvalid 0 va)
  else if va.toNat % 16 ≠ 0 then .error (faultAt causeAlign 0 va)
  else
    let (s, pa, l) ← stationTranslate s c.plot c.block c.slot va .store
    if rangeOf pa = .window then .ok (s, va, pa) else .error (faultAt causeTrAttr (leafLevel l) va)

/-- The waiters of a permit, in order. -/
def permitQueue (s : State) (pa : Nat) : List HomeWaiter :=
  s.homeWaiters.filter (fun w => match w with
    | .permit _ _ _ _ _ a => a == pa
    | _ => false)

/-- The first 64 bits of a permit record (R288). -/
def permitWord (state : Nat) (ctx : BitVec 12) (gslot : BitVec 3) (plot : Nat) (thread : BitVec 10) (waiters : Nat) : Word :=
  0xA5#8 ++ 0#8 ++ BitVec.ofNat 2 state ++ ctx ++ gslot ++ BitVec.ofNat 5 plot ++ thread ++ BitVec.ofNat 16 waiters

/-- KIND and STATE of a record are those of a permit (R289). -/
def permitSound (w : Word) : Bool := w.extractLsb' 56 8 == 0xA5 && !w.getLsbD 47

/-- A permit is HELD. -/
def permitHeld (w : Word) : Bool := w.getLsbD 46

/-- WAITERS of a record rewritten. -/
def setPermitWaiters (s : State) (pa : Nat) : State :=
  let w := readWord s pa
  writeWord s pa ((w &&& 0xFFFF_FFFF_FFFF_0000) ||| BitVec.ofNat 64 ((permitQueue s pa).length % 65536))

/-- A waiter's group has been killed or is gone (R434). -/
def orphan (s : State) (w : HomeWaiter) : Bool :=
  match w with
  | .permit _ p h g _ _ =>
    (match groupAt s p g with
    | some x => x.phase == .retiring || x.ctx != h.block.ctx
    | none => true)
  | _ => false

/-- Permit waiters of killed groups withdrawn, and WAITERS of their permits rewritten (R291, R434). -/
def dropOrphans (s : State) : State :=
  let pas := (s.homeWaiters.filterMap (fun w => match w with
    | .permit _ _ _ _ _ a => if orphan s w then some a else none
    | _ => none)).eraseDups
  pas.foldl setPermitWaiters { s with homeWaiters := s.homeWaiters.filter (fun w => !orphan s w) }

/-- The waiter that a FREE permit goes to: the head, or in a replay the one whose turn it is (R289, R438). -/
def nextGrantee (s : State) (pa : Nat) : List HomeWaiter → Option HomeWaiter
  | [] => none
  | .permit h plot held g va a :: l =>
    (match verdict s held.block.ctx recPermit pa (identityOf s plot held.block held.set.slot (heldEnv held)) with
    | .free | .now _ => some (.permit h plot held g va a)
    | .wait | .full => nextGrantee s pa l)
  | _ :: l => nextGrantee s pa l

/-- A permit granted: recorded or taken from the record, the holder written, GRANTS counted, and the address sent
(R289, R290, R437). -/
def grantPermit (s : State) (pa : Nat) (w : HomeWaiter) : State :=
  match w with
  | .permit _ plot held _ va _ =>
    let e := heldEnv held
    let ident := identityOf s plot held.block held.set.slot e
    let s := { s with homeWaiters := s.homeWaiters.erase w }
    let s := match verdict s held.block.ctx recPermit pa ident with
      | .now r => serveEntry s held.block.ctx r
      | _ => recordEntry s held.block.ctx recPermit pa ident
    let s := writeWord s pa (permitWord 1 held.block.ctx e.gslot plot e.thread (permitQueue s pa).length)
    let s := writeWord s (pa + 8) (readWord s (pa + 8) + 1)
    sendHeldBack s plot held (word64Packet va)
  | _ => s

/-- The waiters of a FREE permit none of whom may have it: those whose record has no room have their contexts stopped (R437). -/
def awaitGrants (s : State) (pa : Nat) (l : List HomeWaiter) : State :=
  l.foldl (fun s w => match w with
    | .permit _ plot held _ _ _ =>
      awaitTurn s held.block.ctx (verdict s held.block.ctx recPermit pa (identityOf s plot held.block held.set.slot (heldEnv held)))
    | .lds _ _ _ | .replay _ _ => s) s

/-- A FREE permit goes to its next grantee, if one may have it. -/
def kickPermit (s : State) (pa : Nat) : State :=
  let s := dropOrphans s
  let w := readWord s pa
  if permitSound w && !permitHeld w then
    match nextGrantee s pa (permitQueue s pa) with
    | some g => grantPermit s pa g
    | none => awaitGrants s pa (permitQueue s pa)
  else s

/-- Every permit that is waited for, tried again: in a replay a grant waits for its turn (R438). -/
def kickPermits (s : State) : State :=
  let s := dropOrphans s
  ((s.homeWaiters.filterMap (fun w => match w with
    | .permit _ _ _ _ _ a => some a
    | _ => none)).eraseDups).foldl kickPermit s

/-- `pmini` (R289). -/
def pminiResult (c : FireCtx) (s : State) : Except FaultInfo (State × List Send) := do
  let (s, _, pa) ← permitAddress c s
  if (permitQueue s pa).isEmpty then
    .ok (writeWord (writeWord s pa (permitWord 0 0 0 0 0 0)) (pa + 8) 0, emit c (statusPacket 0))
  else .ok (s, emit c (statusPacket 1))

/-- A `pment` reaches its permit's store: it joins the queue, or is refused where the store's list is full (R289). -/
def joinPermit (s : State) (p : Nat) (h : Held) (va : Word) (pa : Nat) : State :=
  let g := (heldEnv h).gslot
  if waitersAt s (homeOf pa) < 256 then
    let s := { s with homeWaiters := s.homeWaiters ++ [.permit (homeOf pa) p h g va pa] }
    kickPermit (setPermitWaiters s pa) pa
  else modUnit s p (fun u => { u with refused := u.refused ++ [Refused.mk h g (.permit va)] })

/-- `pment` (R289). -/
def pmentResult (c : FireCtx) (m : MatchedSet) (s : State) : Except FaultInfo (State × List Send) := do
  let (s, va, pa) ← permitAddress c s
  require (permitSound (readWord s pa)) causeFormat
  .ok (joinPermit s c.plot (heldOf c m) va pa, [])

/-- The firing is the holder that a record names (R289). -/
def isHolder (w : Word) (c : FireCtx) : Bool :=
  permitHeld w && w.extractLsb' 34 12 == c.block.ctx && w.extractLsb' 31 3 == c.env.gslot &&
    w.extractLsb' 26 5 == BitVec.ofNat 5 c.plot && w.extractLsb' 16 10 == c.env.thread

/-- A permit freed: its holder fields stand until the next grant (R360). -/
def freePermit (s : State) (pa : Nat) (w : Word) : State :=
  writeWord s pa ((w &&& 0xFFFF_3FFF_FFFF_0000) ||| BitVec.ofNat 64 ((permitQueue s pa).length % 65536))

/-- `pmex` (R289). -/
def pmexResult (c : FireCtx) (s : State) : Except FaultInfo (State × List Send) := do
  let (s, _, pa) ← permitAddress c s
  let w := readWord s pa
  require (permitSound w) causeFormat
  if isHolder w c then
    .ok (kickPermit (freePermit s pa w) pa, emit c (statusPacket 0))
  else .ok (s, emit c (statusPacket 1))

/-- The walk for a permit's address, which stands though the firing faults after it (R452). -/
def permitWalk (c : FireCtx) (_ : FaultInfo) (s : State) : State :=
  match natOperand c 0 0 with
  | .ok a => if a % 16 = 0 then walked s c.plot c.block.ctx .store [BitVec.ofNat 64 a] else s
  | .error _ => s

def execPmini (h : Head) (s : State) : Result := throughPort s (fireWalks h permitWalk (fun c _ s => pminiResult c s) s)
def execPment (h : Head) (s : State) : Result := fireWalks h permitWalk pmentResult s
def execPmex (h : Head) (s : State) : Result := throughPort s (fireWalks h permitWalk (fun c _ s => pmexResult c s) s)

end Sys2Proof.Machine
end

