-- ==== Sys2Proof/Machine/Copies.lean ====
section
/-! DEFINITION. The copy engines (R281 to R287), and operations that a unit has refused and that are sent again (R210,
R274, R289). -/
namespace Sys2Proof.Machine

/-! ### Firing a copy (R283, R284) -/

/-- Every value of a copy is a multiple of 8 (R283): the faulting address is the first value that is not. -/
def copyAligned (xs : List Nat) : Except FaultInfo Unit :=
  match xs.find? (fun x => x % 8 != 0) with
  | some x => .error (faultAt causeAlign 0 (BitVec.ofNat 64 x))
  | none => .ok ()

/-- The done token of a copy (R285). -/
def copyDone (s : State) (p : Nat) (h : Held) : State :=
  sendBack s p h.block (sendTo h.head.t2 (Token.mk (heldEnv h) (statusPacket 0)))

/-- A copy request put in the engine with fewer requests; one that moves nothing sends its done token at once (R281,
R283). -/
def startCopy (s : State) (p : Nat) (h : Held) (form : CopyForm) (scope : Scope) (done empty : Bool) : State :=
  if empty then copyDone s p h
  else
    let r := CopyReq.mk h (heldEnv h).gslot form 0 none .idle scope done false s.nextId
    match engineFor s p with
    | some i => queueCopy s p i r
    | none => s

/-- `cpy` (R283). -/
def cpyResult (done : Bool) (scope : Scope) (c : FireCtx) (m : MatchedSet) (s : State) :
    Except FaultInfo (State × List Send) := do
  let src ← natOperand c 0 0
  let dst ← natOperand c 1 0
  let n ← natOperand c 2 0
  require (decide (n < 2 ^ 40)) causePacketLength
  copyAligned [src, dst, n]
  .ok (startCopy s c.plot (heldOf c m) (.rows (BitVec.ofNat 64 src) 0 (BitVec.ofNat 64 dst) 0 1 n) scope done (n == 0), [])

/-- `cpy2` (R283). -/
def cpy2Result (done : Bool) (scope : Scope) (c : FireCtx) (m : MatchedSet) (s : State) :
    Except FaultInfo (State × List Send) := do
  require (wideTag (packetAt c 0).fmt && wideTag (packetAt c 1).fmt) causeFormat
  let b ← natOperand c 2 0
  let x := fun i => packetSlot true c.fresh (packetAt c 0) i
  let y := fun i => packetSlot true (c.fresh + 8) (packetAt c 1) i
  require (lenAt c 0 == 3 && lenAt c 1 == 2 && decide (1 ≤ (x 2).toNat ∧ (x 2).toNat ≤ 65536)) causePacketLength
  copyAligned [(x 0).toNat, (y 0).toNat, (x 1).toNat, (y 1).toNat, b]
  .ok (startCopy s c.plot (heldOf c m) (.rows (x 0) (x 1) (y 0) (y 1) (x 2).toNat b) scope done (b == 0), [])

/-- `cpyq` (R283). -/
def cpyqResult (done : Bool) (scope : Scope) (c : FireCtx) (m : MatchedSet) (s : State) :
    Except FaultInfo (State × List Send) := do
  let a ← natOperand c 0 0
  copyAligned [a]
  .ok (startCopy s c.plot (heldOf c m) (.list (BitVec.ofNat 64 a) 0) scope done false, [])

/-- `cpycb` (R284). -/
def cpycbResult (cb : BitVec 4) (c : FireCtx) (m : MatchedSet) (s : State) : Except FaultInfo (State × List Send) := do
  let src ← natOperand c 0 0
  let n ← natOperand c 1 0
  let b := bufferAt s c.plot c.env.gslot cb.toNat
  let k := if b.slotBytes = 0 then 0 else (n + b.slotBytes - 1) / b.slotBytes
  require (b.slots != 0 && decide (k ≤ b.slots)) causeCbOversize
  copyAligned [src, n]
  if n = 0 then .ok (copyDone s c.plot (heldOf c m), [])
  else .ok (requestSlots s c.plot c.env.gslot (heldOf c m) (.copyReserve cb.toNat k), [])

def execCpy (h : Head) (done : Bool) (scope : Scope) (s : State) : Result := fireHeld h (cpyResult done scope) s
def execCpy2 (h : Head) (done : Bool) (scope : Scope) (s : State) : Result := fireHeld h (cpy2Result done scope) s
def execCpycb (h : Head) (_done : Bool) (cb : BitVec 4) (s : State) : Result := fireHeld h (cpycbResult cb) s
def execCpyq (h : Head) (done : Bool) (scope : Scope) (s : State) : Result := fireHeld h (cpyqResult done scope) s

/-! ### The work of an engine (R281, R282, R286) -/

/-- What a request does next: copy a piece, read a descriptor of its list, or end. -/
inductive CopyWork where
  | piece (x : CopyPiece) (r : CopyReq)
  | descriptor (va : Word) (seen : Nat)
  | finish
  deriving DecidableEq, Repr

/-- The piece of row `r` of a request by rows (R283). -/
def rowPiece (src sstride dst dstride : Word) (r bytes : Nat) : CopyPiece :=
  CopyPiece.mk (some (src + BitVec.ofNat 64 r * sstride)) (dst + BitVec.ofNat 64 r * dstride) false bytes

/-- The piece of a message that goes to byte `o` of slot `i` of a buffer (R284): in the window of its plot, or in the store of its
headland, which has no address (R16). -/
def slotPiece (s : State) (p : Nat) (r : CopyReq) (b : CircBuf) (i o : Nat) (src : Option Word) (n : Nat) : CopyPiece :=
  if p < 32 then CopyPiece.mk src (slotVa s p r.gslot b i + BitVec.ofNat 64 o) false n
  else CopyPiece.mk src (BitVec.ofNat 64 (slotOffset s p r.gslot b i + o)) true n

/-- What a request has to do next (R283, R284): of a message its bytes, in two parts where it wraps, and zeros to the end of its last
slot. -/
def nextWork (s : State) (p : Nat) (r : CopyReq) : CopyWork :=
  match r.piece with
  | some x => .piece x r
  | none =>
    match r.form with
    | .rows src ss dst ds rows bytes =>
      if r.row < rows then .piece (rowPiece src ss dst ds r.row bytes) { r with row := r.row + 1 } else .finish
    | .list next seen => if 0 < seen ∧ next = 0 then .finish else .descriptor next seen
    | .buffer cb first k src bytes =>
      let b := bufferAt s p r.gslot cb
      let head := min bytes ((b.slots - first) * b.slotBytes)
      if r.row = 0 then .piece (slotPiece s p r b first 0 (some src) head) { r with row := 1 }
      else if r.row = 1 ∧ head < bytes then
        .piece (slotPiece s p r b 0 0 (some (src + BitVec.ofNat 64 head)) (bytes - head)) { r with row := 2 }
      else if r.row < 3 ∧ bytes < k * b.slotBytes then
        .piece (slotPiece s p r b ((first + k - 1) % b.slots) (bytes - (k - 1) * b.slotBytes) none (k * b.slotBytes - bytes))
          { r with row := 3 }
      else .finish

/-- The owner of a request's reads and writes, on engine `e`. -/
def copyOwner (e : Nat) (r : CopyReq) : EngOwner := .copy r.id e

/-- The state with an engine's queue changed. -/
def modQueue (s : State) (p e : Nat) (f : List CopyReq → List CopyReq) : State :=
  modPlot s p (fun x => { x with copyQueues := x.copyQueues.modify e f })

/-- A request rewritten where it stands. -/
def putCopy (s : State) (p e : Nat) (r : CopyReq) : State :=
  modQueue s p e (fun q => q.map (fun x => if x.id = r.id then r else x))

/-- A request has met a fault (R286): it stands until its group's handler lets it go on, or until a cause slot is
free. What the chunk or descriptor had read is gone. -/
def copyFault (s : State) (p e : Nat) (r : CopyReq) (f : FaultInfo) : State :=
  let s := dropFailed (dropReads s (copyOwner e r)) (copyOwner e r)
  let (s', taken) := deliverFault s p r.gslot f (0#1 ++ r.held.set.slot) r.held.block (heldEnv r.held) (.copy r.id)
  putCopy s' p e { r with phase := .idle, faulted := taken }

/-- The bytes of the next chunk of a piece: up to a 4 KiB boundary of its destination (R281). -/
def chunkBytes (x : CopyPiece) : Nat := min x.bytes (4096 - x.dst.toNat % 4096)

/-- Where a chunk is written, every page of it translated. -/
def chunkTargets (s : State) (p : Nat) (c : BitVec 12) (x : CopyPiece) (n : Nat) : Except FaultInfo (State × List (Word × Nat × Nat)) :=
  if x.own then .ok (s, cutPhysical x.dst (storeAddr p x.dst.toNat) n) else enginePieces s p c x.dst n .store

/-- The walks for where a chunk is written, up to one that faults. -/
def targetWalk (s : State) (p : Nat) (c : BitVec 12) (x : CopyPiece) (n : Nat) : State :=
  if x.own then s else walked s p c .store (pagesOf x.dst n)

/-- A chunk whose source is there is written (R282): each line at its home. -/
def writeChunk (s : State) (p e : Nat) (r : CopyReq) (x : CopyPiece) (n v : Nat) : State :=
  match chunkTargets s p r.held.block.ctx x n with
  | .error f => copyFault (targetWalk s p r.held.block.ctx x n) p e r f
  | .ok (s', l) =>
    if piecesReady s' l then
      let o := copyOwner e r
      putCopy (requestWrites (dropReads s' o) o p r.held.block.ctx r.gslot l v) p e { r with phase := .writing n }
    else s

/-- A chunk begins (R282): every page that it reads or writes is translated before any byte is written, and its source is read. -/
def beginChunk (s : State) (p e : Nat) (r : CopyReq) (x : CopyPiece) : State :=
  let n := chunkBytes x
  let c := r.held.block.ctx
  match x.src with
  | none => writeChunk s p e r x n 0
  | some a =>
    match enginePieces s p c a n .load with
    | .error f => copyFault (walked s p c .load (pagesOf a n)) p e r f
    | .ok (s', l) =>
      match chunkTargets s' p c x n with
      | .error f => copyFault (targetWalk s' p c x n) p e r f
      | .ok (s', _) =>
        if piecesReady s' l then putCopy (requestReads s' (copyOwner e r) p c r.gslot l) p e { r with phase := .reading n } else s

/-- A descriptor is read where the list names it, 8-byte aligned; a list has at most 65,536 (R283). -/
def beginDescriptor (s : State) (p e : Nat) (r : CopyReq) (va : Word) (seen : Nat) : State :=
  if va.toNat % 8 ≠ 0 ∨ 65536 ≤ seen then copyFault s p e r (faultAt causeAlign 0 va)
  else
    match enginePieces s p r.held.block.ctx va 32 .load with
    | .error f => copyFault (walked s p r.held.block.ctx .load (pagesOf va 32)) p e r f
    | .ok (s', l) =>
      if piecesReady s' l then
        putCopy (requestReads s' (copyOwner e r) p r.held.block.ctx r.gslot l) p e { r with phase := .descriptor }
      else s

/-- What a descriptor says (R283): the piece it moves and the next descriptor, or its fault. -/
def descriptorPiece (va : Word) (d : Nat) : Except FaultInfo (CopyPiece × Word) :=
  let src := bitsOf d 0 64
  let dst := bitsOf d 64 64
  let n := bitsOf d 128 64
  if n / 2 ^ 40 ≠ 0 then .error (faultAt causeAlign 0 va)
  else do
    copyAligned [src, dst, n]
    .ok (CopyPiece.mk (some (BitVec.ofNat 64 src)) (BitVec.ofNat 64 dst) false n, BitVec.ofNat 64 (bitsOf d 192 64))

/-- A descriptor that has been read. -/
def takeDescriptor (s : State) (p e : Nat) (r : CopyReq) : State :=
  let o := copyOwner e r
  match requestFault s o, r.form with
  | some f, _ => copyFault s p e r f
  | none, .list next seen =>
    (match descriptorPiece next (requestData s o) with
    | .ok (x, n) => putCopy (dropReads s o) p e { r with phase := .idle, piece := some x, form := .list n (seen + 1) }
    | .error f => copyFault s p e r f)
  | none, _ => s

/-- A request has performed every line (R284, R285): a message's slots are committed, and the done token is sent. -/
def finishCopy (s : State) (p e : Nat) (r : CopyReq) : State :=
  let s := modQueue s p e (fun q => q.filter (fun x => x.id != r.id))
  let s := match r.form with
    | .buffer cb first k _ _ =>
      let b := bufferAt s p r.gslot cb
      setBuffer s p r.gslot cb (advanceCommit (cbReserved b) (cbMark b first k .comm))
    | _ => s
  kickUnit (if r.done then copyDone s p r.held else s) p

/-- A request at its end, when every line has been performed at its scope (R285): at system scope it waits for peers and for host
copies, and a peer that has refused a line faults it. -/
def endCopy (s : State) (p e : Nat) (r : CopyReq) : State :=
  match requestFault s (copyOwner e r) with
  | some f => copyFault s p e r f
  | none => if r.scope = .system ∧ requestsSys s (copyOwner e r) = false then s else finishCopy s p e r

/-- What is left of a piece after some bytes. -/
def afterChunk (x : CopyPiece) (n : Nat) : Option CopyPiece :=
  if x.bytes ≤ n then none
  else some { x with src := x.src.map (fun a => a + BitVec.ofNat 64 n), dst := x.dst + BitVec.ofNat 64 n, bytes := x.bytes - n }

/-- The request that an engine works on: the first of its queue (R281). Nothing of it starts while its group is stopped or its fault
stands (R286); what is in flight goes on. -/
def engineRequest (s : State) (p e : Nat) : Option CopyReq :=
  match ((plotAt s p).copyQueues.getD e []).head? with
  | some r => if r.phase != .idle || (!r.faulted && mayStart s p r.held.block r.gslot) then some r else none
  | none => none

/-- What an engine has translated before it goes on (R282, R454): the pages of a descriptor, or of a chunk's source and destination. -/
def descriptorPages (va : Word) : List (Need × Word) := if va.toNat % 8 = 0 then (pagesOf va 32).map (fun a => (Need.load, a)) else []
def targetPages (x : CopyPiece) (n : Nat) : List (Need × Word) := if x.own then [] else (pagesOf x.dst n).map (fun a => (Need.store, a))
def chunkPages (x : CopyPiece) : List (Need × Word) :=
  (x.src.elim [] (fun a => (pagesOf a (chunkBytes x)).map (fun a => (Need.load, a)))) ++ targetPages x (chunkBytes x)

/-- An engine goes on with what it does when its plot's walker has translated the pages for it (R454, R455). -/
def walkThen (s : State) (p e : Nat) (r : CopyReq) (l : List (Need × Word)) (f : State → State) : State :=
  match walkWaits s p (.copy e) e r.held.block.ctx l with
  | some s => s
  | none => f (walkMet s p (.copy e))

/-- Engine `e` of plot `p` goes on with its request: a descriptor or a chunk begins, or what has been read is used. -/
def stepCopy (s : State) (p e : Nat) : State :=
  match engineRequest s p e with
  | none => s
  | some r =>
    let o := copyOwner e r
    match r.phase with
    | .idle =>
      (match nextWork s p r with
      | .finish => endCopy s p e r
      | .descriptor va seen => walkThen s p e r (descriptorPages va) (fun s => beginDescriptor s p e r va seen)
      | .piece x r' =>
        if x.bytes = 0 then putCopy s p e { r' with piece := none } 
        else walkThen s p e r (chunkPages x) (fun s => beginChunk s p e { r' with piece := some x } x))
    | .descriptor => if requestsDone s o then takeDescriptor s p e r else s
    | .reading n =>
      if requestsDone s o then
        (match requestFault s o, r.piece with
        | some f, _ => copyFault s p e r f
        | none, some x => walkThen s p e r (targetPages x n) (fun s => writeChunk s p e r x n (requestData s o))
        | none, none => s)
      else s
    | .writing _ => s

/-- A chunk of engine `n` of plot `p` is done (R282): its every line has been performed. -/
def endChunk (s : State) (p e : Nat) : State :=
  match engineRequest s p e with
  | none => s
  | some r =>
    match r.phase with
    | .writing n =>
      if requestsDone s (copyOwner e r) then putCopy s p e { r with phase := .idle, piece := r.piece.bind (fun x => afterChunk x n) }
      else s
    | .idle | .descriptor | .reading _ => s

def execChunkDone (s : State) : Result :=
  match s.cur with
  | .at p n _ _ => .next (endChunk { s with cur := .idle } p n)
  | _ => .next s

/-! ### Refused operations (R210, R274, R289, R348) -/

/-- The refused parts of an access sent to their homes again. -/
def resendRefused (s : State) (p : Nat) (a : Access) : State :=
  let a := { a with parts := a.parts.map (fun x => if x.state = .refused then { x with state := .todo } else x) }
  sendParts (putAccess s p a) p a

/-- A held set whose request faults as it is repeated: its fault is its own, or with no free cause slot the set stands at its station
again. -/
def refusedFault (s : State) (p : Nat) (h : Held) (e : FaultInfo) : State :=
  let (s', taken) := deliverFault s p (heldEnv h).gslot e (0#1 ++ h.set.slot) h.block (heldEnv h) (.set h.block h.set)
  if taken then s' else modCopy s' p h.block (fun c => { c with ready := c.ready ++ [h.set] })

/-- A refused `pment` reaches its permit's store again, with a fresh translation and every check made again (R289). -/
def resendPermit (s : State) (p : Nat) (h : Held) (va : Word) : State :=
  match engineTranslate s p h.block.ctx va .store with
  | .ok (s', pa, l) =>
    if rangeOf pa ≠ .window then refusedFault s' p h (faultAt causeTrAttr (leafLevel l) va)
    else if permitSound (readWord s' pa) then joinPermit s' p h va pa
    else refusedFault s' p h (causeOnly causeFormat)
  | .error e => refusedFault (walked s p h.block.ctx .store [va]) p h e

end Sys2Proof.Machine
end

