-- ==== Sys2Proof/Machine/Rows.lean ====
section
/-! DEFINITION. The arithmetic of rows (R44 to R52, R300, R304, R306, R320, R321): elements of a row, the row
accumulation, checksums and magnitude sums. -/
namespace Sys2Proof.Machine

/-! ### Vectors of 32-bit elements -/

/-- Element `i` of a vector. -/
def vecGet (v : Vec32) (i : Nat) : Nat := (v.extractLsb' (32 * i) 32).toNat

/-- The vector of 64 elements. -/
def vecOf (f : Nat → Nat) : Vec32 :=
  (List.range 64).foldl (fun v i => v ||| (BitVec.ofNat 2048 (f i % 2 ^ 32) <<< (32 * i))) 0

/-- A vector with one element changed. -/
def vecSet (v : Vec32) (i x : Nat) : Vec32 := vecOf (fun j => if j = i then x else vecGet v j)

/-- An element as a signed 32-bit integer. -/
def vecInt (v : Vec32) (i : Nat) : Int := signedOf 32 (vecGet v i)

/-- An element as an f32 value. -/
def vecReal (v : Vec32) (i : Nat) : FVal := unpack .f32 (BitVec.ofNat 64 (vecGet v i))

/-! ### Elements of a row (R44 to R47) -/

/-- k of a bit-plane tag (R46). -/
def tagK (ft : BitVec 5) : Nat := ft.toNat % 8 + 2

/-- The kind of the arithmetic that a format takes part in, none where no pairing admits it (R298). -/
def formatKind (ft : BitVec 5) : Option RunKind :=
  if bitPlaneTag ft then some (if ft.getLsbD 3 then .scaled else .unscaled)
  else if ft = 0x09 ∨ ft = 0x0A then some .floating
  else none

/-- The kind of a pairing of slot and row formats (R298). -/
def pairKind (slot row : BitVec 5) : Option RunKind :=
  match formatKind slot, formatKind row with
  | some .floating, some .floating => if slot = row then some .floating else none
  | some a, some b => if a = b then some a else none
  | _, _ => none

/-- The bits of lane `i` of a row (R47). -/
def rowLane (r : Row) (i : Nat) : Nat :=
  let w := (laneWidth r.fmt).getD 0
  bitsOf r.bits.toNat (w * i) w

/-- q_k of element `i` of a bit-plane row (R44, R47). -/
def rowQ (r : Row) (i : Nat) : Int := signedOf (tagK r.fmt) (rowLane r i % 2 ^ tagK r.fmt)

/-- The scale of block `b` of a scaled row (R45, R47). -/
def rowScale (r : Row) (b : Nat) : Int :=
  signedOf 8 (bitsOf r.bits.toNat (64 * (laneWidth r.fmt).getD 0 + 8 * b) 8)

/-- The exact value of element `i` of a row (R44, R45, R306). -/
def rowReal (r : Row) (i : Nat) : FVal :=
  match formatKind r.fmt with
  | some .unscaled => realOfInt (rowQ r i)
  | some .scaled => planeReal (tagK r.fmt) (rowScale r (i / 8)) (rowQ r i)
  | _ => unpack (if r.fmt = 0x09 then .f16 else .bf16) (BitVec.ofNat 64 (rowLane r i))

/-- A magnitude. -/
def magReal : FVal → FVal
  | .inf _ => .inf false
  | .fin _ m e s => .fin false m e s
  | .nan => .nan

/-- An exact sum. -/
def sumReal : List FVal → FVal
  | [] => .fin false 0 0 false
  | x :: xs => xs.foldl (addReal .rne) x

/-- A value rounded to f32 (R54). -/
def toF32 (rm : Rnd) (v : FVal) : Nat := roundReal .f32 rm 0 v

/-! ### The row accumulation (R51) -/

/-- A finite value's signed multiple of 2^q, cut toward zero. -/
def truncUnits (q : Int) : FVal → Int
  | .fin neg m e _ => signedMant neg (if q ≤ e then m <<< (e - q).toNat else m >>> (q - e).toNat)
  | _ => 0

/-- The largest leading exponent of the nonzero values. -/
def topOf (vs : List FVal) : Option Int :=
  vs.foldl (fun t v => match v with
    | .fin _ m e _ =>
      if m = 0 then t
      else match t with
        | none => some (e + (Nat.log2 m : Int))
        | some x => some (max x (e + (Nat.log2 m : Int)))
    | _ => t) none

/-- `acc_row` (R51): the bits of the new f32 value. -/
def accRow (acc : FVal) (terms : List FVal) : Nat :=
  let vs := terms ++ [acc]
  let inf := fun n => vs.any (fun v => v == FVal.inf n)
  if vs.any isNan || (inf true && inf false) then defaultNan .f32
  else if inf true then withSign .f32 true (infBits .f32)
  else if inf false then infBits .f32
  else
    match topOf vs with
    | none => if vs.all realNeg then withSign .f32 true 0 else 0
    | some e =>
      let t := (vs.map (truncUnits (e - 50))).foldl (fun a b => a + b) 0
      if t = 0 then 0 else toF32 .rne (.fin (decide (t < 0)) t.natAbs (e - 50) false)

/-- A sum of integers modulo 2^32, as bits. -/
def wrap32 (v : Int) : Nat := (v % 2 ^ 32).toNat

/-- The integer sum of products of two rows' elements. -/
def dotInt (f g : Nat → Int) : Int := (List.range 64).foldl (fun a i => a + f i * g i) 0

/-- The block partials of a scaled firing (R50): a block of either side marked as zero gives +0. -/
def partials (a w : Row) : List FVal :=
  (List.range 8).map (fun b =>
    if rowScale a b = -128 ∨ rowScale w b = -128 then FVal.fin false 0 0 false
    else
      let t := (List.range 8).foldl (fun (t : Int) i => t + rowQ a (8 * b + i) * rowQ w (8 * b + i)) 0
      .fin (decide (t < 0)) t.natAbs (16 - (tagK a.fmt : Int) - tagK w.fmt + rowScale a b + rowScale w b) false)

/-- The new value of one data element (R49 to R51): the column is row `w` of the slot. -/
def accElement (k : RunKind) (old : Nat) (a w : Row) : Nat :=
  match k with
  | .unscaled | .none => wrap32 (signedOf 32 old + dotInt (rowQ a) (rowQ w))
  | .scaled => accRow (unpack .f32 (BitVec.ofNat 64 old)) (partials a w)
  | .floating => accRow (unpack .f32 (BitVec.ofNat 64 old)) ((List.range 64).map (fun i => mulReal (rowReal a i) (rowReal w i)))

/-! ### Weight slots (R294, R300, R321) -/

/-- Column `c` of a slot. -/
def slotColumn (w : WeightSlot) (c : Nat) : Row := w.rows.getD c (Row.mk noEnv w.fmt 0 0)

/-- The checksum column of a latched block (R300). -/
def checkColumn (fmt : BitVec 5) (rows : List Row) : Vec32 :=
  match formatKind fmt with
  | some .unscaled => vecOf (fun i => wrap32 (rows.foldl (fun t r => t + rowQ r i) 0))
  | _ => vecOf (fun i => toF32 .rne (sumReal (rows.map (fun r => rowReal r i))))

/-- The magnitude column of a latched block (R321). -/
def magColumn (rows : List Row) : Vec32 :=
  vecOf (fun i => toF32 .rup (sumReal (rows.map (fun r => magReal (rowReal r i)))))

/-- The kind keeps magnitudes (R321). -/
def keepsMags (k : RunKind) : Bool := k == .scaled || k == .floating

/-! ### An accumulator's updates -/

/-- An accumulator that holds nothing (R315, R319). -/
def Acc.fresh : Acc where
  st := .empty
  kind := .none
  ka := 0
  kb := 0
  d := []
  cc := 0
  cr := 0
  s := 0
  sa := 0
  mr := 0
  mc := 0
  fr := 0
  pc := 0
  rows := 0
  rc := 0
  gslot := 0
  ps := false
  bound := false
  origin := 0
  chains := []
  snapW0 := 0
  snapW1 := 0
  snapAct := false
  tol := 0
  nr := 0
  located := none
  check := none
  draining := false
  failed := none
  bad := []

/-- Row `r` of an accumulator's data. -/
def accData (a : Acc) (r : Nat) : Vec32 := ((a.d.find? (fun x => x.r == r)).map (fun x => x.data)).getD 0

/-- An accumulator with a row of data written. -/
def setAccData (a : Acc) (r : Nat) (v : Vec32) : Acc := { a with d := AccRow.mk r v :: a.d.filter (fun x => x.r != r) }

/-- fr[r], and an accumulator with one more firing into row `r`. -/
def accFirings (a : Acc) (r : Nat) : Nat := (a.fr.extractLsb' (16 * r) 16).toNat
def countFiring (a : Acc) (r : Nat) : Acc :=
  let n := (accFirings a r + 1) % 2 ^ 16
  let mask : BitVec 1024 := 0xFFFF <<< (16 * r)
  { a with fr := (a.fr &&& ~~~mask) ||| (BitVec.ofNat 1024 n <<< (16 * r)), rows := a.rows + 1 }

/-- The checksum column element after a firing of row `x` against slot `w` (R306). -/
def checkElement (k : RunKind) (old : Nat) (x : Row) (w : WeightSlot) : Nat :=
  match k with
  | .unscaled | .none => wrap32 (signedOf 32 old + dotInt (rowQ x) (vecInt w.v))
  | _ => accRow (unpack .f32 (BitVec.ofNat 64 old)) ((List.range 64).map (fun i => mulReal (rowReal x i) (vecReal w.v i)))

/-- A row written into its accumulator (R306, R321): data, checksum column, activation sum and magnitudes. -/
def writeRow (a : Acc) (x : Row) (w : WeightSlot) : Acc :=
  let r := x.ridx.toNat
  let d := accData a r
  let a' := setAccData a r (vecOf (fun c => accElement a.kind (vecGet d c) x (slotColumn w c)))
  let a' := { a' with
    cc := vecSet a.cc r (checkElement a.kind (vecGet a.cc r) x w)
    s := match a.kind with
      | .unscaled | .none => vecOf (fun i => wrap32 (vecInt a.s i + rowQ x i))
      | _ => vecOf (fun i => toF32 .rne (addReal .rne (vecReal a.s i) (rowReal x i))) }
  let a' := if keepsMags a.kind then { a' with
      mr := vecSet a.mr r (toF32 .rup (sumReal (vecReal a.mr r ::
        (List.range 64).map (fun i => mulReal (magReal (rowReal x i)) (vecReal w.u i)))))
      sa := vecOf (fun i => toF32 .rup (addReal .rne (vecReal a.sa i) (magReal (rowReal x i)))) } else a'
  countFiring a' r

/-- Some of `n` elements of an accumulator from element `i` on hold an uncorrectable error (R315, R323). -/
def accBad (a : Acc) (i n : Nat) : Bool := a.bad.any (fun e => decide (i ≤ e) && decide (e < i + n))

/-- Where the elements of an accumulator stand in their numbering. -/
def atCc : Nat := 4096
def atCr : Nat := 4160
def atS : Nat := 4224
def atSa : Nat := 4288
def atMr : Nat := 4352
def atMc : Nat := 4416

/-- The marks of an accumulator after a push. The model's choice (assumption 24): sums to which an uncorrectable element of an
activation sum has been added are uncorrectable themselves, of which the manual does not speak. -/
def pushMarks (a : Acc) : List Nat :=
  a.bad.filter (fun e => decide (e < atS) || decide (atMr ≤ e)) ++ (if accBad a atS 64 then (List.range 64).map (fun c => atCr + c) else []) ++
    (if keepsMags a.kind && accBad a atSa 64 then (List.range 64).map (fun c => atMc + c) else [])

/-- A push of the activation sum through slot `w` (R304, R321). -/
def pushAcc (a : Acc) (w : WeightSlot) : Acc :=
  let cr := match a.kind with
    | .unscaled | .none => vecOf (fun c => wrap32 (vecInt a.cr c + dotInt (vecInt a.s) (rowQ (slotColumn w c))))
    | _ => vecOf (fun c => accRow (vecReal a.cr c)
        ((List.range 64).map (fun i => mulReal (vecReal a.s i) (rowReal (slotColumn w c) i))))
  let mc := if keepsMags a.kind then
      vecOf (fun c => toF32 .rup (sumReal (vecReal a.mc c ::
        (List.range 64).map (fun i => mulReal (vecReal a.sa i) (magReal (rowReal (slotColumn w c) i))))))
    else a.mc
  { a with cr := cr, mc := mc, s := 0, sa := 0, ps := false, pc := a.pc + 1, bad := pushMarks a }

/-- An explicit row of an `mwr` added (R326). -/
def addExplicit (a : Acc) (r : Nat) (x : Vec32) : Acc :=
  let d := accData a r
  let a' := match a.kind with
    | .unscaled | .none => { setAccData a r (vecOf (fun c => wrap32 (vecInt d c + vecInt x c))) with
        cr := vecOf (fun c => wrap32 (vecInt a.cr c + vecInt x c))
        cc := vecSet a.cc r (wrap32 (vecInt a.cc r + (List.range 64).foldl (fun t c => t + vecInt x c) 0)) }
    | _ => { setAccData a r (vecOf (fun c => accRow (vecReal d c) [vecReal x c])) with
        cr := vecOf (fun c => accRow (vecReal a.cr c) [vecReal x c])
        cc := vecSet a.cc r (accRow (vecReal a.cc r) ((List.range 64).map (vecReal x))) }
  let a' := if keepsMags a.kind then { a' with
      mr := vecSet a.mr r (toF32 .rup (sumReal (vecReal a.mr r :: (List.range 64).map (fun c => magReal (vecReal x c)))))
      mc := vecOf (fun c => toF32 .rup (addReal .rne (vecReal a.mc c) (magReal (vecReal x c)))) } else a'
  countFiring a' r

/-! ### The comparison (R320) -/

/-- A value is finite. -/
def isFinite : FVal → Bool
  | .fin _ _ _ _ => true
  | _ => false

/-- `within` for the scaled and floating kinds (R320): E and ABSN from the latched tolerance. -/
def withinReal (tol : Word) (x k : FVal) (f : Nat) (m : FVal) : Bool :=
  let e := (tol.extractLsb' 0 5).toNat
  let absn := (tol.extractLsb' 8 8).toNat
  isFinite x && isFinite k && isFinite m &&
    leReal false (magReal (addReal .rne x (negReal k)))
      (mulReal (realOfInt f) (addReal .rne (scaleReal (-(e : Int)) m) (.fin false 1 (-(absn : Int)) false)))

/-- An accumulator is compared by the exact test of the unscaled kind (R320). -/
def exactKind (a : Acc) : Bool := !keepsMags a.kind

/-- Row `r` of an accumulator mismatches. -/
def rowBad (a : Acc) (r : Nat) : Bool :=
  if exactKind a then wrap32 ((List.range 64).foldl (fun t c => t + vecInt (accData a r) c) 0 - vecInt a.cc r) != 0
  else !withinReal a.tol (sumReal ((List.range 64).map (vecReal (accData a r)))) (vecReal a.cc r) (accFirings a r + 1) (vecReal a.mr r)

/-- The sum of column `c` over an accumulator's rows. -/
def columnSum (a : Acc) (c : Nat) : Int := (List.range 64).foldl (fun t r => t + vecInt (accData a r) c) 0
def columnReal (a : Acc) (c : Nat) : FVal := sumReal ((List.range 64).map (fun r => vecReal (accData a r) c))

/-- Column `c` of an accumulator mismatches. -/
def colBad (a : Acc) (c : Nat) : Bool :=
  if exactKind a then wrap32 (columnSum a c - vecInt a.cr c) != 0
  else !withinReal a.tol (columnReal a c) (vecReal a.cr c) (a.rows.toNat + a.pc.toNat + 1) (vecReal a.mc c)

/-- A comparison reads an uncorrectable element (R320, R323): of the data, of cc and cr, or of the magnitude sums where the kind keeps
them. -/
def comparesBad (a : Acc) : Bool := accBad a 0 atS || (keepsMags a.kind && accBad a atMr 128)

/-- What a comparison finds. -/
inductive Comparison where
  | clean
  | located (l : Located)
  | multiple
  deriving DecidableEq, Repr

/-- The differences at row `i` and column `j` (R320), and whether they agree. -/
def locate (a : Acc) (i j : Nat) : Comparison :=
  if exactKind a then
    let dr := wrap32 (vecInt a.cc i - (List.range 64).foldl (fun t c => t + vecInt (accData a i) c) 0)
    let dc := wrap32 (vecInt a.cr j - columnSum a j)
    if dr = dc then .located (Located.mk i j (BitVec.ofNat 32 dr)) else .multiple
  else
    let dr := toF32 .rne (addReal .rne (vecReal a.cc i) (negReal (sumReal ((List.range 64).map (vecReal (accData a i))))))
    let dc := toF32 .rne (addReal .rne (vecReal a.cr j) (negReal (columnReal a j)))
    let x := unpack .f32 (BitVec.ofNat 64 dr)
    if withinReal a.tol x (unpack .f32 (BitVec.ofNat 64 dc)) 1 (magReal x) then .located (Located.mk i j (BitVec.ofNat 32 dr))
    else .multiple

/-- The comparison of an accumulator (R320). -/
def compareAcc (a : Acc) : Comparison :=
  match (List.range 64).filter (rowBad a), (List.range 64).filter (colBad a) with
  | [], [] => .clean
  | [i], [j] => locate a i j
  | _, _ => .multiple

/-! ### Elements that leave an accumulator (R328) -/

/-- The format of a drained element: `OF`, or what it means for the run. -/
def outBytes (f : OutFmt) : Nat :=
  match f with
  | .f16 | .bf16 => 2
  | _ => 4

/-- The left shift of SH (R328). An unscaled run that only `mwr` has added to has latched no ka and kb: its shift is a
free value (assumption 18). -/
def drainShift (a : Acc) (free : Nat) : Nat :=
  if a.kind = .none then 0
  else if a.ka = 0 ∧ a.kb = 0 then (Config.freeWord free).toNat % 17
  else 16 - a.ka - a.kb

/-- One element as a drain or `mst` writes it (R328). -/
def outElement (a : Acc) (f : OutFmt) (sh : Bool) (rm : Rnd) (ftz : Bool) (draw free : Nat) (x : Nat) : Nat :=
  let ty : Ty := match f with
    | .f16 => .f16
    | .bf16 => .bf16
    | _ => .f32
  if exactKind a then
    let v := signedOf 32 (if sh then wrap32 (signedOf 32 x * 2 ^ drainShift a free) else x)
    if f = .native then wrap32 v else roundReal ty rm draw (realOfInt v)
  else if f = .native ∨ f = .f32 then ftzRes ftz .f32 x
  else ftzRes ftz ty (roundReal ty rm draw (unpack .f32 (BitVec.ofNat 64 x)))

end Sys2Proof.Machine
end

