-- ==== Sys2Proof/Machine/Matrix.lean ====
section
/-! DEFINITION. The matrix engine (12_matrix.md): row ports and the row path, weight slots, `mma`, the gather unit, the
repeat element, filler rows, and `wad` (R167, R168). Rows in the array are written first in, first out: every row takes
the same time (R312). -/
namespace Sys2Proof.Machine

/-! ### Tiles -/

/-- A tile with the rows of a port written. -/
def setPort (t : Tile) (slot : BitVec 7) (rows : List Row) : Tile :=
  let rest := t.ports.filter (fun q => q.slot != slot)
  { t with ports := if rows.isEmpty then rest else RowPort.mk slot rows :: rest }

/-- A weight slot, and a tile with one written. -/
def weightsOf (t : Tile) (w : Bool) : WeightSlot := if w then t.w1 else t.w0
def setWeights (t : Tile) (w : Bool) (x : WeightSlot) : Tile := if w then { t with w1 := x } else { t with w0 := x }

/-- A staging buffer, and a tile with one written. -/
def stageOf (t : Tile) (w : Bool) : List StagedRow := if w then t.stage1 else t.stage0
def setStage (t : Tile) (w : Bool) (x : List StagedRow) : Tile := if w then { t with stage1 := x } else { t with stage0 := x }

/-- An accumulator, and a tile with one written. -/
def accOf (t : Tile) (a : Nat) : Acc := lookupD Acc.fresh a t.accs
def setAcc (t : Tile) (a : Nat) (x : Acc) : Tile :=
  { t with accs := if x = Acc.fresh then t.accs.filter (fun y => y.1 != a) else assocSet a x t.accs }

/-- A tile with every accumulator changed. -/
def mapAccs (t : Tile) (f : Acc → Acc) : Tile := { t with accs := t.accs.map (fun y => (y.1, f y.2)) }

/-- The token on a port of a held set sent on unchanged to every target (R302, R303, R325). -/
def passTrigger (s : State) (p : Nat) (h : Held) (port : Nat) : State :=
  match tokenAt h.set.toks port with
  | some t => sendAll s p h.block (sendEach h.head t)
  | none => s

/-! ### The row path (R295) -/

/-- A fault of the row at the head of a port (R314): the row stays there. -/
def rowFault (s : State) (p : Nat) (b : BlockId) (slot : BitVec 7) (x : Row) (e : FaultInfo) : State :=
  (deliverFault s p x.env.gslot e (0#1 ++ slot) b x.env (.row b slot)).1

/-- The state with the head row of a port taken. -/
def takeRow (s : State) (p : Nat) (b : BlockId) (slot : BitVec 7) : State :=
  modTile s p (tileOf s p b) (fun t => setPort t slot ((portRows t slot).drop 1))

/-! ### Weight changes (R304) -/

/-- An accumulator that makes a push at a weight change of slot `w`. -/
def pushes (w : Bool) (a : Acc) : Bool := a.ps && a.bound == w && a.st != .swap

/-- The accumulators bound to a slot begin their pushes. -/
def weightChange (t : Tile) (w : Bool) : Tile := mapAccs t (fun a => if pushes w a then { a with st := .swap } else a)

/-- The state that a push leaves (R319): CHECKING where a check waits, OPEN else. A weight change meets RETRYING too, of which the
table does not speak: the accumulator goes through SWAP as one in OPEN does (DEDUCED, assumption 18). -/
def pushLeaves (a : Acc) : AccState := if a.check.isSome then .checking else .open

/-- A push against a slot is in progress. -/
def pushing (t : Tile) (w : Bool) : Bool := t.accs.any (fun y => y.2.st == .swap && y.2.bound == w)

/-- A row that started against a slot is in the array. -/
def inArray (t : Tile) (w : Bool) : Bool := t.array.any (fun x => x.weights == w)

/-- A row that started into an accumulator is in the array. -/
def accInArray (t : Tile) (a : Nat) : Bool := t.array.any (fun x => x.acc == a)

/-- An `mwr` that has fired has rows to write into an accumulator (R319, R326). -/
def writesInto (t : Tile) (a : Nat) : Bool := t.jobs.any (fun j => match j.kind with
  | .write b _ _ _ => b.toNat == a
  | .store | .drain => false)

/-- The rows of a full staging buffer in the order of their positions (R300). -/
def stagedRows (l : List StagedRow) : List Row :=
  (List.range 64).map (fun i => ((l.find? (fun x => x.pos == i)).map (fun x => x.row)).getD (Row.mk noEnv 0 0 0))

/-- A slot latched from its staging buffer (R294, R300, R321). -/
def latchSlot (t : Tile) (w : Bool) : Tile :=
  let rows := stagedRows (stageOf t w)
  let fmt := (rows.getD 0 (Row.mk noEnv 0 0 0)).fmt
  let old := weightsOf t w
  setStage (setWeights t w (WeightSlot.mk true fmt rows (checkColumn fmt rows) (magColumn rows) (old.lcnt + 1))) w []

/-! ### Rows that enter staging and repeat buffers (R300, R310) -/

/-- The head row of the port of an `mwld` goes to its staging buffer where its position is free. -/
def pullWeight (s : State) (p : Nat) (b : BlockId) (slot : BitVec 7) (w : Bool) (x : Row) : Option State :=
  let t := engineOf s p b
  let st := stageOf t w
  if st.any (fun y => y.pos == x.ridx.toNat) then none
  else if (formatKind x.fmt).isNone || st.any (fun y => y.row.fmt != x.fmt) then
    some (rowFault s p b slot x (causeOnly causeFormat))
  else some (modTile (takeRow s p b slot) p (tileOf s p b)
    (fun t => setStage t w (stageOf t w ++ [StagedRow.mk x.ridx.toNat x])))

/-- The head row of the port of an `mrep` goes to its buffer of 64. -/
def pullRepeat (s : State) (p : Nat) (b : BlockId) (slot : BitVec 7) (x : Row) : Option State :=
  if (repeatAt (engineOf s p b) slot).buffer.length < 64 then
    some (modTile (takeRow s p b slot) p (tileOf s p b) (fun t =>
      let r := repeatAt t slot
      setRepeat t { r with buffer := r.buffer ++ [x] }))
  else none

/-- One row pulled from the port of a station that buffers its rows, if it can be. -/
def pullOne (s : State) (p : Nat) (b : BlockId) (slot : BitVec 7) : Option State :=
  match (portRows (engineOf s p b) slot).head? with
  | none => none
  | some x =>
    if mayStart s p b x.env.gslot then
      match instrAt s p b slot with
      | some (.mwld _ w) => pullWeight s p b slot w x
      | some (.mrep _ _) => pullRepeat s p b slot x
      | _ => none
    else none

/-- Rows pulled from a port until one must stay. -/
def pullRows : Nat → State → Nat → BlockId → BitVec 7 → State
  | 0, s, _, _, _ => s
  | fuel + 1, s, p, b, slot =>
    match pullOne s p b slot with
    | some s' => pullRows fuel s' p b slot
    | none => s

/-- A row pulled as far as 16 held rows go. -/
def pullPort (s : State) (p : Nat) (b : BlockId) (slot : BitVec 7) : State := pullRows 17 s p b slot

/-- Every port of a block's tile pulled. -/
def pullAll (s : State) (p : Nat) (b : BlockId) : State :=
  (engineOf s p b).ports.foldl (fun s q => pullPort s p b q.slot) s

/-! ### Latching (R302) -/

/-- What a waiting latch meets: it waits, it begins the weight change, or it latches. -/
def tryLatch (s : State) (p : Nat) (b : BlockId) (l : SlotChange) : State :=
  let i := tileOf s p b
  let t := tileAt s p i
  if (stageOf t l.weights).length < 64 ∨ inArray t l.weights = true then s
  else
    let t' := if t.act = l.weights then weightChange t l.weights else t
    if pushing t' l.weights then modTile s p i (fun _ => t')
    else
      let t' := latchSlot t' l.weights
      let s := modTile s p i (fun _ => { t' with latches := t'.latches.erase l })
      pullAll (passTrigger s p l.held 1) p b

/-- The waiting latches of a block's tile looked at again. -/
def tryLatches (s : State) (p : Nat) (b : BlockId) : State :=
  (engineOf s p b).latches.foldl (fun s l => tryLatch s p b l) s

/-- `mwld` (R302): startable when its staging buffer is full. -/
def mwldResult (w : Bool) (c : FireCtx) (m : MatchedSet) (s : State) : Except FaultInfo (State × List Send) :=
  let s := modTile s c.plot (tileOf s c.plot c.block)
    (fun t => { t with latches := t.latches ++ [SlotChange.mk (heldOf c m) w] })
  .ok (tryLatches s c.plot c.block, [])

def execMwld (h : Head) (w : Bool) (s : State) : Result := fireHeld h (mwldResult w) s

/-! ### mwsw (R303) -/

/-- `mwsw` (R303). -/
def mwswResult (w : Bool) (c : FireCtx) (m : MatchedSet) (s : State) : Except FaultInfo (State × List Send) :=
  let h := heldOf c m
  if (engineOf s c.plot c.block).act = w then .ok (passTrigger s c.plot h 0, [])
  else .ok (modTile s c.plot (tileOf s c.plot c.block) (fun t => { t with switch := some (SlotChange.mk h w) }), [])

def execMwsw (h : Head) (w : Bool) (s : State) : Result := fireHeld h (mwswResult w) s

/-- Tile `n` of plot `p` is at a row boundary with an `mwsw` waiting (R303). -/
def execRowBoundarySwitch (s : State) : Result :=
  match s.cur with
  | .at p n _ _ =>
    let s := { s with cur := .idle }
    match (tileAt s p n).switch with
    | some x =>
      let s := modTile s p n (fun t => { weightChange t t.act with act := x.weights, switch := none })
      .next (tryLatches (passTrigger s p x.held 0) p x.held.block)
    | none => .next s
  | _ => .next s

/-- The push of accumulator `m` of tile `n` is written: the rows that started into it have been (R304, R319). -/
def execPushWritten (s : State) : Result :=
  match s.cur with
  | .at p n m _ =>
    let s := { s with cur := .idle }
    let t := tileAt s p n
    let a := accOf t m
    if a.st = .swap ∧ accInArray t m = false ∧ writesInto t m = false then
      let a' := pushAcc a (weightsOf t a.bound)
      let s := modTile s p n (fun t => setAcc t m { a' with st := pushLeaves a })
      match copyOnTile s p n with
      | some c => .next (tryLatches s p c.id)
      | none => .next s
    else .next s
  | _ => .next s

/-! ### mma (R305 to R307) -/

/-- An accumulator admits rows of a group slot (R305, R317, R319). -/
def admits (a : Acc) (g : BitVec 3) : Bool :=
  (a.st == .open || a.st == .retrying || a.st == .clean) && a.gslot == g

/-- The head row at the port of an `mma` for accumulator `a` may fire as far as its group, its accumulator and the active slot
decide it (R305, conditions 1 and 2). A row waits for those of an `mwr` that has fired before it: rows are added in firing order
(R52, R317). -/
def mmaAdmitted (s : State) (p : Nat) (b : BlockId) (slot : BitVec 7) (a : Nat) : Option Row :=
  let t := engineOf s p b
  (portRows t slot).head?.filter (fun x =>
    mayStart s p b x.env.gslot && admits (accOf t a) x.env.gslot && !writesInto t a && (weightsOf t t.act).latched &&
      t.latches.all (fun l => l.weights != t.act) && t.switch.isNone)

/-- The tile has an accumulator port slot free (R305, condition 3). -/
def arrayRoom (t : Tile) : Bool := decide (t.array.length < 160)

/-- The head row at the port of an `mma` for accumulator `a` may fire (R305). -/
def mmaReady (s : State) (p : Nat) (b : BlockId) (slot : BitVec 7) (a : Nat) : Option Row :=
  if arrayRoom (engineOf s p b) then mmaAdmitted s p b slot a else none

/-- How recently a station fired: a larger number for longer ago. -/
def firedAge (t : Tile) (slot : BitVec 7) : Nat := (t.fired.findIdx? (fun x => x == slot)).getD t.fired.length

/-- The stations of a block with a slot's `mma` accumulator. -/
def mmaStations (s : State) (p : Nat) (b : BlockId) : List (BitVec 7 × Nat) :=
  match copyOf s p b with
  | none => []
  | some c => (List.range c.stations.length).filterMap (fun i =>
      match stationInstr c (BitVec.ofNat 7 i) with
      | .ok (.mma _ _ a) => some (BitVec.ofNat 7 i, a.toNat)
      | _ => none)

/-- No ready `mma` station comes before this one: the least recently fired first, then the lower slot (R305). -/
def mmaFirst (s : State) (p : Nat) (b : BlockId) (slot : BitVec 7) : Bool :=
  let t := engineOf s p b
  (mmaStations s p b).all (fun y => y.1 == slot || (mmaReady s p b y.1 y.2).isNone ||
    decide (firedAge t y.1 < firedAge t slot) || (firedAge t y.1 == firedAge t slot && decide (slot.toNat < y.1.toNat)))

/-- The tolerance register that a class names (R318, R322). -/
def toleranceOf (s : State) (p : Nat) (c : BitVec 12) (k : RunCls) : Word :=
  let r := regsOn s c p
  match k with
  | .unscaled => r.ctolInt
  | .scaled => r.ctolBps
  | .f16 => r.ctolF16
  | .bf16 => r.ctolBf16

/-- The class of a row's format (R318). -/
def rowClass (ft : BitVec 5) : RunCls :=
  if bitPlaneTag ft then (if ft.getLsbD 3 then .scaled else .unscaled) else if ft = 0x09 then .f16 else .bf16

/-- An accumulator as a firing of a row against a slot finds it (R299, R304, R306, R318), or the FORMAT fault. -/
def latchRun (s : State) (p : Nat) (c : BitVec 12) (a : Acc) (x : Row) (t : Tile) : Except FaultInfo Acc := do
  let w := weightsOf t t.act
  let k ← match pairKind w.fmt x.fmt with
    | some k => .ok k
    | none => .error (causeOnly causeFormat)
  let ka := if k = .unscaled then tagK x.fmt else 0
  let kb := if k = .unscaled then tagK w.fmt else 0
  require (a.kind == .none || a.kind == k) causeFormat
  require (k != .unscaled || (a.ka == 0 && a.kb == 0) || (a.ka == ka && a.kb == kb)) causeFormat
  let a := if a.kind = .none then { a with kind := k, tol := toleranceOf s p c (rowClass x.fmt) } else a
  .ok { a with
    ka := ka, kb := kb
    ps := true, bound := if a.ps then a.bound else t.act
    st := if a.st = .clean then .open else a.st }

/-- `mma` fires its head row: the row is in the array until its result is written (R305, R306, R312). -/
def execMma (_h : Head) (_nrM1 : BitVec 6) (a : BitVec 3) (s : State) : Result :=
  match s.cur with
  | .row p b slot =>
    let s := { s with cur := .idle }
    match mmaReady s p b slot a.toNat with
    | none => .next s
    | some x =>
      if mmaFirst s p b slot then
        let t := engineOf s p b
        match latchRun s p b.ctx (accOf t a.toNat) x t with
        | .error e => .next (rowFault s p b slot x e)
        | .ok y =>
          let s := modTile (takeRow s p b slot) p (tileOf s p b) (fun t => { setAcc t a.toNat y with
            array := t.array ++ [ArrayRow.mk slot a.toNat t.act x], lastRow := some x
            fired := slot :: t.fired.filter (fun z => z != slot) })
          .next (countRow s p b slot)
      else .next s
  | _ => .next s

/-- The progress report of an `mma` (R307): the accumulator with its count, and the token if one is due. -/
def reportRow (s : State) (p : Nat) (b : BlockId) (x : ArrayRow) (a : Acc) : Acc × List Send :=
  match instrAt s p b x.slot with
  | some (.mma h nrM1 _) =>
    if nrM1.toNat < a.nr + 1 then
      let k := Token.mk x.row.env (statusPacket a.rows.toNat)
      ({ a with nr := 0 }, sendTo h.t0 k ++ sendTo h.t1 k)
    else ({ a with nr := a.nr + 1 }, [])
  | _ => ({ a with nr := a.nr + 1 }, [])

/-- The oldest row in the array of tile `n` is written into its accumulator (R306, R307, R312). -/
def execRowResultWritten (s : State) : Result :=
  match s.cur with
  | .at p n _ _ =>
    let s := { s with cur := .idle }
    let t := tileAt s p n
    match t.array, copyOnTile s p n with
    | x :: rest, some c =>
      let a := writeRow (accOf t x.acc) x.row (weightsOf t x.weights)
      let (a, xs) := reportRow s p c.id x a
      let s := modTile s p n (fun t => { setAcc t x.acc a with array := rest })
      .next (tryLatches (sendAll s p c.id xs) p c.id)
    | _, _ => .next s
  | _ => .next s

/-! ### Rows that arrive (R295) -/

/-- Nothing sent earlier by the same producer to the same port is still on its way (R297). -/
def firstOfSource (s : State) (n : Nat) (f : RowFlight) : Bool :=
  (s.rows.take n).all (fun g => !(g.source == f.source && g.dest == f.dest))

/-- A row on the row path finds its copy on a tile, and room at its port (R295). -/
def rowLands (s : State) (f : RowFlight) : Bool :=
  (copyOf s f.dest.plot f.dest.block).any copyLive &&
    decide ((portRows (engineOf s f.dest.plot f.dest.block) f.dest.slot).length < 16)

/-- Row `n` on the row path arrives at its port (`m` = 0), or the port of slot `n` on tile `m` - 1 is looked at again. -/
def execRowArrival (s : State) : Result :=
  match s.cur with
  | .at p n m _ =>
    let s := { s with cur := .idle }
    if m = 0 then
      match s.rows[n]? with
      | some f =>
        let q := f.dest.plot
        if rowLands s f && firstOfSource s n f then
          let s := { s with rows := s.rows.eraseIdx n }
          let s := modTile s q (tileOf s q f.dest.block) (fun t =>
            setPort t f.dest.slot (portRows t f.dest.slot ++ [f.row]))
          .next (tryLatches (pullPort s q f.dest.block f.dest.slot) q f.dest.block)
        else .next s
      | none => .next s
    else
      match copyOnTile s p (m - 1) with
      | some c => .next (tryLatches (pullPort s p c.id (BitVec.ofNat 7 n)) p c.id)
      | none => .next s
  | _ => .next s

/-! ### mgat (R309) -/

/-- What the reads of a gathered row have brought; where they found uncorrectable data the row is a free value (assumption 6). -/
def readOrFree (s : State) (o : EngOwner) (n : Nat) : Nat :=
  if (requestFault s o).isSome then
    ((List.range (n / 8 + 1)).foldl (fun t i => t + (Config.freeWord (s.fresh + i)).toNat * 2 ^ (64 * i)) 0) % 256 ^ n
  else requestData s o

/-- The group's region: its first byte in its plot's store, and its bytes. -/
def regionOf (s : State) (c : FireCtx) : Nat × Nat :=
  match groupAt s c.plot c.env.gslot with
  | some g => (regionStart g, regionBytes g)
  | none => (0, 0)

/-- The virtual address of an offset of the group's region. -/
def regionVa (s : State) (c : FireCtx) (o : Nat) : Word := windowVa s c.block.ctx c.plot ((regionOf s c).1 + o)

/-- The descriptor token on port 0 (R309): its tag, its length, and its 64-bit elements. -/
def descriptor (c : FireCtx) (n : Nat) : Except FaultInfo (List Nat) := do
  require (wideTag (packetAt c 0).fmt) causeFormat
  require (lenAt c 0 == n) causePacketLength
  .ok ((List.range n).map (fun i => (packetSlot true c.fresh (packetAt c 0) i).toNat))

/-- BASE and PITCH are multiples of `k` (R309). -/
def pitchAligned (s : State) (c : FireCtx) (base pitch k : Nat) : Except FaultInfo Unit :=
  if base % k ≠ 0 then .error (faultAt causeAlign 0 (regionVa s c base))
  else if pitch % k ≠ 0 then .error (faultAt causeAlign 0 (regionVa s c (base + pitch)))
  else .ok ()

/-- Rows of `n` bytes at some offsets lie in the group's region (R309). -/
def rowsInside (s : State) (c : FireCtx) (offs : List Nat) (n : Nat) : Except FaultInfo Unit :=
  match offs.find? (fun o => decide ((regionOf s c).2 < o + n)) with
  | some o => .error (faultAt causeTrPerm 0 (regionVa s c o))
  | none => .ok ()

/-- `mgat` (R309): every check is made, and the rows to read stand in the operand latch. -/
def mgatResult (ft : BitVec 5) (c : FireCtx) (m : MatchedSet) (s : State) : Except FaultInfo (State × List Send) := do
  require (wideTag (packetAt c 0).fmt && intTag (packetAt c 1).fmt) causeFormat
  let d ← descriptor c 2
  let base := d.getD 0 0
  let pitch := d.getD 1 0
  pitchAligned s c base pitch 16
  let es ← (List.range (lenAt c 1)).mapM (fun j => ownUnsigned c 1 j)
  let offs := es.map (fun e => base + e % 2 ^ 26 * pitch)
  rowsInside s c offs (rowBytes ft)
  let left := (offs.map (fun o => storeAddr c.plot ((regionOf s c).1 + o))).zip
    (es.map (fun e => BitVec.ofNat 6 (e / 2 ^ 26)))
  .ok (modTile { s with nextId := s.nextId + 9 } c.plot (tileOf s c.plot c.block) (fun t =>
    { t with gather := some (Gather.mk (heldOf c m) ft left 0 none s.nextId) }), [])

def execMgat (h : Head) (ft : BitVec 5) (s : State) : Result := fireHeld h (mgatResult ft) s

/-- Whose the reads of a row are: the row's number counts from the last of its `mgat`. -/
def rowOwner (g : Gather) (n tile : Nat) : EngOwner := .gather (g.id + (g.left.length - n)) tile

/-- The gather unit of a tile asks its banks for the words of one row in a plot cycle, in order (R309). -/
def stepGather (s : State) (p tile : Nat) : State :=
  match (tileAt s p tile).gather with
  | some g =>
    (match g.left[g.asked]? with
    | some (a, _) =>
      if g.last ≠ some s.cycles ∧ mayStart s p g.held.block (heldEnv g.held).gslot = true then
        let s' := requestReads s (rowOwner g g.asked tile) p g.held.block.ctx (heldEnv g.held).gslot (cutPhysical 0 a (rowBytes g.ft))
        modTile s' p tile (fun t => { t with gather := some { g with asked := g.asked + 1, last := some s.cycles } })
      else s
    | none => s)
  | none => s

/-- The gather unit of tile `n` sends its next row, once its last word has been read. -/
def execGatherRowSent (s : State) : Result :=
  match s.cur with
  | .at p n _ _ =>
    let s := { s with cur := .idle }
    match (tileAt s p n).gather with
    | some g =>
      let h := g.held
      match g.left with
      | [] => .next (modTile s p n (fun t => { t with gather := none }))
      | (_, i) :: rest =>
        let o := rowOwner g 0 n
        if decide (1 ≤ g.asked) && requestsDone s o && mayStart s p h.block (heldEnv h).gslot && rowPathOpen s p h.block h.head true then
          let r := Row.mk (heldEnv h) g.ft i (BitVec.ofNat 1088 (readOrFree s o (rowBytes g.ft)))
          let s := sendRow { dropReads s o with fresh := s.fresh + 32 } p h.block h.set.slot h.head r
          .next (modTile s p n (fun t => { t with
            gather := if rest.isEmpty then none else some { g with left := rest, asked := g.asked - 1 } }))
        else .next s
    | none => .next s
  | _ => .next s

/-! ### mrep (R310) -/

/-- The completion of an `mrep`. -/
def sendPasses (s : State) (p : Nat) (j : RepJob) : State :=
  sendAll s p j.held.block (sendTo j.held.head.t2 (Token.mk (heldEnv j.held) (statusPacket (j.n * j.cnt))))

/-- `mrep` (R310): its count token is taken. -/
def mrepResult (c : FireCtx) (m : MatchedSet) (s : State) : Except FaultInfo (State × List Send) := do
  require (intTag (packetAt c 1).fmt) causeFormat
  require (lenAt c 1 == 2) causePacketLength
  let n ← natOperand c 1 0
  let cnt ← natOperand c 1 1
  require (decide (n ≤ 64) && decide (cnt ≤ 65535)) causePacketLength
  let j := RepJob.mk (heldOf c m) n cnt 0 0 none
  if n = 0 then .ok (sendPasses s c.plot j, [])
  else .ok (modTile s c.plot (tileOf s c.plot c.block) (fun t => setRepeat t { repeatAt t c.slot with job := some j }), [])

def execMrep (h : Head) (_pace : Bool) (s : State) : Result := fireHeld h mrepResult s

/-- The rows of a job collected from the station's buffer once they are there. -/
def collectRows (r : Repeat) : Repeat :=
  match r.job with
  | some j =>
    if j.rows.isNone && decide (j.n ≤ r.buffer.length) then
      { r with buffer := r.buffer.drop j.n, job := some { j with rows := some (r.buffer.take j.n) } }
    else r
  | none => r

/-- The next row of a pass of a job whose rows are collected, or the end of the job (R310). A row leaves when every port it goes to
has room (R295), the first of a pass that PACE holds back with a credit. -/
def passRows (s : State) (p n : Nat) (r : Repeat) (j : RepJob) (rows : List Row) (pace : Bool) : State :=
  let b := j.held.block
  let h := { j.held.head with t2 := none }
  let put := fun (s : State) (r : Repeat) => modTile s p n (fun t => setRepeat t r)
  if j.pass < j.cnt then
    let paid := pace && decide (1 ≤ j.pass) && j.pos == 0
    match rows[j.pos]? with
    | none => s
    | some x =>
      if rowPathOpen s p b h false && (!paid || decide (0 < r.credit)) then
        let s := sendRow s p b r.slot h x
        let r := { r with credit := if paid then r.credit - 1 else r.credit }
        if j.pos + 1 < rows.length then put s { r with job := some { j with pos := j.pos + 1 } }
        else if j.pass + 1 = j.cnt then sendPasses (put s { r with job := none }) p j
        else put s { r with job := some { j with pass := j.pass + 1, pos := 0 } }
      else s
  else sendPasses (put s { r with job := none }) p j

/-- The `mrep` at slot `m` of tile `n` works on its count token. -/
def execMrepPass (s : State) : Result :=
  match s.cur with
  | .at p n m _ =>
    let s := { s with cur := .idle }
    let slot := BitVec.ofNat 7 m
    let r := collectRows (repeatAt (tileAt s p n) slot)
    match r.job with
    | some j =>
      if mayStart s p j.held.block (heldEnv j.held).gslot then
        let s := pullPort (modTile s p n (fun t => setRepeat t r)) p j.held.block slot
        let r := repeatAt (tileAt s p n) slot
        match j.rows, instrAt s p j.held.block slot with
        | some rows, some (.mrep _ pace) => .next (passRows s p n r j rows pace)
        | _, _ => .next s
      else .next s
    | none => .next s
  | _ => .next s

/-! ### mfil (R311) -/

/-- The completion of an `mfil`. -/
def sendFilled (s : State) (p : Nat) (f : Filler) : State := sendHeld s p f.held (statusPacket f.count)

/-- `mfil` (R311). -/
def mfilResult (c : FireCtx) (m : MatchedSet) (s : State) : Except FaultInfo (State × List Send) := do
  let n ← natOperand c 0 0
  let f := Filler.mk (heldOf c m) n n
  if n = 0 then .ok (sendFilled s c.plot f, [])
  else .ok (modTile s c.plot (tileOf s c.plot c.block) (fun t => { t with fillers := t.fillers ++ [f] }), [])

def execMfil (h : Head) (s : State) : Result := fireHeld h mfilResult s

/-- A filler row fires on tile `n`: of the oldest `mfil` there, or of the furrow controller, which leaves no trace
(R311). -/
def execFillerRow (s : State) : Result :=
  match s.cur with
  | .at p n _ _ =>
    let s := { s with cur := .idle }
    match (tileAt s p n).fillers with
    | f :: rest =>
      if mayStart s p f.held.block (heldEnv f.held).gslot then
        if f.left ≤ 1 then .next (sendFilled (modTile s p n (fun t => { t with fillers := rest })) p f)
        else .next (modTile s p n (fun t => { t with fillers := { f with left := f.left - 1 } :: rest }))
      else .next s
    | [] => .next s
  | _ => .next s

/-! ### wad (R167, R168) -/

/-- A row in another lane width (R168). -/
def repackRow (fo : BitVec 5) (x : Row) : Row :=
  let ki := tagK x.fmt
  let ko := tagK fo
  let wi := (laneWidth x.fmt).getD 0
  let wo := (laneWidth fo).getD 0
  let lane := fun j =>
    let q := rowQ x j
    let q := if ko ≤ ki then q / (2 ^ (ki - ko) : Nat) else q * (2 ^ (ko - ki) : Nat)
    (q % (2 ^ wo : Nat)).toNat
  let lanes := (List.range 64).foldl (fun t j => t + lane j * 2 ^ (wo * j)) 0
  let scale := if fo.getLsbD 3 then bitsOf x.bits.toNat (64 * wi) 64 * 2 ^ (64 * wo) else 0
  { x with fmt := fo, bits := BitVec.ofNat 1088 (lanes + scale) }

/-- `wad` may handle a row (R167): its context runs and its group is RUNNING, not STOPPED, in the handler block neither. -/
def wadLets (s : State) (p : Nat) (b : BlockId) (g : BitVec 3) : Bool :=
  mayStart s p b g && (groupAt s p g).any (fun x => x.phase == .running)

/-- `wad` (R168): the head row of its port is repacked and sent on. The model's choice (assumption 47): a port is handled from
its head alone, so the row of a RUNNING group that stands behind a row of a STOPPED group waits too, on which R167 is
silent. -/
def execWad (h : Head) (ft : BitVec 5) (s : State) : Result :=
  match s.cur with
  | .row p b slot =>
    let s := { s with cur := .idle }
    match (portRows (engineOf s p b) slot).head? with
    | none => .next s
    | some x =>
      if wadLets s p b x.env.gslot && rowPathOpen s p b h true then
        if bitPlaneTag x.fmt && x.fmt.getLsbD 3 == ft.getLsbD 3 then
          .next (sendRow (takeRow s p b slot) p b slot h (repackRow ft x))
        else .next (rowFault s p b slot x (causeOnly causeFormat))
      else .next s
  | _ => .next s

end Sys2Proof.Machine
end

