-- ==== Sys2Proof/Machine/Accumulator.lean ====
section
/-! DEFINITION. Accumulator runs, checks, drains and retries (13_accumulator.md). -/
namespace Sys2Proof.Machine

/-! ### Handles (R316) -/

/-- A named accumulator of the firing plot. -/
structure Handle where
  tile : Nat
  acc : Nat
  deriving DecidableEq, Repr

/-- The number of a handle. -/
def handleNat (tile acc : Nat) : Nat := tile * 8 + acc

/-- The accumulator that the handle on port 0 names; none where it is refused (R316). -/
def handleAt (c : FireCtx) (s : State) : Except FaultInfo (Option Handle) := do
  let v ← natOperand c 0 0
  let t := v / 8
  let a := accOf (tileAt s c.plot t) (v % 8)
  let held := (plotAt s c.plot).blocks.copies.any (fun k => holdsTile t k && k.id.ctx == c.block.ctx)
  if 128 ≤ v ∨ 32 ≤ c.plot ∨ held = false ∨ (a.st ≠ .empty ∧ a.gslot ≠ c.env.gslot) then .ok none
  else .ok (some (Handle.mk t (v % 8)))

/-- The accumulator of a handle. -/
def handleAcc (s : State) (p : Nat) (h : Handle) : Acc := accOf (tileAt s p h.tile) h.acc

/-- The state with an accumulator of a tile written. -/
def putAcc (s : State) (p tile a : Nat) (x : Acc) : State := modTile s p tile (fun t => setAcc t a x)

/-- The accumulator that an instruction's A names. -/
def ownAcc (s : State) (c : FireCtx) (a : BitVec 3) : Acc := accOf (engineOf s c.plot c.block) a.toNat

/-- The state with it written. -/
def putOwn (s : State) (c : FireCtx) (a : BitVec 3) (x : Acc) : State :=
  putAcc s c.plot (tileOf s c.plot c.block) a.toNat x

/-- A firing that has sent a status to every target (R324). -/
def status (c : FireCtx) (s : State) (n : Nat) : State × List Send := (s, emit c (statusPacket n))

/-! ### mclr (R325) -/

/-- The chains that a chain list names (R325). -/
def chainList (cfg : Word) : List (BitVec 7) :=
  (List.range 3).filterMap (fun i => if cfg.getLsbD (8 * i + 7) then some (cfg.extractLsb' (8 * i) 7) else none)

/-- `cnwr SNAP` of a chain that is not IDLE (R224). -/
def snapChain (s : State) (p : Nat) (b : BlockId) (slot : BitVec 7) : State :=
  let x := chainAt s p b slot
  if x.state = .idle then s else setChain s p { x with origin := x.p }

/-- A run as `mclr` opens it. -/
def openRun (t : Tile) (c : FireCtx) : Acc :=
  { Acc.fresh with
    st := .open, gslot := c.env.gslot, origin := c.env.tag, chains := chainList c.head.cfg
    snapW0 := t.w0.lcnt, snapW1 := t.w1.lcnt, snapAct := t.act }

/-- `mclr` (R325). -/
def mclrResult (a : BitVec 3) (c : FireCtx) (m : MatchedSet) (s : State) : Except FaultInfo (State × List Send) :=
  let s := putOwn s c a (openRun (engineOf s c.plot c.block) c)
  let s := (chainList c.head.cfg).foldl (fun s x => snapChain s c.plot c.block x) s
  .ok (passTrigger s c.plot (heldOf c m) 0, [])

def execMclr (h : Head) (a : BitVec 3) (s : State) : Result := fireHeld h (mclrResult a) s

/-! ### mwr (R326) -/

/-- The kind of a class. -/
def kindOfClass : RunCls → RunKind
  | .unscaled => .unscaled
  | .scaled => .scaled
  | .f16 | .bf16 => .floating

/-- `mwr` (R326), fired in a state that admits it or that refuses it: every check is made, and its rows are read through the gather
port of its tile. -/
def mwrResult (cls : RunCls) (a : BitVec 3) (c : FireCtx) (m : MatchedSet) (s : State) : Except FaultInfo (State × List Send) := do
  let d ← descriptor c 4
  let base := d.getD 0 0
  let pitch := d.getD 1 0
  let f := d.getD 2 0
  let n := d.getD 3 0
  require (decide (1 ≤ n) && decide (f + n ≤ 64)) causePacketLength
  pitchAligned s c base pitch 16
  let offs := (List.range n).map (fun i => base + i * pitch)
  rowsInside s c offs 256
  let x := ownAcc s c a
  require (x.kind == .none || x.kind == kindOfClass cls) causeFormat
  if admits x c.env.gslot then
    let x := if x.kind = .none then { x with kind := kindOfClass cls, tol := toleranceOf s c.plot c.block.ctx cls } else x
    let tile := tileOf s c.plot c.block
    let o := s.nextId
    let l := offs.flatMap (fun i => cutPhysical (regionVa s c i) (storeAddr c.plot ((regionOf s c).1 + i)) 256)
    let s := putOwn { s with nextId := o + 1 } c a { x with st := if x.st = .clean then .open else x.st }
    let s := requestReads s (.gather o tile) c.plot c.block.ctx c.env.gslot l
    .ok (modTile s c.plot tile (fun t => { t with jobs := t.jobs ++ [TileJob.mk (heldOf c m) o (.write a cls f n)] }), [])
  else .ok (status c s 1)

def execMwr (h : Head) (cls : RunCls) (a : BitVec 3) (s : State) : Result := fireHeld h (mwrResult cls a) s

/-! ### Checks (R323, R327, R328) -/

/-- A check is refused: no run to check, or another's (R327, R328). -/
def checkRefused (x : Acc) (g : BitVec 3) (drain : Bool) : Bool :=
  x.st == .empty || x.gslot != g || (x.st == .drained && !drain)

/-- An accumulator with a check fired on it: the push first where PS is set (R319). -/
def beginCheck (x : Acc) (k : Check) : Acc :=
  { x with check := some k, failed := if k.kind = .mfix then x.failed else none, st := if x.ps then .swap else .checking }

/-- `mchk` (R327). -/
def mchkResult (a : BitVec 3) (c : FireCtx) (m : MatchedSet) (s : State) : Except FaultInfo (State × List Send) :=
  let x := ownAcc s c a
  if checkRefused x c.env.gslot false then .ok (status c s 1)
  else .ok (putOwn s c a (beginCheck x (Check.mk (heldOf c m) .mchk none)), [])

def execMchk (h : Head) (a : BitVec 3) (s : State) : Result := fireHeld h (mchkResult a) s

/-- The status of a drain: to T0 and T1, and to T2 where it names no done token (R324, R328). -/
def drainStatus (done : Bool) (h : Held) (n : Nat) : List Send :=
  sendEach (if done then { h.head with t2 := none } else h.head) (Token.mk (heldEnv h) (statusPacket n))

/-- The fields of the `mdrn` of a held set. -/
structure DrainForm where
  scope : Scope
  done : Bool
  rm : Rnd
  sh : Bool
  outf : OutFmt
  deriving DecidableEq, Repr

/-- The form of a held drain, from its station. -/
def drainForm (s : State) (p : Nat) (h : Held) : DrainForm :=
  match instrAt s p h.block h.set.slot with
  | some (.mdrn _ scope done rm sh outf _) => DrainForm.mk scope done rm sh outf
  | _ => DrainForm.mk .none false .rne false .native

/-- The destination of every row of a drain. -/
def drainRows (addr pitch : Word) : List (Nat × Word) :=
  (List.range 64).map (fun r => (r, addr + BitVec.ofNat 64 r * pitch))

/-- Every page of a drain's rows translated, before any byte is written (R328). -/
def drainTranslate (s : State) (p : Nat) (ctx : BitVec 12) (addr pitch : Word) (n : Nat) : Except FaultInfo State :=
  (drainRows addr pitch).foldlM (fun s r => translateRange s p ctx r.2 n .store) s

/-- The walks for a drain's rows, up to one that faults. -/
def drainWalk (s : State) (p : Nat) (ctx : BitVec 12) (addr pitch : Word) (n : Nat) : State :=
  walked s p ctx .store ((drainRows addr pitch).flatMap (fun r => pagesOf r.2 n))

/-- `mdrn` (R328). -/
def mdrnResult (done : Bool) (sh : Bool) (outf : OutFmt) (a : BitVec 3) (c : FireCtx) (m : MatchedSet) (s : State) :
    Except FaultInfo (State × List Send) := do
  let x := ownAcc s c a
  let no := checkRefused x c.env.gslot true
  require (wideTag (packetAt c 1).fmt && (no || !sh || exactKind x)) causeFormat
  require (lenAt c 1 == 2) causePacketLength
  let addr := packetSlot true (c.fresh + 8) (packetAt c 1) 0
  let pitch := packetSlot true (c.fresh + 8) (packetAt c 1) 1
  if addr.toNat % 64 ≠ 0 then .error (faultAt causeAlign 0 addr)
  else if pitch.toNat % 64 ≠ 0 then .error (faultAt causeAlign 0 (addr + pitch))
  else if no then .ok (s, drainStatus done (heldOf c m) 1)
  else
    let k := Check.mk (heldOf c m) (.mdrn addr pitch) none
    if x.st = .drained then do
      let s ← drainTranslate s c.plot c.block.ctx addr pitch (64 * outBytes outf)
      .ok (putOwn s c a { x with check := some k, draining := true }, [])
    else .ok (putOwn s c a (beginCheck x k), [])

/-- The walks of an `mdrn` of drained rows that faults. -/
def mdrnWalk (outf : OutFmt) (c : FireCtx) (e : FaultInfo) (s : State) : State :=
  if translationCause e then
    drainWalk s c.plot c.block.ctx (packetSlot true (c.fresh + 8) (packetAt c 1) 0) (packetSlot true (c.fresh + 8) (packetAt c 1) 1)
      (64 * outBytes outf)
  else s

def execMdrn (h : Head) (_scope : Scope) (done : Bool) (_rm : Rnd) (sh : Bool) (outf : OutFmt) (a : BitVec 3)
    (s : State) : Result := fireWalks h (mdrnWalk outf) (mdrnResult done sh outf a) s

/-- A check that faults (R323): its set is kept for the handler, or stands at its station where no cause slot is
free. -/
def failCheck (s : State) (p : Nat) (h : Held) (e : FaultInfo) : State :=
  let (s', taken) := deliverFault s p (heldEnv h).gslot e (0#1 ++ h.set.slot) h.block (heldEnv h) (.set h.block h.set)
  if taken then s' else modCopy s' p h.block (fun c => { c with ready := c.ready ++ [h.set] })

/-- The set of a check that fails, which a retry discards (R332): an `mfix` has none. -/
def failedSet (k : Check) : Option MatchedSet :=
  match k.kind with
  | .mfix => none
  | .mchk | .mdrn _ _ => some k.held.set

/-- A comparison that ends in a FAULT state: `st` with what was located, and the cause, or the status of an `mfix`. -/
def endFaulty (s : State) (p n m : Nat) (x : Acc) (k : Check) (st : AccState) (l : Option Located) (e : FaultInfo)
    (code : Nat) : State :=
  let s := putAcc s p n m { x with st := st, located := l, check := none, failed := failedSet k <|> x.failed }
  match k.kind with
  | .mfix => sendHeld s p k.held (statusPacket code)
  | _ => failCheck s p k.held e

/-- A comparison that ends clean: `mchk` and `mfix` answer, and a drain translates its rows (R327, R328, R331). -/
def endClean (s : State) (p n m : Nat) (x : Acc) (k : Check) : State :=
  match k.kind with
  | .mchk | .mfix => sendHeld (putAcc s p n m { x with st := .clean, check := none }) p k.held (statusPacket 0)
  | .mdrn addr pitch =>
    match drainTranslate s p k.held.block.ctx addr pitch (64 * outBytes (drainForm s p k.held).outf) with
    | .ok s => putAcc s p n m { x with draining := true }
    | .error e =>
      let s := drainWalk s p k.held.block.ctx addr pitch (64 * outBytes (drainForm s p k.held).outf)
      failCheck (putAcc s p n m { x with st := .clean, check := none }) p k.held e

/-- The end of a comparison (R319, R320, R323). `bad` says that an element read was uncorrectable. -/
def endComparison (s : State) (p n m : Nat) (x : Acc) (k : Check) (bad : Bool) : State :=
  let x := { x with located := none }
  let h := BitVec.ofNat 64 (handleNat n m)
  if bad then
    endFaulty { s with fresh := s.fresh + 1 } p n m x k .faultMulti none
      (FaultInfo.mk causeMemUncorrectable 0 (Config.freeWord s.fresh)) 3
  else
    match compareAcc x with
    | .clean => endClean s p n m x k
    | .located l => endFaulty s p n m x k .faultLoc (some l) (FaultInfo.mk causeChkLocated 0 h) 2
    | .multiple => endFaulty s p n m x k .faultMulti none (FaultInfo.mk causeChkMulti 0 h) 3

/-- The comparison of accumulator `m` of tile `n` ends. -/
def execComparisonEnd (s : State) : Result :=
  match s.cur with
  | .at p n m _ =>
    let s := { s with cur := .idle }
    let x := accOf (tileAt s p n) m
    match x.check with
    | some k =>
      if x.st = .checking ∧ x.draining = false then .next (endComparison s p n m x k (comparesBad x)) else .next s
    | none => .next s
  | _ => .next s

/-- One row of an accumulator as bytes (R328). An uncorrectable element that an `mst` writes is a free value (assumption 24): R323
names only a comparison, a drain and `mrd`. -/
def outRow (s : State) (p : Nat) (h : Held) (x : Acc) (rm : Rnd) (sh : Bool) (outf : OutFmt) (r : Nat) : Nat :=
  let e := heldEnv h
  let regs := regsOn s h.block.ctx p
  (List.range 64).foldl (fun t c =>
    let draw := srBits regs.seed e.tag e.thread.toNat (64 * r + c) h.block.bid.toNat h.set.slot.toNat
    let e := if accBad x (64 * r + c) 1 then (Config.freeWord (s.fresh + 1 + 64 * r + c)).toNat % 2 ^ (8 * outBytes outf)
      else outElement x outf sh rm (regs.cfg.getLsbD 0) draw s.fresh (vecGet (accData x r) c)
    t + e * 2 ^ (8 * outBytes outf * c)) 0

/-- The requests of every row of a drain, every page translated (R328). -/
def drainPieces (s : State) (p : Nat) (ctx : BitVec 12) (addr pitch : Word) (n : Nat) :
    Except FaultInfo (State × List (Word × Nat × Nat)) :=
  (drainRows addr pitch).foldlM (fun x r => do
    let (s, l) ← enginePieces x.1 p ctx r.2 n .store
    .ok (s, x.2 ++ l)) (s, [])

/-- The rows of an accumulator as one number, row 0 lowest. -/
def allRows (s : State) (p : Nat) (h : Held) (x : Acc) (rm : Rnd) (sh : Bool) (outf : OutFmt) : Nat :=
  (List.range 64).foldr (fun r v => outRow s p h x rm sh outf r + 256 ^ (64 * outBytes outf) * v) 0

/-- A drain that ends without a write: its accumulator as a comparison would leave it, and its fault (R323, R328). -/
def drainFails (s : State) (p n m : Nat) (x : Acc) (h : Held) (st : AccState) (e : FaultInfo) : State :=
  failCheck (putAcc s p n m { x with
    st := st, check := none, draining := false, failed := if st = .faultMulti then some h.set else none }) p h e

/-- The drain of accumulator `m` of tile `n` sends its rows to their homes (R247, R328). Uncorrectable data ends it in FAULT_MULTI
with nothing written (R323). -/
def beginDrain (s : State) (p n m : Nat) : State :=
  let x := accOf (tileAt s p n) m
  match x.check with
  | some k =>
    (match k.kind, k.writes with
    | .mdrn addr pitch, none =>
      if !x.draining then s
      else if accBad x 0 atCc then
        drainFails { s with fresh := s.fresh + 1 } p n m x k.held .faultMulti
          (FaultInfo.mk causeMemUncorrectable 0 (Config.freeWord s.fresh))
      else
        let f := drainForm s p k.held
        let c := k.held.block.ctx
        (match drainPieces s p c addr pitch (64 * outBytes f.outf) with
        | .error e =>
          drainFails (drainWalk s p c addr pitch (64 * outBytes f.outf)) p n m x k.held (if x.st = .drained then .drained else .clean) e
        | .ok (s', l) =>
          if piecesReady s' l then
            let o := s'.nextId
            let v := allRows s' p k.held x f.rm f.sh f.outf
            let s' := requestWrites { s' with nextId := o + 1, fresh := s'.fresh + 4097 } (.drain o n) p c (heldEnv k.held).gslot l v
            putAcc s' p n m { x with check := some { k with writes := some o } }
          else s)
    | _, _ => s)
  | none => s

/-- A done token sent at its SCOPE (R206, R328): at system scope it waits for peers and host copies. -/
def drainDone (s : State) (p n o : Nat) (h : Held) (sc : Scope) : State :=
  if sc = .system ∧ requestsSys s (.drain o n) = false then
    modTile s p n (fun t => { t with jobs := t.jobs ++ [TileJob.mk h o .drain] })
  else copyDone s p h

/-- Every row of a drain has been performed (R328): the accumulator is DRAINED, and the drain's tokens are sent. -/
def endDrain (s : State) (p n m : Nat) (x : Acc) (k : Check) (o : Nat) : State :=
  let f := drainForm s p k.held
  let s := putAcc s p n m { x with st := .drained, check := none, draining := false }
  let s := sendAll s p k.held.block (drainStatus f.done k.held 0)
  if f.done then drainDone s p n o k.held f.scope else s

/-- The rows that an `mwr` has read, as they add to an accumulator (R326): rows that hold uncorrectable data are free values
(assumption 6). -/
def writeRows (s : State) (j : TileJob) (x : Acc) (f n tile : Nat) : Acc :=
  let v := readOrFree s (.gather j.id tile) (256 * n)
  (List.range n).foldl (fun x i => addExplicit x (f + i) (BitVec.ofNat 2048 (v / 256 ^ (256 * i)))) x

/-- The rows of an `mwr` that has fired are written into an accumulator: one of its owner that admits rows, or one whose push waits for
them (R304, R319). -/
def takesRows (x : Acc) (g : BitVec 3) : Bool := admits x g || (x.st == .swap && x.gslot == g)

/-- An `mwr` whose rows have been read: they are added to its accumulator. With a run gone that was there when it fired the status is 1
(R326). -/
def endWrite (s : State) (p n m : Nat) (j : TileJob) (a : BitVec 3) (f k : Nat) : State :=
  let x := accOf (tileAt s p n) a.toNat
  let drop := fun (s : State) => modTile (dropReads s (.gather j.id n)) p n (fun t => { t with jobs := t.jobs.eraseIdx m })
  if takesRows x (heldEnv j.held).gslot then
    let y := writeRows s j { x with st := if x.st = .clean then .open else x.st } f k n
    sendHeld (putAcc (drop { s with fresh := s.fresh + 4096 }) p n a.toNat y) p j.held (statusPacket 0)
  else if x.st = .empty ∨ x.st = .drained then sendHeld (drop s) p j.held (statusPacket 1)
  else s

/-- The job at place `m` of a tile is looked at: with its requests performed at its scope an `mst` sends its status (R329), an `mdrn`
its done token (R328), or faults where a peer has refused a row (R483), and an `mwr` adds its rows (R326). -/
def endJob (s : State) (p n m : Nat) : State :=
  let drop := fun (s : State) => modTile s p n (fun t => { t with jobs := t.jobs.eraseIdx m })
  match (tileAt s p n).jobs[m]? with
  | some j =>
    (match j.kind with
    | .store => if requestsDone s (.drain j.id n) then sendHeld (drop s) p j.held (statusPacket 0) else s
    | .drain =>
      (match requestFault s (.drain j.id n) with
      | some e =>
        let (s', taken) := deliverFault s p (heldEnv j.held).gslot e (0#1 ++ j.held.set.slot) j.held.block (heldEnv j.held) .nothing
        if taken then dropFailed (drop s') (.drain j.id n) else s'
      | none => if requestsSys s (.drain j.id n) then copyDone (drop s) p j.held else s)
    | .write a _ f k => if requestsDone s (.gather j.id n) then endWrite s p n m j a f k else s)
  | none => s

/-- Every row of the drain of accumulator `m` of tile `n` is performed. -/
def execDrainPerformed (s : State) : Result :=
  match s.cur with
  | .at p n m _ =>
    let s := { s with cur := .idle }
    let x := accOf (tileAt s p n) m
    match x.check with
    | some k =>
      (match k.writes with
      | some o => if requestsDone s (.drain o n) then .next (endDrain s p n m x k o) else .next s
      | none => .next s)
    | none => .next s
  | _ => .next s

/-- An element of an accumulator takes an error (R315): accumulator `m` mod 8 of the tile, a single-bit error, corrected and
counted, for an even `m` / 8, and an uncorrectable one of element `m` / 16 for an odd. -/
def accError (s : State) (p n m : Nat) : State :=
  if m / 8 % 2 = 0 then modPlot s p (fun x => { x with corrected := x.corrected + 1 })
  else
    let x := accOf (tileAt s p n) (m % 8)
    putAcc s p n (m % 8) { x with bad := m / 16 :: x.bad.filter (fun e => e != m / 16) }

/-! ### mst (R329) -/

/-- The rows of an accumulator sent to the group's region. -/
def storeRows (s : State) (c : FireCtx) (m : MatchedSet) (x : Acc) (rm : Rnd) (sh : Bool) (outf : OutFmt)
    (offs : List Nat) : State :=
  let start := (regionOf s c).1
  let tile := tileOf s c.plot c.block
  let o := s.nextId
  let l := offs.flatMap (fun i => cutPhysical (regionVa s c i) (storeAddr c.plot (start + i)) (64 * outBytes outf))
  let v := allRows s c.plot (heldOf c m) x rm sh outf
  let s := requestWrites { s with nextId := o + 1, fresh := s.fresh + 4097 } (.drain o tile) c.plot c.block.ctx c.env.gslot l v
  modTile s c.plot tile (fun t => { t with jobs := t.jobs ++ [TileJob.mk (heldOf c m) o .store] })

/-- `mst` (R329). -/
def mstResult (rm : Rnd) (sh : Bool) (outf : OutFmt) (a : BitVec 3) (c : FireCtx) (m : MatchedSet) (s : State) :
    Except FaultInfo (State × List Send) := do
  let x := ownAcc s c a
  let live := x.st == .clean || x.st == .drained
  require (wideTag (packetAt c 0).fmt && (!live || !sh || exactKind x)) causeFormat
  let d ← descriptor c 2
  let base := d.getD 0 0
  let pitch := d.getD 1 0
  pitchAligned s c base pitch 16
  let offs := (List.range 64).map (fun r => base + r * pitch)
  rowsInside s c offs (64 * outBytes outf)
  if live then .ok (storeRows s c m x rm sh outf offs, []) else .ok (status c s 1)

def execMst (h : Head) (rm : Rnd) (sh : Bool) (outf : OutFmt) (a : BitVec 3) (s : State) : Result :=
  fireHeld h (mstResult rm sh outf a) s

/-! ### mloc and mfix (R330, R331) -/

/-- The located error of an accumulator in FAULT_LOC. -/
def located (x : Acc) : Option Located := if x.st = .faultLoc then x.located else none

/-- `mloc` (R330). -/
def mlocResult (c : FireCtx) (s : State) : Except FaultInfo (State × List Send) := do
  let o ← handleAt c s
  let l := o.bind (fun h => located (handleAcc s c.plot h))
  let xs := match l with
    | some l => [1, BitVec.ofNat 64 l.i, BitVec.ofNat 64 l.j, l.delta.setWidth 64]
    | none => [0, 0, 0, 0]
  .ok (s, emit c (mkPacket 0x05 xs))

def execMloc (h : Head) (s : State) : Result := fireState h mlocResult s

/-- An element corrected by a difference (R331). -/
def correctElement (x : Acc) (i j : Nat) (d : BitVec 32) : Acc :=
  let row := accData x i
  let v := if exactKind x then wrap32 (vecInt row j + d.toInt)
    else toF32 .rne (addReal .rne (vecReal row j) (unpack .f32 (d.setWidth 64)))
  setAccData x i (vecSet row j v)

/-- `mfix` (R331): the element is corrected and the comparison runs. -/
def mfixResult (c : FireCtx) (m : MatchedSet) (s : State) : Except FaultInfo (State × List Send) := do
  let o ← handleAt c s
  require (intTag (packetAt c 1).fmt) causeFormat
  require (lenAt c 1 == 4) causePacketLength
  let i ← natOperand c 1 1
  let j ← natOperand c 1 2
  let d ← intOperand c 1 3
  match o with
  | some h =>
    let x := handleAcc s c.plot h
    if x.st = .faultLoc ∧ i < 64 ∧ j < 64 then
      .ok (putAcc s c.plot h.tile h.acc
        (beginCheck (correctElement x i j (BitVec.ofInt 32 d)) (Check.mk (heldOf c m) .mfix none)), [])
    else .ok (status c s 1)
  | none => .ok (status c s 1)

def execMfix (h : Head) (s : State) : Result := fireHeld h mfixResult s

/-! ### mrty (R332) -/

/-- CTXCFG.RETRYMAX (R411). -/
def retryMax (s : State) (p : Nat) (c : BitVec 12) : Nat := ((regsOn s c p).cfg.extractLsb' 20 4).toNat

/-- A tag extends the origin of a run (R332). -/
def extendsTag (o t : Word) : Bool :=
  decide (tagUse o < tagUse t) && tagFields t >>> (tagUse t - tagUse o) == tagFields o

/-- An envelope is squashed: the owner's, with a tag that extends the origin. -/
def squashed (x : Acc) (e : Envelope) : Bool := e.gslot == x.gslot && extendsTag x.origin e.tag

/-- A copy's tokens and sets without the squashed ones and without the set of the failed check (R332). -/
def squashCopy (gone : Envelope → Bool) (failed : Option MatchedSet) (c : Copy) : Copy :=
  let keep := fun (t : Token) => !gone t.env
  let ready := match failed with
    | some m => c.ready.erase m
    | none => c.ready
  { c with
    buffer := c.buffer.filter (fun w => keep w.tok)
    spilled := c.spilled.filter (fun w => keep w.tok)
    waiting := c.waiting.filter (fun w => keep w.tok)
    ready := ready.filter (fun m => m.toks.all (fun t => keep t.2)) }

/-- What a cause slot keeps, gone where it is squashed or the failed check's set (R332). -/
def squashKept (s : State) (p : Nat) (b : BlockId) (gone : Envelope → Bool) (failed : Option MatchedSet) (k : Kept) : Kept :=
  match k with
  | .set b' m => if b' = b ∧ (failed = some m ∨ m.toks.any (fun t => gone t.2.env) = true) then .nothing else k
  | .trap b' m _ => if b' = b ∧ m.toks.any (fun t => gone t.2.env) = true then .nothing else k
  | .entry b' t => if b' = b ∧ gone t.tok.env = true then .nothing else k
  | .row b' slot =>
    if b' = b ∧ (portRows (engineOf s p b) slot).head?.any (fun r => gone r.env) = true then .nothing else k
  | .access id =>
    if (accessAt s p id).any (fun a => a.block == b && isStream a.op && gone a.env) then .nothing else k
  | .copy _ | .nothing => k

/-- A tile without the squashed rows and the work on squashed tokens (R332). -/
def squashTile (gone : Envelope → Bool) (t : Tile) : Tile :=
  let keep := fun (r : Row) => !gone r.env
  { t with
    ports := (t.ports.map (fun q => { q with rows := q.rows.filter keep })).filter (fun q => !q.rows.isEmpty)
    stage0 := t.stage0.filter (fun r => keep r.row)
    stage1 := t.stage1.filter (fun r => keep r.row)
    switch := t.switch.filter (fun x => !gone (heldEnv x.held))
    latches := t.latches.filter (fun x => !gone (heldEnv x.held))
    gather := t.gather.filter (fun x => !gone (heldEnv x.held))
    repeats := t.repeats.map (fun r => { r with
      buffer := r.buffer.filter keep, job := r.job.filter (fun j => !gone (heldEnv j.held)) })
    jobs := t.jobs.filter (fun j => !gone (heldEnv j.held))
    fillers := t.fillers.filter (fun f => !gone (heldEnv f.held)) }

/-- The reads of the gather and the `mwr`s of a tile whose envelopes a test selects. -/
def tileReads (sel : Envelope → Bool) (t : Tile) (q : EngReq) : Bool :=
  match q.owner with
  | .gather id _ =>
    t.gather.any (fun g => sel (heldEnv g.held) && decide (g.id ≤ id) && decide (id ≤ g.id + 8)) ||
      t.jobs.any (fun j => j.id == id && sel (heldEnv j.held))
  | _ => false

/-- The counters of a plot looked at again: the waiters at their heads are served, and those of which nothing is left are free (R233,
R235). -/
def serveChannels (s : State) (p : Nat) : State :=
  (plotAt s p).unit.channels.foldl (fun s k => workChannel s p k.ctx k.ch { noEnv with gslot := k.gslot, tag := k.tag } (fun x => x)) s

/-- The waiting `bar` sets of a plot that a test names discarded, WAITERS of their barriers reduced (R351). -/
def dropBars (gone : BarWaiter → Bool) (s : State) (p : Nat) (g : BitVec 3) : State :=
  let ws := (plotAt s p).unit.barWaiters.filter gone
  let s := modUnit s p (fun u => { u with barWaiters := u.barWaiters.filter (fun w => !gone w) })
  modGroup s p g (fun x => { x with barriers := (x.barriers.zip (List.range x.barriers.length)).map (fun b =>
    { b.1 with waiters := b.1.waiters - ws.countP (fun w => w.gslot == g && w.bar == b.2) }) })

/-- Step 2 of R332 for a run of a block. -/
def squash (s : State) (p : Nat) (b : BlockId) (x : Acc) : State :=
  let gone := squashed x
  let t := engineOf s p b
  let here := fun (h : Held) => h.block == b && gone (heldEnv h)
  let kept := squashKept s p b gone x.failed
  let s := { s with
    flights := s.flights.filter (fun f => !(f.dest.plot == p && f.dest.block == b && gone f.tok.env))
    rows := s.rows.filter (fun f => !(f.dest.plot == p && f.dest.block == b && gone f.row.env))
    engReqs := s.engReqs.filter (fun q => !(q.plot == p && tileReads gone t q)) }
  let s := modCopy s p b (squashCopy gone x.failed)
  let s := modAccesses s p (fun l => l.filter (fun y => !(y.block == b && isStream y.op && gone y.env)))
  let s := modUnit s p (fun u => { u with
    channels := u.channels.map (fun k => { k with waiters := k.waiters.filter (fun w => !here w.held) })
    adds := u.adds.filter (fun w => !here w.held)
    joins := u.joins.filter (fun w => !here w.held) })
  let s := dropBars (fun w => here w.held) s p x.gslot
  let s := modGroup s p x.gslot (fun g => { g with causes := g.causes.map (fun k => { k with kept := kept k.kept }) })
  serveChannels (modTile s p (tileOf s p b) (squashTile gone)) p

/-- The pushes of a weight change made at once, the array being empty (R304, R332). -/
def pushNow (t : Tile) (w : Bool) : Tile :=
  mapAccs t (fun a =>
    if a.ps && a.bound == w then
      { pushAcc a (weightsOf t w) with st := if a.st = .swap ∨ a.st = .retrying then pushLeaves a else a.st }
    else a)

/-- A slot that has latched since the run opened becomes EMPTY (R332). -/
def undoSlot (t : Tile) (w : Bool) (snap : BitVec 32) : Tile :=
  if (weightsOf t w).lcnt = snap then t
  else
    let t := pushNow t w
    setWeights t w { weightsOf t w with latched := false }

/-- ACT returns to its snapshot (R332). -/
def undoActive (t : Tile) (act : Bool) : Tile := if t.act = act then t else { pushNow t t.act with act := act }

/-- An accumulator cleared for its retry (R332). -/
def clearRun (x : Acc) : Acc :=
  { x with
    d := [], cc := 0, cr := 0, s := 0, sa := 0, mr := 0, mc := 0, fr := 0, pc := 0, rows := 0, nr := 0, ps := false
    rc := x.rc + 1, located := none, failed := none, bad := [], st := .retrying }

/-- The block whose copy holds a tile. -/
def blockOnTile (s : State) (p t : Nat) : Option BlockId := (copyOnTile s p t).map (fun c => c.id)

/-- The retry of the run in an accumulator (R332). -/
def retryRun (s : State) (p : Nat) (b : BlockId) (h : Handle) (x : Acc) : State :=
  let s := squash s p b x
  let s := putAcc s p h.tile h.acc (clearRun x)
  let s := modTile s p h.tile (fun t => undoActive (undoSlot (undoSlot t false x.snapW0) true x.snapW1) x.snapAct)
  let s := tryLatches (pullAll s p b) p b
  x.chains.foldl (fun s k => rewindChain s p b k) s

/-- `mrty` (R332). -/
def mrtyResult (c : FireCtx) (s : State) : Except FaultInfo (State × List Send) := do
  let o ← handleAt c s
  match o with
  | some h =>
    let x := handleAcc s c.plot h
    match blockOnTile s c.plot h.tile with
    | some b =>
      if x.st ≠ .faultLoc ∧ x.st ≠ .faultMulti then .ok (status c s 1)
      else if retryMax s c.plot c.block.ctx ≤ x.rc then
        .error (FaultInfo.mk causeRetryExhausted 0 (BitVec.ofNat 64 (handleNat h.tile h.acc)))
      else .ok (status c (retryRun s c.plot b h x) 0)
    | none => .ok (status c s 1)
  | none => .ok (status c s 1)

def execMrty (h : Head) (s : State) : Result := fireState h mrtyResult s

/-! ### mrd and mtol (R334, R335) -/

/-- The number of an accumulator's state, and of its kind (R315). -/
def accCode : AccState → Nat
  | .empty => 0
  | .open => 1
  | .swap => 2
  | .checking => 3
  | .clean => 4
  | .faultLoc => 5
  | .faultMulti => 6
  | .retrying => 7
  | .drained => 8
def kindCode : RunKind → Nat
  | .none => 0
  | .unscaled => 1
  | .scaled => 2
  | .floating => 3

/-- The status word of an accumulator (R315). -/
def accStatus (x : Acc) : Word :=
  BitVec.ofNat 64 (x.rows.toNat * 2 ^ 32 + x.kb * 2 ^ 28 + x.ka * 2 ^ 24 + x.rc * 2 ^ 20 + x.gslot.toNat * 2 ^ 17 +
    natOfBool x.ps * 2 ^ 16 + natOfBool x.bound * 2 ^ 15 + kindCode x.kind * 2 ^ 13 + accCode x.st)

/-- Eight elements of a vector as a packet: .s32 or .f32 (R334). -/
def vecPacket (x : Acc) (v : Vec32) (g : Nat) : Packet :=
  mkPacket (tagOfTy (if exactKind x then .s32 else .f32))
    ((List.range 8).map (fun i => BitVec.ofNat 64 (vecGet v (8 * g + i))))

/-- Packets sent to every target, each under the set's tag with a field pushed (R97, R334). -/
def sendTagged (c : FireCtx) (w : Nat) (xs : List (Nat × Packet)) : Except FaultInfo (List Send) := do
  let ys ← xs.mapM (fun x => do
    let t ← tagPush c.env.tag w x.1
    .ok (sendEach c.head (Token.mk { c.env with tag := t } x.2)))
  .ok ys.flatten

/-- What `mrd` sends of a vector. -/
def sendVector (c : FireCtx) (x : Acc) (v : Vec32) : Except FaultInfo (List Send) :=
  sendTagged c 3 ((List.range 8).map (fun g => (g, vecPacket x v g)))

/-- The rows that `mrd.data` asks for (R334). -/
def mrdRange (sel : MrdSel) (c : FireCtx) : Except FaultInfo (Nat × Nat) :=
  if sel = .data then do
    require (intTag (packetAt c 1).fmt) causeFormat
    require (lenAt c 1 == 2) causePacketLength
    let r ← natOperand c 1 0
    let n ← natOperand c 1 1
    require (decide (r + n ≤ 64)) causePacketLength
    .ok (r, n)
  else .ok (0, 0)

/-- `mrd` reads an uncorrectable element of an accumulator (R323): of the rows it asks for, or of the vector it names. -/
def readsBad (x : Acc) (sel : MrdSel) (r0 n : Nat) : Bool :=
  match sel with
  | .data => accBad x (64 * r0) (64 * n)
  | .cc => accBad x atCc 64
  | .cr => accBad x atCr 64
  | .sum => accBad x atS 64
  | .status => false

/-- `mrd` (R334). -/
def mrdResult (sel : MrdSel) (c : FireCtx) (s : State) : Except FaultInfo (State × List Send) := do
  let o ← handleAt c s
  let (r0, n) ← mrdRange sel c
  match o with
  | none => .ok (s, sendTo c.head.t0 (Token.mk c.env (statusPacket 1)))
  | some h =>
    let x := handleAcc s c.plot h
    if readsBad x sel r0 n then .error (FaultInfo.mk causeMemUncorrectable 0 (Config.freeWord s.fresh))
    else do
    let xs ← match sel with
      | .data => sendTagged c 9 ((List.range n).flatMap (fun i => (List.range 8).map (fun g =>
          (8 * (r0 + i) + g, vecPacket x (accData x (r0 + i)) g))))
      | .cc => sendVector c x x.cc
      | .cr => sendVector c x x.cr
      | .sum => sendVector c x x.s
      | .status => .ok (emit c (mkPacket 0x04 [accStatus x, x.origin]))
    .ok (s, xs)

def execMrd (h : Head) (sel : MrdSel) (s : State) : Result := fireState h (mrdResult sel) s

/-- `mtol` (R335): no rule has its write reach plot after plot, as that of an `swr` does (R412), so every plot has it at once. -/
def mtolResult (k : TolCls) (c : FireCtx) (s : State) : Except FaultInfo (State × List Send) := do
  let v ← natOperand c 1 0
  let old := readCtxRegs (regsOn s c.block.ctx c.plot) (toleranceReg k)
  .ok (addWrite s (RegWrite.mk c.block.ctx (toleranceReg k) (BitVec.ofNat 64 v) [] none), emit c (word64Packet old))

def execMtol (h : Head) (k : TolCls) (s : State) : Result := fireState h (mtolResult k) s

/-! ### When accumulator instructions may start -/

/-- An accumulator that is in SWAP or CHECKING, or draining. -/
def accBusy (x : Acc) : Bool := x.st == .swap || x.st == .checking || x.draining

/-- An `mwr` may start: its accumulator admits it, or refuses it (R326). -/
def mwrStarts (t : Tile) (a : Nat) (g : BitVec 3) : Bool :=
  let x := accOf t a
  x.st == .empty || x.st == .drained || (admits x g && !accInArray t a && !writesInto t a)

/-- The rows of a run, its gathers and its stream loads are at rest (R332). -/
def retryQuiet (s : State) (p : Nat) (t : Nat) : Bool :=
  let y := tileAt s p t
  y.array.isEmpty && s.engReqs.all (fun q => !(q.plot == p && tileReads (fun _ => true) y q) || q.done) && (match blockOnTile s p t with
    | some b => (plotAt s p).accesses.all (fun a => !(a.block == b && isStream a.op && a.phase == .issued))
    | none => true)

/-- The tile that an integer token on port 0 names, if it names one. -/
def handleTile (c : FireCtx) : Nat :=
  match natOperand c 0 0 with
  | .ok v => v / 8 % 16
  | .error _ => 0

/-- The accumulator of a handle token is not busy, as `mrd` waits for (R334). -/
def handleReady (s : State) (c : FireCtx) : Bool :=
  match handleAt c s with
  | .ok (some h) => (handleAcc s c.plot h).st != .swap && (handleAcc s c.plot h).st != .checking
  | _ => true

end Sys2Proof.Machine
end

