-- ==== Sys2Proof/Machine/Groups.lean ====
section
/-! DEFINITION. The group instructions (14_group.md R345 to R350), the barrier (15_barrier.md), and operations that a unit
has refused, sent again (R210, R274, R289). -/
namespace Sys2Proof.Machine

/-! ### grex (R346) -/

/-- The handle of a group (R338). A headland is no plot that a handle can name: PLOT is then a free value
(assumption 6). -/
def groupHandle (s : State) (p : Nat) (g : BitVec 3) (x : Group) : Nat :=
  let plot := if p < 32 then p else (Config.freeWord s.fresh).toNat % 32
  2 ^ 31 + plot * 2 ^ 26 + g.toNat * 2 ^ 23 + x.seq.toNat

/-- `grex` (R346). -/
def grexResult (op : GrexOp) (c : FireCtx) (s : State) : Except FaultInfo (State × List Send) :=
  match groupAt s c.plot c.env.gslot with
  | none => .ok (s, [])
  | some x =>
    match op with
    | .hnd => .ok ({ s with fresh := s.fresh + 1 }, emit c (statusPacket (groupHandle s c.plot c.env.gslot x)))
    | .exit => do
      let v ← natOperand c 0 0
      .ok (modGroup s c.plot c.env.gslot (fun y => { y with exitCode := y.exitCode ||| BitVec.ofNat 32 v }), [])
    | .gnum => .ok (s, emit c (mkPacket 0x05 [x.number.setWidth 64, x.count.setWidth 64]))

def execGrex (h : Head) (op : GrexOp) (s : State) : Result := throughPort s (fireState h (grexResult op) s)

/-! ### post and recv (R347, R348) -/

/-- `post` (R347). In a replay it waits until the port accepts it in its turn, and in a recording until its entry has room (R349, R437,
R438). -/
def postResult (c : FireCtx) (m : MatchedSet) (s : State) : Except FaultInfo (State × List Send) := do
  let _ ← natOperand c 0 0
  require (!(wideTag (packetAt c 1).fmt && decide (4 < lenAt c 1))) causePacketLength
  let h := heldOf c m
  if postReady s c.plot h then
    let q := ((postHandle s c.plot h).extractLsb' 26 5).toNat
    .ok (kickUnit (performPost s c.plot h) q, [])
  else
    let s := awaitTurn s c.block.ctx (postTurn s c.plot h)
    .ok (modWaiters s c.plot (fun l => l ++ [Waiter.mk h c.env.gslot .post]), [])

def execPost (h : Head) (_done : Bool) (_ipt : BitVec 2) (s : State) : Result := fireHeld h postResult s

/-- `recv` (R348). -/
def recvResult (wait : Bool) (ipt : BitVec 2) (c : FireCtx) (m : MatchedSet) (s : State) :
    Except FaultInfo (State × List Send) :=
  let h := heldOf c m
  let g := c.env.gslot
  let queued := wait && (plotAt s c.plot).unit.waiters.any (atPort g ipt.toNat)
  if (portHead s c.plot g ipt.toNat).isSome ∧ queued = false then .ok (takeMessage s c.plot g ipt.toNat h, [])
  else if wait then .ok (joinWaiters s c.plot g h (.receive ipt.toNat), [])
  else .ok (s, sendTo c.head.t1 (Token.mk c.env (statusPacket 0)))

def execRecv (h : Head) (wait : Bool) (ipt : BitVec 2) (s : State) : Result := throughPort s (fireHeld h (recvResult wait ipt) s)

/-- The first spilled message of port `m` of group slot `n` of plot `p` returns to its port (R344). -/
def execPortSpillReturn (s : State) : Result :=
  match s.cur with
  | .at p n m _ =>
    let s := { s with cur := .idle }
    let g := BitVec.ofNat 3 n
    match groupAt s p g with
    | some x =>
      (match x.portSpill.getD m [] with
      | k :: rest =>
        if (x.ports.getD m []).length < 16 then
          .next (kickUnit (modGroup s p g (fun y => { y with
            ports := y.ports.modify m (fun l => l ++ [k]), portSpill := y.portSpill.set m rest })) p)
        else .next s
      | [] => .next s)
    | none => .next s
  | _ => .next s

/-! ### Barrier records (R351, R352) -/

/-- A barrier that is not configured. -/
def Barrier.none : Barrier := Barrier.mk 0 0 false 0 0

/-- A barrier of a group slot, and the state with one written. -/
def barrierAt (s : State) (p : Nat) (g : BitVec 3) (b : Nat) : Barrier :=
  ((groupAt s p g).map (fun x => x.barriers.getD b Barrier.none)).getD Barrier.none
def setBarrier (s : State) (p : Nat) (g : BitVec 3) (b : Nat) (x : Barrier) : State :=
  modGroup s p g (fun y => { y with barriers := y.barriers.set b x })

/-- What an arrival of weight `k` does (R352): the record, and whether a phase completed. -/
def arriveBarrier (x : Barrier) (k : Nat) : Barrier × Bool :=
  let a := min k (x.count - x.arr)
  if x.arr + a = x.count then ({ x with phase := !x.phase, arr := k - a }, true)
  else ({ x with arr := x.arr + a }, false)

/-- The word of a barrier record (R351). -/
def barrierWord (x : Barrier) : Word :=
  BitVec.ofNat 64 (min x.waiters 65535 * 2 ^ 28 + x.count * 2 ^ 17 + natOfBool x.phase * 2 ^ 16 + x.arr)

/-- A completion signal sent (R354). -/
def sendSignal (s : State) (p : Nat) (g : BitVec 3) (b : Nat) (phase : Bool) : State :=
  modUnit s p (fun u => { u with signals := u.signals ++ [Signal.mk g b phase u.stamp], stamp := u.stamp + 1 })

/-- The result of a `bar` (R354). -/
def barPacket (ok : Nat) (phase : Bool) : Packet := mkPacket 0x05 [BitVec.ofNat 64 ok, BitVec.ofNat 64 (natOfBool phase)]

/-- A `bar` set held at its station for its phase (R354). -/
def holdBar (s : State) (p : Nat) (h : Held) (g : BitVec 3) (b : Nat) (phase : Bool) : State :=
  let room := (copyOf s p h.block).all (fun c => storeRoom s p c h.set.slot)
  let s := { modUnit s p (fun u => { u with
    barWaiters := u.barWaiters ++ [BarWaiter.mk h g b phase u.stamp (if room then none else some s.nextId)], stamp := u.stamp + 1 }) with
    nextId := if room then s.nextId else s.nextId + 1 }
  let x := barrierAt s p g b
  let s := setBarrier s p g b { x with waiters := x.waiters + 1 }
  if room then s else afterSpill (countEvent s p 0x08 (some h.block.ctx) 1) h.block.ctx

/-- `bar` (R354). -/
def barResult (wait : Bool) (b : BitVec 4) (c : FireCtx) (m : MatchedSet) (s : State) :
    Except FaultInfo (State × List Send) := do
  let k ← natOperand c 1 0
  let g := c.env.gslot
  let x := barrierAt s c.plot g b.toNat
  if x.count = 0 then .ok (s, emit c (barPacket 0 false))
  else do
    require (decide (k ≤ x.count)) causePacketLength
    let (y, full) := arriveBarrier x k
    let s := setBarrier s c.plot g b.toNat y
    let s := if full then sendSignal s c.plot g b.toNat x.phase else s
    if wait && !full && k != 0 then .ok (holdBar s c.plot (heldOf c m) g b.toNat x.phase, [])
    else .ok (s, emit c (barPacket 1 x.phase))

def execBar (h : Head) (wait : Bool) (b : BitVec 4) (s : State) : Result := throughPort s (fireHeld h (barResult wait b) s)

/-- `bari` (R355). -/
def bariResult (b : BitVec 4) (c : FireCtx) (s : State) : Except FaultInfo (State × List Send) := do
  let n ← natOperand c 0 0
  require (decide (n ≤ 1024)) causePacketLength
  let x := barrierAt s c.plot c.env.gslot b.toNat
  if x.arr = 0 ∧ x.waiters = 0 then
    .ok (setBarrier s c.plot c.env.gslot b.toNat { x with count := if n = 0 then x.declared else n, phase := false },
      emit c (statusPacket 0))
  else .ok (s, emit c (statusPacket 1))

def execBari (h : Head) (b : BitVec 4) (s : State) : Result := throughPort s (fireState h (bariResult b) s)

/-- `barq` (R356). -/
def barqResult (b : BitVec 4) (c : FireCtx) (s : State) : Except FaultInfo (State × List Send) :=
  .ok (s, emit c (word64Packet (barrierWord (barrierAt s c.plot c.env.gslot b.toNat))))

def execBarq (h : Head) (b : BitVec 4) (s : State) : Result := throughPort s (fireState h (barqResult b) s)

/-- A waiter that a signal releases (R354). -/
def released (x : Signal) (w : BarWaiter) : Bool :=
  w.gslot == x.gslot && w.bar == x.bar && w.phase == x.phase && decide (w.stamp < x.stamp)

/-- The context of a group slot is RUNNING. -/
def slotRuns (s : State) (p : Nat) (g : BitVec 3) : Bool :=
  (groupAt s p g).all (fun x => (ctxAt s x.ctx).phase == .running)

/-- The oldest completion signal of plot `p` whose context runs reaches the stations (R354). -/
def execCompletionSignal (s : State) : Result :=
  match s.cur with
  | .at p _ _ _ =>
    let s := { s with cur := .idle }
    match (plotAt s p).unit.signals.find? (fun x => slotRuns s p x.gslot) with
    | some x =>
      let rest := (plotAt s p).unit.signals.erase x
      let ws := (plotAt s p).unit.barWaiters.filter (released x)
      let s := modUnit s p (fun u => { u with signals := rest, barWaiters := u.barWaiters.filter (fun w => !released x w) })
      let y := barrierAt s p x.gslot x.bar
      let s := setBarrier s p x.gslot x.bar { y with waiters := y.waiters - ws.length }
      .next (ws.foldl (fun s w => sendHeldBack s p w.held (barPacket 1 w.phase)) s)
    | none => .next s
  | _ => .next s

/-! ### Refused operations (R210, R274, R289, R348) -/

/-- A refused request for slots of a buffer made again, with its limits tested against the buffer as it now is (R274, R278, R284). -/
def resendSlots (s : State) (p : Nat) (g : BitVec 3) (h : Held) (cb k : Nat) (w : WaitKind) : State :=
  let b := bufferAt s p g cb
  if b.slots != 0 && decide (k ≤ b.slots) then requestSlots s p g h w else refusedFault s p h (causeOnly causeCbOversize)

/-- A refused operation is one of the control unit, whose rank there counts (R274). -/
def Refused.atUnit (r : Refused) : Bool :=
  match r.kind with
  | .reserve _ _ | .acquire _ _ | .copyReserve _ _ => true
  | _ => false

/-- An operation that the control unit or a permit's store refused, sent again. -/
def resendUnit (s : State) (p : Nat) (r : Refused) : State :=
  match r.kind with
  | .permit va => resendPermit s p r.held va
  | .receive port =>
    if (portHead s p r.gslot port).isSome ∧ (plotAt s p).unit.waiters.any (atPort r.gslot port) = false then
      takeMessage s p r.gslot port r.held
    else joinWaiters s p r.gslot r.held (.receive port)
  | .reserve cb k => resendSlots s p r.gslot r.held cb k (.reserve cb k)
  | .acquire cb k => resendSlots s p r.gslot r.held cb k (.acquire cb k)
  | .copyReserve cb _ =>
    let b := bufferAt s p r.gslot cb
    let n := (cpycbOperands s p r.held).2
    let k := if b.slotBytes = 0 then 0 else (n + b.slotBytes - 1) / b.slotBytes
    resendSlots s p r.gslot r.held cb k (.copyReserve cb k)
  | .copyPlace _ _ _ | .frame _ | .post => s

/-- A refused access may be sent again: its context runs, or is being stopped and waits for it. A refused `lds` is then withdrawn
instead (R217). -/
def mayResend (s : State) (a : Access) : Bool :=
  (ctxAt s a.block.ctx).phase == .running || ((ctxAt s a.block.ctx).phase == .preempting && a.op != .lds)

/-- Refused access number `n` of plot `p` (`m` = 0), or refused request `n` of its control unit (`m` = 1), is sent
again. -/
def execWaiterRefusalRetry (s : State) : Result :=
  match s.cur with
  | .at p n m _ =>
    let s := { s with cur := .idle }
    if m = 0 then
      match accessAt s p n with
      | some a => if mayResend s a then .next (resendRefused s p a) else .next s
      | none => .next s
    else
      match (plotAt s p).unit.refused[n]? with
      | some r =>
        if slotRuns s p r.gslot ∧ (r.atUnit = true → rankOpen s p (arrivalRank s p p r.held) = true) then
          let s := modUnit s p (fun u => { u with refused := u.refused.eraseIdx n })
          .next (resendUnit (if r.atUnit then rankTaken s p (arrivalRank s p p r.held) else s) p r)
        else .next s
      | none => .next s
  | _ => .next s

end Sys2Proof.Machine
end

