-- ==== Sys2Proof/Machine/Kernel.lean ====
section
/-! DEFINITION. Kernel records, the ready queue, placement and retirement of groups, completion, and `sow`, `kdep` and
`kdec` (14_group.md R336 to R343, 17_kernel.md). A kernel record stands in memory, where the device alone changes it. -/
namespace Sys2Proof.Machine

/-! ### The STATE word of a context record (R406, R407) -/

/-- The number of a context's state. -/
def ctxCode : CtxPhase → Nat
  | .free => 0
  | .loaded => 1
  | .runnable => 2
  | .running => 3
  | .preempting => 4
  | .saved => 5
  | .frozen => 6
  | .dead => 7

/-- The address of a context's record. -/
def ctxRecord (s : State) (c : BitVec 12) : Nat := s.dev.ctxtbl.toNat + 256 * c.toNat

/-- The STATE word (R407). -/
def stateWord (x : Ctx) : Word :=
  BitVec.ofNat 64 (ctxCode x.phase + (x.slot.getD 0) * 8 + natOfBool x.slot.isSome * 2 ^ 9 + x.lastCmd.toNat * 2 ^ 16 +
    natOfBool x.refused * 2 ^ 20 + x.flags.toNat * 2 ^ 32)

/-- The STATE word of a context written to its record. -/
def writeState (s : State) (c : BitVec 12) : State :=
  modCtx (writeWord s (ctxRecord s c) (stateWord (ctxAt s c))) c (fun x => { x with stateDue := false })

/-- The lowest free hardware slot (R406). -/
def freeSlot (s : State) : Option Nat :=
  (List.range 64).find? (fun n => s.ctxs.all (fun x => x.2.slot != some n))

/-- What a plot counts at the start of a slice (R409, R424). -/
def freshSlice (slc : Word) : PlotCount := PlotCount.mk 0 (slc.setWidth 48) none 0 0

/-- A RUNNABLE context takes a hardware slot and is RUNNING (R409). -/
def startRunning (s : State) (c : BitVec 12) : State :=
  match (ctxAt s c).phase, freeSlot s with
  | .runnable, some n =>
    writeState (modCtx s c (fun x => { x with
      phase := .running, slot := some n, idle := 0, counts := x.counts.map (fun _ => freshSlice x.regs.slc) })) c
  | _, _ => s

/-! ### Fields of a kernel record (R377) -/

/-- A field in word `w` of a record. -/
def recGet (s : State) (pa w lo n : Nat) : Nat := bitsOf (readWord s (pa + 8 * w)).toNat lo n

/-- The state with such a field written. -/
def recSet (s : State) (pa w lo n v : Nat) : State :=
  let old := (readWord s (pa + 8 * w)).toNat
  writeWord s (pa + 8 * w) (BitVec.ofNat 64 (old - bitsOf old lo n * 2 ^ lo + v % 2 ^ n * 2 ^ lo))

def recKobj (s : State) (pa : Nat) : Nat := recGet s pa 0 0 64
def recKidx (s : State) (pa : Nat) : Nat := recGet s pa 1 0 32
def recNgrp (s : State) (pa : Nat) : Nat := recGet s pa 1 32 32
def recArgs (s : State) (pa : Nat) : Nat := recGet s pa 2 0 64
def recCpl (s : State) (pa : Nat) : Nat := recGet s pa 3 0 64
def recParent (s : State) (pa : Nat) : Nat := recGet s pa 4 0 64
def recQ (s : State) (pa : Nat) : Nat := recGet s pa 5 0 10
def recPrio (s : State) (pa : Nat) : Nat := recGet s pa 5 10 2
def recMsi (s : State) (pa : Nat) : Bool := recGet s pa 5 12 1 == 1
def recState (s : State) (pa : Nat) : Nat := recGet s pa 5 13 3
def recDep (s : State) (pa : Nat) : Nat := recGet s pa 5 16 16
def recMark (s : State) (pa : Nat) : Nat := recGet s pa 5 32 32
def recGdone (s : State) (pa : Nat) : Nat := recGet s pa 6 0 32
def recGdisp (s : State) (pa : Nat) : Nat := recGet s pa 6 32 32
def recChild (s : State) (pa : Nat) : Nat := recGet s pa 7 0 32
def recCause (s : State) (pa : Nat) : Nat := recGet s pa 7 32 8
def recCtx (s : State) (pa : Nat) : BitVec 12 := BitVec.ofNat 12 (recGet s pa 7 40 12)
def recSucc (s : State) (pa i : Nat) : Nat := recGet s pa (8 + i) 0 64
def recExit (s : State) (pa : Nat) : Nat := recGet s pa 12 0 32
def recRp (s : State) (pa : Nat) : Nat := recGet s pa 12 32 32

def setRecState (s : State) (pa n : Nat) : State := recSet s pa 5 13 3 n
def setRecDep (s : State) (pa n : Nat) : State := recSet s pa 5 16 16 n
def setRecChild (s : State) (pa n : Nat) : State := recSet s pa 7 0 32 n
def setRecCause (s : State) (pa n : Nat) : State := recSet s pa 7 32 8 n

/-- STATE of a record (R377). -/
def kPending : Nat := 0
def kReady : Nat := 1
def kRunning : Nat := 2
def kDraining : Nat := 3
def kComplete : Nat := 4
def kFaulted : Nat := 5

/-- MARK of a built record, and of the area of a sown packet (R377, R378). -/
def builtMark : Nat := 0x5EED_0001
def sownMark : Nat := 0x5EED_0000

/-! ### The ready queue (R379) -/

/-- The state with a level of the ready queue changed. -/
def modLevel (s : State) (l : Nat) (f : List ReadyEntry → List ReadyEntry) : State :=
  { s with ready := s.ready.modify l f }

/-- A record joins its level (R379, R380). -/
def makeReady (s : State) (pa : Nat) : State :=
  modLevel (setRecState s pa kReady) (recPrio s pa) (fun l => l ++ [ReadyEntry.mk pa (recCtx s pa) none])

/-- One decrement of a record's DEP, with the status of `kdec` (R387). -/
def decrementDep (s : State) (pa : Nat) : State × Nat :=
  if recState s pa ≠ kPending ∨ recDep s pa = 0 then (s, 2)
  else
    let n := recDep s pa - 1
    let s := setRecDep s pa n
    if n = 0 then (makeReady s pa, 1) else (s, 0)

/-! ### Completion (R380 to R382) -/

/-- The message of a queue, where its descriptor enables messages (R375). -/
def queueMessage (s : State) (q : Nat) : State :=
  match s.queues.find? (fun x => x.1 == q) with
  | some (_, x) => if x.msie then { s with msi := s.msi ++ [x.msiv] } else s
  | none => s

/-- The decrements that a completed record makes through its SUCC slots (R381). -/
def releaseSuccessors (s : State) (pa : Nat) : State :=
  (List.range 4).foldl (fun s i => if recSucc s pa i = 0 then s else (decrementDep s (recSucc s pa i)).1) s

/-- The message of a queue that names one (R375). -/
def sendMessage (s : State) : Option Nat → State
  | some q => queueMessage s q
  | none => s

/-- The completion on its way to the parent, with the message that is sent after it; without a parent the message is sent at
once (R381). -/
def tellParent (s : State) (pa : Nat) (faulted : Bool) (message : Option Nat) : State :=
  if recParent s pa = 0 then sendMessage s message
  else { s with childDone := s.childDone ++ [ChildDone.mk (recParent s pa) faulted message] }

/-- The kernel of a record. -/
def kernelOf (s : State) (pa : Nat) : Option KernelRef := s.kernels.find? (fun k => k.pa == pa)

/-- The state with a kernel changed. -/
def modKernel (s : State) (pa : Nat) (f : KernelRef → KernelRef) : State :=
  { s with kernels := s.kernels.map (fun k => if k.pa = pa then f k else k) }

/-- The kernels of the device without one. -/
def dropKernel (s : State) (pa : Nat) : State := { s with kernels := s.kernels.filter (fun k => k.pa != pa) }

/-- The 64 bytes of a completion record (R382). -/
def completionBytes (s : State) (k : KernelRef) (status cause : Nat) : Nat :=
  status + cause * 2 ^ 8 + recQ s k.pa * 2 ^ 16 + recRp s k.pa * 2 ^ 96 + recExit s k.pa * 2 ^ 128 +
    recGdone s k.pa * 2 ^ 160 + k.va.toNat * 2 ^ 192

/-- The completion record written at CPL, as one line (R382): none while the stream to a peer that it goes to has no room. An address
that no longer translates receives nothing (assumption 19). -/
def writeCompletion (s : State) (k : KernelRef) (status cause : Nat) : Option State :=
  let cpl := recCpl s k.pa
  let p := 8 * (recQ s k.pa / 256)
  if cpl = 0 then some s
  else
    match enginePieces s p k.ctx (BitVec.ofNat 64 cpl) 64 .store with
    | .ok (t, l) => if piecesReady t l then some (writePieces (.record k.pa) p k.ctx l t (completionBytes s k status cause)) else none
    | .error _ => some s

/-- What follows a completion record that has been performed at system scope (R381): the decrements, the parent told, the message. -/
def endKernel (s : State) (k : KernelRef) (status : Nat) : State :=
  let ok := status == 1
  let s := if ok then releaseSuccessors (dropFailed s (.record k.pa)) k.pa else dropFailed s (.record k.pa)
  dropKernel (tellParent s k.pa (!ok) (if recMsi s k.pa then some (recQ s k.pa) else none)) k.pa

/-- A record that has finished taken as far as it goes (R381): its completion record is written, and the rest waits until that has been
performed at system scope, at a peer until it is acknowledged (R205). One that a peer has lost is waited for no more (assumption 19). -/
def advanceFinish (s : State) (pa : Nat) : State :=
  let waits := fun (s : State) => (requestsOf s (.record pa)).any (fun q => q.fault.isNone)
  match kernelOf s pa with
  | none => s
  | some k =>
    match k.finish with
    | .open => s
    | .writing status cause =>
      (match writeCompletion s k status cause with
      | some t =>
        if waits t then modKernel t pa (fun x => { x with finish := .written status }) else endKernel t k status
      | none => s)
    | .written status => if waits s then s else endKernel s k status

/-- A record finishes with a status (R381, R382). -/
def finishKernel (s : State) (k : KernelRef) (status cause : Nat) : State :=
  let s := setRecState s k.pa (if status == 1 then kComplete else kFaulted)
  let s := { s with ready := s.ready.map (fun l => l.filter (fun e => e.record != k.pa || e.group.isSome)) }
  advanceFinish (modKernel s k.pa (fun x => { x with finish := .writing status cause })) k.pa

/-- The kernel of a record that has not finished. -/
def openKernel (s : State) (pa : Nat) : Option KernelRef := (kernelOf s pa).filter (fun k => k.finish == .open)

/-- The completion check (R381). Completion is a release at system scope (R383): it waits for what its groups' accesses have still
to be performed for. -/
def checkKernel (s : State) (pa : Nat) : State :=
  match openKernel s pa with
  | none => s
  | some k =>
    if recGdone s pa = recNgrp s pa then
      if 0 < recChild s pa then setRecState s pa kDraining
      else if !k.acks.isEmpty || !k.lines.isEmpty then modKernel s pa (fun k => { k with due := true })
      else finishKernel s k (if recCause s pa ≠ 0 then 2 else if k.childFaulted then 3 else 1) (recCause s pa)
    else s

/-- Completion `n` on its way reaches its parent (R380, R381). -/
def execChildCompletion (s : State) : Result :=
  match s.cur with
  | .at _ n _ _ =>
    let s := { s with cur := .idle }
    match s.childDone[n]? with
    | some x =>
      let s := { s with childDone := s.childDone.eraseIdx n }
      match openKernel s x.parent with
      | some k =>
        let s := setRecChild s k.pa (recChild s k.pa - 1)
        let s := sendMessage { s with kernels := s.kernels.map (fun y =>
          if y.pa = k.pa then { y with childFaulted := y.childFaulted || x.faulted } else y) } x.message
        .next (if recState s k.pa = kDraining then checkKernel s k.pa else s)
      | none => .next (sendMessage s x.message)
    | none => .next s
  | _ => .next s

/-- The records whose groups have met a double fault are FAULTED, and their completion records written, at once: in the step
that met it (R380, R429). -/
def settleDoubled (s : State) : State :=
  s.doubled.foldl (fun s pa =>
    match openKernel s pa with
    | some k => finishKernel (setRecCause s pa 0x7F) k 4 0x7F
    | none => s) { s with doubled := [] }

/-- Kernels whose completion is due and waits for nothing any more complete (R383), and those that finish go on (R381). -/
def settleKernels (s : State) : State :=
  let s := (s.kernels.filter (fun k => k.due && k.acks.isEmpty && k.lines.isEmpty)).foldl (fun s k =>
    checkKernel (modKernel s k.pa (fun k => { k with due := false })) k.pa) s
  (s.kernels.filter (fun k => k.finish != .open)).foldl (fun s k => advanceFinish s k.pa) s

/-! ### Kernel table entries (R389, R391) -/

/-- What placement needs of a kernel (R80, R391), with the handler block of its object. -/
structure KernelInfo where
  entry : BitVec 32
  threads : Nat
  plotstore : Nat
  bufs : List (Nat × Nat)
  bars : List Nat
  hbid : BitVec 32
  deriving DecidableEq, Repr

/-- Kernel `kidx` of the load image at `kobj`, as a device engine reads it; none where the image names no such
kernel. -/
def kernelInfo (s : State) (p : Nat) (c : BitVec 12) (kobj : Word) (kidx : Nat) : Except FaultInfo (State × Option KernelInfo) := do
  let (s, h) ← virtualRead s p c .userLoad kobj 64
  if bitsOf h 0 32 ≠ 0x5A4B4F31 ∨ bitsOf h 112 16 ≤ kidx then .ok (s, none)
  else
    let (s, k) ← virtualRead s p c .userLoad (kobj + BitVec.ofNat 64 (bitsOf h 224 32 + 128 * kidx)) 128
    let buf := fun n =>
      let w := bitsOf k (8 * (16 + 4 * n)) 32
      (bitsOf w 0 9, if bitsOf w 0 9 = 0 then 0 else 16 * (bitsOf w 9 12 + 1))
    .ok (s, some (KernelInfo.mk (BitVec.ofNat 32 (bitsOf k 0 32)) (bitsOf k 32 16) (bitsOf k 64 32)
      ((List.range 16).map buf) ((List.range 16).map (fun n => bitsOf k (8 * (80 + 2 * n)) 11))
      (BitVec.ofNat 32 (bitsOf h 320 32))))

/-- The walks for a kernel of a load image, up to one that faults. -/
def kernelWalk (s : State) (p : Nat) (c : BitVec 12) (kobj : Word) (kidx : Nat) : State :=
  match virtualRead s p c .userLoad kobj 64 with
  | .error _ => walked s p c .userLoad (pagesOf kobj 64)
  | .ok (s, h) =>
    if bitsOf h 0 32 ≠ 0x5A4B4F31 ∨ bitsOf h 112 16 ≤ kidx then s
    else walked s p c .userLoad (pagesOf (kobj + BitVec.ofNat 64 (bitsOf h 224 32 + 128 * kidx)) 128)

/-- The addresses that a device engine reads of a kernel of a load image: its header, and the kernel's entry where the header gives it. -/
def kernelPages (s : State) (p : Nat) (c : BitVec 12) (kobj : Word) (kidx : Nat) : List Word :=
  pagesOf kobj 64 ++ (match virtualRead s p c .userLoad kobj 64 with
    | .ok (_, h) =>
      if bitsOf h 0 32 ≠ 0x5A4B4F31 ∨ bitsOf h 112 16 ≤ kidx then [] else pagesOf (kobj + BitVec.ofNat 64 (bitsOf h 224 32 + 128 * kidx)) 128
    | .error _ => [])

/-- The declared buffers, each at a multiple of 64 bytes of the region, in ascending n (R270). -/
def placeBuffers : Nat → List (Nat × Nat) → List CircBuf
  | _, [] => []
  | o, (n, b) :: l =>
    let o := (o + 63) / 64 * 64
    if n = 0 then CircBuf.undeclared :: placeBuffers o l else cbFresh (CbShape.mk o n b) o n b :: placeBuffers (o + n * b) l

/-! ### Placement (R337, R339, R379) -/

/-- The plots that may take a context's groups: those that DEVID.PLOTS names, or the headlands for the headland context
(R173, R337). -/
def groupPlots (s : State) (c : BitVec 12) : List Nat :=
  if c = headland then [32, 33, 34, 35] else (List.range 32).filter (fun p => s.dev.plots.getLsbD p)

/-- The lowest free group slot of a plot. -/
def freeGroup (s : State) (p : Nat) : Option Nat := (plotAt s p).unit.groups.findIdx? (fun o => o.isNone)

/-- Groups on a plot. -/
def residentGroups (s : State) (p : Nat) : Nat := (plotAt s p).unit.groups.countP (fun o => o.isSome)

/-- The plot for a group whose region has `n` blocks (R337). -/
def choosePlot (s : State) (c : BitVec 12) (n : Nat) : Option Nat :=
  ((groupPlots s c).filter (fun p => (freeGroup s p).isSome && (lowestRun s p n).isSome)).foldl (fun m p => match m with
    | none => some p
    | some b => if residentGroups s p < residentGroups s b then some p else some b) none

/-- A context whose groups may be placed: RUNNING, or RUNNABLE with a hardware slot free (R379, R409). -/
def ctxPlaceable (s : State) (c : BitVec 12) : Bool :=
  match (ctxAt s c).phase with
  | .running => true
  | .runnable => (freeSlot s).isSome
  | _ => false

/-- Where the head group of an entry goes. -/
structure Placing where
  entry : ReadyEntry
  info : KernelInfo
  plot : Nat
  slot : Nat
  first : Nat
  blocks : Nat
  deriving DecidableEq, Repr

/-- The head of a level that can be placed (R379): the first record of a context that may run, if a plot takes it. -/
def placeable (s : State) (l : Nat) : Option Placing :=
  match ((s.ready.getD l []).find? (fun e => ctxPlaceable s e.ctx)) with
  | none => none
  | some e =>
    match kernelInfo s 0 e.ctx (BitVec.ofNat 64 (recKobj s e.record)) (recKidx s e.record) with
    | .ok (_, some i) =>
      let n := (i.plotstore + 1023) / 1024
      (choosePlot s e.ctx n).bind (fun p =>
        (freeGroup s p).bind (fun g => (lowestRun s p n).map (fun b => Placing.mk e i p g b n)))
    | _ => none

/-- The level of a turn (R379). -/
def turnLevel (n : Nat) : Nat := if n ≤ 7 then 3 else if n ≤ 11 then 2 else if n ≤ 13 then 1 else 0

/-- The placement that this turn makes. -/
def nextPlacing (s : State) : Option Placing :=
  placeable s (turnLevel s.turn) <|> placeable s 3 <|> placeable s 2 <|> placeable s 1 <|> placeable s 0

/-- The group of a placement (R336, R338, R339). -/
def newGroup (s : State) (x : Placing) (number : Nat) : Group :=
  let pa := x.entry.record
  { ctx := x.entry.ctx
    obj := BitVec.ofNat 64 (recKobj s pa)
    hbid := x.info.hbid
    record := pa
    number := BitVec.ofNat 32 number
    count := BitVec.ofNat 32 (recNgrp s pa)
    priority := recPrio s pa
    threads := x.info.threads
    entry := x.info.entry
    argVa := BitVec.ofNat 64 (recArgs s pa)
    phase := .placed
    wasStopped := false
    regionFirst := x.first
    regionBlocks := x.blocks
    prepared := true
    nextThread := 0
    exitCode := 0
    seq := (plotAt s x.plot).unit.seqs.getD x.slot 0 + 1
    causes := List.replicate 4 CauseSlot.empty
    buffers := placeBuffers 0 x.info.bufs
    barriers := x.info.bars.map (fun n => Barrier.mk n n false 0 0)
    ports := List.replicate 4 []
    portSpill := List.replicate 4 []
    frames := []
    killCause := 0 }

/-- The record of a placed group (R379, R380): RUNNING, its count raised, and off its level with its last group. -/
def countPlaced (s : State) (e : ReadyEntry) : State :=
  let l := recPrio s e.record
  let s := if recState s e.record = kReady then setRecState s e.record kRunning else s
  match e.group with
  | some _ => modLevel s l (fun x => x.erase e)
  | none =>
    let n := recGdisp s e.record + 1
    let s := recSet s e.record 6 32 32 n
    if n = recNgrp s e.record then modLevel s l (fun x => x.erase e) else s

/-- Steps 1 and 2 of R339: the group in its slot, its region zero and full. -/
def placeGroup (s : State) (x : Placing) : State :=
  let number := match x.entry.group with
    | some n => n.toNat
    | none => recGdisp s x.entry.record
  let g := newGroup s x number
  let s := startRunning s x.entry.ctx
  let s := countPlaced { s with turn := (s.turn + 1) % 15 } x.entry
  let s := modUnit s x.plot (fun u => { u with groups := u.groups.set x.slot (some g), seqs := u.seqs.set x.slot g.seq })
  let s := modPlot s x.plot (fun y => { y with
    waves := y.waves.filter (fun w => w.gslot.toNat != x.slot), lost := y.lost.filter (fun w => w.2.1.toNat != x.slot) })
  fullStore s (storeAddr x.plot (x.first * 1024)) (x.blocks * 1024) 0

/-- One queued group is placed, if one can be. -/
def execGroupPlacement (s : State) : Result :=
  match s.cur with
  | .at _ _ _ _ =>
    let s := { s with cur := .idle }
    match nextPlacing s with
    | some x => .next (placeGroup s x)
    | none => .next s
  | _ => .next s

/-- The dispatch token of a thread (R339). -/
def dispatchToken (g : BitVec 3) (x : Group) : Token :=
  Token.mk (Envelope.mk 0 (BitVec.ofNat 10 x.nextThread) g 0 []) (word64Packet x.argVa)

/-- The next dispatch token of group slot `n` of plot `p` is sent; after the last the group is RUNNING (R339). -/
def execDispatchToken (s : State) : Result :=
  match s.cur with
  | .at p n _ _ =>
    let s := { s with cur := .idle }
    let g := BitVec.ofNat 3 n
    match groupAt s p g with
    | some x =>
      if x.phase = .placed ∧ (ctxAt s x.ctx).phase = .running then
        let s := sendEntry s .dispatch p (BlockId.mk x.ctx x.obj x.entry) 0 0 (dispatchToken g x)
        let last := x.threads ≤ x.nextThread + 1
        let s := modGroup s p g (fun y => { y with
          nextThread := y.nextThread + 1, phase := if last then .running else y.phase })
        .next (if last then countEvent s p 0x1C (some x.ctx) 1 else s)
      else .next s
    | none => .next s
  | _ => .next s

/-! ### Liveness and retirement (R341, R342) -/

/-- Group slot `n` of plot `p` is quiescent (R342). -/
def execQuiescence (s : State) : Result :=
  match s.cur with
  | .at p n _ _ =>
    let s := { s with cur := .idle }
    let g := BitVec.ofNat 3 n
    match groupAt s p g with
    | some x =>
      if x.phase = .running ∧ groupLive s p g x = false then .next (modGroup s p g (fun y => { y with phase := .retiring }))
      else .next s
    | none => .next s
  | _ => .next s

/-- A request of an engine for a group slot of a plot. -/
def groupEng (p : Nat) (g : BitVec 3) (q : EngReq) : Bool :=
  q.plot == p && q.gslot == g && (match q.owner with
    | .copy _ _ | .drain _ _ | .gather _ _ => true
    | .record _ | .unit | .host | .peer _ _ _ => false)

/-- A retiring group's accesses have been performed at device scope, and its rows are written. -/
def mayRetire (s : State) (p : Nat) (g : BitVec 3) (x : Group) : Bool :=
  let y := plotAt s p
  x.phase == .retiring && y.accesses.all (fun a => setSlot a.set != g || !accessLive a) &&
    y.tiles.all (fun t => t.2.array.all (fun r => r.row.env.gslot != g)) && s.engReqs.all (fun q => !groupEng p g q || q.done) &&
    s.flights.all (fun f => !(f.dest.plot == p && ofGroup g f.tok))

/-- A tile with the accumulators of a group slot EMPTY (R317). -/
def freeAccs (g : BitVec 3) (t : Tile) : Tile :=
  { t with accs := t.accs.filter (fun a => !(a.2.gslot == g && a.2.st != .empty && a.2.st != .drained)) }

/-- The resources of a group freed (R317, R340). -/
def freeGroupState (g : BitVec 3) (x : Plot) : Plot :=
  { x with
    unit := { x.unit with
      groups := x.unit.groups.set g.toNat none
      channels := x.unit.channels.filter (fun k => k.gslot != g)
      signals := x.unit.signals.filter (fun k => k.gslot != g) }
    turns := x.turns.filter (fun t => t.gslot != g)
    accesses := x.accesses.filter (fun a => setSlot a.set != g)
    waves := x.waves.filter (fun w => w.gslot != g)
    lost := x.lost.filter (fun w => w.2.1 != g)
    tiles := x.tiles.map (fun t => (t.1, freeAccs g t.2))
    savedTiles := x.savedTiles.map (fun t => { t with tile := freeAccs g t.tile }) }

/-- The stores of a group to peers that have not been acknowledged (R205, R260). -/
def unackedStores (s : State) (p : Nat) (g : BitVec 3) : List (Nat × Nat × BitVec 32) :=
  let mine := fun (r : ReqRef) => match r with
    | .part x => x.plot == p && (accessAt s p x.id).any (fun a => setSlot a.set == g)
    | .eng id => (engAt s id).any (groupEng p g)
  s.streams.flatMap (fun x => (x.out.filter (fun o => o.store && mine o.ref)).map (fun o => (x.peer, x.port, o.seq)))

/-- The lines of an access that have still to be performed at system scope (R257). -/
def heldLines (a : Access) : List Nat :=
  (a.parts.filter (fun x => x.state == .done && !x.sys && rangeOf (x.pa.getD 0) == .hbm)).map (fun x => x.pa.getD 0 / 64)

/-- The lines whose host copies a group's stores have still to see back-invalidated (R257). -/
def hostHeldLines (s : State) (p : Nat) (g : BitVec 3) : List Nat :=
  let l1 := ((plotAt s p).accesses.filter (fun a => setSlot a.set == g)).flatMap heldLines
  let l2 := (s.engReqs.filter (fun q => groupEng p g q && q.done && !q.sys && rangeOf q.pa == .hbm)).map (fun q => q.pa / 64)
  (l1 ++ l2).eraseDups

/-- What a retiring group leaves to be performed at system scope goes to its kernel (R383). -/
def handStores (s : State) (p : Nat) (g : BitVec 3) (pa : Nat) : State :=
  modKernel s pa (fun k => { k with
    acks := k.acks ++ unackedStores s p g, lines := (k.lines ++ hostHeldLines s p g).eraseDups })

/-- A store that its peer has answered, or that is lost, is one that no kernel waits for any more. -/
def ackKernels (s : State) (peer port : Nat) (seq : BitVec 32) : State :=
  { s with kernels := s.kernels.map (fun k => { k with acks := k.acks.erase (peer, port, seq) }) }

/-- The kernel record of a retired group (R380). -/
def countRetired (s : State) (x : Group) : State :=
  let pa := x.record
  if recState s pa = kRunning ∧ (openKernel s pa).isSome = true then
    let s := recSet s pa 6 0 32 (recGdone s pa + 1)
    let s := recSet s pa 12 0 32 ((BitVec.ofNat 32 (recExit s pa) ||| x.exitCode).toNat)
    let s := if x.killCause ≠ 0 ∧ recCause s pa = 0 then
        let s := setRecCause s pa x.killCause.toNat
        let s := recSet s pa 1 32 32 (recGdisp s pa)
        { s with ready := s.ready.map (fun l => l.filter (fun e => e.record != pa || e.group.isSome)) }
      else s
    checkKernel s pa
  else s

/-- A group retires (R342, R344). -/
def retireGroup (s : State) (p : Nat) (g : BitVec 3) (x : Group) : State :=
  let held := ((x.ports ++ x.portSpill).map List.length).sum
  let s := if held = 0 then s else countEvent s p 0x1B (some x.ctx) held
  let s := countEvent s p 0x1D (some x.ctx) 1
  let s := handStores s p g x.record
  let s := { s with engReqs := s.engReqs.filter (fun q => !(groupEng p g q && q.fault.isSome)) }
  let s := dropObject (modPlot s p (freeGroupState g)) p x.ctx x.obj
  kickUnit (countRetired s x) p

/-- Group slot `n` of plot `p` retires. -/
def execGroupRetired (s : State) : Result :=
  match s.cur with
  | .at p n _ _ =>
    let s := { s with cur := .idle }
    let g := BitVec.ofNat 3 n
    match groupAt s p g with
    | some x => if mayRetire s p g x then .next (retireGroup (dropOrphans s) p g x) else .next s
    | none => .next s
  | _ => .next s

/-! ### sow, kdep and kdec (R384 to R387) -/

/-- An operand that names a record or a slot: a 64-bit tag, aligned, on a page that allows stores and maps HBM
(R384). -/
def recordAddress (c : FireCtx) (s : State) (va : Word) (k : Nat) : Except FaultInfo (State × Nat) := do
  if va.toNat % k ≠ 0 then .error (faultAt causeAlign 0 va)
  else
    let (s, pa, l) ← stationTranslate s c.plot c.block c.slot va .store
    if rangeOf pa = .hbm then .ok (s, pa) else .error (faultAt causeTrAttr (leafLevel l) va)

/-- Uncorrectable data of a record or slot that is read (R216, R384). -/
def recordSound (s : State) (va : Word) (pa n : Nat) : Except FaultInfo Unit :=
  if s.mem.bad pa n then .error (faultAt causeMemUncorrectable 0 va) else .ok ()

/-- An operand's VA (R384). -/
def recordOperand (c : FireCtx) (p : Nat) : Except FaultInfo Word := do
  require (wideTag (packetAt c p).fmt) causeFormat
  .ok (packetSlot true (c.fresh + 8 * p) (packetAt c p) 0)

/-- A built record named by an operand (R384). -/
def namedRecord (c : FireCtx) (s : State) (va : Word) : Except FaultInfo (State × Nat) := do
  let (s, pa) ← recordAddress c s va 128
  recordSound s va pa 128
  require (recMark s pa == builtMark) causeFormat
  .ok (s, pa)

/-- The walk for a record's or slot's address, which stands though the firing faults after it (R452). -/
def recordWalk (c : FireCtx) (s : State) (va : Word) (k : Nat) : State :=
  if va.toNat % k = 0 then walked s c.plot c.block.ctx .store [va] else s

/-- The packet that a `sow` writes, word by word (R385). -/
def sownWord (c : FireCtx) (i : Nat) : Word := packetSlot true (c.fresh + 8) (packetAt c 1) i

/-- The slot that a `sow` names, its operands checked (R384, R385). -/
def sowSlot (c : FireCtx) : Except FaultInfo Word := do
  let slot ← recordOperand c 0
  require (wideTag (packetAt c 1).fmt) causeFormat
  require (lenAt c 1 == 8) causePacketLength
  require ((sownWord c 0).extractLsb' 0 8 == 0x01) causeFormat
  if (sownWord c 4).toNat % 128 ≠ 0 then .error (faultAt causeAlign 0 (sownWord c 4)) else .ok slot

/-- The record of a group's kernel is no longer one that takes a child (R380). -/
def recordEnded (s : State) (pa : Nat) : Bool := recState s pa == kComplete || recState s pa == kFaulted

/-- The word of the parent's record that a `sow` reads and rewrites, which holds CHILD, is found correctable (R384, R385). -/
def parentSound (s : State) (pa : Nat) : Except FaultInfo Unit :=
  if recordEnded s pa then .ok ()
  else recordSound s (((kernelOf s pa).map (fun k => k.va)).getD (BitVec.ofNat 64 pa) + 56) (pa + 56) 8

/-- The state with the CHILD of a record raised (R380, R385). -/
def addChild (s : State) (pa : Nat) : State := if recordEnded s pa then s else setRecChild s pa (recChild s pa + 1)

/-- The packet of a `sow` as one number. -/
def sownPacket (c : FireCtx) : Nat := (List.range 8).foldl (fun t i => t + (sownWord c i).toNat * 2 ^ (64 * i)) 0

/-- `sow` (R385). -/
def sowResult (c : FireCtx) (s : State) : Except FaultInfo (State × List Send) := do
  let slot ← sowSlot c
  let (s, pa) ← recordAddress c s slot 64
  let (s, rec_) ← recordAddress c s (sownWord c 4) 128
  recordSound s slot pa 8
  if readWord s pa ≠ 0 then .ok (s, emit c (statusPacket 1))
  else
    match groupAt s c.plot c.env.gslot with
    | none => .ok (s, [])
    | some g => do
      parentSound s g.record
      let s := addChild s g.record
      let s := writeWords s (rec_ + 32) [BitVec.ofNat 64 g.record, BitVec.ofNat 64 (sownMark * 2 ^ 32)]
      .ok (engineWrite s pa 64 (sownPacket c), emit c (statusPacket 0))

/-- The walks of a `sow` that faults. -/
def sowWalk (c : FireCtx) (_ : FaultInfo) (s : State) : State :=
  match sowSlot c with
  | .ok slot =>
    (match recordAddress c s slot 64 with
    | .ok (t, _) => recordWalk c t (sownWord c 4) 128
    | .error _ => recordWalk c s slot 64)
  | .error _ => s

def execSow (h : Head) (s : State) : Result := throughPort s (fireWalks h sowWalk (fun c _ s => sowResult c s) s)

/-- `kdep` (R386). -/
def kdepResult (c : FireCtx) (s : State) : Except FaultInfo (State × List Send) := do
  let a ← recordOperand c 0
  let b ← recordOperand c 1
  let (s, pred) ← namedRecord c s a
  let (s, succ) ← namedRecord c s b
  if recState s pred = kComplete ∨ recState s pred = kFaulted then .ok (s, emit c (statusPacket 1))
  else
    match (List.range 4).find? (fun i => recSucc s pred i == 0) with
    | none => .ok (s, emit c (statusPacket 2))
    | some i =>
      if recState s succ ≠ kPending ∨ recDep s succ = 65535 then .ok (s, emit c (statusPacket 3))
      else
        let s := setRecDep s succ (recDep s succ + 1)
        .ok (writeWord s (pred + 8 * (8 + i)) (BitVec.ofNat 64 succ), emit c (statusPacket 0))

/-- The walks of a `kdep` that faults: for its second record where the first is sound. -/
def kdepWalk (c : FireCtx) (_ : FaultInfo) (s : State) : State :=
  match recordOperand c 0, recordOperand c 1 with
  | .ok a, .ok b =>
    (match namedRecord c s a with
    | .ok (t, _) => recordWalk c t b 128
    | .error _ => recordWalk c s a 128)
  | _, _ => s

def execKdep (h : Head) (s : State) : Result := throughPort s (fireWalks h kdepWalk (fun c _ s => kdepResult c s) s)

/-- `kdec` (R387). -/
def kdecResult (c : FireCtx) (s : State) : Except FaultInfo (State × List Send) := do
  let a ← recordOperand c 0
  let (s, pa) ← namedRecord c s a
  let (s, n) := decrementDep s pa
  .ok (s, emit c (statusPacket n))

/-- The walk of a `kdec` that faults. -/
def kdecWalk (c : FireCtx) (_ : FaultInfo) (s : State) : State :=
  match recordOperand c 0 with
  | .ok a => recordWalk c s a 128
  | .error _ => s

/-- The addresses that an instruction of a memory-class station which is no access has translated as it fires (R450, R454), so far as its
operands are sound. -/
def recordPages (c : FireCtx) (i : Instr) : List (Need × Word) :=
  let at_ := fun (k : Nat) (va : Word) => if va.toNat % k = 0 then [(Need.store, va)] else []
  let named := fun (p : Nat) => match recordOperand c p with
    | .ok a => at_ 128 a
    | .error _ => []
  match i with
  | .pmini _ | .pment _ | .pmex _ =>
    (match natOperand c 0 0 with
    | .ok a => at_ 16 (BitVec.ofNat 64 a)
    | .error _ => [])
  | .sow _ =>
    (match sowSlot c with
    | .ok slot => at_ 64 slot ++ at_ 128 (sownWord c 4)
    | .error _ => [])
  | .kdep _ => named 0 ++ named 1
  | .kdec _ => named 0
  | _ => []

def execKdec (h : Head) (s : State) : Result := throughPort s (fireWalks h kdecWalk (fun c _ s => kdecResult c s) s)

end Sys2Proof.Machine
end

