-- ==== Sys2Proof/Machine/Queues.lean ====
section
/-! DEFINITION. Queues and their engines (16_queue.md). Queue q is served by the engine of die q >> 8, which translates
through the walker of that die's headland. -/
namespace Sys2Proof.Machine

/-! ### Queues and descriptors (R362 to R364) -/

/-- A queue that no command has touched. -/
def Queue.blank : Queue where
  phase := .disabled
  err := 0
  rp := 0
  ctx := 0
  logn := 4
  base := 0
  msie := false
  msiv := 0
  due := none
  header := 0
  watch := none
  hit := false
  interval := 100
  expiry := 0
  stopping := false

/-- A queue, and the state with one written. -/
def queueAt (s : State) (q : Nat) : Queue := lookupD Queue.blank q s.queues
def setQueue (s : State) (q : Nat) (x : Queue) : State := { s with queues := assocSet q x s.queues }

/-- The die of a queue's engine (R362), and the plot whose walker it translates through (R454). -/
def queueDie (q : Nat) : Nat := q / 256 % 4
def queuePlot (q : Nat) : Nat := 8 * queueDie q

/-- The address of a queue's descriptor (R363). -/
def descAddr (s : State) (q : Nat) : Nat := (s.qtbase.getD (queueDie q) 0).toNat + q % 256 * 64

/-- The number of a queue's state (R364). -/
def queueCode : QueuePhase → Nat
  | .disabled => 0
  | .idle => 1
  | .armed => 2
  | .fetching => 3
  | .error => 4

/-- STATE, RP and ERR written to the descriptor (R364). -/
def writeDesc (s : State) (q : Nat) : State :=
  let a := descAddr s q
  let x := queueAt s q
  let w2 := readWord s (a + 16)
  let w3 := readWord s (a + 24)
  let s := writeWord s (a + 16) ((w2 &&& 0xFFFF_FFFF_0000_0000) ||| x.rp.setWidth 64)
  writeWord s (a + 24) ((w3 &&& ~~~0xFF07) ||| BitVec.ofNat 64 (queueCode x.phase + x.err.toNat * 256))

/-- The state with a queue in a state of R372, written to its descriptor. -/
def putQueue (s : State) (q : Nat) (x : Queue) : State := writeDesc (setQueue s q x) q

/-- A queue in ERROR with a code, and its message (R374, R375). -/
def queueError (s : State) (q : Nat) (code : BitVec 8) : State :=
  queueMessage (putQueue s q { queueAt s q with
    phase := .error, err := code, due := none, watch := none, hit := false, stopping := false }) q

/-- A descriptor that ENABLE and CLEAR accept (R364, R365). -/
def descValid (d : Nat) : Bool :=
  bitsOf d 208 304 == 0 && bitsOf d 195 5 == 0 && bitsOf d 160 32 == 0 && bitsOf d 108 20 == 0 && bitsOf d 93 3 == 0 && bitsOf d 76 12 == 0 &&
    bitsOf d 0 6 == 0 && decide (4 ≤ bitsOf d 88 5) && decide (bitsOf d 88 5 ≤ 16)

/-- A queue as its descriptor gives it. -/
def queueOfDesc (d : Nat) : Queue :=
  { Queue.blank with
    rp := BitVec.ofNat 32 (bitsOf d 128 32), ctx := BitVec.ofNat 12 (bitsOf d 96 12), logn := bitsOf d 88 5
    base := BitVec.ofNat 64 (bitsOf d 6 58 * 64), msie := bitsOf d 75 1 == 1, msiv := BitVec.ofNat 11 (bitsOf d 64 11) }

/-- ENABLE and CLEAR read the descriptor anew (R365, R372). -/
def armQueue (s : State) (q : Nat) : State :=
  let d := engineRead s (descAddr s q) 64
  let x := queueOfDesc d
  if descValid d then putQueue s q { x with phase := .armed, due := some s.cycles } else queueError (setQueue s q x) q 0x02

def enableQueue (s : State) (q : Nat) : State := if (queueAt s q).phase = .disabled then armQueue s q else s
def clearQueue (s : State) (q : Nat) : State := if (queueAt s q).phase = .error then armQueue s q else s

/-- DISABLE (R372). -/
def disableQueue (s : State) (q : Nat) : State :=
  let x := queueAt s q
  match x.phase with
  | .disabled => s
  | .fetching => setQueue s q { x with stopping := true }
  | .idle | .armed | .error => putQueue s q { x with phase := .disabled, due := none, watch := none, hit := false }

/-- A write to QCMD of a die (R365). -/
def writeQcmd (s : State) (die : Nat) (v : Word) : State :=
  let q := (v.extractLsb' 0 10).toNat
  if queueDie q ≠ die then s
  else if v.extractLsb' 16 2 = 1 then enableQueue s q
  else if v.extractLsb' 16 2 = 2 then disableQueue s q
  else if v.extractLsb' 16 2 = 3 then clearQueue s q
  else s

/-- The word of QCMD for an operation on a queue (R365). -/
def qcmdWord (op q : Nat) : Word := BitVec.ofNat 64 (op * 2 ^ 16 + q % 1024)

/-- The QCMD of die `p` is written with an operation that names queue `n`. -/
def qcmdEvent (op : Nat) (s : State) : Result :=
  match s.cur with
  | .at p n _ _ => .next (writeQcmd { s with cur := .idle } (p % 4) (qcmdWord op n))
  | _ => .next s

def execEnable (s : State) : Result := qcmdEvent 1 s
def execDisable (s : State) : Result := qcmdEvent 2 s
def execClear (s : State) : Result := qcmdEvent 3 s

/-! ### Waking (R370, R371) -/

/-- An ARMED queue wakes: a read of its header is due. -/
def Queue.wake (now : Nat) (x : Queue) : Queue := { x with due := x.due.or (some now) }

/-- A kick wakes an ARMED queue, and its back-off starts again. -/
def kickQueue (s : State) (q : Nat) : State :=
  let x := queueAt s q
  if x.phase = .armed then setQueue s q { x.wake s.cycles with interval := 100 } else s

/-- A watch that a store to its line, or a snoop that takes it, has woken. -/
def watchQueue (s : State) (q : Nat) : State :=
  let x := queueAt s q
  if x.phase = .armed ∧ x.hit = true then setQueue s q { x.wake s.cycles with hit := false } else s

/-- A back-off interval that has ended on its die's timer. -/
def backoffQueue (s : State) (q : Nat) : State :=
  let x := queueAt s q
  if x.phase = .armed ∧ x.expiry ≤ s.timers.getD (queueDie q) 0 then setQueue s q (x.wake s.cycles) else s

def execKick (s : State) : Result :=
  match s.cur with
  | .at _ n _ _ => .next (kickQueue { s with cur := .idle } (n % 1024))
  | _ => .next s
def execWatchWake (s : State) : Result :=
  match s.cur with
  | .at _ n _ _ => .next (watchQueue { s with cur := .idle } (n % 1024))
  | _ => .next s

/-- The back-off interval of queue `n` ends: the header is to be read again. -/
def execBackoffExpiry (s : State) : Result :=
  match s.cur with
  | .at _ n _ _ => .next (backoffQueue { s with cur := .idle } (n % 1024))
  | _ => .next s

/-- An IDLE queue goes on to its next slot: it is ARMED, and its header is to be read (R369, R372). -/
def nextSlot (s : State) (q : Nat) : State :=
  let x := queueAt s q
  if x.phase = .idle then putQueue s q { x with phase := .armed, due := some s.cycles } else s

/-! ### Reading and consuming (R369) -/

/-- The address of the slot at RP (R362). -/
def slotAddress (x : Queue) : Word := x.base + BitVec.ofNat 64 (x.rp.toNat % 2 ^ x.logn * 64)

/-- Bytes of the ring as the engine reads them: the fault code where they cannot be read (R374). -/
def readRing (s : State) (q : Nat) (x : Queue) (o n : Nat) : Except (BitVec 8) (State × Nat) :=
  let va := slotAddress x + BitVec.ofNat 64 o
  match virtualRead s (queuePlot q) x.ctx .userLoad va n with
  | .error e => .error e.cause
  | .ok (s', v) =>
    match engineTranslate s' (queuePlot q) x.ctx va .userLoad with
    | .ok (s', pa, _) => if s'.mem.bad pa n then .error 0x40 else .ok (s', v)
    | .error e => .error e.cause

/-- The walks for bytes of the ring, up to one that faults. -/
def ringWalk (s : State) (q : Nat) (x : Queue) (o n : Nat) : State :=
  walked s (queuePlot q) x.ctx .userLoad (pagesOf (slotAddress x + BitVec.ofNat 64 o) n)

/-- The line that holds the slot at RP, which an ARMED engine watches (R370); none where it does not translate. -/
def slotLine (s : State) (q : Nat) (x : Queue) : Option Nat :=
  match engineTranslate s (queuePlot q) x.ctx (slotAddress x) .userLoad with
  | .ok (_, pa, _) => some (pa / 64)
  | .error _ => none

/-- The packet that a replay gives next to a queue: none where no replay runs, and `some none` where its next entry
stands in another queue's turn (R376, R438). -/
def replayPacket (s : State) (q : Nat) (x : Queue) : Option (Option RecEntry) :=
  if (ctxAt s x.ctx).recMode = .replay ∧ (unserved s x.ctx).isEmpty = false then
    some ((unserved s x.ctx).find? (fun e => e.kind == recQueue && e.addr == q))
  else none

/-- The engine may read the queues of a context (R372, R376). -/
def queueReads (s : State) (c : BitVec 12) : Bool := (ctxAt s c).phase == .runnable || (ctxAt s c).phase == .running

/-- Queues of a die in FETCHING (R373). -/
def fetchingOn (s : State) (die : Nat) : Nat := s.queues.countP (fun x => queueDie x.1 == die && x.2.phase == .fetching)

/-- A header word that the engine has read (R369, R370): an empty slot re-arms the watch and the back-off. -/
def takeHeader (s : State) (q : Nat) (x : Queue) (line : Option Nat) (h : Word) : State :=
  if h.extractLsb' 0 8 = 0 then
    putQueue s q { x with
      phase := .armed, due := none, watch := line, hit := false
      expiry := s.timers.getD (queueDie q) 0 + x.interval, interval := min 6400 (2 * x.interval) }
  else putQueue s q { x with phase := .fetching, due := none, watch := none, hit := false, header := h }

/-- The engine's next read of a header may be that of a queue: it is due, its context may be read, fewer than four queues are
in FETCHING, and no lower queue of the die that woke in the same plot cycle waits for its read (R372, R373, R376). -/
def headerTurn (s : State) (q : Nat) (x : Queue) : Bool :=
  x.phase == .armed && x.due.isSome && queueReads s x.ctx && decide (fetchingOn s (queueDie q) < 4) &&
    !s.queues.any (fun y => decide (y.1 < q) && queueDie y.1 == queueDie q && y.2.phase == .armed && y.2.due == x.due &&
      queueReads s y.2.ctx)

/-- A queue engine goes on with what it does when the walker of its plot has translated the addresses for it (R454, R455). -/
def queueWalks (s : State) (q : Nat) (c : BitVec 12) (l : List (Need × Word)) (f : State → State) : State :=
  match walkWaits s (queuePlot q) .queue 65537 c l with
  | some s => s
  | none => f (walkMet s (queuePlot q) .queue)

/-- A line of host memory that a queue engine has read stands in L2 with ownership, where it is watched (R261, R370). -/
def keepRingLine (s : State) : Option Nat → State
  | some n => if rangeOf (64 * n) = .host then l2Touch (ownHostLine s (64 * n)) .normal none n else s
  | none => s

/-- A queue engine's read of the header of a queue's next slot, an acquire at system scope: the context's copies of peer lines are
dropped (R259, R369). -/
def readHeader (q : Nat) (x : Queue) (s : State) : State :=
  match readRing s q x 0 8 with
  | .ok (s, h) =>
    let line := slotLine s q x
    takeHeader (keepRingLine (dropPeer s x.ctx (fun _ => true)) line) q x line (BitVec.ofNat 64 h)
  | .error code => queueError (ringWalk s q x 0 8) q code

/-- The header read of queue `n` returns. -/
def execHeaderRead (s : State) : Result :=
  match s.cur with
  | .at _ n _ _ =>
    let s := { s with cur := .idle }
    let x := queueAt s n
    if headerTurn s n x then
      match replayPacket s n x with
      | some (some e) => .next (takeHeader s n x none (e.words.getD 1 0))
      | some none => .next (takeHeader s n x none 0)
      | none => .next (queueWalks s n x.ctx [(.userLoad, slotAddress x)] (readHeader n x))
    else .next s
  | _ => .next s

/-- The checks of R366 and R367 on a packet's words: the code of the first that fails (R374). -/
def packetError (ws : List Word) : Option (BitVec 8) :=
  let w := fun i => (ws.getD i 0).toNat
  let kind := bitsOf (w 0) 0 8
  if kind ≠ 1 ∧ kind ≠ 2 then some 0x01
  else if bitsOf (w 0) 32 32 ≠ 0 ∨ bitsOf (w 0) 11 5 ≠ 0 then some 0x02
  else if kind = 2 then none
  else if bitsOf (w 2) 32 32 = 0 ∨ w 6 ≠ 0 ∨ w 7 ≠ 0 then some 0x02
  else if w 3 % 8 ≠ 0 ∨ w 4 % 128 ≠ 0 ∨ w 5 % 64 ≠ 0 then some 0x03
  else none

/-- The kernel record that a KERNEL packet asks for, built at a physical address (R377, R378). -/
def buildRecord (s : State) (q : Nat) (x : Queue) (ws : List Word) (pa : Nat) : State :=
  let w := fun i => ws.getD i 0
  let h := (w 0).toNat
  let sown := bitsOf (readWord s (pa + 40)).toNat 32 32 == sownMark
  let parent := if sown then readWord s (pa + 32) else 0
  let dep := bitsOf h 16 16
  let w5 := q + bitsOf h 8 2 * 2 ^ 10 + bitsOf h 10 1 * 2 ^ 12 + dep * 2 ^ 16 + builtMark * 2 ^ 32
  let s := writeWords s pa [w 1, w 2, w 3, w 5, parent, BitVec.ofNat 64 w5, 0, BitVec.ofNat 64 (x.ctx.toNat * 2 ^ 40),
    0, 0, 0, 0, BitVec.ofNat 64 (x.rp.toNat * 2 ^ 32), 0, 0, 0]
  let s := { s with
    kernels := s.kernels.filter (fun k => k.pa != pa) ++ [KernelRef.mk pa (w 4) x.ctx false [] [] false .open] }
  if dep = 0 then makeReady s pa else s

/-- The body of a KERNEL packet (R367, R369, R374): its kernel must exist and its REC lie in HBM. -/
def launchKernel (s : State) (q : Nat) (x : Queue) (ws : List Word) : Except (BitVec 8) State :=
  let w := fun i => ws.getD i 0
  match kernelInfo s (queuePlot q) x.ctx (w 1) (bitsOf (w 2).toNat 0 32) with
  | .error e => .error e.cause
  | .ok (_, none) => .error 0x02
  | .ok (s, some _) =>
    match engineTranslate s (queuePlot q) x.ctx (w 4) .userStore with
    | .error e => .error e.cause
    | .ok (s, pa, _) => if rangeOf pa = .hbm then .ok (buildRecord s q x ws pa) else .error 0x03

/-- The walks for what a KERNEL packet names, up to one that faults: its kernel, and its REC. -/
def launchWalk (s : State) (q : Nat) (x : Queue) (ws : List Word) : State :=
  let w := fun i => ws.getD i 0
  let t := kernelWalk s (queuePlot q) x.ctx (w 1) (bitsOf (w 2).toNat 0 32)
  match kernelInfo s (queuePlot q) x.ctx (w 1) (bitsOf (w 2).toNat 0 32) with
  | .ok (_, some _) => walked t (queuePlot q) x.ctx .userStore [w 4]
  | _ => t

/-- The write that gives the slot at RP back to its producers (R369). -/
def slotPieces (s : State) (q : Nat) (x : Queue) : Except FaultInfo (State × List (Word × Nat × Nat)) :=
  enginePieces s (queuePlot q) x.ctx (slotAddress x) 8 .userStore

/-- A packet consumed: its slot goes back to its producers, and RP moves on (R369, R372). In a replay the slot is not the
packet's. -/
def packetDone (s : State) (q : Nat) (x : Queue) (entry : Option RecEntry) : State :=
  let s := match entry with
    | some e => serveEntry s x.ctx e
    | none =>
      match slotPieces s q x with
      | .ok (s, l) => writePieces .unit (queuePlot q) x.ctx l s 0
      | .error _ => s
  putQueue s q { x with
    phase := if x.stopping then .disabled else .idle, stopping := false, rp := x.rp + 1, due := none, interval := 100 }

/-- The slot can be given back: the code of the translation fault on the ring where it cannot (R369, R374). -/
def ringError (s : State) (q : Nat) (x : Queue) (entry : Option RecEntry) : Option (BitVec 8) :=
  match entry with
  | some _ => none
  | none =>
    match slotPieces s q x with
    | .ok _ => none
    | .error e => some e.cause

/-- The slot lies at a peer to whom no request can be sent now: the packet waits in FETCHING (R482, R484). -/
def slotHeld (s : State) (q : Nat) (x : Queue) : Bool :=
  match slotPieces s q x with
  | .ok (t, l) => !piecesReady t l
  | .error _ => false

/-- A packet with its words read (R369). Every check comes before any effect. -/
def consumePacket (s : State) (q : Nat) (x : Queue) (ws : List Word) (entry : Option RecEntry) : State :=
  match packetError ws, ringError s q x entry with
  | some code, _ => queueError s q code
  | none, some code => queueError (walked s (queuePlot q) x.ctx .userStore [slotAddress x]) q code
  | none, none =>
    if bitsOf (ws.getD 0 0).toNat 0 8 = 2 then
      let s := if (ws.getD 0 0).getLsbD 10 then queueMessage s q else s
      packetDone s q x entry
    else
      match launchKernel s q x ws with
      | .error code => queueError (launchWalk s q x ws) q code
      | .ok s => packetDone s q x entry

/-- What a queue engine has translated before it consumes a packet (R450): the slot that it gives back, and of a KERNEL packet that passes
its checks the kernel and the record. -/
def packetPages (s : State) (q : Nat) (x : Queue) (ws : List Word) (own : Bool) : List (Need × Word) :=
  (if own then [(Need.userStore, slotAddress x)] else []) ++
    (if (packetError ws).isSome || bitsOf (ws.getD 0 0).toNat 0 8 == 2 then []
    else (kernelPages s (queuePlot q) x.ctx (ws.getD 1 0) (bitsOf (ws.getD 2 0).toNat 0 32)).map (fun a => (Need.userLoad, a)) ++
      [(Need.userStore, ws.getD 4 0)])

/-- The eight words of a slot, with the header word that FETCHING began with. -/
def packetWords (h : Word) (body : Nat) : List Word := h :: (List.range 7).map (fun i => BitVec.ofNat 64 (bitsOf body (64 * i) 64))

/-- A packet for whose entry the record buffer has no room: its context is stopped (R437), and the engine at the packet boundary before
it, so that the slot is read again (DEDUCED, assumption 25). -/
def awaitRecord (s : State) (q : Nat) (x : Queue) : State :=
  let s := askDrain s x.ctx
  if x.stopping then putQueue s q { x with phase := .disabled, stopping := false }
  else putQueue s q { x with phase := .armed, due := some s.cycles }

/-- A queue engine's read of the body of the slot at RP, and the packet consumed. -/
def readBody (q : Nat) (x : Queue) (s : State) : State :=
  match readRing s q x 8 56 with
  | .error code => queueError (ringWalk s q x 8 56) q code
  | .ok (t, body) =>
    let ws := packetWords x.header body
    queueWalks t q x.ctx (packetPages t q x ws true) (fun t =>
      if slotHeld t q x then t
      else if recordFits t x.ctx 9 then consumePacket (recordEntry t x.ctx recQueue q (x.rp.setWidth 64 :: ws)) q x ws none
      else awaitRecord t q x)

/-- The body read of queue `n` completes. -/
def execPacketConsume (s : State) : Result :=
  match s.cur with
  | .at _ n _ _ =>
    let s := { s with cur := .idle }
    let x := queueAt s n
    if x.phase = .fetching then
      match replayPacket s n x with
      | some (some e) =>
        let ws := e.words.drop 1
        .next (queueWalks s n x.ctx (packetPages s n x ws false) (fun s => consumePacket s n x ws (some e)))
      | some none => .next s
      | none => .next (queueWalks s n x.ctx [(.userLoad, slotAddress x)] (readBody n x))
    else .next s
  | _ => .next s

end Sys2Proof.Machine
end

