-- ==== Sys2Proof/Machine/Harvest.lean ====
section
/-! DEFINITION. Stopping the engines of a plot for a context (19_context.md R419, R420), taking a block copy off its
tile (R95, R185, R313, R333), the record and save header of a context (R407, R421), and entry to DEAD (R409). -/
namespace Sys2Proof.Machine

/-! ### A copy taken off its tile (R174, R185) -/

/-- The matrix engine of a tile kept for a block (R313, R333). -/
def saveTile (s : State) (p : Nat) (b : BlockId) (t : Nat) : State :=
  if tileAt s p t = Tile.fresh then s
  else modPlot s p (fun x => { x with
    savedTiles := x.savedTiles.filter (fun y => y.block != b) ++ [SavedTile.mk b t (lookupD Tile.fresh t x.tiles)] })

/-- A copy taken off its tile: its tokens keep their keys and wait for the block (R95), its matrix state is kept, a load
or an eviction is abandoned, and the copy is ABSENT. -/
def offTile (s : State) (p : Nat) (k : Copy) : State :=
  match k.phase with
  | .absent => s
  | .loading | .evicting | .resident | .migrating =>
    let s := if copyLive k then saveTile s p k.id (firingTile k) else s
    let s := modCopy s p k.id (fun x => { x with phase := .absent, newTile := none, switched := false, stations := [] })
    let s := freeTile s p k.tile
    match k.newTile with
    | some t => freeTile s p t
    | none => s

/-! ### What must complete before a plot acknowledges (R420) -/

/-- A part of an access that needs nothing more, or one that waits for its word, for a place among the waiters of its home, or for its
turn in a replay, and is withdrawn from there, or has been (R217). Any other part that a home has refused, or that no stream to its peer had
room for, is still to be performed. -/
def partSettled (ws : List HomeWaiter) (p : Nat) (a : Access) (i : Nat) (x : Part) : Bool :=
  partDone x || x.state == .bad || x.state == .withdrawn || ((a.op == .lds || x.kind == .peer) && x.state == .refused) || ws.any (waiterOf (fun r => r == PartRef.mk p a.id i))

/-- A fault of an access can go to its group now: a cause slot is free, or it needs none (R425). -/
def faultGoes (s : State) (p : Nat) (a : Access) : Bool :=
  (groupAt s p a.env.gslot).all (fun x => x.hbid == 0xFFFF_FFFF || inHandlerBlock s p a.env.gslot a.block || (freeCause x.causes).isSome)

/-- An issued access that has not been drained (R217). One whose every part has been tried is drained when it has sent what it sends; what
cannot leave yet is saved with it: a fault that no cause slot takes, a fence behind a withdrawn `lds`, a row for a full port. -/
def accessRuns (s : State) (p : Nat) (a : Access) : Bool :=
  a.phase == .issued &&
    (a.op == .pref ||
      (if a.parts.all (fun x => partDone x || x.state == .bad) then
        (if a.fault.isSome then faultGoes s p a else a.freed || (fenceClear s p a && dataLeaves s p a))
      else (List.range a.parts.length).any (fun i => (a.parts[i]?).any (fun x => !partSettled s.homeWaiters p a i x))))

/-- A matrix engine or accumulator store that is not at its stopping unit (R313, R328, R333). -/
def tileRuns (t : Tile) : Bool := !t.array.isEmpty || t.accs.any (fun a => accBusy a.2) || !t.jobs.isEmpty

/-- A copy request in the middle of a chunk or of a descriptor (R287). -/
def copyRuns (c : BitVec 12) (r : CopyReq) : Bool := r.held.block.ctx == c && r.phase != .idle

/-- A read of copy engines, or of gather units, for a context that has still to be performed. -/
def readRuns (p : Nat) (c : BitVec 12) (copies : Bool) (q : EngReq) : Bool :=
  q.plot == p && q.ctx == c && q.act == .read && !q.done && (match q.owner with
    | .copy _ _ => copies
    | _ => !copies)

/-- A tile of a plot on which a context's stations fire, and of which a test holds. -/
def tileOfCtx (s : State) (p : Nat) (c : BitVec 12) (f : Tile → Bool) : Bool :=
  (plotAt s p).blocks.copies.any (fun k => k.id.ctx == c && copyLive k && f (tileAt s p (firingTile k)))

/-- Classes of a plot that have still to acknowledge the stop of a context. -/
def classLeft (s : State) (p : Nat) (c : BitVec 12) (f : EngineClass → Bool) : Bool :=
  (ctxAt s c).unacked.any (fun u => match u with
    | .plot q k => q == p && f k
    | .queueEngine _ | .home _ => false)

/-- An engine class of a plot is not at its stopping unit for a context (R420). The block scheduler takes blocks off their tiles when what
stands on these has stopped, and groups are saved last (assumption 54). -/
def classRuns (s : State) (p : Nat) (c : BitVec 12) (k : EngineClass) : Bool :=
  let x := plotAt s p
  x.unit.groups.any (fun o => o.any (fun g => g.ctx == c && g.phase == .retiring)) ||
    (match k with
    | .fabric => x.iterative.any (fun y => y.block.ctx == c) || s.regWrites.any (fun w => w.ctx == c && w.reply.any (fun r => r.plot == p))
    | .matrix => tileOfCtx s p c (fun t => !t.array.isEmpty) || s.engReqs.any (readRuns p c false) ||
      s.rows.any (fun r => r.dest.plot == p && r.dest.block.ctx == c && rowLands s r)
    | .accumulators => tileOfCtx s p c (fun t => t.accs.any (fun a => a.2.st == .swap || a.2.st == .checking))
    | .drains => tileOfCtx s p c (fun t => !t.jobs.isEmpty || t.accs.any (fun a => a.2.draining))
    | .streams => x.accesses.any (fun a => a.block.ctx == c && isStream a.op && accessRuns s p a)
    | .copy => x.copyQueues.any (fun q => q.any (copyRuns c)) || s.engReqs.any (readRuns p c true)
    | .walker => x.walker.walks.any (fun w => w.ctx == c)
    | .storeBuffer => x.accesses.any (fun a => a.block.ctx == c && !isStream a.op && accessRuns s p a)
    | .waiters | .barriers | .network => false
    | .scheduler => classLeft s p c (fun k => k != .scheduler && k != .groups)
    | .groups => classLeft s p c (fun k => k != .groups))

/-! ### Stopping a plot (R420) -/

/-- A set that a unit held returns to its station unfired (R287, R291, R350): it is counted when it is consumed again, and so no
longer now (R415). -/
def unfire (s : State) (p : Nat) (h : Held) : State :=
  modCount (modCopy s p h.block (fun x => { x with ready := x.ready ++ [h.set] })) h.block.ctx p (fun k => { k with icnt := k.icnt - 1 })

/-- The copy requests of a context on a plot taken off its engines in queue order, and its `cpycb` that hold their slots (R287). -/
def saveCopies (s : State) (p : Nat) (c : BitVec 12) : State :=
  let mine := fun (r : CopyReq) => r.held.block.ctx == c
  let place := fun (w : Waiter) => w.held.block.ctx == c && isPlaceWaiter w
  modPlot s p (fun x => { x with
    savedCopies := x.savedCopies ++ (x.copyQueues.zip (List.range 2)).flatMap (fun q => (q.1.filter mine).map (fun r => (q.2, r)))
    copyQueues := x.copyQueues.map (fun q => q.filter (fun r => !mine r))
    savedPlaces := x.savedPlaces ++ x.unit.waiters.filter place
    unit := { x.unit with waiters := x.unit.waiters.filter (fun w => !place w) } })

/-- A queue with saved requests ahead of those in it, but behind one in the middle of a chunk (R287). -/
def requeueCopies (saved : List CopyReq) (q : List CopyReq) : List CopyReq :=
  match q with
  | r :: rest => if r.phase = .idle then saved ++ q else r :: (saved ++ rest)
  | [] => saved

/-- The saved copy requests of a context back on the engines of their plot, ahead of new ones (R287). -/
def restoreCopies (c : BitVec 12) (x : Plot) : Plot :=
  let mine := fun (r : Nat × CopyReq) => r.2.held.block.ctx == c
  let place := fun (w : Waiter) => w.held.block.ctx == c
  { x with
    copyQueues := (x.copyQueues.zip (List.range 2)).map (fun q =>
      requeueCopies ((x.savedCopies.filter (fun r => mine r && r.1 == q.2)).map (fun r => r.2)) q.1)
    savedCopies := x.savedCopies.filter (fun r => !mine r)
    savedPlaces := x.savedPlaces.filter (fun w => !place w)
    unit := { x.unit with waiters := x.savedPlaces.filter place ++ x.unit.waiters } }

/-- The waiters of a context at a plot's control unit withdrawn (R287, R350), but a `cpycb` that holds its slots, which goes with the copy
engines' requests. -/
def withdrawWaiters (s : State) (p : Nat) (c : BitVec 12) : State :=
  let u := (plotAt s p).unit
  let goes := fun (h : Held) (k : WaitKind) => h.block.ctx == c && (match k with
    | .copyPlace _ _ _ => false
    | _ => true)
  let ws := u.waiters.filter (fun w => goes w.held w.kind)
  let rs := u.refused.filter (fun w => goes w.held w.kind)
  let s := modUnit s p (fun u => { u with
    waiters := u.waiters.filter (fun w => !goes w.held w.kind), refused := u.refused.filter (fun w => !goes w.held w.kind) })
  rs.foldl (fun s r => unfire s p r.held) (ws.foldl (fun s w => unfire s p w.held) s)

/-- The `pment` waiters of a context's sets on a plot withdrawn, WAITERS of their permits reduced (R291). -/
def withdrawPermits (s : State) (p : Nat) (c : BitVec 12) : State :=
  let mine := fun (w : HomeWaiter) => match w with
    | .permit _ q h _ _ _ => q == p && h.block.ctx == c
    | _ => false
  let gone := s.homeWaiters.filter mine
  let s := { s with homeWaiters := s.homeWaiters.filter (fun w => !mine w) }
  gone.foldl (fun s w => match w with
    | .permit _ q h _ _ a => setPermitWaiters (unfire s q h) a
    | _ => s) s

/-- An issued access that waits at homes, withdrawn (R217): it keeps its place in wave order. -/
def Access.withdraw (a : Access) : Access :=
  { a with
    phase := .waiting, withdrawn := true
    parts := a.parts.map (fun x => if partDone x then x else { x with state := .todo }) }

/-- The accesses of a context on a plot stopped, those of its stream stations or those of its wave store buffer: waiting `lds` withdrawn,
translations to be asked for again (R217, R462). -/
def stopAccesses (s : State) (p : Nat) (c : BitVec 12) (streams : Bool) : State :=
  let mine := fun (a : Access) => a.block.ctx == c && isStream a.op == streams
  let ids := ((plotAt s p).accesses.filter mine).map (fun a => a.id)
  let s := { s with homeWaiters := s.homeWaiters.filter (fun w => !waiterOf (fun r => r.plot == p && ids.contains r.id) w) }
  modAccesses s p (fun l => l.map (fun a => if mine a then (if a.phase = .issued then a.withdraw else a.unask) else a))

/-- What waits of a context at a home, for its word or for its turn, withdrawn (R217). -/
def withdrawHome (s : State) (h : Nat) (c : BitVec 12) : State :=
  let mine := fun (w : HomeWaiter) => waiterHome s c w == some h
  let gone := s.homeWaiters.filter mine
  gone.foldl (fun s w => match w with
    | .lds _ (.part r) _ | .replay _ r => modPart s r (fun x => { x with state := .withdrawn })
    | .lds _ (.eng _) _ | .permit _ _ _ _ _ _ => s) { s with homeWaiters := s.homeWaiters.filter (fun w => !mine w) }

/-- The requests of a context at a plot's walker gone (R462). -/
def clearWalker (s : State) (p : Nat) (c : BitVec 12) : State :=
  modWalker s p (fun w => { w with
    queue := w.queue.filter (fun q => q.ctx != c), returned := w.returned.filter (fun q => q.ctx != c), failed := [] })

/-- The station entries of a context on a plot cleared (R463). -/
def clearStations (s : State) (p : Nat) (c : BitVec 12) : State :=
  modWalker s p (fun w => { w with stations := w.stations.filter (fun x => x.leaf.ctx != c && x.block.ctx != c) })

/-- A group that comes back from PLACED goes to the head of its level (R343), but behind groups of its record of lower number
that have come back (R379). -/
def returnEntry (e : ReadyEntry) (l : List ReadyEntry) : List ReadyEntry :=
  let before := fun (x : ReadyEntry) => x.record == e.record && (match x.group, e.group with
    | some m, some n => decide (m.toNat < n.toNat)
    | _, _ => false)
  match (List.range l.length).reverse.find? (fun i => (l[i]?).any before) with
  | some i => l.take (i + 1) ++ e :: l.drop (i + 1)
  | none => e :: l

/-- A PLACED group returns to the head of its level (R343): its slot and region are free, its tokens gone. -/
def requeueGroup (s : State) (p : Nat) (g : BitVec 3) (x : Group) : State :=
  let s := modPlot (dropFlights s p g) p (Plot.dropGroup s.homeWaiters p g)
  let s := modUnit s p (fun u => { u with groups := u.groups.set g.toNat none })
  modLevel s x.priority (returnEntry (ReadyEntry.mk x.record x.ctx (some x.number)))

/-- The groups of a context on a plot that are quiescent retire before a pre-emption reaches them (R343). -/
def retireQuiet (s : State) (p : Nat) (c : BitVec 12) : State :=
  (List.range 8).foldl (fun s n =>
    let g := BitVec.ofNat 3 n
    match groupAt s p g with
    | some x =>
      if x.ctx = c ∧ x.phase = .running ∧ groupLive s p g x = false then modGroup s p g (fun y => { y with phase := .retiring })
      else s
    | none => s) s

/-- A group of a context that stops (R343). -/
def saveGroup (s : State) (p : Nat) (c : BitVec 12) (n : Nat) : State :=
  let g := BitVec.ofNat 3 n
  match groupAt s p g with
  | some x =>
    if x.ctx ≠ c then s
    else
      match x.phase with
      | .placed => requeueGroup s p g x
      | .running => modGroup s p g (fun y => { y with phase := .saved, wasStopped := false })
      | .stopped => modGroup s p g (fun y => { y with phase := .saved, wasStopped := true })
      | .saved | .retiring => s
  | none => s

/-- The blocks of a context taken off the tiles of a plot (R174, R185). -/
def stopBlocks (s : State) (p : Nat) (c : BitVec 12) : State :=
  let s := ((plotAt s p).blocks.copies.filter (fun k => k.id.ctx == c)).foldl (fun s k => offTile s p k) s
  modBlocks s p (fun u => { u with request := u.request.filter (fun r => r.block.ctx != c) })

/-- An engine class of a plot stopped for a context, its state kept (R420). -/
def stopClass (s : State) (p : Nat) (c : BitVec 12) (k : EngineClass) : State :=
  match k with
  | .fabric | .matrix | .accumulators | .drains | .barriers | .network => s
  | .streams => stopAccesses s p c true
  | .copy => saveCopies s p c
  | .walker => clearStations (clearWalker s p c) p c
  | .storeBuffer => stopAccesses s p c false
  | .waiters => withdrawPermits (withdrawWaiters s p c) p c
  | .scheduler => stopBlocks s p c
  | .groups => (List.range 8).foldl (fun s n => saveGroup s p c n) s

/-- A queue engine is at a packet boundary for a context, its queues ARMED on their next slots (R376). -/
def engineStopped (s : State) (die : Nat) (c : BitVec 12) : Bool :=
  s.queues.all (fun x => !(queueDie x.1 == die && x.2.ctx == c && (x.2.phase == .fetching || x.2.phase == .idle)))

/-! ### The record of a context (R407) -/

/-- The register fields of a record, in words 1 to 19. -/
def regWords (r : CtxRegs) : List Word :=
  [r.cfg, r.seed, r.psva, r.slc, r.stl, r.ptroot, r.spbase, r.spsize, r.svbase, r.recbase, r.recsize, r.recpos,
    r.csec.w0, r.csec.w1, r.csec.w2, r.csec.w3, r.ctolF16, r.ctolBf16, r.ctolBps]

/-- The register fields written to the record. -/
def writeRegs (s : State) (c : BitVec 12) : State := writeWords s (ctxRecord s c + 8) (regWords (ctxAt s c).regs)

/-- The register fields that the record holds, as their registers take them: bits that CTXCFG and the tolerance registers
reserve read as zero, and tolerances are stored within their bounds (R6, R322, R411). -/
def recordRegs (s : State) (c : BitVec 12) : CtxRegs :=
  let f := fun n => readWord s (ctxRecord s c + 8 * n)
  { cfg := f 1 &&& 0xF0_FFFD, seed := f 2, psva := f 3, slc := f 4, stl := f 5, ptroot := f 6, spbase := f 7
    spsize := f 8, svbase := f 9, recbase := f 10, recsize := f 11, recpos := f 12
    csec := CauseRecord.mk (f 13) (f 14) (f 15) (f 16), ctolF16 := clampTolerance (f 17), ctolBf16 := clampTolerance (f 18)
    ctolBps := clampTolerance (f 19), ctolInt := 0 }

/-- The register fields of the record as the registers take them, written back (R407). -/
def writeBack (s : State) (c : BitVec 12) : State := writeWords s (ctxRecord s c + 8) (regWords (recordRegs s c))

/-- The registers of a context where they stand: in its hardware slot, or else in its record (R406, R407). -/
def heldRegs (s : State) (c : BitVec 12) : CtxRegs :=
  if (ctxAt s c).slot.isSome then (ctxAt s c).regs else recordRegs s c

/-- Bytes of the save area (R421). -/
def saveBytes : Nat := 0x1_0000 + 32 * 0x40_0000

/-- The spill and save areas lie wholly in HBM (R509). -/
def areasSound (r : CtxRegs) : Bool := wholly .hbm r.spbase.toNat r.spsize.toNat && wholly .hbm r.svbase.toNat saveBytes

/-- The save header (R421), where the save area lies in HBM (R509): a kill has left no section (R419). -/
def writeHeader (s : State) (c : BitVec 12) : State :=
  let x := ctxAt s c
  if areasSound x.regs then
    let plots := x.sections.foldl (fun t y => t + 2 ^ y.plot) 0
    let head := [0x5A5E_0001, BitVec.ofNat 64 (x.flags.toNat + x.cause.toNat * 2 ^ 16), BitVec.ofNat 64 plots,
      BitVec.ofNat 64 x.saves, 0, 0, 0, 0]
    let counts := (x.counts.take 32).flatMap (fun k => [k.icnt.setWidth 64, k.dline.setWidth 64])
    writeWords s x.regs.svbase.toNat (head ++ counts)
  else s

/-- The head of a record of a plot section but for its length (R421): TYPE, TILE, SLOT, GSLOT, THREAD and BID. -/
structure RecordHead where
  kind : Nat
  tile : Nat
  slot : BitVec 7
  gslot : BitVec 3
  thread : BitVec 10
  bid : BitVec 32

/-- The head of a record about a set that a unit holds, for a block on a tile. -/
def heldHead (kind tile : Nat) (h : Held) : RecordHead :=
  RecordHead.mk kind tile h.set.slot (heldEnv h).gslot (heldEnv h).thread h.block.bid

/-- The records of a group (R343) with its buffers, barriers and ports. -/
def groupHeads (g : BitVec 3) (x : Group) : List RecordHead :=
  let head := fun (kind : Nat) => RecordHead.mk kind 0 0 g 0 0
  head 1 :: x.buffers.map (fun _ => head 11) ++ x.barriers.map (fun _ => head 12) ++ x.ports.map (fun _ => head 13)

/-- The matrix state of a context on a plot: of blocks off their tiles, and of those on them. -/
def ctxTiles (s : State) (c : BitVec 12) (p : Nat) : List SavedTile :=
  (plotAt s p).savedTiles.filter (fun t => t.block.ctx == c) ++
    (((plotAt s p).blocks.copies.filter (fun k => k.id.ctx == c && copyLive k)).map (fun k => SavedTile.mk k.id (firingTile k)
      (tileAt s p (firingTile k)))).filter (fun t => t.tile != Tile.fresh)

/-- The records of a block's accumulators (R333). -/
def accHeads (x : SavedTile) : List RecordHead := x.tile.accs.map (fun a => RecordHead.mk 5 x.place 0 a.2.gslot 0 x.block.bid)

/-- The records of the matrix engine of a block (R313). -/
def matrixHeads (x : SavedTile) : List RecordHead :=
  let head := fun (kind : Nat) (slot : BitVec 7) => RecordHead.mk kind x.place slot 0 0 x.block.bid
  [head 6 0, head 6 0] ++ x.tile.ports.map (fun r => head 7 r.slot) ++ x.tile.repeats.map (fun r => head 8 r.slot) ++
    x.tile.gather.toList.map (fun y => heldHead 9 x.place y.held) ++ x.tile.fillers.map (fun y => heldHead 9 x.place y.held)

/-- The records of accesses (R217, R232). -/
def accessHeads (s : State) (c : BitVec 12) (p : Nat) (streams : Bool) : List RecordHead :=
  ((plotAt s p).accesses.filter (fun a => a.block.ctx == c && isStream a.op == streams)).map
    (fun a => RecordHead.mk 3 0 a.set.slot a.env.gslot a.env.thread a.block.bid)

/-- The records that an engine class of a plot saves of a context (R420, R421, assumption 10). -/
def classHeads (s : State) (c : BitVec 12) (p : Nat) (k : EngineClass) : List RecordHead :=
  let x := plotAt s p
  match k with
  | .fabric | .drains | .walker | .waiters | .scheduler => []
  | .matrix => (ctxTiles s c p).flatMap matrixHeads
  | .accumulators => (ctxTiles s c p).flatMap accHeads
  | .streams => accessHeads s c p true ++
    (x.chains.filter (fun k => k.block.ctx == c)).map (fun k => RecordHead.mk 4 0 k.slot k.env.gslot k.env.thread k.block.bid)
  | .copy => (x.savedCopies.filter (fun r => r.2.held.block.ctx == c)).map (fun r => heldHead 10 0 r.2.held) ++
    (x.savedPlaces.filter (fun w => w.held.block.ctx == c)).map (fun w => heldHead 14 0 w.held)
  | .storeBuffer => (x.waves.filter (fun w => w.ctx == c)).map (fun w => RecordHead.mk 2 0 0 w.gslot w.thread 0) ++ accessHeads s c p false
  | .barriers => (x.unit.barWaiters.filter (fun w => w.held.block.ctx == c)).map (fun w => heldHead 14 0 w.held)
  | .network => (x.unit.channels.filter (fun k => k.ctx == c)).map (fun k => RecordHead.mk 15 0 0 k.gslot 0 0)
  | .groups => (x.unit.groups.zip (List.range 8)).flatMap (fun y => match y.1 with
    | some g => if g.ctx = c then groupHeads (BitVec.ofNat 3 y.2) g else []
    | none => [])

/-- The words of a record whose body takes `lines` units of 16 bytes: its head, and a body of free words from the n-th. -/
def recordWords (h : RecordHead) (lines n : Nat) : List Word :=
  [BitVec.ofNat 64 (h.kind + lines * 16 * 2 ^ 32), BitVec.ofNat 64 (h.tile + h.slot.toNat * 2 ^ 4 + h.gslot.toNat * 2 ^ 11 +
    h.thread.toNat * 2 ^ 14 + h.bid.toNat * 2 ^ 32)] ++ (List.range (2 * lines)).map (fun i => Config.freeWord (n + i))

/-- The words of a list of records, with the counter of free values after them. -/
def recordsWords (n : Nat) : List RecordHead → List Word × Nat
  | [] => ([], n)
  | h :: hs =>
    let lines := (Config.recordLines h.kind n).toNat
    let rest := recordsWords (n + 2 * lines + 1) hs
    (recordWords h lines n ++ rest.1, rest.2)

/-- Records appended to the section of a plot in the save area, and its count of records, as far as the section reaches (R421, R511). A kill
discards what would have been saved (R419). -/
def appendSection (s : State) (c : BitVec 12) (p : Nat) (heads : List RecordHead) : State :=
  let x := ctxAt s c
  if p < 32 ∧ areasSound x.regs = true ∧ x.killMark = false then
    let y := (x.sections.find? (fun y => y.plot == p)).getD (PlotSection.mk p 0 8)
    let base := x.regs.svbase.toNat + 0x1_0000 + p * 0x40_0000
    let words := recordsWords s.fresh heads
    let body := words.1.take ((0x40_0000 - y.bytes) / 8)
    let s := writeWords { s with fresh := words.2 } (base + y.bytes) body
    let s := writeWord s base (BitVec.ofNat 64 (y.records + heads.length))
    modCtx s c (fun x => { x with
      sections := PlotSection.mk p (y.records + heads.length) (y.bytes + 8 * body.length) :: x.sections.filter (fun z => z.plot != p) })
  else s

/-- The context event message, where CTXCFG enables it (R409, R411). -/
def contextMessage (s : State) (c : BitVec 12) : State :=
  let r := (ctxAt s c).regs
  if r.cfg.getLsbD 15 then { s with msi := s.msi ++ [r.cfg.extractLsb' 4 11] } else s

/-! ### Entry to DEAD (R409) -/

/-- A kernel record of a dead context: FAULTED, with no completion record (R380, R409). -/
def deadKernel (s : State) (k : KernelRef) : State := dropKernel (tellParent (setRecState s k.pa kFaulted) k.pa true none) k.pa

/-- A plot without anything of a context. -/
def Plot.forget (c : BitVec 12) (x : Plot) : Plot :=
  let held := fun (h : Held) => h.block.ctx == c
  { x with
    blocks := { x.blocks with
      copies := x.blocks.copies.filter (fun k => k.id.ctx != c), counts := x.blocks.counts.filter (fun k => k.ctx != c) }
    unit := { x.unit with
      groups := x.unit.groups.map (fun o => o.filter (fun g => g.ctx != c))
      waiters := x.unit.waiters.filter (fun w => !held w.held)
      barWaiters := x.unit.barWaiters.filter (fun w => !held w.held)
      refused := x.unit.refused.filter (fun w => !held w.held)
      channels := x.unit.channels.filter (fun k => k.ctx != c)
      adds := x.unit.adds.filter (fun w => !held w.held)
      joins := x.unit.joins.filter (fun w => !held w.held) }
    turns := x.turns.filter (fun t => t.block.ctx != c)
    copyQueues := x.copyQueues.map (fun q => q.filter (fun r => !held r.held))
    savedCopies := x.savedCopies.filter (fun r => !held r.2.held)
    savedPlaces := x.savedPlaces.filter (fun w => !held w.held)
    accesses := x.accesses.filter (fun a => a.block.ctx != c)
    waves := x.waves.filter (fun w => w.ctx != c)
    lost := x.lost.filter (fun w => w.1 != c)
    chains := x.chains.filter (fun k => k.block.ctx != c)
    savedTiles := x.savedTiles.filter (fun t => t.block.ctx != c) }

/-- The device without anything of a context. Held permits stay HELD (R291). -/
def forgetContext (s : State) (c : BitVec 12) : State :=
  let s := (List.range 36).foldl (fun s p => clearStations s p c) s
  { s with
    plots := s.plots.map (Plot.forget c)
    flights := s.flights.filter (fun f => f.dest.block.ctx != c)
    rows := s.rows.filter (fun f => f.dest.block.ctx != c)
    homeWaiters := s.homeWaiters.filter (fun w => match w with
      | .permit _ _ h _ _ _ => h.block.ctx != c
      | _ => true)
    peerCopies := s.peerCopies.filter (fun x => x.ctx != c)
    l2 := s.l2.filter (fun x => x.ctx != some c)
    engReqs := s.engReqs.filter (fun q => q.ctx != c || q.act != .read || q.owner == .host)
    overrides := s.overrides.filter (fun o => o.block.ctx != c)
    regWrites := s.regWrites.filter (fun w => w.ctx != c)
    ready := s.ready.map (fun l => l.filter (fun e => e.ctx != c)) }

/-- Entry to DEAD: queues in ERROR 0x04, kernel records FAULTED, everything else of the context discarded; its register fields stand in
its record (R407). -/
def enterDead (s : State) (c : BitVec 12) : State :=
  let s := if (ctxAt s c).slot.isSome then writeRegs s c else writeBack s c
  let s := (s.queues.filter (fun x => x.2.ctx == c)).foldl (fun s x => queueError s x.1 0x04) s
  let s := (s.kernels.filter (fun k => k.ctx == c && k.finish == .open)).foldl deadKernel s
  let s := forgetContext s c
  let s := modCtx s c (fun x => { x with
    phase := .dead, slot := none, objects := [], rejected := [], recMode := .off, served := [], unacked := [], sections := [] })
  contextMessage (writeState s c) c

/-! ### The end of a pre-emption (R409, R419) -/

/-- The last acknowledgement has arrived: the header and the record are written, the slot is free, and the context is SAVED, FROZEN or DEAD.
A kill has saved nothing, and so is no save that SAVES counts (R419, R421). -/
def finishStop (s : State) (c : BitVec 12) : State :=
  let s := flushWrites s c
  let s := if (ctxAt s c).killMark then s else modCtx s c (fun x => { x with saves := x.saves + 1 })
  let s := writeRegs (writeHeader s c) c
  let x := ctxAt s c
  if x.killMark then enterDead s c
  else
    let s := writeState (modCtx s c (fun x => { x with
      phase := if x.freezeMark then .frozen else .saved, slot := none, counts := x.counts.map (fun k => { k with late := none }) })) c
    if x.freezeMark || x.flags.getLsbD 5 || x.flags.getLsbD 6 then contextMessage s c else s

/-- A unit is at its stopping unit for a context (R420). -/
def unitStopped (s : State) (c : BitVec 12) (u : StopUnit) : Bool :=
  match u with
  | .plot p k => !classRuns s p c k
  | .queueEngine d => engineStopped s d c
  | .home _ => true

/-- A unit stopped for a context, with what it saves written (R420, R511). -/
def stopUnit (s : State) (c : BitVec 12) (u : StopUnit) : State :=
  match u with
  | .plot p k =>
    let s := stopClass s p c k
    appendSection s c p (classHeads s c p k)
  | .queueEngine _ => s
  | .home h => withdrawHome s h c

/-- A unit acknowledges the stop of a context, once it has stopped (R419, R420). -/
def acknowledge (s : State) (c : BitVec 12) (u : StopUnit) : State :=
  let x := ctxAt s c
  if x.phase = .preempting ∧ x.unacked.contains u = true then
    let s := match u with
      | .plot p _ => retireQuiet s p c
      | .queueEngine _ | .home _ => s
    if unitStopped s c u then
      let s := modCtx (stopUnit s c u) c (fun y => { y with unacked := y.unacked.erase u })
      if (ctxAt s c).unacked.isEmpty then finishStop s c else s
    else s
  else s

/-- The unit that two numbers name: an engine class of plot `p`, or from 13 the queue engine of die `p`, and then home `p`. -/
def stopUnitOf (p k : Nat) : StopUnit :=
  match engineClasses[k]? with
  | some x => .plot p x
  | none => if k = 13 then .queueEngine p else .home p

/-- Context `n`: the unit that `p` and `m` name acknowledges. -/
def execAcknowledgement (s : State) : Result :=
  match s.cur with
  | .at p n m _ => .next (acknowledge { s with cur := .idle } (BitVec.ofNat 12 n) (stopUnitOf p m))
  | _ => .next s

/-! ### The end of a step -/

/-- What a step leaves of a context to do at once: a STATE word to be written (R407), and a stop that nothing has to acknowledge (R419). -/
def settleContext (s : State) (c : BitVec 12) : State :=
  let s := if (ctxAt s c).stateDue then writeState s c else s
  if (ctxAt s c).phase = .preempting ∧ (ctxAt s c).unacked.isEmpty = true then finishStop s c else s

/-- The same of every context. -/
def settleContexts (s : State) : State :=
  (s.ctxs.filter (fun x => x.2.stateDue || (x.2.phase == .preempting && x.2.unacked.isEmpty))).foldl (fun s x =>
    settleContext s (BitVec.ofNat 12 x.1)) s

/-- What every step ends with. -/
def settleStep (r : Result) : Result :=
  match r with
  | .next s => .next (settleContexts (settleKernels (settleDoubled s)))
  | .fault f => .fault f
  | .refused x => .refused x

/-! ### Restore (R424) -/

/-- The withdrawn accesses of a context on a plot sent to their homes again (R217). -/
def sendWithdrawn (s : State) (c : BitVec 12) (p : Nat) : State :=
  (((plotAt s p).accesses.filter (fun a => a.block.ctx == c && a.withdrawn && !isStream a.op)).map (fun a => a.id)).foldl (fun s id =>
    match accessAt s p id with
    | some a => tryIssue s p a
    | none => s) s

/-- A group that has become RUNNING, or returned with its context, goes on: waiting accesses, waiters and rows of its
plot are tried again (R232, R287, R433). -/
def resumePlot (s : State) (p : Nat) : State :=
  let ids := ((plotAt s p).accesses.filter (fun a => isStream a.op && a.phase == .waiting)).map (fun a => a.id)
  let s := ids.foldl (fun s id => tryStream s p id) s
  let s := ((plotAt s p).blocks.copies.filter copyLive).foldl (fun s k => tryLatches (pullAll s p k.id) p k.id) s
  kickUnit s p

/-- The counts of a plot after RESUME: a fresh slice after a `yld` or an expiry, else the saved ones (R424). -/
def restoredCount (s : State) (c : BitVec 12) (p : Nat) (k : PlotCount) : PlotCount :=
  let x := ctxAt s c
  if x.flags.getLsbD 0 || x.flags.getLsbD 1 then freshSlice x.regs.slc
  else if p < 32 then
    let a := x.regs.svbase.toNat + 64 + 16 * p
    PlotCount.mk ((readWord s a).setWidth 48) ((readWord s (a + 8)).setWidth 48) none 0 0
  else { k with late := none, idle := 0, last := 0 }

/-- RESUME of a SAVED context (R409, R424). -/
def restoreContext (s : State) (c : BitVec 12) (slot : Nat) : State :=
  let s := modCtx s c (fun x => { x with regs := recordRegs s c })
  let counts := ((ctxAt s c).counts.zip (List.range 36)).map (fun k => restoredCount s c k.2 k.1)
  let s := modCtx s c (fun x => { x with phase := .running, slot := some slot, flags := 0, cause := 0, idle := 0, counts := counts })
  let s := { s with
    plots := (s.plots.map (restoreCopies c)).map (fun y => { y with unit := { y.unit with groups := y.unit.groups.map (fun o => o.map (fun g =>
      if g.ctx = c ∧ g.phase = .saved then { g with phase := if g.wasStopped then .stopped else .running } else g)) } })
    queues := s.queues.map (fun x => if x.2.ctx = c ∧ x.2.phase = .armed then (x.1, x.2.wake s.cycles) else x) }
  let s := (List.range 36).foldl (fun s p => sendWithdrawn s c p) s
  kickPermits ((List.range 36).foldl resumePlot s)

end Sys2Proof.Machine
end

