-- ==== Sys2Proof/Machine/Pages.lean ====
section
/-! DEFINITION. `tlbi` (20_page.md R459 to R461): what it removes, what is translated again, and its status. -/
namespace Sys2Proof.Machine

/-- What a `tlbi` names (R459): a context, pages of a context from a page number, or everything. -/
inductive TlbiScope where
  | ctx (c : BitVec 12)
  | va (c : BitVec 12) (vpn n : Nat)
  | all
  deriving DecidableEq, Repr

/-- A leaf contains one of `n` pages from `vpn`. -/
def leafMeets (x : Leaf) (vpn n : Nat) : Bool := decide (x.vpn < vpn + n) && decide (vpn < x.vpn + 2 ^ (x.shift - 12))

/-- A leaf that is removed (R460). -/
def leafRemoved (k : TlbiScope) (x : Leaf) : Bool :=
  match k with
  | .ctx c => x.ctx == c && !pteG x.pte
  | .va c vpn n => (x.ctx == c || pteG x.pte) && leafMeets x vpn n
  | .all => true

/-- A walk-cache entry that is removed (R460): its prefix covers a page. -/
def walkRemoved (k : TlbiScope) (x : WalkEntry) : Bool :=
  match k with
  | .ctx c => x.ctx == c
  | .va c vpn n =>
    let f := fun (v : Nat) => v * 4096 / 2 ^ levelShift x.level
    x.ctx == c && decide (f vpn ≤ x.pre) && decide (x.pre ≤ f (vpn + n - 1))
  | .all => true

/-- A walk in flight that is abandoned (R460): any walk of the context, or to a page that is named. -/
def walkAbandoned (k : TlbiScope) (w : Walk) : Bool :=
  match k with
  | .ctx c => w.ctx == c
  | .va c vpn n => w.ctx == c || (decide (vpn ≤ w.va.toNat / 4096) && decide (w.va.toNat / 4096 < vpn + n))
  | .all => true

/-- A context whose unissued accesses are translated again. A G = 1 leaf matches every context, so `.va` affects all. -/
def ctxAffected (k : TlbiScope) (c : BitVec 12) : Bool :=
  match k with
  | .ctx d => c == d
  | .va _ _ _ | .all => true

/-- A part of an issued access, or a request of an engine, that has gone through an entry that is removed. -/
def partAffected (k : TlbiScope) (x : Part) : Bool := x.leaf.any (leafRemoved k)
def engAffected (k : TlbiScope) (q : EngReq) : Bool := q.leaf.any (leafRemoved k)

/-- An unissued access that had been translated, to be translated again before it issues (R460): a stream access by its
station, another by the store buffer. -/
def Access.retranslate (k : TlbiScope) (a : Access) : Access :=
  if !ctxAffected k a.block.ctx || a.fault.isSome then a
  else
    match a.phase with
    | .translating q => { a.restart with phase := .translating q }
    | .transit | .waiting => if isStream a.op then { a.restart with phase := .translating false } else { a with again := true }
    | .issued | .faulted => a

/-- A walk that a `tlbi` abandons waits for that one too. -/
def parkWalk (job : Nat) (w : Walk) : Walk :=
  { w with phase := .parked (match w.phase with
    | .parked l => job :: l
    | _ => [job]) }

/-- The removal on one plot by `tlbi` number `job` (R460). -/
def removeOn (k : TlbiScope) (job : Nat) (x : Plot) : Plot :=
  let gone := fun (r : Returned) => match r.result with
    | .leaf l => leafRemoved k l
    | .fault _ => false
  let lost := (x.walker.returned.filter gone).map (fun r => r.who)
  { x with
    accesses := x.accesses.map (fun a => if lost.contains (.access a.id) then { a.restart with phase := .translating false } else a.retranslate k)
    walker := { x.walker with
      walks := x.walker.walks.map (fun w => if walkAbandoned k w then parkWalk job w else w)
      returned := x.walker.returned.filter (fun r => !gone r)
      walkCache := x.walker.walkCache.filter (fun w => !walkRemoved k w)
      leafCache := x.walker.leafCache.filter (fun l => !leafRemoved k l)
      stations := x.walker.stations.filter (fun e => !leafRemoved k e.leaf) } }

/-- The removal on the whole device (R246, R460). -/
def removeEntries (s : State) (k : TlbiScope) (job : Nat) : State :=
  let s := { s with plots := s.plots.map (removeOn k job) }
  match k with
  | .ctx _ => s
  | .va _ _ _ | .all => dropRepAll s (fun _ => true)

/-- The issued accesses that a `tlbi` waits for, by plot and number (R460). -/
def affectedAccesses (s : State) (k : TlbiScope) : List (Nat × Nat) :=
  (List.range 36).flatMap (fun p => ((plotAt s p).accesses.filter (fun a =>
    a.phase == .issued && a.parts.any (fun x => !partDone x && partAffected k x))).map (fun a => (p, a.id))) ++
    (s.engReqs.filter (fun q => decide (q.plot < 36) && !q.done && engAffected k q)).map (fun q => (q.plot, q.id))

/-- What the operand names (R459): none where the VA is not valid. -/
def tlbiScope (mode : TlbiMode) (c : FireCtx) : Except FaultInfo (Option TlbiScope) := do
  let e0 ← natOperand c 0 0
  let n := lenAt c 0
  match mode with
  | .all =>
    require (n == 1) causePacketLength
    .ok (some .all)
  | .ctx =>
    require (n == 1 && decide (e0 ≤ 4095)) causePacketLength
    .ok (some (.ctx (BitVec.ofNat 12 e0)))
  | .va =>
    require (n == 2 || n == 3) causePacketLength
    let va ← natOperand c 0 1
    let count ← if n = 3 then natOperand c 0 2 else .ok 1
    require (decide (e0 ≤ 4095) && decide (1 ≤ count) && decide (count ≤ 512)) causePacketLength
    .ok (if va < 2 ^ 57 then some (.va (BitVec.ofNat 12 e0) (va / 4096) count) else none)

/-- `tlbi` (R459, R460). -/
def tlbiResult (mode : TlbiMode) (c : FireCtx) (m : MatchedSet) (s : State) : Except FaultInfo (State × List Send) := do
  privileged c
  let k ← tlbiScope mode c
  match k with
  | none => .ok (status c s 1)
  | some k =>
    let job := TlbiJob.mk s.nextId c.plot (heldOf c m) (affectedAccesses s k)
    let s := removeEntries s k s.nextId
    .ok ({ s with nextId := s.nextId + 1, tlbis := s.tlbis ++ [job] }, [])

def execTlbi (h : Head) (mode : TlbiMode) (s : State) : Result := fireHeld h (tlbiResult mode) s

/-- An access that a `tlbi` waits for has been performed at device scope. -/
def accessCleared (s : State) (x : Nat × Nat) : Bool :=
  match accessAt s x.1 x.2 with
  | some a => a.phase != .issued || a.parts.all partDone
  | none => (engAt s x.2).all (fun q => q.done)

/-- The walks of a plot that `tlbi` number `job` has abandoned start again, but those that another has too (R460); `fuel` bounds them. -/
def restartParked (job : Nat) : Nat → State → Nat → State
  | 0, s, _ => s
  | fuel + 1, s, p =>
    let held := fun (w : Walk) => match w.phase with
      | .parked l => l.contains job
      | _ => false
    match (plotAt s p).walker.walks.findIdx? held with
    | some i =>
      (match (plotAt s p).walker.walks[i]? with
      | some w =>
        let rest := match w.phase with
          | .parked l => l.filter (fun x => x != job)
          | _ => []
        restartParked job fuel (if rest.isEmpty then restartWalk s p i w else setWalk s p i (some { w with phase := .parked rest })) p
      | none => s)
    | none => s

/-- A withdrawn access that had issued through an entry that a `tlbi` removed translates again before it is sent to its home anew
(R217, R460). -/
def markWithdrawn (l : List (Nat × Nat)) (s : State) : State :=
  l.foldl (fun s x => modAccess s x.1 x.2 (fun a => if a.phase = .issued then a else { a with again := true })) s

/-- `tlbi` number `n` is complete: its status is sent, and the walks that it has abandoned start again. -/
def execTlbiComplete (s : State) : Result :=
  match s.cur with
  | .at _ n _ _ =>
    let s := { s with cur := .idle }
    match s.tlbis[n]? with
    | some j =>
      if j.accesses.all (accessCleared s) then
        let s := markWithdrawn j.accesses { s with tlbis := s.tlbis.eraseIdx n }
        let s := sendHeld s j.plot j.held (statusPacket 0)
        .next ((List.range 36).foldl (fun s p => restartParked j.id 8 s p) s)
      else .next s
    | none => .next s
  | _ => .next s

end Sys2Proof.Machine
end

