-- ==== Sys2Proof/Machine/Contexts.lean ====
section
/-! DEFINITION. Context commands (19_context.md R408, R409), time slices (R415 to R418), the handler's instructions (R431 to
R434), and `halt`, `rrec` and `minj` (R435, R436, R440). -/
namespace Sys2Proof.Machine

/-! ### Commands (R408, R409) -/

/-- The commands, in the order of OP (R408). -/
inductive Command where
  | create | start | resume | preempt | freeze | thaw | kill | release | record | replay | norecord
  deriving DecidableEq, Repr

/-- OP of a command. -/
def Command.code : Command → Nat
  | .create => 1
  | .start => 2
  | .resume => 3
  | .preempt => 4
  | .freeze => 5
  | .thaw => 6
  | .kill => 7
  | .release => 8
  | .record => 9
  | .replay => 10
  | .norecord => 11

/-- The command of an OP; 0 and 12 to 15 name none. -/
def commandOf (op : Nat) : Option Command :=
  [Command.create, .start, .resume, .preempt, .freeze, .thaw, .kill, .release, .record, .replay, .norecord].find?
    (fun k => k.code == op)

/-- The state table accepts a command (R409, R509). -/
def accepts (s : State) (c : BitVec 12) (k : Command) : Bool :=
  let x := ctxAt s c
  let stopped := x.phase == .loaded || x.phase == .saved
  c != headland &&
    (match k with
    | .create => x.phase == .free && areasSound (recordRegs s c)
    | .start => x.phase == .loaded
    | .resume => x.phase == .saved && (freeSlot s).isSome && areasSound (recordRegs s c) &&
        (x.recMode == .off || bufferSound (recordRegs s c))
    | .preempt | .freeze => x.phase == .running || x.phase == .preempting
    | .thaw => x.phase == .frozen
    | .kill => x.phase != .free && x.phase != .dead
    | .release => x.phase == .dead
    | .record | .replay => stopped && bufferSound (recordRegs s c)
    | .norecord => stopped)

/-- DLINE of every plot lowered to ICNT plus a grace (R415). -/
def grantGrace (s : State) (c : BitVec 12) (grace : Nat) : State :=
  modCtx s c (fun x => { x with counts := x.counts.map (fun k =>
    if k.icnt.toNat + grace < k.dline.toNat then { k with dline := BitVec.ofNat 48 (k.icnt.toNat + grace) } else k) })

/-- The record mode of a context (R437); a replay starts with no entry served. -/
def setMode (s : State) (c : BitVec 12) (m : RecMode) : State := modCtx s c (fun x => { x with recMode := m, served := [] })

/-- Kills a context: at once where nothing is resident, else through pre-emption (R409). -/
def killContext (s : State) (c : BitVec 12) : State :=
  if (ctxAt s c).phase = .running ∨ (ctxAt s c).phase = .preempting then requestStop s c 0 causeDeadline false true
  else enterDead s c

/-- A context as a CREATE makes it (R409). -/
def createContext (s : State) (c : BitVec 12) : State :=
  let s := removeEntries s (.ctx c) s.nextId
  modCtx s c (fun x => { Ctx.free with phase := .loaded, lastCmd := x.lastCmd, regs := recordRegs s c })

/-- A FREE context with its record rewritten, its reserved bytes 160 to 255 zero (R407). -/
def releaseContext (s : State) (c : BitVec 12) : State :=
  let s := writeRegs (modCtx s c (fun x => { Ctx.free with lastCmd := x.lastCmd })) c
  writeWords s (ctxRecord s c + 160) (List.replicate 12 0)

/-- The effect of a command that is accepted. -/
def runCommand (s : State) (c : BitVec 12) (grace : Nat) : Command → State
  | .create => createContext s c
  | .start => modCtx s c (fun x => { x with phase := .runnable, regs := recordRegs s c })
  | .resume =>
    (match freeSlot s with
    | some n => restoreContext s c n
    | none => s)
  | .preempt => if grace = 0 then requestStop s c flagPreempt causeDeadline false false else grantGrace s c grace
  | .freeze => requestStop s c flagFreeze causeDeadline true false
  | .thaw =>
    let s := modCtx (writeBack s c) c (fun x => { x with phase := .saved })
    if (ctxAt s c).flags.getLsbD 5 || (ctxAt s c).flags.getLsbD 6 then contextMessage s c else s
  | .kill => killContext s c
  | .release => releaseContext s c
  | .record => setMode s c .record
  | .replay => setMode s c .replay
  | .norecord => setMode s c .off

/-- The state with the last command of a context and whether it was refused (R407, R409). -/
def noteCommand (s : State) (c : BitVec 12) (k : Command) (refused : Bool) : State :=
  modCtx s c (fun x => { x with lastCmd := BitVec.ofNat 4 k.code, refused := refused })

/-- A command served (R408): the state, and whether it was accepted. -/
def command (s : State) (c : BitVec 12) (k : Command) (grace : Nat) : State × Bool :=
  let ok := accepts s c k
  let s := noteCommand s c k (!ok)
  (writeState (if ok then runCommand s c grace k else s) c, ok)

/-- A write to CTXCTL (R408). -/
def writeCtxctl (s : State) (v : Word) : State :=
  match commandOf (v.extractLsb' 16 4).toNat with
  | some k => (command s (v.extractLsb' 0 12) k (v.extractLsb' 24 24).toNat).1
  | none => s

/-- A command that reaches die 0 for context `n`, with the grace `m`, of 24 bits (R408). -/
def commandEvent (k : Command) (s : State) : Result :=
  match s.cur with
  | .at _ n m _ => .next (command { s with cur := .idle } (BitVec.ofNat 12 n) k (m % 2 ^ 24)).1
  | _ => .next s

def execCreate (s : State) : Result := commandEvent .create s
def execStart (s : State) : Result := commandEvent .start s
def execResume (s : State) : Result := commandEvent .resume s
def execPreempt (s : State) : Result := commandEvent .preempt s
def execFreeze (s : State) : Result := commandEvent .freeze s
def execThaw (s : State) : Result := commandEvent .thaw s
def execKill (s : State) : Result := commandEvent .kill s
def execRelease (s : State) : Result := commandEvent .release s
def execRecord (s : State) : Result := commandEvent .record s
def execReplay (s : State) : Result := commandEvent .replay s
def execNorecord (s : State) : Result := commandEvent .norecord s

/-! ### Idle contexts, expiry and stalls (R409, R416, R417) -/

/-- A group of a context is QUEUED or on the device (R409). -/
def hasGroup (s : State) (c : BitVec 12) : Bool :=
  s.ready.any (fun l => l.any (fun e => e.ctx == c)) || (List.range 36).any (fun p => ctxOnPlot s p c)

/-- A counted firing has passed the deadline on some plot and its request is to come. -/
def requestPending (x : Ctx) : Bool := x.phase == .preempting || x.counts.any (fun k => k.late.isSome)

/-- A RUNNING context without groups becomes RUNNABLE (R409). -/
def idleContext (s : State) (c : BitVec 12) : State :=
  let s := (List.range 36).foldl (fun s p => clearStations s p c) (writeRegs (flushWrites s c) c)
  writeState (modCtx s c (fun x => { x with phase := .runnable, slot := none, idle := 0 })) c

/-- Context `n` has been without a group for 4,096 plot cycles. -/
def execContextIdle (s : State) : Result :=
  match s.cur with
  | .at _ n _ _ =>
    let s := { s with cur := .idle }
    let c := BitVec.ofNat 12 n
    let x := ctxAt s c
    if x.phase = .running ∧ 4096 ≤ x.idle ∧ hasGroup s c = false ∧ requestPending x = false then .next (idleContext s c)
    else .next s
  | _ => .next s

/-- The request of an expiry on a plot: cooperative where a `yld` passed the deadline (R416). While the context is
PREEMPTING it adds nothing (R418). -/
def expire (s : State) (p : Nat) (c : BitVec 12) : State :=
  match ((ctxAt s c).counts.getD p (freshSlice 0)).late with
  | none => s
  | some yielded =>
    let s := modCount s c p (fun k => { k with late := none })
    if (ctxAt s c).phase = .running then
      writeState (if yielded then requestStop s c flagYield 0 false false else requestStop s c flagDeadline causeDeadline false false) c
    else s

/-- Plot `p`, context `n`. -/
def execExpiry (s : State) : Result :=
  match s.cur with
  | .at p n _ _ => .next (expire { s with cur := .idle } p (BitVec.ofNat 12 n))
  | _ => .next s

/-- A group of a context is live on a plot (R341). -/
def liveOn (s : State) (p : Nat) (c : BitVec 12) : Bool :=
  (List.range 8).any (fun n => match groupAt s p (BitVec.ofNat 3 n) with
    | some g => g.ctx == c && groupLive s p (BitVec.ofNat 3 n) g
    | none => false)

/-- Context `n` stalls on plot `p` (R417). -/
def execStall (s : State) : Result :=
  match s.cur with
  | .at p n _ _ =>
    let s := { s with cur := .idle }
    let c := BitVec.ofNat 12 n
    let x := ctxAt s c
    if x.phase = .running ∧ (regsOn s c p).stl ≠ 0 ∧ (regsOn s c p).stl.toNat < (x.counts.getD p (freshSlice 0)).idle ∧ liveOn s p c = true then
      .next (writeState (requestStop s c flagStall causeDeadline false false) c)
    else .next s
  | _ => .next s

/-! ### yld (R418) -/

/-- The expiry that this `yld` has made, if any, is its own (R416). -/
def ownExpiry (c : FireCtx) (s : State) : State :=
  modCount s c.block.ctx c.plot (fun k => if k.late.isSome ∧ k.icnt.toNat = k.dline.toNat + 1 then { k with late := some true } else k)

/-- `yld`: the value of ICNT that counts it stands in the counter already. -/
def yldResult (c : FireCtx) (s : State) : Except FaultInfo (State × List Send) :=
  let x := ctxAt s c.block.ctx
  let k := x.counts.getD c.plot (freshSlice 0)
  if k.dline.toNat ≤ k.icnt.toNat ∨ requestPending x = true then
    .ok (writeState (requestStop (ownExpiry c s) c.block.ctx flagYield 0 false false) c.block.ctx, emit c (statusPacket 1))
  else .ok (s, emit c (statusPacket 0))

def execYld (h : Head) (s : State) : Result := throughPort s (fireWith h ownExpiry yldResult s)

/-! ### trap (R431) -/

/-- The fault of a `trap`: its word 1 is element 0 of the value (R426). -/
def trapFault (c : FireCtx) (code : BitVec 7) : FaultInfo :=
  FaultInfo.mk (1#1 ++ code) 0 (packetSlot (wideTag (packetAt c 0).fmt) c.fresh (packetAt c 0) 0)

/-- `trap` (R431): its set is kept, to be completed by `hres`. -/
def execTrap (h : Head) (code : BitVec 7) (s : State) : Result :=
  match s.cur with
  | .firing p b m =>
    let c := fireCtxOf s p b m h
    match predicateOf c with
    | none => .next (faultSet s c m (causeOnly causeFormat))
    | some false => .next (consume s p b m)
    | some true =>
      let (s', taken) := deliverFault { s with cur := .idle, fresh := s.fresh + 64 } p c.env.gslot (trapFault c code)
        (0#1 ++ m.slot) b c.env (.trap b m h)
      .next (if taken then takeSet s' p b m else s')
  | _ => .next s

/-! ### hcse, hres and hkil (R432 to R434) -/

/-- The cause slots of the firing's group. -/
def causesOf (s : State) (c : FireCtx) : List CauseSlot := ((groupAt s c.plot c.env.gslot).map (fun g => g.causes)).getD []

/-- Cause slot `n` of the firing's group; FREE where there is none, and for n > 3 (R432). -/
def causeAt (s : State) (c : FireCtx) (n : Nat) : CauseSlot :=
  if 3 < n then CauseSlot.empty else (causesOf s c).getD n CauseSlot.empty

/-- The state with cause slot `n` changed. -/
def setCause (s : State) (c : FireCtx) (n : Nat) (x : CauseSlot) : State :=
  modGroup s c.plot c.env.gslot (fun g => { g with causes := g.causes.set n x })

/-- `hcse` (R432). -/
def hcseResult (c : FireCtx) (s : State) : Except FaultInfo (State × List Send) := do
  let n ← natOperand c 0 0
  let x := causeAt s c n
  let r := x.record
  let s := if x.state = .free then s else setCause s c n { x with state := .read }
  .ok (s, emit c (mkPacket 0x04 (if x.state = .free then [0, 0, 0, 0] else [r.w0, r.w1, r.w2, r.w3])))

def execHcse (h : Head) (s : State) : Result := fireState h hcseResult s

/-- A station without its translation entry. -/
def clearStation (s : State) (p : Nat) (b : BlockId) (slot : BitVec 7) : State :=
  modWalker s p (fun w => { w with stations := w.stations.filter (fun x => !(x.block == b && x.slot == slot)) })

/-- An access that its handler resumes (R215, R216, R231, R433): it is translated and issued again from the beginning. One that has its
place in the wave is issued again for the parts that have not been performed, and keeps their addresses for its gates meanwhile;
one whose operands are at fault takes its fault again. The translation is fresh: a walk, from level 1 or the walk cache (R451). -/
def reissue (s : State) (p id : Nat) : State :=
  match accessAt s p id with
  | none => s
  | some a =>
    if a.withdrawn then
      putAccess s p { a with parts := a.parts.map (againPart a.op), phase := .waiting, fault := none, again := true }
    else if a.parts.isEmpty && a.op != .fence then tryStream (putAccess s p { a with phase := .waiting }) p id
    else advance (clearStation (putAccess s p { a.restart with phase := .translating false, fault := none, fresh := true }) p a.block a.set.slot) p id

/-- An access that is discarded: a wave access passes its wave position as `mnop` does, a stream access is gone (R201,
R231, R433). -/
def dropAccess (s : State) (p id : Nat) : State :=
  if (accessAt s p id).any (fun a => isStream a.op) then removeAccess s p id
  else modAccess s p id (fun a => { a with op := .mnop, parts := [], phase := .waiting, fault := none, freed := false, again := false })

/-- The instruction of a set is of the wave class: its set has a wave position (R66). -/
def waveClass : Instr → Bool
  | .ld _ _ | .st _ _ | .lds _ _ | .stf _ _ | .clre _ _ | .mnop _ _ | .fence _ _ | .atom _ _ | .red _ _ | .pref _ _ |
    .cctl _ _ | .ldg _ _ | .sts _ _ => true
  | _ => false

/-- A kept set discarded: one with a wave position passes it (R201, R433). -/
def discardSet (s : State) (p : Nat) (b : BlockId) (m : MatchedSet) : State :=
  match instrAt s p b m.slot with
  | some i =>
    (match head? i with
    | some h =>
      if waveClass i then
        let a := accessOf s (fireCtxOf s p b m h) m .mnop 0 (plainXf .normal false .none)
        advance (addAccess s p a) p a.id
      else s
    | none => s)
  | none => s

/-- The token that completes a `trap` (R431). -/
def completeTrap (s : State) (p : Nat) (b : BlockId) (m : MatchedSet) (h : Head) : State :=
  let c := fireCtxOf s p b m h
  countSet (sendAll s p b (emit c (passed c 0))) p b.ctx false

/-- What a cause slot keeps is handled as DROP selects (R433). -/
def resolveKept (s : State) (p : Nat) (drop : Bool) : Kept → State
  | .nothing => s
  | .set b m => if drop then discardSet s p b m else modCopy s p b (fun x => { x with ready := m :: x.ready })
  | .trap b m h => if drop then s else completeTrap s p b m h
  | .access id => if drop then dropAccess s p id else reissue s p id
  | .entry b t => if drop then s else sendEntry s .entry p b t.slot t.port t.tok
  | .copy id =>
    let s := modPlot s p (fun x => { x with copyQueues := x.copyQueues.map (fun q =>
      if drop then q.filter (fun r => r.id != id) else q.map (fun r => if r.id = id then { r with faulted := false } else r)) })
    if drop then kickUnit s p else s
  | .row b slot =>
    pullPort (if drop then modTile s p (tileOf s p b) (fun t => setPort t slot ((portRows t slot).drop 1)) else s) p b slot

/-- `hres` (R433). -/
def hresResult (drop : Bool) (c : FireCtx) (s : State) : Except FaultInfo (State × List Send) := do
  let n ← natOperand c 0 0
  let x := causeAt s c n
  if x.state ≠ .read then .ok (status c s 1)
  else
    let s := settleWords (resolveKept (setCause s c n CauseSlot.empty) c.plot drop x.kept) c.plot
    if (causesOf s c).all (fun k => k.state == .free) then
      let s := modGroup s c.plot c.env.gslot (fun g => if g.phase = .stopped then { g with phase := .running } else g)
      .ok (status c (resumePlot s c.plot) 0)
    else .ok (status c s 0)

def execHres (h : Head) (drop : Bool) (s : State) : Result := fireState h (hresResult drop) s

/-- `hkil` (R434). -/
def hkilResult (c : FireCtx) (s : State) : Except FaultInfo (State × List Send) := do
  let n ← natOperand c 0 0
  let x := causeAt s c n
  if x.state = .read then .ok (dropOrphans (killGroup s c.plot c.env.gslot (x.record.w0.extractLsb' 0 8)), [])
  else .ok (s, [])

def execHkil (h : Head) (s : State) : Result := fireState h hkilResult s

/-! ### halt and rrec (R435, R440) -/

/-- A command that the fabric makes for the context that a number names; a number above 4,095 names none and the command
is refused. -/
def commandFor (s : State) (n : Nat) (k : Command) (grace : Nat) : State × Nat :=
  if n < 4096 then
    let (s, ok) := command s (BitVec.ofNat 12 n) k grace
    (s, if ok then 0 else 1)
  else (s, 1)

/-- `halt` (R435). -/
def haltResult (op : HaltOp) (c : FireCtx) (s : State) : Except FaultInfo (State × List Send) := do
  privileged c
  let n ← natOperand c 0 0
  require (lenAt c 0 == (if op = .preempt then 2 else 1)) causePacketLength
  let grace ← if op = .preempt then natOperand c 0 1 else .ok 0
  let (s, r) := commandFor s n (match op with
    | .preempt => .preempt
    | .freeze => .freeze
    | .kill => .kill) grace
  .ok (status c s r)

def execHalt (h : Head) (op : HaltOp) (s : State) : Result := fireState h (haltResult op) s

/-- The number of a record mode (R440). -/
def modeCode : RecMode → Nat
  | .off => 0
  | .record => 1
  | .replay => 2

/-- (mode, RECPOS) of the context that a number names. For a number above 4,095 both are free values. -/
def recordStatus (s : State) (n : Nat) : List Word :=
  if n < 4096 then
    let c := BitVec.ofNat 12 n
    [BitVec.ofNat 64 (modeCode (ctxAt s c).recMode), (heldRegs s c).recpos]
  else [Config.freeWord s.fresh, Config.freeWord (s.fresh + 1)]

/-- `rrec` (R440). -/
def rrecResult (op : RrecOp) (c : FireCtx) (s : State) : Except FaultInfo (State × List Send) := do
  privileged c
  let n ← natOperand c 0 0
  let run := fun (k : Command) =>
    let (s, r) := commandFor s n k 0
    status c s r
  match op with
  | .norecord => .ok (run .norecord)
  | .record => .ok (run .record)
  | .replay => .ok (run .replay)
  | .status => .ok ({ s with fresh := s.fresh + 2 }, emit c (mkPacket 0x04 (recordStatus s n)))

def execRrec (h : Head) (op : RrecOp) (s : State) : Result := fireState h (rrecResult op) s

/-! ### minj (R436) -/

/-- An element of an accumulator's data or of a checksum changed under a mask. -/
def injectAcc (k : InjKind) (x : Acc) (i j mask : Nat) : Acc :=
  let flip := fun (v : Vec32) (n : Nat) => vecSet v n (vecGet v n ^^^ mask % 2 ^ 32)
  match k with
  | .dat => setAccData x i (flip (accData x i) j)
  | .ccol => { x with cc := flip x.cc i }
  | .crow => { x with cr := flip x.cr j }
  | .ecc1 | .ecc2 => x

/-- `minj` of an accumulator kind. -/
def minjAcc (k : InjKind) (c : FireCtx) (s : State) : Except FaultInfo (State × List Send) := do
  let h ← handleAt c s
  require (lenAt c 1 == 3) causePacketLength
  let i ← natOperand c 1 0
  let j ← natOperand c 1 1
  let mask ← natOperand c 1 2
  match h with
  | none => .ok (status c s 1)
  | some h =>
    let x := handleAcc s c.plot h
    if 64 ≤ i ∨ 64 ≤ j ∨ x.st = .empty then .ok (status c s 1)
    else .ok (status c (putAcc s c.plot h.tile h.acc (injectAcc k x i j mask)) 0)

/-- `minj` of a memory kind: the mark of a word. -/
def minjWord (uncorrectable : Bool) (c : FireCtx) (s : State) : Except FaultInfo (State × List Send) := do
  let v ← natOperand c 0 0
  let _ ← natOperand c 1 0
  require (lenAt c 1 == 1) causePacketLength
  let va := BitVec.ofNat 64 v
  if vaValid va = false then .error (faultAt causeTrInvalid 0 va)
  else if v % 8 ≠ 0 then .error (faultAt causeAlign 0 va)
  else
    let (s, pa, l) ← engineTranslate s c.plot c.block.ctx va .store
    if rangeOf pa = .hbm ∨ rangeOf pa = .window then
      let marks := EccMark.mk (pa / 8) uncorrectable :: s.mem.marks.filter (fun m => m.word != pa / 8)
      .ok (status c { s with mem := { s.mem with marks := marks } } 0)
    else .error (faultAt causeTrAttr (leafLevel l) va)

/-- `minj` (R436). -/
def minjResult (k : InjKind) (c : FireCtx) (s : State) : Except FaultInfo (State × List Send) := do
  require (c.block.ctx == headland || (regsOn s c.block.ctx c.plot).cfg.getLsbD 2) causePrivilege
  match k with
  | .dat | .ccol | .crow => minjAcc k c s
  | .ecc1 => minjWord false c s
  | .ecc2 => minjWord true c s

/-- The walk for the word that a `minj` names, which stands though the page is refused (R452). -/
def minjWalk (c : FireCtx) (e : FaultInfo) (s : State) : State :=
  if translationCause e then walked s c.plot c.block.ctx .store [e.word1] else s

def execMinj (h : Head) (kind : InjKind) (s : State) : Result := fireWalks h minjWalk (fun c _ s => minjResult kind c s) s

end Sys2Proof.Machine
end

