-- ==== Sys2Proof/Machine/Furrow.lean ====
section
/-! DEFINITION. The furrow (21_furrow.md): readings and balance control, metering, boost permits, thermal and rack limits,
the guard, and `pwrq` and `imtr`. Currents, voltages, power and temperatures are inputs of the steps (assumption 12). -/
namespace Sys2Proof.Machine

/-! ### Furrows -/

/-- The state with a furrow changed. -/
def modFurrow (s : State) (f : Nat) (g : Furrow → Furrow) : State := { s with furrows := s.furrows.modify f g }

/-- The plot of a furrow, 32 to 35 for the headlands; and its tiles there, by position (R14). -/
def furrowPlot (f : Nat) : Nat := if f < 128 then f / 4 else f - 96
def furrowTiles (f : Nat) : List Nat := (List.range 4).map (fun n => if f < 128 then 4 * (f % 4) + n else n)

/-- The furrows of a plot or a headland. -/
def furrowsOf (p : Nat) : List Nat := if p < 32 then (List.range 4).map (fun f => 4 * p + f) else [96 + p]

/-- STATE of a furrow: the first condition that holds (R467). -/
def furrowState (s : State) (f : Nat) : Nat :=
  let x := furrowAt s f
  if x.guarded then 5
  else match x.supply with
    | .stepdown => 4
    | .boost => 3
    | .nominal => if mstepOf s f ≠ 0 then 2 else if x.fil then 1 else 0

/-- FIMB of a furrow (R465). -/
def fimb (s : State) (f : Nat) : Word :=
  let x := furrowAt s f
  let m := mstepOf s f
  BitVec.ofNat 64 (furrowState s f * 2 ^ 48 + m * 2 ^ 45 + natOfBool (x.supply != .nominal) * 2 ^ 44 +
    natOfBool (m != 0) * 2 ^ 43 + natOfBool x.fil * 2 ^ 42 + x.sat.toNat * 2 ^ 36 + x.n3.toNat * 2 ^ 24 +
    x.n2.toNat * 2 ^ 12 + x.n1.toNat)

/-- FVLT of a furrow (R466). -/
def fvlt (s : State) (f : Nat) : Word :=
  let x := furrowAt s f
  BitVec.ofNat 64 ((List.range 4).foldl (fun t i => t + (x.volts.getD i 0).toNat * 2 ^ (10 * i)) 0)

/-! ### Balance control (R469, R470) -/

/-- The currents of the tiles of a furrow, relative to tile 0, from its mismatches (R464). -/
def currents (x : Furrow) : List Int :=
  [0, x.n1.toInt, x.n1.toInt + x.n2.toInt, x.n1.toInt + x.n2.toInt + x.n3.toInt]

/-- The first position with the least value, and the first with the greatest. -/
def leastAt (l : List Int) : Nat := (List.range l.length).foldl (fun m i => if l.getD i 0 < l.getD m 0 then i else m) 0
def greatestAt (l : List Int) : Nat := (List.range l.length).foldl (fun m i => if l.getD m 0 < l.getD i 0 then i else m) 0

/-- Every mismatch is at most 400 mA. -/
def nearBalance (x : Furrow) : Bool := [x.n1, x.n2, x.n3].all (fun n => decide (n.toInt.natAbs ≤ 400))

/-- The readings of a window in its nine numbers: N1 to N3, SAT, V0 to V3, and whether every tile lies in the band. -/
def takeReadings (v : List Nat) (x : Furrow) : Furrow :=
  { x with
    n1 := BitVec.ofNat 12 (v.getD 0 0), n2 := BitVec.ofNat 12 (v.getD 1 0), n3 := BitVec.ofNat 12 (v.getD 2 0)
    sat := BitVec.ofNat 3 (v.getD 3 0)
    volts := (List.range 4).map (fun i => BitVec.ofNat 10 (v.getD (4 + i) 750))
    inBand := v.getD 8 1 != 0, windows := x.windows + 1 }

/-- The counts of consecutive windows after one more. -/
def countWindow (x : Furrow) : Furrow :=
  let overCap := x.sat != 0
  { x with
    satRun := if overCap then x.satRun + 1 else 0
    clearRun := if overCap then 0 else x.clearRun + 1
    quietRun := if x.fil && nearBalance x then x.quietRun + 1 else 0
    filRun := if x.fil then x.filRun + 1 else 0
    sinceRaise := x.sinceRaise + 1 }

/-- FIL and its filler tile (R469). -/
def balanceFil (x : Furrow) : Furrow :=
  if x.fil then (if 16 ≤ x.quietRun then { x with fil := false, quietRun := 0, filRun := 0 } else x)
  else if 4 ≤ x.satRun then { x with fil := true, filler := leastAt (currents x), quietRun := 0, filRun := 0 }
  else x

/-- BSTEP (R469): raised at most once per 16 windows, lowered in each window that ends 64 consecutive clear ones. A headland tile has
no matrix engine. -/
def balanceStep (headland : Bool) (x : Furrow) : Furrow :=
  let x := if x.sat ≠ 0 ∧ (32 ≤ x.filRun ∨ (headland = true ∧ x.fil = true)) ∧ 16 ≤ x.sinceRaise then
      { x with bstep := min 7 (x.bstep + 1), sinceRaise := 0 }
    else x
  let x := if 64 ≤ x.clearRun then { x with bstep := x.bstep - 1 } else x
  { x with highRun := if 4 ≤ x.bstep then x.highRun + 1 else 0 }

/-- The migration that a furrow asks for (R470). -/
def askMove (s : State) (f : Nat) : State :=
  let p := furrowPlot f
  match copyOnTile s p ((furrowTiles f).getD (greatestAt (currents (furrowAt s f))) 0) with
  | some k =>
    (match bestTile s p k.load (freeTiles s p) with
    | some t =>
      if k.phase = .resident ∧ migrating s p = false ∧ tileScore s p k.tile k.load < tileScore s p t k.load then
        modBlocks s p (fun u => { u with request := some (MoveRequest.mk k.id t) })
      else s
    | none => s)
  | none => s

/-- One window of a furrow. A headland furrow asks for no migration: its destination would be no compute tile (R470). -/
def furrowWindow (s : State) (f : Nat) (v : List Nat) : State :=
  let s := modFurrow s f (fun x => balanceStep (decide (128 ≤ f)) (balanceFil (countWindow (takeReadings v x))))
  if f < 128 ∧ 256 ≤ (furrowAt s f).highRun then askMove s f else s

/-- The sampling window of plot `p` ends, once 64 plot cycles have passed since the last; `v` holds the nine numbers of
each furrow in order (R466, R467). -/
def execSamplingWindow (s : State) : Result :=
  match s.cur with
  | .at p _ _ v =>
    let s := { s with cur := .idle }
    let fs := furrowsOf p
    if p < 36 ∧ fs.all (fun f => decide ((furrowAt s f).windows < s.cycles / 64)) = true then
      .next ((fs.zip (List.range 4)).foldl (fun s x => furrowWindow s x.1 (v.drop (9 * x.2))) s)
    else .next s
  | _ => .next s

/-! ### The interval boundary (R468, R473, R474) -/

/-- CSTEP after an interval with an average power in mW (R474). -/
def nextCstep (w : Power) (mw : Nat) : Nat :=
  if w.cap.toNat * 1000 < mw then min 7 (w.cstep + 1)
  else if 100 * mw < 95 * (w.cap.toNat * 1000) then w.cstep - 1
  else w.cstep

/-- The furrows of a requester: those of a plot, or of a headland (R473). -/
def requesterDie (r : Nat) : Nat := if r < 32 then r / 8 else r - 32

/-- A furrow may receive a permit (R473). -/
def mayBoost (s : State) (f : Nat) : Bool :=
  let x := furrowAt s f
  let d := requesterDie (furrowPlot f)
  decide (0 < x.req) && !x.guarded && mstepOf s f == 0 && s.power.cstep == 0 && !((thermalAt s d).thresholds.any trippedNow)

/-- The walk of the grants: the state, the furrows granted, and the last requester granted. -/
def grantOne (a : State × List Nat × Option Nat) (r f : Nat) : State × List Nat × Option Nat :=
  let (s, fs, last) := a
  if 0 < s.power.free ∧ mayBoost s f = true then
    let s := modFurrow { s with power := { s.power with free := s.power.free - 1 } } f (fun x => { x with req := x.req - 1 })
    (s, fs ++ [f], some r)
  else (s, fs, last)

def grantWalk (s : State) : State × List Nat × Option Nat :=
  ((List.range 36).map (fun i => (s.power.start + i) % 36)).foldl (fun a r =>
    (furrowsOf r).foldl (fun a f => grantOne a r f) a) (s, [], none)

/-- The supply of a furrow after a boundary (R468). -/
def nextSupply (granted : Bool) (x : Furrow) : Furrow :=
  if x.guarded then x
  else { x with supply := if granted then .boost else if x.supply = .boost then .stepdown else .nominal }

/-- A boundary after an interval of average power `mw`: CSTEP and the thermal steps come first (assumption 33). The permits HELD
are spent with the grants of the last one: a furrow holds a permit exactly while its supply is raised by it. -/
def boundary (s : State) (mw : Nat) : State :=
  let w := s.power
  let k := w.intervals + 1
  let refill := decide (k % 8 = 0) && decide (mw < w.rthr.toNat * 1000) && decide (w.free < 64)
  let s := { s with
    power := { w with intervals := k, boundaryAt := some s.cycles, cstep := nextCstep w mw, free := if refill then w.free + 1 else w.free }
    thermal := (s.thermal.zip (List.range 4)).map (fun x => { x.1 with imposed := thermalStep s x.2 }) }
  let (s, granted, last) := grantWalk s
  let s := match last with
    | some r => { s with power := { s.power with start := (r + 1) % 36 } }
    | none => s
  { s with furrows := (s.furrows.zip (List.range 132)).map (fun x => nextSupply (granted.contains x.2) x.1) }

/-- The next 25 µs boundary of the die-0 timer, where the average power of the ending interval is `n` mW. -/
def execIntervalBoundary (s : State) : Result :=
  match s.cur with
  | .at _ n _ _ =>
    let s := { s with cur := .idle }
    if s.power.intervals < s.timers.getD 0 0 / 2500 then .next (boundary s n) else .next s
  | _ => .next s

/-! ### The guard (R477) -/

/-- The sets of a block that the units of its plot hold. -/
def heldSets (s : State) (p : Nat) (b : BlockId) : List Held :=
  let u := (plotAt s p).unit
  (u.waiters.map (fun w => w.held) ++ u.barWaiters.map (fun w => w.held) ++ u.refused.map (fun w => w.held) ++
    u.channels.flatMap (fun k => k.waiters.map (fun w => w.held)) ++ u.adds.map (fun w => w.held) ++
    u.joins.map (fun w => w.held)).filter (fun h => h.block == b)

/-- The envelopes of the rows and sets that a matrix engine holds. -/
def tileEnvs (t : Tile) : List Envelope :=
  t.ports.flatMap (fun q => q.rows.map (fun r => r.env)) ++ (t.stage0 ++ t.stage1).map (fun r => r.row.env) ++
    t.array.map (fun r => r.row.env) ++ (t.switch.toList ++ t.latches).map (fun x => heldEnv x.held) ++
    t.gather.toList.map (fun g => heldEnv g.held) ++ t.repeats.flatMap (fun r => r.buffer.map (fun x => x.env) ++
      r.job.toList.map (fun j => heldEnv j.held)) ++
    t.fillers.map (fun f => heldEnv f.held) ++ t.jobs.map (fun j => heldEnv j.held) ++
    t.accs.flatMap (fun a => a.2.check.toList.map (fun k => heldEnv k.held))

/-- The groups with a token or a run in a copy. -/
def groupsIn (s : State) (p : Nat) (k : Copy) : List (BitVec 3) :=
  let t := tileAt s p (firingTile k)
  (k.buffer ++ k.spilled).map (fun x => x.tok.env.gslot) ++ k.waiting.map (fun x => x.tok.env.gslot) ++ k.ready.map setSlot ++
    (heldSets s p k.id).map (fun h => (heldEnv h).gslot) ++ (tileEnvs t).map (fun e => e.gslot) ++
    (t.accs.filter (fun a => !accIdle a.2)).map (fun a => a.2.gslot)

/-- FURROW_GUARD delivered to a group: no set is kept (R477). -/
def reportGuard (s : State) (p f : Nat) (b : BlockId) (g : BitVec 3) : State :=
  match groupAt s p g with
  | some x =>
    if x.ctx = b.ctx then
      (deliverTo s p g x false (FaultInfo.mk causeFurrowGuard 0 (BitVec.ofNat 64 f)) 0 b noEnv .nothing).1
    else s
  | none => s

/-- The block copies on the tiles of a furrow. -/
def furrowCopies (s : State) (f : Nat) : List Copy :=
  (plotAt s (furrowPlot f)).blocks.copies.filter (fun k => (furrowTiles f).any (fun t => holdsTile t k))

/-- The firings in issue on a furrow have completed: its matrix engines are at a row boundary, pushes, comparisons and writes in
progress are done, and no PE is busy (R313, R333, R477). -/
def furrowQuiet (s : State) (f : Nat) : Bool :=
  let p := furrowPlot f
  (furrowCopies s f).all (fun k => !tileRuns (tileAt s p (firingTile k)) && (plotAt s p).iterative.all (fun y => y.block != k.id))

/-- The tiles of a furrow cleared, and each group of their copies told (R477). -/
def clearFurrow (s : State) (f : Nat) : State :=
  let p := furrowPlot f
  let ks := furrowCopies s f
  let gs := (ks.flatMap (fun k => (groupsIn s p k).map (fun g => (k.id.ctx, g)))).eraseDups
  let firsts := gs.filterMap (fun x => (ks.find? (fun k => k.id.ctx == x.1 && (groupsIn s p k).contains x.2)).map
    (fun k => (k.id, x.2)))
  let s := ks.foldl (fun s k => offTile s p k) (modFurrow s f (fun x => { x with clearing := false }))
  (firsts.mergeSort (fun a b => decide (a.2.toNat ≤ b.2.toNat))).foldl (fun s x => reportGuard s p f x.1 x.2) s

/-- A furrow whose guard has tripped is cleared once its firings in issue have completed. -/
def clearQuiet (s : State) (f : Nat) : State := if furrowQuiet s f then clearFurrow s f else s

/-- The guard of furrow `n` trips: it stops, its supply is nominal, its permit spent, and its tiles are cleared, at once or, where
firings are in issue, when the step is named again. A trip takes effect before a boundary of the same plot cycle (R8, R468): the
schedule that names them the other way about has no trip. -/
def execGuardTrip (s : State) : Result :=
  match s.cur with
  | .at _ n _ _ =>
    let s := { s with cur := .idle }
    if 132 ≤ n then .next s
    else if (furrowAt s n).clearing then .next (clearQuiet s n)
    else if (furrowAt s n).guarded ∨ s.power.boundaryAt = some s.cycles then .next s
    else .next (clearQuiet (modFurrow s n (fun x => { x with
      guarded := true, clearing := true, supply := .nominal, req := 0, inBand := false, fil := false, quietRun := 0, filRun := 0 })) n)
  | _ => .next s

/-! ### Thresholds (R475) -/

/-- A dwell of 4 ms since the last change has passed. -/
def dwellOver (now : Nat) (t : Threshold) : Bool := match t.changed with
  | some n => decide (n + 400000 ≤ now)
  | none => true

/-- The crossing of a threshold that holds at a temperature: it trips, or it releases. -/
def crosses (temp : Nat) (t : Threshold) : Bool :=
  t.en && (if t.tripped then decide (temp + 8 ≤ t.temp.toNat) else decide (t.temp.toNat ≤ temp))

/-- A crossing takes effect outside the dwell. -/
def crossNow (now temp : Nat) (allow : Threshold → Bool) (t : Threshold) : Threshold :=
  if allow t && crosses temp t && dwellOver now t then { t with tripped := !t.tripped, changed := some now } else t

/-- The hottest sensor of die `p` reads `m`, and threshold `n` changes where its rule lets it. -/
def thermalEvent (allow : Threshold → Bool) (s : State) : Result :=
  match s.cur with
  | .at p n m _ =>
    let s := { s with cur := .idle }
    .next { s with thermal := s.thermal.modify p (fun d => { d with
      temp := BitVec.ofNat 11 m
      thresholds := d.thresholds.modify n (crossNow (s.timers.getD p 0) (m % 2048) allow) }) }
  | _ => .next s

def execThresholdTrip (s : State) : Result := thermalEvent (fun t => !t.tripped) s
def execThresholdRelease (s : State) : Result := thermalEvent (fun t => t.tripped) s

/-- A dwell ends, and a crossing that still holds takes effect. -/
def execDwellEnd (s : State) : Result := thermalEvent (fun t => t.changed.isSome) s

/-! ### Rack caps (R476) -/

/-- A rack cap message judged (R476). -/
def rackMessage (now : Nat) (w : Power) (v : Word) : Power :=
  let seq := v.extractLsb' 0 32
  let cap := BitVec.ofNat 16 (min (max (v.extractLsb' 32 16).toNat 600) 1800)
  let take := { w with last := some seq, cap := cap, src := 1, lease := some now, acc := w.acc + 1 }
  match w.last with
  | none => take
  | some l =>
    let d := (seq - l).toNat
    if d = 0 then { w with dup := w.dup + 1 }
    else if 2 ^ 31 ≤ d then { w with old := w.old + 1 }
    else if d = 1 then take
    else { take with gap := w.gap + 1 }

/-- A write of `n` to offset 0x3010 of BAR 2. -/
def execRackCapMessage (s : State) : Result :=
  match s.cur with
  | .at _ n _ _ =>
    .next { s with cur := .idle, power := rackMessage (s.timers.getD 0 0) s.power (BitVec.ofNat 64 n) }
  | _ => .next s

/-- A lease of 10,000,000 ticks ends without a newer message. -/
def execLeaseExpiry (s : State) : Result :=
  match s.cur with
  | .at _ _ _ _ =>
    let s := { s with cur := .idle }
    match s.power.lease with
    | some t =>
      if t + 10000000 ≤ s.timers.getD 0 0 then
        .next { s with power := { s.power with cap := s.power.fallback, src := 2, lease := none } }
      else .next s
    | none => .next s
  | _ => .next s

/-! ### pwrq and imtr (R478, R479) -/

/-- The furrows that FMASK names from a plot: on a headland tile only bit 0 is used. -/
def maskFurrows (p : Nat) (fmask : BitVec 4) : List (Nat × Nat) :=
  ((furrowsOf p).zip (List.range 4)).filter (fun x => fmask.getLsbD x.2)

/-- `pwrq` (R478). -/
def pwrqResult (can : Bool) (fmask : BitVec 4) (c : FireCtx) (s : State) : Except FaultInfo (State × List Send) := do
  let n ← if can then .ok 0 else natOperand c 0 0
  let fs := (maskFurrows c.plot fmask).filter (fun x => !(furrowAt s x.1).guarded)
  let s := fs.foldl (fun s x => modFurrow s x.1 (fun y => { y with req := min n 65535 })) s
  let m := fs.foldl (fun t x => t + 2 ^ x.2) 0
  .ok (s, emit c (mkPacket 0x05 [BitVec.ofNat 64 m, BitVec.ofNat 64 s.power.free]))

def execPwrq (h : Head) (can : Bool) (fmask : BitVec 4) (s : State) : Result := fireState h (pwrqResult can fmask) s

/-- `imtr` (R479). -/
def imtrResult (op : ImtrOp) (c : FireCtx) (s : State) : Except FaultInfo (State × List Send) := do
  privileged c
  let f ← natOperand c 0 0
  require (lenAt c 0 == (if op = .set then 2 else 1)) causePacketLength
  let n ← if op = .set then natOperand c 0 1 else .ok 0
  require (decide (f ≤ 131) && decide (n ≤ 7)) causePacketLength
  let x := furrowAt s f
  match op with
  | .set => .ok (modFurrow s f (fun y => { y with pstep := n }), emit c (word64Packet (BitVec.ofNat 64 x.pstep)))
  | .rd => .ok (s, emit c (word64Packet (fimb s f)))
  | .clr =>
    if x.guarded && x.inBand then .ok (modFurrow s f (fun y => { y with guarded := false }), emit c (word64Packet 0))
    else .ok (s, emit c (word64Packet 1))

def execImtr (h : Head) (op : ImtrOp) (s : State) : Result := fireState h (imtrResult op) s

end Sys2Proof.Machine
end

