-- ==== Sys2Proof/Machine/Links.lean ====
section
/-! DEFINITION. Link ports, streams to and from peers, (22_link.md). What a peer sends is
an input of the steps (assumption 12). -/
namespace Sys2Proof.Machine

/-! ### Ports (R487 to R489) -/

/-- A port, and the state with one changed. -/
def portAt (s : State) (k : Nat) : LinkPort := s.ports.getD k LinkPort.reset
def modLink (s : State) (k : Nat) (f : LinkPort → LinkPort) : State := { s with ports := s.ports.modify k f }

/-- The link event of a port (R489). -/
def linkEvent (s : State) (k : Nat) : State :=
  if (portAt s k).eve then { s with msi := s.msi ++ [(portAt s k).evv] } else s

/-- The number of a port's state (R488). -/
def portCode : PortState → Nat
  | .down => 0
  | .training => 1
  | .up => 2
  | .degraded => 3
  | .quarantined => 4

/-- LNKST and LNKCTL as they read (R488, R489). -/
def lnkst (x : LinkPort) : Word :=
  BitVec.ofNat 64 (x.retry.toNat * 2 ^ 48 + x.crcerr.toNat * 2 ^ 32 + x.lanes * 2 ^ 20 + natOfBool x.spare * 2 ^ 19 +
    portCode x.st * 2 ^ 16 + x.nport.toNat * 2 ^ 10 + x.nid.toNat)
def lnkctl (x : LinkPort) : Word := BitVec.ofNat 64 (natOfBool x.eve * 2 ^ 15 + x.evv.toNat * 2 ^ 4)

/-! ### Streams of a quarantined port (R485, R486) -/

/-- A request to a peer has failed (R20, R483, R486): every part of its access in it meets TR_PEER, and a `pref` has not
brought it in (R213). -/
def peerError (s : State) (r : ReqRef) : State :=
  match r with
  | .part p => (unitMates s p).foldl (fun s m => match partAt s m with
    | some (a, x) => if a.op = .pref then skipPart s m else spoil s m (faultAt causeTrPeer x.level x.ea)
    | none => s) s
  | .eng id => failEng s id

/-- A store that is lost (R486): its thread's next release at system scope fails. It is never performed at system scope, so it sends no
done token where that is its SCOPE; at plot and device scope it has been performed (R205). The store of
an engine has no thread: the copy or drain faults, and sends no done token at system scope (assumption 12). -/
def loseStore (s : State) (r : ReqRef) : State :=
  match r with
  | .part q =>
    (match partAt s q with
    | some (a, _) =>
      let key := (a.block.ctx, a.env.gslot, a.env.thread)
      let s := modPlot s q.plot (fun x => { x with lost := if x.lost.contains key then x.lost else key :: x.lost })
      modUnitOf (modAccess s q.plot a.id (fun y => { y with xf := { y.xf with done := y.xf.done && y.xf.scope != .system } })) q (fun y => { y with sys := true })
    | none => s)
  | .eng id => failEng s id

/-- LOST set in the route entry of a peer at its home (R481, R486). -/
def setLost (s : State) (peer : Nat) : State :=
  let a := s.dev.prtbase.toNat + 8 * peer
  writeWord s a (readWord s a ||| 0x2000)

/-- A stream that no port remains for (R486). -/
def abandonStream (s : State) (k : Nat) (x : LinkStream) : State :=
  let s := { s with streams := s.streams.map (fun y => if y = x then { y with out := [] } else y) }
  let stores := x.out.filter (fun r => r.store)
  let s := stores.foldl (fun s r => ackKernels (loseStore s r.ref) x.peer x.port r.seq) s
  let s := if stores.isEmpty then s else linkEvent (setLost s x.peer) k
  (x.out.filter (fun r => !r.store)).foldl (fun s r => peerError s r.ref) s

/-- A stream moved whole from a port: to the port for its lowest outstanding request, resent from there (R485). -/
def moveStream (s : State) (k : Nat) (x : LinkStream) : State :=
  match x.out with
  | [] => s
  | r :: _ =>
    match portFor s x.peer r.offset with
    | some j => { s with streams := s.streams.map (fun y => if y = x then
        { y with out := y.out.map (fun o => { o with moved := true, via := j, sentAt := s.timers.getD (j / 3) 0 }) } else y) }
    | none => abandonStream s k x

/-- A port enters QUARANTINED (R485, R487). -/
def quarantine (s : State) (k : Nat) : State :=
  let s := linkEvent (modLink s k (fun x => { x with st := .quarantined, lanes := 0, retraining := false })) k
  (s.streams.filter (fun x => x.out.any (fun r => r.via == k))).foldl (fun s x => moveStream s k x) s

/-! ### Commands and events of a port (R487) -/

/-- The events of a port. -/
inductive PortEvent where
  | train | laneFailure | trained | trainingTimeout | retryFailure | quarantine | release
  deriving DecidableEq, Repr

/-- The row of R487 that an event takes in a state, of a port with some lanes; none where the table lists no such event. -/
def portRow (st : PortState) (lanes : Nat) (e : PortEvent) : Option Nat :=
  match st, e with
  | .down, .train => some 1
  | .down, .laneFailure => some 2
  | .training, .trained => some 3
  | .training, .trainingTimeout => some 4
  | .up, .laneFailure => some 5
  | .up, .retryFailure | .degraded, .retryFailure => some 6
  | .degraded, .laneFailure => some (if lanes = 8 then 7 else 8)
  | .training, .quarantine | .up, .quarantine | .degraded, .quarantine => some 9
  | .quarantined, .release => some 10
  | .quarantined, .train => some 11
  | _, _ => none

/-- The state with an event of a port noted as the last that it has taken in this plot cycle (R8). -/
def notePort (s : State) (k : Nat) (e : PortEvent) : State :=
  modLink s k (fun x => { x with taken := (portRow x.st x.lanes e).elim x.taken (fun r => some (x.st, r)) })

/-- An event of a port may follow what the port has taken in this plot cycle: its row does not stand before the other's in the state in
which that one found the port (R8). -/
def portMay (s : State) (k : Nat) (e : PortEvent) : Bool :=
  match (portAt s k).taken with
  | some (st, r) => (portRow st (portAt s k).lanes e).all (fun n => decide (r ≤ n))
  | none => true

/-- An event of a port, in the order of R8; one that R8 puts before an event that the port has taken is not this plot cycle's. -/
def portEvent (e : PortEvent) (f : State → Nat → State) (s : State) (k : Nat) : State :=
  if portMay s k e then f (notePort s k e) k else s

def trainPort (s : State) (k : Nat) : State :=
  let s := notePort s k .train
  if (portAt s k).st = .down then modLink s k (fun x => { x with st := .training }) else s
def quarantinePort (s : State) (k : Nat) : State :=
  let s := notePort s k .quarantine
  if (portAt s k).st = .down ∨ (portAt s k).st = .quarantined then s else quarantine s k
def releasePort (s : State) (k : Nat) : State :=
  let s := notePort s k .release
  if (portAt s k).st = .quarantined then
    modLink s k (fun x => { x with st := .down, lanes := 0, spare := false, failures := 0 })
  else s

/-- A write to LNKCTL (R489). -/
def writeLnkctl (s : State) (k : Nat) (v : Word) : State :=
  let s := modLink s k (fun x => { x with eve := v.getLsbD 15, evv := v.extractLsb' 4 11 })
  match (v.extractLsb' 0 2).toNat with
  | 1 => trainPort s k
  | 2 => quarantinePort s k
  | 3 => releasePort s k
  | _ => s

/-- A port carries traffic. -/
def portCarries (x : LinkPort) : Bool := x.st == .up || x.st == .degraded

/-- A lane of a port fails (R487). -/
def failLane (s : State) (k : Nat) : State :=
  let s := modLink s k (fun x => { x with failures := x.failures + 1 })
  match (portAt s k).st with
  | .up => linkEvent (modLink s k (fun x => { x with st := .degraded, spare := true })) k
  | .degraded =>
    if (portAt s k).lanes = 8 then modLink s k (fun x => { x with lanes := 4, retraining := true }) else quarantine s k
  | .down | .training | .quarantined => s

/-- A step on port `p`. -/
def portStep (f : State → Nat → State) (s : State) : Result :=
  match s.cur with
  | .at p _ _ _ => .next (f { s with cur := .idle } p)
  | _ => .next s

def execTrain (s : State) : Result := portStep trainPort s
def execQuarantine (s : State) : Result := portStep quarantinePort s
def execLinkRelease (s : State) : Result := portStep releasePort s
def execLaneFailure (s : State) : Result := portStep (portEvent .laneFailure failLane) s

/-- Port `p` has trained; its neighbour is port `n` of peer `m`. -/
def execTrainingComplete (s : State) : Result :=
  match s.cur with
  | .at p n m _ =>
    let s := { s with cur := .idle }
    if (portAt s p).st = .training ∧ portMay s p .trained = true then
      .next (modLink (notePort s p .trained) p (fun x => { x with st := .up, lanes := 8, nport := BitVec.ofNat 4 n, nid := BitVec.ofNat 10 m }))
    else .next s
  | _ => .next s

def execTrainingTimeout (s : State) : Result :=
  portStep (portEvent .trainingTimeout (fun s k => if (portAt s k).st = .training then modLink s k (fun x => { x with st := .down }) else s)) s
def execRetrainComplete (s : State) : Result := portStep (fun s k => kickPeers (modLink s k (fun x => { x with retraining := false }))) s
def execCrcRetryFailure (s : State) : Result :=
  portStep (portEvent .retryFailure (fun s k => if portCarries (portAt s k) then quarantine s k else s)) s

/-- A flit with a bad CRC: it is sent again (R480, R488). -/
def execFlitCrcError (s : State) : Result :=
  portStep (fun s k => if portCarries (portAt s k) then
    modLink s k (fun x => { x with crcerr := x.crcerr + 1, retry := x.retry + 1 }) else s) s

/-- A request on port `p` has been unanswered for 100,000 ticks of its die's timer. -/
def execRequestTimeout (s : State) : Result :=
  portStep (portEvent .retryFailure (fun s k =>
    let late := fun (r : OutReq) => r.via == k && decide (r.sentAt + 100000 ≤ s.timers.getD (k / 3) 0)
    if portCarries (portAt s k) && s.streams.any (fun x => x.out.any late) then quarantine s k else s)) s

/-! ### The route table (R481) -/

/-- A write to PRTBASE (R481, R509). -/
def writePrtbase (s : State) (v : Word) : State :=
  let a := v &&& 0x000F_FFFF_FFFF_E000
  if wholly .hbm a.toNat 8192 then { s with dev := { s.dev with prtbase := a, routes := [] } } else s

def execPrtbaseWrite (s : State) : Result :=
  match s.cur with
  | .at _ n _ _ => .next (writePrtbase { s with cur := .idle } (BitVec.ofNat 64 n))
  | _ => .next s

/-! ### Answers of peers (R484) -/

/-- The data of a part that a peer has answered: of a read, from the line it sent; of another access, the old value. -/
def peerValue (a : Access) (x : Part) (v : Nat) : Word :=
  if isRead a.op then BitVec.ofNat 64 (lineGet (BitVec.ofNat 512 v) (x.pa.getD 0 % 64) x.bytes)
  else BitVec.ofNat 64 (v % 256 ^ x.bytes)

/-- A line of a peer cached for a context (R259). -/
def cachePeer (s : State) (c : BitVec 12) (line v : Nat) : State :=
  let s := dropPeer s c (fun l => l == line)
  l2Touch { s with peerCopies := PeerCopy.mk c line (BitVec.ofNat 512 v) :: s.peerCopies } .normal (some c) line

/-- One part of an access answered: a value that an atomic or `lds` returns passes through the record (R437). -/
def answerOne (s : State) (r : PartRef) (v : Nat) : State :=
  match partAt s r with
  | none => s
  | some (a, x) =>
    let got := peerValue a x v
    let (s, got) := match channelOf a.op with
      | some k => valueChannel s a.block.ctx k (x.pa.getD 0) (identityOf s r.plot a.block a.set.slot a.env) got
      | none => (s, got)
    finishPart s r got true

/-- A request of an access answered by its peer: a store is acknowledged; the line of a read is kept in L2 where it may be (R259). A
`pref` whose line is not kept has not brought it in (R213). -/
def answerPart (s : State) (p : PartRef) (store : Bool) (v : Nat) (keep : Option (BitVec 12 × Nat)) : State :=
  match partAt s p with
  | none => s
  | some (a, _) =>
    if store then modUnitOf s p (fun y => { y with sys := true })
    else
      let s := match keep with
        | some k => if isRead a.op || a.op == .pref then cachePeer s k.1 k.2 v else s
        | none => s
      (unitMates s p).foldl (fun s m => if a.op == .pref && keep.isNone then skipPart s m else answerOne s m v) s

/-- A request of an engine answered by its peer. -/
def answerEng (s : State) (id : Nat) (store : Bool) (v : Nat) : State :=
  if store then dropEng s id
  else modEng s id (fun q => { q with
    done := true, sys := true, got := lineGet (BitVec.ofNat 512 v) (q.pa % 64) q.bytes })

/-- A request answered by its peer, or refused. -/
def answerRequest (s : State) (r : OutReq) (refused : Bool) (v : Nat) (keep : Bool) : State :=
  if refused then peerError s r.ref
  else match r.ref with
    | .part p => answerPart s p r.store v (if keep then r.keep else none)
    | .eng id => answerEng s id r.store v

/-- Peer `p` answers request `m` of the stream of port `n`, unless the port that the request went through holds its traffic (R487): `v` is
whether it refused, the line or value, and whether the line is kept in L2. -/
def execPeerResponse (s : State) : Result :=
  match s.cur with
  | .at p n m v =>
    let s := { s with cur := .idle }
    match s.streams.find? (fun x => x.peer == p && x.port == n) with
    | some x =>
      (match x.out.find? (fun r => r.seq == BitVec.ofNat 32 m && !portHolds s r.via) with
      | some r =>
        let s := { s with streams := s.streams.map (fun y => if y = x then { y with out := y.out.erase r } else y) }
        .next (kickPeers (answerRequest (ackKernels s p n r.seq) r (v.getD 0 0 != 0) (v.getD 1 0) (v.getD 2 0 != 0)))
      | none => .next s)
    | none => .next s
  | _ => .next s

/-! ### Requests of peers (R20, R483, R484) -/

/-- The request in the numbers of a step. -/
def peerAsk (v : List Nat) : PeerAsk :=
  PeerAsk.mk (v.getD 0 0) (v.getD 1 0 % 2 ^ 41) (v.getD 2 8) (BitVec.ofNat 512 (v.getD 3 0)) (BitVec.ofNat 64 (v.getD 4 0))
    (BitVec.ofNat 4 (v.getD 5 0)) ((tyOfCode (v.getD 6 4)).getD .w64) (v.getD 7 0 != 0)

/-- The window of PWIN of die 0 lets a peer reach an offset (R483). -/
def peerAllowed (s : State) (o n : Nat) : Bool :=
  let w := s.dev.pwin.getD 0 0
  if wholly .hbm o n then decide ((w.extractLsb' 0 10).toNat ≤ o / 2 ^ 30) && decide ((o + n - 1) / 2 ^ 30 < (w.extractLsb' 16 10).toNat)
  else wholly .window o n && w.getLsbD 32

/-- A request of a stream that its home has still to perform (R484). One that waits there for a word to be full has been taken in its
order, and holds back no other. -/
def askPending (s : State) (src port : Nat) : Bool :=
  s.engReqs.any (fun q => match q.owner with
    | .peer a b _ => a == src && b == port && !(s.homeWaiters.any (fun w => match w with
      | .lds _ r _ => r == .eng q.id
      | _ => false))
    | _ => false)

/-- What a peer's request asks of each bank (R266): of a window its 16-byte words, a read's line whole; anything else is one request at
its home. -/
def askPieces (q : PeerAsk) : List PeerAsk :=
  if rangeOf q.offset ≠ .window then [q]
  else
    let x := if q.kind = 0 then { q with offset := q.offset / 64 * 64, bytes := 64 } else q
    (cutPhysical 0 x.offset x.bytes).map (fun y => { x with offset := y.2.1, bytes := y.2.2, val := x.val >>> (8 * (y.2.1 - x.offset)) })

/-- A request of a peer (R484, R485): the next of its stream goes to its home when those before it have been performed, and is
refused outside the window; an earlier one is answered from what is kept. -/
def takeAsk (s : State) (src port : Nat) (seq : BitVec 32) (q : PeerAsk) : State :=
  let x := (s.inStreams.find? (fun y => y.src == src && y.port == port)).getD (LinkIn.mk src port none [])
  let expected := match x.last with
    | none => 0
    | some l => l + 1
  if seq ≠ expected ∨ askPending s src port = true then s
  else
    let y : LinkIn := { x with last := some seq }
    let s := { s with inStreams := y :: s.inStreams.filter (fun z => !(z.src == src && z.port == port)) }
    if peerAllowed s q.offset q.bytes then
      (askPieces q).foldl (fun s x => newEng s (.peer src port seq) 37 0 0 (0, x.offset, x.bytes) (.ask x)) s
    else keepResponse s src port seq true 0

/-- Request `m` of the stream of port `n` from peer `p`, which arrives on the port of this device that `v` names last: one that carries
traffic and does not hold it (R487). -/
def execPeerRequest (s : State) : Result :=
  match s.cur with
  | .at p n m v =>
    let s := { s with cur := .idle }
    if portCarries (portAt s (v.getD 8 0)) && !portHolds s (v.getD 8 0) then .next (takeAsk s p n (BitVec.ofNat 32 m) (peerAsk v))
    else .next s
  | _ => .next s

end Sys2Proof.Machine
end

