-- ==== Sys2Proof/Machine/Crypto.lean ====
section
/-! DEFINITION. SM3 (GB/T 32905) and the verification of SM2 signatures (GB/T 32918.2), which R395 to R399 name and do not
write out (assumption 9). -/
namespace Sys2Proof.Machine

/-! ### Bytes of a number -/

/-- The first `n` bytes of a little-endian number, in the order of their addresses. -/
def littleBytes : Nat → Nat → List Nat
  | 0, _ => []
  | n + 1, x => x % 256 :: littleBytes n (x / 256)

/-- The number that bytes make with the first the least significant. -/
def ofLittle : List Nat → Nat
  | [] => 0
  | b :: l => b + 256 * ofLittle l

/-- The number that bytes make with the first the most significant. -/
def ofBig (l : List Nat) : Nat := l.foldl (fun n b => 256 * n + b) 0

/-- A number as `n` bytes, most significant first. -/
def bigBytes (n x : Nat) : List Nat := (littleBytes n x).reverse

/-- A number of `n` bytes with its bytes in the other order, as SM2 lays out r and s (R395). -/
def swapBytes (n x : Nat) : Nat := ofLittle (bigBytes n x)

/-! ### SM3 -/

/-- A message with its padding: a one bit, zeros, and its length in bits in eight bytes. -/
def sm3Pad (m : List Nat) : List Nat :=
  m ++ [0x80] ++ List.replicate ((119 - m.length % 64) % 64) 0 ++ bigBytes 8 (8 * m.length)

/-- The permutations P0 and P1. -/
def sm3P0 (x : BitVec 32) : BitVec 32 := x ^^^ x.rotateLeft 9 ^^^ x.rotateLeft 17
def sm3P1 (x : BitVec 32) : BitVec 32 := x ^^^ x.rotateLeft 15 ^^^ x.rotateLeft 23

/-- The words of a block, 32 bits each. -/
def sm3Words (b : List Nat) : List (BitVec 32) := (List.range 16).map (fun i => BitVec.ofNat 32 (ofBig ((b.drop (4 * i)).take 4)))

/-- `n` more words of the message expansion. -/
def sm3Expand : Nat → List (BitVec 32) → List (BitVec 32)
  | 0, w => w
  | n + 1, w =>
    let back := fun (k : Nat) => w.getD (w.length - k) 0
    sm3Expand n (w ++ [sm3P1 (back 16 ^^^ back 9 ^^^ (back 3).rotateLeft 15) ^^^ (back 13).rotateLeft 7 ^^^ back 6])

/-- The eight registers of the compression function. -/
structure Sm3Reg where
  a : BitVec 32
  b : BitVec 32
  c : BitVec 32
  d : BitVec 32
  e : BitVec 32
  f : BitVec 32
  g : BitVec 32
  h : BitVec 32
  deriving DecidableEq, Repr

/-- The initial value. -/
def sm3Start : Sm3Reg :=
  Sm3Reg.mk 0x7380166F 0x4914B2B9 0x172442D7 0xDA8A0600 0xA96F30BC 0x163138AA 0xE38DEE4D 0xB0FB0E4E

/-- Round `j` on the registers, with the words of the expansion. -/
def sm3Round (w : List (BitVec 32)) (v : Sm3Reg) (j : Nat) : Sm3Reg :=
  let t : BitVec 32 := if j < 16 then 0x79CC4519 else 0x7A879D8A
  let ss1 := (v.a.rotateLeft 12 + v.e + t.rotateLeft (j % 32)).rotateLeft 7
  let ss2 := ss1 ^^^ v.a.rotateLeft 12
  let ff := if j < 16 then v.a ^^^ v.b ^^^ v.c else (v.a &&& v.b) ||| (v.a &&& v.c) ||| (v.b &&& v.c)
  let gg := if j < 16 then v.e ^^^ v.f ^^^ v.g else (v.e &&& v.f) ||| (~~~v.e &&& v.g)
  let tt1 := ff + v.d + ss2 + (w.getD j 0 ^^^ w.getD (j + 4) 0)
  let tt2 := gg + v.h + ss1 + w.getD j 0
  Sm3Reg.mk tt1 v.a (v.b.rotateLeft 9) v.c (sm3P0 tt2) v.e (v.f.rotateLeft 19) v.g

/-- The compression of one block of 64 bytes. -/
def sm3Compress (v : Sm3Reg) (b : List Nat) : Sm3Reg :=
  let x := (List.range 64).foldl (sm3Round (sm3Expand 52 (sm3Words b))) v
  Sm3Reg.mk (x.a ^^^ v.a) (x.b ^^^ v.b) (x.c ^^^ v.c) (x.d ^^^ v.d) (x.e ^^^ v.e) (x.f ^^^ v.f) (x.g ^^^ v.g) (x.h ^^^ v.h)

/-- The registers after `n` blocks of a padded message. -/
def sm3Blocks : Nat → Sm3Reg → List Nat → Sm3Reg
  | 0, v, _ => v
  | n + 1, v, m => sm3Blocks n (sm3Compress v (m.take 64)) (m.drop 64)

/-- The 32 bytes of the digest of a message. -/
def sm3 (m : List Nat) : List Nat :=
  let p := sm3Pad m
  let v := sm3Blocks (p.length / 64) sm3Start p
  [v.a, v.b, v.c, v.d, v.e, v.f, v.g, v.h].flatMap (fun x => bigBytes 4 x.toNat)

/-- The digest of `n` bytes of a little-endian number, as its bytes stand in memory. -/
def sm3Digest (x n : Nat) : BitVec 256 := BitVec.ofNat 256 (ofLittle (sm3 (littleBytes n x)))

/-! ### SM2 -/

/-- The curve: its prime, its coefficients a and b, the order of its group, and its base point. -/
def sm2P : Nat := 0xFFFFFFFEFFFFFFFFFFFFFFFFFFFFFFFFFFFFFFFF00000000FFFFFFFFFFFFFFFF
def sm2A : Nat := sm2P - 3
def sm2B : Nat := 0x28E9FA9E9D9F5E344D5A9E4BCF6509A7F39789F515AB8F92DDBCBD414D940E93
def sm2N : Nat := 0xFFFFFFFEFFFFFFFFFFFFFFFFFFFFFFFF7203DF6B21C6052B53BBF40939D54123
def sm2G : Nat × Nat :=
  (0x32C4AE2C1F1981195F9904466A39C9948FE30BBFF2660BE1715A4589334C74C7,
    0xBC3736A2F4F6779C59BDCEE36B692153D0A9877CC62A474002DF32E52139F0A0)

/-- `b` to the power of the low `k` bits of `e`, modulo `m`. -/
def powMod (m : Nat) : Nat → Nat → Nat → Nat
  | 0, _, _ => 1
  | k + 1, b, e =>
    let h := powMod m k (b * b % m) (e / 2)
    if e % 2 = 1 then b * h % m else h

/-- The inverse of a number modulo the prime of the curve. -/
def sm2Inv (x : Nat) : Nat := powMod sm2P 256 (x % sm2P) (sm2P - 2)

/-- The sum of two points; nothing is the point at infinity. -/
def sm2Add : Option (Nat × Nat) → Option (Nat × Nat) → Option (Nat × Nat)
  | none, q => q
  | p, none => p
  | some (x1, y1), some (x2, y2) =>
    if x1 = x2 ∧ (y1 + y2) % sm2P = 0 then none
    else
      let l := if x1 = x2 then (3 * x1 * x1 + sm2A) * sm2Inv (2 * y1) % sm2P
        else (y2 + sm2P - y1) * sm2Inv (x2 + sm2P - x1) % sm2P
      let x3 := (l * l + 2 * sm2P - x1 - x2) % sm2P
      some (x3, (l * (x1 + sm2P - x3) + sm2P - y1) % sm2P)

/-- A point times the low `n` bits of a number. -/
def sm2Mul : Nat → Nat → Option (Nat × Nat) → Option (Nat × Nat)
  | 0, _, _ => none
  | n + 1, k, q =>
    let r := sm2Mul n (k / 2) (sm2Add q q)
    if k % 2 = 1 then sm2Add q r else r

/-- The 64 bytes of a public key, whose SM3 digest the fuses hold (R395; assumption 9). -/
def keyBytes (q : Nat × Nat) : List Nat := bigBytes 32 q.1 ++ bigBytes 32 q.2

/-- The bytes that precede a signed message: the digest of the signer's identifier, here the default identifier of 16
characters, the curve and the key (R395). -/
def sm2Prefix (q : Nat × Nat) : List Nat :=
  sm3 ([0x00, 0x80, 0x31, 0x32, 0x33, 0x34, 0x35, 0x36, 0x37, 0x38, 0x31, 0x32, 0x33, 0x34, 0x35, 0x36, 0x37, 0x38] ++
    bigBytes 32 sm2A ++ bigBytes 32 sm2B ++ keyBytes sm2G ++ keyBytes q)

/-- The key is a point of the curve. -/
def sm2OnCurve (q : Nat × Nat) : Bool :=
  decide (q.1 < sm2P) && decide (q.2 < sm2P) && (q.2 * q.2) % sm2P == (q.1 * q.1 * q.1 + sm2A * q.1 + sm2B) % sm2P

/-- The signature (r, s) of a message verifies with a public key. -/
def sm2Verify (q : Nat × Nat) (m : List Nat) (r s : Nat) : Bool :=
  let e := ofBig (sm3 (sm2Prefix q ++ m))
  let t := (r + s) % sm2N
  sm2OnCurve q && decide (1 ≤ r ∧ r < sm2N) && decide (1 ≤ s ∧ s < sm2N) && t != 0 &&
    (match sm2Add (sm2Mul 256 s (some sm2G)) (sm2Mul 256 t (some q)) with
    | some (x, _) => (e + x) % sm2N == r
    | none => false)

/-- The key of a slot accepts a signature (R395): the slot holds a key whose digest is the one in its fuses; blank fuses accept
none. -/
def slotAccepts (slot : BitVec 3) (m : List Nat) (r s : Nat) : Bool :=
  match Config.keySlot slot, Config.fuseDigest slot with
  | some q, some f => BitVec.ofNat 256 (ofLittle (sm3 (keyBytes q))) == f && sm2Verify q m r s
  | _, _ => false

end Sys2Proof.Machine
end

