-- ==== Sys2Proof/Machine/Slaloth.lean ====
section
/-! DEFINITION. The Slaloth image (R400 to R402), what a translation keeps of it (R403), and the checks of the structural
verifier that need more than one instruction (R200, R404). -/
namespace Sys2Proof.Machine

/-- `n` bytes of a number from byte `o`. -/
def bytesAt (x o n : Nat) : Nat := bitsOf x (8 * o) (8 * n)

/-! ### Operations (R400) -/

/-- An extension word: PR, DP and XF; `spare` holds its reserved bits. -/
structure SlExt where
  pr : BitVec 2
  dp : Nat
  spare : Nat
  xf : BitVec 16
  deriving DecidableEq, Repr

/-- An operation with the words that follow it: D0 to D2 as `dist`, and the configuration words as one. -/
structure SlOp where
  opc : BitVec 9
  ty : BitVec 4
  dist : List Nat
  ext : Option SlExt
  cfg : Option Word
  deriving DecidableEq, Repr

/-- The structural opcodes (R402). -/
def opcBlk : BitVec 9 := 0x013
def opcLoop : BitVec 9 := 0x014
def opcLend : BitVec 9 := 0x015
def opcOut : BitVec 9 := 0x016

/-- XF of an operation; zero without an extension word. -/
def slXf (o : SlOp) : Nat := (o.ext.map (fun e => e.xf.toNat)).getD 0

/-- An extension word read from its 32 bits. -/
def slExt (x : Nat) : SlExt :=
  SlExt.mk (BitVec.ofNat 2 (bitsOf x 30 2)) (bitsOf x 24 6) (bitsOf x 16 8) (BitVec.ofNat 16 (bitsOf x 0 16))

/-- A memory operation at base 0x100, which carries no configuration words; `wadv` is none. -/
def slMemory (opc : BitVec 9) : Bool := decide (0x100 ≤ opc.toNat) && decide (opc.toNat ≤ 0x10D) && opc != 0x106

/-- The native op word of an operation, with port `im` an immediate and no targets (R60). -/
def slWord (o : SlOp) (im : Nat) : Word :=
  let pr := (o.ext.map (fun e => e.pr.toNat)).getD 0
  BitVec.ofNat 64 (o.opc.toNat * 2 ^ 55 + o.ty.toNat * 2 ^ 51 + im * 2 ^ 48 + pr * 2 ^ 46 + slXf o)

/-- The native instruction of an operation. A memory operation stands with the wave word of an access alone in its wave: its
own is the translator's to assign. -/
def slNative (o : SlOp) (im : Nat) : Option Instr :=
  let cfg := if slMemory o.opc then 0xFE00FE0000000000 else o.cfg.getD 0
  match decode (slWord o im) cfg with
  | .ok i => some i
  | .error _ => none

/-- D of a port. -/
def slDist (o : SlOp) (p : Nat) : Nat := o.dist.getD p 0

/-- The input ports that name the constant. -/
def slConstants (o : SlOp) (ports : List Nat) : List Nat := ports.filter (fun p => slDist o p == 0)

/-- IM of an operation: it marks the port that names the constant. -/
def slImm (o : SlOp) : Nat :=
  (((slNative o 0).bind info).bind (fun f => (slConstants o f.ports).head?)).elim 0 (fun p => p + 1)

/-- What the native description of an operation says of it, with its constant marked: where that is the only data port, the
description names a trigger port beside it (R65, R413). -/
def slInfo (o : SlOp) : Option Info := (slNative o (slImm o)).bind info

/-- The input ports of an operation. -/
def slPorts (o : SlOp) : Option (List Nat) :=
  if o.opc = opcBlk ∨ o.opc = opcLoop ∨ o.opc = opcLend then some []
  else if o.opc = opcOut then some [0]
  else (slInfo o).map (fun f => f.ports)

/-- Two configuration words follow: a constant is named, or the description gives the word a use of its own. -/
def slHasConfig (o : SlOp) (ports : List Nat) : Bool :=
  !(slMemory o.opc) && o.opc != opcOut && (!(slConstants o ports).isEmpty || (slInfo o).any (fun f => f.cfg == .own))

/-- One operation from the words of an image, and the words after it. -/
def slTake : List Nat → Option (SlOp × List Nat)
  | [] => none
  | w :: l =>
    let base := SlOp.mk (BitVec.ofNat 9 (bitsOf w 23 9)) (BitVec.ofNat 4 (bitsOf w 19 4))
      [bitsOf w 12 6, bitsOf w 6 6, bitsOf w 0 6] none none
    let read : Option (SlOp × List Nat) := if bitsOf w 18 1 = 0 then some (base, l)
      else match l with
        | [] => none
        | x :: l => some ({ base with ext := some (slExt x) }, l)
    match read with
    | none => none
    | some (o, l) =>
      match slPorts o with
      | none => none
      | some ports =>
        if slHasConfig o ports then
          match l with
          | lo :: hi :: l => some ({ o with cfg := some (BitVec.ofNat 64 (lo + hi * 2 ^ 32)) }, l)
          | _ => none
        else some (o, l)

/-- The operations of a list of words; `fuel` bounds them. -/
def slParse : Nat → List Nat → Option (List SlOp)
  | _, [] => some []
  | 0, _ => none
  | fuel + 1, l =>
    match slTake l with
    | none => none
    | some (o, l) => (slParse fuel l).map (fun r => o :: r)

/-- The words of an image of `n` bytes. -/
def slWords (x n : Nat) : List Nat := (List.range (n / 4)).map (fun i => bitsOf x (32 * i) 32)

/-- A structural operation keeps its form (R402). -/
def slStructural (o : SlOp) : Bool :=
  let xf := slXf o
  let bare := o.ext.any (fun e => e.pr == 0 && e.dp == 0 && e.spare == 0)
  o.ty == 0 && o.cfg.isNone &&
    (if o.opc = opcBlk then bare && decide (xf < 2 ^ 7) && o.dist == [0, 0, 0]
    else if o.opc = opcLoop then bare && decide (1 ≤ xf ∧ xf ≤ 58) && o.dist == [0, 0, 0]
    else if o.opc = opcLend then o.ext.isNone && o.dist == [0, 0, 0]
    else bare && (xf == 1 || xf == 2) && slDist o 0 != 0 && o.dist.drop 1 == [0, 0])

/-- An operation keeps its form (R400): at most one constant, on a port that may hold one; nothing in the field of a port that is
no input port; DP with a predicate and only then. -/
def slSound (o : SlOp) : Bool :=
  if o.opc = opcBlk ∨ o.opc = opcLoop ∨ o.opc = opcLend ∨ o.opc = opcOut then slStructural o
  else
    match slInfo o with
    | none => false
    | some f =>
      let consts := slConstants o f.ports
      (match slNative o (slImm o) with
        | none => false
        | some i => (head? i).any (fun h => f.types.contains h.ty && (h.im == .none || (f.imms.contains h.im && h.ty != .lane)) &&
            (f.predicated || h.pr == .always))) &&
        decide (consts.length ≤ 1) && [0, 1, 2].all (fun p => f.ports.contains p || slDist o p == 0) &&
        (match o.ext with
        | none => true
        | some e => e.spare == 0 && (e.pr == 0) == (e.dp == 0))

/-! ### Blocks (R402) -/

/-- A block of an image: what its BLK says, and its operations. -/
structure SlBlock where
  load : Nat
  nent : Nat
  ops : List SlOp
  deriving DecidableEq, Repr

/-- The blocks of a list of operations; none where the first is no BLK. -/
def slBlocks (l : List SlOp) : Option (List SlBlock) :=
  let r := l.foldr (fun o (a : List SlBlock × List SlOp) =>
    if o.opc = opcBlk then (SlBlock.mk (slXf o % 8) (slXf o / 8 % 16 + 1) a.2 :: a.1, []) else (a.1, o :: a.2)) ([], [])
  if r.2.isEmpty then some r.1 else none

/-- LOOP and LEND match. -/
def slNested : Nat → List SlOp → Bool
  | d, [] => d == 0
  | d, o :: l =>
    if o.opc = opcLoop then slNested (d + 1) l
    else if o.opc = opcLend then d != 0 && slNested (d - 1) l
    else slNested d l

/-- The distances at which an operation names producers: of its input ports, then of its predicate. -/
def slNames (o : SlOp) : List Nat := ((slPorts o).getD []).map (slDist o) ++ (o.ext.map (fun e => e.dp)).toList

/-- An operation makes a value. -/
def slMakes (o : SlOp) : Bool := o.opc != opcLoop && o.opc != opcLend

/-- The producers that operation `j` of a block names, by their places; an input port of an entry that reaches past the BLK has
none. -/
def slProducers (j : Nat) (o : SlOp) : List Nat := ((slNames o).filter (fun d => d != 0 && decide (d ≤ j))).map (fun d => j - d)

/-- The distances of operation `j` stay within the block, but for the input ports of its entries, the predicate port among them (R65),
which may reach past the BLK at place -1 (R402). -/
def slReach (b : SlBlock) (j : Nat) (o : SlOp) : Bool :=
  (slNames o).all (fun d => d == 0 || (decide (d ≤ j) && (b.ops[j - d]?).any slMakes) ||
    decide (j < b.nent ∧ j + 1 < d))

/-- No output has more than three consumers (R401): an OUT takes the output that it names, any other operation output 0. -/
def slRelayed (b : SlBlock) : Bool :=
  let uses := (List.range b.ops.length).flatMap (fun j => match b.ops[j]? with
    | some o => (slProducers j o).map (fun k => (k, if o.opc = opcOut then slXf o else 0))
    | none => [])
  uses.all (fun u => decide (uses.count u ≤ 3))

/-- A block keeps the form of R400 to R402. -/
def slBlockSound (b : SlBlock) : Bool :=
  decide (b.nent ≤ b.ops.length) && slNested 0 b.ops && b.ops.all slSound && slRelayed b &&
    (List.range b.ops.length).all (fun j => (b.ops[j]?).all (slReach b j))

/-- The blocks of a Slaloth image of `n` bytes; none where it breaks R400 to R402. -/
def slDecode (x n : Nat) : Option (List SlBlock) :=
  match slParse (n / 4) (slWords x n) with
  | none => none
  | some ops =>
    match slBlocks ops with
    | none => none
    | some bs => if !bs.isEmpty && bs.all slBlockSound then some bs else none

/-! ### Memory operations in list order (R403) -/

/-- What a translation keeps of a memory operation: its opcode, TY, ORD, SCOPE, AOP, TAKE and CP. -/
structure MemClass where
  opc : Nat
  ty : Ty
  ord : MemOrd
  scope : Scope
  aop : BitVec 4
  take : Bool
  cp : CachePol
  deriving DecidableEq, Repr

/-- The memory instructions at base 0x100 that carry a wave word, with their fields; `mnop` touches no memory and is none. -/
def memParts : Instr → Option (Nat × Head × MemXf)
  | .ld h m => some (0x100, h, m)
  | .st h m => some (0x101, h, m)
  | .lds h m => some (0x102, h, m)
  | .stf h m => some (0x103, h, m)
  | .clre h m => some (0x104, h, m)
  | .fence h m => some (0x107, h, m)
  | .atom h m => some (0x108, h, m)
  | .red h m => some (0x109, h, m)
  | .pref h m => some (0x10A, h, m)
  | .cctl h m => some (0x10B, h, m)
  | .ldg h m => some (0x10C, h, m)
  | .sts h m => some (0x10D, h, m)
  | _ => none

/-- The class of a memory instruction. -/
def classOf (x : Nat × Head × MemXf) : MemClass :=
  MemClass.mk x.1 x.2.1.ty x.2.2.ord x.2.2.scope x.2.2.aop x.2.2.take x.2.2.cp

/-- A memory operation of a Slaloth block: its class, the region that LOOP and LEND set it in, how many `wadv` operations its lead
token has passed (R198, R202), its place, and whether an ordering edge lies between it and the memory operation before it, itself
among them. -/
structure SlMem where
  cls : MemClass
  region : Nat
  level : Nat
  place : Nat
  edge : Bool
  deriving DecidableEq, Repr

/-- Operation `k` of a list sends a done token on output 2. -/
def slSendsDone (l : List SlOp) (k : Nat) : Bool :=
  ((l[k]?).bind (fun o => slNative o 0)).any (fun i => (info i).any (fun f => f.done))

/-- Which operations consume a done output, or a value that depends on one (R403). -/
def slDepends (l : List SlOp) : List Bool :=
  l.foldl (fun a o =>
    let j := a.length
    let ks := slProducers j o
    a ++ [ks.any (fun k => a.getD k false || (o.opc == opcOut && slXf o == 2 && slSendsDone l k))]) []

/-- The producer of the token that gives an operation its envelope: that of its lowest port that receives one (R89), by its distance. -/
def slLead (o : SlOp) : Option Nat := (slNames o).find? (fun d => d != 0)

/-- How many `wadv` operations the lead token of each operation has passed within the block (R202). -/
def slLevels (l : List SlOp) : List Nat :=
  l.foldl (fun a o =>
    let j := a.length
    a ++ [match slLead o with
      | some d => if d ≤ j then a.getD (j - d) 0 + natOfBool ((l[j - d]?).any (fun k => k.opc == 0x106)) else 0
      | none => 0]) []

/-- The memory operations of a block from operation `j` on, in region `w`, with an edge met since the last or not. -/
def slMemoryFrom (b : SlBlock) : Nat → Nat → Bool → List SlOp → List SlMem
  | _, _, _, [] => []
  | j, w, edge, o :: l =>
    if o.opc = opcLoop ∨ o.opc = opcLend then slMemoryFrom b (j + 1) (w + 1) edge l
    else
      let here := edge || (slDepends b.ops).getD j false
      match (slNative o 0).bind memParts with
      | some x => SlMem.mk (classOf x) w ((slLevels b.ops).getD j 0) j here :: slMemoryFrom b (j + 1) w false l
      | none => slMemoryFrom b (j + 1) w here l

def slMems (b : SlBlock) : List SlMem := slMemoryFrom b 0 0 false b.ops

/-! ### Native blocks of a translation -/

/-- The instructions of a native block by slot; none where one decodes to none. -/
def nativeBlock (image b : Nat) : List (Option Instr) :=
  let o := bytesAt image (4 * b) 4
  let h := bytesAt image o 16
  (imageStations (hdrNi h) (bytesAt image (o + 16) (16 * hdrNi h))).map (fun st => match decode st.op st.cfg with
    | .ok i => some i
    | .error _ => none)

/-- The slots that the targets of an instruction name. -/
def targetSlots (i : Instr) : List Nat :=
  match head? i with
  | some h => [h.t0, h.t1, h.t2].filterMap (fun t => t.map (fun x => x.slot.toNat))
  | none => []

/-- The slots that an instruction sends to on one route: outcome 0 or 1 of a `steer` is its control value, 0 to 3 of a `dec` the
route of its index; any other instruction sends to every target. -/
def routeSlots (i : Instr) (outcome : Nat) : List Nat :=
  let slot := fun (t : Option Target) => (t.map (fun x => x.slot.toNat)).toList
  match i with
  | .steer h tm =>
    let side := fun (n : Nat) (t : Option Target) => if tm.getLsbD n == (outcome == 1) then slot t else []
    side 0 h.t0 ++ side 1 h.t1 ++ side 2 h.t2
  | .dec h _ _ => (match outcome with
    | 0 => slot h.t0
    | 1 => slot h.t1
    | 2 => slot h.t2
    | _ => [])
  | i => targetSlots i

/-- The outcomes that an instruction has. -/
def routeCount : Instr → Nat
  | .steer _ _ => 2
  | .dec _ _ _ => 4
  | _ => 1

def isWadv : Instr → Bool
  | .wadv _ => true
  | _ => false

/-- A set of slots of a block in rising order. -/
def slotSet (ni : Nat) (l : List Nat) : List Nat := (List.range ni).filter (fun i => l.contains i)

/-- The slots that tokens reach from a set without passing a `wadv`, where slot `i` sends to `send i`. -/
def spread (ws : List (Option Instr)) (send : Nat → List Nat) : Nat → List Nat → List Nat
  | 0, l => l
  | n + 1, l => spread ws send n (slotSet ws.length (l ++ l.flatMap (fun i =>
      if (ws.getD i none).any isWadv then [] else send i)))

/-- The slots where the next wave begins: the targets of the `wadv` instructions of a set. -/
def nextWave (ws : List (Option Instr)) (send : Nat → List Nat) (l : List Nat) : List Nat :=
  slotSet ws.length (l.flatMap (fun i => if (ws.getD i none).any isWadv then send i else []))

/-! ### Check 2 of R404: the wave rules on every path (R200) -/

/-- Every choice of an outcome for each slot of a block. -/
def routeChoices : List (Option Instr) → List (List Nat)
  | [] => [[]]
  | w :: ws => (List.range ((w.map routeCount).getD 1)).flatMap (fun k => (routeChoices ws).map (fun r => k :: r))

/-- Where a slot sends on a path. -/
def pathSend (ws : List (Option Instr)) (path : List Nat) (i : Nat) : List Nat :=
  match ws.getD i none with
  | some x => routeSlots x (path.getD i 0)
  | none => []

/-- The wave words of the instructions of a set that carry one. -/
def waveWords (ws : List (Option Instr)) (l : List Nat) : List Word :=
  l.filterMap (fun i => (ws.getD i none).bind (fun x => match x with
    | .mnop h _ => some h.cfg
    | x => (memParts x).map (fun m => m.2.1.cfg)))

def wordPred (w : Word) : Nat := bitsOf w.toNat 56 8
def wordOwn (w : Word) : Nat := bitsOf w.toNat 48 8
def wordSucc (w : Word) : Nat := bitsOf w.toNat 40 8

/-- The accesses of one wave of a path: distinct OWN, PRED 0xFE at its head alone and SUCC 0xFE at its end alone, and every PRED
of 0xFF named by a SUCC. -/
def waveSound (l : List Word) : Bool :=
  decide ((l.map wordOwn).Nodup) && l.countP (fun w => wordPred w == 0xFE) == 1 && l.countP (fun w => wordSucc w == 0xFE) == 1 &&
    l.all (fun w => wordPred w != 0xFF || l.any (fun x => wordSucc x == wordOwn w))

/-- The waves of a block from the sets where they begin, each once; a wave that a `wadv` opens holds an access, the wave that the
block is entered in may hold none (R200). -/
def wavesSound (ws : List (Option Instr)) : Nat → List (List Nat) → List (List Nat) → Bool
  | 0, todo, _ => todo.isEmpty
  | _, [], _ => true
  | n + 1, start :: todo, seen =>
    if seen.contains start then wavesSound ws n todo seen
    else
      let paths := (routeChoices ws).map (fun r => (r, spread ws (pathSend ws r) ws.length start))
      paths.all (fun x =>
        let words := waveWords ws x.2
        (seen.isEmpty && words.isEmpty) || waveSound words) &&
        wavesSound ws n (todo ++ (paths.map (fun x => nextWave ws (pathSend ws x.1) x.2)).filter (fun l => !l.isEmpty)) (start :: seen)

/-- Check 2 of R404 on a block of `nent` entries. -/
def blockWaves (ws : List (Option Instr)) (nent : Nat) : Bool :=
  wavesSound ws (2 ^ (4 * ws.length + 1)) [List.range nent] []

/-! ### The lead token (R89): where a wave comes from -/

/-- The port whose token gives an instruction its envelope. -/
def leadPort (i : Instr) : Nat :=
  match head? i, info i with
  | some h, some f => ((tokenPorts h f).head?).getD 3
  | _, _ => 3

/-- The targets of an instruction that give the instruction there its envelope. -/
def leadTargets (ws : List (Option Instr)) (i : Nat) : List Nat :=
  match (ws.getD i none).bind head? with
  | some h => [h.t0, h.t1, h.t2].filterMap (fun t => t.bind (fun x =>
      if (ws.getD x.slot.toNat none).any (fun k => leadPort k == x.port.toNat) then some x.slot.toNat else none))
  | none => []

/-- The slots of a block whose lead token comes from a slot. -/
def feedersOf (ws : List (Option Instr)) (j : Nat) : List Nat :=
  (List.range ws.length).filter (fun i => (leadTargets ws i).contains j)

/-- The places of an image that the lead token of a place goes on to without passing a `wadv`: within its block, or where an `exit`
sends it (R107). A place is a block and a slot. -/
def leadsTo (blocks : List (List (Option Instr))) (x : Nat × Nat) : List (Nat × Nat) :=
  let ws := blocks.getD x.1 []
  match ws.getD x.2 none with
  | some (.wadv _) => []
  | some (.exit h) =>
    let to_ := (bitsOf h.cfg.toNat 0 32, bitsOf h.cfg.toNat 32 4)
    if ((blocks.getD to_.1 []).getD to_.2 none).any (fun k => leadPort k == bitsOf h.cfg.toNat 36 2) then [to_] else []
  | _ => (leadTargets ws x.2).map (fun j => (x.1, j))

/-- The places from which a lead token comes to a set of places without passing a `wadv`; `fuel` bounds the way. -/
def leadSources (blocks : List (List (Option Instr))) (all : List (Nat × Nat)) : Nat → List (Nat × Nat) → List (Nat × Nat)
  | 0, l => l
  | n + 1, l => leadSources blocks all n (all.filter (fun x => l.contains x || (leadsTo blocks x).any l.contains))

/-- The places of a set to which a lead token comes round: what is left when those that none of the set sends to are taken out. -/
def leadRound (blocks : List (List (Option Instr))) : Nat → List (Nat × Nat) → List (Nat × Nat)
  | 0, l => l
  | n + 1, l => leadRound blocks n (l.filter (fun x => l.any (fun y => (leadsTo blocks y).contains x)))

/-- Every loop that leads to an access passes a `wadv` at its back edge (R202, R403): an access that came round within one wave would
repeat its OWN (R200). -/
def backEdges (blocks : List (List (Option Instr))) : Bool :=
  let all := (List.range blocks.length).flatMap (fun b => (List.range (blocks.getD b []).length).map (fun i => (b, i)))
  let acc := all.filter (fun x => !(waveWords (blocks.getD x.1 []) [x.2]).isEmpty)
  (leadRound blocks all.length (leadSources blocks all all.length acc)).isEmpty

/-! ### Check 3 of R404: the correspondence (R403) -/

/-- An access of a translation: its class, its place, how many `wadv` instructions its lead token has passed, its OWN and OFS, and
the slots that its lead token comes from. -/
structure NativeMem where
  cls : MemClass
  block : Nat
  slot : Nat
  level : Nat
  own : Nat
  ofs : Int
  feeders : List Nat
  deriving DecidableEq, Repr

/-- The levels of a block: the slots first reached after `k`, `k + 1`, … `wadv` instructions; `fuel` bounds them. -/
def waveLevels (ws : List (Option Instr)) : Nat → List Nat → List Nat → List (List Nat)
  | 0, _, _ => []
  | n + 1, start, seen =>
    let all := spread ws (leadTargets ws) ws.length start
    let new := all.filter (fun i => !seen.contains i)
    if new.isEmpty then [] else new :: waveLevels ws n (nextWave ws (leadTargets ws) all) (seen ++ new)

/-- An access in its place among others: by OWN. -/
def insertMem (x : NativeMem) : List NativeMem → List NativeMem
  | [] => [x]
  | y :: l => if x.own < y.own then x :: y :: l else y :: insertMem x l

/-- The accesses of block `b`, wave by wave in the order of OWN. -/
def nativeMems (b : Nat) (ws : List (Option Instr)) (nent : Nat) : List NativeMem :=
  let levels := waveLevels ws (ws.length + 1) (List.range nent) []
  (List.range levels.length).flatMap (fun k =>
    ((levels.getD k []).filterMap (fun i => ((ws.getD i none).bind memParts).map (fun m =>
      NativeMem.mk (classOf m) b i k (wordOwn m.2.1.cfg) (m.2.1.cfg.extractLsb' 0 40).toInt (feedersOf ws i)))).foldr insertMem [])

/-- An instruction that sends the same packet to every target. -/
def sendsOne : Option Instr → Bool
  | some (.mov _) | some (.const _) | some (.add _) | some (.sub _) | some (.wadv _) => true
  | _ => false

/-- Two accesses stand in address order: by OFS where one instruction sends both their addresses. -/
def inAddressOrder (image : Nat) (blocks : List (List (Option Instr))) (a b : NativeMem) : Bool :=
  if a.block = b.block ∧ a.feeders = b.feeders ∧ a.feeders.length = 1 ∧
      sendsOne ((blocks.getD a.block []).getD (a.feeders.headD 0) none) = true then decide (a.ofs ≤ b.ofs)
  else Config.addressesRise image a.block a.slot b.slot

/-- Consecutive accesses of one wave that one operation is split into: of its class, with consecutive OWN values, in address
order (R403). -/
def splitRun (image : Nat) (blocks : List (List (Option Instr))) (o : SlMem) : List NativeMem → Bool
  | [] => true
  | [a] => a.cls == o.cls
  | a :: b :: l => a.cls == o.cls && a.block == b.block && a.level == b.level && b.own == a.own + 1 && inAddressOrder image blocks a b &&
      splitRun image blocks o (b :: l)

/-- Operations merged into one access (R403): plain, of one wave and of its class, no ordering edge between two of them, and
address producers that allow it. -/
def mergeRun (words : List Nat) (b : Nat) (a : NativeMem) : List SlMem → Bool
  | [] => false
  | [o] => o.cls == a.cls && o.cls.ord == .plain
  | o :: p :: l => o.cls == a.cls && o.cls.ord == .plain && o.region == p.region && o.level == p.level && !p.edge && a.cls.opc != 0x107 &&
      Config.addressesJoin words b o.place p.place && mergeRun words b a (p :: l)

/-- An operation and its access come as many waves after the ones before them as the list has it, where both stand in one region and
in one native block (R202, R403). -/
def waveKept (prev : Option (SlMem × NativeMem)) (o : SlMem) (a : NativeMem) : Bool :=
  prev.all (fun x => x.1.region != o.region || x.2.block != a.block || x.2.level + o.level == a.level + x.1.level)

/-- The memory operations of a block correspond, in their order, to a list of accesses: each to one access, to a run of
consecutive ones, or to a share of a merged one, in the waves of the list; `fuel` bounds the operations. -/
def corresponds (image : Nat) (blocks : List (List (Option Instr))) (words : List Nat) (b : Nat) :
    Nat → Option (SlMem × NativeMem) → List SlMem → List NativeMem → Bool
  | _, _, [], as => as.isEmpty
  | 0, _, _ :: _, _ => false
  | _ + 1, _, _ :: _, [] => false
  | n + 1, prev, o :: os, a :: as =>
    waveKept prev o a &&
      ((List.range (as.length + 1)).any (fun k => splitRun image blocks o (a :: as.take k) &&
          corresponds image blocks words b n (some (o, a)) os (as.drop k)) ||
        (List.range os.length).any (fun k => mergeRun words b a (o :: os.take (k + 1)) &&
          corresponds image blocks words b n (some (o, a)) (os.drop (k + 1)) as))

/-- Every way to give each of `n` further blocks to one of `m` Slaloth blocks. -/
def blockOwners (m : Nat) : Nat → List (List Nat)
  | 0 => [[]]
  | n + 1 => (List.range m).flatMap (fun k => (blockOwners m n).map (fun r => k :: r))

/-- Check 3 of R404: for some way to give the blocks that the translator added to Slaloth blocks (R402), the memory operations
of each Slaloth block correspond to the accesses of its blocks. -/
def translationKeeps (image : Nat) (blocks : List (List (Option Instr))) (words : List Nat) (bs : List SlBlock)
    (native : List (List NativeMem)) : Bool :=
  decide (bs.length ≤ native.length) &&
    (blockOwners bs.length (native.length - bs.length)).any (fun owner =>
      (List.range bs.length).all (fun b =>
        let more := (List.range owner.length).filter (fun j => owner.getD j 0 == b)
        let ms := ((bs[b]?).map slMems).getD []
        corresponds image blocks words b ms.length none ms (native.getD b [] ++ more.flatMap (fun j => native.getD (bs.length + j) []))))

end Sys2Proof.Machine
end

