-- ==== Sys2Proof/Machine/Loader.lean ====
section
/-! DEFINITION. The root sequencer's loads (18_object.md R389 to R405). Objects are read as little-endian numbers. The
keys and fuses of the device are opaque (assumption 9); the translator's answer is an input of the load (assumption 11). -/
namespace Sys2Proof.Machine

/-! ### Requests (R392, R393) -/

/-- Result codes (R396). -/
def loadOk : Nat := 0x01
def loadFormat : Nat := 0x10
def loadSignature : Nat := 0x11
def loadSecver : Nat := 0x12
def loadNoImage : Nat := 0x13
def loadRevoked : Nat := 0x14
def loadVerify : Nat := 0x15
def loadArea : Nat := 0x16
def loadContext : Nat := 0x17
def loadBusyCode : Nat := 0x18
def loadTranslate : Nat := 0x19

/-- A range lies wholly in HBM or in host memory (R509). -/
def inHbmOrHost (a n : Nat) : Bool := wholly .hbm a n || wholly .host a n

/-- A write to OBREQ (R392, R509). -/
def writeObreq (s : State) (v : Word) : State :=
  let pa := (v.extractLsb' 7 45).toNat * 128
  let n := if inHbmOrHost pa 128 && engineRead s pa 2 == 3 then 168 else 128
  if inHbmOrHost pa n then
    if s.loads.length < 16 then { s with loads := s.loads ++ [pa] } else { s with busyLoads := s.busyLoads ++ [pa] }
  else s

/-- RESULT written, at system scope (R393). -/
def writeResult (s : State) (pa code step secver : Nat) : State :=
  engineWrite s (pa + 64) 8 (code + step * 2 ^ 8 + secver * 2 ^ 16)

/-- A request ends: OUTDIG, then RESULT, and it is held no longer (R393). -/
def endRequest (s : State) (pa : Nat) (digest : Nat) (code step secver : Nat) : State :=
  writeResult (engineWrite { s with loads := s.loads.drop 1 } (pa + 72) 32 digest) pa code step secver

/-- The value `n` written to OBREQ, at the host's offset or by `swr`. -/
def execObreqWrite (s : State) : Result :=
  match s.cur with
  | .at _ n _ _ => .next (writeObreq { s with cur := .idle } (BitVec.ofNat 64 n))
  | _ => .next s

/-- The first request that found no room receives its code (R392). -/
def execLoadBusy (s : State) : Result :=
  match s.cur with
  | .at _ _ _ _ =>
    let s := { s with cur := .idle }
    match s.busyLoads with
    | pa :: rest => .next (writeResult { s with busyLoads := rest } pa loadBusyCode 0 0)
    | [] => .next s
  | _ => .next s

/-- The request at the head of the queue, with its 168 bytes. -/
def headRequest (s : State) : Option (Nat × Nat) := s.loads.head?.map (fun pa => (pa, engineRead s pa 168))

/-- The reserved bits that every request has are zero: FLAGS and bytes 6 and 7 (R393). -/
def flagsSound (r : Nat) : Bool := bytesAt r 2 2 < 4 && bytesAt r 6 2 == 0

/-- The reserved bits of a load request are zero, and its addresses aligned (R393). -/
def requestSound (r : Nat) : Bool :=
  flagsSound r && decide (bytesAt r 4 2 < 4096) && bytesAt r 104 24 == 0 &&
    bytesAt r 8 8 % 64 == 0 && bytesAt r 16 8 % 64 == 0 && (bytesAt r 0 2 != 2 || bytesAt r 8 8 == 0)

/-- What step 1 of R394 says of a context: it waits, it fails, or it passes. -/
inductive CtxCheck where
  | wait | fail | pass
  deriving DecidableEq, Repr

def loadCtx (s : State) (c : BitVec 12) : CtxCheck :=
  match (ctxAt s c).phase with
  | .preempting => .wait
  | .loaded | .runnable | .running | .saved => .pass
  | .free | .frozen | .dead => .fail

/-! ### The object (R389 to R391) -/

def objLen (o : Nat) : Nat := bytesAt o 8 4
def objNimg (o : Nat) : Nat := bytesAt o 12 2
def objNker (o : Nat) : Nat := bytesAt o 14 2
def objSecver (o : Nat) : Nat := bytesAt o 6 2
def objSlofs (o : Nat) : Nat := bytesAt o 16 8
def objSllen (o : Nat) : Nat := bytesAt o 24 4
def objKtofs (o : Nat) : Nat := bytesAt o 28 4
def objItofs (o : Nat) : Nat := bytesAt o 32 4
def objNind (o : Nat) : Nat := bytesAt o 36 2
def objKey (o : Nat) : Nat := bytesAt o 38 1
def objHbid (o : Nat) : Nat := bytesAt o 40 4

/-- An image directory entry (R390). -/
structure DirImage where
  gen : Nat
  stepping : Nat
  nblk : Nat
  ofs : Nat
  len : Nat
  deriving DecidableEq, Repr

/-- Entry `i` of the image directory. -/
def dirImage (o i : Nat) : DirImage :=
  let b := 64 + 32 * i
  DirImage.mk (bytesAt o b 1) (bytesAt o (b + 1) 1) (bytesAt o (b + 4) 4) (bytesAt o (b + 8) 8) (bytesAt o (b + 16) 8)

def dirImages (o : Nat) : List DirImage := (List.range (objNimg o)).map (dirImage o)

/-- The parts of an object by their first byte and length (R389). -/
def objParts (o : Nat) : List (Nat × Nat) :=
  [(64, 32 * objNimg o), (objKtofs o, 128 * objNker o), (objItofs o, 4 * objNind o)] ++
    (dirImages o).map (fun d => (d.ofs, d.len)) ++ (if objSlofs o = 0 then [] else [(objSlofs o, objSllen o)])

/-- No two parts overlap. -/
def disjoint : List (Nat × Nat) → Bool
  | [] => true
  | x :: l => l.all (fun y => decide (x.1 + x.2 ≤ y.1) || decide (y.1 + y.2 ≤ x.1) || x.2 == 0 || y.2 == 0) && disjoint l

/-- Block `b` of an image of `nblk` blocks and `len` bytes is laid out as R390 says. -/
def blockSound (image nblk len b : Nat) : Bool :=
  let o := bytesAt image (4 * b) 4
  let h := bytesAt image o 16
  o % 16 == 0 && decide (4 * nblk ≤ len) && hdrBid h == b && decide (o + 16 + 16 * hdrNi h ≤ len)

/-- An image and its directory entry (R390), naming every block up to `top`. -/
def imageSound (o : Nat) (top : Nat) (i : Nat) : Bool :=
  let d := dirImage o i
  let image := bytesAt o d.ofs d.len
  bytesAt o (66 + 32 * i) 2 == 0 && bytesAt o (88 + 32 * i) 8 == 0 && d.stepping != 0 && decide (1 ≤ d.nblk) &&
    decide (d.nblk ≤ 2 ^ 20) && d.ofs % 16 == 0 && decide (top ≤ d.nblk) &&
    (List.range d.nblk).all (blockSound image d.nblk d.len)

/-- Buffers of a kernel entry as SLOTS and SLOTBYTES, and where they end (R270, R391). -/
def kernelBuffers (k : Nat) : List (Nat × Nat) :=
  (List.range 16).map (fun n =>
    let w := bytesAt k (16 + 4 * n) 4
    (bitsOf w 0 9, if bitsOf w 0 9 = 0 then 0 else 16 * (bitsOf w 9 12 + 1)))
def buffersEnd : Nat → List (Nat × Nat) → Nat
  | e, [] => e
  | e, (n, b) :: l => if n = 0 then buffersEnd e l else buffersEnd ((e + 63) / 64 * 64 + n * b) l

/-- A kernel table entry is within its limits (R391). -/
def kernelSound (k : Nat) : Bool :=
  decide (1 ≤ bytesAt k 4 2) && decide (bytesAt k 4 2 ≤ 1024) && decide (bytesAt k 6 2 ≤ 4096) && bytesAt k 6 2 % 8 == 0 &&
    decide (bytesAt k 8 4 ≤ 1048576) && bytesAt k 8 4 % 16 == 0 && bytesAt k 12 4 == 0 && bytesAt k 112 16 == 0 &&
    (List.range 16).all (fun n => decide (bitsOf (bytesAt k (16 + 4 * n) 4) 0 9 ≤ 256) && bitsOf (bytesAt k (16 + 4 * n) 4) 21 11 == 0) &&
    (List.range 16).all (fun n => decide (bytesAt k (80 + 2 * n) 2 ≤ 1024)) &&
    decide (buffersEnd 0 (kernelBuffers k) ≤ bytesAt k 8 4)

/-- One more than the highest block that the tables name. -/
def tablesTop (header kernels targets : Nat) : Nat :=
  let ks := (List.range (objNker header)).map (fun i => bytesAt kernels (128 * i) 4)
  let ts := (List.range (objNind header)).map (fun i => bytesAt targets (4 * i) 4)
  let h := if objHbid header = 0xFFFF_FFFF then [] else [objHbid header]
  (ks ++ ts ++ h).foldl (fun m b => max m (b + 1)) 0

/-- Step 3 of R394: the header and tables under R389 to R391. -/
def objectSound (o : Nat) : Bool :=
  let n := objLen o
  let kernels := bytesAt o (objKtofs o) (128 * objNker o)
  let top := tablesTop o kernels (bytesAt o (objItofs o) (4 * objNind o))
  bytesAt o 0 4 == 0x5A4B4F31 && bytesAt o 4 2 == 1 && n % 64 == 0 && decide (128 ≤ n) && decide (objNimg o ≤ 15) &&
    decide (1 ≤ objNker o) && decide (objNker o ≤ 256) && objSlofs o % 64 == 0 && objSllen o % 4 == 0 &&
    objKtofs o % 64 == 0 && objItofs o % 4 == 0 && decide (objNind o ≤ 4096) && decide (objKey o ≤ 7) &&
    bytesAt o 39 1 == 0 && bytesAt o 44 20 == 0 &&
    (objParts o).all (fun x => x.2 == 0 || (decide (64 ≤ x.1) && decide (x.1 + x.2 ≤ n - 64))) && disjoint (objParts o) &&
    (List.range (objNker o)).all (fun i => kernelSound (bytesAt kernels (128 * i) 128)) &&
    (List.range (objNimg o)).all (imageSound o top)

/-- Step 4 of R394 (R395). -/
def objectSigned (o : Nat) : Bool :=
  let n := objLen o - 64
  slotAccepts (BitVec.ofNat 3 (objKey o)) (littleBytes n o) (swapBytes 32 (bytesAt o n 32)) (swapBytes 32 (bytesAt o (n + 32) 32))

/-- The digest of an object's Slaloth image; zero without one (R393). -/
def objDigest (o : Nat) : Nat :=
  if objSlofs o = 0 then 0 else (sm3Digest (bytesAt o (objSlofs o) (objSllen o)) (objSllen o)).toNat

/-! ### Selection (R397, R399) -/

/-- DEVID.GEN (R22). -/
def devGen : Nat := 4

/-- Steps 1 and 2 of R397: the image and the step. -/
def nativeImage (s : State) (o : Nat) : Option (DirImage × Nat) :=
  let sn := s.dev.step.toNat
  match (dirImages o).find? (fun d => d.gen == devGen && d.stepping == sn) with
  | some d => some (d, 1)
  | none =>
    (((dirImages o).filter (fun d => d.gen == 4 && decide (d.stepping ≤ sn))).foldl (fun m d => match m with
      | none => some d
      | some b => if b.stepping < d.stepping then some d else some b) none).map (fun d => (d, 2))

/-- What a load image is made of, for an image of an object. -/
def selectImage (o : Nat) (gen stepping nblk len image : Nat) : Selected where
  header := bytesAt o 0 64
  kernels := bytesAt o (objKtofs o) (128 * objNker o)
  targets := bytesAt o (objItofs o) (4 * objNind o)
  gen := gen
  stepping := stepping
  nblk := nblk
  len := len
  image := image

/-- An entry of the translation cache has the key of a digest on this device, for a version of the translator (R397). -/
def keyMatches (s : State) (digest : BitVec 256) (version : Nat) (e : CacheEntry) : Bool :=
  e.digest == digest && e.gen == devGen && e.stepping == s.dev.step.toNat && e.version == version

/-- The entry of the translation cache for a digest on this device. -/
def cacheEntry (s : State) (digest : BitVec 256) (version : Nat) : Option CacheEntry :=
  s.cache.find? (keyMatches s digest version)

/-- The cache without the entry of a key. -/
def dropCache (s : State) (e : CacheEntry) : State :=
  { s with cache := s.cache.filter (fun y => !keyMatches s e.digest e.version y) }

/-- A privileged opcode for a context (R75). -/
def privilegedInstr (inj : Bool) : Instr → Bool
  | .tlbi _ _ | .imtr _ _ | .halt _ _ | .rrec _ _ => true
  | .minj _ _ => !inj
  | _ => false

/-- The blocks and entries that an instruction names: the BID, and each entry by its number (R107, R108). -/
def namedEntries : Instr → List (Nat × Nat)
  | .exit h => [(bitsOf h.cfg.toNat 0 32, bitsOf h.cfg.toNat 32 4)]
  | .call h ind _ =>
    if ind then [] else [(bitsOf h.cfg.toNat 0 32, bitsOf h.cfg.toNat 32 4), (bitsOf h.cfg.toNat 0 32, bitsOf h.cfg.toNat 38 4)]
  | _ => []

/-- The header of a block of an image. -/
def imageHeader (image b : Nat) : Nat := bytesAt image (bytesAt image (4 * b) 4) 16

/-- What the signature of an entry of the translation cache stands over (R399). -/
def entrySigned (e : CacheEntry) : List Nat :=
  [e.digest.toNat, e.gen, e.stepping, e.version, e.sv, e.held.header, e.held.kernels, e.held.targets, e.held.gen, e.held.stepping,
    e.held.nblk, e.held.len, e.held.image]

/-- An entry with the signature of the device identity key (R399). -/
def sealEntry (e : CacheEntry) : CacheEntry := { e with sig := Config.identitySignature (entrySigned e) }

/-- The signature of an entry holds, as the root sequencer reads it: `err` are the bits of it that an error of the HBM area has changed
(R399; assumption 9). -/
def entryHolds (e : CacheEntry) (err : Nat) : Bool :=
  (e.sig ^^^ BitVec.ofNat 512 err) == Config.identitySignature (entrySigned e)

/-- Checks 1, 4 and 5 of R404 on a block of a translation. -/
def translatedBlock (onHeadland inj : Bool) (x : Selected) (b : Nat) : Bool :=
  let h := imageHeader x.image b
  let v := bytesAt x.image (bytesAt x.image (4 * b) 4 + 16) (16 * hdrNi h)
  let is := (nativeBlock x.image b).filterMap id
  blockSound x.image x.nblk x.len b && (imageFault h v onHeadland).isNone &&
    is.all (fun i => onHeadland || !privilegedInstr inj i) &&
    (is.flatMap namedEntries).all (fun e => decide (e.1 < x.nblk) && decide (e.2 < hdrNent (imageHeader x.image e.1)))

/-- Checks 1, 4 and 5 of R404 on a translation that context `c` loads, with the tables that it is loaded with. -/
def translationFits (s : State) (c : BitVec 12) (x : Selected) : Bool :=
  decide (1 ≤ x.nblk) && decide (tablesTop x.header x.kernels x.targets ≤ x.nblk) &&
    (List.range x.nblk).all (translatedBlock (c == headland) ((ctxAt s c).regs.cfg.getLsbD 2) x)

/-- Checks 2 and 3 of R404 on a translation of a Slaloth image of `n` bytes: the wave rules on every path of each block, and the
correspondence of memory operations; an entry of a Slaloth block stays one, and its LOAD is kept. -/
def translationSound (slaloth n : Nat) (x : Selected) : Bool :=
  match slDecode slaloth n with
  | none => false
  | some bs =>
    let headers := (List.range x.nblk).map (imageHeader x.image)
    let blocks := (List.range x.nblk).map (nativeBlock x.image)
    (List.range x.nblk).all (fun b => blockWaves (blocks.getD b []) (hdrNent (headers.getD b 0))) &&
      backEdges blocks &&
      (List.range bs.length).all (fun b => (bs[b]?).any (fun k => decide (k.nent ≤ hdrNent (headers.getD b 0)))) &&
      translationKeeps x.image blocks (slWords slaloth n) bs ((List.range x.nblk).map (fun b =>
        nativeMems b (blocks.getD b []) (hdrNent (headers.getD b 0))))

/-- Step 4 of R397, with the translator's answer `v`: nothing where it refused, else NBLK, LEN and the image; `version` is its
own. The verifier checks it (R404). -/
def freshTranslation (s : State) (c : BitVec 12) (o version : Nat) (noCache : Bool) (v : List Nat) :
    Except Nat (State × Selected × Nat) :=
  match v with
  | [nblk, len, image] =>
    let x := selectImage o devGen s.dev.step.toNat nblk len (image % 256 ^ len)
    if translationFits s c x && translationSound (bytesAt o (objSlofs o) (objSllen o)) (objSllen o) x then
      let e := sealEntry (CacheEntry.mk (BitVec.ofNat 256 (objDigest o)) devGen s.dev.step.toNat version (objSecver o) x 0)
      let rest := s.cache.filter (fun y => !keyMatches s e.digest version y)
      .ok (if noCache then s else { s with cache := e :: rest }, x, 4)
    else .error loadVerify
  | _ => .error loadTranslate

/-- An entry of the cache as a full load takes it: the translation, with the tables of the object loaded (R394). -/
def cachedImage (o : Nat) (e : CacheEntry) : Selected :=
  selectImage o e.gen e.stepping e.held.nblk e.held.len e.held.image

/-- A full load comes to step 3 of R397: no native image, and a Slaloth image that it may use. -/
def asksCache (s : State) (o : Nat) (noTrans : Bool) : Bool := (nativeImage s o).isNone && !noTrans && objSlofs o != 0

/-- The state in which a full load goes on from step 3 of R397: an entry of the cache whose signature fails or
whose SV is below the floor is discarded, whatever becomes of the load (R399). -/
def dropStale (s : State) (o version : Nat) (noTrans : Bool) (err : Nat) : State :=
  match cacheEntry s (BitVec.ofNat 256 (objDigest o)) version with
  | some e => if asksCache s o noTrans && (!entryHolds e err || decide (e.sv < s.dev.floor.toNat)) then dropCache s e else s
  | none => s

/-- The selection of a full load (R397). DEDUCED: a translation from the cache is loaded only where checks 1, 4 and 5 of R404
hold for this context and these tables (assumption 11). -/
def selectFull (s : State) (c : BitVec 12) (o version : Nat) (noTrans noCache : Bool) (v : List Nat) :
    Except Nat (State × Selected × Nat) :=
  match nativeImage s o with
  | some (d, n) => .ok (s, selectImage o d.gen d.stepping d.nblk d.len (bytesAt o d.ofs d.len), n)
  | none =>
    if noTrans || objSlofs o == 0 then .error loadNoImage
    else
      match cacheEntry s (BitVec.ofNat 256 (objDigest o)) version with
      | some e => if translationFits s c (cachedImage o e) then .ok (s, cachedImage o e, 3) else .error loadVerify
      | none => freshTranslation s c o version noCache v

/-! ### Placement (R394, R423) -/

/-- Where the parts of a load image stand, and its length. -/
def imageKtofs : Nat := 128
def imageItofs (x : Selected) : Nat := 128 + 128 * objNker x.header
def imageOfs (x : Selected) : Nat := (imageItofs x + 4 * objNind x.header + 15) / 16 * 16
def imageLen (x : Selected) : Nat := (imageOfs x + x.len + 63) / 64 * 64

/-- The bytes of a load image (R394). -/
def loadImage (x : Selected) : Nat :=
  let h := x.header
  let at_ := fun (o v : Nat) => v * 256 ^ o
  at_ 0 (bytesAt h 0 8) + at_ 8 (imageLen x) + at_ 12 1 + at_ 14 (objNker h) + at_ 28 imageKtofs + at_ 32 (imageItofs x) +
    at_ 36 (bytesAt h 36 8) + at_ 64 x.gen + at_ 65 x.stepping + at_ 68 x.nblk + at_ 72 (imageOfs x) + at_ 80 x.len +
    at_ imageKtofs x.kernels + at_ (imageItofs x) x.targets + at_ (imageOfs x) x.image

/-- Instructions with IM ≠ 0 in an image (R423). -/
def overrideCount (x : Selected) : Nat :=
  ((List.range x.nblk).map (fun b =>
    let o := bytesAt x.image (4 * b) 4
    let h := bytesAt x.image o 16
    (imageStations (hdrNi h) (bytesAt x.image (o + 16) (16 * hdrNi h))).countP (fun st => st.op.extractLsb' 48 3 != 0))).sum

/-- The bytes of the override tables of an image: one table for each of 32 plots (R423). -/
def tableBytes (x : Selected) : Nat := 32 * 16 * overrideCount x

/-- The pages of the area map X and P (R394). -/
def areaMapped (s : State) (c : BitVec 12) (kobj : Word) (area : Nat) : Bool :=
  (pagesOf kobj area).all (fun a =>
    match engineTranslate s 32 c a .area with
    | .ok (_, _, l) => pteP l.pte
    | .error _ => false)

/-- The override tables fit below the reserve (R423). -/
def tablesFit (s : State) (c : BitVec 12) (kobj : Word) (x : Selected) : Bool :=
  let others := ((ctxAt s c).objects.filter (fun o => o.obj != kobj)).map (fun o => o.tableBytes)
  decide (others.sum + tableBytes x + spilledItems s c * Config.spillItem ≤ spillRoom (ctxAt s c))

/-- Step 7 of R394. -/
def placementSound (s : State) (c : BitVec 12) (kobj : Word) (area : Nat) (x : Selected) : Bool :=
  decide (imageLen x ≤ area) && areaMapped s c kobj area && tablesFit s c kobj x

/-- Step 8 on one plot: its copies of the object's blocks are discarded. -/
def discardCopies (s : State) (c : BitVec 12) (kobj : Word) (p : Nat) : State :=
  let mine := fun (k : Copy) => k.id.ctx == c && k.id.obj == kobj
  let tiles := ((plotAt s p).blocks.copies.filter (fun k => mine k && k.phase != .absent)).map (fun k => firingTile k)
  let s := modBlocks s p (fun u => { u with counts := dropCount c kobj u.counts, copies := u.copies.map (fun k =>
    if mine k then { k with phase := .absent, stations := [], nent := 0, newTile := none, switched := false } else k) })
  tiles.foldl (fun s t => freeTile s p t) s

/-- Step 8 of R394. -/
def discardObject (s : State) (c : BitVec 12) (kobj : Word) : State :=
  let s := (List.range 36).foldl (fun s p => discardCopies s c kobj p) s
  let s := modCtx s c (fun x => { x with
    rejected := x.rejected.filter (fun r => r.block.obj != kobj), objects := x.objects.filter (fun o => o.obj != kobj) })
  { s with overrides := s.overrides.filter (fun o => !(o.block.ctx == c && o.block.obj == kobj)) }

/-- Where the lines of a load image stand, by the translations of step 7. -/
def areaLines (s : State) (c : BitVec 12) (kobj : Word) (n : Nat) : List Nat :=
  (List.range ((n + 63) / 64)).filterMap (fun i => match engineTranslate s 32 c (kobj + BitVec.ofNat 64 (64 * i)) .area with
    | .ok (_, pa, _) => some (pa / 64)
    | .error _ => none)

/-- The first byte of a range whose word is uncorrectable, as an offset in the range. -/
def firstBad (s : State) (a n : Nat) : Option Nat := (List.range n).find? (fun j => s.mem.bad (a + j) 1)

/-- How many bytes of a load image are written before uncorrectable data is met (R394): in the image that is read at `src` for
it, or in the word that its first bytes share with MAGIC. DESIGN CHOICE (assumption 9): the manual does not say what data. -/
def writtenBytes (s : State) (c : BitVec 12) (kobj : Word) (x : Selected) (src : Option Nat) : Option Nat :=
  match engineTranslate s 32 c kobj .area with
  | .ok (_, pa, _) =>
    if s.mem.bad pa 8 then some 0
    else (src.bind (fun a => firstBad s a x.len)).map (fun j => (imageOfs x + j) / 64 * 64)
  | .error _ => some 0

/-- Step 9 of R394: the load image written through the translations of step 7, which ask for no W, its MAGIC last; none where
uncorrectable data is met, which leaves what was written before it. -/
def writeImage (s : State) (c : BitVec 12) (kobj : Word) (x : Selected) (src : Option Nat) : State × Bool :=
  let v := loadImage x
  let body := fun (n : Nat) => virtualWriteFrom .area (n / 4096 + 2) s 32 c (kobj + 4) (n - 4) (v / 256 ^ 4)
  match writtenBytes s c kobj x src with
  | some n => ((body n).toOption.getD s, false)
  | none =>
    match body (imageLen x) with
    | .error _ => (s, false)
    | .ok s =>
      match virtualWriteFrom .area 1 s 32 c kobj 4 (v % 256 ^ 4) with
      | .ok s => (s, true)
      | .error _ => (s, false)

/-- Steps 7 to 9 of R394, and the result; `src` is where a native image is read. The load waits, and `s0` stands, while a line
of its area is not at rest: a line is written at its home in the line's turn (R247, R252). -/
def placeObject (s0 s : State) (pa : Nat) (c : BitVec 12) (kobj : Word) (area digest step secver : Nat) (x : Selected)
    (src : Option Nat) : State :=
  if placementSound s c kobj area x = false then endRequest s pa digest loadArea 0 0
  else if (areaLines s c kobj (imageLen x)).any (fun l => rangeOf (64 * l) == .hbm && !quiet s l) then s0
  else
    let r := writeImage (discardObject s c kobj) c kobj x src
    if r.2 then
      endRequest (modCtx r.1 c (fun y => { y with objects := Loaded.mk kobj (tableBytes x) :: y.objects })) pa digest loadOk step secver
    else endRequest r.1 pa digest loadArea 0 0

/-! ### The loads (R394) -/

/-- A full load of the object at a physical address (R394); `version` is the translator's, and `err` are the bits that an error has
changed in the signature of the entry of the cache that it looks up. -/
def fullLoad (s : State) (pa r : Nat) (c : BitVec 12) (version err : Nat) (v : List Nat) : State :=
  let a := bytesAt r 8 8
  let head := if inHbmOrHost a 64 then engineRead s a 64 else 0
  let n := objLen head
  if bytesAt head 0 4 ≠ 0x5A4B4F31 ∨ inHbmOrHost a n = false then endRequest s pa 0 loadFormat 0 0
  else
    let o := engineRead s a n
    if objectSound o = false then endRequest s pa 0 loadFormat 0 0
    else if c = headland ∧ objKey o ≠ 0 then endRequest s pa (objDigest o) loadContext 0 0
    else if objectSigned o = false then endRequest s pa (objDigest o) loadSignature 0 0
    else if objSecver o < s.dev.floor.toNat then endRequest s pa (objDigest o) loadSecver 0 0
    else
      let u := dropStale s o version (bitsOf r 16 1 == 1) err
      match selectFull u c o version (bitsOf r 16 1 == 1) (bitsOf r 17 1 == 1) v with
      | .error code => endRequest u pa (objDigest o) code 0 0
      | .ok (t, x, step) =>
        placeObject s t pa c (BitVec.ofNat 64 (bytesAt r 16 8)) (bytesAt r 24 8) (objDigest o) step (objSecver o) x
          ((nativeImage s o).map (fun d => a + d.1.ofs))

/-- A load at the head of the queue is served with a function of its physical address, its bytes and its context, once its
context has left PREEMPTING (R393, R394). -/
def serveLoad (s : State) (pa r : Nat) (f : BitVec 12 → State) : State :=
  let c := BitVec.ofNat 12 (bytesAt r 4 2)
  if requestSound r = false then endRequest s pa 0 loadFormat 0 0
  else match loadCtx s c with
    | .wait => s
    | .fail => endRequest s pa 0 loadContext 0 0
    | .pass => f c

/-- The request at the head of the queue is served in full (R394): KIND 1, and any KIND that names no request. `n` is the version
of the translator, `m` are the bits that an error has changed in the signature of the load's entry of the cache, and `v` is the translator's answer. -/
def execFullLoad (s : State) : Result :=
  match s.cur with
  | .at _ n m v =>
    let s := { s with cur := .idle }
    match headRequest s with
    | some (pa, r) =>
      if bytesAt r 0 2 = 2 ∨ bytesAt r 0 2 = 3 then .next s
      else if bytesAt r 0 2 ≠ 1 then .next (endRequest s pa 0 loadFormat 0 0)
      else .next (serveLoad s pa r (fun c => fullLoad s pa r c n m v))
    | none => .next s
  | _ => .next s

/-- A cached load (R394, R399): step 3 of R397 alone, so with NOTRANS it finds no image (R393). `err` are the bits that an error has
changed in the entry's signature. Only an object of key slot 0 runs in the headland context (R395). -/
def cachedLoad (s : State) (pa r : Nat) (c : BitVec 12) (version err : Nat) : State :=
  match if bitsOf r 16 1 = 1 then none else cacheEntry s (BitVec.ofNat 256 (bytesAt r 32 32)) version with
  | none => endRequest s pa 0 loadNoImage 0 0
  | some e =>
    if entryHolds e err = false then endRequest (dropCache s e) pa 0 loadNoImage 0 0
    else if e.sv < s.dev.floor.toNat then endRequest (dropCache s e) pa e.digest.toNat loadRevoked 0 0
    else if c = headland ∧ objKey e.held.header ≠ 0 then endRequest s pa e.digest.toNat loadContext 0 0
    else if translationFits s c e.held = false then endRequest s pa e.digest.toNat loadVerify 0 0
    else placeObject s s pa c (BitVec.ofNat 64 (bytesAt r 16 8)) (bytesAt r 24 8) e.digest.toNat 3 e.sv e.held none

/-- A cached load at the head of the queue is served; `n` and `m` are as a full load's. -/
def execCachedLoad (s : State) : Result :=
  match s.cur with
  | .at _ n m _ =>
    let s := { s with cur := .idle }
    match headRequest s with
    | some (pa, r) => if bytesAt r 0 2 ≠ 2 then .next s else .next (serveLoad s pa r (fun c => cachedLoad s pa r c n m))
    | none => .next s
  | _ => .next s

/-- A floor raise (R398): the reserved bits of its request first (R393), then its signature, then what it asks. -/
def floorRaise (s : State) (pa r : Nat) : State :=
  let floor := bytesAt r 32 2
  if flagsSound r = false then endRequest s pa 0 loadFormat 0 0
  else if slotAccepts 0 (littleBytes 32 (bytesAt r 32 32)) (swapBytes 32 (bytesAt r 104 32)) (swapBytes 32 (bytesAt r 136 32)) = false then
    endRequest s pa 0 loadSignature 0 0
  else if bytesAt r 34 2 ≠ 0 ∨ bytesAt r 36 4 ≠ s.dev.peerid.toNat ∨ bytesAt r 40 24 ≠ 0 ∨ floor ≤ s.dev.floor.toNat ∨
      s.dev.left = 0 then endRequest s pa 0 loadFormat 0 0
  else endRequest { s with dev := { s.dev with floor := BitVec.ofNat 16 floor, left := s.dev.left - 1 } } pa 0 loadOk 0 0

/-- A floor raise at the head of the queue is served. -/
def execFloorRaise (s : State) : Result :=
  match s.cur with
  | .at _ _ _ _ =>
    let s := { s with cur := .idle }
    match headRequest s with
    | some (pa, r) => if bytesAt r 0 2 = 3 then .next (floorRaise s pa r) else .next s
    | none => .next s
  | _ => .next s

end Sys2Proof.Machine
end

