-- ==== Sys2Proof/Machine/Registers.lean ====
section
/-! DEFINITION. System registers (19_context.md R410 to R414, with the rules of other chapters that extend its list), `srd`
and `swr`, and the steps of the whole device: cold reset, the plot clock, and a plot taken offline. -/
namespace Sys2Proof.Machine

/-! ### Access rights (R410, R465, R466, R474 to R476, R489) -/

/-- Who may reach a register: anyone, or the headland context only; with writes ignored, or writes of others a fault. -/
inductive Rights where
  | open | readOnly | headWrite | headOnly | headRead | counters
  deriving DecidableEq, Repr

/-- The rights of a register by its number; an unlisted number is open to all and does nothing. -/
def rightsOf (r : Nat) : Rights :=
  if r < 0x100 then .readOnly
  else if r < 0x120 then .counters
  else if r < 0x200 then .readOnly
  else if r = 0x202 ∨ r = 0x203 ∨ r = 0x204 then .headWrite
  else if 0x208 ≤ r ∧ r ≤ 0x20E then .headOnly
  else if r = 0x300 ∨ (0x304 ≤ r ∧ r ≤ 0x307) ∨ r = 0x310 ∨ r = 0x311 ∨ r = 0x320 ∨ r = 0x340 ∨ r = 0x341 then .headOnly
  else if r = 0x350 ∨ r = 0x351 ∨ r = 0x352 then .headOnly
  else if (0x360 ≤ r ∧ r ≤ 0x362) ∨ (0x364 ≤ r ∧ r ≤ 0x366) ∨ r = 0x370 ∨ r = 0x371 then .headOnly
  else .open

/-- A context may read a register. -/
def mayRead (c : BitVec 12) (r : Nat) : Bool :=
  match rightsOf r with
  | .headOnly | .headRead => c == headland
  | .open | .readOnly | .headWrite | .counters => true

/-- A context may write a register from a plot (an ignored write is one it may make). -/
def mayWrite (s : State) (p : Nat) (c : BitVec 12) (r : Nat) : Bool :=
  match rightsOf r with
  | .headOnly | .headRead | .headWrite => c == headland
  | .counters => c == headland || (regsOn s c p).cfg.getLsbD 3
  | .open | .readOnly => true

/-! ### Reading (R414) -/

/-- DEVID (R22). -/
def devid (s : State) : Word :=
  4#8 ++ s.dev.step ++ 0#6 ++ s.dev.peerid ++ s.dev.plots

/-- TTHR and TSTAT (R475). -/
def tthr (t : Threshold) : Word :=
  BitVec.ofNat 64 (t.mstep.toNat * 2 ^ 17 + natOfBool t.en * 2 ^ 16 + t.temp.toNat)
def tstat (d : Thermal) : Word :=
  BitVec.ofNat 64 ((List.range 4).foldl (fun n i =>
    n + natOfBool ((d.thresholds[i]?).any trippedNow) * 2 ^ (16 + i)) d.temp.toNat)

/-- PWCAP, RCCNT and BPOOL (R474, R476). -/
def pwcap (w : Power) : Word := BitVec.ofNat 64 (w.fallback.toNat * 2 ^ 32 + w.cap.toNat * 2 ^ 16 + w.src.toNat)
def rccnt (w : Power) : Word := w.acc ++ w.gap ++ w.old ++ w.dup
def bpool (w : Power) : Word :=
  BitVec.ofNat 64 (w.rthr.toNat * 2 ^ 48 + w.cstep * 2 ^ 45 + w.start * 2 ^ 8 + w.free)

/-- A register held per context, on the plot of a firing. -/
def readCtxReg (s : State) (p : Nat) (c : BitVec 12) (r : Nat) : Word :=
  let k := (ctxAt s c).counts.getD p (freshSlice 0)
  match r with
  | 0x205 => k.icnt.setWidth 64
  | 0x206 => k.dline.setWidth 64
  | 0x207 => c.setWidth 64
  | _ => readCtxRegs (regsOn s c p) r

/-- A register held per die, and the device registers of die 0. -/
def readDieReg (s : State) (d : Nat) (r : Nat) : Word :=
  match r with
  | 0x300 => (s.hacol.getD d 0).setWidth 64
  | 0x301 => fimb s (128 + d)
  | 0x302 => fvlt s (128 + d)
  | 0x304 | 0x305 | 0x306 | 0x307 => (((thermalAt s d).thresholds[r - 0x304]?).map tthr).getD 0
  | 0x308 => tstat (thermalAt s d)
  | 0x311 => s.qtbase.getD d 0
  | 0x330 => 0#40 ++ s.dev.left ++ s.dev.floor
  | 0x341 => s.dev.ctxtbl
  | 0x350 => pwcap s.power
  | 0x351 => rccnt s.power
  | 0x352 => bpool s.power
  | 0x360 | 0x361 | 0x362 => lnkst (portAt s (3 * d + (r - 0x360)))
  | 0x364 | 0x365 | 0x366 => lnkctl (portAt s (3 * d + (r - 0x364)))
  | 0x370 => s.dev.prtbase
  | 0x371 => s.dev.pwin.getD d 0
  | _ => 0

/-- The furrow that FIMBf or FVLTf of a plot names; a headland has one furrow. -/
def plotFurrow (p n : Nat) : Option Nat := (furrowsOf p)[n % 4]?

/-- A register read by a firing on a plot, of the die it names. -/
def readReg (s : State) (p : Nat) (c : BitVec 12) (d : Nat) (r : Nat) : Word :=
  let u := (plotAt s p).blocks
  if r = 0 then devid s
  else if 0x100 ≤ r ∧ r < 0x110 then u.scev.getD (r - 0x100) 0
  else if 0x110 ≤ r ∧ r < 0x120 then u.scct.getD (r - 0x110) 0
  else if 0x120 ≤ r ∧ r < 0x124 then ((plotFurrow p (r - 0x120)).map (fimb s)).getD 0
  else if 0x124 ≤ r ∧ r < 0x128 then ((plotFurrow p (r - 0x124)).map (fvlt s)).getD 0
  else if 0x200 ≤ r ∧ r < 0x300 then readCtxReg s p c r
  else readDieReg s d r

/-! ### Writing (R5, R410 to R412, R414) -/

/-- A write to QTBASE or CTXTBL: ignored where its table would not lie in HBM (R509). -/
def writeQtbase (s : State) (d : Nat) (v : Word) : State :=
  let a := v &&& 0x000F_FFFF_FFFF_C000
  if wholly .hbm a.toNat 16384 then { s with qtbase := s.qtbase.set d a } else s
def writeCtxtbl (s : State) (v : Word) : State :=
  let a := v &&& 0x000F_FFFF_FFFF_0000
  if wholly .hbm a.toNat (4096 * 256) then { s with dev := { s.dev with ctxtbl := a } } else s

/-- A threshold after a write to its TTHR (R475). -/
def writeTthr (v : Word) (t : Threshold) : Threshold :=
  { t with mstep := v.extractLsb' 17 3, en := v.getLsbD 16, temp := v.extractLsb' 0 11 }

/-- A register of a die or of the device written. -/
def writeDieReg (s : State) (d : Nat) (r : Nat) (v : Word) : State :=
  match r with
  | 0x300 => { s with hacol := s.hacol.set d (v.extractLsb' 0 48) }
  | 0x304 | 0x305 | 0x306 | 0x307 =>
    { s with thermal := s.thermal.modify d (fun t => { t with thresholds := t.thresholds.modify (r - 0x304) (writeTthr v) }) }
  | 0x310 => writeQcmd s d v
  | 0x311 => writeQtbase s d v
  | 0x320 => writeObreq s v
  | 0x340 => writeCtxctl s v
  | 0x341 => writeCtxtbl s v
  | 0x352 => { s with power := { s.power with rthr := v.extractLsb' 48 16 } }
  | 0x364 | 0x365 | 0x366 => writeLnkctl s (3 * d + (r - 0x364)) v
  | 0x370 => writePrtbase s v
  | 0x371 => { s with dev := { s.dev with pwin := s.dev.pwin.set d (v &&& 0x1_03FF_03FF) } }
  | _ => s

/-- A counter register of a plot written (R190); the events of the present plot cycle are added to a count that is written
(R192). -/
def writeCounter (s : State) (p r : Nat) (v : Word) : State :=
  modBlocks s p (fun u =>
    let w := (v + BitVec.ofNat 64 (u.sccy.getD (r - 0x110) 0)) &&& 0xFFFF_FFFF_FFFF
    if r < 0x110 then { u with scev := u.scev.set (r - 0x100) (v &&& 0x1FFF_007F) }
    else { u with scct := u.scct.set (r - 0x110) w })

/-- The plots that a write to a register of a context has to reach (R412): every plot, and for the headland context, which runs there, the
headlands too (R16). -/
def writePlots (c : BitVec 12) : List Nat := List.range (if c = headland then 36 else 32)

/-- The number names a register held per context (R410). -/
def isCtxReg (r : Nat) : Bool :=
  (decide (0x200 ≤ r) && decide (r ≤ 0x20E)) || (decide (0x210 ≤ r) && decide (r ≤ 0x213)) || (decide (0x220 ≤ r) && decide (r ≤ 0x223))

/-- A register written by a firing of a context on a plot, of the die it names; `reply` is what an `swr` of a context register owes. -/
def writeReg (s : State) (p : Nat) (c : BitVec 12) (d : Nat) (r : Nat) (v : Word) (reply : Option WriteReply) : State :=
  if 0x100 ≤ r ∧ r < 0x120 then writeCounter s p r v
  else if isCtxReg r then addWrite s (RegWrite.mk c r v (writePlots c) reply)
  else writeDieReg s d r v

/-! ### srd and swr (R413, R414) -/

/-- The die that DX and DIE name. -/
def dieFor (p : Nat) (dx : Bool) (die : BitVec 2) : Nat := if dx then die.toNat else dieOf p

/-- `srd` (R414). -/
def srdResult (dx : Bool) (die : BitVec 2) (reg : BitVec 12) (c : FireCtx) (s : State) : Except FaultInfo (State × List Send) := do
  require (mayRead c.block.ctx reg.toNat) causePrivilege
  .ok (s, emit c (word64Packet (readReg s c.plot c.block.ctx (dieFor c.plot dx die) reg.toNat)))

def execSrd (h : Head) (dx : Bool) (die : BitVec 2) (reg : BitVec 12) (s : State) : Result :=
  fireState h (srdResult dx die reg) s

/-- `swr` (R414): that of a context register sends its result when every plot has taken the write (R412). -/
def swrResult (dx : Bool) (die : BitVec 2) (reg : BitVec 12) (c : FireCtx) (m : MatchedSet) (s : State) :
    Except FaultInfo (State × List Send) := do
  require (mayWrite s c.plot c.block.ctx reg.toNat && mayRead c.block.ctx reg.toNat) causePrivilege
  let v ← natOperand c 0 0
  let d := dieFor c.plot dx die
  let old := readReg s c.plot c.block.ctx d reg.toNat
  .ok (writeReg s c.plot c.block.ctx d reg.toNat (BitVec.ofNat 64 v) (some (WriteReply.mk c.plot (heldOf c m) old)),
    if isCtxReg reg.toNat then [] else emit c (word64Packet old))

def execSwr (h : Head) (dx : Bool) (die : BitVec 2) (reg : BitVec 12) (s : State) : Result :=
  fireHeld h (swrResult dx die reg) s

/-! ### Root firmware and cold reset (R5, R22, R406) -/

/-- What root firmware sets at bring-up and no other write reaches: PEERID (R22), FALLBACK (R474), and the headland context,
which it creates where its areas lie in HBM (R406, R509). -/
def firmwareWrite (s : State) (r : Nat) (v : Word) : State :=
  match r with
  | 0 => { s with dev := { s.dev with peerid := v.extractLsb' 32 10 } }
  | 0x350 => { s with power := { s.power with fallback := v.extractLsb' 32 16 } }
  | 0x340 => if areasSound (recordRegs s headland) = false then s
    else writeState (modCtx (createContext s headland) headland (fun x => { x with phase := .runnable })) headland
  | _ => s

/-- Register `n` of die `m` written by context v[1] on plot `p` with v[0]; with v[2] = 1, by root firmware itself. -/
def execRegisterWrite (s : State) : Result :=
  match s.cur with
  | .at p n m v =>
    let s := { s with cur := .idle }
    let c := BitVec.ofNat 12 (v.getD 1 0)
    let w := BitVec.ofNat 64 (v.getD 0 0)
    .next (if v.getD 2 0 = 1 then firmwareWrite s n w else if mayWrite s p c n then writeReg s p c (m % 4) n w none else s)
  | _ => .next s

/-- Cold reset (R5, R17): the fuses keep SVFLOOR, the part its stepping, and memory its bytes, every word full. -/
def execColdReset (s : State) : Result :=
  match s.cur with
  | .at _ _ _ _ =>
    .next { State.reset with
      sched := s.sched, fresh := s.fresh, mem := { s.mem with empty := [] }
      dev := { DevRegs.reset with step := s.dev.step, left := s.dev.left, floor := s.dev.floor } }
  | _ => .next s

/-- Root firmware takes plot `p` offline (R22). -/
def execPlotOffline (s : State) : Result :=
  match s.cur with
  | .at p _ _ _ => .next { s with cur := .idle, dev := { s.dev with plots := s.dev.plots &&& ~~~((1 : BitVec 32) <<< p) } }
  | _ => .next s

/-! ### The plot clock (R191, PLOT_CYCLE) -/

/-- An event that is counted once in a plot cycle for the contexts that it holds of. -/
def countCycle (s : State) (p : Nat) (ev : BitVec 6) (cs : List (BitVec 12)) : State :=
  if cs.isEmpty then s
  else modBlocks s p (fun u => { u with
    scct := List.zipWith (countOne ev 1 (fun c => cs.contains c)) u.scev u.scct
    sccy := List.zipWith (fun e n => if countsEvent ev (fun c => cs.contains c) e then n + 1 else n) u.scev u.sccy })

/-- Contexts of the copies of a plot that a test holds of. -/
def copyCtxs (s : State) (p : Nat) (f : Copy → Bool) : List (BitVec 12) :=
  ((plotAt s p).blocks.copies.filter f).map (fun c => c.id.ctx)

/-- Contexts of the accesses of a plot that a test holds of. -/
def accessCtxs (s : State) (p : Nat) (f : Access → Bool) : List (BitVec 12) :=
  ((plotAt s p).accesses.filter f).map (fun a => a.block.ctx)

/-- Contexts with groups on a plot: those for which an event of no context counts (R192). -/
def plotCtxs (s : State) (p : Nat) : List (BitVec 12) := (plotAt s p).unit.groups.filterMap (fun o => o.map (fun g => g.ctx))

/-- An event of no context counted once, where it holds. -/
def countFree (s : State) (p : Nat) (ev : BitVec 6) (b : Bool) : State := if b then countEvent s p ev none 1 else s

/-- Contexts of the memory-class stations that wait for the walker of a plot with an instruction that is no access (R455). -/
def stationCtxs (s : State) (p : Nat) : List (BitVec 12) :=
  let w := (plotAt s p).walker
  (w.queue.map (fun q => q.who) ++ w.walks.flatMap (fun x => x.reqs.map (fun q => q.who)) ++ w.returned.map (fun x => x.who)).filterMap
    (fun who => match who with
      | .station b _ => some b.ctx
      | _ => none)

/-- A store of a copy is full on some PE. -/
def storeFull (s : State) (p : Nat) (c : Copy) : Bool :=
  copyLive c && (List.range 16).any (fun pe => decide (256 ≤ storeUsed s p c pe))

/-- A head row of a copy waits for an accumulator slot only (R305). -/
def rowWaits (s : State) (p : Nat) (c : Copy) : Bool :=
  copyLive c && !arrayRoom (engineOf s p c.id) && (mmaStations s p c.id).any (fun y => (mmaAdmitted s p c.id y.1 y.2).isSome)

/-- The events of a plot that are counted once in a cycle. -/
def countCycles (s : State) (p : Nat) : State :=
  let s := countFree s p 0x01 true
  let s := countCycle s p 0x05 (copyCtxs s p (fun c => c.phase == .loading))
  let s := if wantsVictim s p && (chooseVictim s p).isNone then countCycle s p 0x0A (copyCtxs s p (hasWork s)) else s
  let s := countCycle s p 0x0E (copyCtxs s p (storeFull s p))
  let s := countCycle s p 0x0F (accessCtxs s p (fun a => (ctxAt s a.block.ctx).phase != .saved && !isStream a.op && a.phase == .waiting &&
    !accessReady s p a))
  let s := countFree s p 0x10 (decide (2048 ≤ entriesUsed s p))
  let s := countCycle s p 0x11 (stationCtxs s p ++ accessCtxs s p (fun a => (ctxAt s a.block.ctx).phase != .saved && (match a.phase with
    | .translating asked => asked || (ctxAt s a.block.ctx).phase == .running
    | _ => false)))
  let s := countCycle s p 0x17 (copyCtxs s p (rowWaits s p))
  let s := countFree s p 0x18 ((furrowsOf p).any (fun f => (furrowAt s f).fil))
  countFree s p 0x19 ((furrowsOf p).any (fun f => mstepOf s f != 0))

/-- Some counter of a plot counts. -/
def counts (s : State) (p : Nat) : Bool := (plotAt s p).blocks.scev.any (fun v => v.getLsbD 6)

/-- The block scheduler of a plot one cycle on (R174, R180, R182, R186). -/
def tickBlocks (free : Bool) (u : BlockUnit) : BlockUnit :=
  { u with
    sccy := List.replicate 16 0
    loadClock := if free && u.copies.all (fun c => c.phase != .loading) then u.loadClock + 1 else u.loadClock
    copies := u.copies.map (fun c => { c with
      idle := c.idle + 1, evictFor := if c.phase = .evicting then c.evictFor + 1 else c.evictFor, sinceMove := c.sinceMove + 1 }) }

/-- A context one plot cycle on: its idle cycles (R409) and, for each plot, those without a set consumed (R417). -/
def tickCtx (s : State) (c : Nat) (x : Ctx) : Ctx :=
  if x.phase = .running then
    { x with
      idle := if hasGroup s (BitVec.ofNat 12 c) || requestPending x then 0 else x.idle + 1
      counts := x.counts.map (fun k => { k with idle := k.idle + 1, last := 0 }) }
  else x

/-- One plot cycle, in which the die timers tick as `v` says. -/
def plotCycle (s : State) (v : List Nat) : State :=
  let s := (List.range 36).foldl (fun s p => if counts s p then countCycles s p else s) s
  let s := { s with
    cycles := s.cycles + 1
    served := []
    arrived := []
    reached := []
    ports := s.ports.map (fun x => { x with taken := none })
    timers := (s.timers.zip (List.range 4)).map (fun t => t.1 + v.getD t.2 0)
    plots := (s.plots.zip (List.range 36)).map (fun x =>
      { x.1 with blocks := tickBlocks (!(freeTiles s x.2).isEmpty) x.1.blocks })
    ctxs := s.ctxs.map (fun x => (x.1, tickCtx s x.1 x.2))
    furrows := (s.furrows.zip (List.range 132)).map (fun x => { x.1 with meter := mstepOf s x.2 }) }
  kickPermits ((List.range 36).foldl (fun s p => kickUnit (nextWalk s p) p) (kickPeers s))

def execPlotCycle (s : State) : Result :=
  match s.cur with
  | .at _ _ _ v => .next (plotCycle { s with cur := .idle } v)
  | _ => .next s

end Sys2Proof.Machine
end

