-- ==== Sys2Proof/Machine/Choose.lean ====
section
/-! DEFINITION. Which set a PE starts (R91): what an instruction's own rules ask before a set of it starts, and the
earliest complete set of a PE that may start; and the placing of one instruction where the next step starts it. -/
namespace Sys2Proof.Machine

/-! ### What an instruction waits for -/

/-- The ready set whose firing a complete `join` is: the one of its sets that became complete last (R91, R115). -/
def joinReady (s : State) (p : Nat) (b : BlockId) (m : MatchedSet) : Bool :=
  let sets := joinSets s p b m.slot (envOf m.toks)
  match copyOf s p b with
  | none => false
  | some c => sets.length == groupThreads s p (envOf m.toks).gslot &&
      (c.ready.filter (fun x => sets.contains x)).getLast? == some m

/-- A copy firing finds a place in an engine's queue that no waiting `cpycb` takes first (R281). -/
def copyRoom (s : State) (p : Nat) : Bool :=
  (engineFor s p).isSome && !(plotAt s p).unit.waiters.any isPlaceWaiter

/-- A trigger of `mwld` is taken (R302): 64 rows are staged and no earlier trigger of the slot is at work. -/
def latchReady (t : Tile) (w : Bool) : Bool :=
  (stageOf t w).length == 64 && t.latches.all (fun l => l.weights != w)

/-- A check of an accumulator is refused at once, or it waits for the push, comparison or drain in progress and for the rows of an
`mwr` that has fired (R319, R327, R328). -/
def checkStarts (t : Tile) (a : Nat) (g : BitVec 3) (drain : Bool) : Bool :=
  let x := accOf t a
  checkRefused x g drain || (!accBusy x && x.check.isNone && !writesInto t a)

/-- An `mrty` that regenerates waits for its run's rows and accesses to be at rest (R332). -/
def retryStarts (s : State) (c : FireCtx) : Bool :=
  match handleAt c s with
  | .ok (some h) =>
    let st := (handleAcc s c.plot h).st
    (st != .faultLoc && st != .faultMulti) || retryQuiet s c.plot h.tile
  | _ => true

/-- An arrival at a barrier waits for the accesses that stand before one of their thread whose done token has reached it (R357): the
release of the phase orders them before what depends on it. What passes edges on without a token, a `post`, a `cbcom`, a `pmex` or a
`ctks`, waits in the same way (assumption 51). -/
def edgesClear (s : State) (c : FireCtx) : Bool :=
  c.env.edges.all (fun n => s.plots.all (fun x => x.accesses.all (fun a => a.id != n || performedAt .device a)))

/-- The place in the counting order (R415) of the last set of a context, no `yld`, that a plot has started in this plot cycle; 0
where it has started none. -/
def lastStarted (s : State) (p : Nat) (c : BitVec 12) : Nat := ((ctxAt s c).counts.getD p (freshSlice 0)).last

/-- An instruction that is counted ahead of the others of its plot cycle (R415). -/
def isYield : Instr → Bool
  | .yld _ => true
  | _ => false

/-- A set's turn in the counting order has not passed (R415, R425): its plot has started no set of the context that comes later in
this plot cycle. A set that is late for its turn starts in the next one. -/
def inTurn (s : State) (p t pe : Nat) (b : BlockId) (slot : BitVec 7) (i : Instr) : Bool :=
  decide (lastStarted s p b.ctx ≤ if isYield i then 0 else startKey t pe slot)

/-- The state with a set's turn taken. -/
def takeTurn (s : State) (p t pe : Nat) (b : BlockId) (slot : BitVec 7) (i : Instr) : State :=
  if isYield i then s else turnTaken s p b.ctx (startKey t pe slot)

/-- What the unit of an instruction asks before a set that its predicate selects starts. -/
def unitReady (s : State) (c : FireCtx) (i : Instr) : Bool :=
  let t := engineOf s c.plot c.block
  match i with
  | .cpy _ _ _ | .cpy2 _ _ _ | .cpyq _ _ _ => copyRoom s c.plot
  | .strl h row _ _ _ _ _ => !stationBusy s c.plot c.block c.slot && (!row || rowPathOpen s c.plot c.block h true)
  | .strs _ _ _ _ => !stationBusy s c.plot c.block c.slot
  | .mwld _ w => latchReady t w
  | .mwsw _ _ => t.switch.isNone
  | .mgat _ _ => t.gather.isNone
  | .mrep _ _ => (repeatAt t c.slot).job.isNone
  | .mclr _ a => !accBusy (accOf t a.toNat) && !accInArray t a.toNat && !writesInto t a.toNat
  | .mwr _ _ a => mwrStarts t a.toNat c.env.gslot
  | .mchk _ a => checkStarts t a.toNat c.env.gslot false
  | .mdrn _ _ _ _ _ _ a => checkStarts t a.toNat c.env.gslot true
  | .mrty _ => retryStarts s c
  | .mrd _ _ => handleReady s c
  | .bar _ _ _ | .post _ _ _ | .cbcom _ _ | .pmex _ | .ctks _ _ _ => edgesClear s c
  | _ => true

/-- The operation of a set may reach its control unit in this plot cycle: none of a later rank has (R274, R344, R352). -/
def arrivalOpen (s : State) (p : Nat) (h : Held) (i : Instr) : Bool :=
  (unitReached s p h i).all (fun q => rankOpen s q (arrivalRank s p q h))

/-- The state with the operation of a set that its predicate selects at its control unit. -/
def takeArrival (s : State) (p : Nat) (b : BlockId) (m : MatchedSet) (i : Instr) : State :=
  match head? i with
  | some h =>
    let c := fireCtxOf s p b m h
    let x := heldOf c m
    (match unitReached s p x i with
    | some q => if predicateOf c = some true then rankTaken s q (arrivalRank s p q x) else s
    | none => s)
  | none => s

/-- A set of a wave-ordered access starts where an entry can be reserved and its station waits for no walk (R203,
R454); a set of one thread leaves a `reord` in its turn, a `join` fires on the sets of every thread, and a start waits for its
chain to be IDLE, whatever its predicate (R222). -/
def startable (s : State) (p : Nat) (b : BlockId) (m : MatchedSet) (i : Instr) : Bool :=
  match i with
  | .ld h _ | .st h _ | .lds h _ | .stf h _ | .clre h _ | .mnop h _ | .fence h _ | .atom h _ | .red h _ | .pref h _
  | .cctl h _ | .ldg h _ | .sts h _ => entryFree s p b m h && !stationBusy s p b m.slot
  | .reord _ => turnOf s p b m.slot (envOf m.toks) == (envOf m.toks).thread.toNat
  | .join _ _ => joinReady s p b m
  | .cnt _ _ _ _ | .cchn _ _ _ _ => (chainAt s p b m.slot).state == .idle
  | i =>
    match head? i with
    | some h =>
      let c := fireCtxOf s p b m h
      predicateOf c != some true || (unitReady s c i && arrivalOpen s p (heldOf c m) i)
    | none => true

/-- An instruction of the iterative unit (R125, R155). -/
def usesIterative : Instr → Bool
  | .div _ | .rem _ | .fdiv _ _ | .fsqrt _ _ => true
  | _ => false

/-- A set that needs the iterative unit of a PE: one of such an instruction that its predicate selects. -/
def needsIterative (s : State) (p : Nat) (b : BlockId) (m : MatchedSet) (i : Instr) : Bool :=
  usesIterative i && (head? i).any (fun h => predicateOf (fireCtxOf s p b m h) == some true)

/-- The iterative unit of a PE is in use. -/
def iterBusy (s : State) (p t pe : Nat) : Bool := (plotAt s p).iterative.any (fun x => x.tile == t && x.pe == pe)

/-- The state with the iterative unit taken by a set that needs it (R125). -/
def takeIterative (s : State) (p t pe : Nat) (b : BlockId) (m : MatchedSet) (i : Instr) : State :=
  if needsIterative s p b m i then modPlot s p (fun x => { x with iterative := IterUnit.mk t pe b :: x.iterative }) else s

/-- The iterative unit of a PE finishes its firing: another may take it (R125). -/
def freeIterative (s : State) (p t pe : Nat) : State :=
  modPlot s p (fun x => { x with iterative := x.iterative.filter (fun y => !(y.tile == t && y.pe == pe)) })

/-- What a set waits to have translated before it starts (R454): the first address of a record or permit instruction that its station
does not resolve. -/
def setMisses (s : State) (p : Nat) (b : BlockId) (m : MatchedSet) (i : Instr) : Option (Need × Word) :=
  match head? i with
  | some h =>
    let c := fireCtxOf s p b m h
    if predicateOf c = some true then stationMisses s p b m.slot (recordPages c i) else none
  | none => none

/-- A set of a copy that may start on a PE once its station's addresses are translated (R454): its context and group let it, its turn has not passed, its instruction lets it, and
its slot stands on that PE. A set whose station holds no instruction may start too: the step then stops by name. -/
def setReady (s : State) (p : Nat) (pe : Nat) (c : Copy) (m : MatchedSet) : Bool :=
  peOf c.stations m.slot.toNat == some pe && mayStart s p c.id (setSlot m) &&
    (match stationInstr c m.slot with
    | .ok i => inTurn s p (firingTile c) pe c.id m.slot i && startable s p c.id m i && !(needsIterative s p c.id m i && iterBusy s p (firingTile c) pe)
    | .error _ => true)

/-- A set of a copy that may start on a PE. -/
def setStarts (s : State) (p : Nat) (pe : Nat) (c : Copy) (m : MatchedSet) : Bool :=
  setReady s p pe c m &&
    (match stationInstr c m.slot with
    | .ok i => (setMisses s p c.id m i).isNone
    | .error _ => true)

/-- The set that a PE starts: among its stations' complete sets that may start, the one that became complete earliest
(R91). -/
def chooseSet (s : State) (p t pe : Nat) : Option (Copy × MatchedSet) :=
  match copyOnTile s p t with
  | none => none
  | some c => (c.ready.find? (setStarts s p pe c)).map (fun m => (c, m))

/-- The slot whose word an `argwr` rewrites (R116). -/
def rewrites : Instr → Option (BitVec 7)
  | .argwr h => some (h.cfg.extractLsb' 0 7)
  | _ => none

/-- The set that a PE starts while the rewrite of its `argwr` has not taken effect, which uses the old word, and the set of the
`argwr` (R117). A PE starts one set before the result of its `argwr` has left; where that is an `argwr` that rewrites the same
word, its own rewrite comes second in any case, and it is not taken here. -/
def chooseBehind (s : State) (p t pe : Nat) : Option (Copy × MatchedSet × MatchedSet) :=
  match chooseSet s p t pe with
  | none => none
  | some (c, m) =>
    match stationInstr c m.slot with
    | .ok i =>
      if (rewrites i).isNone then none
      else
        let other := fun (x : MatchedSet) => match stationInstr c x.slot with
          | .ok j => rewrites j != rewrites i
          | .error _ => true
        ((c.ready.erase m).find? (fun x => setStarts s p pe c x && other x)).map (fun x => (c, x, m))
    | .error _ => none

/-- The set of an `argwr` that another has been started behind is still at its station. -/
def stillReady (s : State) (p : Nat) (c : Copy) (m : MatchedSet) : Bool := (copyOf s p c.id).any (fun k => k.ready.contains m)

/-- A station whose set starts has met the answer of its last request (R454). -/
def metStation (s : State) (p : Nat) (b : BlockId) (slot : BitVec 7) : State :=
  if (plotAt s p).walker.failed.contains (.station b slot) then walkMet s p (.station b slot) else s

/-- A PE prepared to start a set of an instruction: the set's turn is taken (R415), its rank at a control unit (R274), and the
iterative unit where it needs it (R125). -/
def prepare (s : State) (p t pe : Nat) (b : BlockId) (m : MatchedSet) (i : Instr) : State :=
  takeArrival (takeIterative (takeTurn (metStation s p b m.slot) p t pe b m.slot i) p t pe b m i) p b m i

/-- The station of a PE's earliest set that only a translation keeps from starting asks its plot's walker for it (R454). -/
def askStation (s : State) (p t pe : Nat) : State :=
  match copyOnTile s p t with
  | none => s
  | some c =>
    let misses := fun (m : MatchedSet) => match stationInstr c m.slot with
      | .ok i => setMisses s p c.id m i
      | .error _ => none
    match c.ready.find? (fun m => setReady s p pe c m && (misses m).isSome && !asking s p (.station c.id m.slot)) with
    | none => s
    | some m =>
      (match misses m with
      | some x => (askWalker s p (WalkReq.mk (.station c.id m.slot) c.id.ctx x.2 x.1 false s.cycles (walkRank s p false c.id m.slot))).1
      | none => s)

/-- What a row port firing acts on: the copy on a tile. A row of an `mma`, which is counted, waits for the next plot cycle where
its turn has passed (R415). -/
def chooseRow (s : State) (p t : Nat) (slot : BitVec 7) : Option Copy :=
  (copyOnTile s p t).filter (fun c => match stationInstr c slot with
    | .ok (.mma _ _ _) => decide (lastStarted s p c.id.ctx ≤ slotKey c slot)
    | _ => true)

/-- An engine of a plot goes on with its work: a copy engine, a drain, or the gather unit of a tile. -/
def stepEngine (s : State) (p n : Nat) : State :=
  if n < 2 then stepCopy s p n
  else if n < 130 then beginDrain s p ((n - 2) / 8) ((n - 2) % 8)
  else stepGather s p (n - 130)

/-! ### One instruction put where the next step starts it -/

/-- A token of no value for a port of a set (for `withFetchWord`). -/
def blankToken : Token := Token.mk noEnv (Packet.mk 0x04 0 0 none)

/-- A block of one instruction, resident on tile 0 of plot 0 with one complete set. -/
def oneInstrCopy (b : BlockId) (st : Station) (ports : List Nat) : Copy where
  id := b
  phase := .resident
  tile := 0
  newTile := none
  switched := false
  stations := [st]
  nent := 1
  load := 0
  buffer := []
  spilled := []
  waiting := []
  ready := if ports.isEmpty then [] else [MatchedSet.mk 0 (ports.map (fun p => (BitVec.ofNat 2 p, blankToken))) 0 []]
  reserved := []
  idle := 0
  evictFor := 0
  sinceMove := 0

/-- A running group of one thread for that block. -/
def oneInstrGroup (b : BlockId) : Group where
  ctx := b.ctx
  obj := b.obj
  hbid := 0xFFFF_FFFF
  record := 0
  number := 0
  count := 1
  priority := 0
  threads := 1
  entry := 0
  argVa := 0
  phase := .running
  wasStopped := false
  regionFirst := 0
  regionBlocks := 0
  prepared := true
  nextThread := 1
  exitCode := 0
  seq := 1
  causes := List.replicate 4 CauseSlot.empty
  buffers := []
  barriers := []
  ports := List.replicate 4 []
  portSpill := List.replicate 4 []
  frames := []
  killCause := 0

/-- The block that the placed instruction stands in. -/
def oneInstrBlock : BlockId := BlockId.mk 1 0 0

/-- A row of no value for a row port (for `withFetchWord`). -/
def blankRow : Row := Row.mk noEnv 0x14 0 0

/-- A tile with 64 rows staged for either slot (for `withFetchWord`). -/
def stagedTile : Tile :=
  let rows := (List.range 64).map (fun i => StagedRow.mk i blankRow)
  { Tile.fresh with stage0 := rows, stage1 := rows }

/-- The state with a block of one instruction as the next thing to fire: its copy, its group, its context RUNNING,
what it fires on (the rows that an `mwld` waits for among it), its station's walk, which it waits for no more, and the schedule's next
entry. -/
def placeInstr (s : State) (st : Station) : State :=
  let b := oneInstrBlock
  let (ports, pe) := match decode st.op st.cfg with
    | .ok i => (matchPorts i, match info i with
      | some f => peOfNth f.cls 0
      | none => 0)
    | .error _ => ([0], 0)
  let s := modBlocks s 0 (fun u => { u with copies := [oneInstrCopy b st ports] })
  let s := modUnit s 0 (fun u => { u with groups := u.groups.set 0 (some (oneInstrGroup b)) })
  let s := modCtx s b.ctx (fun x => { x with phase := .running })
  let s := modWalker s 0 (fun w => { w with failed := [.station b 0] })
  if ports.isEmpty then
    { modPlot s 0 (fun x => { x with tiles := [(0, { Tile.fresh with ports := [RowPort.mk 0 [blankRow]] })] }) with
      sched := [Sched.row 0 0 0] }
  else
    let s := match decode st.op st.cfg with
      | .ok (.mwld _ _) => modPlot s 0 (fun x => { x with tiles := [(0, stagedTile)] })
      | _ => s
    { s with sched := [Sched.fire 0 0 pe] }

end Sys2Proof.Machine
end

