-- ==== Sys2Proof/Machine/Special.lean ====
section
/-! DEFINITION. The special functions of R155 (06_float.md): each exact mathematical value to far more bits than
any rounding mode reads, with the rest in the mark of FVal. Series run in fixed point with `fixBits` bits below
the point; the error of each is below 2^-256. UNVERIFIED, assumption 8: that no operand lies within that error of a
rounding boundary is not proved here. -/
namespace Sys2Proof.Machine

/-- Bits below the point of the fixed-point series. -/
def fixBits : Nat := 512

/-- 1 in fixed point. -/
def fixOne : Nat := 2 ^ fixBits

/-- Product of fixed-point numbers. -/
def fixMul (a b : Nat) : Nat := (a * b) >>> fixBits

/-- Quotient of fixed-point numbers. -/
def fixDiv (a b : Nat) : Nat := (a <<< fixBits) / b

/-- Terms `n` down to 1 of `1 + y/1 (1 + y/2 (1 + …))`: the exponential of `y`. -/
def expSeries : Nat → Nat → Nat → Nat
  | 0, _, acc => acc
  | n + 1, y, acc => expSeries n y (fixOne + fixMul y acc / (n + 1))

/-- e^y for 0 ≤ y < 1 in fixed point. -/
def fixExp (y : Nat) : Nat := expSeries 100 y fixOne

/-- `z (1/(2k+1) + z² (…))` from term k = `n` down: with `alt`, signs alternate (arctangent), without, they do not
(inverse hyperbolic tangent). -/
def oddSeries (alt : Bool) : Nat → Nat → Nat → Nat
  | 0, _, acc => acc
  | n + 1, z2, acc =>
    let t := fixMul z2 acc
    oddSeries alt n z2 (if alt then fixOne / (2 * n + 1) - t else fixOne / (2 * n + 1) + t)

/-- 2 atanh z for 0 ≤ z ≤ 1/3. -/
def fixAtanh2 (z : Nat) : Nat := 2 * fixMul z (oddSeries false 170 (fixMul z z) 0)

/-- atan (1/n). -/
def fixAtanInv (n : Nat) : Nat := oddSeries true 120 (fixOne / (n * n)) 0 / n

/-- ln 2 in fixed point. -/
def fixLn2 : Nat := fixAtanh2 (fixOne / 3)

/-- π/2 in fixed point (Machin's formula). -/
def fixHalfPi : Nat := 8 * fixAtanInv 5 - 2 * fixAtanInv 239

/-- The sine and cosine series: `1 − r²/(k(k+1)) (1 − …)` from the `n`-th factor down, the first factor's k being
`k0`. -/
def trigSeries (k0 : Nat) : Nat → Nat → Nat → Nat
  | 0, _, acc => acc
  | n + 1, r2, acc => trigSeries k0 n r2 (fixOne - fixMul r2 acc / ((k0 + 2 * n) * (k0 + 2 * n + 1)))

/-- sin r for 0 ≤ r ≤ π/2. -/
def fixSin (r : Nat) : Nat := fixMul r (trigSeries 2 60 (fixMul r r) fixOne)

/-- cos r for 0 ≤ r ≤ π/2. -/
def fixCos (r : Nat) : Nat := trigSeries 1 60 (fixMul r r) fixOne

/-- A fixed-point result with the mark set: every value it stands for is irrational. -/
def ofFix (neg : Bool) (v : Nat) : FVal := .fin neg v (-(fixBits : Int)) true

/-- Just below `m × 2^e` in magnitude. -/
def justBelow (neg : Bool) (m : Nat) (e : Int) : FVal := .fin neg (m <<< 100 - 1) (e - 100) true

/-- Just above `m × 2^e` in magnitude. -/
def justAbove (neg : Bool) (m : Nat) (e : Int) : FVal := .fin neg (m <<< 100) (e - 100) true

/-- The exponent of the leading bit of a nonzero finite value. -/
def topExp (m : Nat) (e : Int) : Int := e + (Nat.log2 m : Int)

/-- A finite magnitude in fixed point; bits below the point's last are dropped. -/
def toFix (m : Nat) (e : Int) : Nat :=
  if 0 ≤ e + fixBits then m <<< (e + fixBits).toNat else m >>> (-(e + fixBits)).toNat

/-- 1 / √x, to 66 bits and the mark (R155). -/
def rsqrtVal : FVal → FVal
  | .nan => .nan
  | .inf n => if n then .nan else .fin false 0 0 false
  | .fin n m e _ =>
    if m = 0 then .inf n
    else if n then .nan
    else
      let k : Nat := 200 + (if e % 2 = 0 then 0 else 1)
      let num := 2 ^ k
      let r := isqrt (num / m)
      .fin false r ((-e - k) / 2) (decide (r * r * m ≠ num))

/-- 2^x (R155). -/
def exp2Val : FVal → FVal
  | .nan => .nan
  | .inf n => if n then .fin false 0 0 false else .inf false
  | .fin n m e _ =>
    if m = 0 then .fin false 1 0 false
    else if topExp m e < -60 then (if n then justBelow false 1 0 else justAbove false 1 0)
    else if 12 ≤ topExp m e then (if n then .fin false 1 (-5000) true else .fin false 1 5000 true)
    else
      let x : Int := signedMant n (toFix m e)
      let i := x / (fixOne : Int)
      let f := (x % (fixOne : Int)).toNat
      if f = 0 then .fin false 1 i false
      else .fin false (fixExp (fixMul f fixLn2)) (i - fixBits) true

/-- log2 x (R155). -/
def log2Val : FVal → FVal
  | .nan => .nan
  | .inf n => if n then .nan else .inf false
  | .fin n m e _ =>
    if m = 0 then .inf true
    else if n then .nan
    else
      let i := topExp m e
      if m = 2 ^ Nat.log2 m then realOfInt i
      else
        let x := (m <<< fixBits) >>> Nat.log2 m
        let frac := fixDiv (fixAtanh2 (fixDiv (x - fixOne) (x + fixOne))) fixLn2
        let v : Int := i * (fixOne : Int) + frac
        ofFix (decide (v < 0)) v.natAbs

/-- The quadrant of |x| and what is left of it, in fixed point: |x| = q π/2 + r. -/
def trigReduce (m : Nat) (e : Int) : Nat × Nat := ((toFix m e / fixHalfPi) % 4, toFix m e % fixHalfPi)

/-- sin x (R155). -/
def sinVal : FVal → FVal
  | .nan | .inf _ => .nan
  | .fin n m e _ =>
    if m = 0 then .fin n 0 0 false
    else if topExp m e < -40 then justBelow n m e
    else
      let (q, r) := trigReduce m e
      ofFix (xor n (decide (2 ≤ q))) (if q % 2 = 0 then fixSin r else fixCos r)

/-- cos x (R155). -/
def cosVal : FVal → FVal
  | .nan | .inf _ => .nan
  | .fin _ m e _ =>
    if m = 0 then .fin false 1 0 false
    else if topExp m e < -40 then justBelow false 1 0
    else
      let (q, r) := trigReduce m e
      ofFix (q = 1 || q = 2) (if q % 2 = 0 then fixCos r else fixSin r)

/-- tanh x (R155), as 1 − 2/(e^2x + 1). -/
def tanhVal : FVal → FVal
  | .nan => .nan
  | .inf n => .fin n 1 0 false
  | .fin n m e _ =>
    if m = 0 then .fin n 0 0 false
    else if topExp m e < -40 then justBelow n m e
    else if 6 ≤ topExp m e then justBelow n 1 0
    else
      let y := 2 * toFix m e
      let k := y / fixLn2
      let ex := fixExp (y % fixLn2) <<< k
      ofFix n (fixOne - fixDiv (2 * fixOne) (ex + fixOne))

/-- 1 / x (R155). -/
def recipVal (x : FVal) : FVal := divReal (.fin false 1 0 false) x

end Sys2Proof.Machine
end

