-- ==== Sys2Proof/Machine/Float.lean ====
section
/-! DEFINITION. Floating-point and narrow-format elements (06_float.md): opcodes 0x0A0 to 0x0B5 and 0x0E0 to 0x0E5.
The exact values and their rounding stand in Numbers and Special. -/
namespace Sys2Proof.Machine

/-! ### Shapes (R147, R150) -/

/-- The 16-bit draw of stochastic rounding for result element `i` (R41, R147). -/
def drawAt (c : FireCtx) (i : Nat) : Nat :=
  srBits c.seed c.env.tag c.env.thread.toNat i c.block.bid.toNat c.slot.toNat

/-- An operand slot as a floating value of a type, after `ftz_src` (R147). -/
def floatIn (c : FireCtx) (t : Ty) (x : Word) : FVal := ftzSrc c.ftz t (unpack t x)

/-- A value rounded to a type, after `ftz_res`, as a slot (R147, R150). -/
def floatOut (c : FireCtx) (t : Ty) (rm : Rnd) (i : Nat) (v : FVal) : Word :=
  BitVec.ofNat 64 (ftzRes c.ftz t (roundReal t rm (drawAt c i) v))

/-- A rounding operation on one operand. -/
def float1 (rm : Rnd) (f : FVal → FVal) (c : FireCtx) : Except FaultInfo (List Send) :=
  elementwise c [0] (fun i xs => floatOut c c.head.ty rm i (f (floatIn c c.head.ty (xs.getD 0 0))))

/-- A rounding operation on two operands. -/
def float2 (rm : Rnd) (f : FVal → FVal → FVal) (c : FireCtx) : Except FaultInfo (List Send) :=
  elementwise c [0, 1] (fun i xs => floatOut c c.head.ty rm i
    (f (floatIn c c.head.ty (xs.getD 0 0)) (floatIn c c.head.ty (xs.getD 1 0))))

/-- A rounding operation on three operands. -/
def float3 (rm : Rnd) (f : FVal → FVal → FVal → FVal) (c : FireCtx) : Except FaultInfo (List Send) :=
  elementwise c [0, 1, 2] (fun i xs => floatOut c c.head.ty rm i
    (f (floatIn c c.head.ty (xs.getD 0 0)) (floatIn c c.head.ty (xs.getD 1 0))
      (floatIn c c.head.ty (xs.getD 2 0))))

/-- 1.0 or +0 in a floating type (R152, R154). -/
def floatTruth (t : Ty) (b : Bool) : Word :=
  BitVec.ofNat 64 (if b then roundReal t .rne 0 (.fin false 1 0 false) else 0)

/-- A magnitude of a value: `fabs` (R153). -/
def absReal (x : FVal) : FVal := if realNeg x then negReal x else x

/-! ### Floating instructions (R150 to R158) -/

def faddResult (rm : Rnd) : FireCtx → Except FaultInfo (List Send) := float2 rm (addReal rm)
def fsubResult (rm : Rnd) : FireCtx → Except FaultInfo (List Send) := float2 rm (fun a b => addReal rm a (negReal b))
def fmulResult (rm : Rnd) : FireCtx → Except FaultInfo (List Send) := float2 rm mulReal
def fmaResult (rm : Rnd) : FireCtx → Except FaultInfo (List Send) := float3 rm (fun a b x => addReal rm (mulReal a b) x)
def fdivResult (rm : Rnd) : FireCtx → Except FaultInfo (List Send) := float2 rm divReal
def fsqrtResult (rm : Rnd) : FireCtx → Except FaultInfo (List Send) := float1 rm sqrtReal
def fminResult : FireCtx → Except FaultInfo (List Send) := float2 .rne (minReal false)
def fmaxResult : FireCtx → Except FaultInfo (List Send) := float2 .rne (minReal true)
def fabsResult : FireCtx → Except FaultInfo (List Send) := float1 .rne absReal
def fnegResult : FireCtx → Except FaultInfo (List Send) := float1 .rne negReal
def frcpResult (rm : Rnd) : FireCtx → Except FaultInfo (List Send) := float1 rm recipVal
def frsqResult (rm : Rnd) : FireCtx → Except FaultInfo (List Send) := float1 rm rsqrtVal
def fex2Result (rm : Rnd) : FireCtx → Except FaultInfo (List Send) := float1 rm exp2Val
def flg2Result (rm : Rnd) : FireCtx → Except FaultInfo (List Send) := float1 rm log2Val
def fsinResult (rm : Rnd) : FireCtx → Except FaultInfo (List Send) := float1 rm sinVal
def fcosResult (rm : Rnd) : FireCtx → Except FaultInfo (List Send) := float1 rm cosVal
def ftanhResult (rm : Rnd) : FireCtx → Except FaultInfo (List Send) := float1 rm tanhVal

/-- `fcmp` (R152). -/
def fcmpResult (cc : FloatCond) (c : FireCtx) : Except FaultInfo (List Send) :=
  elementwise c [0, 1] (fun _ xs => floatTruth c.head.ty
    (floatCond cc (floatIn c c.head.ty (xs.getD 0 0)) (floatIn c c.head.ty (xs.getD 1 0))))

/-- `fcls` (R154). -/
def fclsResult (cm : BitVec 9) (c : FireCtx) : Except FaultInfo (List Send) :=
  elementwise c [0] (fun _ xs => floatTruth c.head.ty
    (cm.getLsbD (classBit c.head.ty (floatIn c c.head.ty (xs.getD 0 0)))))

/-- `frnd` (R157). -/
def frndResult (rm : Rnd) (c : FireCtx) : Except FaultInfo (List Send) :=
  elementwise c [0] (fun i xs => floatOut c c.head.ty .rne i
    (roundIntegral rm (drawAt c i) (floatIn c c.head.ty (xs.getD 0 0))))

/-- The source format of `cvt` (R156): STY's, or with STY 11 that of the operand's own tag; never scaled. -/
def cvtSource (sty : Ty) (c : FireCtx) : Except FaultInfo Fmt :=
  if sty = .lane then do
    let f ← formatAt c 0
    match f with
    | .plane true _ => .error (causeOnly causeFormat)
    | f => .ok f
  else .ok (.elem sty)

/-- Whether slots of a format are 64 bits wide (R30). -/
def fmtWide : Fmt → Bool
  | .elem t => wideTy t
  | .plane _ _ => false

/-- One element of `cvt` (R156). -/
def cvtElem (rm : Rnd) (c : FireCtx) (f : Fmt) (i : Nat) (x : Word) : Word :=
  let t := c.head.ty
  let rounded := fun (v : FVal) =>
    if tyFloating t then floatOut c t rm i v else writeInt t (realToInt t rm (drawAt c i) v)
  match f with
  | .plane _ k =>
    let q := signedOf k x.toNat
    if tyFloating t then rounded (realOfInt q) else writeInt t (satInt t q)
  | .elem s =>
    if tyFloating s then rounded (floatIn c s x)
    else if tyFloating t then rounded (realOfInt (readInt s x))
    else writeInt t (satInt t (readInt s x))

/-- `cvt` (R156). -/
def cvtResult (sty : Ty) (rm : Rnd) (c : FireCtx) : Except FaultInfo (List Send) := do
  let f ← cvtSource sty c
  .ok (emit c (mkPacket (tagOfTy c.head.ty)
    ((List.range (lenAt c 0)).map (fun i => cvtElem rm c f i (slotAt c (fmtWide f) 0 i)))))

/-- `fscl` (R158): the exponent is read by port 1's own tag. The model's choice (assumption 23): a tag that is no integer's faults before
lengths that differ. -/
def fsclResult (rm : Rnd) (c : FireCtx) : Except FaultInfo (List Send) := do
  require (isConst c 1 || intTag (packetAt c 1).fmt) causeFormat
  let n ← commonLen [lenAt c 0, lenAt c 1]
  let es ← (List.range n).mapM (fun i => signedOperand c 1 (if lenAt c 1 = 1 then 0 else i))
  .ok (emit c (mkPacket (tagOfTy c.head.ty) ((List.range n).map (fun i =>
    floatOut c c.head.ty rm i (scaleReal (es.getD i 0) (floatIn c c.head.ty (elemAt c false 0 i)))))))

/-! ### Narrow formats (R160 to R168) -/

/-- The precision that FT names (R160). -/
def ftK (ft : BitVec 5) : Nat := ft.toNat % 8 + 2

/-- The scale read from port 1: the low 8 bits of element 0, signed, whatever the tag (R161). -/
def scaleAt (c : FireCtx) : Int := signedOf 8 (slotAt c false 1 0).toNat

/-- `plgat` (R162): element e collects bit e of each of the first k plane bytes, the sign first. -/
def plgatResult (ft : BitVec 5) (c : FireCtx) : Except FaultInfo (List Send) := do
  let k := ftK ft
  require (decide (k ≤ lenAt c 0)) causePacketLength
  .ok (emit c (mkPacket ft ((List.range 8).map (fun e => sextWord k (natOfBits
    ((List.range k).reverse.map (fun p => (patternOf .w8 (slotAt c false 0 p)).testBit e)))))))

/-- `plsct` (R163): plane byte p collects bit k − 1 − p of each of the eight elements. -/
def plsctResult (ft : BitVec 5) (c : FireCtx) : Except FaultInfo (List Send) := do
  let k := ftK ft
  require (decide (lenAt c 0 = 8)) causePacketLength
  .ok (emit c (mkPacket 0x07 ((List.range k).map (fun p => BitVec.ofNat 64 (natOfBits
    ((List.range 8).map (fun e => (patternOf .w8 (slotAt c false 0 e)).testBit (k - 1 - p))))))))

/-- The larger of two magnitudes that are finite. -/
def maxMag (a b : FVal) : FVal := if leReal false (absReal a) (absReal b) then b else a

/-- The shared scale exponent of eight values (R164). -/
def blockScale (xs : List FVal) : Int :=
  if xs.any (fun x => match x with | .inf _ => true | _ => false) then 127
  else
    match (xs.filter (fun x => !isNan x)).foldl maxMag (.fin false 0 0 false) with
    | .fin _ m e _ => if m = 0 then -128 else clampInt (-127) 127 (e + (Nat.log2 m : Int) - 6)
    | _ => -128

/-- `bsc` (R164). -/
def bscResult (sty : Ty) (c : FireCtx) : Except FaultInfo (List Send) := do
  require (decide (lenAt c 0 = 8)) causePacketLength
  .ok (emit c (mkPacket 0x03
    [BitVec.ofInt 64 (blockScale ((List.range 8).map (fun i => floatIn c sty (slotAt c false 0 i))))]))

/-- One element of `qnt` (R165). -/
def qntElem (ft : BitVec 5) (rm : Rnd) (c : FireCtx) (s : Int) (i : Nat) : Int :=
  let k := ftK ft
  let scaled := ft.getLsbD 3
  match floatIn c c.head.ty (slotAt c false 0 i) with
  | .nan => 0
  | x =>
    if scaled && decide (s = -128) then 0
    else
      let y := if scaled then scaleReal ((k : Int) - 8 - s) x else x
      clampInt (-((2 ^ (k - 1) : Nat) : Int)) ((2 ^ (k - 1) : Nat) - 1) (realToInt .s64 rm (drawAt c i) y)

/-- `qnt` (R165). -/
def qntResult (ft : BitVec 5) (rm : Rnd) (c : FireCtx) : Except FaultInfo (List Send) := do
  require (!ft.getLsbD 3 || decide (lenAt c 0 = 8)) causePacketLength
  let s := if ft.getLsbD 3 then scaleAt c else 0
  .ok (emit c (mkPacket ft ((List.range (lenAt c 0)).map (fun i => BitVec.ofInt 64 (qntElem ft rm c s i)))))

/-- `dqnt` (R166). -/
def dqntResult (sc : Bool) (rm : Rnd) (c : FireCtx) : Except FaultInfo (List Send) := do
  let f := (packetAt c 0).fmt
  require (bitPlaneTag f && f.getLsbD 3 == sc) causeFormat
  let k := ftK f
  let s := if sc then scaleAt c else 0
  .ok (emit c (mkPacket (tagOfTy c.head.ty) ((List.range (lenAt c 0)).map (fun i =>
    let q := signedOf k (slotAt c false 0 i).toNat
    floatOut c c.head.ty rm i (if sc then planeReal k s q else realOfInt q)))))

/-! ### The instructions -/

def execFadd (h : Head) (rm : Rnd) (s : State) : Result := fire h (faddResult rm) s
def execFsub (h : Head) (rm : Rnd) (s : State) : Result := fire h (fsubResult rm) s
def execFmul (h : Head) (rm : Rnd) (s : State) : Result := fire h (fmulResult rm) s
def execFma (h : Head) (rm : Rnd) (s : State) : Result := fire h (fmaResult rm) s
def execFmin (h : Head) (s : State) : Result := fire h fminResult s
def execFmax (h : Head) (s : State) : Result := fire h fmaxResult s
def execFcmp (h : Head) (cc : FloatCond) (s : State) : Result := fire h (fcmpResult cc) s
def execFabs (h : Head) (s : State) : Result := fire h fabsResult s
def execFneg (h : Head) (s : State) : Result := fire h fnegResult s
def execFcls (h : Head) (cm : BitVec 9) (s : State) : Result := fire h (fclsResult cm) s
def execFrcp (h : Head) (rm : Rnd) (s : State) : Result := fire h (frcpResult rm) s
def execFrsq (h : Head) (rm : Rnd) (s : State) : Result := fire h (frsqResult rm) s
def execFex2 (h : Head) (rm : Rnd) (s : State) : Result := fire h (fex2Result rm) s
def execFlg2 (h : Head) (rm : Rnd) (s : State) : Result := fire h (flg2Result rm) s
def execFsin (h : Head) (rm : Rnd) (s : State) : Result := fire h (fsinResult rm) s
def execFcos (h : Head) (rm : Rnd) (s : State) : Result := fire h (fcosResult rm) s
def execFtanh (h : Head) (rm : Rnd) (s : State) : Result := fire h (ftanhResult rm) s
def execFdiv (h : Head) (rm : Rnd) (s : State) : Result := fire h (fdivResult rm) s
def execFsqrt (h : Head) (rm : Rnd) (s : State) : Result := fire h (fsqrtResult rm) s
def execCvt (h : Head) (sty : Ty) (rm : Rnd) (s : State) : Result := fire h (cvtResult sty rm) s
def execFrnd (h : Head) (rm : Rnd) (s : State) : Result := fire h (frndResult rm) s
def execFscl (h : Head) (rm : Rnd) (s : State) : Result := fire h (fsclResult rm) s
def execPlgat (h : Head) (ft : BitVec 5) (s : State) : Result := fire h (plgatResult ft) s
def execPlsct (h : Head) (ft : BitVec 5) (s : State) : Result := fire h (plsctResult ft) s
def execQnt (h : Head) (ft : BitVec 5) (rm : Rnd) (s : State) : Result := fire h (qntResult ft rm) s
def execDqnt (h : Head) (sc : Bool) (rm : Rnd) (s : State) : Result := fire h (dqntResult sc rm) s
def execBsc (h : Head) (sty : Ty) (s : State) : Result := fire h (bscResult sty) s

end Sys2Proof.Machine
end

