-- ==== Sys2Proof/Machine/Host.lean ====
section
/-! DEFINITION. The host's accesses (22_link.md R490 to R493): BAR 2 of the CXL.io space, and CXL.mem and CXL.cache requests. What the
host sends is an input of the steps (assumption 12). -/
namespace Sys2Proof.Machine

/-! ### BAR 2 (R493) -/

/-- A write of `n` bytes at an offset of BAR 2. A kick register takes a write of any width (R371), which wakes the queue of each
register that it touches; any other write is one aligned 8-byte write to a listed offset, or it is ignored. -/
def barWrite (s : State) (o n : Nat) (v : Word) : State :=
  if o < 0x2000 then ((List.range 1024).filter (fun q => decide (o < 8 * q + 8 ∧ 8 * q < o + n))).foldl kickQueue s
  else if o % 8 ≠ 0 ∨ n ≠ 8 then s
  else if o < 0x2020 then writeQcmd s ((o - 0x2000) / 8) v
  else if o = 0x3000 then writeObreq s v
  else if o = 0x3008 then writeCtxctl s v
  else if o = 0x3010 then { s with power := rackMessage (s.timers.getD 0 0) s.power v }
  else s

/-- The `n` bytes that a read at an offset of BAR 2 returns: those of the copy of DEVID, and zero elsewhere. -/
def barRead (s : State) (o n : Nat) : Nat :=
  (devid s).toNat * 256 ^ (0x3018 - o) / 256 ^ (o - 0x3018) % 256 ^ n

/-! ### The host (R257, R261, R491, R492) -/

/-- A read by the host. With `p` = 0 the host asks the home of line `n` of HBM for it, and with `m` = 1 keeps a copy: the request joins
the line's queue (R253, R257). With another `p` it reads `m` bytes of BAR 2 at offset `n` (R493). -/
def execHostRead (s : State) : Result :=
  match s.cur with
  | .at p n m _ =>
    let s := { s with cur := .idle }
    if p ≠ 0 then .next { s with barData := barRead s n m }
    else if rangeOf (64 * n) = .hbm then .next (newEng s .host 36 0 0 (0, 64 * n, 64) (.hostRead (m == 1)))
    else .next s
  | _ => .next s

/-- A write by the host. With `p` = 0 the host asks to write `m` bytes inside a line at address `n` of HBM: `v` is the data, and whether
it keeps a copy. With another `p` it writes `m` bytes of BAR 2 at offset `n` (R493): each write takes effect before the next. -/
def execHostWrite (s : State) : Result :=
  match s.cur with
  | .at p n m v =>
    let s := { s with cur := .idle }
    if p ≠ 0 then .next (barWrite s n m (BitVec.ofNat 64 (v.getD 0 0)))
    else if wholly .hbm n m ∧ n % 64 + m ≤ 64 then
      .next (newEng s .host 36 0 0 (0, n, m) (.hostWrite (v.getD 0 0 % 256 ^ m) (v.getD 1 0 == 1)))
    else .next s
  | _ => .next s

/-- The host takes line `n` of host memory back, in its order among the requests of the plot cycle (R253, R261), which wakes a queue whose
engine keeps it (R370); `v` is the line as the device sees it from then on. -/
def execHostSnoop (s : State) : Result :=
  match s.cur with
  | .at _ n _ v =>
    let s := { s with cur := .idle }
    if rangeOf (64 * n) = .host then
      match reaches s n 36 with
      | some s =>
        let s := if s.hostLines.contains n then wakeWatch s n else s
        let s := l2Drop { s with hostLines := s.hostLines.filter (fun l => l != n) } n
        .next (match v with
          | [] => s
          | d :: _ => { s with mem := s.mem.setLine n (BitVec.ofNat 512 d) })
      | none => .next s
    else .next s
  | _ => .next s

end Sys2Proof.Machine
end

