-- ==== Sys2Proof/Machine/Integer.lean ====
section
/-! DEFINITION. Integer, bit and packet elements (05_integer.md): opcodes 0x020 to 0x03C, 0x060 to 0x068 and 0x080
to 0x088. Each instruction's result is a function of its matched set and its op word alone (R146); `fire` adds what
every firing does. -/
namespace Sys2Proof.Machine

/-! ### Shapes -/

/-- An element-wise integer operation on one operand (R121). -/
def int1 (f : Ty → Int → Int) (c : FireCtx) : Except FaultInfo (List Send) :=
  elementwise c [0] (fun _ xs => writeInt c.head.ty (f c.head.ty (readInt c.head.ty (xs.getD 0 0))))

/-- An element-wise integer operation on two operands (R121). -/
def int2 (f : Ty → Int → Int → Int) (c : FireCtx) : Except FaultInfo (List Send) :=
  elementwise c [0, 1] (fun _ xs => writeInt c.head.ty
    (f c.head.ty (readInt c.head.ty (xs.getD 0 0)) (readInt c.head.ty (xs.getD 1 0))))

/-- An element-wise integer operation on three operands (R121). -/
def int3 (f : Ty → Int → Int → Int → Int) (c : FireCtx) : Except FaultInfo (List Send) :=
  elementwise c [0, 1, 2] (fun _ xs => writeInt c.head.ty
    (f c.head.ty (readInt c.head.ty (xs.getD 0 0)) (readInt c.head.ty (xs.getD 1 0))
      (readInt c.head.ty (xs.getD 2 0))))

/-- The low N bits of an integer: `pattern` of R119. -/
def pat (t : Ty) (a : Int) : Nat := (a % (2 ^ tyWidth t : Nat)).toNat

/-- A result made of bits from the operand's bits, low bit first. -/
def ofBits (bs : List Bool) : Int := (natOfBits bs : Int)

/-- The condition of `cmp` (R124). -/
def cmpHolds (cc : CmpCond) (t : Ty) (a b : Int) : Bool :=
  match cc with
  | .eq => decide (a = b)
  | .ne => decide (a ≠ b)
  | .lt => decide (a < b)
  | .le => decide (a ≤ b)
  | .gt => decide (a > b)
  | .ge => decide (a ≥ b)
  | .tst => decide (pat t a &&& pat t b ≠ 0)

/-- Leading zeros of the low `n` bits (R121). -/
def clzOf (n x : Nat) : Nat := leadingWhile not (bitList n x).reverse

/-- Trailing zeros of the low `n` bits (R121). -/
def ctzOf (n x : Nat) : Nat := leadingWhile not (bitList n x)

/-- `a` rotated left by `s` within `n` bits (R121). -/
def rotlOf (n a s : Nat) : Nat := ((a <<< s) ||| (a >>> (n - s))) % 2 ^ n

/-- `sext` and `zext` of a field of width `k` from bit 0 (R126). -/
def extendField (signed : Bool) (t : Ty) (a : Int) (k : Nat) : Int :=
  if k = 0 then 0
  else if tyWidth t ≤ k then a
  else if signed then signedOf k (pat t a) else ((pat t a % 2 ^ k : Nat) : Int)

/-! ### Integer elements (R121 to R127) -/

def addResult : FireCtx → Except FaultInfo (List Send) := int2 (fun _ a b => a + b)
def subResult : FireCtx → Except FaultInfo (List Send) := int2 (fun _ a b => a - b)
def mulResult : FireCtx → Except FaultInfo (List Send) := int2 (fun _ a b => a * b)
def mulhResult : FireCtx → Except FaultInfo (List Send) :=
  int2 (fun t a b => (a * b).fdiv ((2 ^ tyWidth t : Nat) : Int))
def madResult : FireCtx → Except FaultInfo (List Send) := int3 (fun _ a b x => a * b + x)
def divResult : FireCtx → Except FaultInfo (List Send) := int2 intDiv
def remResult : FireCtx → Except FaultInfo (List Send) := int2 intRem
def negResult : FireCtx → Except FaultInfo (List Send) := int1 (fun _ a => -a)
def absResult : FireCtx → Except FaultInfo (List Send) := int1 (fun _ a => (a.natAbs : Int))
def minResult : FireCtx → Except FaultInfo (List Send) := int2 (fun _ a b => if a ≤ b then a else b)
def maxResult : FireCtx → Except FaultInfo (List Send) := int2 (fun _ a b => if a ≥ b then a else b)
def andResult : FireCtx → Except FaultInfo (List Send) := int2 (fun t a b => ((pat t a &&& pat t b : Nat) : Int))
def orResult : FireCtx → Except FaultInfo (List Send) := int2 (fun t a b => ((pat t a ||| pat t b : Nat) : Int))
def xorResult : FireCtx → Except FaultInfo (List Send) := int2 (fun t a b => ((pat t a ^^^ pat t b : Nat) : Int))
def andnResult : FireCtx → Except FaultInfo (List Send) :=
  int2 (fun t a b => ((pat t a &&& (2 ^ tyWidth t - 1 - pat t b) : Nat) : Int))
def shlResult : FireCtx → Except FaultInfo (List Send) :=
  int2 (fun t a b => ((pat t a <<< (pat t b % tyWidth t) : Nat) : Int))
def shrResult : FireCtx → Except FaultInfo (List Send) :=
  int2 (fun t a b => ((pat t a >>> (pat t b % tyWidth t) : Nat) : Int))
def sarResult : FireCtx → Except FaultInfo (List Send) :=
  int2 (fun t a b => (signedOf (tyWidth t) (pat t a)).fdiv ((2 ^ (pat t b % tyWidth t) : Nat) : Int))
def rotlResult : FireCtx → Except FaultInfo (List Send) :=
  int2 (fun t a b => (rotlOf (tyWidth t) (pat t a) (pat t b % tyWidth t) : Int))
def cmpResult (cc : CmpCond) : FireCtx → Except FaultInfo (List Send) :=
  int2 (fun t a b => (natOfBool (cmpHolds cc t a b) : Int))
def clzResult : FireCtx → Except FaultInfo (List Send) := int1 (fun t a => (clzOf (tyWidth t) (pat t a) : Int))
def ctzResult : FireCtx → Except FaultInfo (List Send) := int1 (fun t a => (ctzOf (tyWidth t) (pat t a) : Int))
def popcResult : FireCtx → Except FaultInfo (List Send) :=
  int1 (fun t a => (((bitList (tyWidth t) (pat t a)).count true : Nat) : Int))
def brevResult : FireCtx → Except FaultInfo (List Send) :=
  int1 (fun t a => ofBits (bitList (tyWidth t) (pat t a)).reverse)
def sextResult : FireCtx → Except FaultInfo (List Send) := int2 (fun t a b => extendField true t a (pat t b))
def zextResult : FireCtx → Except FaultInfo (List Send) := int2 (fun t a b => extendField false t a (pat t b))
def addsResult : FireCtx → Except FaultInfo (List Send) := int2 (fun t a b => satInt t (a + b))
def subsResult : FireCtx → Except FaultInfo (List Send) := int2 (fun t a b => satInt t (a - b))
def leaResult (sc : BitVec 3) : FireCtx → Except FaultInfo (List Send) :=
  int2 (fun t a b => a + ((pat t b * 2 ^ sc.toNat : Nat) : Int))

/-! ### Bit elements (R129 to R135) -/

/-- `lut4` (R130): bit j of the result is the truth table's bit for the four inputs' bits j. -/
def lut4Result (tt : BitVec 16) (c : FireCtx) : Except FaultInfo (List Send) :=
  int3 (fun t x y z => ofBits ((List.range (tyWidth t)).map (fun j => tt.getLsbD
    (natOfBool ((pat t x).testBit j) + 2 * natOfBool ((pat t y).testBit j) +
      4 * natOfBool ((pat t z).testBit j) + 8 * natOfBool (c.head.cfg.getLsbD j))))) c

/-- `bext` (R131). -/
def bextResult (sx : Bool) (len : BitVec 7) (pos : BitVec 6) : FireCtx → Except FaultInfo (List Send) :=
  int1 (fun t a =>
    let f := bitsOf (pat t a) pos.toNat len.toNat
    if sx then signedOf len.toNat f else (f : Int))

/-- `bins` (R131). -/
def binsResult (len : BitVec 7) (pos : BitVec 6) : FireCtx → Except FaultInfo (List Send) :=
  int2 (fun t a b =>
    let x := pat t a
    (((x - bitsOf x pos.toNat len.toNat * 2 ^ pos.toNat) + (pat t b % 2 ^ len.toNat) * 2 ^ pos.toNat : Nat) : Int))

/-- One part of `bsplit` for every element (R132). -/
def splitPart (c : FireCtx) (high : Bool) (sx : Bool) (pos : BitVec 6) : Packet :=
  let t := c.head.ty
  mkPacket (tagOfTy t) ((List.range (lenAt c 0)).map (fun i =>
    let x := patternOf t (elemAt c (wideTy t) 0 i)
    writeInt t (if high then
        (if sx then (signedOf (tyWidth t) x).fdiv ((2 ^ pos.toNat : Nat) : Int) else ((x >>> pos.toNat : Nat) : Int))
      else ((x % 2 ^ pos.toNat : Nat) : Int))))

/-- `bsplit` (R132): the low parts to T0, the high parts to T1. -/
def bsplitResult (sx : Bool) (pos : BitVec 6) (c : FireCtx) : Except FaultInfo (List Send) :=
  .ok (sendTo c.head.t0 (Token.mk c.env (splitPart c false sx pos)) ++
    sendTo c.head.t1 (Token.mk c.env (splitPart c true sx pos)))

/-- `bjoin` (R132). -/
def bjoinResult (pos : BitVec 6) : FireCtx → Except FaultInfo (List Send) :=
  int2 (fun t a b => (((pat t b <<< pos.toNat) ||| (pat t a % 2 ^ pos.toNat) : Nat) : Int))

/-- The route of selector `e` in the table of `dec` (R133). -/
def decRoute (hi : BitVec 8) (iw : BitVec 3) (cfg : Word) (e : Nat) : Nat :=
  if iw = 6 then 2 * natOfBool (hi.getLsbD (e >>> 3)) + natOfBool (cfg.getLsbD e)
  else bitsOf cfg.toNat (2 * e) 2

/-- `dec` (R133): the data token goes to the target that the selector's route names. -/
def decResult (hi : BitVec 8) (iw : BitVec 3) (c : FireCtx) : Except FaultInfo (List Send) := do
  let e ← idxAt c 0
  let tok := Token.mk c.env (passed c 1)
  .ok (match decRoute hi iw c.head.cfg (e % 2 ^ iw.toNat) with
    | 0 => sendTo c.head.t0 tok
    | 1 => sendTo c.head.t1 tok
    | 2 => sendTo c.head.t2 tok
    | _ => [])

/-- Bits of `a` at the positions where the mask holds ones, packed down (R134). -/
def gatherBits : List Bool → List Bool → List Bool
  | a :: as, m :: ms => if m then a :: gatherBits as ms else gatherBits as ms
  | _, _ => []

/-- The low bits of `a` put at the positions where the mask holds ones (R134). -/
def scatterBits : List Bool → List Bool → List Bool
  | as, m :: ms => if m then as.headD false :: scatterBits as.tail ms else false :: scatterBits as ms
  | _, [] => []

/-- `pext` (R134). -/
def pextResult : FireCtx → Except FaultInfo (List Send) :=
  int2 (fun t a b => ofBits (gatherBits (bitList (tyWidth t) (pat t a)) (bitList (tyWidth t) (pat t b))))

/-- `pdep` (R134). -/
def pdepResult : FireCtx → Except FaultInfo (List Send) :=
  int2 (fun t a b => ofBits (scatterBits (bitList (tyWidth t) (pat t a)) (bitList (tyWidth t) (pat t b))))

/-- `bsel` (R135). -/
def bselResult : FireCtx → Except FaultInfo (List Send) :=
  int3 (fun t a b x => (((pat t b &&& pat t a) ||| (pat t x &&& (2 ^ tyWidth t - 1 - pat t a)) : Nat) : Int))

/-! ### Packet elements (R136 to R144) -/

/-- A packet of the firing's data format to every target (R136). -/
def emitData (c : FireCtx) (xs : List Word) : List Send := emit c (mkPacket (resultTag c) xs)

/-- `pkb` (R137). -/
def pkbResult (lenM1 e : BitVec 3) (c : FireCtx) : Except FaultInfo (List Send) := do
  let f ← dataFmt c
  require (decide (e.toNat < lenAt c 0)) causePacketLength
  .ok (emitData c (List.replicate (lenM1.toNat + 1) ((elemsAt c f 0).getD e.toNat 0)))

/-- `pkm` (R138). The model's choice (assumption 23): with `.lane`, a firing that has both a tag fault and a length fault
reports FORMAT. -/
def pkmResult (c : FireCtx) : Except FaultInfo (List Send) := do
  let f ← dataFmt c
  laneCheck c [0, 1]
  require (decide (lenAt c 0 + lenAt c 1 ≤ 8)) causePacketLength
  .ok (emitData c (elemsAt c f 0 ++ elemsAt c f 1))

/-- `pks` (R139): the first K elements to T0, the rest to T1. -/
def pksResult (k : BitVec 3) (c : FireCtx) : Except FaultInfo (List Send) := do
  let f ← dataFmt c
  require (decide (k.toNat < lenAt c 0)) causePacketLength
  let part := fun xs => Token.mk c.env (mkPacket (resultTag c) xs)
  .ok (sendTo c.head.t0 (part ((elemsAt c f 0).take k.toNat)) ++
    sendTo c.head.t1 (part ((elemsAt c f 0).drop k.toNat)))

/-- `pkx` (R140). -/
def pkxResult (c : FireCtx) : Except FaultInfo (List Send) := do
  let f ← dataFmt c
  let i ← idxAt c 1
  require (decide (i < lenAt c 0)) causePacketLength
  .ok (emitData c [(elemsAt c f 0).getD i 0])

/-- `pki` (R141). The model's choice (assumption 23): a tag fault is reported before a length fault. -/
def pkiResult (c : FireCtx) : Except FaultInfo (List Send) := do
  let f ← dataFmt c
  laneCheck c [0, 1]
  let i ← idxAt c 2
  require (decide (lenAt c 1 = 1) && decide (i < lenAt c 0)) causePacketLength
  .ok (emitData c ((elemsAt c f 0).set i ((elemsAt c f 1).getD 0 0)))

/-- f(x, y) of `pkr` and `pkscan` (R142), before the wrap of each step. -/
def foldStep (op : FoldOp) (t : Ty) (x y : Int) : Int :=
  match op with
  | .add => x + y
  | .min => if x ≤ y then x else y
  | .max => if x ≥ y then x else y
  | .and => ((pat t x &&& pat t y : Nat) : Int)
  | .or => ((pat t x ||| pat t y : Nat) : Int)
  | .xor => ((pat t x ^^^ pat t y : Nat) : Int)
  | .adds => satInt t (x + y)

/-- An integer wrapped to a type's range (R31, R54). -/
def wrapInt (t : Ty) (v : Int) : Int := readInt t (writeInt t v)

/-- The identity of an operation (R142). -/
def foldIdentity (op : FoldOp) (t : Ty) : Int :=
  match op with
  | .min => maxOf t
  | .max => minOf t
  | .and => wrapInt t (-1)
  | .add | .or | .xor | .adds => 0

/-- The values of the port 0 packet as integers of TY. -/
def intElems (c : FireCtx) : List Int :=
  (List.range (lenAt c 0)).map (fun i => readInt c.head.ty (slotAt c (wideTy c.head.ty) 0 i))

/-- `pkr` (R142): a fold from element 0 upward. -/
def pkrResult (op : FoldOp) (c : FireCtx) : Except FaultInfo (List Send) :=
  let t := c.head.ty
  let acc := match intElems c with
    | [] => 0
    | x :: xs => xs.foldl (fun a y => wrapInt t (foldStep op t a y)) x
  .ok (emit c (mkPacket (tagOfTy t) [writeInt t acc]))

/-- The prefix results of `pkscan`: before each element where `exc`, after it otherwise (R142). -/
def scanList (exc : Bool) (f : Int → Int → Int) : Int → List Int → List Int
  | _, [] => []
  | acc, x :: xs => (if exc then acc else f acc x) :: scanList exc f (f acc x) xs

/-- `pkscan` (R142). -/
def pkscanResult (exc : Bool) (op : FoldOp) (c : FireCtx) : Except FaultInfo (List Send) :=
  let t := c.head.ty
  .ok (emit c (mkPacket (tagOfTy t)
    ((scanList exc (fun a y => wrapInt t (foldStep op t a y)) (foldIdentity op t) (intElems c)).map (writeInt t))))

/-- The source index of each result element of `pkp` (R143). -/
def pkpSources (dyn : Bool) (lenM1 : BitVec 3) (c : FireCtx) : Except FaultInfo (List Nat) :=
  if dyn then (List.range (lenAt c 1)).mapM (fun j => ownUnsigned c 1 j)
  else .ok ((List.range (lenM1.toNat + 1)).map (fun j => bitsOf c.head.cfg.toNat (3 * j) 3))

/-- `pkp` (R143). -/
def pkpResult (dyn : Bool) (lenM1 : BitVec 3) (c : FireCtx) : Except FaultInfo (List Send) := do
  let f ← dataFmt c
  let src ← pkpSources dyn lenM1 c
  require (src.all (fun e => decide (e < lenAt c 0))) causePacketLength
  .ok (emitData c (src.map (fun e => (elemsAt c f 0).getD e 0)))

/-- `pkl` (R144). -/
def pklResult (lM1 : BitVec 3) (c : FireCtx) : Except FaultInfo (List Send) := do
  let f ← dataFmt c
  .ok (emitData c ((List.range (lM1.toNat + 1)).map (fun j => (elemsAt c f 0).getD j 0)))

/-! ### The instructions -/

def execAdd (h : Head) (s : State) : Result := fire h addResult s
def execSub (h : Head) (s : State) : Result := fire h subResult s
def execMul (h : Head) (s : State) : Result := fire h mulResult s
def execMulh (h : Head) (s : State) : Result := fire h mulhResult s
def execMad (h : Head) (s : State) : Result := fire h madResult s
def execDiv (h : Head) (s : State) : Result := fire h divResult s
def execRem (h : Head) (s : State) : Result := fire h remResult s
def execNeg (h : Head) (s : State) : Result := fire h negResult s
def execAbs (h : Head) (s : State) : Result := fire h absResult s
def execMin (h : Head) (s : State) : Result := fire h minResult s
def execMax (h : Head) (s : State) : Result := fire h maxResult s
def execAnd (h : Head) (s : State) : Result := fire h andResult s
def execOr (h : Head) (s : State) : Result := fire h orResult s
def execXor (h : Head) (s : State) : Result := fire h xorResult s
def execAndn (h : Head) (s : State) : Result := fire h andnResult s
def execShl (h : Head) (s : State) : Result := fire h shlResult s
def execShr (h : Head) (s : State) : Result := fire h shrResult s
def execSar (h : Head) (s : State) : Result := fire h sarResult s
def execRotl (h : Head) (s : State) : Result := fire h rotlResult s
def execCmp (h : Head) (cc : CmpCond) (s : State) : Result := fire h (cmpResult cc) s
def execClz (h : Head) (s : State) : Result := fire h clzResult s
def execCtz (h : Head) (s : State) : Result := fire h ctzResult s
def execPopc (h : Head) (s : State) : Result := fire h popcResult s
def execBrev (h : Head) (s : State) : Result := fire h brevResult s
def execSext (h : Head) (s : State) : Result := fire h sextResult s
def execZext (h : Head) (s : State) : Result := fire h zextResult s
def execAdds (h : Head) (s : State) : Result := fire h addsResult s
def execSubs (h : Head) (s : State) : Result := fire h subsResult s
def execLea (h : Head) (sc : BitVec 3) (s : State) : Result := fire h (leaResult sc) s
def execLut4 (h : Head) (tt : BitVec 16) (s : State) : Result := fire h (lut4Result tt) s
def execBext (h : Head) (sx : Bool) (len : BitVec 7) (pos : BitVec 6) (s : State) : Result := fire h (bextResult sx len pos) s
def execBins (h : Head) (len : BitVec 7) (pos : BitVec 6) (s : State) : Result := fire h (binsResult len pos) s
def execBsplit (h : Head) (sx : Bool) (pos : BitVec 6) (s : State) : Result := fire h (bsplitResult sx pos) s
def execBjoin (h : Head) (pos : BitVec 6) (s : State) : Result := fire h (bjoinResult pos) s
def execDec (h : Head) (hi : BitVec 8) (iw : BitVec 3) (s : State) : Result := fire h (decResult hi iw) s
def execPext (h : Head) (s : State) : Result := fire h pextResult s
def execPdep (h : Head) (s : State) : Result := fire h pdepResult s
def execBsel (h : Head) (s : State) : Result := fire h bselResult s
def execPkb (h : Head) (lenM1 e : BitVec 3) (s : State) : Result := fire h (pkbResult lenM1 e) s
def execPkm (h : Head) (s : State) : Result := fire h pkmResult s
def execPks (h : Head) (k : BitVec 3) (s : State) : Result := fire h (pksResult k) s
def execPkx (h : Head) (s : State) : Result := fire h pkxResult s
def execPki (h : Head) (s : State) : Result := fire h pkiResult s
def execPkr (h : Head) (op : FoldOp) (s : State) : Result := fire h (pkrResult op) s
def execPkp (h : Head) (dyn : Bool) (lenM1 : BitVec 3) (s : State) : Result := fire h (pkpResult dyn lenM1) s
def execPkl (h : Head) (lM1 : BitVec 3) (s : State) : Result := fire h (pklResult lM1) s
def execPkscan (h : Head) (exc : Bool) (op : FoldOp) (s : State) : Result := fire h (pkscanResult exc op) s

end Sys2Proof.Machine
end

