-- ==== Sys2Proof/Machine/Dispatch.lean ====
section
/-! DEFINITION. The one place where a row of the opcode table meets its meaning: one arm for each constructor of
Instr, each a single call. -/
namespace Sys2Proof.Machine

def exec (i : Instr) (s : State) : Host.Outcome State Fault Refusal :=
  match i with
  | .mov h => Sys2Proof.Machine.execMov h s
  | .sink h => Sys2Proof.Machine.execSink h s
  | .steer h tm => Sys2Proof.Machine.execSteer h tm s
  | .select h => Sys2Proof.Machine.execSelect h s
  | .gate h => Sys2Proof.Machine.execGate h s
  | .const h => Sys2Proof.Machine.execConst h s
  | .exit h => Sys2Proof.Machine.execExit h s
  | .call h ind site => Sys2Proof.Machine.execCall h ind site s
  | .ret h => Sys2Proof.Machine.execRet h s
  | .lpent h w => Sys2Proof.Machine.execLpent h w s
  | .lpnext h w => Sys2Proof.Machine.execLpnext h w s
  | .lpexit h w => Sys2Proof.Machine.execLpexit h w s
  | .tagrd h pos w => Sys2Proof.Machine.execTagrd h pos w s
  | .tagwr h mode w => Sys2Proof.Machine.execTagwr h mode w s
  | .thrd h sel => Sys2Proof.Machine.execThrd h sel s
  | .reord h => Sys2Proof.Machine.execReord h s
  | .join h all => Sys2Proof.Machine.execJoin h all s
  | .argwr h => Sys2Proof.Machine.execArgwr h s
  | .add h => Sys2Proof.Machine.execAdd h s
  | .sub h => Sys2Proof.Machine.execSub h s
  | .mul h => Sys2Proof.Machine.execMul h s
  | .mulh h => Sys2Proof.Machine.execMulh h s
  | .mad h => Sys2Proof.Machine.execMad h s
  | .div h => Sys2Proof.Machine.execDiv h s
  | .rem h => Sys2Proof.Machine.execRem h s
  | .neg h => Sys2Proof.Machine.execNeg h s
  | .abs h => Sys2Proof.Machine.execAbs h s
  | .min h => Sys2Proof.Machine.execMin h s
  | .max h => Sys2Proof.Machine.execMax h s
  | .and h => Sys2Proof.Machine.execAnd h s
  | .or h => Sys2Proof.Machine.execOr h s
  | .xor h => Sys2Proof.Machine.execXor h s
  | .andn h => Sys2Proof.Machine.execAndn h s
  | .shl h => Sys2Proof.Machine.execShl h s
  | .shr h => Sys2Proof.Machine.execShr h s
  | .sar h => Sys2Proof.Machine.execSar h s
  | .rotl h => Sys2Proof.Machine.execRotl h s
  | .cmp h cc => Sys2Proof.Machine.execCmp h cc s
  | .clz h => Sys2Proof.Machine.execClz h s
  | .ctz h => Sys2Proof.Machine.execCtz h s
  | .popc h => Sys2Proof.Machine.execPopc h s
  | .brev h => Sys2Proof.Machine.execBrev h s
  | .sext h => Sys2Proof.Machine.execSext h s
  | .zext h => Sys2Proof.Machine.execZext h s
  | .adds h => Sys2Proof.Machine.execAdds h s
  | .subs h => Sys2Proof.Machine.execSubs h s
  | .lea h sc => Sys2Proof.Machine.execLea h sc s
  | .lut4 h tt => Sys2Proof.Machine.execLut4 h tt s
  | .bext h sx len pos => Sys2Proof.Machine.execBext h sx len pos s
  | .bins h len pos => Sys2Proof.Machine.execBins h len pos s
  | .bsplit h sx pos => Sys2Proof.Machine.execBsplit h sx pos s
  | .bjoin h pos => Sys2Proof.Machine.execBjoin h pos s
  | .dec h hi iw => Sys2Proof.Machine.execDec h hi iw s
  | .pext h => Sys2Proof.Machine.execPext h s
  | .pdep h => Sys2Proof.Machine.execPdep h s
  | .bsel h => Sys2Proof.Machine.execBsel h s
  | .pkb h lenM1 e => Sys2Proof.Machine.execPkb h lenM1 e s
  | .pkm h => Sys2Proof.Machine.execPkm h s
  | .pks h k => Sys2Proof.Machine.execPks h k s
  | .pkx h => Sys2Proof.Machine.execPkx h s
  | .pki h => Sys2Proof.Machine.execPki h s
  | .pkr h op => Sys2Proof.Machine.execPkr h op s
  | .pkp h dyn lenM1 => Sys2Proof.Machine.execPkp h dyn lenM1 s
  | .pkl h lM1 => Sys2Proof.Machine.execPkl h lM1 s
  | .pkscan h exc op => Sys2Proof.Machine.execPkscan h exc op s
  | .fadd h rm => Sys2Proof.Machine.execFadd h rm s
  | .fsub h rm => Sys2Proof.Machine.execFsub h rm s
  | .fmul h rm => Sys2Proof.Machine.execFmul h rm s
  | .fma h rm => Sys2Proof.Machine.execFma h rm s
  | .fmin h => Sys2Proof.Machine.execFmin h s
  | .fmax h => Sys2Proof.Machine.execFmax h s
  | .fcmp h cc => Sys2Proof.Machine.execFcmp h cc s
  | .fabs h => Sys2Proof.Machine.execFabs h s
  | .fneg h => Sys2Proof.Machine.execFneg h s
  | .fcls h cm => Sys2Proof.Machine.execFcls h cm s
  | .frcp h rm => Sys2Proof.Machine.execFrcp h rm s
  | .frsq h rm => Sys2Proof.Machine.execFrsq h rm s
  | .fex2 h rm => Sys2Proof.Machine.execFex2 h rm s
  | .flg2 h rm => Sys2Proof.Machine.execFlg2 h rm s
  | .fsin h rm => Sys2Proof.Machine.execFsin h rm s
  | .fcos h rm => Sys2Proof.Machine.execFcos h rm s
  | .ftanh h rm => Sys2Proof.Machine.execFtanh h rm s
  | .fdiv h rm => Sys2Proof.Machine.execFdiv h rm s
  | .fsqrt h rm => Sys2Proof.Machine.execFsqrt h rm s
  | .cvt h sty rm => Sys2Proof.Machine.execCvt h sty rm s
  | .frnd h rm => Sys2Proof.Machine.execFrnd h rm s
  | .fscl h rm => Sys2Proof.Machine.execFscl h rm s
  | .wad h ft => Sys2Proof.Machine.execWad h ft s
  | .plgat h ft => Sys2Proof.Machine.execPlgat h ft s
  | .plsct h ft => Sys2Proof.Machine.execPlsct h ft s
  | .qnt h ft rm => Sys2Proof.Machine.execQnt h ft rm s
  | .dqnt h sc rm => Sys2Proof.Machine.execDqnt h sc rm s
  | .bsc h sty => Sys2Proof.Machine.execBsc h sty s
  | .ld h m => Sys2Proof.Machine.execLd h m s
  | .st h m => Sys2Proof.Machine.execSt h m s
  | .lds h m => Sys2Proof.Machine.execLds h m s
  | .stf h m => Sys2Proof.Machine.execStf h m s
  | .clre h m => Sys2Proof.Machine.execClre h m s
  | .mnop h m => Sys2Proof.Machine.execMnop h m s
  | .wadv h => Sys2Proof.Machine.execWadv h s
  | .fence h m => Sys2Proof.Machine.execFence h m s
  | .atom h m => Sys2Proof.Machine.execAtom h m s
  | .red h m => Sys2Proof.Machine.execRed h m s
  | .pref h m => Sys2Proof.Machine.execPref h m s
  | .cctl h m => Sys2Proof.Machine.execCctl h m s
  | .ldg h m => Sys2Proof.Machine.execLdg h m s
  | .sts h m => Sys2Proof.Machine.execSts h m s
  | .cnt h idx d w => Sys2Proof.Machine.execCnt h idx d w s
  | .cchn h idx d w => Sys2Proof.Machine.execCchn h idx d w s
  | .agen h => Sys2Proof.Machine.execAgen h s
  | .strl h row lenM1 ft cp done scope => Sys2Proof.Machine.execStrl h row lenM1 ft cp done scope s
  | .strs h cp done scope => Sys2Proof.Machine.execStrs h cp done scope s
  | .ctks h one ch => Sys2Proof.Machine.execCtks h one ch s
  | .ctkw h mM1 ch => Sys2Proof.Machine.execCtkw h mM1 ch s
  | .cnrd h => Sys2Proof.Machine.execCnrd h s
  | .cnwr h op => Sys2Proof.Machine.execCnwr h op s
  | .cbini h cb => Sys2Proof.Machine.execCbini h cb s
  | .cbres h wait cb => Sys2Proof.Machine.execCbres h wait cb s
  | .cbcom h cb => Sys2Proof.Machine.execCbcom h cb s
  | .cbacq h wait cb => Sys2Proof.Machine.execCbacq h wait cb s
  | .cbrel h cb => Sys2Proof.Machine.execCbrel h cb s
  | .cbst h cb => Sys2Proof.Machine.execCbst h cb s
  | .cpy h done scope => Sys2Proof.Machine.execCpy h done scope s
  | .cpy2 h done scope => Sys2Proof.Machine.execCpy2 h done scope s
  | .cpycb h done cb => Sys2Proof.Machine.execCpycb h done cb s
  | .cpyq h done scope => Sys2Proof.Machine.execCpyq h done scope s
  | .pmini h => Sys2Proof.Machine.execPmini h s
  | .pment h => Sys2Proof.Machine.execPment h s
  | .pmex h => Sys2Proof.Machine.execPmex h s
  | .frq h wait => Sys2Proof.Machine.execFrq h wait s
  | .frl h => Sys2Proof.Machine.execFrl h s
  | .mwld h ws => Sys2Proof.Machine.execMwld h ws s
  | .mwsw h ws => Sys2Proof.Machine.execMwsw h ws s
  | .mma h nrM1 a => Sys2Proof.Machine.execMma h nrM1 a s
  | .mgat h ft => Sys2Proof.Machine.execMgat h ft s
  | .mrep h pace => Sys2Proof.Machine.execMrep h pace s
  | .mfil h => Sys2Proof.Machine.execMfil h s
  | .mclr h a => Sys2Proof.Machine.execMclr h a s
  | .mwr h cls a => Sys2Proof.Machine.execMwr h cls a s
  | .mchk h a => Sys2Proof.Machine.execMchk h a s
  | .mdrn h scope done rm sh outf a => Sys2Proof.Machine.execMdrn h scope done rm sh outf a s
  | .mst h rm sh outf a => Sys2Proof.Machine.execMst h rm sh outf a s
  | .mloc h => Sys2Proof.Machine.execMloc h s
  | .mfix h => Sys2Proof.Machine.execMfix h s
  | .mrty h => Sys2Proof.Machine.execMrty h s
  | .mrd h sel => Sys2Proof.Machine.execMrd h sel s
  | .mtol h cls => Sys2Proof.Machine.execMtol h cls s
  | .grex h op => Sys2Proof.Machine.execGrex h op s
  | .post h done ipt => Sys2Proof.Machine.execPost h done ipt s
  | .recv h wait ipt => Sys2Proof.Machine.execRecv h wait ipt s
  | .bari h b => Sys2Proof.Machine.execBari h b s
  | .bar h wait b => Sys2Proof.Machine.execBar h wait b s
  | .barq h b => Sys2Proof.Machine.execBarq h b s
  | .sow h => Sys2Proof.Machine.execSow h s
  | .kdep h => Sys2Proof.Machine.execKdep h s
  | .kdec h => Sys2Proof.Machine.execKdec h s
  | .yld h => Sys2Proof.Machine.execYld h s
  | .srd h dx die reg => Sys2Proof.Machine.execSrd h dx die reg s
  | .swr h dx die reg => Sys2Proof.Machine.execSwr h dx die reg s
  | .trap h code => Sys2Proof.Machine.execTrap h code s
  | .hcse h => Sys2Proof.Machine.execHcse h s
  | .hres h drop => Sys2Proof.Machine.execHres h drop s
  | .hkil h => Sys2Proof.Machine.execHkil h s
  | .halt h op => Sys2Proof.Machine.execHalt h op s
  | .rrec h op => Sys2Proof.Machine.execRrec h op s
  | .minj h kind => Sys2Proof.Machine.execMinj h kind s
  | .tlbi h mode => Sys2Proof.Machine.execTlbi h mode s
  | .pwrq h can fmask => Sys2Proof.Machine.execPwrq h can fmask s
  | .imtr h op => Sys2Proof.Machine.execImtr h op s
  | .coldReset => Sys2Proof.Machine.execColdReset s
  | .registerWrite => Sys2Proof.Machine.execRegisterWrite s
  | .tokenArrival => Sys2Proof.Machine.execTokenArrival s
  | .overflowReturn => Sys2Proof.Machine.execOverflowReturn s
  | .accessArrival => Sys2Proof.Machine.execAccessArrival s
  | .storeBufferIssue => Sys2Proof.Machine.execStoreBufferIssue s
  | .accessPerformed => Sys2Proof.Machine.execAccessPerformed s
  | .waiterRefusalRetry => Sys2Proof.Machine.execWaiterRefusalRetry s
  | .gets => Sys2Proof.Machine.execGets s
  | .getx => Sys2Proof.Machine.execGetx s
  | .upg => Sys2Proof.Machine.execUpg s
  | .pute => Sys2Proof.Machine.execPute s
  | .putm => Sys2Proof.Machine.execPutm s
  | .invAck => Sys2Proof.Machine.execInvAck s
  | .fwdDone => Sys2Proof.Machine.execFwdDone s
  | .dataS => Sys2Proof.Machine.execDataS s
  | .dataE => Sys2Proof.Machine.execDataE s
  | .dataM => Sys2Proof.Machine.execDataM s
  | .grant => Sys2Proof.Machine.execGrant s
  | .inv => Sys2Proof.Machine.execInv s
  | .fwdGets => Sys2Proof.Machine.execFwdGets s
  | .fwdGetx => Sys2Proof.Machine.execFwdGetx s
  | .putAck => Sys2Proof.Machine.execPutAck s
  | .requestReissue => Sys2Proof.Machine.execRequestReissue s
  | .backInvalidation => Sys2Proof.Machine.execBackInvalidation s
  | .creditArrival => Sys2Proof.Machine.execCreditArrival s
  | .pointAccepted => Sys2Proof.Machine.execPointAccepted s
  | .streamAccessPerformed => Sys2Proof.Machine.execStreamAccessPerformed s
  | .counterAdd => Sys2Proof.Machine.execCounterAdd s
  | .ctkwJoin => Sys2Proof.Machine.execCtkwJoin s
  | .walkReturn => Sys2Proof.Machine.execWalkReturn s
  | .wordServe => Sys2Proof.Machine.execWordServe s
  | .chunkDone => Sys2Proof.Machine.execChunkDone s
  | .rowArrival => Sys2Proof.Machine.execRowArrival s
  | .rowBoundarySwitch => Sys2Proof.Machine.execRowBoundarySwitch s
  | .pushWritten => Sys2Proof.Machine.execPushWritten s
  | .rowResultWritten => Sys2Proof.Machine.execRowResultWritten s
  | .gatherRowSent => Sys2Proof.Machine.execGatherRowSent s
  | .mrepPass => Sys2Proof.Machine.execMrepPass s
  | .fillerRow => Sys2Proof.Machine.execFillerRow s
  | .comparisonEnd => Sys2Proof.Machine.execComparisonEnd s
  | .drainPerformed => Sys2Proof.Machine.execDrainPerformed s
  | .groupPlacement => Sys2Proof.Machine.execGroupPlacement s
  | .dispatchToken => Sys2Proof.Machine.execDispatchToken s
  | .quiescence => Sys2Proof.Machine.execQuiescence s
  | .groupRetired => Sys2Proof.Machine.execGroupRetired s
  | .childCompletion => Sys2Proof.Machine.execChildCompletion s
  | .portSpillReturn => Sys2Proof.Machine.execPortSpillReturn s
  | .completionSignal => Sys2Proof.Machine.execCompletionSignal s
  | .enable => Sys2Proof.Machine.execEnable s
  | .disable => Sys2Proof.Machine.execDisable s
  | .clear => Sys2Proof.Machine.execClear s
  | .kick => Sys2Proof.Machine.execKick s
  | .watchWake => Sys2Proof.Machine.execWatchWake s
  | .backoffExpiry => Sys2Proof.Machine.execBackoffExpiry s
  | .headerRead => Sys2Proof.Machine.execHeaderRead s
  | .packetConsume => Sys2Proof.Machine.execPacketConsume s
  | .fullLoad => Sys2Proof.Machine.execFullLoad s
  | .cachedLoad => Sys2Proof.Machine.execCachedLoad s
  | .floorRaise => Sys2Proof.Machine.execFloorRaise s
  | .loadBusy => Sys2Proof.Machine.execLoadBusy s
  | .create => Sys2Proof.Machine.execCreate s
  | .start => Sys2Proof.Machine.execStart s
  | .resume => Sys2Proof.Machine.execResume s
  | .preempt => Sys2Proof.Machine.execPreempt s
  | .freeze => Sys2Proof.Machine.execFreeze s
  | .thaw => Sys2Proof.Machine.execThaw s
  | .kill => Sys2Proof.Machine.execKill s
  | .release => Sys2Proof.Machine.execRelease s
  | .record => Sys2Proof.Machine.execRecord s
  | .replay => Sys2Proof.Machine.execReplay s
  | .norecord => Sys2Proof.Machine.execNorecord s
  | .contextIdle => Sys2Proof.Machine.execContextIdle s
  | .expiry => Sys2Proof.Machine.execExpiry s
  | .stall => Sys2Proof.Machine.execStall s
  | .acknowledgement => Sys2Proof.Machine.execAcknowledgement s
  | .walkLevelRead => Sys2Proof.Machine.execWalkLevelRead s
  | .adUpdate => Sys2Proof.Machine.execAdUpdate s
  | .contiguousCheck => Sys2Proof.Machine.execContiguousCheck s
  | .walkerQueueRetry => Sys2Proof.Machine.execWalkerQueueRetry s
  | .tlbiComplete => Sys2Proof.Machine.execTlbiComplete s
  | .blockLoadStarted => Sys2Proof.Machine.execBlockLoadStarted s
  | .blockLoadComplete => Sys2Proof.Machine.execBlockLoadComplete s
  | .imageTranslationFault => Sys2Proof.Machine.execImageTranslationFault s
  | .entryTokenDelivery => Sys2Proof.Machine.execEntryTokenDelivery s
  | .eviction => Sys2Proof.Machine.execEviction s
  | .evictionEnd => Sys2Proof.Machine.execEvictionEnd s
  | .consolidation => Sys2Proof.Machine.execConsolidation s
  | .migrationRequest => Sys2Proof.Machine.execMigrationRequest s
  | .migrationSwitch => Sys2Proof.Machine.execMigrationSwitch s
  | .migrationRelease => Sys2Proof.Machine.execMigrationRelease s
  | .samplingWindow => Sys2Proof.Machine.execSamplingWindow s
  | .intervalBoundary => Sys2Proof.Machine.execIntervalBoundary s
  | .guardTrip => Sys2Proof.Machine.execGuardTrip s
  | .thresholdTrip => Sys2Proof.Machine.execThresholdTrip s
  | .thresholdRelease => Sys2Proof.Machine.execThresholdRelease s
  | .dwellEnd => Sys2Proof.Machine.execDwellEnd s
  | .rackCapMessage => Sys2Proof.Machine.execRackCapMessage s
  | .leaseExpiry => Sys2Proof.Machine.execLeaseExpiry s
  | .prtbaseWrite => Sys2Proof.Machine.execPrtbaseWrite s
  | .train => Sys2Proof.Machine.execTrain s
  | .quarantine => Sys2Proof.Machine.execQuarantine s
  | .linkRelease => Sys2Proof.Machine.execLinkRelease s
  | .trainingComplete => Sys2Proof.Machine.execTrainingComplete s
  | .trainingTimeout => Sys2Proof.Machine.execTrainingTimeout s
  | .laneFailure => Sys2Proof.Machine.execLaneFailure s
  | .retrainComplete => Sys2Proof.Machine.execRetrainComplete s
  | .crcRetryFailure => Sys2Proof.Machine.execCrcRetryFailure s
  | .requestTimeout => Sys2Proof.Machine.execRequestTimeout s
  | .peerRequest => Sys2Proof.Machine.execPeerRequest s
  | .peerResponse => Sys2Proof.Machine.execPeerResponse s
  | .hostRead => Sys2Proof.Machine.execHostRead s
  | .hostWrite => Sys2Proof.Machine.execHostWrite s
  | .hostSnoop => Sys2Proof.Machine.execHostSnoop s
  | .homeOperation => Sys2Proof.Machine.execHomeOperation s
  | .homeRead => Sys2Proof.Machine.execHomeRead s
  | .obreqWrite => Sys2Proof.Machine.execObreqWrite s
  | .plotCycle => Sys2Proof.Machine.execPlotCycle s
  | .flitCrcError => Sys2Proof.Machine.execFlitCrcError s
  | .plotOffline => Sys2Proof.Machine.execPlotOffline s

end Sys2Proof.Machine
end

