-- ==== Sys2Proof/Machine/Step.lean ====
section
/-! DEFINITION. One step: the schedule's next entry names a PE, a row port or a step of the hardware (assumption 1);
the instruction there is read from its station, decoded and run. What each of these does stands in Choose and in the
meanings. -/
namespace Sys2Proof.Machine

/-- The instruction of a chosen station runs on what `cur` holds; words that are no instruction stop by name. -/
def runStation (r : Except (Word × Word) Instr) (s : State) : Host.Outcome State Fault Refusal :=
  match r with
  | .ok i => exec i s
  | .error w => .refused (.undecodable w.1 w.2)

/-- A PE starts a set of a copy: its turn and its unit are taken, and its instruction runs. -/
def runSet (s : State) (p t pe : Nat) (c : Copy) (m : MatchedSet) : Host.Outcome State Fault Refusal :=
  match stationInstr c m.slot with
  | .ok i => exec i { prepare s p t pe c.id m i with cur := .firing p c.id m }
  | .error w => .refused (.undecodable w.1 w.2)

/-- A PE starts a chosen set. -/
def runChosen (s : State) (p t pe : Nat) (o : Option (Copy × MatchedSet)) : Host.Outcome State Fault Refusal :=
  match o with
  | none => .next s
  | some (c, m) => runSet s p t pe c m

/-- A PE starts a set behind that of an `argwr`, and the `argwr` takes effect after it (R117). -/
def runBehind (s : State) (p t pe : Nat) (o : Option (Copy × MatchedSet × MatchedSet)) : Host.Outcome State Fault Refusal :=
  match o with
  | none => .next s
  | some (c, x, m) =>
    match runSet s p t pe c x with
    | .next u => if stillReady u p c m then runSet u p t pe c m else .next u
    | .fault f => .fault f
    | .refused r => .refused r

/-- What the next entry of the schedule does. With nothing scheduled, the plot clock ticks (PLOT_CYCLE). -/
def entryStep (s : State) : Host.Outcome State Fault Refusal :=
  match s.sched with
  | [] => exec .plotCycle { s with cur := .at 0 0 0 [] }
  | .event i p n m v :: rest => exec i { s with sched := rest, cur := .at p n m v }
  | .fire p t pe :: rest => runChosen { s with sched := rest } p t pe (chooseSet { s with sched := rest } p t pe)
  | .behind p t pe :: rest => runBehind { s with sched := rest } p t pe (chooseBehind { s with sched := rest } p t pe)
  | .unit p t pe :: rest => .next (freeIterative { s with sched := rest } p t pe)
  | .walk p t pe :: rest => .next (askStation { s with sched := rest } p t pe)
  | .slot q :: rest => .next (nextSlot { s with sched := rest } (q % 1024))
  | .engine p n :: rest => .next (stepEngine { s with sched := rest } p n)
  | .job p t n :: rest => .next (endJob { s with sched := rest } p t n)
  | .accError p t n :: rest => .next (accError { s with sched := rest } p t n)
  | .write p c :: rest => .next (takeWrite { s with sched := rest } p (BitVec.ofNat 12 c))
  | .row p t slot :: rest =>
    let s := { s with sched := rest }
    match chooseRow s p t (BitVec.ofNat 7 slot) with
    | none => .next s
    | some c => runStation (stationInstr c (BitVec.ofNat 7 slot)) { s with cur := .row p c.id (BitVec.ofNat 7 slot) }

/-- One step of the device. -/
def step (s : State) : Host.Outcome State Fault Refusal := settleStep (entryStep s)

/-- The host's question: `s` with the instruction whose bits are `w` (op word in bits 63 to 0, configuration word
above, bits at or above `nbits` zero) standing where the next step starts it. -/
def State.withFetchWord (s : State) (nbits w : Nat) : State :=
  let v := w % 2 ^ nbits
  placeInstr s (Station.mk (BitVec.ofNat 64 v) (BitVec.ofNat 64 (v >>> 64)))

end Sys2Proof.Machine
end

