-- ==== Sys2Proof/Safety.lean ====
section
/-! DEFINITION. What counts as a safe run, and the words that the statements are written in: a firing of a matched set,
what it leaves, and the operands it reads. -/
namespace Sys2Proof
open Machine

/-- The k steps from `s` all answer a next state. -/
def SafeFor (k : Nat) (s : State) : Prop := ∃ t, core.run k s = .next t

/-- The present step fires the set `m` of block `b` on plot `p`, for an instruction with the common fields `h`, and its
predicate selects firing (R64, R89). -/
def Fires (s : State) (p : Nat) (b : BlockId) (m : MatchedSet) (h : Head) : Prop :=
  s.cur = .firing p b m ∧ predicateOf (fireCtxOf s p b m h) = some true

/-- The state after a firing whose whole effect is that its set is consumed and counted and that tokens are sent (R62,
R91, R415). -/
def sentFrom (s : State) (p : Nat) (b : BlockId) (m : MatchedSet) (xs : List Send) : State :=
  sendAll (consume s p b m) p b xs

/-- The state after a firing that faults (R9, R425). -/
def faultedFrom (s : State) (p : Nat) (b : BlockId) (m : MatchedSet) (h : Head) (e : FaultInfo) : State :=
  faultSet s (fireCtxOf s p b m h) m e

/-- `elem(q, i)` of R119 as an integer of TY. -/
def intAt (c : FireCtx) (q i : Nat) : Int := readInt c.head.ty (elemAt c (wideTy c.head.ty) q i)

/-- The same as the bits of the element. -/
def bitsAt (c : FireCtx) (q i : Nat) : BitVec (tyWidth c.head.ty) := BitVec.ofInt _ (intAt c q i)

/-- A packet of n integer results of TY, each wrapped (R31, R119). -/
def intPacket (t : Ty) (n : Nat) (f : Nat → Int) : Packet :=
  mkPacket (tagOfTy t) ((List.range n).map (fun i => writeInt t (f i)))

/-- `emit(res, n)` of R119. -/
def emitInts (c : FireCtx) (n : Nat) (f : Nat → Int) : List Send := emit c (intPacket c.head.ty n f)

/-- The loop of `pext` (R134) over the bit positions: k and r after each. -/
def pextLoop {w : Nat} (a b : BitVec w) : BitVec w :=
  ((List.range w).foldl (fun (x : Nat × BitVec w) j =>
    if b.getLsbD j then (x.1 + 1, if a.getLsbD j then x.2 ||| (1#w <<< x.1) else x.2) else x) (0, 0#w)).2

/-- The loop of `pdep` (R134). -/
def pdepLoop {w : Nat} (a b : BitVec w) : BitVec w :=
  ((List.range w).foldl (fun (x : Nat × BitVec w) j =>
    if b.getLsbD j then (x.1 + 1, if a.getLsbD x.1 then x.2 ||| (1#w <<< j) else x.2) else x) (0, 0#w)).2

/-- The lengths of the operands on the ports combine, and `n` is the length of the result (R118). -/
def LengthsGive (c : FireCtx) (ports : List Nat) (n : Nat) : Prop :=
  1 ≤ n ∧ (∀ q ∈ ports, lenAt c q = 1 ∨ lenAt c q = n) ∧ (n = 1 ∨ ∃ q ∈ ports, lenAt c q = n)

/-- The state after a firing that changes the state to `t` and sends the packet `k` to every target (R62, R119). -/
def answered (c : FireCtx) (t : State) (k : Packet) : Result := .next (sendAll t c.plot c.block (emit c k))

/-- The same with a status packet: `n` as one .u32 (R324 and its like). -/
def replied (c : FireCtx) (t : State) (n : Nat) : Result := answered c t (statusPacket n)

/-- The instructions whose whole effect is the tokens that they send. -/
def computes : Instr → Bool
  | .mov _ | .sink _ | .steer _ _ | .select _ | .gate _ | .const _ | .lpent _ _ | .lpnext _ _ | .lpexit _ _
  | .tagrd _ _ _ | .tagwr _ _ _ | .add _ | .sub _ | .mul _ | .mulh _ | .mad _ | .div _ | .rem _ | .neg _ | .abs _
  | .min _ | .max _ | .and _ | .or _ | .xor _ | .andn _ | .shl _ | .shr _ | .sar _ | .rotl _ | .cmp _ _ | .clz _
  | .ctz _ | .popc _ | .brev _ | .sext _ | .zext _ | .adds _ | .subs _ | .lea _ _ | .lut4 _ _ | .bext _ _ _ _
  | .bins _ _ _ | .bsplit _ _ _ | .bjoin _ _ | .dec _ _ _ | .pext _ | .pdep _ | .bsel _ | .pkb _ _ _ | .pkm _
  | .pks _ _ | .pkx _ | .pki _ | .pkr _ _ | .pkp _ _ _ | .pkl _ _ | .pkscan _ _ _ | .fadd _ _ | .fsub _ _
  | .fmul _ _ | .fma _ _ | .fmin _ | .fmax _ | .fcmp _ _ | .fabs _ | .fneg _ | .fcls _ _ | .frcp _ _ | .frsq _ _
  | .fex2 _ _ | .flg2 _ _ | .fsin _ _ | .fcos _ _ | .ftanh _ _ | .fdiv _ _ | .fsqrt _ _ | .cvt _ _ _ | .frnd _ _
  | .fscl _ _ | .plgat _ _ | .plsct _ _ | .qnt _ _ _ | .dqnt _ _ _ | .bsc _ _ | .wadv _ | .agen _ => true
  | _ => false

end Sys2Proof
end

