-- ==== Sys2Proof/Certificates/Slice0/Obligations.lean ====
section
/-! DEFINITION. The statements for the provers. Each docstring names the rules of spec/ that the statement follows. -/
section
open Sys2Proof Sys2Proof.Machine

/-! ### The step and the encoding -/

/-- What a step does. With a PE's entry next in the schedule it runs the instruction that the station of the chosen set decodes
to (R55, R91): `exec` of it, on the state whose present step is the firing of that set, `prepare`d: the set's turn, its rank at a
control unit and the iterative unit that it needs are taken (R125, R274, R415). A PE's `behind` entry does the same with the set
that starts before the rewrite of an `argwr` takes effect, and then with the set of that `argwr` where it is still there (R117). With
a row port's entry it runs the instruction of that port's station, with a named event the step of the hardware of that name, and with
no set that may start it changes nothing but the schedule. The other entries free a PE's iterative unit, let a station ask its
walker, move a queue to its next slot, let an engine, a job, a bad access or a register write go on; with nothing scheduled the plot
clock ticks. Every step ends with `settleStep`, which does what is due at once to kernels and contexts, and does nothing where
nothing is. The schedule is the model's own (assumption 1). -/
def Obligations.StepRunsTheDecodedInstruction : Prop :=
  ∀ (s w z : State) (p t pe slot n k q : Nat) (v : List Nat) (i j : Instr) (c : Copy) (x m : MatchedSet) (st st' : Station)
    (f : Fault) (g : Refusal) (rest : List Sched),
    let u := { s with sched := rest }
    let runs := fun (r : Host.Outcome State Fault Refusal) => step s = settleStep r
    let fires := fun (y : State) (a : MatchedSet) (i : Instr) =>
      exec i { prepare y p t pe c.id a i with cur := .firing p c.id a }
    (s.sched = .fire p t pe :: rest →
      (chooseSet u p t pe = some (c, m) → c.stations[m.slot.toNat]? = some st → decode st.op st.cfg = .ok i → runs (fires u m i)) ∧
      (chooseSet u p t pe = none → runs (.next u))) ∧
    (s.sched = .behind p t pe :: rest →
      (chooseBehind u p t pe = some (c, x, m) → c.stations[x.slot.toNat]? = some st → decode st.op st.cfg = .ok i →
        (fires u x i = .next z → stillReady z p c m = false → runs (.next z)) ∧
        (fires u x i = .next z → stillReady z p c m = true → c.stations[m.slot.toNat]? = some st' → decode st'.op st'.cfg = .ok j →
          runs (fires z m j)) ∧
        (fires u x i = .fault f → runs (.fault f)) ∧ (fires u x i = .refused g → runs (.refused g))) ∧
      (chooseBehind u p t pe = none → runs (.next u))) ∧
    (s.sched = .row p t slot :: rest →
      (chooseRow u p t (BitVec.ofNat 7 slot) = some c → c.stations[slot % 128]? = some st → decode st.op st.cfg = .ok i →
        runs (exec i { u with cur := .row p c.id (BitVec.ofNat 7 slot) })) ∧
      (chooseRow u p t (BitVec.ofNat 7 slot) = none → runs (.next u))) ∧
    (s.sched = .event i p n k v :: rest → runs (exec i { u with cur := .at p n k v })) ∧
    (s.sched = .unit p t pe :: rest → runs (.next (freeIterative u p t pe))) ∧
    (s.sched = .walk p t pe :: rest → runs (.next (askStation u p t pe))) ∧
    (s.sched = .slot q :: rest → runs (.next (nextSlot u (q % 1024)))) ∧
    (s.sched = .engine p n :: rest → runs (.next (stepEngine u p n))) ∧
    (s.sched = .job p t n :: rest → runs (.next (endJob u p t n))) ∧
    (s.sched = .accError p t n :: rest → runs (.next (accError u p t n))) ∧
    (s.sched = .write p n :: rest → runs (.next (takeWrite u p (BitVec.ofNat 12 n)))) ∧
    (s.sched = [] → runs (exec .plotCycle { s with cur := .at 0 0 0 [] })) ∧
    (w.doubled = [] → (∀ x ∈ w.kernels, x.due = false ∧ x.finish = .open) →
      (∀ x ∈ w.ctxs, x.2.stateDue = false ∧ (x.2.phase = .preempting → x.2.unacked ≠ [])) → settleStep (.next w) = .next w)

/-- Words written out from the encoding tables decode to the instructions they stand for (R60, R61, R65, R67, R73): the
examples of 03_encoding.md R66, 05_integer.md R130 and of the chapters of the groups, the matrix engine, the contexts and the order,
and words of the token, integer, packet, floating-point, narrow, memory, stream, plot-store, matrix, accumulator, kernel, group,
barrier and context instructions, put together from the tables. -/
def Obligations.WrittenWordsDecode : Prop :=
  let t := fun (slot port : Nat) => some (Target.mk (BitVec.ofNat 7 slot) (BitVec.ofNat 2 port))
  let d := fun (ty : Ty) => Head.mk ty .none .always (t 9 1) none none 0
  decode 0x302821000000E8E8 0 = .ok (.lut4 (Head.mk .w32 .none .always (t 4 0) none none 0) 0xE8E8) ∧
  decode 0x802024400000000C 0x0001020000000008 =
    .ok (.ld (Head.mk .w64 .none .always (t 17 0) none none 0x0001020000000008) (MemXf.mk 0 false .normal false .none .plain)) ∧
  decode 0xE380000002180005 0 = .ok (.post (Head.mk .s64 .none .always none none (t 6 0) 0) true 1) ∧
  decode 0xC20025C0000000B0 0 = .ok (.mgat (Head.mk .s64 .none .always (t 23 0) none none 0) 0x16) ∧
  decode 0xC2D8260000000100 0 = .ok (.mrep (Head.mk .lane .none .always (t 24 0) none none 0) true) ∧
  decode 0xF380000000000001 0 = .ok (.pwrq (Head.mk .s64 .none .always none none none 0) false 1) ∧
  decode 0xA3202388C0000021 0 = .ok (.ctkw (Head.mk .w64 .none .always (t 14 0) (t 12 0) none 0) 2 1) ∧
  decode 0x0088225000000000 0 = .ok (.mov (d .s32)) ∧
  decode 0x01D8225000000005 0 = .ok (.steer (d .lane) 5) ∧
  decode 0x1008225000000000 0 = .ok (.add (d .s32)) ∧
  decode 0x1988225000000003 0 = .ok (.cmp (d .s32) .le) ∧
  decode 0x41B0225000000000 0 = .ok (.pkx (d .w16)) ∧
  decode 0x5048225000000000 0 = .ok (.fadd (d .f16) .rne) ∧
  decode 0x59C0225000000011 0 = .ok (.cvt (d .f32) .s16 .rtz) ∧
  decode 0x71C82250000000CC 0 = .ok (.qnt (d .f16) 0x19 .rna) ∧
  decode 0x842822500000060C 0 = .ok (.atom (d .w32) (MemXf.mk 6 false .normal false .none .plain)) ∧
  decode 0xA100225000000000 0 = .ok (.agen (d .s64)) ∧
  decode 0xA1C822500000F534 0 = .ok (.strl (d .f16) true 7 0x0A .stream true .device) ∧
  decode 0xA380225000000000 0 = .ok (.cnrd (d .s64)) ∧
  decode 0xB00022500000000D 0 = .ok (.cbini (d .s64) 13) ∧
  decode 0xB300225000000014 0 = .ok (.cpy (d .s64) true .device) ∧
  decode 0xB580225000000000 0 = .ok (.pment (d .s64)) ∧
  decode 0xB680225000000001 0 = .ok (.frq (d .s64) true) ∧
  decode 0xC1802250000003F5 0 = .ok (.mma (d .s64) 63 5) ∧
  decode 0xC100225000000007 0 = .ok (.mclr (d .s64) 7) ∧
  decode 0xC3002250000006F6 0 = .ok (.mdrn (d .s64) .device true .rdn true .bf16 6) ∧
  decode 0xC600225000000011 0 = .ok (.mwr (d .s64) .f16 1) ∧
  decode 0xE000225000000000 0 = .ok (.sow (d .s64)) ∧
  decode 0xE180225000000002 0 = .ok (.grex (d .s64) .gnum) ∧
  decode 0xE28022500000001F 0 = .ok (.bar (d .s64) true 15) ∧
  decode 0xE400225000000012 0 = .ok (.recv (d .s64) true 2) ∧
  decode 0xF000225000006304 0 = .ok (.srd (d .s64) true 2 0x304) ∧
  decode 0xF080225000006304 0 = .ok (.swr (d .s64) true 2 0x304) ∧
  decode 0xF300225000000002 0 = .ok (.tlbi (d .s64) .all) ∧
  decode 0xF580225000000003 0 = .ok (.rrec (d .s64) .status)

/-- Decoding undoes encoding: every instruction that a block can hold has an encoding, with every operand at every value
that its fields allow, and decoding that gives it back (R55, R60 to R68): no bit of an encoding is dropped. And encoding
undoes decoding: a word that decodes encodes to itself, so the decoder lets no unassigned bit through (R63, R68). The steps
of the hardware have no encoding (R55, R73). -/
def Obligations.DecodeUndoesEncode : Prop :=
  (∀ i : Instr, wellFormed i = true → ∃ op cfg, encode i = some (op, cfg) ∧ decode op cfg = .ok i) ∧
    (∀ (i : Instr) (op cfg : Word), decode op cfg = .ok i → encode i = some (op, cfg)) ∧
    wellFormed .tokenArrival = false ∧ wellFormed .plotCycle = false ∧ encode .coldReset = none ∧ encode .gets = none

/-- The bytes of all the memories keep their canonical form (R17, R19: one byte at an address, and every write reaches the
byte it names): from every state whose memory is in that form, whatever step the schedule names, a step that answers a next
state leaves the memory in that form. The form (addresses rising, no byte listed that holds what an unlisted address reads
as, the empty words rising) is the model's own (assumption 4). -/
def Obligations.MemoryFormIsKept : Prop :=
  ∀ s t : State, s.mem.wf = true → step s = .next t → t.mem.wf = true

/-! ### Integer, bit and packet elements -/

/-- Integer arithmetic (R33, R118, R119, R121, R122, R124, R126, R127): a firing of operands whose lengths combine sends
the packet of the exact results, wrapped to TY; nothing else changes but the consumed set. -/
def Obligations.IntegerArithmeticResults : Prop :=
  ∀ (s : State) (p n : Nat) (b : BlockId) (m : MatchedSet) (h : Head) (sc : BitVec 3),
    let c := fireCtxOf s p b m h
    let t := h.ty
    let x := intAt c 0
    let y := intAt c 1
    let z := intAt c 2
    let k := fun i => (bitsAt c 1 i).toNat
    let gives := fun (i : Instr) (f : Nat → Int) => exec i s = .next (sentFrom s p b m (emitInts c n f))
    Fires s p b m h →
    (LengthsGive c [0, 1] n →
      gives (.add h) (fun i => x i + y i) ∧
      gives (.sub h) (fun i => x i - y i) ∧
      gives (.mul h) (fun i => x i * y i) ∧
      gives (.mulh h) (fun i => (x i * y i) / ((2 ^ tyWidth t : Nat) : Int)) ∧
      gives (.div h) (fun i => if y i = 0 then -1 else (x i).tdiv (y i)) ∧
      gives (.rem h) (fun i => if y i = 0 then x i else (x i).tmod (y i)) ∧
      gives (.min h) (fun i => min (x i) (y i)) ∧
      gives (.max h) (fun i => max (x i) (y i)) ∧
      gives (.adds h) (fun i => max (minOf t) (min (maxOf t) (x i + y i))) ∧
      gives (.subs h) (fun i => max (minOf t) (min (maxOf t) (x i - y i))) ∧
      gives (.lea h sc) (fun i => x i + (k i : Int) * 2 ^ sc.toNat) ∧
      gives (.sext h) (fun i => if k i = 0 then 0 else if tyWidth t ≤ k i then x i else ((bitsAt c 0 i).setWidth (k i)).toInt) ∧
      gives (.zext h) (fun i => if k i = 0 then 0 else if tyWidth t ≤ k i then x i else (((bitsAt c 0 i).setWidth (k i)).toNat : Int))) ∧
    (LengthsGive c [0] n → gives (.neg h) (fun i => - x i) ∧ gives (.abs h) (fun i => ((x i).natAbs : Int))) ∧
    (LengthsGive c [0, 1, 2] n → gives (.mad h) (fun i => x i * y i + z i))

/-- Bitwise operations, shifts and counts on the N-bit patterns, N the width of TY (R34, R118, R121, R123, R124). -/
def Obligations.IntegerBitResults : Prop :=
  ∀ (s : State) (p n : Nat) (b : BlockId) (m : MatchedSet) (h : Head),
    let c := fireCtxOf s p b m h
    let w := tyWidth h.ty
    let x := bitsAt c 0
    let y := bitsAt c 1
    let r := fun i => (y i).toNat % w
    let gives := fun (i : Instr) (f : Nat → BitVec w) =>
      exec i s = .next (sentFrom s p b m (emitInts c n (fun j => ((f j).toNat : Int))))
    Fires s p b m h →
    (LengthsGive c [0, 1] n →
      gives (.and h) (fun i => x i &&& y i) ∧
      gives (.or h) (fun i => x i ||| y i) ∧
      gives (.xor h) (fun i => x i ^^^ y i) ∧
      gives (.andn h) (fun i => x i &&& ~~~ y i) ∧
      gives (.shl h) (fun i => x i <<< r i) ∧
      gives (.shr h) (fun i => x i >>> r i) ∧
      gives (.sar h) (fun i => (x i).sshiftRight (r i)) ∧
      gives (.rotl h) (fun i => (x i).rotateLeft (r i)) ∧
      gives (.cmp h .eq) (fun i => if intAt c 0 i = intAt c 1 i then 1 else 0) ∧
      gives (.cmp h .ne) (fun i => if intAt c 0 i ≠ intAt c 1 i then 1 else 0) ∧
      gives (.cmp h .lt) (fun i => if intAt c 0 i < intAt c 1 i then 1 else 0) ∧
      gives (.cmp h .le) (fun i => if intAt c 0 i ≤ intAt c 1 i then 1 else 0) ∧
      gives (.cmp h .gt) (fun i => if intAt c 1 i < intAt c 0 i then 1 else 0) ∧
      gives (.cmp h .ge) (fun i => if intAt c 1 i ≤ intAt c 0 i then 1 else 0) ∧
      gives (.cmp h .tst) (fun i => if x i &&& y i ≠ 0 then 1 else 0)) ∧
    (LengthsGive c [0] n →
      gives (.brev h) (fun i => (x i).reverse) ∧
      gives (.popc h) (fun i => BitVec.ofNat w ((List.range w).countP (fun j => (x i).getLsbD j))) ∧
      (∃ k : Nat → Nat, gives (.clz h) (fun i => BitVec.ofNat w (k i)) ∧ ∀ i < n, k i ≤ w ∧
        (∀ j < k i, (x i).getMsbD j = false) ∧ (k i < w → (x i).getMsbD (k i) = true)) ∧
      (∃ k : Nat → Nat, gives (.ctz h) (fun i => BitVec.ofNat w (k i)) ∧ ∀ i < n, k i ≤ w ∧
        (∀ j < k i, (x i).getLsbD j = false) ∧ (k i < w → (x i).getLsbD (k i) = true)))

/-- Bit elements (R130 to R135): the truth table, the field of LEN bits at POS, the two halves at POS, the bits under a
mask. A field that a load rejects (LEN 0, a field past bit N) is left out by the hypotheses on POS and LEN, as R131 and
R132 have it. -/
def Obligations.BitElementResults : Prop :=
  ∀ (s : State) (p n : Nat) (b : BlockId) (m : MatchedSet) (h : Head) (tt : BitVec 16) (sx : Bool) (len : BitVec 7)
    (pos : BitVec 6),
    let c := fireCtxOf s p b m h
    let w := tyWidth h.ty
    let x := bitsAt c 0
    let y := bitsAt c 1
    let z := bitsAt c 2
    let bit := fun (v : BitVec w) (j : Nat) => (v.getLsbD j).toNat
    let gives := fun (i : Instr) (f : Nat → Int) => exec i s = .next (sentFrom s p b m (emitInts c n f))
    Fires s p b m h →
    (LengthsGive c [0, 1, 2] n →
      (∃ r : Nat → BitVec w, gives (.lut4 h tt) (fun i => ((r i).toNat : Int)) ∧ ∀ i < n, ∀ j < w,
        (r i).getLsbD j = tt.getLsbD (bit (x i) j + 2 * bit (y i) j + 4 * bit (z i) j + 8 * (h.cfg.getLsbD j).toNat)) ∧
      gives (.bsel h) (fun i => (((y i &&& x i) ||| (z i &&& ~~~ x i)).toNat : Int))) ∧
    (LengthsGive c [0] n → 1 ≤ len.toNat → pos.toNat + len.toNat ≤ w →
      gives (.bext h sx len pos) (fun i =>
        if sx then ((x i).extractLsb' pos.toNat len.toNat).toInt else (((x i).extractLsb' pos.toNat len.toNat).toNat : Int))) ∧
    (LengthsGive c [0, 1] n → 1 ≤ len.toNat → pos.toNat + len.toNat ≤ w →
      ∃ r : Nat → BitVec w, gives (.bins h len pos) (fun i => ((r i).toNat : Int)) ∧ ∀ i < n, ∀ j < w, (r i).getLsbD j =
        if pos.toNat ≤ j ∧ j < pos.toNat + len.toNat then (y i).getLsbD (j - pos.toNat) else (x i).getLsbD j) ∧
    (LengthsGive c [0, 1] n → 1 ≤ pos.toNat → pos.toNat < w →
      ∃ r : Nat → BitVec w, gives (.bjoin h pos) (fun i => ((r i).toNat : Int)) ∧ ∀ i < n, ∀ j < w, (r i).getLsbD j =
        if j < pos.toNat then (x i).getLsbD j else (y i).getLsbD (j - pos.toNat)) ∧
    (1 ≤ pos.toNat → pos.toNat < w →
      exec (.bsplit h sx pos) s = .next (sentFrom s p b m (
        sendTo h.t0 (Token.mk c.env (intPacket h.ty (lenAt c 0) (fun i => ((x i).toNat % 2 ^ pos.toNat : Nat)))) ++
        sendTo h.t1 (Token.mk c.env (intPacket h.ty (lenAt c 0) (fun i =>
          if sx then (x i).toInt / (2 ^ pos.toNat : Nat) else (((x i).toNat / 2 ^ pos.toNat : Nat) : Int))))))) ∧
    (LengthsGive c [0, 1] n →
      gives (.pext h) (fun i => ((pextLoop (x i) (y i)).toNat : Int)) ∧
      gives (.pdep h) (fun i => ((pdepLoop (x i) (y i)).toNat : Int)))

/-- Packet elements (R136 to R144), in the firing's data format, each element as a producer writes it. E and F are the
elements of ports 0 and 1. -/
def Obligations.PacketResults : Prop :=
  ∀ (s : State) (p : Nat) (b : BlockId) (m : MatchedSet) (h : Head) (f : Fmt) (lenM1 e k : BitVec 3) (i : Nat)
    (src : List Nat) (op : FoldOp),
    let c := fireCtxOf s p b m h
    let xs := elemsAt c f 0
    let ys := elemsAt c f 1
    let alike := h.ty = .lane → (packetAt c 1).fmt = (packetAt c 0).fmt
    let gives := fun (j : Instr) (zs : List Word) => exec j s = .next (sentFrom s p b m (emit c (mkPacket (resultTag c) zs)))
    let part := fun (zs : List Word) => Token.mk c.env (mkPacket (resultTag c) zs)
    let fold := fun (x y : Int) => wrapInt h.ty (foldStep op h.ty x y)
    Fires s p b m h → dataFmt c = .ok f →
    (e.toNat < lenAt c 0 → gives (.pkb h lenM1 e) (List.replicate (lenM1.toNat + 1) (xs.getD e.toNat 0))) ∧
    (alike → lenAt c 0 + lenAt c 1 ≤ 8 → gives (.pkm h) (xs ++ ys)) ∧
    (k.toNat < lenAt c 0 → exec (.pks h k) s =
      .next (sentFrom s p b m (sendTo h.t0 (part (xs.take k.toNat)) ++ sendTo h.t1 (part (xs.drop k.toNat))))) ∧
    (idxAt c 1 = .ok i → i < lenAt c 0 → gives (.pkx h) [xs.getD i 0]) ∧
    (alike → idxAt c 2 = .ok i → lenAt c 1 = 1 → i < lenAt c 0 → gives (.pki h) (xs.set i (ys.getD 0 0))) ∧
    ((∀ j ≤ lenM1.toNat, bitsOf h.cfg.toNat (3 * j) 3 < lenAt c 0) →
      gives (.pkp h false lenM1) ((List.range (lenM1.toNat + 1)).map (fun j => xs.getD (bitsOf h.cfg.toNat (3 * j) 3) 0))) ∧
    ((List.range (lenAt c 1)).mapM (fun j => ownUnsigned c 1 j) = .ok src → (∀ j ∈ src, j < lenAt c 0) →
      gives (.pkp h true lenM1) (src.map (fun j => xs.getD j 0))) ∧
    gives (.pkl h lenM1) ((List.range (lenM1.toNat + 1)).map (fun j => xs.getD j 0)) ∧
    (h.ty ≠ .lane → gives (.pkr h op) [writeInt h.ty ((intElems c).tail.foldl fold ((intElems c).headD 0))]) ∧
    (h.ty ≠ .lane → gives (.pkscan h false op)
      ((List.range (lenAt c 0)).map (fun j => writeInt h.ty (((intElems c).take (j + 1)).foldl fold (foldIdentity op h.ty)))) ∧
      gives (.pkscan h true op)
      ((List.range (lenAt c 0)).map (fun j => writeInt h.ty (((intElems c).take j).foldl fold (foldIdentity op h.ty)))))

/-! ### Floating-point and narrow-format elements -/

/-- Rounding floating operations (R41, R147, R150 to R153, R155, R158): the exact value of the operands, subnormals
flushed where the context says so, rounded once to TY. -/
def Obligations.FloatArithmeticResults : Prop :=
  ∀ (s : State) (p n : Nat) (b : BlockId) (m : MatchedSet) (h : Head) (rm : Rnd),
    let c := fireCtxOf s p b m h
    let v := fun (q i : Nat) => floatIn c h.ty (elemAt c (wideTy h.ty) q i)
    let gives := fun (j : Instr) (r : Rnd) (f : Nat → FVal) => exec j s = .next (sentFrom s p b m (emit c
      (mkPacket (tagOfTy h.ty) ((List.range n).map (fun i => floatOut c h.ty r i (f i))))))
    Fires s p b m h →
    (LengthsGive c [0, 1] n →
      gives (.fadd h rm) rm (fun i => addReal rm (v 0 i) (v 1 i)) ∧
      gives (.fsub h rm) rm (fun i => addReal rm (v 0 i) (negReal (v 1 i))) ∧
      gives (.fmul h rm) rm (fun i => mulReal (v 0 i) (v 1 i)) ∧
      gives (.fdiv h rm) rm (fun i => divReal (v 0 i) (v 1 i)) ∧
      gives (.fmin h) .rne (fun i => minReal false (v 0 i) (v 1 i)) ∧
      gives (.fmax h) .rne (fun i => minReal true (v 0 i) (v 1 i))) ∧
    (LengthsGive c [0, 1, 2] n → gives (.fma h rm) rm (fun i => addReal rm (mulReal (v 0 i) (v 1 i)) (v 2 i))) ∧
    (LengthsGive c [0] n →
      gives (.fsqrt h rm) rm (fun i => sqrtReal (v 0 i)) ∧
      gives (.fabs h) .rne (fun i => if realNeg (v 0 i) then negReal (v 0 i) else v 0 i) ∧
      gives (.fneg h) .rne (fun i => negReal (v 0 i)) ∧
      gives (.frnd h rm) .rne (fun i => roundIntegral rm (drawAt c i) (v 0 i)))

/-- The special functions (R155, R159): the exact value, or in the transcendental cases the model's bracket of it
(assumption 8), rounded once to TY. -/
def Obligations.SpecialFunctionResults : Prop :=
  ∀ (s : State) (p n : Nat) (b : BlockId) (m : MatchedSet) (h : Head) (rm : Rnd),
    let c := fireCtxOf s p b m h
    let v := fun (i : Nat) => floatIn c h.ty (elemAt c (wideTy h.ty) 0 i)
    let gives := fun (j : Instr) (f : Nat → FVal) => exec j s = .next (sentFrom s p b m (emit c
      (mkPacket (tagOfTy h.ty) ((List.range n).map (fun i => floatOut c h.ty rm i (f i))))))
    Fires s p b m h → LengthsGive c [0] n →
      gives (.frcp h rm) (fun i => recipVal (v i)) ∧ gives (.frsq h rm) (fun i => rsqrtVal (v i)) ∧
      gives (.fex2 h rm) (fun i => exp2Val (v i)) ∧ gives (.flg2 h rm) (fun i => log2Val (v i)) ∧
      gives (.fsin h rm) (fun i => sinVal (v i)) ∧ gives (.fcos h rm) (fun i => cosVal (v i)) ∧
      gives (.ftanh h rm) (fun i => tanhVal (v i))

/-- Comparison, class and conversion (R152, R154, R156): 1.0 or 0.0 of TY; a converted value rounded to a floating TY, or
rounded and saturated to an integer TY. -/
def Obligations.FloatTestAndConversionResults : Prop :=
  ∀ (s : State) (p n : Nat) (b : BlockId) (m : MatchedSet) (h : Head) (cc : FloatCond) (cm : BitVec 9) (sty : Ty)
    (rm : Rnd) (f : Fmt) (es : List Int),
    let c := fireCtxOf s p b m h
    let v := fun (q i : Nat) => floatIn c h.ty (elemAt c (wideTy h.ty) q i)
    let sends := fun (j : Instr) (k : Nat) (g : Nat → Word) => exec j s =
      .next (sentFrom s p b m (emit c (mkPacket (tagOfTy h.ty) ((List.range k).map g))))
    Fires s p b m h →
    (LengthsGive c [0, 1] n → sends (.fcmp h cc) n (fun i => floatTruth h.ty (floatCond cc (v 0 i) (v 1 i)))) ∧
    (LengthsGive c [0] n → sends (.fcls h cm) n (fun i => floatTruth h.ty (cm.getLsbD (classBit h.ty (v 0 i))))) ∧
    (cvtSource sty c = .ok f → sends (.cvt h sty rm) (lenAt c 0) (fun i => cvtElem rm c f i (slotAt c (fmtWide f) 0 i))) ∧
    (LengthsGive c [0, 1] n → (isConst c 1 ∨ intTag (packetAt c 1).fmt) →
      (List.range n).mapM (fun i => signedOperand c 1 (if lenAt c 1 = 1 then 0 else i)) = .ok es →
      sends (.fscl h rm) n (fun i => floatOut c h.ty rm i (scaleReal (es.getD i 0) (floatIn c h.ty (elemAt c false 0 i)))))

/-- The narrow formats (R160 to R166): gathering and scattering bit planes, quantizing under a shared scale, and back. -/
def Obligations.NarrowFormatResults : Prop :=
  ∀ (s : State) (p : Nat) (b : BlockId) (m : MatchedSet) (h : Head) (ft : BitVec 5) (sty : Ty) (rm : Rnd) (sc : Bool),
    let c := fireCtxOf s p b m h
    let k := ft.toNat % 8 + 2
    let byte := fun (i : Nat) => patternOf .w8 (slotAt c false 0 i)
    let sends := fun (j : Instr) (tag : BitVec 5) (ws : List Word) => exec j s = .next (sentFrom s p b m (emit c (mkPacket tag ws)))
    Fires s p b m h →
    (k ≤ lenAt c 0 → ∃ q : Nat → BitVec k, sends (.plgat h ft) ft ((List.range 8).map (fun e => (q e).signExtend 64)) ∧
      ∀ e < 8, ∀ j < k, (q e).getLsbD (k - 1 - j) = (byte j).testBit e) ∧
    (lenAt c 0 = 8 → ∃ y : Nat → BitVec 8, sends (.plsct h ft) 0x07 ((List.range k).map (fun j => (y j).setWidth 64)) ∧
      ∀ j < k, ∀ e < 8, (y j).getLsbD e = (byte e).testBit (k - 1 - j)) ∧
    (lenAt c 0 = 8 → sends (.bsc h sty) 0x03
      [BitVec.ofInt 64 (blockScale ((List.range 8).map (fun i => floatIn c sty (slotAt c false 0 i))))]) ∧
    ((ft.getLsbD 3 → lenAt c 0 = 8) → sends (.qnt h ft rm) ft ((List.range (lenAt c 0)).map (fun i =>
      BitVec.ofInt 64 (qntElem ft rm c (if ft.getLsbD 3 then scaleAt c else 0) i)))) ∧
    (bitPlaneTag (packetAt c 0).fmt = true → (packetAt c 0).fmt.getLsbD 3 = sc →
      sends (.dqnt h sc rm) (tagOfTy h.ty) ((List.range (lenAt c 0)).map (fun i =>
        let q := signedOf (ftK (packetAt c 0).fmt) (slotAt c false 0 i).toNat
        floatOut c h.ty rm i (if sc then planeReal (ftK (packetAt c 0).fmt) (scaleAt c) q else realOfInt q))))

/-- `wad` (R168): where the port's group and its paths let a row go on, the oldest row of the port goes to every target with the 64
lanes repacked to FT's precision and lane width, its scale bytes, index and envelope kept; a row that is no bit-plane row of FT's
kind faults with FORMAT and sends nothing. -/
def Obligations.RowRepacking : Prop :=
  ∀ (s : State) (p : Nat) (b : BlockId) (slot : BitVec 7) (h : Head) (ft : BitVec 5) (x : Row),
    let u := { s with cur := .idle }
    s.cur = .row p b slot → (portRows (engineOf u p b) slot).head? = some x → wadLets u p b x.env.gslot = true →
      rowPathOpen u p b h true = true →
    (bitPlaneTag x.fmt = true → x.fmt.getLsbD 3 = ft.getLsbD 3 →
      exec (.wad h ft) s = .next (sendRow (takeRow u p b slot) p b slot h (repackRow ft x))) ∧
    (bitPlaneTag x.fmt = false ∨ x.fmt.getLsbD 3 ≠ ft.getLsbD 3 →
      exec (.wad h ft) s = .next (rowFault u p b slot x (causeOnly causeFormat)))

/-! ### Tokens and control -/

/-- Routing (R99 to R104, R133): the data token goes on with FMT = TY, or with its own tag where TY is `.lane`. -/
def Obligations.RoutingResults : Prop :=
  ∀ (s : State) (p n e : Nat) (b : BlockId) (m : MatchedSet) (h : Head) (tm iw : BitVec 3) (v : Bool) (vs : Nat → Bool)
    (f : Fmt) (tag : BitVec 5) (hi : BitVec 8),
    let c := fireCtxOf s p b m h
    let sends := fun (j : Instr) (xs : List Send) => exec j s = .next (sentFrom s p b m xs)
    let data := Token.mk c.env (passed c 0)
    Fires s p b m h →
    sends (.mov h) (sendEach h data) ∧
    sends (.gate h) (sendEach h data) ∧
    sends (.sink h) [] ∧
    (h.ty ≠ .lane → sends (.const h) (emit c (mkPacket (tagOfTy h.ty) [normSlot (.elem h.ty) h.cfg]))) ∧
    (controlAt c 1 0 = .ok v → sends (.steer h tm)
      ((if tm.getLsbD 0 = v then sendTo h.t0 data else []) ++ (if tm.getLsbD 1 = v then sendTo h.t1 data else []) ++
        (if tm.getLsbD 2 = v then sendTo h.t2 data else []))) ∧
    (idxAt c 0 = .ok e →
      let k := e % 2 ^ iw.toNat
      let route := if iw = 6 then 2 * natOfBool (hi.getLsbD (k / 8)) + natOfBool (h.cfg.getLsbD k) else bitsOf h.cfg.toNat (2 * k) 2
      let moved := Token.mk c.env (passed c 1)
      sends (.dec h hi iw) (if route = 0 then sendTo h.t0 moved else if route = 1 then sendTo h.t1 moved
        else if route = 2 then sendTo h.t2 moved else [])) ∧
    (selectFmt c = .ok (f, tag) → LengthsGive c [0, 1, 2] n →
      (∀ i < n, controlAt c 0 (if lenAt c 0 = 1 then 0 else i) = .ok (vs i)) →
      sends (.select h) (emit c (mkPacket tag ((List.range n).map (fun i =>
        let q := if vs i then 1 else 2
        if isConst c q then normSlot f h.cfg else elemAt c (wideTag tag) q i)))))

/-- Tags (R96, R97, R110 to R112): the token goes on under the tag that R97 computes, and a tag that leaves its bounds
faults with TAG_OVERFLOW, sending nothing. U and F are the bits in use and the fields of the token's tag. -/
def Obligations.TagResults : Prop :=
  ∀ (s : State) (p v : Nat) (b : BlockId) (m : MatchedSet) (h : Head) (pos w : BitVec 6),
    let c := fireCtxOf s p b m h
    let tag := c.env.tag
    let u := tagUse tag
    let f := tagFields tag
    let sends := fun (j : Instr) (t : Word) =>
      exec j s = .next (sentFrom s p b m (sendEach h (Token.mk { c.env with tag := t } (passed c 0))))
    let faults := fun (j : Instr) => exec j s = .next (faultedFrom s p b m h (causeOnly causeTagOverflow))
    Fires s p b m h → 1 ≤ w.toNat → w.toNat ≤ 58 →
    (if u + w.toNat ≤ 58 then sends (.lpent h w) (mkTag (u + w.toNat) (f * 2 ^ w.toNat)) else faults (.lpent h w)) ∧
    (if w.toNat ≤ u ∧ tag.toNat % 2 ^ w.toNat ≠ 2 ^ w.toNat - 1 then sends (.lpnext h w) (tag + 1) else faults (.lpnext h w)) ∧
    (if w.toNat ≤ u then sends (.lpexit h w) (mkTag (u - w.toNat) (f / 2 ^ w.toNat)) else faults (.lpexit h w)) ∧
    (if w.toNat ≤ u then sends (.tagwr h .pop w) (mkTag (u - w.toNat) (f / 2 ^ w.toNat)) else faults (.tagwr h .pop w)) ∧
    (idxAt c 1 = .ok v →
      (if u + w.toNat ≤ 58 then sends (.tagwr h .push w) (mkTag (u + w.toNat) (f * 2 ^ w.toNat + v % 2 ^ w.toNat))
        else faults (.tagwr h .push w)) ∧
      (if w.toNat ≤ u then sends (.tagwr h .set w) (BitVec.ofNat 64 (tag.toNat - tag.toNat % 2 ^ w.toNat + v % 2 ^ w.toNat))
        else faults (.tagwr h .set w)) ∧
      (if tagValid (BitVec.ofNat 64 v) = true then sends (.tagwr h .repl 0) (BitVec.ofNat 64 v) else faults (.tagwr h .repl 0))) ∧
    exec (.tagrd h pos w) s = .next (sentFrom s p b m (emit c (word64Packet (BitVec.ofNat 64 (f / 2 ^ pos.toNat % 2 ^ w.toNat))))) ∧
    exec (.tagrd h 0 0) s = .next (sentFrom s p b m (emit c (word64Packet tag)))

/-- `thrd`, `reord`, `join` and `argwr` (R113 to R116). `thrd` sends the thread, the group slot, the wave or the number of threads
of the group. A `reord` sends its token on, and the turn is that of the next thread, or ended after the last. A `join` whose sets
all select firing consumes each of them and sends thread 0's token, or every token in thread order. An `argwr` sends its token to
T0, its value stands in the configuration word of the named slot of the copy, and is the override of that plot, block and slot. -/
def Obligations.ThreadOrderResults : Prop :=
  ∀ (s : State) (p : Nat) (b : BlockId) (m : MatchedSet) (h : Head) (all : Bool) (x : Group),
    let c := fireCtxOf s p b m h
    let u := consume s p b m
    let e := c.env
    let value := fun (sel : ThrdSel) (n : Nat) => exec (.thrd h sel) s = .next (sentFrom s p b m (emit c (mkPacket 0x05 [BitVec.ofNat 64 n])))
    let next := turnOf u p b m.slot e + 1
    let sets := joinSets s p b m.slot e
    let cs := sets.map (fun y => fireCtxOf s p b y h)
    let slot := h.cfg.extractLsb' 0 7
    let v := packetSlot true s.fresh (packetAt c 0) 0
    Fires s p b m h → groupAt u p e.gslot = some x →
    value .thread e.thread.toNat ∧ value .gslot e.gslot.toNat ∧ value .wave e.wave.toNat ∧ value .count x.threads ∧
    exec (.reord h) s = .next (sendAll (modPlot (modCopy u p b (fun y => requeue y (sameTurn m.slot e))) p (fun y =>
      { y with turns := if x.threads ≤ next then y.turns.filter (fun t => !isTurn b m.slot e t)
          else Turn.mk b m.slot e.tag e.gslot next :: y.turns.filter (fun t => !isTurn b m.slot e t) })) p b (emit c (passed c 0))) ∧
    ((∀ y ∈ cs, predicateOf y = some true) → exec (.join h all) s =
      .next (sendAll (sets.foldl (fun t y => consume t p b y) { s with cur := .idle }) p b
        ((if all then cs else cs.filter (fun y => y.env.thread == 0)).flatMap (fun y => emit y (passed y 0))))) ∧
    exec (.argwr h) s = .next (sendAll (modCopy
      { u with overrides := Override.mk p b slot v :: u.overrides.filter (fun o => !(o.plot == p && o.block == b && o.slot == slot)) } p b
      (fun y => { y with stations := y.stations.modify slot.toNat (fun w => { w with cfg := v }) })) p b
      (sendTo h.t0 (Token.mk e (passed c 0))))

/-- `exit`, `call` and `ret` (R105 to R109), for a block that the plot tracks: the token goes to the entry that the
configuration word names, under its tag; a `call` pushes its site and sends the continuation packet to the second entry;
a `ret` sends its value to the entry and under the tag of the continuation. An entry that the block does not have faults
with BAD_TARGET. -/
def Obligations.BlockTransferResults : Prop :=
  ∀ (s : State) (p : Nat) (b : BlockId) (m : MatchedSet) (h : Head) (site : BitVec 15) (k : Copy),
    let c := fireCtxOf s p b m h
    let u := consume s p b m
    let w := h.cfg.toNat
    let bid := BitVec.ofNat 32 w
    let tag := packetSlot true s.fresh (packetAt c 1) 0
    let d := (packetSlot true s.fresh (packetAt c 1) 1).toNat
    let bad := faultedFrom s p b m h (causeOnly causeBadTarget)
    Fires s p b m h →
    (copyOf u p (siblingBlock c bid) = some k → k.nent ≠ 0 →
      (bitsOf w 32 4 < k.nent → exec (.exit h) s =
        .next (sendInto u c bid (bitsOf w 32 4) (bitsOf w 36 2) c.env.tag (passed c 0))) ∧
      (k.nent ≤ bitsOf w 32 4 → exec (.exit h) s = .next bad) ∧
      (bitsOf w 32 4 < k.nent → bitsOf w 38 4 < k.nent → tagUse c.env.tag + 15 ≤ 58 → exec (.call h false site) s =
        .next (sendInto (sendInto u c bid (bitsOf w 32 4) (bitsOf w 36 2)
            (mkTag (tagUse c.env.tag + 15) (tagFields c.env.tag * 2 ^ 15 + site.toNat)) (passed c 0))
          c bid (bitsOf w 38 4) (bitsOf w 42 2) (mkTag (tagUse c.env.tag + 15) (tagFields c.env.tag * 2 ^ 15 + site.toNat))
          (mkPacket 0x00 [c.env.tag, BitVec.ofNat 64 (bitsOf w 48 2 * 2 ^ 36 + bitsOf w 44 4 * 2 ^ 32 + b.bid.toNat)])))) ∧
    (lenAt c 1 = 2 → (packetAt c 1).fmt = 0x00 → d < 2 ^ 38 → copyOf u p (siblingBlock c (BitVec.ofNat 32 d)) = some k →
      bitsOf d 32 4 < k.nent → tagValid tag = true → exec (.ret h) s =
        .next (sendInto u c (BitVec.ofNat 32 d) (bitsOf d 32 4) (bitsOf d 36 2) tag (passed c 0)))

/-- A firing whose predicate is false consumes its set, counts it, and sends nothing (R64, R93); a predicate token with a reserved
tag faults with FORMAT (R64). This holds of every instruction that fires one matched set and is not of the wave class: a `join` has
a set of each thread (R115), a `yld` its expiry with it (R416), and a row port's instruction no set of its own (R168, R300). A
`reord` whose predicate is false passes its turn on besides (R114). -/
def Obligations.PredicateRule : Prop :=
  ∀ (s : State) (p : Nat) (b : BlockId) (m : MatchedSet) (h : Head) (i : Instr),
    head? i = some h → waveClass i = false → (∀ all, i ≠ .join h all) → i ≠ .yld h → (∀ ft, i ≠ .wad h ft) →
      (∀ n a, i ≠ .mma h n a) → s.cur = .firing p b m →
    (predicateOf (fireCtxOf s p b m h) = some false →
      exec i s = .next (if i = .reord h then passTurn (consume s p b m) p b m.slot (envOf m.toks) else consume s p b m)) ∧
    (predicateOf (fireCtxOf s p b m h) = none → exec i s = .next (faultedFrom s p b m h (causeOnly causeFormat)))

/-- Operands that an instruction does not accept fault before anything is sent (R9, R46, R118, R137 to R140, R158, R166):
unequal lengths and indexes out of range with PACKET_LENGTH, tags that the instruction does not take with FORMAT. -/
def Obligations.OperandFaults : Prop :=
  ∀ (s : State) (p i : Nat) (b : BlockId) (m : MatchedSet) (h : Head) (rm : Rnd) (k e : BitVec 3) (tm : BitVec 3) (f : Fmt),
    let c := fireCtxOf s p b m h
    let faults := fun (j : Instr) (cause : BitVec 8) => exec j s = .next (faultedFrom s p b m h (causeOnly cause))
    Fires s p b m h →
    (lenAt c 0 ≠ 1 → lenAt c 1 ≠ 1 → lenAt c 0 ≠ lenAt c 1 →
      faults (.add h) causePacketLength ∧ faults (.and h) causePacketLength ∧ faults (.fadd h rm) causePacketLength) ∧
    (dataFmt c = .ok f → lenAt c 0 ≤ e.toNat → faults (.pkb h k e) causePacketLength) ∧
    (dataFmt c = .ok f → h.ty ≠ .lane → 8 < lenAt c 0 + lenAt c 1 → faults (.pkm h) causePacketLength) ∧
    (dataFmt c = .ok f → idxAt c 1 = .ok i → lenAt c 0 ≤ i → faults (.pkx h) causePacketLength) ∧
    (fmtOfTag (packetAt c 1).fmt = none → faults (.steer h tm) causeFormat) ∧
    (isConst c 1 = false → intTag (packetAt c 1).fmt = false → faults (.fscl h rm) causeFormat) ∧
    (bitPlaneTag (packetAt c 0).fmt = false → faults (.dqnt h true rm) causeFormat ∧ faults (.dqnt h false rm) causeFormat)

/-! ### Memory and stream instructions -/

/-- A firing of a memory or stream instruction consumes its set and adds one access to its plot, under the next number: with its
effective address EA (R194: the address operand plus OFS of the wave word, R66), the parts that its operands give it (R195, R209 to
R214, R228), each with the bytes it writes, and its XF (R67); the access is then taken as far as it can be translated now (`advance`).
An operand that R194 to R196 and R228 fault makes an access of no parts that holds the fault. `advance` lets an access of no parts
go to its entry at once, and one whose every part the station's translation entry covers, permits and has ready goes there with the
physical addresses of that leaf (R197, R203, R230). -/
def Obligations.MemoryFirings : Prop :=
  ∀ (s : State) (p n : Nat) (b : BlockId) (m : MatchedSet) (h : Head) (x : MemXf) (done : Bool) (lenM1 : BitVec 3)
    (ft : BitVec 5) (cp : CachePol) (sc : Scope) (va : Word) (is : List Int) (e : FaultInfo),
    let c := fireCtxOf s p b m h
    let u := consume s p b m
    let added := fun (a : Access) => { modPlot u p (fun q => { q with accesses := q.accesses ++ [a] }) with nextId := u.nextId + 1 }
    let access := fun (op : MemOp) (y : MemXf) (parts : List Machine.Part) (code : Nat) => ({
      id := u.nextId, op := op, block := b, set := m, head := h, xf := y, ftz := (regsOn s b.ctx p).cfg.getLsbD 0
      handler := inHandlerBlock u p c.env.gslot b, parts := parts, code := code, status := if op = .cctl ∧ 4 ≤ code then 1 else 0
      phase := .translating false, fault := none, freed := false, withdrawn := false, again := false, fresh := false } : Access)
    let opens := fun (i : Instr) (op : MemOp) (y : MemXf) (parts : List Machine.Part) (code : Nat) =>
      exec i s = .next (advance (added (access op y parts code)) p u.nextId)
    let row := MemXf.mk (ft.extractLsb' 0 4) (ft.getLsbD 4) cp done sc .plain
    let faulty := fun (i : Instr) (op : MemOp) (k : BitVec 5) (y : MemXf) => extentOf op k y.aop c = .error e →
      exec i s = .next (advance (added { access op y [] 0 with status := 0, phase := .transit, fault := some e }) p u.nextId)
    let ea := va + sextWord 40 (h.cfg.extractLsb' 0 40).toNat
    let k := tyWidth h.ty / 8
    let elem := fun (q i : Nat) => elemAt c (wideTy h.ty) q i
    let at_ := fun (i size : Nat) => ea + BitVec.ofNat 64 (i * size)
    let indexed := fun (i : Nat) => ea + BitVec.ofInt 64 (is.getD i 0 * (k : Int))
    let cells := fun (q size : Nat) (at_ : Nat → Word) (val : Nat → Word) => (List.range q).map (fun i => mkPart (at_ i) size (val i) 0)
    let aligned := fun (q size : Nat) (at_ : Nat → Word) => ∀ i < q, (at_ i).toNat % size = 0
    let zero := fun (_ : Nat) => (0 : Word)
    Fires s p b m h →
    opens (.mnop h x) .mnop x [] 0 ∧ opens (.fence h x) .fence x [] 0 ∧
    (addressAt c 0 = .ok va → ea.extractLsb' 57 7 = 0 →
      (aligned (lenAt c 0) k (fun i => at_ i k) → opens (.ld h x) .ld x (cells (lenAt c 0) k (fun i => at_ i k) zero) 0) ∧
      (aligned (lenM1.toNat + 1) k (fun i => at_ i k) → opens (.strl h false lenM1 ft cp done sc) .strl (plainXf cp done sc)
        (cells (lenM1.toNat + 1) k (fun i => at_ i k) zero) 0) ∧
      (aligned (rowBytes ft / 8) 8 (fun i => at_ i 8) → opens (.strl h true lenM1 ft cp done sc) .strlRow row
        (cells (rowBytes ft / 8) 8 (fun i => at_ i 8) zero) 0) ∧
      (lenAt c 0 = 1 →
        (aligned (lenAt c 1) k (fun i => at_ i k) →
          opens (.st h x) .st x (cells (lenAt c 1) k (fun i => at_ i k) (elem 1)) 0 ∧
          opens (.red h x) .red x (cells (lenAt c 1) k (fun i => at_ i k) (elem 1)) 0 ∧
          opens (.strs h cp done sc) .strs (plainXf cp done sc) (cells (lenAt c 1) k (fun i => at_ i k) (elem 1)) 0) ∧
        (ea.toNat % k = 0 →
          opens (.lds h x) .lds x [mkPart ea k 0 0] 0 ∧
          (lenAt c 1 = 1 → opens (.stf h x) .stf x [mkPart ea k (elem 1 0) 0] 0) ∧
          (lenAt c 1 = 1 → (x.aop = 9 → lenAt c 2 = 1) → opens (.atom h x) .atom x [mkPart ea k (elem 1 0) (elem 2 0)] 0)) ∧
        ((List.range (lenAt c 1)).mapM (fun i => intOperand c 1 i) = .ok is → aligned (lenAt c 1) k indexed →
          opens (.ldg h x) .ldg x (cells (lenAt c 1) k indexed zero) 0 ∧
          (lenAt c 2 = 1 ∨ lenAt c 2 = lenAt c 1 → opens (.sts h x) .sts x (cells (lenAt c 1) k indexed (elem 2)) 0))) ∧
      (natOperand c 1 0 = .ok n →
        (ea.toNat % 8 = 0 → (n = 0 ∨ ea.toNat / 2 ^ 21 = (ea.toNat + 8 * n - 1) / 2 ^ 21) →
          opens (.clre h x) .clre x (clreParts ea n) 0) ∧
        opens (.pref h x) .pref x (lineParts ea (min n 65536)) 0 ∧
        (n / 2 ^ 60 % 16 < 4 → opens (.cctl h x) .cctl x (lineParts ea (64 * (n % 2 ^ 20))) (n / 2 ^ 60 % 16)) ∧
        (4 ≤ n / 2 ^ 60 % 16 → opens (.cctl h x) .cctl x [] (n / 2 ^ 60 % 16)))) ∧
    faulty (.ld h x) .ld 0 x ∧ faulty (.st h x) .st 0 x ∧ faulty (.lds h x) .lds 0 x ∧ faulty (.stf h x) .stf 0 x ∧
    faulty (.clre h x) .clre 0 x ∧ faulty (.atom h x) .atom 0 x ∧ faulty (.red h x) .red 0 x ∧ faulty (.pref h x) .pref 0 x ∧
    faulty (.cctl h x) .cctl 0 x ∧ faulty (.ldg h x) .ldg 0 x ∧ faulty (.sts h x) .sts 0 x ∧
    faulty (.strs h cp done sc) .strs 0 (plainXf cp done sc) ∧
    faulty (.strl h false lenM1 ft cp done sc) .strl (lenM1.setWidth 5) (plainXf cp done sc) ∧
    faulty (.strl h true lenM1 ft cp done sc) .strlRow ft row ∧
    (∀ (a : Access) (l : Leaf), a.id = u.nextId → (∀ o ∈ (plotAt u p).accesses, o.id ≠ u.nextId) → isStream a.op = false →
      a.fault = none → a.phase = .translating false →
      (a.parts = [] → advance (added a) p a.id = added { a with phase := .transit, fresh := false }) ∧
      (stationEntry u p a.block a.set.slot = some l →
        (∀ y ∈ a.parts, y.pa = none ∧ y.state = .todo ∧ vaValid y.ea = true ∧ leafCovers a.block.ctx y.ea l = true ∧
          permits a.block.ctx (needOf a.op a.xf.take) l.pte = true ∧ leafReady (needOf a.op a.xf.take) y.ea l = true ∧
          rangeOf (leafPa l y.ea) ≠ .peer ∧ (a.op ∈ [MemOp.lds, .stf, .clre] → rangeOf (leafPa l y.ea) ≠ .host)) →
        advance (added a) p a.id = added { a with
          parts := a.parts.map (fun y => { y with
            pa := some (leafPa l y.ea), level := leafLevel l, leaf := some l, kind := pageKind p l.pte (leafPa l y.ea)
            seq := pteSequential l.pte, sysAtomic := pteSa l.pte })
          phase := .transit, fresh := false }))

/-- A wave-ordered memory firing whose predicate is false still takes its place in wave order, as an `mnop` (R64, R201);
`wadv` moves its token, which leaves through its memory PE's return port (R471), to the next wave (R202). -/
def Obligations.WavePlaceKept : Prop :=
  ∀ (s : State) (p : Nat) (b : BlockId) (m : MatchedSet) (h : Head) (x : MemXf),
    let c := fireCtxOf s p b m h
    let u := consume s p b m
    let stands := fun (i : Instr) =>
      exec i s = .next (advance (addAccess u p (accessOf u c m .mnop 0 (plainXf .normal false .none))) p s.nextId)
    s.cur = .firing p b m →
    (predicateOf c = some false → stands (.ld h x) ∧ stands (.st h x) ∧ stands (.lds h x) ∧ stands (.stf h x) ∧ stands (.clre h x) ∧
      stands (.mnop h x) ∧ stands (.fence h x) ∧ stands (.atom h x) ∧ stands (.red h x) ∧ stands (.pref h x) ∧ stands (.cctl h x) ∧
      stands (.ldg h x) ∧ stands (.sts h x)) ∧
    (predicateOf c = some true →
      exec (.wadv h) s = throughPort s (.next (sentFrom s p b m
        (sendEach h (Token.mk { c.env with wave := c.env.wave + 1 } (passed c 0))))))

/-- `agen` (R227): base plus the sum of index times stride, modulo 2^64. -/
def Obligations.AddressGeneration : Prop :=
  ∀ (s : State) (p : Nat) (b : BlockId) (m : MatchedSet) (h : Head) (is : List Nat),
    let c := fireCtxOf s p b m h
    let d := fun (i : Nat) => packetSlot true (c.fresh + 8) (packetAt c 1) i
    Fires s p b m h → intTag (packetAt c 0).fmt = true → wideTag (packetAt c 1).fmt = true → lenAt c 0 ≤ 3 →
      lenAt c 1 = lenAt c 0 + 1 → (List.range (lenAt c 0)).mapM (fun i => ownUnsigned c 0 i) = .ok is →
    exec (.agen h) s = .next (sentFrom s p b m (emit c (word64Packet
      ((List.range (lenAt c 0)).foldl (fun a i => a + BitVec.ofNat 64 (is.getD i 0) * d (i + 1)) (d 0)))))

/-- A start of a counter chain (R220, R221, R223): the start packet gives base, extents and strides; the chain runs from
p = 0, owned by the starting thread, and offers its first point, or with P = 0 sends its finish token. `cnt` is not paced;
`cchn` is, and counts the credits that already wait at its station for its new owner, in the order of their arrival: with none
waiting there CREDIT stays as it is. -/
def Obligations.ChainStart : Prop :=
  ∀ (s : State) (p : Nat) (b : BlockId) (m : MatchedSet) (h : Head) (idx : Bool) (d : BitVec 2) (w : BitVec 6) (z : Copy),
    let c := fireCtxOf s p b m h
    let u := consume s p b m
    let k := packetAt c 0
    let e := fun (i : Nat) => packetSlot true s.fresh k i
    let levels := (List.range d.toNat).map (fun l => ((e (1 + 2 * l)).toNat, e (2 + 2 * l)))
    let points := (levels.map Prod.fst).foldl (fun a n => a * n) 1
    let x : Chain := { chainAt u p b m.slot with
      state := .running, env := c.env, base := e 0, levels := levels, p := 0, points := points, origin := 0, sent := none
      moves := false, owner := some (ChainOwner.mk c.env.thread c.env.gslot) }
    let mine := fun (y : Waiting) => y.slot = m.slot ∧ y.port = 1 ∧ y.tok.env.thread = c.env.thread ∧ y.tok.env.gslot = c.env.gslot
    let counted := z.waiting.countP (fun y => decide (mine y))
    let taken := modCopy u p b (fun k => { k with waiting := z.waiting.filter (fun y => !decide (mine y)) })
    Fires s p b m h → wideTag k.fmt = true → packetLen k = 2 * d.toNat + 1 → (∀ l ∈ levels, l.1 < 2 ^ 32) →
      points ≤ 2 ^ w.toNat → tagUse c.env.tag + w.toNat ≤ 58 →
    exec (.cnt h idx d w) s = .next (runChain u p x (ChainForm.mk false idx w.toNat h)) ∧
    (copyOf u p b = some z → x.credit + counted ≤ 65535 → exec (.cchn h idx d w) s =
      .next (runChain taken p { x with credit := x.credit + counted } (ChainForm.mk true idx w.toNat h)))

/-- The state table of a chain (R224): what each `cnwr` does in each state, and its status, the place of
a SEEK being element 0 of its token read as .w64 (R226); `cnrd` (R225) sends state,
credit, p, P and ORIGIN. That a point on offer at a SEEK is still sent and then leaves p at the place of the SEEK (`moves`) is the
model's reading (assumption 30). -/
def Obligations.ChainControl : Prop :=
  ∀ (s : State) (p : Nat) (b : BlockId) (m : MatchedSet) (h : Head) (op : CnwrOp) (f : ChainForm),
    let c := fireCtxOf s p b m h
    let u := consume s p b m
    let x := chainAt u p b (h.cfg.extractLsb' 0 7)
    let v := (packetSlot true s.fresh (packetAt c 0) 0).toNat
    let status := fun (t : State) (n : Nat) => .next (sendAll t p b (emit c (statusPacket n)))
    let runs := fun (y : Chain) => runChain u p y f
    Fires s p b m h →
    exec (.cnrd h) s = .next (sentFrom s p b m (emit c (mkPacket 0x04
      [BitVec.ofNat 64 (chainCode x.state + x.credit * 2 ^ 48), BitVec.ofNat 64 x.p, BitVec.ofNat 64 x.points,
        BitVec.ofNat 64 x.origin]))) ∧
    (x.state = .idle → (op = .seek → intTag (packetAt c 0).fmt = true) → exec (.cnwr h op) s = status u 1) ∧
    (chainForm u p x = some f →
      (x.state ≠ .idle → exec (.cnwr h .hold) s = status (runs { x with state := .held }) 0) ∧
      (x.state ≠ .idle → exec (.cnwr h .snap) s = status (runs { x with origin := x.p }) 0) ∧
      (x.state = .held → exec (.cnwr h .go) s = status (runs { x with state := .running }) 0) ∧
      (x.state = .running → exec (.cnwr h .go) s = status (runs x) 1) ∧
      (intTag (packetAt c 0).fmt = true →
        (x.state = .running → exec (.cnwr h .seek) s = status (runs x) 1) ∧
        (x.state = .held → v ≤ x.points → exec (.cnwr h .seek) s = status (runs { x with p := v, moves := false }) 0) ∧
        (x.state = .held → x.points < v → exec (.cnwr h .seek) s = status (runs x) 1)))

/-- The control-token network (R233 to R235): `ctks` and `ctkw` hand their sets to the plot's table, the add with 1 or the
element of TY, the waiter with its M; nothing is sent yet. -/
def Obligations.ControlTokenFirings : Prop :=
  ∀ (s : State) (p : Nat) (b : BlockId) (m : MatchedSet) (h : Head) (one : Bool) (mM1 : BitVec 10) (ch : BitVec 4),
    let c := fireCtxOf s p b m h
    let u := consume s p b m
    Fires s p b m h →
    exec (.ctks h one ch) s = .next (modUnit u p (fun x => { x with adds := x.adds ++
      [ChannelAdd.mk (heldOf c m) ch (if one then 1 else (bitsAt c 0 0).toNat)] })) ∧
    exec (.ctkw h mM1 ch) s = .next (modUnit u p (fun x => { x with joins := x.joins ++
      [ChannelJoin.mk (heldOf c m) ch (mM1.toNat + 1)] }))

/-! ### Buffers, frames, permits and copies -/

/-- Circular buffers (R277 to R280). `cbini` resets an idle buffer, with one element to the geometry that its kernel declared
(assumption 55), and answers 1 for a busy one; `cbres` and `cbacq` with
room take k contiguous slots, or none at once without WAIT, or join the queue with WAIT; `cbcom` and `cbrel` mark their
slots and move the frontiers, or answer 1; `cbst` sends the record. Every answer leaves through a memory PE's return port (R471). -/
def Obligations.BufferFirings : Prop :=
  ∀ (s : State) (p i k ofs n bytes : Nat) (b : BlockId) (m : MatchedSet) (h : Head) (cb : BitVec 4) (wait : Bool),
    let c := fireCtxOf s p b m h
    let u := consume s p b m
    let g := c.env.gslot
    let x := bufferAt u p g cb.toNat
    let held := heldOf c m
    let queued := fun (acquire : Bool) => (plotAt u p).unit.waiters.any (inQueue acquire g cb.toNat)
    let room := ((groupAt u p g).map regionBytes).getD 0
    let put := fun (y : CircBuf) => setBuffer u p g cb.toNat y
    let back := throughPort s
    let took := fun (t : State) (va : Word) (ok at_ : Nat) => Host.Outcome.next (sendBack t p b
      (sendTo h.t0 (Token.mk c.env (word64Packet va)) ++
        sendTo h.t1 (Token.mk c.env (mkPacket 0x05 [BitVec.ofNat 64 ok, BitVec.ofNat 64 at_]))))
    Fires s p b m h →
    exec (.cbst h cb) s = back (answered c u (mkPacket 0x05 ([cbFree x, cbReserved x, cbFilled x, cbAcquired x, cbSlot x x.rp,
      cbSlot x x.ap, x.slots, x.slotBytes].map (BitVec.ofNat 64)))) ∧
    (lenAt c 0 = 1 → exec (.cbini h cb) s =
      if cbReserved x = 0 ∧ cbAcquired x = 0 ∧ queued false = false ∧ queued true = false
      then back (replied c (put (cbFresh x.declared x.declared.ofs x.declared.slots x.declared.slotBytes)) 0) else back (replied c u 1)) ∧
    (lenAt c 0 = 3 → natOperand c 0 0 = .ok ofs → natOperand c 0 1 = .ok n → natOperand c 0 2 = .ok bytes →
      ofs % 16 = 0 → bytes % 16 = 0 → 1 ≤ n → n ≤ 256 → 16 ≤ bytes → bytes ≤ 65536 → ofs + n * bytes ≤ room →
      cbReserved x = 0 → cbAcquired x = 0 → queued false = false → queued true = false →
      exec (.cbini h cb) s = back (replied c (put (cbFresh x.declared ofs n bytes)) 0)) ∧
    (natOperand c 1 0 = .ok k → x.slots ≠ 0 → k ≤ x.slots →
      (k = 0 → exec (.cbres h wait cb) s = took u (slotVa u p g x (cbSlot x x.rp)) 1 (cbSlot x x.rp) ∧
        exec (.cbacq h wait cb) s = took u (slotVa u p g x (cbSlot x x.ap)) 1 (cbSlot x x.ap)) ∧
      (1 ≤ k → queued false = false → k ≤ cbFree x → exec (.cbres h wait cb) s =
        took (put (cbTake false x k)) (slotVa u p g x (cbSlot x x.rp)) 1 (cbSlot x x.rp)) ∧
      (1 ≤ k → queued true = false → k ≤ cbFilled x → exec (.cbacq h false cb) s =
        took (put (cbTake true x k)) (slotVa u p g x (cbSlot x x.ap)) 1 (cbSlot x x.ap)) ∧
      (1 ≤ k → queued true = false → k ≤ cbFilled x →
        exec (.cbacq h true cb) s = .next (kickUnit (takeSlots true u p g cb.toNat k held) p)) ∧
      (1 ≤ k → queued false = true ∨ cbFree x < k → exec (.cbres h false cb) s = took u 0 0 0 ∧
        exec (.cbres h true cb) s = .next (joinWaiters u p g held (.reserve cb.toNat k))) ∧
      (1 ≤ k → queued true = true ∨ cbFilled x < k → exec (.cbacq h false cb) s = took u 0 0 0 ∧
        exec (.cbacq h true cb) s = .next (joinWaiters u p g held (.acquire cb.toNat k)))) ∧
    (natOperand c 0 0 = .ok i → natOperand c 1 0 = .ok k →
      exec (.cbcom h cb) s = (if i < x.slots ∧ 1 ≤ k ∧ k ≤ x.slots ∧ ∀ j < k, x.marks[(i + j) % x.slots]? = some .resv
        then back (replied c (kickUnit (put (advanceCommit (cbReserved x) (cbMark x i k .comm))) p) 0) else back (replied c u 1)) ∧
      exec (.cbrel h cb) s = (if i < x.slots ∧ 1 ≤ k ∧ k ≤ x.slots ∧ ∀ j < k, x.marks[(i + j) % x.slots]? = some .acq
        then back (replied c (kickUnit (put (advanceRelease (cbAcquired x) (cbMark x i k .reld))) p) 0) else back (replied c u 1)))

/-- The frame pool (R292): `frq` gives the lowest run of ceil(b / 1,024) free blocks, zero and full, and answers 0 at once
for a size it never gives; without a run it answers 0 or, with WAIT, waits. `frl` frees the frame of a handle that the group
holds. A frame's address on a headland is the model's choice (assumption 28). -/
def Obligations.FrameFirings : Prop :=
  ∀ (s : State) (p k v i : Nat) (b : BlockId) (m : MatchedSet) (h : Head) (wait : Bool) (x : Group) (f : Frame),
    let c := fireCtxOf s p b m h
    let u := consume s p b m
    let g := c.env.gslot
    let n := (k + 1023) / 1024
    let never := k = 0 ∨ 16384 < k ∨ 64 < groupFrameBlocks u p g + n
    let given := fun (t : State) (handle : Nat) (va : Word) => Host.Outcome.next (sendBack t p b
      (sendTo h.t0 (Token.mk c.env (statusPacket handle)) ++ sendTo h.t1 (Token.mk c.env (word64Packet va))))
    let t := fullStore (modGroup u p g (fun y => { y with frames := y.frames ++ [Frame.mk i n] })) (storeAddr p (i * 1024))
      (n * 1024) 0
    Fires s p b m h →
    (natOperand c 1 0 = .ok k →
      (never → exec (.frq h wait) s = given u 0 0) ∧
      (¬ never → lowestRun u p n = some i → exec (.frq h wait) s =
        given t (0x8000_0000 + (n - 1) * 1024 + i) (windowVa t b.ctx p (i * 1024))) ∧
      (¬ never → lowestRun u p n = none → exec (.frq h false) s = given u 0 0 ∧
        exec (.frq h true) s = .next (modWaiters u p (fun l => l ++ [Waiter.mk (heldOf c m) g (.frame n)])))) ∧
    (natOperand c 0 0 = .ok v → groupAt u p g = some x →
      (x.frames.find? (fun y => frameHandle y == v) = some f → exec (.frl h) s =
        throughPort s (replied c (kickUnit (modGroup u p g (fun y => { y with frames := y.frames.erase f })) p) 0)) ∧
      ((∀ y ∈ x.frames, frameHandle y ≠ v) → exec (.frl h) s = throughPort s (replied c u 1)))

/-- Permits (R288, R289), at an address that translates to a plot store: `pmini` writes a FREE record unless it has waiters;
`pment` joins the permit's queue; `pmex` by the holder clears STATE, keeps the holder
fields until the next grant (R360), and passes the permit on, by any other it answers 1. A record
that is no permit's faults with FORMAT, what its walk has set standing (R452), an address that is not 16-byte aligned with ALIGN. -/
def Obligations.PermitFirings : Prop :=
  ∀ (s t : State) (p v pa : Nat) (l : Leaf) (b : BlockId) (m : MatchedSet) (h : Head),
    let c := fireCtxOf s p b m h
    let u := consume s p b m
    let va := BitVec.ofNat 64 v
    let w := readWord t pa
    let back := throughPort s
    let faults := fun (i : Instr) (e : FaultInfo) => exec i s = .next (faultedFrom s p b m h e)
    Fires s p b m h → natOperand c 0 0 = .ok v → vaValid va = true →
    (va.toNat % 16 ≠ 0 →
      faults (.pmini h) (faultAt causeAlign 0 va) ∧ faults (.pment h) (faultAt causeAlign 0 va) ∧ faults (.pmex h) (faultAt causeAlign 0 va)) ∧
    (va.toNat % 16 = 0 → stationTranslate u p b m.slot va .store = .ok (t, pa, l) → rangeOf pa = .window →
      (permitQueue t pa = [] → exec (.pmini h) s =
        back (replied c (writeWord (writeWord t pa 0xA500_0000_0000_0000) (pa + 8) 0) 0)) ∧
      (permitQueue t pa ≠ [] → exec (.pmini h) s = back (replied c t 1)) ∧
      (permitSound w = false →
        let f := Host.Outcome.next (faultSet (walked s p b.ctx .store [va]) c m (causeOnly causeFormat))
        exec (.pment h) s = f ∧ exec (.pmex h) s = back f) ∧
      (permitSound w = true → exec (.pment h) s = .next (joinPermit t p (heldOf c m) va pa)) ∧
      (permitSound w = true → isHolder w c = true → exec (.pmex h) s =
        back (replied c (kickPermit (writeWord t pa
          ((w &&& 0xFFFF_3FFF_FFFF_0000) ||| BitVec.ofNat 64 ((permitQueue t pa).length % 65536))) pa) 0)) ∧
      (permitSound w = true → isHolder w c = false → exec (.pmex h) s = back (replied c t 1)))

/-- Copies (R283, R284): with every value a multiple of 8 and within its bounds a copy takes a place in the engine with
fewer requests; one of no bytes sends its done token at once; `cpycb` asks for the slots of its message first. The first of its
values that is no multiple of 8 makes a `cpy`, `cpy2`, `cpyq` or `cpycb` fault with ALIGN at it (R283, R284); the order of the values
is that of the operands (assumption 23). -/
def Obligations.CopyFirings : Prop :=
  ∀ (s : State) (p src dst n e w : Nat) (b : BlockId) (m : MatchedSet) (h : Head) (done : Bool) (sc : Scope) (cb : BitVec 4),
    let c := fireCtxOf s p b m h
    let u := consume s p b m
    let held := heldOf c m
    let x := fun (i : Nat) => packetSlot true s.fresh (packetAt c 0) i
    let y := fun (i : Nat) => packetSlot true (s.fresh + 8) (packetAt c 1) i
    let q := bufferAt u p c.env.gslot cb.toNat
    let k := (n + q.slotBytes - 1) / q.slotBytes
    let starts := fun (i : Instr) (f : CopyForm) => exec i s = .next (queueCopy u p e (CopyReq.mk held c.env.gslot f 0 none .idle sc done false u.nextId))
    let doneAtOnce := fun (i : Instr) => exec i s = .next (sendBack u p b (sendTo h.t2 (Token.mk c.env (statusPacket 0))))
    let first := fun (l : List Nat) => l.find? (fun w => w % 8 != 0)
    let misaligned := fun (i : Instr) (w : Nat) => exec i s = .next (faultedFrom s p b m h (faultAt causeAlign 0 (BitVec.ofNat 64 w)))
    Fires s p b m h →
    (natOperand c 0 0 = .ok src → natOperand c 1 0 = .ok dst → natOperand c 2 0 = .ok n → n < 2 ^ 40 →
      (src % 8 = 0 → dst % 8 = 0 → n % 8 = 0 →
        (n = 0 → doneAtOnce (.cpy h done sc)) ∧
        (n ≠ 0 → engineFor u p = some e →
          starts (.cpy h done sc) (.rows (BitVec.ofNat 64 src) 0 (BitVec.ofNat 64 dst) 0 1 n))) ∧
      (first [src, dst, n] = some w → misaligned (.cpy h done sc) w)) ∧
    (wideTag (packetAt c 0).fmt = true → wideTag (packetAt c 1).fmt = true → lenAt c 0 = 3 → lenAt c 1 = 2 →
      natOperand c 2 0 = .ok n → 1 ≤ (x 2).toNat → (x 2).toNat ≤ 65536 →
      let values := [(x 0).toNat, (y 0).toNat, (x 1).toNat, (y 1).toNat, n]
      ((∀ v ∈ values, v % 8 = 0) →
        (n = 0 → doneAtOnce (.cpy2 h done sc)) ∧
        (n ≠ 0 → engineFor u p = some e → starts (.cpy2 h done sc) (.rows (x 0) (x 1) (y 0) (y 1) (x 2).toNat n))) ∧
      (first values = some w → misaligned (.cpy2 h done sc) w)) ∧
    (natOperand c 0 0 = .ok src →
      (src % 8 = 0 → engineFor u p = some e → starts (.cpyq h done sc) (.list (BitVec.ofNat 64 src) 0)) ∧
      (src % 8 ≠ 0 → misaligned (.cpyq h done sc) src)) ∧
    (natOperand c 0 0 = .ok src → natOperand c 1 0 = .ok n → q.slots ≠ 0 → 1 ≤ q.slotBytes → k ≤ q.slots →
      (src % 8 = 0 → n % 8 = 0 →
        (n = 0 → doneAtOnce (.cpycb h done cb)) ∧
        (n ≠ 0 → exec (.cpycb h done cb) s = .next (requestSlots u p c.env.gslot held (.copyReserve cb.toNat k)))) ∧
      (first [src, n] = some w → misaligned (.cpycb h done cb) w))

/-! ### Groups, barriers and kernels -/

/-- `grex`, `post` and `recv` (R346 to R348): a group's handle, exit code and number; a message appended to the port of the
group that a handle names, or counted undelivered; the oldest message of a port, or status 0, or a wait. A `post` that a record holds back waits in its control unit (R349, R437). -/
def Obligations.GroupFirings : Prop :=
  ∀ (s : State) (p v : Nat) (b : BlockId) (m : MatchedSet) (h : Head) (done wait : Bool) (ipt : BitVec 2) (x : Group) (k : Packet),
    let c := fireCtxOf s p b m h
    let u := consume s p b m
    let g := c.env.gslot
    let held := heldOf c m
    let back := throughPort s
    let queued := (plotAt u p).unit.waiters.any (atPort g ipt.toNat)
    Fires s p b m h →
    (groupAt u p g = some x → p < 32 → exec (.grex h .hnd) s =
      back (replied c { u with fresh := u.fresh + 1 } (2 ^ 31 + p * 2 ^ 26 + g.toNat * 2 ^ 23 + x.seq.toNat))) ∧
    (groupAt u p g = some x → exec (.grex h .gnum) s =
      back (answered c u (mkPacket 0x05 [x.number.setWidth 64, x.count.setWidth 64]))) ∧
    (groupAt u p g = some x → natOperand c 0 0 = .ok v → exec (.grex h .exit) s =
      .next (modGroup u p g (fun y => { y with exitCode := y.exitCode ||| BitVec.ofNat 32 v }))) ∧
    (natOperand c 0 0 = .ok v → (wideTag (packetAt c 1).fmt = false ∨ lenAt c 1 ≤ 4) →
      (postReady u p held = true →
        exec (.post h done ipt) s = .next (kickUnit (performPost u p held) ((postHandle u p held).extractLsb' 26 5).toNat)) ∧
      (postReady u p held = false → exec (.post h done ipt) s =
        .next (modWaiters (awaitTurn u b.ctx (postTurn u p held)) p (fun l => l ++ [Waiter.mk held g .post])))) ∧
    (natOperand c 0 0 = .ok v → wideTag (packetAt c 1).fmt = true → 4 < lenAt c 1 →
      exec (.post h done ipt) s = .next (faultedFrom s p b m h (causeOnly causePacketLength))) ∧
    (portHead u p g ipt.toNat = some k → (wait = false ∨ queued = false) → exec (.recv h wait ipt) s =
      .next (sendBack (modGroup u p g (fun y => { y with ports := y.ports.modify ipt.toNat (fun l => l.drop 1) })) p b
        (sendTo h.t0 (Token.mk c.env k) ++ sendTo h.t1 (Token.mk c.env (statusPacket 1))))) ∧
    (portHead u p g ipt.toNat = none → exec (.recv h false ipt) s =
      .next (sendBack u p b (sendTo h.t1 (Token.mk c.env (statusPacket 0))))) ∧
    (portHead u p g ipt.toNat = none ∨ queued = true → exec (.recv h true ipt) s =
      .next (joinWaiters u p g held (.receive ipt.toNat)))

/-- What a `post` does when it is made (R344, R347). A message to no group, to a group of another number or context, or to one that is
RETIRING or quiescent (R342, R343) is counted undelivered and answered with 1. A delivered one is entered in the record of its context,
or served from it (R349, R437, R438), and answered with 0: it stands at the end of its port, or where the port holds 16 messages or has
spilled ones, at the end of those. In a context without a record the record leaves the state alone. -/
def Obligations.PostDelivery : Prop :=
  ∀ (s u : State) (p q' ipt : Nat) (h : Held) (g x : Group) (e : RecEntry) (n' : BitVec 3) (k : Packet),
    let v := postHandle s p h
    let q := (v.extractLsb' 26 5).toNat
    let n := v.extractLsb' 23 3
    let port := postPort s p h
    let ctx := h.block.ctx
    let answer := fun (t : State) (k : Nat) => sendBack t p h.block (sendTo h.head.t2 (Token.mk (heldEnv h) (statusPacket k)))
    let delivered := fun (t : State) => answer (appendMessage t q n port (postMessage h)) 0
    (v.getLsbD 31 = false → performPost s p h = answer (countEvent s p 0x1B (some ctx) 1) 1) ∧
    (v.getLsbD 31 = true → groupAt s q n = none → performPost s p h = answer (countEvent s q 0x1B (some ctx) 1) 1) ∧
    (v.getLsbD 31 = true → groupAt s q n = some g →
      (g.seq ≠ v.extractLsb' 0 23 ∨ g.ctx ≠ ctx ∨ g.phase = .retiring ∨ (g.phase = .running ∧ groupLive s q n g = false) →
        performPost s p h = answer (countEvent s q 0x1B (some ctx) 1) 1) ∧
      (g.seq = v.extractLsb' 0 23 → g.ctx = ctx → g.phase ≠ .retiring → (g.phase = .running → groupLive s q n g = true) →
        ((ctxAt s ctx).recMode = .off → performPost s p h = delivered s) ∧
        ((ctxAt s ctx).recMode = .record → performPost s p h =
          delivered (recordEntry s ctx recPort (portAddr g port) (portIdent s p h g))) ∧
        (postVerdict s p h g port = .now e → performPost s p h = delivered (serveEntry s ctx e)))) ∧
    (groupAt u q' n' = some x →
      ((x.ports.getD ipt []).length < 16 → x.portSpill.getD ipt [] = [] → appendMessage u q' n' ipt k =
        modGroup u q' n' (fun y => { y with ports := y.ports.modify ipt (fun l => l ++ [k]) })) ∧
      (16 ≤ (x.ports.getD ipt []).length ∨ x.portSpill.getD ipt [] ≠ [] → appendMessage u q' n' ipt k =
        afterSpill (modGroup u q' n' (fun y => { y with portSpill := y.portSpill.modify ipt (fun l => l ++ [k]) })) x.ctx))

/-- Barriers (R351, R352, R354 to R356): the arrival of weight k is counted and a full phase signalled; the result is sent
at once, or with WAIT, in a phase that is not full, the set is held; `bari` sets COUNT of an idle barrier; `barq` sends the
record. -/
def Obligations.BarrierFirings : Prop :=
  ∀ (s : State) (p k : Nat) (b : BlockId) (m : MatchedSet) (h : Head) (wait : Bool) (n : BitVec 4),
    let c := fireCtxOf s p b m h
    let u := consume s p b m
    let g := c.env.gslot
    let x := barrierAt u p g n.toNat
    let a := min k (x.count - x.arr)
    let part := setBarrier u p g n.toNat { x with arr := x.arr + a }
    let full := sendSignal (setBarrier u p g n.toNat { x with phase := !x.phase, arr := k - a }) p g n.toNat x.phase
    let result := fun (ok : Nat) (phase : Bool) => mkPacket 0x05 [BitVec.ofNat 64 ok, BitVec.ofNat 64 (natOfBool phase)]
    let back := throughPort s
    Fires s p b m h →
    exec (.barq h n) s = back (answered c u (word64Packet (BitVec.ofNat 64
      (min x.waiters 65535 * 2 ^ 28 + x.count * 2 ^ 17 + natOfBool x.phase * 2 ^ 16 + x.arr)))) ∧
    (natOperand c 1 0 = .ok k →
      (x.count = 0 → exec (.bar h wait n) s = back (answered c u (result 0 false))) ∧
      (x.count ≠ 0 → x.count < k → exec (.bar h wait n) s = .next (faultedFrom s p b m h (causeOnly causePacketLength))) ∧
      (x.count ≠ 0 → k ≤ x.count → x.arr + a = x.count → exec (.bar h wait n) s = back (answered c full (result 1 x.phase))) ∧
      (x.count ≠ 0 → k ≤ x.count → x.arr + a ≠ x.count → (wait = false ∨ k = 0) →
        exec (.bar h wait n) s = back (answered c part (result 1 x.phase))) ∧
      (x.count ≠ 0 → k ≤ x.count → x.arr + a ≠ x.count → k ≠ 0 →
        exec (.bar h true n) s = .next (holdBar part p (heldOf c m) g n.toNat x.phase))) ∧
    (natOperand c 0 0 = .ok k →
      (1024 < k → exec (.bari h n) s = .next (faultedFrom s p b m h (causeOnly causePacketLength))) ∧
      (k ≤ 1024 → x.arr = 0 → x.waiters = 0 → exec (.bari h n) s =
        back (replied c (setBarrier u p g n.toNat { x with count := if k = 0 then x.declared else k, phase := false }) 0)) ∧
      (k ≤ 1024 → x.arr ≠ 0 ∨ x.waiters ≠ 0 → exec (.bari h n) s = back (replied c u 1)))

/-- Kernel records (R384 to R387), for operands that translate to HBM: `sow` fills an empty ring slot, records the parent
and raises its CHILD unless
that record is COMPLETE or FAULTED (R380), where the word of it that is read and rewritten is correctable (R384); `kdep` adds a successor; `kdec` lowers a DEP. The statuses are those of the rules. -/
def Obligations.KernelFirings : Prop :=
  ∀ (s t w : State) (p pa ra pred succ i : Nat) (b : BlockId) (m : MatchedSet) (h : Head) (x : Group),
    let c := fireCtxOf s p b m h
    let u := consume s p b m
    let op := fun (q : Nat) => packetSlot true (s.fresh + 8 * q) (packetAt c q) 0
    let e := fun (j : Nat) => packetSlot true (s.fresh + 8) (packetAt c 1) j
    let packet := (List.range 8).foldl (fun n j => n + (e j).toNat * 2 ^ (64 * j)) 0
    let ended := fun (x : Group) => recState w x.record = 4 ∨ recState w x.record = 5
    let back := throughPort s
    Fires s p b m h → wideTag (packetAt c 0).fmt = true →
    (wideTag (packetAt c 1).fmt = true → lenAt c 1 = 8 → (e 0).extractLsb' 0 8 = 0x01 → (e 4).toNat % 128 = 0 →
      recordAddress c u (op 0) 64 = .ok (t, pa) → recordAddress c t (e 4) 128 = .ok (w, ra) → w.mem.bad pa 8 = false →
      (readWord w pa ≠ 0 → exec (.sow h) s = back (replied c w 1)) ∧
      (readWord w pa = 0 → groupAt w p c.env.gslot = some x → ended x ∨ w.mem.bad (x.record + 56) 8 = false →
        exec (.sow h) s = back (replied c (engineWrite (writeWord (writeWord
            (if ended x then w else setRecChild w x.record (recChild w x.record + 1)) (ra + 32) (BitVec.ofNat 64 x.record))
          (ra + 40) 0x5EED_0000_0000_0000) pa 64 packet) 0))) ∧
    (wideTag (packetAt c 1).fmt = true → namedRecord c u (op 0) = .ok (t, pred) → namedRecord c t (op 1) = .ok (w, succ) →
      (recState w pred = 4 ∨ recState w pred = 5 → exec (.kdep h) s = back (replied c w 1)) ∧
      (recState w pred < 4 → (∀ j < 4, recSucc w pred j ≠ 0) → exec (.kdep h) s = back (replied c w 2)) ∧
      (recState w pred < 4 → i < 4 → recSucc w pred i = 0 → (∀ j < i, recSucc w pred j ≠ 0) →
        (recState w succ ≠ 0 ∨ recDep w succ = 65535 → exec (.kdep h) s = back (replied c w 3)) ∧
        (recState w succ = 0 → recDep w succ ≠ 65535 → exec (.kdep h) s =
          back (replied c (writeWord (setRecDep w succ (recDep w succ + 1)) (pred + 8 * (8 + i)) (BitVec.ofNat 64 succ)) 0)))) ∧
    (namedRecord c u (op 0) = .ok (t, pa) →
      (recState t pa ≠ 0 ∨ recDep t pa = 0 → exec (.kdec h) s = back (replied c t 2)) ∧
      (recState t pa = 0 → recDep t pa = 1 → exec (.kdec h) s = back (replied c (makeReady (setRecDep t pa 0) pa) 1)) ∧
      (recState t pa = 0 → 1 < recDep t pa → exec (.kdec h) s = back (replied c (setRecDep t pa (recDep t pa - 1)) 0)))

/-! ### The matrix engine and its accumulators -/

/-- Firings of the matrix engine's stations (R302, R303, R309 to R311): `mwld` takes its trigger and latches when it can;
`mwsw` to the active slot passes its trigger on, to the other waits for a row boundary; `mgat` checks every row and holds
the addresses and indexes of its rows; `mrep` and `mfil` take their counts, or answer a count of zero at once. -/
def Obligations.MatrixFirings : Prop :=
  ∀ (s : State) (p n k : Nat) (b : BlockId) (m : MatchedSet) (h : Head) (w pace : Bool) (ft : BitVec 5) (es : List Nat),
    let c := fireCtxOf s p b m h
    let u := consume s p b m
    let i := tileOf u p b
    let e := engineOf u p b
    let held := heldOf c m
    let base := (packetSlot true s.fresh (packetAt c 0) 0).toNat
    let pitch := (packetSlot true s.fresh (packetAt c 0) 1).toNat
    let offs := es.map (fun x => base + x % 2 ^ 26 * pitch)
    let start := (regionOf u c).1
    let job := RepJob.mk held n k 0 0 none
    Fires s p b m h →
    exec (.mwld h w) s = .next (tryLatches (modTile u p i (fun t => { t with latches := t.latches ++ [SlotChange.mk held w] })) p b) ∧
    (e.act = w → exec (.mwsw h w) s = .next (passTrigger u p held 0)) ∧
    (e.act ≠ w → exec (.mwsw h w) s = .next (modTile u p i (fun t => { t with switch := some (SlotChange.mk held w) }))) ∧
    (wideTag (packetAt c 0).fmt = true → intTag (packetAt c 1).fmt = true → lenAt c 0 = 2 → base % 16 = 0 → pitch % 16 = 0 →
      (List.range (lenAt c 1)).mapM (fun j => ownUnsigned c 1 j) = .ok es → (∀ o ∈ offs, o + rowBytes ft ≤ (regionOf u c).2) →
      exec (.mgat h ft) s = .next (modTile { u with nextId := u.nextId + 9 } p i (fun t => { t with gather := some (Gather.mk held ft
        ((offs.map (fun o => storeAddr p (start + o))).zip (es.map (fun x => BitVec.ofNat 6 (x / 2 ^ 26)))) 0 none u.nextId) }))) ∧
    (intTag (packetAt c 1).fmt = true → lenAt c 1 = 2 → natOperand c 1 0 = .ok n → natOperand c 1 1 = .ok k → n ≤ 64 → k ≤ 65535 →
      (n = 0 → exec (.mrep h pace) s = .next (sendAll u p b (sendTo h.t2 (Token.mk c.env (statusPacket 0))))) ∧
      (n ≠ 0 → exec (.mrep h pace) s = .next (modTile u p i (fun t => setRepeat t { repeatAt t m.slot with job := some job })))) ∧
    (natOperand c 0 0 = .ok n →
      (n = 0 → exec (.mfil h) s = replied c u 0) ∧
      (n ≠ 0 → exec (.mfil h) s = .next (modTile u p i (fun t => { t with fillers := t.fillers ++ [Filler.mk held n n] }))))

/-- `mma` (R299, R304 to R306): the head row of the port of the station that comes first fires when its accumulator admits
it, the active slot is latched with no latch into it or change of it waiting, and a port slot is free; it latches kind and
tolerance, sets PS, and stands in the array. Formats that do not pair, another kind than the run's, and another ka or kb than an
unscaled run has latched fault with FORMAT, the row staying. An unscaled run that an `mwr` has opened has latched neither, and a row
latches both (assumption 18). -/
def Obligations.RowFirings : Prop :=
  ∀ (s : State) (p : Nat) (b : BlockId) (slot : BitVec 7) (h : Head) (nr : BitVec 6) (a : BitVec 3) (x : Row) (k : RunKind),
    let u := { s with cur := .idle }
    let t := engineOf u p b
    let y := accOf t a.toNat
    let fires := (portRows t slot).head? = some x ∧ mayStart u p b x.env.gslot = true ∧ admits y x.env.gslot = true ∧
      (weightsOf t t.act).latched = true ∧ (∀ l ∈ t.latches, l.weights ≠ t.act) ∧ t.switch = none ∧ t.array.length < 160 ∧
      writesInto t a.toNat = false ∧ mmaFirst u p b slot = true
    let ka := if k = .unscaled then tagK x.fmt else 0
    let kb := if k = .unscaled then tagK (weightsOf t t.act).fmt else 0
    let z := if y.kind = .none then { y with kind := k, tol := toleranceOf u p b.ctx (rowClass x.fmt) } else y
    s.cur = .row p b slot → fires →
    (pairKind (weightsOf t t.act).fmt x.fmt = none →
      exec (.mma h nr a) s = .next (rowFault u p b slot x (causeOnly causeFormat))) ∧
    (pairKind (weightsOf t t.act).fmt x.fmt = some k →
      (y.kind ≠ .none → y.kind ≠ k → exec (.mma h nr a) s = .next (rowFault u p b slot x (causeOnly causeFormat))) ∧
      ((y.kind = .none ∨ y.kind = k) → k = .unscaled → ¬ (y.ka = 0 ∧ y.kb = 0) → ¬ (y.ka = ka ∧ y.kb = kb) →
        exec (.mma h nr a) s = .next (rowFault u p b slot x (causeOnly causeFormat))) ∧
      ((y.kind = .none ∨ y.kind = k) → (k = .unscaled → (y.ka = 0 ∧ y.kb = 0) ∨ (y.ka = ka ∧ y.kb = kb)) →
        exec (.mma h nr a) s = .next (countRow (modTile (takeRow u p b slot) p (tileOf u p b) (fun e =>
          { setAcc e a.toNat { z with
              ka := ka, kb := kb, ps := true, bound := if y.ps then y.bound else t.act
              st := if y.st = .clean then .open else y.st } with
            array := e.array ++ [ArrayRow.mk slot a.toNat e.act x], lastRow := some x
            fired := slot :: e.fired.filter (fun f => f != slot) })) p b slot)))

/-- Accumulators outside a check (R316, R319, R322, R323, R325, R326, R329, R330, R334, R335). What a set of an `mclr` or an `mwr`
asks before it starts is `unitReady`: both wait in SWAP and CHECKING and for rows that have fired, an `mwr` in the FAULT states too and
in a run of another group. Where it starts, `mclr` opens a run; `mwr` asks the banks for its rows of the region for a run that admits
them, latches its kind and tolerance and stands in the tile's jobs (what the job then does is `EngineSteps`), and answers 1 in EMPTY and
DRAINED; `mst` of a CLEAN or DRAINED one sends its 64 rows to the banks and stands in the jobs, of any other it answers 1; `mloc` and
`mrd` read one, `mrd` of an uncorrectable element faulting; `mtol` writes a tolerance register, on every plot at once (assumption 53),
and answers its old value. -/
def Obligations.AccumulatorFirings : Prop :=
  ∀ (s : State) (p r n v : Nat) (b : BlockId) (m : MatchedSet) (h : Head) (a : BitVec 3) (cls : RunCls) (rm : Rnd) (sh : Bool)
    (outf : OutFmt) (k : TolCls) (x : Handle) (l : Located),
    let c := fireCtxOf s p b m h
    let u := consume s p b m
    let y := ownAcc u c a
    let d := fun (j : Nat) => (packetSlot true s.fresh (packetAt c 0) j).toNat
    let kind := kindOfClass cls
    let inside := fun (offs : List Nat) (bytes : Nat) => d 0 % 16 = 0 ∧ d 1 % 16 = 0 ∧ ∀ o ∈ offs, o + bytes ≤ (regionOf u c).2
    let offs := fun (q : Nat) => (List.range q).map (fun j => d 0 + j * d 1)
    let z := { (if y.kind = .none then { y with kind := kind, tol := toleranceOf u p b.ctx cls } else y) with
      st := if y.st = .clean then .open else y.st }
    let tile := tileOf u p b
    let start := (regionOf u c).1
    let w := { u with nextId := u.nextId + 1 }
    let asks := fun (l : List Nat) (bytes : Nat) =>
      l.flatMap (fun o => cutPhysical (regionVa u c o) (storeAddr p (start + o)) bytes)
    let working := fun (t : State) (kind : JobKind) =>
      modTile t p tile (fun e => { e with jobs := e.jobs ++ [TileJob.mk (heldOf c m) u.nextId kind] })
    let named := handleAcc u p x
    let x0 := accOf (engineOf s p b) a.toNat
    let starts := fun (i : Instr) => unitReady s c i
    let g := c.env.gslot
    let uncorrectable := .next (faultedFrom s p b m h (FaultInfo.mk causeMemUncorrectable 0 (Config.freeWord u.fresh)))
    let vec := fun (sel : MrdSel) => match sel with
      | .cc => named.cc
      | .cr => named.cr
      | _ => named.s
    Fires s p b m h →
    ((x0.st = .swap ∨ x0.st = .checking → starts (.mclr h a) = false ∧ starts (.mwr h cls a) = false) ∧
      (accInArray (engineOf s p b) a.toNat = true ∨ writesInto (engineOf s p b) a.toNat = true → starts (.mclr h a) = false) ∧
      (x0.st = .faultLoc ∨ x0.st = .faultMulti → starts (.mwr h cls a) = false) ∧
      (x0.st ≠ .empty → x0.st ≠ .drained → x0.gslot ≠ g → starts (.mwr h cls a) = false) ∧
      (x0.st = .empty ∨ x0.st = .drained → starts (.mwr h cls a) = true) ∧
      (accInArray (engineOf s p b) a.toNat = false → writesInto (engineOf s p b) a.toNat = false →
        (x0.st ≠ .swap → x0.st ≠ .checking → x0.draining = false → starts (.mclr h a) = true) ∧
        (x0.st = .clean ∨ x0.st = .open ∨ x0.st = .retrying → x0.gslot = g → starts (.mwr h cls a) = true))) ∧
    (starts (.mclr h a) = true → exec (.mclr h a) s = .next (passTrigger ((Machine.chainList h.cfg).foldl (fun t q => snapChain t p b q)
      (putOwn u c a (openRun (engineOf u p b) c))) p (heldOf c m) 0)) ∧
    (wideTag (packetAt c 0).fmt = true → lenAt c 0 = 4 → 1 ≤ d 3 → d 2 + d 3 ≤ 64 → inside (offs (d 3)) 256 →
      (y.kind = .none ∨ y.kind = kind) →
      (starts (.mwr h cls a) = true → admits y g = true → exec (.mwr h cls a) s = .next (working (requestReads (putOwn w c a z)
        (.gather u.nextId tile) p b.ctx g (asks (offs (d 3)) 256)) (.write a cls (d 2) (d 3)))) ∧
      (y.st = .empty ∨ y.st = .drained → exec (.mwr h cls a) s = replied c u 1)) ∧
    (wideTag (packetAt c 0).fmt = true → lenAt c 0 = 2 → inside (offs 64) (64 * outBytes outf) →
      (y.st = .clean ∨ y.st = .drained → (sh = false ∨ exactKind y = true) → exec (.mst h rm sh outf a) s =
        .next (working (requestWrites { w with fresh := u.fresh + 4097 } (.drain u.nextId tile) p b.ctx c.env.gslot
          (asks (offs 64) (64 * outBytes outf)) (allRows u p (heldOf c m) y rm sh outf)) .store)) ∧
      (y.st ≠ .clean → y.st ≠ .drained → exec (.mst h rm sh outf a) s = replied c u 1)) ∧
    (handleAt c u = .ok (some x) →
      (named.st = .faultLoc → named.located = some l → exec (.mloc h) s = answered c u
        (mkPacket 0x05 [1, BitVec.ofNat 64 l.i, BitVec.ofNat 64 l.j, l.delta.setWidth 64])) ∧
      (named.st ≠ .faultLoc → exec (.mloc h) s = answered c u (mkPacket 0x05 [0, 0, 0, 0])) ∧
      exec (.mrd h .status) s = answered c u (mkPacket 0x04 [accStatus named, named.origin]) ∧
      (∀ sel ∈ [MrdSel.cc, .cr, .sum], readsBad named sel 0 0 = false → tagUse c.env.tag + 3 ≤ 58 → exec (.mrd h sel) s = .next (sentFrom s p b m
        ((List.range 8).flatMap (fun g => sendEach h (Token.mk
          { c.env with tag := mkTag (tagUse c.env.tag + 3) (tagFields c.env.tag * 8 + g) } (vecPacket named (vec sel) g)))))) ∧
      (∀ sel ∈ [MrdSel.cc, .cr, .sum], readsBad named sel 0 0 = true → exec (.mrd h sel) s = uncorrectable) ∧
      (intTag (packetAt c 1).fmt = true → lenAt c 1 = 2 → natOperand c 1 0 = .ok r → natOperand c 1 1 = .ok n → r + n ≤ 64 →
        readsBad named .data r n = true → exec (.mrd h .data) s = uncorrectable) ∧
      (readsBad named .data r n = false → intTag (packetAt c 1).fmt = true → lenAt c 1 = 2 → natOperand c 1 0 = .ok r →
        natOperand c 1 1 = .ok n → r + n ≤ 64 → tagUse c.env.tag + 9 ≤ 58 → exec (.mrd h .data) s = .next (sentFrom s p b m
        ((List.range n).flatMap (fun i => (List.range 8).flatMap (fun g => sendEach h (Token.mk
          { c.env with tag := mkTag (tagUse c.env.tag + 9) (tagFields c.env.tag * 512 + 8 * (r + i) + g) }
          (vecPacket named (accData named (r + i)) g)))))))) ∧
    (handleAt c u = .ok none → exec (.mloc h) s = answered c u (mkPacket 0x05 [0, 0, 0, 0]) ∧
      exec (.mrd h .status) s = .next (sentFrom s p b m (sendTo h.t0 (Token.mk c.env (statusPacket 1))))) ∧
    (natOperand c 1 0 = .ok v → exec (.mtol h k) s = answered c
      (addWrite u (RegWrite.mk b.ctx (toleranceReg k) (BitVec.ofNat 64 v) [] none))
      (word64Packet (readCtxRegs (regsOn u b.ctx p) (toleranceReg k))))

/-- Checks and retries (R319, R323, R327, R328, R331, R332): where `unitReady` lets one start, which in SWAP, in CHECKING and while
a check of a run stands it does not, `mchk`, `mdrn` and `mfix` begin a comparison, after the push where PS is set, or are refused with
status 1; a drain of a DRAINED accumulator translates its rows and begins again, and a retry with RC at RETRYMAX or above is exhausted
(assumption 24 for both); `mrty` restarts a faulty run, is refused on any other, and faults with RETRY_EXHAUSTED. -/
def Obligations.CheckFirings : Prop :=
  ∀ (s t : State) (p i j : Nat) (d : Int) (b bb : BlockId) (m : MatchedSet) (h : Head) (a : BitVec 3) (sc : Scope)
    (done sh : Bool) (rm : Rnd) (outf : OutFmt) (x : Handle),
    let c := fireCtxOf s p b m h
    let u := consume s p b m
    let y := ownAcc u c a
    let held := heldOf c m
    let addr := packetSlot true (s.fresh + 8) (packetAt c 1) 0
    let pitch := packetSlot true (s.fresh + 8) (packetAt c 1) 1
    let begins := fun (i : Instr) (k : CheckKind) => exec i s = .next (putOwn u c a { y with
      check := some (Check.mk held k none), failed := none, st := if y.ps then .swap else .checking })
    let drain := Instr.mdrn h sc done rm sh outf a
    let named := handleAcc u p x
    let x0 := accOf (engineOf s p b) a.toNat
    let starts := fun (i : Instr) => unitReady s c i = true
    Fires s p b m h →
    (x0.st ≠ .empty → x0.gslot = c.env.gslot → x0.st = .swap ∨ x0.st = .checking ∨ x0.check.isSome = true →
      ¬ starts (.mdrn h sc done rm sh outf a) ∧ (x0.st ≠ .drained → ¬ starts (.mchk h a))) ∧
    (x0.st ≠ .swap → x0.st ≠ .checking → x0.draining = false → x0.check = none → writesInto (engineOf s p b) a.toNat = false →
      starts (.mchk h a) ∧ starts (.mdrn h sc done rm sh outf a)) ∧
    (starts (.mchk h a) → y.st ≠ .empty → y.gslot = c.env.gslot → y.st ≠ .drained → begins (.mchk h a) .mchk) ∧
    (y.st = .empty ∨ y.gslot ≠ c.env.gslot ∨ y.st = .drained → exec (.mchk h a) s = replied c u 1) ∧
    (wideTag (packetAt c 1).fmt = true → lenAt c 1 = 2 → addr.toNat % 64 = 0 → pitch.toNat % 64 = 0 →
      (y.st = .empty ∨ y.gslot ≠ c.env.gslot → exec drain s = .next (sentFrom s p b m
        (sendEach (if done then { h with t2 := none } else h) (Token.mk c.env (statusPacket 1))))) ∧
      (starts drain → y.st ≠ .empty → y.gslot = c.env.gslot → (sh = false ∨ exactKind y = true) →
        (y.st ≠ .drained → begins drain (.mdrn addr pitch)) ∧
        (y.st = .drained → drainTranslate u p b.ctx addr pitch (64 * outBytes outf) = .ok t → exec drain s =
          .next (putOwn t c a { y with check := some (Check.mk held (.mdrn addr pitch) none), draining := true })))) ∧
    (intTag (packetAt c 1).fmt = true → lenAt c 1 = 4 → natOperand c 1 1 = .ok i → natOperand c 1 2 = .ok j →
      intOperand c 1 3 = .ok d →
      (handleAt c u = .ok none → exec (.mfix h) s = replied c u 1) ∧
      (handleAt c u = .ok (some x) → named.st = .faultLoc → i < 64 → j < 64 → exec (.mfix h) s =
        .next (putAcc u p x.tile x.acc (beginCheck (correctElement named i j (BitVec.ofInt 32 d)) (Check.mk held .mfix none)))) ∧
      (handleAt c u = .ok (some x) → (named.st ≠ .faultLoc ∨ 64 ≤ i ∨ 64 ≤ j) → exec (.mfix h) s = replied c u 1)) ∧
    (handleAt c u = .ok none → exec (.mrty h) s = replied c u 1) ∧
    (handleAt c u = .ok (some x) → blockOnTile u p x.tile = some bb →
      (named.st ≠ .faultLoc → named.st ≠ .faultMulti → exec (.mrty h) s = replied c u 1) ∧
      (starts (.mrty h) → named.st = .faultLoc ∨ named.st = .faultMulti →
        (named.rc < retryMax u p b.ctx → exec (.mrty h) s = replied c (retryRun u p bb x named) 0) ∧
        (retryMax u p b.ctx ≤ named.rc → exec (.mrty h) s = .next (faultedFrom s p b m h
          (FaultInfo.mk causeRetryExhausted 0 (BitVec.ofNat 64 (x.tile * 8 + x.acc)))))))

/-! ### System instructions and exceptions -/

/-- Slices and traps (R418, R425, R431): a `yld` at or past its deadline, or with a request pending, yields with status 1,
and otherwise continues with status 0; a `trap` with a handler and a free cause slot writes its cause record, keeps its
set, stops the group and sends the handler token. -/
def Obligations.YieldAndTrap : Prop :=
  ∀ (s : State) (p n : Nat) (b : BlockId) (m : MatchedSet) (h : Head) (code : BitVec 7) (x : Group),
    let c := fireCtxOf s p b m h
    let u := consume s p b m
    let k := (ctxAt u b.ctx).counts.getD p (freshSlice 0)
    let late := k.dline.toNat ≤ k.icnt.toNat ∨ requestPending (ctxAt u b.ctx) = true
    let g := c.env.gslot
    let r := CauseRecord.mk (b.bid ++ (0#7 ++ 0#1 ++ (0#1 ++ m.slot) ++ 0#8 ++ (1#1 ++ code)))
      (packetSlot (wideTag (packetAt c 0).fmt) s.fresh (packetAt c 0) 0) c.env.tag
      (0#24 ++ c.env.wave ++ 0#3 ++ g ++ c.env.thread)
    let w := { s with cur := .idle, fresh := s.fresh + 64 }
    Fires s p b m h →
    (late → exec (.yld h) s =
      throughPort s (replied c (writeState (requestStop (ownExpiry c u) b.ctx flagYield 0 false false) b.ctx) 1)) ∧
    (¬ late → exec (.yld h) s = throughPort s (replied c u 0)) ∧
    (groupAt s p g = some x → x.phase ≠ .placed → x.hbid ≠ 0xFFFF_FFFF → (b.bid ≠ x.hbid ∨ b.obj ≠ x.obj) → freeCause x.causes = some n →
      exec (.trap h code) s = .next (takeSet (sendEntry (freshHandlerWave
          (modGroup w p g (fun y => { y with
            causes := y.causes.set n (CauseSlot.mk .delivered r (.trap b m h))
            phase := if y.phase = .running then .stopped else y.phase }))
          p x.ctx g c.env.thread)
        .entry p (BlockId.mk x.ctx x.obj x.hbid) 0 0 (Token.mk (Envelope.mk 0 c.env.thread g 0 []) (statusPacket n))) p b m))

/-- The handler's instructions (R432 to R434): `hcse` reads a cause slot and marks it READ; `hres` frees a READ slot,
handles what it keeps as DROP selects, lets the words take their fault that had found no free slot, and lets a group without cause slots in use run again; `hkil` kills its group with
the cause of a READ slot. A slot that is not READ gives status 1, or does nothing. -/
def Obligations.HandlerFirings : Prop :=
  ∀ (s : State) (p n : Nat) (b : BlockId) (m : MatchedSet) (h : Head) (drop : Bool),
    let c := fireCtxOf s p b m h
    let u := consume s p b m
    let x := causeAt u c n
    let t := settleWords (resolveKept (setCause u c n CauseSlot.empty) p drop x.kept) p
    let free := ∀ k ∈ causesOf t c, k.state = .free
    Fires s p b m h → natOperand c 0 0 = .ok n →
    (x.state = .free → exec (.hcse h) s = answered c u (mkPacket 0x04 [0, 0, 0, 0])) ∧
    (x.state ≠ .free → exec (.hcse h) s = answered c (setCause u c n { x with state := .read })
      (mkPacket 0x04 [x.record.w0, x.record.w1, x.record.w2, x.record.w3])) ∧
    (x.state ≠ .read → exec (.hres h drop) s = replied c u 1 ∧ exec (.hkil h) s = .next u) ∧
    (x.state = .read → ¬ free → exec (.hres h drop) s = replied c t 0) ∧
    (x.state = .read → free → exec (.hres h drop) s = replied c (resumePlot (modGroup t p c.env.gslot
      (fun g => if g.phase = .stopped then { g with phase := .running } else g)) p) 0) ∧
    (x.state = .read → exec (.hkil h) s =
      .next (dropOrphans (killGroup u p c.env.gslot (x.record.w0.extractLsb' 0 8))))

/-- `srd` and `swr` (R410, R412 to R414): a context that may reach the register gets its value, and a write gets the value
before it, at once or, for a register of a context, when every plot has taken the write; any other access faults with PRIVILEGE and
changes no register. -/
def Obligations.RegisterFirings : Prop :=
  ∀ (s : State) (p v : Nat) (b : BlockId) (m : MatchedSet) (h : Head) (dx : Bool) (die : BitVec 2) (reg : BitVec 12),
    let c := fireCtxOf s p b m h
    let u := consume s p b m
    let d := if dx then die.toNat else dieOf p
    let r := reg.toNat
    let old := readReg u p b.ctx d r
    let wrote := writeReg u p b.ctx d r (BitVec.ofNat 64 v) (some (WriteReply.mk p (heldOf c m) old))
    let denied := .next (faultedFrom s p b m h (causeOnly causePrivilege))
    Fires s p b m h →
    (mayRead b.ctx r = true → exec (.srd h dx die reg) s = answered c u (word64Packet old)) ∧
    (mayRead b.ctx r = false → exec (.srd h dx die reg) s = denied ∧ exec (.swr h dx die reg) s = denied) ∧
    (mayRead b.ctx r = true → mayWrite u p b.ctx r = true → natOperand c 0 0 = .ok v →
      (isCtxReg r = false → exec (.swr h dx die reg) s = answered c wrote (word64Packet old)) ∧
      (isCtxReg r = true → exec (.swr h dx die reg) s = .next wrote)) ∧
    (mayWrite u p b.ctx r = false → exec (.swr h dx die reg) s = denied)

/-- The registers of R410, as a user context and the headland context reach them: which fault, which ignore a write, and
what a write leaves to be read; and how a write to a register of a context takes effect where no other is under way (R412): a plot
reads the value when it has taken the write and not before, and when all have, the context holds it. -/
def Obligations.RegisterRights : Prop :=
  ∀ (s : State) (p d r : Nat) (c : BitVec 12) (v : Word),
    let user := c ≠ headland
    let began := writeReg s p c d r v none
    let wrote := readReg (takeWrite began p c) p c d r
    let all := (writePlots c).foldl (fun t q => takeWrite t q c) began
    let cfg := (regsOn s c p).cfg
    (user → r ∈ [0x208, 0x209, 0x20A, 0x20B, 0x20C, 0x20D, 0x20E, 0x300, 0x310, 0x311, 0x320, 0x340, 0x341] →
      mayRead c r = false ∧ mayWrite s p c r = false) ∧
    (user → r ∈ [0x202, 0x203, 0x204] → mayRead c r = true ∧ mayWrite s p c r = false) ∧
    (user → 0x100 ≤ r → r < 0x120 → mayRead c r = true ∧ mayWrite s p c r = cfg.getLsbD 3) ∧
    (mayRead headland r = true ∧ mayWrite s p headland r = true) ∧
    (p ∈ writePlots c → (∀ w ∈ s.regWrites, w.ctx ≠ c) →
      (r ∈ [0x000, 0x205, 0x206, 0x207, 0x210, 0x211, 0x212, 0x213, 0x223, 0x330] → wrote = readReg s p c d r) ∧
      (r ∈ [0x201, 0x202, 0x203, 0x204, 0x208, 0x209, 0x20A, 0x20B, 0x20C, 0x20D, 0x20E] → wrote = v) ∧
      (r = 0x200 → user → wrote = (cfg &&& ~~~ 0xF0_0001) ||| (v &&& 0xF0_0001)) ∧
      (r = 0x200 → c = headland → wrote = (cfg &&& ~~~ 0xF0_FFFD) ||| (v &&& 0xF0_FFFD)) ∧
      (r ∈ [0x220, 0x221, 0x222] →
        (wrote.extractLsb' 8 8).toNat = min 149 (v.extractLsb' 8 8).toNat ∧ (wrote.extractLsb' 0 5).toNat = min 24 (v.extractLsb' 0 5).toNat ∧
          wrote.extractLsb' 16 48 = 0 ∧ wrote.extractLsb' 5 3 = 0) ∧
      (isCtxReg r = true → readReg began p c d r = readReg s p c d r ∧
        (ctxAt all c).regs = writeCtxRegs (c != headland) (ctxAt s c).regs r v ∧ all.regWrites = s.regWrites)) ∧
    (readReg s p c d 0x000 = 4#8 ++ s.dev.step ++ 0#6 ++ s.dev.peerid ++ s.dev.plots) ∧
    (readReg s p c d 0x207 = c.setWidth 64)

/-- Privileged instructions outside the headland context fault with PRIVILEGE before they change any state (R72, R75,
R436). -/
def Obligations.PrivilegeRule : Prop :=
  ∀ (s : State) (p : Nat) (b : BlockId) (m : MatchedSet) (h : Head) (op : HaltOp) (rop : RrecOp) (mode : TlbiMode) (iop : ImtrOp)
    (kind : InjKind),
    let denied := .next (faultedFrom s p b m h (causeOnly causePrivilege))
    Fires s p b m h → b.ctx ≠ headland →
    exec (.halt h op) s = denied ∧ exec (.rrec h rop) s = denied ∧ exec (.tlbi h mode) s = denied ∧ exec (.imtr h iop) s = denied ∧
    ((regsOn (consume s p b m) b.ctx p).cfg.getLsbD 2 = false → exec (.minj h kind) s = denied)

/-- The privileged instructions where they may run (R435, R436, R440, R459, R460, R478, R479): `halt` and `rrec` give their
command to the context that their operand names and answer 0 where it was accepted, 1 where it was refused; `minj` changes
an accumulator under a mask, or marks a word; `tlbi` removes its entries and waits for the accesses that went through
them (assumption 39); `imtr` reads and changes a furrow; `pwrq`, open to all, asks for power. -/
def Obligations.PrivilegedFirings : Prop :=
  ∀ (s t : State) (p n k i j v pa : Nat) (b : BlockId) (m : MatchedSet) (h : Head) (kind : InjKind) (x : Handle) (l : Leaf)
    (fmask : BitVec 4),
    let c := fireCtxOf s p b m h
    let u := consume s p b m
    let ctx := BitVec.ofNat 12 n
    let gives := fun (i : Instr) (k : Command) (grace : Nat) =>
      exec i s = replied c (command u ctx k grace).1 (if (command u ctx k grace).2 then 0 else 1)
    let gone := fun (k : TlbiScope) => removeEntries u k u.nextId
    let job := fun (k : TlbiScope) => exec (.tlbi h (match k with
        | .ctx _ => .ctx
        | .va _ _ _ => .va
        | .all => .all)) s =
      .next { gone k with
        nextId := (gone k).nextId + 1
        tlbis := (gone k).tlbis ++ [TlbiJob.mk u.nextId p (heldOf c m) (affectedAccesses u k)] }
    let acc := handleAcc u p x
    let f := furrowAt u n
    let fs := (maskFurrows p fmask).filter (fun y => !(furrowAt u y.1).guarded)
    let asked := fun (q : Nat) => fs.foldl (fun (t : State) y => modFurrow t y.1 (fun z => { z with req := min q 65535 })) u
    let power := fun (q : Nat) => answered c (asked q) (mkPacket 0x05
      [BitVec.ofNat 64 (fs.foldl (fun t y => t + 2 ^ y.2) 0), BitVec.ofNat 64 (asked q).power.free])
    Fires s p b m h →
    exec (.pwrq h true fmask) s = power 0 ∧
    (natOperand c 0 0 = .ok n → exec (.pwrq h false fmask) s = power n) ∧
    (b.ctx = headland → natOperand c 0 0 = .ok n →
      (lenAt c 0 = 2 → natOperand c 0 1 = .ok k → n < 4096 → gives (.halt h .preempt) .preempt k) ∧
      (lenAt c 0 = 1 → n < 4096 → gives (.halt h .freeze) .freeze 0 ∧ gives (.halt h .kill) .kill 0) ∧
      (n < 4096 → gives (.rrec h .norecord) .norecord 0 ∧ gives (.rrec h .record) .record 0 ∧ gives (.rrec h .replay) .replay 0 ∧
        exec (.rrec h .status) s = answered c { u with fresh := u.fresh + 2 }
          (mkPacket 0x04 [BitVec.ofNat 64 (modeCode (ctxAt u ctx).recMode), (heldRegs u ctx).recpos])) ∧
      (lenAt c 0 = 1 → job .all) ∧
      (lenAt c 0 = 1 → n ≤ 4095 → job (.ctx ctx)) ∧
      (lenAt c 0 = 2 → n ≤ 4095 → natOperand c 0 1 = .ok v → v < 2 ^ 57 → job (.va ctx (v / 4096) 1)) ∧
      (lenAt c 0 = 3 → n ≤ 4095 → natOperand c 0 1 = .ok v → natOperand c 0 2 = .ok k → 1 ≤ k → k ≤ 512 → v < 2 ^ 57 →
        job (.va ctx (v / 4096) k)) ∧
      (n ≤ 131 →
        (lenAt c 0 = 2 → natOperand c 0 1 = .ok k → k ≤ 7 → exec (.imtr h .set) s =
          answered c (modFurrow u n (fun y => { y with pstep := k })) (word64Packet (BitVec.ofNat 64 f.pstep))) ∧
        (lenAt c 0 = 1 → exec (.imtr h .rd) s = answered c u (word64Packet (fimb u n))) ∧
        (lenAt c 0 = 1 → f.guarded = true → f.inBand = true → exec (.imtr h .clr) s =
          answered c (modFurrow u n (fun y => { y with guarded := false })) (word64Packet 0)) ∧
        (lenAt c 0 = 1 → f.guarded = false ∨ f.inBand = false → exec (.imtr h .clr) s = answered c u (word64Packet 1)))) ∧
    ((b.ctx = headland ∨ (regsOn u b.ctx p).cfg.getLsbD 2 = true) →
      (kind ∈ [InjKind.dat, .ccol, .crow] → handleAt c u = .ok (some x) → lenAt c 1 = 3 → natOperand c 1 0 = .ok i →
        natOperand c 1 1 = .ok j → natOperand c 1 2 = .ok k →
        (i < 64 → j < 64 → acc.st ≠ .empty →
          exec (.minj h kind) s = replied c (putAcc u p x.tile x.acc (injectAcc kind acc i j k)) 0) ∧
        (64 ≤ i ∨ 64 ≤ j ∨ acc.st = .empty → exec (.minj h kind) s = replied c u 1)) ∧
      (kind ∈ [InjKind.ecc1, .ecc2] → natOperand c 0 0 = .ok n → natOperand c 1 0 = .ok k → lenAt c 1 = 1 →
        n % 8 = 0 → n < 2 ^ 57 →
        engineTranslate u p b.ctx (BitVec.ofNat 64 n) .store = .ok (t, pa, l) → (rangeOf pa = .hbm ∨ rangeOf pa = .window) →
        exec (.minj h kind) s = replied c { t with mem := { t.mem with
          marks := EccMark.mk (pa / 8) (kind == .ecc2) :: t.mem.marks.filter (fun q => q.word != pa / 8) } } 0))

/-! ### The steps of the hardware

Each statement gives the conditions under which a step takes place, as its rule has them, and the state that it then
leaves: the state with no step present, changed by the operation of the rule. -/

/-- Tokens and block copies (R88 to R92, R174 to R186): a token in flight reaches its destination, or waits at an edge port whose
meter refuses it (R471); the item written out first returns to a store with room; the scheduler starts a load, ends it with a
resident, rejected or faulted block, goes on waiting for a line or a walk that
has still to come, delivers waiting entry tokens, evicts a
victim, and moves a copy to a better tile, whose old tile is freed when the drain markers are back. How often a meter admits is assumption 41, what a rejected
block's tokens meet 45, and which block or victim is chosen where the rules leave it open 46. -/
def Obligations.BlockSteps : Prop :=
  ∀ (s w : State) (p n k t j : Nat) (v : List Nat) (f : Flight) (c d : Copy) (x : ImageBytes) (slot : BitVec 8) (e : FaultInfo)
    (r : MoveRequest) (q : EntryToken),
    let u := { s with cur := .idle }
    let does := fun (i : Instr) (t : State) => exec i s = .next t
    let buffered := if c.buffer.isEmpty then c.spilled else c.buffer
    let drop := fun (t : State) => modCopy t p c.id (fun y =>
      if c.buffer.isEmpty then { y with spilled := y.spilled.erase q } else { y with buffer := y.buffer.erase q })
    let absent := fun (t : State) =>
      tileFreed (countEvent (modCopy t p c.id (fun y => { y with phase := .absent })) p 0x04 (some c.id.ctx) 1) p
    let consolidates := migrating u p = false ∧ (∀ y ∈ (plotAt u p).blocks.copies, hasWork u y = false) ∧ loadingCopy u p = none
    s.cur = .at p n k v →
    (u.flights[n]? = some f →
      (flightEdge u f = none → does .tokenArrival (arrive { u with flights := u.flights.eraseIdx n } f)) ∧
      (flightEdge u f = some (t, j) → meterOpen u f.dest.plot t j = true → does .tokenArrival
        (arrive { passEdge u f.dest.plot t j with flights := (passEdge u f.dest.plot t j).flights.eraseIdx n } f)) ∧
      (flightEdge u f = some (t, j) → meterOpen u f.dest.plot t j = false →
        (f.refused = true → does .tokenArrival u) ∧
        (f.refused = false → does .tokenArrival (countEvent { u with
          flights := (u.flights.set n { f with refused := true }).map (fun y => if sameReturn f y then { y with refused := true } else y) }
          f.dest.plot 0x1A (some f.dest.block.ctx) 1)))) ∧
    (copyOnTile u p n = some c → storeUsed u p c k < 256 → (overflowed u p c k).min? = some j →
      does .overflowReturn (modUnit (modCopy u p c.id (fun y => { y with
          reserved := y.reserved.erase j
          waiting := y.waiting.map (fun z => if z.spilled = some j then { z with spilled := none } else z)
          ready := y.ready.map (fun z => if z.spills.contains j then { z with entries := z.entries + 1, spills := z.spills.erase j } else z) }))
        p (fun y => { y with barWaiters := y.barWaiters.map (fun z =>
          if z.spilled = some j then { z with spilled := none } else z) }))) ∧
    ((plotAt u p).blocks.copies[n]? = some c → nextEntry buffered = some q →
      (copyLive c = true → meterOpen u p (firingTile c) 0 = true → copyOf (drop (admitAt u p (firingTile c) 0 q.seq)) p c.id = some d →
        does .entryTokenDelivery (arriveAt (drop (admitAt u p (firingTile c) 0 q.seq)) p d q.slot q.port q.tok)) ∧
      (copyLive c = true → meterOpen u p (firingTile c) 0 = false →
        does .entryTokenDelivery (refuseAt u p (firingTile c) 0 c.id.ctx q.seq)) ∧
      (copyLive c = false → rejectedSlot u c.id = none → does .entryTokenDelivery u) ∧
      (copyLive c = false → rejectedSlot u c.id = some slot →
        (tokenFault u p c.id q.slot q.port q.tok causeBadOpcode slot = (w, true) → does .entryTokenDelivery (drop w)) ∧
        (tokenFault u p c.id q.slot q.port q.tok causeBadOpcode slot = (w, false) → does .entryTokenDelivery w))) ∧
    (8 ≤ (plotAt u p).blocks.loadClock → loadingCopy u p = none → chooseLoad u p = some c →
      bestTile u p (loadClass u p c.id) (freeTiles u p) = some t →
      does .blockLoadStarted (modCopy (countEvent (modBlocks u p (fun y => { y with loadClock := 0 })) p 0x02 (some c.id.ctx) 1)
        p c.id (fun y => { y with phase := .loading, tile := t, newTile := none, switched := false }))) ∧
    (loadingCopy u p = some c →
      (readImage u p c.id = .ok (w, some x) → imageFault x.header x.bytes (decide (32 ≤ p)) = none →
        does .blockLoadComplete (becomeResident (walkMet w p .sched) p c x)) ∧
      (readImage u p c.id = .ok (w, some x) → imageFault x.header x.bytes (decide (32 ≤ p)) = some slot →
        does .blockLoadComplete (rejectBlock (walkMet w p .sched) p c slot)) ∧
      (readImage u p c.id = .ok (w, none) → does .blockLoadComplete (rejectBlock (walkMet w p .sched) p c 0x80)) ∧
      (readImage u p c.id = .error .line → does .blockLoadComplete u ∧ does .imageTranslationFault u) ∧
      (∀ va, readImage u p c.id = .error (.walk va) →
        does .blockLoadComplete (askLoad u p c.id.ctx va) ∧ does .imageTranslationFault (askLoad u p c.id.ctx va)) ∧
      (readImage u p c.id = .error (.fault w e) → (byArrival c).head? = some q → does .imageTranslationFault
        (deliverFault (absent (walkMet w p .sched)) p q.tok.env.gslot e 0x80 c.id q.tok.env .nothing).1)) ∧
    (wantsVictim u p = true → (∀ y ∈ (plotAt u p).blocks.copies, y.phase ≠ .evicting) → chooseVictim u p = some c →
      does .eviction (countEvent (modCopy u p c.id (fun y => { y with phase := .evicting, evictFor := 0 })) p 0x0B (some c.id.ctx) 1)) ∧
    ((plotAt u p).blocks.copies.find? (fun y => y.phase == .evicting && decide (16 ≤ y.evictFor)) = some c →
      does .evictionEnd (freeTile (modCopy u p c.id (fun y => { y with phase := .absent, stations := [] })) p c.tile)) ∧
    ((plotAt u p).blocks.freed = true →
      (consolidates → chooseMove u p = some r →
        does .consolidation (modBlocks u p (fun y => { y with freed := false, request := some r }))) ∧
      (¬ consolidates → does .consolidation (modBlocks u p (fun y => { y with freed := false })))) ∧
    ((plotAt u p).blocks.request = some r →
      let w := modBlocks u p (fun y => { y with request := none })
      migrating w p = false → tileFree w p r.tile = true → does .migrationRequest (modCopy w p r.block (fun y =>
        if y.phase = .resident then { y with phase := .migrating, newTile := some r.tile, switched := false } else y))) ∧
    ((plotAt u p).blocks.copies.find? (fun y => y.phase == .migrating && !y.switched) = some c → c.newTile = some t →
      mayCarry (tileAt u p c.tile) = true →
      let carried := modTile (modTile u p t (fun _ => tileAt u p c.tile)) p c.tile (fun _ => Tile.fresh)
      let moved := c.waiting.countP (fun y => y.spilled.isNone) + (c.ready.map inStore).sum +
        u.flights.countP (fun y => y.dest.plot == p && y.dest.block == c.id)
      let arrived := c.waiting.any (fun y => y.spilled.isNone) || c.ready.any (fun y => decide (0 < inStore y))
      does .migrationSwitch (countEvent (modCopy { carried with
          flights := u.flights.map (fun y => if y.dest.plot = p then { y with before := true } else y)
          rows := u.rows.map (fun y => if y.dest.plot = p then { y with before := true } else y) }
        p c.id (fun y => { y with switched := true, idle := if arrived then 0 else y.idle })) p 0x0D (some c.id.ctx) moved)) ∧
    ((plotAt u p).blocks.copies.find? (fun y => y.phase == .migrating && y.switched) = some c →
      let back := (∀ y ∈ u.flights, y.dest.plot = p → y.before = false) ∧ (∀ y ∈ u.rows, y.dest.plot = p → y.before = false) ∧
        ∀ y ∈ (plotAt u p).iterative, ¬ (y.block = c.id ∧ y.tile = c.tile)
      (back → does .migrationRelease (dropObject (tileFreed (countEvent (modCopy u p c.id (fun y => { y with
        phase := .resident, tile := y.newTile.getD y.tile, newTile := none, switched := false, sinceMove := 0 }))
        p 0x0C (some c.id.ctx) 1) p) p c.id.ctx c.id.obj)) ∧
      (¬ back → does .migrationRelease u))

/-- Matching (R89 to R92): a token at a matching port of a live copy's station joins the earliest tokens of its key on the
other ports into a set, or waits where one is missing; a waiting token takes a store entry, or, where the store is full, the
overflow area, with the next number of the order in which items are written there: that is counted as event 0x08. An arrival at a
station of which tokens stand in the overflow area is counted as event 0x09. -/
def Obligations.MatchingRule : Prop :=
  ∀ (s : State) (p : Nat) (c : Copy) (slot : BitVec 7) (port : BitVec 2) (t : Token) (i : Instr) (ws : List Waiting),
    let touched := modCopy s p c.id (fun x => { x with idle := 0 })
    let u := if hasOverflow touched p c slot then countEvent touched p 0x09 (some c.id.ctx) 1
      else touched
    let others := (matchPorts i).filter (fun q => q != port.toNat)
    let a := arriveAt s p c slot port t
    let waits := fun (spilled : Option Nat) =>
      modCopy u p c.id (fun x => { x with waiting := x.waiting ++ [Waiting.mk slot port t spilled] })
    stationInstr c slot = .ok i → (hasRowPort i = false ∨ port ≠ 0) → creditPort i ≠ some port.toNat → port.toNat ∈ matchPorts i →
    (gatherSet c slot (keyOf t.env) others = some ws → a = completeAt u p c slot port t ws i) ∧
    (gatherSet c slot (keyOf t.env) others = none → storeRoom u p c slot = true → a = waits none) ∧
    (gatherSet c slot (keyOf t.env) others = none → storeRoom u p c slot = false →
      a = afterSpill (countEvent { waits (some u.nextId) with nextId := u.nextId + 1 } p 0x08 (some c.id.ctx) 1) c.id.ctx) ∧
    (∀ w ∈ ws, gatherSet c slot (keyOf t.env) others = some ws → w ∈ c.waiting ∧ w.slot = slot ∧ keyOf w.tok.env = keyOf t.env)

/-- Memory accesses and translation (R197 to R207, R215 to R217, R229, R230, R266 to R268, R443 to R456, R460, R471): an access
reaches its entry; one that is wave-ready with its gates open changes the wave record and goes where it performs, takes the value
of an older store, or takes its fault; with every part performed it is freed and sends its tokens through its return port, or,
having met an error, takes its fault; a level, an update and a contiguous group of a walk; the walker's answers; a completed
`tlbi`; a bank's word; refused operations sent again. What the walk of a page, the delivery of a fault and the parts of an access
do one by one is said by the functions named here. What an access that has met an error does when it is issued again is assumption 50,
how walks are taken 16, and what a `tlbi` waits for 39. -/
def Obligations.AccessSteps : Prop :=
  ∀ (s z : State) (p n k l t : Nat) (v : List Nat) (a : Access) (e : FaultInfo) (x : Returned) (w : Walk) (pte : Word) (j : TlbiJob)
    (q : BankReq) (qs : List BankReq) (r : Refused) (f : Access) (c : BitVec 8) (ok : Bool) (part : Machine.Part),
    let u := { s with cur := .idle }
    let does := fun (i : Instr) (t : State) => exec i s = .next t
    let walker := (plotAt u p).walker
    let rec_ := waveRec u p a.block.ctx a.env a.handler
    let waved := setWave u p (if waveSucc a.head = 0xFE then { rec_ with w := rec_.w + 1, i := 0, s := 0xFF }
      else { rec_ with i := rec_.i ||| ((1 : BitVec 254) <<< (waveOwn a.head).toNat), s := waveSucc a.head })
    let flying := { a with phase := AccessPhase.issued, withdrawn := false }
    let marked := ((a.fault <|> lostFault u p a) <|> peerFault u a)
    let delivered := fun (y : State) (g : FaultInfo) =>
      deliverFault y p a.env.gslot g (0#1 ++ a.set.slot) a.block a.env (.access a.id)
    let port := tileOf u p a.block
    let local_ := performLocal (if returnsLocal a then admitAt u p port 2 a.id else u) p a
    let gone := fun (y : State) => removeAccess (if a.xf.scope = .system then sendDone y p a else y) p a.id
    let finished :=
      if a.parts.all partSys then
        if returnsSystem a then
          if meterOpen local_ p port 2 then gone (admitAt local_ p port 2 a.id) else refuseAt local_ p port 2 a.block.ctx a.id
        else gone local_
      else local_
    s.cur = .at p n k v →
    (accessAt u p n = some a →
      (a.phase = .transit → isStream a.op = false → does .accessArrival (putAccess u p { a with phase := .waiting })) ∧
      (a.phase = .waiting → isStream a.op = false → accessLets u p a = true → accessReady u p a = true → a.again = false →
        (gatesOpen u p a = false → does .storeBufferIssue (putAccess u p a)) ∧
        (gatesOpen u p a = true → marked = none → a.withdrawn = false →
          (∀ y ∈ a.parts, y.kind = .peer → y.state = .todo → peerReady u (y.pa.getD 0) = true) →
          (a.op = .mnop → does .storeBufferIssue (removeAccess waved p a.id)) ∧
          (a.op ≠ .mnop → forwardSource waved p a = some f → does .storeBufferIssue (moveLast waved p (forwardFrom f flying))) ∧
          (a.op ≠ .mnop → forwardSource waved p a = none →
            does .storeBufferIssue (sendParts (moveLast waved p flying) p flying))) ∧
        (gatesOpen u p a = true → marked = some e →
          (delivered (putAccess u p a) e = (z, true) →
            does .storeBufferIssue (modAccess z p a.id (fun y => { y with phase := .faulted, fault := some e }))) ∧
          (delivered (putAccess u p a) e = (z, false) →
            does .storeBufferIssue (modAccess z p a.id (fun y => { y with phase := .waiting, fault := some e }))))) ∧
      (a.phase = .issued → a.fault = none → (∀ y ∈ a.parts, partDone y = true) → a.freed = false → a.op ≠ .pref →
        fenceClear u p a = true → dataLeaves u p a = true →
        (returnsLocal a = true → meterOpen u p port 2 = false → isStream a.op = false →
          does .accessPerformed (refuseAt u p port 2 a.block.ctx a.id)) ∧
        ((returnsLocal a = true → meterOpen u p port 2 = true) →
          (isStream a.op = false → does .accessPerformed finished) ∧
          (isStream a.op = true → does .streamAccessPerformed (kickStreams finished p)))) ∧
      (a.phase = .issued → a.fault = some e → (∀ y ∈ a.parts, partDone y = true ∨ y.state = .bad) → isStream a.op = false →
        a.op ≠ .pref →
        ((∀ y, groupAt u p a.env.gslot = some y → y.phase = .retiring) → does .accessPerformed (removeAccess u p a.id)) ∧
        (∀ y, groupAt u p a.env.gslot = some y → y.phase ≠ .retiring →
          (delivered u e = (z, true) →
            does .accessPerformed (modAccess z p a.id (fun y => { y with phase := .faulted, withdrawn := !isStream y.op }))) ∧
          (delivered u e = (z, false) → does .accessPerformed z))) ∧
      (a.phase = .translating false → (ctxAt u a.block.ctx).phase = .running → a.fault = none → isStream a.op = false →
        (∀ i, nextPart a = some (i, part) → vaValid part.ea = true → entryCovers u p a = false →
          askWalker u p (WalkReq.mk (.access a.id) a.block.ctx part.ea (needOf a.op a.xf.take) a.fresh u.cycles
            (walkRank u p (isStream a.op) a.block a.set.slot)) = (z, ok) →
          does .walkerQueueRetry (putAccess z p { a with phase := .translating ok }))) ∧
      (mayResend u a = true → k = 0 → does .waiterRefusalRetry (resendRefused u p a))) ∧
    ((plotAt u p).unit.refused[n]? = some r → slotRuns u p r.gslot = true → k ≠ 0 →
      (r.atUnit = true → rankOpen u p (arrivalRank u p p r.held) = true) →
      let o := modUnit u p (fun y => { y with refused := y.refused.eraseIdx n })
      does .waiterRefusalRetry (resendUnit (if r.atUnit then rankTaken o p (arrivalRank o p p r.held) else o) p r)) ∧
    (walker.returned[n]? = some x →
      let read := modWalker u p (fun y => { y with returned := y.returned.erase x })
      (∀ id, x.who = .access id →
        (accessAt read p id = none → does .walkReturn read) ∧
        (accessAt read p id = some a → (ctxAt read a.block.ctx).phase ≠ .running → does .walkReturn (putAccess read p a.unask)) ∧
        (accessAt read p id = some a → (ctxAt read a.block.ctx).phase = .running →
          (∀ m, x.result = .leaf m → does .walkReturn (resume (setStationEntry read p a.block a.set.slot m) p a.id)) ∧
          (∀ i, x.result = .fault e → a.parts.findIdx? (fun y => y.ea == x.va) = some i →
            does .walkReturn (resume (putAccess read p (failPart a i e)) p a.id)))) ∧
      (∀ b y, x.who = .station b y → (ctxAt read x.ctx).phase = .running →
        (∀ m, x.result = .leaf m → does .walkReturn (setStationEntry read p b y m)) ∧
        (x.result = .fault e → does .walkReturn
          (modWalker read p (fun y => { y with failed := x.who :: y.failed.filter (fun o => o != x.who) }))))) ∧
    (walker.walks[n]? = some w →
      (w.phase = .level l t →
        let b := readWord u (entryAddr l t w.va)
        (entryCause l b = some c → does .walkLevelRead (nextWalk (failWalk (setWalk u p n none) p w.reqs c l) p)) ∧
        (entryCause l b = none → pteL b = false → does .walkLevelRead (setWalk u p n (some { w with
          phase := .level (l + 1) (ptePa b)
          passed := w.passed ++ [WalkEntry.mk w.ctx l (w.va.toNat / 2 ^ levelShift l) (ptePa b)] }))) ∧
        (∀ y, entryCause l b = none → pteL b = true → w.reqs = [y] →
          leafRefuses u y (mkLeaf w.ctx w.va l (entryAddr l t w.va) b) = some c →
          does .walkLevelRead (nextWalk (setWalk (failWalk u p [y] c l) p n none) p)) ∧
        (entryCause l b = none → pteL b = true →
          (∀ y ∈ w.reqs, leafRefuses u y (mkLeaf w.ctx w.va l (entryAddr l t w.va) b) = none) → w.reqs ≠ [] →
          (needsUpdate w.reqs b = true →
            does .walkLevelRead (setWalk u p n (some { w with phase := .update l (entryAddr l t w.va) b }))) ∧
          (needsUpdate w.reqs b = false → l = 5 → pteC b = true →
            does .walkLevelRead (setWalk u p n (some { w with phase := .group (entryAddr l t w.va) b }))) ∧
          (needsUpdate w.reqs b = false → l ≠ 5 ∨ pteC b = false →
            does .walkLevelRead (finishWalk u p n w (mkLeaf w.ctx w.va l (entryAddr l t w.va) b))))) ∧
      (w.phase = .update l t pte → readWord u t = pte → (∀ y ∈ w.reqs, leafRefuses u y (mkLeaf w.ctx w.va l t pte) = none) →
        w.reqs ≠ [] → does .adUpdate
          (leafKnown (writeWord u t (updatedEntry w.reqs pte)) p n w l t (updatedEntry w.reqs pte))) ∧
      (w.phase = .update l t pte → readWord u t ≠ pte → does .adUpdate (restartWalk u p n w)) ∧
      (w.phase = .group t pte → does .contiguousCheck
        (finishWalk (groupLeaf u p w.ctx w.va t pte).1 p n w (groupLeaf u p w.ctx w.va t pte).2))) ∧
    (u.tlbis[n]? = some j → (∀ y ∈ j.accesses, accessCleared u y = true) →
      let o := sendHeld (markWithdrawn j.accesses { u with tlbis := u.tlbis.eraseIdx n }) j.plot j.held (statusPacket 0)
      does .tlbiComplete ((List.range 36).foldl (fun o p => restartParked j.id 8 o p) o)) ∧
    (u.banks.filter (fun y => y.store == p && y.word % 64 == n) = q :: qs →
      let served := if q.write then [q] else broadcast q.word ((q :: qs).filter (fun y => decide (y.cycle < u.cycles)))
      (q.atomic = false → q.cycle < u.cycles → (p, n) ∉ u.served → does .wordServe (served.foldl (fun w y => performRef w y.ref)
        { countConflicts u p n q.word served with served := (p, n) :: (countConflicts u p n q.word served).served })) ∧
      (q.atomic = true ∨ u.cycles ≤ q.cycle ∨ (p, n) ∈ u.served → does .wordServe u))

/-- Coherence messages (R249 to R257): the oldest message of a channel, or one from an owner, is taken. A request in its
place among those of its plot cycle is served where its line is in no transient state, is queued behind one, or is refused where
512 requests are queued; one out of its place stays. The last acknowledgement of an invalidation and an answered forward give the
line to the request that waits for it and serve the line's queue. Data, ownership, an invalidation, a forward and an
acknowledgement change the L1's line as its state says. A refused request is sent again; a home operation also serves the atomic
unit of a plot store or a replay whose turn has come; a back-invalidation of a line of HBM clears its host flag. That a put may be
refused as well is assumption 15. What performing a request
(`performRef`) and trying the waiting parts (`kickL1`) do is said by the functions named. -/
def Obligations.CoherenceSteps : Prop :=
  ∀ (s w : State) (p n k : Nat) (v : List Nat) (x : ToHome) (y : ToPlot) (d : LineData) (keep : Bool) (f : Forward) (r : ReqRef)
    (q : PartRef) (a : Access) (z : Machine.Part) (c : L1Line) (req : DirReq) (i : Instr),
    let u := { s with cur := .idle }
    let does := fun (i : Instr) (t : State) => exec i s = .next t
    let h := { u with toHome := u.toHome.erase x }
    let e := dirAt h x.line
    let free : DirEntry := { e with serving := none, count := 0 }
    let given := fun (b : Nat) (m : PlotMsg) =>
      sendPlot (setDir h { free with st := .em, owner := b, sharers := [] }) b x.line m
    let wrote := fun (g : DirEntry) => { setDir h g with mem := (setDir h g).mem.setLine x.line d }
    let l := if k = 0 then { u with toPlot := u.toPlot.erase y } else { u with fromOwner := u.fromOwner.erase y }
    let toState := fun (g : L1State) (b : State) => setLineState b y.plot y.line (fun o => { o with st := g })
    let filled := fun (g : L1State) => setLineState l y.plot y.line (fun o => { o with st := g, data := d })
    let acked := sendHome l y.plot y.line .invAck
    s.cur = .at p n k v →
    (headHome u p n = some x →
      (((i = .gets ∧ x.msg = .gets ∧ req = .gets x.plot) ∨ (i = .getx ∧ x.msg = .getx ∧ req = .getx x.plot) ∨
          (i = .upg ∧ x.msg = .upg ∧ req = .upg x.plot) ∨ (i = .pute ∧ x.msg = .pute ∧ req = .pute x.plot) ∨
          (i = .putm ∧ x.msg = .putm d ∧ req = .putm x.plot d)) →
        (reaches h x.line p = none → does i u) ∧
        (reaches h x.line p = some w →
          (dirTransient e = false → does i (serveLine (serveReq w x.line req) x.line)) ∧
          (dirTransient e = true → queuedAt w (lineSlice x.line) < 512 → does i (setDir w { e with queue := e.queue ++ [req] })) ∧
          (dirTransient e = true → 512 ≤ queuedAt w (lineSlice x.line) → does i (sendPlot w x.plot x.line (.refused x.msg))))) ∧
      (x.msg = .invAck → e.st = .sx →
        (1 < e.count → does .invAck (setDir h { e with count := e.count - 1 })) ∧
        (e.count ≤ 1 →
          (∀ b, e.serving = some (.upg b) → does .invAck (serveLine (given b .grant) x.line)) ∧
          (∀ b, e.serving = some (.getx b) → does .invAck (serveLine (given b (.dataM (h.mem.line x.line))) x.line)) ∧
          (e.serving = some (.op r) →
            does .invAck (serveLine (performRef (setDir h { free with st := .i, sharers := [] }) r) x.line)))) ∧
      (x.msg = .fwdDone d keep →
        let kept := if keep then [e.owner] else []
        (∀ b, e.st = .emFs → e.serving = some (.gets b) →
          does .fwdDone (serveLine (wrote { free with st := .s, owner := 0, sharers := b :: kept }) x.line)) ∧
        (e.st = .emFs → e.serving = some (.read r) → does .fwdDone (serveLine
          (performRef (wrote { free with st := if keep then .s else .i, owner := 0, sharers := kept }) r) x.line)) ∧
        (∀ b, e.st = .emFx → e.serving = some (.getx b) ∨ e.serving = some (.upg b) →
          does .fwdDone (serveLine (setDir h { free with st := .em, owner := b, sharers := [] }) x.line)) ∧
        (e.st = .emFx → e.serving = some (.op r) →
          does .fwdDone (serveLine (performRef (wrote { free with st := .i, owner := 0, sharers := [] }) r) x.line))) ∧
      (x.msg = .read r → reaches h x.line p = some w →
        (∀ q, r = .part q → partAt w q = some (a, z) → z.kind = .replicated → does .homeRead (repRead w q x.line)) ∧
        ((∀ q, r = .part q → ∃ b, partAt w q = some b ∧ b.2.kind ≠ .replicated) →
          (rangeOf (64 * x.line) ≠ .hbm → does .homeRead (performRef w r)) ∧
          (rangeOf (64 * x.line) = .hbm → dirTransient e = false → does .homeRead (serveLine (serveReq w x.line (.read r)) x.line)) ∧
          (rangeOf (64 * x.line) = .hbm → dirTransient e = true → queuedAt w (lineSlice x.line) < 512 →
            does .homeRead (setDir w { e with queue := e.queue ++ [.read r] })) ∧
          (rangeOf (64 * x.line) = .hbm → dirTransient e = true → 512 ≤ queuedAt w (lineSlice x.line) →
            does .homeRead (refuseReq w x.line (.read r))))) ∧
      (x.msg = .op r → k ≠ 1 → n < 64 → reaches h x.line p = some w →
        (rangeOf (64 * x.line) ≠ .hbm → does .homeOperation (performRef w r)) ∧
        (rangeOf (64 * x.line) = .hbm → dirTransient e = false →
          does .homeOperation (serveLine (serveReq w x.line (.op r)) x.line)) ∧
        (rangeOf (64 * x.line) = .hbm → dirTransient e = true → queuedAt w (lineSlice x.line) < 512 →
          does .homeOperation (setDir w { e with queue := e.queue ++ [.op r] })) ∧
        (rangeOf (64 * x.line) = .hbm → dirTransient e = true → 512 ≤ queuedAt w (lineSlice x.line) →
          does .homeOperation (refuseReq w x.line (.op r))))) ∧
    (k = 1 → replayReady u n = some q → partAt u q = some (a, z) → ∀ b, z.pa = some b →
      let t := { u with homeWaiters := u.homeWaiters.erase (.replay n q) }
      (rangeOf (64 * (b / 64)) = .hbm → does .homeOperation (arriveReq t (b / 64) (.op (.part q)))) ∧
      (rangeOf (64 * (b / 64)) ≠ .hbm → does .homeOperation (performRef t (.part q)))) ∧
    (k ≠ 1 → 64 ≤ n → ∀ b bs, u.banks.filter (fun g => g.store == n - 64 && g.word % 64 == p) = b :: bs → b.atomic = true →
      b.cycle < u.cycles → (n - 64, p) ∉ u.served → does .homeOperation
        (performRef { countConflicts u (n - 64) p b.word [b] with
          served := (n - 64, p) :: (countConflicts u (n - 64) p b.word [b]).served } b.ref)) ∧
    ((k = 0 ∧ headPlot u p n = some y) ∨ (1 ≤ k ∧ (u.fromOwner.filter (fun m => m.plot == p))[k - 1]? = some y) →
      (l1At l y.plot y.line = some c →
        ((i = .dataS ∧ y.msg = .dataS d ∧ c.st = .isD →
          does i (kickL1 (filled .s) y.plot)) ∧
        (i = .dataE ∧ y.msg = .dataE d ∧ c.st = .isD → does i (kickL1 (filled .e) y.plot)) ∧
        (i = .dataM ∧ y.msg = .dataM d ∧ c.st = .imD → does i (answerHeld (kickL1 (filled .m) y.plot) y.plot y.line)) ∧
        (i = .dataS ∧ y.msg = .dataS d ∧ c.st = .isI →
          does i (kickL1 (dropLine (bindWaiting l y.plot y.line d) y.plot y.line) y.plot))) ∧
        (y.msg = .grant → c.st = .smD → does .grant (kickL1 (toState .m l) y.plot)) ∧
        (y.msg = .inv →
          (c.st = .s → does .inv (kickL1 (dropLine acked y.plot y.line) y.plot)) ∧
          (c.st = .smD → does .inv (toState .imD acked)) ∧
          (c.st = .isD → does .inv (markWaiting (toState .isI acked) y.plot y.line))) ∧
        (∀ b, y.msg = .fwd (Forward.mk .gets (some b)) → c.st = .e ∨ c.st = .m → does .fwdGets
          (sendHome (sendOwner (toState .s l) b y.line (.dataS c.data)) y.plot y.line (.fwdDone c.data true))) ∧
        (y.msg = .fwd (Forward.mk .gets none) → c.st = .e ∨ c.st = .m →
          does .fwdGets (sendHome (toState .s l) y.plot y.line (.fwdDone c.data true))) ∧
        (∀ b, y.msg = .fwd (Forward.mk .getx (some b)) → c.st = .e ∨ c.st = .m → does .fwdGetx
          (sendHome (sendOwner (dropLine l y.plot y.line) b y.line (.dataM c.data)) y.plot y.line (.fwdDone c.data false))) ∧
        (y.msg = .fwd (Forward.mk .getx none) → c.st = .e ∨ c.st = .m →
          does .fwdGetx (sendHome (dropLine l y.plot y.line) y.plot y.line (.fwdDone c.data false))) ∧
        ((i = .fwdGets ∧ f.kind = .gets) ∨ (i = .fwdGetx ∧ f.kind = .getx) → y.msg = .fwd f →
          (c.st = .imD → does i (setLineState l y.plot y.line (fun o => { o with held := o.held ++ [f] }))) ∧
          (c.st = .miA → does i (answerForward l y.plot y.line f))) ∧
        (y.msg = .putAck → c.st = .miA ∨ c.st = .iiA → does .putAck (kickL1 (dropLine l y.plot y.line) y.plot))) ∧
      (l1At l y.plot y.line = none → y.msg = .inv → does .inv acked) ∧
      (∀ b, y.msg = .refused b →
        let counted := countEvent l y.plot 0x15 (waitingCtx l y.plot y.line) 1
        (b ≠ .upg → does .requestReissue (sendHome counted y.plot y.line b)) ∧
        (b = .upg → l1At l y.plot y.line = some c →
          (c.st ≠ .imD → does .requestReissue (sendHome counted y.plot y.line .upg)) ∧
          (c.st = .imD → does .requestReissue (sendHome counted y.plot y.line .getx))))) ∧
    (rangeOf (64 * n) ≠ .hbm → does .backInvalidation u) ∧
    (rangeOf (64 * n) = .hbm → ∃ t, exec .backInvalidation s = .next t ∧ hostFlag t n = false ∧ t.mem = s.mem ∧ t.dir = (setHostFlag s n false).dir ∧
      t.toHome = s.toHome ∧ t.toPlot = s.toPlot ∧ t.fromOwner = s.fromOwner)

/-- The directory (R252): what the home of a line in state I, S or EM does with a request, once the line has passed through its L2
slice. A reader gets the line, alone in E; a writer gets it in M once no other plot shares it, or its ownership without data; an
owner is asked to forward it; an owner's write-back is written at the home and acknowledged, any other put only acknowledged; a
home operation is performed once no L1 has a copy, a home read once the owner has answered. -/
def Obligations.DirectoryRule : Prop :=
  ∀ (s : State) (line p : Nat) (d : LineData) (r : ReqRef),
    let z := fun (q : DirReq) => l2Request s line q
    let e := dirAt s line
    let others := e.sharers.filter (fun q => q != p)
    let owned := fun (t : State) (m : PlotMsg) =>
      sendPlot (setDir t { e with st := .em, owner := p, sharers := [], serving := none, count := 0 }) p line m
    let home := s.mem.line line
    let waits := fun (t : State) (l : List Nat) (q : DirReq) => l.foldl (fun t g => sendPlot t g e.line .inv)
      (setDir t { e with st := .sx, count := l.length, serving := some q })
    let asks := fun (t : State) (st : DirState) (q : DirReq) (k : FwdKind) (o : Option Nat) =>
      sendPlot (setDir t { e with st := st, serving := some q }) e.owner line (.fwd (Forward.mk k o))
    (e.st = .i →
      serveReq s line (.gets p) = owned (z (.gets p)) (.dataE home) ∧ serveReq s line (.getx p) = owned (z (.getx p)) (.dataM home) ∧
      serveReq s line (.upg p) = owned (z (.upg p)) (.dataM home) ∧ serveReq s line (.op r) = performRef s r) ∧
    (e.st = .s → p ∉ e.sharers →
      serveReq s line (.gets p) = sendPlot (setDir (z (.gets p)) { e with sharers := p :: e.sharers }) p line (.dataS home)) ∧
    (e.st = .s → others = [] → serveReq s line (.getx p) = owned (z (.getx p)) (.dataM home) ∧
      (p ∈ e.sharers → serveReq s line (.upg p) = owned (z (.upg p)) .grant)) ∧
    (e.st = .s → others ≠ [] → serveReq s line (.getx p) = waits (z (.getx p)) others (.getx p) ∧
      (p ∈ e.sharers → serveReq s line (.upg p) = waits (z (.upg p)) others (.upg p)) ∧
      (p ∉ e.sharers → serveReq s line (.upg p) = waits (z (.upg p)) others (.getx p))) ∧
    (e.st = .s → (e.sharers = [] → serveReq s line (.op r) = performRef (setDir s { e with st := .i }) r) ∧
      (e.sharers ≠ [] → serveReq s line (.op r) = waits s e.sharers (.op r))) ∧
    (e.st = .em → p ≠ e.owner →
      serveReq s line (.gets p) = asks (z (.gets p)) .emFs (.gets p) .gets (some p) ∧
      serveReq s line (.getx p) = asks (z (.getx p)) .emFx (.getx p) .getx (some p) ∧
      serveReq s line (.upg p) = asks (z (.upg p)) .emFx (.upg p) .getx (some p) ∧
      serveReq s line (.putm p d) = sendPlot (z (.putm p d)) p line .putAck ∧ serveReq s line (.pute p) = sendPlot s p line .putAck) ∧
    (e.st = .em → serveReq s line (.op r) = asks s .emFx (.op r) .getx none ∧
      serveReq s line (.read r) = asks s .emFs (.read r) .gets none) ∧
    (e.st = .em → p = e.owner →
      serveReq s line (.pute p) = sendPlot (setDir s { e with st := .i, owner := 0 }) p line .putAck ∧
      (∃ t, serveReq s line (.putm p d) = sendPlot { t with mem := t.mem.setLine line d } p line .putAck ∧
        t = setDir (z (.putm p d)) { e with st := .i, owner := 0 })) ∧
    ((e.st = .i ∨ e.st = .s) → serveReq s line (.pute p) = sendPlot s p line .putAck ∧
      serveReq s line (.putm p d) = sendPlot (z (.putm p d)) p line .putAck ∧ serveReq s line (.read r) = performRef s r)

/-- Streams, copies and the matrix engine: an accepted point of a chain sends its token and the chain goes on or ends (R221, R224); a
credit that waits is counted (R223, R310); an add and a join of a counter (R233 to R235); a chunk of a copy that has been written
(R282); a row that arrives at its port, or a port looked at again (R295); an `mwsw` at a row boundary, a written push, and a written
row (R303, R304, R306, R319); the next row of a gather and of a repeat, and a filler row (R309 to R311); the end of a comparison, clean,
faulty or uncorrectable, and of a drain (R319, R320, R323, R328); and a job of a tile, the rows of an `mst`
performed and those of an `mwr` read and added (R326, R329). Where a chain stands after a point on offer is assumption 30, an
accumulator that is DRAINED again 24, the rows of a repeat 37, and the chunks of a copy 38. -/
def Obligations.EngineSteps : Prop :=
  ∀ (s : State) (p n k q : Nat) (v : List Nat) (x : Chain) (cf : ChainForm) (add : ChannelAdd) (join : ChannelJoin) (req : CopyReq)
    (wt : Waiting) (f : RowFlight) (sw : SlotChange) (row : ArrayRow) (rows : List ArrayRow) (c : Copy) (g : Gather)
    (src : Nat × BitVec 6) (rest : List (Nat × BitVec 6)) (fill : Filler) (fills : List Filler) (chk : Check) (l : Located)
    (jb : TileJob) (hd : Head) (idx : Bool) (dd : BitVec 2) (ww : BitVec 6) (job : RepJob) (rrows : List Row) (pace : Bool),
    let u := { s with cur := .idle }
    let does := fun (i : Instr) (t : State) => exec i s = .next t
    let tile := tileAt u p n
    let acc := accOf tile k
    let slot := BitVec.ofNat 7 k
    let rep := collectRows (repeatAt tile slot)
    let offered := sendAll u p x.block (sendTo cf.head.t0 (Token.mk { x.env with tag := pointTag x cf.w q } (pointPacket x cf.idx q)))
    let cleared := { acc with located := none }
    let faulty := fun (t : State) (st : AccState) (w : Option Located) (e : FaultInfo) (code : Nat) =>
      let y := putAcc t p n k { cleared with st := st, located := w, check := none, failed := failedSet chk <|> acc.failed }
      if chk.kind = .mfix then sendHeld y p chk.held (statusPacket code) else failCheck y p chk.held e
    s.cur = .at p n k v →
    ((plotAt u p).chains[n]? = some x → chainForm u p x = some cf → mayStart u p x.block x.env.gslot = true → x.sent = some q →
      (x.moves = false → does .pointAccepted (runChain offered p { x with sent := none } cf)) ∧
      (x.moves = true → x.state = .running → x.points ≤ q + 1 → does .pointAccepted (endChain offered p { x with sent := none } cf)) ∧
      (x.moves = true → x.state ≠ .running ∨ q + 1 < x.points →
        does .pointAccepted (runChain offered p { x with sent := none, p := q + 1 } cf))) ∧
    ((plotAt u p).blocks.copies[n]? = some c → copyLive c = true →
      (stationInstr c slot = .ok (.cchn hd idx dd ww) → creditWaiting c slot 1 (chainCounts (chainAt u p c.id slot)) = some wt →
        does .creditArrival (setChain (dropWaiting u p c.id wt) p
          (offerPoint true { chainAt u p c.id slot with credit := (chainAt u p c.id slot).credit + 1 }))) ∧
      (stationInstr c slot = .ok (.mrep hd true) → creditWaiting c slot 2 (fun _ => true) = some wt →
        (repeatAt (tileAt u p (firingTile c)) slot).credit < 65535 → does .creditArrival
          (modTile (dropWaiting u p c.id wt) p (firingTile c) (fun y => setRepeat y { repeatAt (tileAt u p (firingTile c)) slot with
            credit := (repeatAt (tileAt u p (firingTile c)) slot).credit + 1 })))) ∧
    ((plotAt u p).unit.adds[n]? = some add → mayStart u p add.held.block (heldEnv add.held).gslot = true →
      let o := openChannel (modUnit u p (fun y => { y with adds := y.adds.eraseIdx n })) p add.held.block.ctx add.ch (heldEnv add.held)
      does .counterAdd (sendHeld (workChannel o p add.held.block.ctx add.ch (heldEnv add.held)
        (fun y => { y with value := y.value + BitVec.ofNat 48 add.add })) p add.held (heldPassed add.held))) ∧
    ((plotAt u p).unit.joins[n]? = some join → mayStart u p join.held.block (heldEnv join.held).gslot = true →
      let o := openChannel (modUnit u p (fun y => { y with joins := y.joins.eraseIdx n })) p join.held.block.ctx join.ch (heldEnv join.held)
      does .ctkwJoin (workChannel o p join.held.block.ctx join.ch (heldEnv join.held)
        (fun y => { y with waiters := y.waiters ++ [ChannelWaiter.mk join.held join.m] }))) ∧
    (engineRequest u p n = some req → req.phase = .writing q → requestsDone u (copyOwner n req) = true →
      does .chunkDone (putCopy u p n { req with phase := .idle, piece := req.piece.bind (fun y => afterChunk y q) })) ∧
    (k = 0 → u.rows[n]? = some f → (copyOf u f.dest.plot f.dest.block).any copyLive = true → firstOfSource u n f = true →
      (portRows (engineOf u f.dest.plot f.dest.block) f.dest.slot).length < 16 →
      let o := { u with rows := u.rows.eraseIdx n }
      does .rowArrival (tryLatches (pullPort (modTile o f.dest.plot (tileOf o f.dest.plot f.dest.block)
        (fun y => setPort y f.dest.slot (portRows y f.dest.slot ++ [f.row]))) f.dest.plot f.dest.block f.dest.slot) f.dest.plot f.dest.block)) ∧
    (k ≠ 0 → copyOnTile u p (k - 1) = some c → does .rowArrival (tryLatches (pullPort u p c.id (BitVec.ofNat 7 n)) p c.id)) ∧
    (tile.switch = some sw → does .rowBoundarySwitch (tryLatches (passTrigger
      (modTile u p n (fun y => { weightChange y y.act with act := sw.weights, switch := none })) p sw.held 0) p sw.held.block)) ∧
    (acc.st = .swap → accInArray tile k = false → writesInto tile k = false →
      let o := modTile u p n (fun y => setAcc y k
        { pushAcc acc (weightsOf tile acc.bound) with st := if acc.check.isSome then .checking else .open })
      copyOnTile o p n = some c → does .pushWritten (tryLatches o p c.id)) ∧
    (tile.array = row :: rows → copyOnTile u p n = some c →
      let a := reportRow u p c.id row (writeRow (accOf tile row.acc) row.row (weightsOf tile row.weights))
      does .rowResultWritten (tryLatches (sendAll (modTile u p n (fun y => { setAcc y row.acc a.1 with array := rows })) p c.id a.2) p c.id)) ∧
    (tile.gather = some g → g.left = src :: rest → 1 ≤ g.asked → requestsDone u (rowOwner g 0 n) = true →
      mayStart u p g.held.block (heldEnv g.held).gslot = true → rowPathOpen u p g.held.block g.held.head true = true →
      does .gatherRowSent (modTile (sendRow { dropReads u (rowOwner g 0 n) with fresh := u.fresh + 32 } p g.held.block g.held.set.slot g.held.head
          (Row.mk (heldEnv g.held) g.ft src.2 (BitVec.ofNat 1088 (readOrFree u (rowOwner g 0 n) (rowBytes g.ft)))))
        p n (fun y => { y with gather := if rest.isEmpty then none else some { g with left := rest, asked := g.asked - 1 } }))) ∧
    (rep.job = some job → mayStart u p job.held.block (heldEnv job.held).gslot = true →
      let o := pullPort (modTile u p n (fun y => setRepeat y rep)) p job.held.block slot
      let r := repeatAt (tileAt o p n) slot
      let paid := pace && decide (1 ≤ job.pass) && job.pos == 0
      job.rows = some rrows → instrAt o p job.held.block slot = some (.mrep hd pace) →
      (job.cnt ≤ job.pass → does .mrepPass (sendPasses (modTile o p n (fun y => setRepeat y { r with job := none })) p job)) ∧
      (∀ y, job.pass < job.cnt → rrows[job.pos]? = some y → rowPathOpen o p job.held.block { job.held.head with t2 := none } false = true →
        (paid = true → 0 < r.credit) →
        let sent := sendRow o p job.held.block r.slot { job.held.head with t2 := none } y
        let r' := { r with credit := if paid then r.credit - 1 else r.credit }
        (job.pos + 1 < rrows.length →
          does .mrepPass (modTile sent p n (fun y => setRepeat y { r' with job := some { job with pos := job.pos + 1 } }))) ∧
        (rrows.length ≤ job.pos + 1 → job.pass + 1 = job.cnt →
          does .mrepPass (sendPasses (modTile sent p n (fun y => setRepeat y { r' with job := none })) p job)) ∧
        (rrows.length ≤ job.pos + 1 → job.pass + 1 ≠ job.cnt →
          does .mrepPass (modTile sent p n (fun y => setRepeat y { r' with job := some { job with pass := job.pass + 1, pos := 0 } }))))) ∧
    (tile.fillers = fill :: fills → mayStart u p fill.held.block (heldEnv fill.held).gslot = true →
      (fill.left ≤ 1 → does .fillerRow (sendFilled (modTile u p n (fun y => { y with fillers := fills })) p fill)) ∧
      (1 < fill.left → does .fillerRow (modTile u p n (fun y => { y with fillers := { fill with left := fill.left - 1 } :: fills })))) ∧
    (acc.check = some chk → acc.st = .checking → acc.draining = false →
      (comparesBad acc = true → does .comparisonEnd (faulty { u with fresh := u.fresh + 1 } .faultMulti none
        (FaultInfo.mk causeMemUncorrectable 0 (Config.freeWord u.fresh)) 3)) ∧
      (comparesBad acc = false →
        (compareAcc cleared = .located l → does .comparisonEnd (faulty u .faultLoc (some l)
          (FaultInfo.mk causeChkLocated 0 (BitVec.ofNat 64 (handleNat n k))) 2)) ∧
        (compareAcc cleared = .multiple → does .comparisonEnd (faulty u .faultMulti none
          (FaultInfo.mk causeChkMulti 0 (BitVec.ofNat 64 (handleNat n k))) 3)) ∧
        (compareAcc cleared = .clean → chk.kind = .mchk ∨ chk.kind = .mfix → does .comparisonEnd
          (sendHeld (putAcc u p n k { cleared with st := .clean, check := none }) p chk.held (statusPacket 0))) ∧
        (∀ a b t, compareAcc cleared = .clean → chk.kind = .mdrn a b →
          drainTranslate u p chk.held.block.ctx a b (64 * outBytes (drainForm u p chk.held).outf) = .ok t →
          does .comparisonEnd (putAcc t p n k { cleared with draining := true })))) ∧
    (tile.jobs[k]? = some jb →
      let drop := fun (t : State) => modTile t p n (fun y => { y with jobs := y.jobs.eraseIdx k })
      (jb.kind = .store → requestsDone u (.drain jb.id n) = true → endJob u p n k = sendHeld (drop u) p jb.held (statusPacket 0)) ∧
      (∀ (a : BitVec 3) (cls : RunCls) (f m : Nat), jb.kind = .write a cls f m → requestsDone u (.gather jb.id n) = true →
        let o := accOf tile a.toNat
        let g := (heldEnv jb.held).gslot
        let read := drop (dropReads { u with fresh := u.fresh + 4096 } (.gather jb.id n))
        (admits o g = true ∨ (o.st = .swap ∧ o.gslot = g) → endJob u p n k = sendHeld (putAcc read p n a.toNat
          (writeRows u jb { o with st := if o.st = .clean then .open else o.st } f m n)) p jb.held (statusPacket 0)) ∧
        (o.st = .empty ∨ o.st = .drained → endJob u p n k =
          sendHeld (drop (dropReads u (.gather jb.id n))) p jb.held (statusPacket 1)))) ∧
    (acc.check = some chk → chk.writes = some q → requestsDone u (.drain q n) = true →
      let form := drainForm u p chk.held
      let t := sendAll (putAcc u p n k { acc with st := .drained, check := none, draining := false }) p chk.held.block
        (drainStatus form.done chk.held 0)
      (form.done = false → does .drainPerformed t) ∧
      (form.done = true → form.scope ≠ .system ∨ requestsSys t (.drain q n) = true → does .drainPerformed (copyDone t p chk.held)) ∧
      (form.done = true → form.scope = .system → requestsSys t (.drain q n) = false →
        does .drainPerformed (modTile t p n (fun y => { y with jobs := y.jobs ++ [TileJob.mk chk.held q .drain] }))))

/-- Groups (R276, R339 to R344, R354, R380, R383): a group is placed in a free slot with its region; its dispatch tokens are sent in
order and the last makes it RUNNING; with nothing of it live it is RETIRING; it retires, its undelivered messages counted, what its
stores still wait for handed to its kernel, its resources freed and its end counted in its record; a child's end is counted at its
parent's record, before the message that is sent for it; a kernel whose completion record has been written ends when each of its
writes has been answered, and not before (R381); a spilled post returns to its port; a barrier's completion signal releases the firings
that wait for it. -/
def Obligations.GroupSteps : Prop :=
  ∀ (s : State) (p n k : Nat) (v : List Nat) (pl : Placing) (x : Group) (cd : ChildDone) (kr : KernelRef) (pk : Packet)
    (rest : List Packet) (sg : Signal),
    let u := { s with cur := .idle }
    let does := fun (i : Instr) (t : State) => exec i s = .next t
    let g := BitVec.ofNat 3 n
    s.cur = .at p n k v →
    (nextPlacing u = some pl → does .groupPlacement (placeGroup u pl)) ∧
    (groupAt u p g = some x →
      (x.phase = .placed → (ctxAt u x.ctx).phase = .running →
        let w := sendEntry u .dispatch p (BlockId.mk x.ctx x.obj x.entry) 0 0
          (Token.mk (Envelope.mk 0 (BitVec.ofNat 10 x.nextThread) g 0 []) (word64Packet x.argVa))
        (x.nextThread + 1 < x.threads → does .dispatchToken (modGroup w p g (fun y => { y with nextThread := y.nextThread + 1 }))) ∧
        (x.threads ≤ x.nextThread + 1 → does .dispatchToken (countEvent
          (modGroup w p g (fun y => { y with nextThread := y.nextThread + 1, phase := .running })) p 0x1C (some x.ctx) 1))) ∧
      (x.phase = .running → groupLive u p g x = false → does .quiescence (modGroup u p g (fun y => { y with phase := .retiring }))) ∧
      (mayRetire u p g x = true →
        let held := ((x.ports ++ x.portSpill).map List.length).sum
        let d := dropOrphans u
        let d := countEvent (if held = 0 then d else countEvent d p 0x1B (some x.ctx) held) p 0x1D (some x.ctx) 1
        let d := handStores d p g x.record
        let d := modPlot { d with engReqs := d.engReqs.filter (fun q => !(groupEng p g q && q.fault.isSome)) } p (freeGroupState g)
        does .groupRetired (kickUnit (countRetired (dropObject d p x.ctx x.obj) x) p)) ∧
      (x.portSpill.getD k [] = pk :: rest → (x.ports.getD k []).length < 16 → does .portSpillReturn (kickUnit
        (modGroup u p g (fun y => { y with ports := y.ports.modify k (fun l => l ++ [pk]), portSpill := y.portSpill.set k rest })) p))) ∧
    (u.childDone[n]? = some cd →
      let o := { u with childDone := u.childDone.eraseIdx n }
      (openKernel o cd.parent = none → does .childCompletion (sendMessage o cd.message)) ∧
      (openKernel o cd.parent = some kr →
        let w := setRecChild o kr.pa (recChild o kr.pa - 1)
        let w := sendMessage { w with kernels := w.kernels.map (fun y =>
          if y.pa = kr.pa then { y with childFaulted := y.childFaulted || cd.faulted } else y) } cd.message
        (recState w kr.pa = kDraining → does .childCompletion (checkKernel w kr.pa)) ∧
        (recState w kr.pa ≠ kDraining → does .childCompletion w))) ∧
    (kernelOf u n = some kr → kr.finish = .written k →
      let open_ := ∃ q ∈ requestsOf u (.record n), q.fault = none
      (open_ → advanceFinish u n = u) ∧ (¬ open_ → advanceFinish u n = endKernel u kr k)) ∧
    ((plotAt u p).unit.signals.find? (fun x => slotRuns u p x.gslot) = some sg →
      let ws := (plotAt u p).unit.barWaiters.filter (released sg)
      let w := modUnit u p (fun y => { y with
        signals := (plotAt u p).unit.signals.erase sg, barWaiters := y.barWaiters.filter (fun w => !released sg w) })
      let b := barrierAt w p sg.gslot sg.bar
      does .completionSignal (ws.foldl (fun w y => sendHeldBack w p y.held (barPacket 1 y.phase))
        (setBarrier w p sg.gslot sg.bar { b with waiters := b.waiters - ws.length })))

/-- Queues (R362 to R376): ENABLE, DISABLE and CLEAR; what wakes an armed queue: a kick, a store to the line it watches, the end of
its back-off; the read of a header, in its turn on its die, which arms the watch and the back-off of an empty slot; the body read,
with the packet consumed, an error, or a NOP; the next slot of an IDLE queue. A command reaches the queues of its die only (R367). A packet whose slot cannot be
cleared meets that error before it has any effect (assumption 32), and one that the record buffer has no room for waits (assumption
25). -/
def Obligations.QueueSteps : Prop :=
  ∀ (s w w' w'' : State) (p n k h : Nat) (v : List Nat) (code : BitVec 8) (e : FaultInfo) (rest : List Sched),
    let u := { s with cur := .idle }
    let does := fun (i : Instr) (t : State) => exec i s = .next t
    let q := n % 1024
    let x := queueAt u q
    let d := engineRead u (descAddr u q) 64
    let armed := queueOfDesc d
    let woken := x.due.or (some u.cycles)
    let met := walkMet u (queuePlot n) .queue
    let kept := fun (t : State) => keepRingLine (dropPeer t x.ctx (fun _ => true)) (slotLine t n x)
    let empty := fun (t : State) => { x with
      phase := .armed, due := none, watch := slotLine t n x, hit := false
      expiry := (kept t).timers.getD (queueDie n) 0 + x.interval, interval := min 6400 (2 * x.interval) }
    s.cur = .at p n k v →
    (queueDie q ≠ p % 4 → does .enable u ∧ does .disable u ∧ does .clear u) ∧
    (queueDie q = p % 4 →
      (x.phase = .disabled → descValid d = true → does .enable (putQueue u q { armed with phase := .armed, due := some u.cycles })) ∧
      (x.phase = .disabled → descValid d = false → does .enable (queueError (setQueue u q armed) q 0x02)) ∧
      (x.phase ≠ .disabled → does .enable u) ∧
      (x.phase = .error → descValid d = true → does .clear (putQueue u q { armed with phase := .armed, due := some u.cycles })) ∧
      (x.phase = .error → descValid d = false → does .clear (queueError (setQueue u q armed) q 0x02)) ∧
      (x.phase ≠ .error → does .clear u) ∧
      (x.phase = .fetching → does .disable (setQueue u q { x with stopping := true })) ∧
      (x.phase = .disabled → does .disable u) ∧
      (x.phase ≠ .fetching → x.phase ≠ .disabled →
        does .disable (putQueue u q { x with phase := .disabled, due := none, watch := none, hit := false }))) ∧
    (x.phase = .armed →
      does .kick (setQueue u q { x with due := woken, interval := 100 }) ∧
      (x.hit = true → does .watchWake (setQueue u q { x with due := woken, hit := false })) ∧
      (x.hit = false → does .watchWake u) ∧
      (x.expiry ≤ u.timers.getD (queueDie q) 0 → does .backoffExpiry (setQueue u q { x with due := woken })) ∧
      (u.timers.getD (queueDie q) 0 < x.expiry → does .backoffExpiry u)) ∧
    (n < 1024 → replayPacket u n x = none →
      (x.phase = .armed → x.due.isSome = true → queueReads u x.ctx = true → fetchingOn u (queueDie n) < 4 →
        (∀ y ∈ u.queues, y.1 < n → queueDie y.1 = queueDie n → y.2.phase = .armed → y.2.due = x.due → queueReads u y.2.ctx = false) →
        (walkWaits u (queuePlot n) .queue 65537 x.ctx [(.userLoad, slotAddress x)] = some w → does .headerRead w) ∧
        (walkWaits u (queuePlot n) .queue 65537 x.ctx [(.userLoad, slotAddress x)] = none →
          (readRing met n x 0 8 = .error code → does .headerRead (queueError (ringWalk met n x 0 8) n code)) ∧
          (readRing met n x 0 8 = .ok (w, h) → h % 256 = 0 → does .headerRead (putQueue (kept w) n (empty w))) ∧
          (readRing met n x 0 8 = .ok (w, h) → h % 256 ≠ 0 → does .headerRead
            (putQueue (kept w) n { x with phase := .fetching, due := none, watch := none, hit := false, header := BitVec.ofNat 64 h })))) ∧
      (x.phase = .fetching → walkWaits u (queuePlot n) .queue 65537 x.ctx [(.userLoad, slotAddress x)] = some w →
        does .packetConsume w) ∧
      (x.phase = .fetching → walkWaits u (queuePlot n) .queue 65537 x.ctx [(.userLoad, slotAddress x)] = none →
        (readRing met n x 8 56 = .error code → does .packetConsume (queueError (ringWalk met n x 8 56) n code)) ∧
        (readRing met n x 8 56 = .ok (w, h) →
          let ws := packetWords x.header h
          let read := walkMet w (queuePlot n) .queue
          let logged := recordEntry read x.ctx recQueue n (x.rp.setWidth 64 :: ws)
          (walkWaits w (queuePlot n) .queue 65537 x.ctx (packetPages w n x ws true) = some w' → does .packetConsume w') ∧
          (walkWaits w (queuePlot n) .queue 65537 x.ctx (packetPages w n x ws true) = none →
            (slotHeld read n x = true → does .packetConsume read) ∧
            (slotHeld read n x = false → recordFits read x.ctx 9 = false → does .packetConsume (awaitRecord read n x)) ∧
            (slotHeld read n x = false → recordFits read x.ctx 9 = true →
              (packetError ws = some code → does .packetConsume (queueError logged n code)) ∧
              (packetError ws = none → ringError logged n x none = some code → does .packetConsume
                (queueError (walked logged (queuePlot n) x.ctx .userStore [slotAddress x]) n code)) ∧
              (packetError ws = none → ringError logged n x none = none →
                (bitsOf (ws.getD 0 0).toNat 0 8 = 2 → does .packetConsume
                  (packetDone (if (ws.getD 0 0).getLsbD 10 then queueMessage logged n else logged) n x none)) ∧
                (bitsOf (ws.getD 0 0).toNat 0 8 = 1 →
                  (launchKernel logged n x ws = .ok w'' → does .packetConsume (packetDone w'' n x none)) ∧
                  (launchKernel logged n x ws = .error code →
                    does .packetConsume (queueError (launchWalk logged n x ws) n code))))))))) ∧
    (slotPieces w n x = .error e → ringError w n x none = some e.cause) ∧
    (s.sched = .slot n :: rest → ∀ y, queueAt { s with sched := rest } q = y → y.phase = .idle →
      step s = settleStep (.next (putQueue { s with sched := rest } q { y with phase := .armed, due := some s.cycles })))

/-- The loader (R392 to R399, R404): the checks of a full load in their order, the image that it selects and the result of its
placement; a cached load; a floor raise; a request turned away because the queue is full; and the write that makes a request. The bits
of an entry's signature that an error has changed, the translator's answer and its version are inputs of the load (assumptions 9 and
11); a load waits while a line of its area is not at rest (assumption 13). The test of the headland context's key slot before the
signature is assumption 9, the results that the rules leave open 31. -/
def Obligations.LoaderSteps : Prop :=
  ∀ (s : State) (p n k pa r : Nat) (v bs : List Nat) (d : DirImage) (st nblk len image : Nat) (e : CacheEntry),
    let u := { s with cur := .idle }
    let does := fun (i : Instr) (t : State) => exec i s = .next t
    let c := BitVec.ofNat 12 (bytesAt r 4 2)
    let kind := bytesAt r 0 2
    let kobj := BitVec.ofNat 64 (bytesAt r 16 8)
    let area := bytesAt r 24 8
    let noTrans := bitsOf r 16 1 == 1
    let noCache := bitsOf r 17 1 == 1
    let floor := u.dev.floor.toNat
    let fails := fun (i : Instr) (digest code : Nat) => does i (endRequest u pa digest code 0 0)
    let placed := fun (i : Instr) (t : State) (x : Selected) (digest step secver : Nat) (src : Option Nat) =>
      let w := writeImage (discardObject t c kobj) c kobj x src
      let busy := (areaLines t c kobj (imageLen x)).any (fun l => rangeOf (64 * l) == .hbm && !quiet t l)
      (placementSound t c kobj area x = false → does i (endRequest t pa digest loadArea 0 0)) ∧
      (placementSound t c kobj area x = true → busy = true → does i u) ∧
      (placementSound t c kobj area x = true → busy = false → w.2 = true → does i (endRequest
        (modCtx w.1 c (fun y => { y with objects := Loaded.mk kobj (tableBytes x) :: y.objects })) pa digest loadOk step secver)) ∧
      (placementSound t c kobj area x = true → busy = false → w.2 = false → does i (endRequest w.1 pa digest loadArea 0 0))
    s.cur = .at p n k v →
    (headRequest u = some (pa, r) →
      (kind ≠ 1 → kind ≠ 2 → kind ≠ 3 → fails .fullLoad 0 loadFormat) ∧
      (kind = 1 ∨ kind = 2 →
        let i : Instr := if kind = 1 then .fullLoad else .cachedLoad
        (requestSound r = false → fails i 0 loadFormat) ∧
        (requestSound r = true → loadCtx u c = .fail → fails i 0 loadContext) ∧
        (requestSound r = true → loadCtx u c = .wait → does i u)) ∧
      (kind = 1 → requestSound r = true → loadCtx u c = .pass →
        let a := bytesAt r 8 8
        let head := engineRead u a 64
        let o := engineRead u a (objLen head)
        let digest := objDigest o
        let x := selectImage o devGen u.dev.step.toNat nblk len (image % 256 ^ len)
        (inHbmOrHost a 64 = false → fails .fullLoad 0 loadFormat) ∧
        (inHbmOrHost a 64 = true → bytesAt head 0 4 ≠ 0x5A4B4F31 ∨ inHbmOrHost a (objLen head) = false → fails .fullLoad 0 loadFormat) ∧
        (inHbmOrHost a 64 = true → bytesAt head 0 4 = 0x5A4B4F31 → inHbmOrHost a (objLen head) = true →
          (objectSound o = false → fails .fullLoad 0 loadFormat) ∧
          (objectSound o = true → c = headland → objKey o ≠ 0 → fails .fullLoad digest loadContext) ∧
          (objectSound o = true → c ≠ headland ∨ objKey o = 0 →
            (objectSigned o = false → fails .fullLoad digest loadSignature) ∧
            (objectSigned o = true → objSecver o < floor → fails .fullLoad digest loadSecver) ∧
            (objectSigned o = true → floor ≤ objSecver o →
              (nativeImage u o = some (d, st) → placed .fullLoad u
                (selectImage o d.gen d.stepping d.nblk d.len (bytesAt o d.ofs d.len)) digest st (objSecver o) (some (a + d.ofs))) ∧
              (nativeImage u o = none → noTrans = true ∨ objSlofs o = 0 → fails .fullLoad digest loadNoImage) ∧
              (nativeImage u o = none → noTrans = false → objSlofs o ≠ 0 →
                let entry := cacheEntry u (BitVec.ofNat 256 digest) n
                let good := entryHolds e k = true ∧ floor ≤ e.sv
                let ends := fun (t : State) (code : Nat) => does .fullLoad (endRequest t pa digest code 0 0)
                let fresh := fun (t : State) =>
                  (v.length ≠ 3 → ends t loadTranslate) ∧
                  (v = [nblk, len, image] →
                    let sound := translationFits t c x && translationSound (bytesAt o (objSlofs o) (objSllen o)) (objSllen o) x
                    let key := sealEntry (CacheEntry.mk (BitVec.ofNat 256 digest) devGen u.dev.step.toNat n (objSecver o) x 0)
                    let kept := { t with cache := key :: t.cache.filter (fun y => !keyMatches t key.digest n y) }
                    (sound = false → ends t loadVerify) ∧
                    (sound = true → placed .fullLoad (if noCache then t else kept) x digest 4 (objSecver o) none))
                (entry = some e → good → translationFits u c (cachedImage o e) = false → fails .fullLoad digest loadVerify) ∧
                (entry = some e → good → translationFits u c (cachedImage o e) = true →
                  placed .fullLoad u (cachedImage o e) digest 3 (objSecver o) none) ∧
                (entry = some e → ¬ good → fresh { u with cache := u.cache.filter (fun y => !keyMatches u (BitVec.ofNat 256 digest) n y) }) ∧
                (entry = none → fresh u)))))) ∧
      (kind = 2 → requestSound r = true → loadCtx u c = .pass →
        let entry := cacheEntry u (BitVec.ofNat 256 (bytesAt r 32 32)) n
        let without := fun (e : CacheEntry) => { u with cache := u.cache.filter (fun y => !keyMatches u e.digest e.version y) }
        (noTrans = true ∨ entry = none → fails .cachedLoad 0 loadNoImage) ∧
        (noTrans = false → entry = some e →
          (entryHolds e k = false → does .cachedLoad (endRequest (without e) pa 0 loadNoImage 0 0)) ∧
          (entryHolds e k = true → e.sv < floor → does .cachedLoad (endRequest (without e) pa e.digest.toNat loadRevoked 0 0)) ∧
          (entryHolds e k = true → floor ≤ e.sv → c = headland → objKey e.held.header ≠ 0 → fails .cachedLoad e.digest.toNat loadContext) ∧
          (entryHolds e k = true → floor ≤ e.sv → c ≠ headland ∨ objKey e.held.header = 0 →
            (translationFits u c e.held = false → fails .cachedLoad e.digest.toNat loadVerify) ∧
            (translationFits u c e.held = true → placed .cachedLoad u e.held e.digest.toNat 3 e.sv none)))) ∧
      (kind = 3 →
        let signed := slotAccepts 0 (littleBytes 32 (bytesAt r 32 32)) (swapBytes 32 (bytesAt r 104 32)) (swapBytes 32 (bytesAt r 136 32))
        let asked := bytesAt r 32 2
        (flagsSound r = false → fails .floorRaise 0 loadFormat) ∧
        (flagsSound r = true → signed = false → fails .floorRaise 0 loadSignature) ∧
        (flagsSound r = true → signed = true → bytesAt r 34 2 = 0 → bytesAt r 36 4 = u.dev.peerid.toNat → bytesAt r 40 24 = 0 →
          floor < asked → u.dev.left ≠ 0 → does .floorRaise (endRequest
            { u with dev := { u.dev with floor := BitVec.ofNat 16 asked, left := u.dev.left - 1 } } pa 0 loadOk 0 0)) ∧
        (flagsSound r = true → signed = true → bytesAt r 34 2 ≠ 0 ∨ bytesAt r 36 4 ≠ u.dev.peerid.toNat ∨ bytesAt r 40 24 ≠ 0 ∨
          asked ≤ floor ∨ u.dev.left = 0 → fails .floorRaise 0 loadFormat))) ∧
    (u.busyLoads = pa :: bs → does .loadBusy (writeResult { u with busyLoads := bs } pa loadBusyCode 0 0)) ∧
    (let b := ((BitVec.ofNat 64 n).extractLsb' 7 45).toNat * 128
      let size := if inHbmOrHost b 128 = true ∧ engineRead u b 2 = 3 then 168 else 128
      (inHbmOrHost b size = false → does .obreqWrite u) ∧
      (inHbmOrHost b size = true → u.loads.length < 16 → does .obreqWrite { u with loads := u.loads ++ [b] }) ∧
      (inHbmOrHost b size = true → 16 ≤ u.loads.length → does .obreqWrite { u with busyLoads := u.busyLoads ++ [b] }))

/-- Contexts (R407 to R421, R437, R509): each command of CTXCTL on a context whose state accepts it, with the effect of the
state table; refused anywhere else, with only LASTCMD and the refusal noted; idling, expiry; a stall, made once a plot with a live
group has consumed no set for CTXSTL whole plot cycles and not before (the counter stands at 0 in the cycle of a set, so it exceeds
CTXSTL then); and the acknowledgement of a stop, which an engine class of a plot, a queue engine or a home returns when nothing of the
context runs in it, having saved its part, the last one ending the stop. -/
def Obligations.ContextSteps : Prop :=
  ∀ (s : State) (p n k : Nat) (v : List Nat) (yielded : Bool),
    let u := { s with cur := .idle }
    let does := fun (i : Instr) (t : State) => exec i s = .next t
    let c := BitVec.ofNat 12 n
    let x := ctxAt u c
    let r := recordRegs u c
    let stl := (regsOn u c p).stl
    let a := stopUnitOf p k
    let noted := fun (cmd : Command) => noteCommand u c cmd false
    s.cur = .at p n k v →
    (c ≠ headland →
      (x.phase = .free → areasSound r = true → does .create (writeState (createContext (noted .create) c) c)) ∧
      (x.phase = .loaded → does .start
        (writeState (modCtx (noted .start) c (fun y => { y with phase := .runnable, regs := recordRegs (noted .start) c })) c)) ∧
      (x.phase = .saved → ∀ slot, freeSlot u = some slot → areasSound r = true →
        (x.recMode = .off ∨ bufferSound r = true) → does .resume (writeState (restoreContext (noted .resume) c slot) c)) ∧
      (x.phase = .running ∨ x.phase = .preempting →
        (k % 2 ^ 24 = 0 → does .preempt (writeState (requestStop (noted .preempt) c flagPreempt causeDeadline false false) c)) ∧
        (k % 2 ^ 24 ≠ 0 → does .preempt (writeState (grantGrace (noted .preempt) c (k % 2 ^ 24)) c)) ∧
        does .freeze (writeState (requestStop (noted .freeze) c flagFreeze causeDeadline true false) c)) ∧
      (x.phase = .frozen → does .thaw (writeState
        (let w := modCtx (writeBack (noted .thaw) c) c (fun y => { y with phase := .saved })
        if (ctxAt w c).flags.getLsbD 5 || (ctxAt w c).flags.getLsbD 6 then contextMessage w c else w) c)) ∧
      (x.phase ≠ .free → x.phase ≠ .dead → does .kill (writeState (killContext (noted .kill) c) c)) ∧
      (x.phase = .dead → does .release (writeState (releaseContext (noted .release) c) c)) ∧
      (x.phase = .loaded ∨ x.phase = .saved →
        (bufferSound r = true → does .record (writeState (setMode (noted .record) c .record) c) ∧
          does .replay (writeState (setMode (noted .replay) c .replay) c)) ∧
        does .norecord (writeState (setMode (noted .norecord) c .off) c))) ∧
    (∀ cmd i, (i, cmd) ∈ [(Instr.create, Command.create), (.start, .start), (.resume, .resume), (.preempt, .preempt),
        (.freeze, .freeze), (.thaw, .thaw), (.kill, .kill), (.release, .release), (.record, .record), (.replay, .replay),
        (.norecord, .norecord)] →
      (c = headland ∨ accepts u c cmd = false) → does i (writeState (noteCommand u c cmd true) c)) ∧
    (x.phase = .running → 4096 ≤ x.idle → hasGroup u c = false → requestPending x = false → does .contextIdle (idleContext u c)) ∧
    ((x.counts.getD p (freshSlice 0)).late = some yielded → x.phase = .running →
      let w := modCount u c p (fun y => { y with late := none })
      does .expiry (writeState (if yielded then requestStop w c flagYield 0 false false
        else requestStop w c flagDeadline causeDeadline false false) c)) ∧
    (x.phase = .running → stl ≠ 0 → stl.toNat < (x.counts.getD p (freshSlice 0)).idle → liveOn u p c = true →
      does .stall (writeState (requestStop u c flagStall causeDeadline false false) c)) ∧
    (x.phase ≠ .running ∨ stl = 0 ∨ (x.counts.getD p (freshSlice 0)).idle ≤ stl.toNat ∨ liveOn u p c = false → does .stall u) ∧
    (x.phase ≠ .preempting ∨ x.unacked.contains a = false → does .acknowledgement u) ∧
    (x.phase = .preempting → x.unacked.contains a = true →
      let w := match a with
        | .plot q _ => retireQuiet u q c
        | .queueEngine _ | .home _ => u
      let o := modCtx (stopUnit w c a) c (fun y => { y with unacked := y.unacked.erase a })
      (unitStopped w c a = false → does .acknowledgement w) ∧
      (unitStopped w c a = true → (ctxAt o c).unacked ≠ [] → does .acknowledgement o) ∧
      (unitStopped w c a = true → (ctxAt o c).unacked = [] → does .acknowledgement (finishStop o c)))

/-- The device (R4, R5, R17, R22, R247, R253, R257, R261, R460, R491 to R493): cold reset; a register written by a context, refused
without the right; a plot taken off line; a cycle of the plot clock; the host's reads and writes of HBM, which join the queue of their
line at its home, and of BAR 2; a snoop, in its order among the requests of the plot cycle; and what a host request does when it is
performed. -/
def Obligations.DeviceSteps : Prop :=
  ∀ (s w : State) (p n k d : Nat) (v vs : List Nat) (q : EngReq) (keep : Bool),
    let u := { s with cur := .idle }
    let does := fun (i : Instr) (t : State) => exec i s = .next t
    let c := BitVec.ofNat 12 (v.getD 1 0)
    let data := BitVec.ofNat 64 (v.getD 0 0)
    let asked := fun (a m : Nat) (act : EngAct) =>
      sendHome { u with nextId := u.nextId + 1, engReqs := u.engReqs ++ [EngReq.mk u.nextId .host 36 0 0 0 a m act false false none 0
          (leafLookup u 36 0 0)] }
        36 (a / 64) (.op (.eng u.nextId))
    s.cur = .at p n k v →
    (∃ t, does .coldReset t ∧ t.plots = State.reset.plots ∧ t.ctxs = State.reset.ctxs ∧ t.queues = State.reset.queues ∧
      t.kernels = [] ∧ t.dir = State.reset.dir ∧ t.power = State.reset.power ∧ t.furrows = State.reset.furrows ∧
      t.mem.cells = s.mem.cells ∧ t.mem.empty = [] ∧ t.dev = { DevRegs.reset with step := s.dev.step, left := s.dev.left, floor := s.dev.floor }) ∧
    (v.getD 2 0 ≠ 1 → mayWrite u p c n = true → does .registerWrite (writeReg u p c (k % 4) n data none)) ∧
    (v.getD 2 0 ≠ 1 → mayWrite u p c n = false → does .registerWrite u) ∧
    does .plotOffline { u with dev := { u.dev with plots := u.dev.plots &&& ~~~((1 : BitVec 32) <<< p) } } ∧
    does .plotCycle (plotCycle u v) ∧
    (p = 0 → rangeOf (64 * n) = .hbm → does .hostRead (asked (64 * n) 64 (.hostRead (k == 1)))) ∧
    (p = 0 → rangeOf (64 * n) ≠ .hbm → does .hostRead u) ∧
    (p ≠ 0 → does .hostRead { u with barData := barRead u n k }) ∧
    (barRead u 0x3018 8 = (devid u).toNat ∧ (n + 8 ≤ 0x3018 ∨ 0x3020 ≤ n → barRead u n 8 = 0)) ∧
    (p = 0 → wholly .hbm n k = true → 1 ≤ k → n % 64 + k ≤ 64 →
      does .hostWrite (asked n k (.hostWrite (v.getD 0 0 % 256 ^ k) (v.getD 1 0 == 1)))) ∧
    (p = 0 → wholly .hbm n k = false ∨ 64 < n % 64 + k → does .hostWrite u) ∧
    (p ≠ 0 →
      (n < 0x2000 → 1 ≤ k → n % 8 + k ≤ 8 → does .hostWrite (kickQueue u (n / 8))) ∧
      (0x2000 ≤ n → n % 8 ≠ 0 ∨ k ≠ 8 ∨ n ∉ [0x2000, 0x2008, 0x2010, 0x2018, 0x3000, 0x3008, 0x3010] → does .hostWrite u) ∧
      (k = 8 →
        (∀ die, n = 0x2000 + 8 * die → die < 4 → does .hostWrite (writeQcmd u die data)) ∧
        (n = 0x3000 → does .hostWrite (writeObreq u data)) ∧
        (n = 0x3008 → does .hostWrite (writeCtxctl u data)) ∧
        (n = 0x3010 → does .hostWrite { u with power := rackMessage (u.timers.getD 0 0) u.power data }))) ∧
    (rangeOf (64 * n) = .host → reaches u n 36 = none → does .hostSnoop u) ∧
    (rangeOf (64 * n) = .host → reaches u n 36 = some w →
      let woken := if w.hostLines.contains n then wakeWatch w n else w
      let taken := l2Drop { woken with hostLines := woken.hostLines.filter (fun l => l != n) } n
      (v = [] → does .hostSnoop taken) ∧
      (v = d :: vs → does .hostSnoop { taken with mem := taken.mem.setLine n (BitVec.ofNat 512 d) })) ∧
    (engAt u n = some q → rangeOf q.pa = .hbm →
      let y := l2Touch u .normal none (q.pa / 64)
      (q.act = .hostRead false → performEng u n = dropEng y n) ∧
      (q.act = .hostRead true → performEng u n = dropEng (setHostFlag y (q.pa / 64) true) n) ∧
      (q.act = .hostWrite d keep →
        let wrote := storeAt y q.pa q.bytes d
        let full := { wrote with mem := wrote.mem.setFull q.pa q.bytes }
        performEng u n = wakeRange (dropEng (if keep then setHostFlag full (q.pa / 64) true else full) n) q.pa q.bytes))

/-- Power and furrows (R463 to R478): sampling windows, the interval boundary with CSTEP, the permits, the supplies and the thermal
limits it imposes (the time of a limit is assumption 33), a guard trip, whose furrow is cleared once the tiles of its copies have come to
rest, thermal thresholds with their dwell, rack caps and their lease. -/
def Obligations.PowerSteps : Prop :=
  ∀ (s : State) (p n k now : Nat) (v : List Nat),
    let u := { s with cur := .idle }
    let does := fun (i : Instr) (t : State) => exec i s = .next t
    let thermal := fun (allow : Threshold → Bool) => { u with thermal := u.thermal.modify p (fun d => { d with
      temp := BitVec.ofNat 11 k
      thresholds := d.thresholds.modify n (fun t => if allow t && crosses (k % 2048) t && dwellOver (u.timers.getD p 0) t
        then { t with tripped := !t.tripped, changed := some (u.timers.getD p 0) } else t) }) }
    let msg := BitVec.ofNat 64 n
    let cap := BitVec.ofNat 16 (min (max (msg.extractLsb' 32 16).toNat 600) 1800)
    let seq := msg.extractLsb' 0 32
    let w := u.power
    let taken : Power := { w with last := some seq, cap := cap, src := 1, lease := some (u.timers.getD 0 0), acc := w.acc + 1 }
    s.cur = .at p n k v →
    (p < 36 → (∀ f ∈ furrowsOf p, (furrowAt u f).windows < u.cycles / 64) → does .samplingWindow
      (((furrowsOf p).zip (List.range 4)).foldl (fun t x => furrowWindow t x.1 (v.drop (9 * x.2))) u)) ∧
    (w.intervals < u.timers.getD 0 0 / 2500 → does .intervalBoundary (boundary u n)) ∧
    ((furrowAt u n).guarded = false → (furrowAt u n).clearing = false → n < 132 → w.boundaryAt ≠ some u.cycles →
      let g := modFurrow u n (fun x => { x with guarded := true, clearing := true, supply := .nominal, req := 0, inBand := false, fil := false, quietRun := 0, filRun := 0 })
      (furrowQuiet g n = true → does .guardTrip (clearFurrow g n)) ∧ (furrowQuiet g n = false → does .guardTrip g)) ∧
    ((furrowAt u n).clearing = true → n < 132 →
      (furrowQuiet u n = true → does .guardTrip (clearFurrow u n)) ∧ (furrowQuiet u n = false → does .guardTrip u)) ∧
    does .thresholdTrip (thermal (fun t => !t.tripped)) ∧
    does .thresholdRelease (thermal (fun t => t.tripped)) ∧
    does .dwellEnd (thermal (fun t => t.changed.isSome)) ∧
    (w.last = none → does .rackCapMessage { u with power := taken }) ∧
    (∀ l, w.last = some l →
      (seq = l → does .rackCapMessage { u with power := { w with dup := w.dup + 1 } }) ∧
      (seq = l + 1 → does .rackCapMessage { u with power := taken }) ∧
      (1 < (seq - l).toNat → (seq - l).toNat < 2 ^ 31 → does .rackCapMessage { u with power := { taken with gap := w.gap + 1 } }) ∧
      (2 ^ 31 ≤ (seq - l).toNat → does .rackCapMessage { u with power := { w with old := w.old + 1 } })) ∧
    (w.lease = some now → now + 10000000 ≤ u.timers.getD 0 0 →
      does .leaseExpiry { u with power := { w with cap := w.fallback, src := 2, lease := none } })

/-- Links (R479 to R489): PRTBASE; the commands and the events of a port, of which one plot cycle takes each in the order of the rows of
R487; errors, time-outs and quarantine; a peer's answer to a request, and a peer's request, which comes in through a port that carries
traffic. That a peer's request comes after the host's and meets its line as one with SA clear is assumption 15; what the loss
of a store does and how a stream goes through a port again are assumption 34. -/
def Obligations.LinkSteps : Prop :=
  ∀ (s : State) (p n k : Nat) (v : List Nat) (st : LinkStream) (r : OutReq),
    let u := { s with cur := .idle }
    let does := fun (i : Instr) (t : State) => exec i s = .next t
    let port := portAt u p
    let carries := port.st = .up ∨ port.st = .degraded
    let a := (BitVec.ofNat 64 n : Word) &&& 0x000F_FFFF_FFFF_E000
    let down := fun (w : State) => modLink w p (fun x => { x with st := .quarantined, lanes := 0, retraining := false })
    let may := fun e => portMay u p e = true
    let noted := notePort u p
    let failed := modLink u p (fun x => { x with failures := x.failures + 1 })
    s.cur = .at p n k v →
    (wholly .hbm a.toNat 8192 = true → does .prtbaseWrite { u with dev := { u.dev with prtbase := a, routes := [] } }) ∧
    (wholly .hbm a.toNat 8192 = false → does .prtbaseWrite u) ∧
    (port.st = .down → does .train (modLink (noted .train) p (fun x => { x with st := .training })) ∧ does .quarantine (noted .quarantine)) ∧
    (port.st = .quarantined → does .train (noted .train) ∧ does .quarantine (noted .quarantine) ∧ does .linkRelease
      (modLink (noted .release) p (fun x => { x with st := .down, lanes := 0, spare := false, failures := 0 }))) ∧
    (port.st ≠ .down → port.st ≠ .quarantined → does .quarantine (quarantine (noted .quarantine) p)) ∧
    (port.st = .training →
      (may .trained → does .trainingComplete (modLink (noted .trained) p (fun x => { x with
        st := .up, lanes := 8, nport := BitVec.ofNat 4 n, nid := BitVec.ofNat 10 k }))) ∧
      (may .trainingTimeout → does .trainingTimeout (modLink (noted .trainingTimeout) p (fun x => { x with st := .down })))) ∧
    (may .laneFailure → does .laneFailure (failLane (noted .laneFailure) p)) ∧
    (¬ may .laneFailure → does .laneFailure u) ∧
    ((portAt failed p).st = .up → failLane u p = linkEvent (modLink failed p (fun x => { x with st := .degraded, spare := true })) p) ∧
    ((portAt failed p).st = .degraded → (portAt failed p).lanes = 8 →
      failLane u p = modLink failed p (fun x => { x with lanes := 4, retraining := true })) ∧
    ((portAt failed p).st = .degraded → (portAt failed p).lanes ≠ 8 → failLane u p = quarantine failed p) ∧
    does .retrainComplete (kickPeers (modLink u p (fun x => { x with retraining := false }))) ∧
    (carries → does .flitCrcError (modLink u p (fun x => { x with crcerr := x.crcerr + 1, retry := x.retry + 1 }))) ∧
    (carries → may .retryFailure → does .crcRetryFailure (quarantine (noted .retryFailure) p) ∧
      (st ∈ u.streams → r ∈ st.out → r.via = p → r.sentAt + 100000 ≤ u.timers.getD (p / 3) 0 →
        does .requestTimeout (quarantine (noted .retryFailure) p))) ∧
    (¬ may .retryFailure → does .crcRetryFailure u ∧ does .requestTimeout u) ∧
    quarantine u p = (u.streams.filter (fun x => x.out.any (fun y => y.via == p))).foldl (fun w x => moveStream w p x)
      (if port.eve then { down u with msi := u.msi ++ [port.evv] } else down u) ∧
    (u.streams.find? (fun x => x.peer == p && x.port == n) = some st →
      st.out.find? (fun y => y.seq == BitVec.ofNat 32 k && !portHolds u y.via) = some r →
      let t := ackKernels { u with streams := u.streams.map (fun y => if y = st then { y with out := y.out.erase r } else y) } p n r.seq
      let found := v.getD 1 0
      (v.getD 0 0 ≠ 0 → does .peerResponse (kickPeers (peerError t r.ref))) ∧
      (v.getD 0 0 = 0 →
        (∀ q, r.ref = .part q → does .peerResponse (kickPeers (answerPart t q r.store found (if v.getD 2 0 ≠ 0 then r.keep else none)))) ∧
        (∀ i, r.ref = .eng i → r.store = true → does .peerResponse (kickPeers (dropEng t i))) ∧
        (∀ i, r.ref = .eng i → r.store = false → does .peerResponse (kickPeers (modEng t i (fun q => { q with
          done := true, sys := true, got := lineGet (BitVec.ofNat 512 found) (q.pa % 64) q.bytes })))))) ∧
    (let x := (u.inStreams.find? (fun y => y.src == p && y.port == n)).getD (LinkIn.mk p n none [])
      let next : BitVec 32 := (x.last.map (fun l => l + 1)).getD 0
      let ask := peerAsk v
      let t := { u with inStreams := { x with last := some (BitVec.ofNat 32 k) } :: u.inStreams.filter (fun z => !(z.src == p && z.port == n)) }
      let arrives := portCarries (portAt u (v.getD 8 0)) = true ∧ portHolds u (v.getD 8 0) = false
      (¬ arrives ∨ BitVec.ofNat 32 k ≠ next ∨ askPending u p n = true → does .peerRequest u) ∧
      (arrives → BitVec.ofNat 32 k = next → askPending u p n = false →
        (peerAllowed t ask.offset ask.bytes = true → does .peerRequest ((askPieces ask).foldl (fun w q =>
          newEng w (.peer p n (BitVec.ofNat 32 k)) 37 0 0 (0, q.offset, q.bytes) (.ask q)) t)) ∧
        (peerAllowed t ask.offset ask.bytes = false → does .peerRequest (keepResponse t p n (BitVec.ofNat 32 k) true 0))) ∧
      (rangeOf ask.offset ≠ .window → askPieces ask = [ask]))

/-! ### Faults, reset and what stays unchanged -/

/-- Delivery of a fault (R425, R426, R429, R430): the lowest free cause slot takes the record, a RUNNING group stops, and
the handler token goes to the handler block; with no free slot nothing is written; a second fault in the handler goes to
CSEC and freezes the context; a group without a handler is killed. The words of the record are those of R426. A PLACED group
takes no fault: that of its dispatch token waits, which is the model's reading of R343 (assumption 48). -/
def Obligations.FaultDelivery : Prop :=
  ∀ (s : State) (p n : Nat) (g : BitVec 3) (x : Group) (e : FaultInfo) (slot : BitVec 8) (b : BlockId) (env : Envelope)
    (kept : Kept) (h : Bool),
    let a := deliverFault s p g e slot b env kept
    let inHandler := decide (b.bid = x.hbid ∧ b.obj = x.obj)
    let r := causeRecord e slot inHandler b.bid env
    let any := causeRecord e slot h b.bid env
    let unread := x.causes.any (fun k => k.state == .delivered)
    (any.w0.extractLsb' 0 8 = e.cause ∧ any.w0.extractLsb' 8 8 = e.level ∧ any.w0.extractLsb' 16 8 = slot ∧
      any.w0.getLsbD 24 = h ∧ any.w0.extractLsb' 25 7 = 0 ∧ any.w0.extractLsb' 32 32 = b.bid ∧ any.w1 = e.word1 ∧
      any.w2 = env.tag ∧ any.w3.extractLsb' 0 10 = env.thread ∧ any.w3.extractLsb' 10 3 = env.gslot ∧
      any.w3.extractLsb' 13 3 = 0 ∧ any.w3.extractLsb' 16 24 = env.wave ∧ any.w3.extractLsb' 40 24 = 0) ∧
    (groupAt s p g = none → a = (s, false)) ∧
    (groupAt s p g = some x → x.phase = .placed → a = (s, false)) ∧
    (groupAt s p g = some x → x.phase ≠ .placed →
      (x.hbid = 0xFFFF_FFFF → a = (killGroup s p g e.cause, true)) ∧
      (x.hbid ≠ 0xFFFF_FFFF →
        (inHandler = true → (unread = true ∨ freeCause x.causes = none) →
          a = (requestStop (modCtx { s with doubled := s.doubled ++ [x.record] } x.ctx
            (fun y => { y with regs := { y.regs with csec := r } })) x.ctx flagFreeze 0x7F true false, false)) ∧
        (inHandler = false → freeCause x.causes = none → a = (s, false)) ∧
        (inHandler = false ∨ unread = false → freeCause x.causes = some n →
          a = (sendEntry (freshHandlerWave (modGroup s p g (fun y => { y with
              causes := y.causes.set n (CauseSlot.mk .delivered r kept)
              phase := if y.phase = .running then .stopped else y.phase })) p x.ctx g env.thread) .entry p
            (BlockId.mk x.ctx x.obj x.hbid) 0 0 (Token.mk (Envelope.mk 0 env.thread g 0 []) (statusPacket n)), true)) ∧
        (freeCause x.causes = some n → n < x.causes.length ∧ (x.causes.getD n CauseSlot.empty).state = .free ∧
          ∀ k < n, (x.causes.getD k CauseSlot.empty).state ≠ .free)))

/-- What cold reset leaves (R17, R22, R364, R409, R466, R474, R475, R488, R489): the values that the register maps give,
every word full, every queue DISABLED, every context FREE, and nothing in flight. The stepping of the part (bits 55 to 48 of
DEVID) and the list of what memory holds are the model's own (assumptions 4 and 5). -/
def Obligations.ResetState : Prop :=
  let s := State.reset
  (∀ (p d : Nat) (c : BitVec 12), (readReg s p c d 0).extractLsb' 56 8 = 4 ∧ (readReg s p c d 0).extractLsb' 42 6 = 0 ∧
    (readReg s p c d 0).extractLsb' 0 32 = 0xFFFF_FFFF) ∧
  readReg s 0 0 0 0x352 = 1500 <<< 48 ||| 64 ∧ readReg s 0 0 0 0x350 = 1200 <<< 32 ||| 1200 <<< 16 ||| 2 ∧
  (∀ d ∈ List.range 4,
    (∀ j ∈ List.range 4, readReg s 0 0 d (0x304 + j) = 0) ∧
    (∀ j ∈ List.range 3, readReg s 0 0 d (0x360 + j) = 0 ∧ readReg s 0 0 d (0x364 + j) = 0)) ∧
  (∀ p ∈ List.range 32, ∀ f ∈ List.range 4, readReg s p 0 0 (0x124 + f) = 750 <<< 30 ||| 750 <<< 20 ||| 750 <<< 10 ||| 750) ∧
  (∀ a : Nat, s.mem.full a = true) ∧ s.mem.wf = true ∧
  (∀ q : Nat, (queueAt s q).phase = .disabled) ∧ (∀ c, (ctxAt s c).phase = .free) ∧
  s.flights = [] ∧ s.rows = [] ∧ s.kernels = [] ∧ s.toHome = [] ∧ s.toPlot = [] ∧ s.fromOwner = [] ∧
  (∀ line : Nat, (dirAt s line).st = .i)

/-- What a computing instruction leaves alone (R9, R62, R64, R93, R119), whatever its operands and whether or not it
faults: every byte of memory as it reads, every device register, queue, record, other plot and other context, and of its
own context every register but CSEC. A firing that only sends tokens leaves of its own plot everything but its copies of
blocks, and of its context everything but the counts of R415. A fault in a group without a handler
kills the group, whose pending `tlbi` and register writes then answer nobody (R343). -/
def Obligations.ComputationFrame : Prop :=
  ∀ (s t : State) (i : Instr) (p : Nat) (b : BlockId) (m : MatchedSet) (xs : List Send),
    let u := sentFrom s p b m xs
    (computes i = true → s.cur = .firing p b m → exec i s = .next t →
      t = { s with
        cur := .idle, fresh := t.fresh, flights := t.flights, rows := t.rows, homeWaiters := t.homeWaiters, engReqs := t.engReqs
        plots := t.plots, ctxs := t.ctxs, doubled := t.doubled, tlbis := t.tlbis, regWrites := t.regWrites } ∧
      (∀ q, q ≠ p → plotAt t q = plotAt s q) ∧
      (∀ a n, engineRead t a n = engineRead s a n) ∧
      (∀ c, c ≠ b.ctx → (∀ x, groupAt s p (setSlot m) = some x → x.ctx ≠ c) → ctxAt t c = ctxAt s c) ∧
      (∀ c, (ctxAt t c).regs = { (ctxAt s c).regs with csec := (ctxAt t c).regs.csec })) ∧
    (u = { s with cur := .idle, fresh := u.fresh, flights := u.flights, plots := u.plots, ctxs := u.ctxs } ∧
      (∀ q, q ≠ p → plotAt u q = plotAt s q) ∧
      plotAt u p = { plotAt s p with blocks := { (plotAt s p).blocks with copies := (plotAt u p).blocks.copies } } ∧
      (∀ c, c ≠ b.ctx → ctxAt u c = ctxAt s c) ∧
      ctxAt u b.ctx = { ctxAt s b.ctx with counts := (ctxAt u b.ctx).counts })

/-- What a coherent store by a unit of the device does (R1, R205, R240, R247): the stored bytes read as stored, every other byte
reads as before, its words are full, memory keeps its canonical form, and no register, group or context changes, of a plot
nothing but its L1, and of a queue nothing but the watch that the store meets (R370). It holds whatever copies of the lines stand
in caches or on their way. What a peer's memory holds is no state of this device: of its bytes the first clause says nothing. -/
def Obligations.StoreFrame : Prop :=
  ∀ (s : State) (a n v : Nat), s.mem.wf = true →
    let t := engineStore s a n v
    ((∀ c, a ≤ c → c < a + n → rangeOf c ≠ .peer) → engineRead t a n = v % 256 ^ n) ∧
    (∀ c, c < a ∨ a + n ≤ c → engineRead t c 1 = engineRead s c 1) ∧
    (rangeOf a = .hbm ∨ rangeOf a = .window → ∀ c, a ≤ c → c < a + n → t.mem.full c = true) ∧
    t.mem.wf = true ∧
    t = { s with
      mem := t.mem, plots := t.plots, dir := t.dir, toHome := t.toHome, toPlot := t.toPlot, fromOwner := t.fromOwner
      hostLines := t.hostLines, queues := t.queues } ∧
    (∀ p, plotAt t p = { plotAt s p with l1 := (plotAt t p).l1 }) ∧
    (∀ q, queueAt t q = { queueAt s q with watch := (queueAt t q).watch, hit := (queueAt t q).hit })

end
end

