-- ==== Sys2Proof/Laws/State.lean ====
section
/-! SUPPORT. What each shared update of the state leaves alone: one lemma for each field that it does not write. -/
namespace Sys2Proof.Machine

/-! ### modPlot -/

@[simp] theorem modPlot_sched (s : State) (p : Nat) (f : Plot → Plot) : (modPlot s p f).sched = s.sched := rfl
@[simp] theorem modPlot_cur (s : State) (p : Nat) (f : Plot → Plot) : (modPlot s p f).cur = s.cur := rfl
@[simp] theorem modPlot_fresh (s : State) (p : Nat) (f : Plot → Plot) : (modPlot s p f).fresh = s.fresh := rfl
@[simp] theorem modPlot_nextId (s : State) (p : Nat) (f : Plot → Plot) : (modPlot s p f).nextId = s.nextId := rfl
@[simp] theorem modPlot_flights (s : State) (p : Nat) (f : Plot → Plot) : (modPlot s p f).flights = s.flights := rfl
@[simp] theorem modPlot_rows (s : State) (p : Nat) (f : Plot → Plot) : (modPlot s p f).rows = s.rows := rfl
@[simp] theorem modPlot_ctxs (s : State) (p : Nat) (f : Plot → Plot) : (modPlot s p f).ctxs = s.ctxs := rfl
@[simp] theorem modPlot_overrides (s : State) (p : Nat) (f : Plot → Plot) : (modPlot s p f).overrides = s.overrides := rfl
@[simp] theorem modPlot_mem (s : State) (p : Nat) (f : Plot → Plot) : (modPlot s p f).mem = s.mem := rfl
@[simp] theorem modPlot_dir (s : State) (p : Nat) (f : Plot → Plot) : (modPlot s p f).dir = s.dir := rfl
@[simp] theorem modPlot_toHome (s : State) (p : Nat) (f : Plot → Plot) : (modPlot s p f).toHome = s.toHome := rfl
@[simp] theorem modPlot_toPlot (s : State) (p : Nat) (f : Plot → Plot) : (modPlot s p f).toPlot = s.toPlot := rfl
@[simp] theorem modPlot_fromOwner (s : State) (p : Nat) (f : Plot → Plot) : (modPlot s p f).fromOwner = s.fromOwner := rfl
@[simp] theorem modPlot_homeWaiters (s : State) (p : Nat) (f : Plot → Plot) : (modPlot s p f).homeWaiters = s.homeWaiters := rfl
@[simp] theorem modPlot_banks (s : State) (p : Nat) (f : Plot → Plot) : (modPlot s p f).banks = s.banks := rfl
@[simp] theorem modPlot_engReqs (s : State) (p : Nat) (f : Plot → Plot) : (modPlot s p f).engReqs = s.engReqs := rfl
@[simp] theorem modPlot_l2 (s : State) (p : Nat) (f : Plot → Plot) : (modPlot s p f).l2 = s.l2 := rfl
@[simp] theorem modPlot_served (s : State) (p : Nat) (f : Plot → Plot) : (modPlot s p f).served = s.served := rfl
@[simp] theorem modPlot_arrived (s : State) (p : Nat) (f : Plot → Plot) : (modPlot s p f).arrived = s.arrived := rfl
@[simp] theorem modPlot_barData (s : State) (p : Nat) (f : Plot → Plot) : (modPlot s p f).barData = s.barData := rfl
@[simp] theorem modPlot_reached (s : State) (p : Nat) (f : Plot → Plot) : (modPlot s p f).reached = s.reached := rfl
@[simp] theorem modPlot_peerCopies (s : State) (p : Nat) (f : Plot → Plot) : (modPlot s p f).peerCopies = s.peerCopies := rfl
@[simp] theorem modPlot_hostLines (s : State) (p : Nat) (f : Plot → Plot) : (modPlot s p f).hostLines = s.hostLines := rfl
@[simp] theorem modPlot_hacol (s : State) (p : Nat) (f : Plot → Plot) : (modPlot s p f).hacol = s.hacol := rfl
@[simp] theorem modPlot_dev (s : State) (p : Nat) (f : Plot → Plot) : (modPlot s p f).dev = s.dev := rfl
@[simp] theorem modPlot_ports (s : State) (p : Nat) (f : Plot → Plot) : (modPlot s p f).ports = s.ports := rfl
@[simp] theorem modPlot_streams (s : State) (p : Nat) (f : Plot → Plot) : (modPlot s p f).streams = s.streams := rfl
@[simp] theorem modPlot_inStreams (s : State) (p : Nat) (f : Plot → Plot) : (modPlot s p f).inStreams = s.inStreams := rfl
@[simp] theorem modPlot_msi (s : State) (p : Nat) (f : Plot → Plot) : (modPlot s p f).msi = s.msi := rfl
@[simp] theorem modPlot_queues (s : State) (p : Nat) (f : Plot → Plot) : (modPlot s p f).queues = s.queues := rfl
@[simp] theorem modPlot_qtbase (s : State) (p : Nat) (f : Plot → Plot) : (modPlot s p f).qtbase = s.qtbase := rfl
@[simp] theorem modPlot_ready (s : State) (p : Nat) (f : Plot → Plot) : (modPlot s p f).ready = s.ready := rfl
@[simp] theorem modPlot_turn (s : State) (p : Nat) (f : Plot → Plot) : (modPlot s p f).turn = s.turn := rfl
@[simp] theorem modPlot_kernels (s : State) (p : Nat) (f : Plot → Plot) : (modPlot s p f).kernels = s.kernels := rfl
@[simp] theorem modPlot_childDone (s : State) (p : Nat) (f : Plot → Plot) : (modPlot s p f).childDone = s.childDone := rfl
@[simp] theorem modPlot_doubled (s : State) (p : Nat) (f : Plot → Plot) : (modPlot s p f).doubled = s.doubled := rfl
@[simp] theorem modPlot_loads (s : State) (p : Nat) (f : Plot → Plot) : (modPlot s p f).loads = s.loads := rfl
@[simp] theorem modPlot_busyLoads (s : State) (p : Nat) (f : Plot → Plot) : (modPlot s p f).busyLoads = s.busyLoads := rfl
@[simp] theorem modPlot_cache (s : State) (p : Nat) (f : Plot → Plot) : (modPlot s p f).cache = s.cache := rfl
@[simp] theorem modPlot_tlbis (s : State) (p : Nat) (f : Plot → Plot) : (modPlot s p f).tlbis = s.tlbis := rfl
@[simp] theorem modPlot_regWrites (s : State) (p : Nat) (f : Plot → Plot) : (modPlot s p f).regWrites = s.regWrites := rfl
@[simp] theorem modPlot_furrows (s : State) (p : Nat) (f : Plot → Plot) : (modPlot s p f).furrows = s.furrows := rfl
@[simp] theorem modPlot_thermal (s : State) (p : Nat) (f : Plot → Plot) : (modPlot s p f).thermal = s.thermal := rfl
@[simp] theorem modPlot_power (s : State) (p : Nat) (f : Plot → Plot) : (modPlot s p f).power = s.power := rfl
@[simp] theorem modPlot_cycles (s : State) (p : Nat) (f : Plot → Plot) : (modPlot s p f).cycles = s.cycles := rfl
@[simp] theorem modPlot_timers (s : State) (p : Nat) (f : Plot → Plot) : (modPlot s p f).timers = s.timers := rfl

/-! ### modBlocks -/

@[simp] theorem modBlocks_sched (s : State) (p : Nat) (f : BlockUnit → BlockUnit) : (modBlocks s p f).sched = s.sched := rfl
@[simp] theorem modBlocks_cur (s : State) (p : Nat) (f : BlockUnit → BlockUnit) : (modBlocks s p f).cur = s.cur := rfl
@[simp] theorem modBlocks_fresh (s : State) (p : Nat) (f : BlockUnit → BlockUnit) : (modBlocks s p f).fresh = s.fresh := rfl
@[simp] theorem modBlocks_nextId (s : State) (p : Nat) (f : BlockUnit → BlockUnit) : (modBlocks s p f).nextId = s.nextId := rfl
@[simp] theorem modBlocks_flights (s : State) (p : Nat) (f : BlockUnit → BlockUnit) : (modBlocks s p f).flights = s.flights := rfl
@[simp] theorem modBlocks_rows (s : State) (p : Nat) (f : BlockUnit → BlockUnit) : (modBlocks s p f).rows = s.rows := rfl
@[simp] theorem modBlocks_ctxs (s : State) (p : Nat) (f : BlockUnit → BlockUnit) : (modBlocks s p f).ctxs = s.ctxs := rfl
@[simp] theorem modBlocks_overrides (s : State) (p : Nat) (f : BlockUnit → BlockUnit) : (modBlocks s p f).overrides = s.overrides := rfl
@[simp] theorem modBlocks_mem (s : State) (p : Nat) (f : BlockUnit → BlockUnit) : (modBlocks s p f).mem = s.mem := rfl
@[simp] theorem modBlocks_dir (s : State) (p : Nat) (f : BlockUnit → BlockUnit) : (modBlocks s p f).dir = s.dir := rfl
@[simp] theorem modBlocks_toHome (s : State) (p : Nat) (f : BlockUnit → BlockUnit) : (modBlocks s p f).toHome = s.toHome := rfl
@[simp] theorem modBlocks_toPlot (s : State) (p : Nat) (f : BlockUnit → BlockUnit) : (modBlocks s p f).toPlot = s.toPlot := rfl
@[simp] theorem modBlocks_fromOwner (s : State) (p : Nat) (f : BlockUnit → BlockUnit) : (modBlocks s p f).fromOwner = s.fromOwner := rfl
@[simp] theorem modBlocks_homeWaiters (s : State) (p : Nat) (f : BlockUnit → BlockUnit) : (modBlocks s p f).homeWaiters = s.homeWaiters := rfl
@[simp] theorem modBlocks_banks (s : State) (p : Nat) (f : BlockUnit → BlockUnit) : (modBlocks s p f).banks = s.banks := rfl
@[simp] theorem modBlocks_engReqs (s : State) (p : Nat) (f : BlockUnit → BlockUnit) : (modBlocks s p f).engReqs = s.engReqs := rfl
@[simp] theorem modBlocks_l2 (s : State) (p : Nat) (f : BlockUnit → BlockUnit) : (modBlocks s p f).l2 = s.l2 := rfl
@[simp] theorem modBlocks_served (s : State) (p : Nat) (f : BlockUnit → BlockUnit) : (modBlocks s p f).served = s.served := rfl
@[simp] theorem modBlocks_arrived (s : State) (p : Nat) (f : BlockUnit → BlockUnit) : (modBlocks s p f).arrived = s.arrived := rfl
@[simp] theorem modBlocks_barData (s : State) (p : Nat) (f : BlockUnit → BlockUnit) : (modBlocks s p f).barData = s.barData := rfl
@[simp] theorem modBlocks_reached (s : State) (p : Nat) (f : BlockUnit → BlockUnit) : (modBlocks s p f).reached = s.reached := rfl
@[simp] theorem modBlocks_peerCopies (s : State) (p : Nat) (f : BlockUnit → BlockUnit) : (modBlocks s p f).peerCopies = s.peerCopies := rfl
@[simp] theorem modBlocks_hostLines (s : State) (p : Nat) (f : BlockUnit → BlockUnit) : (modBlocks s p f).hostLines = s.hostLines := rfl
@[simp] theorem modBlocks_hacol (s : State) (p : Nat) (f : BlockUnit → BlockUnit) : (modBlocks s p f).hacol = s.hacol := rfl
@[simp] theorem modBlocks_dev (s : State) (p : Nat) (f : BlockUnit → BlockUnit) : (modBlocks s p f).dev = s.dev := rfl
@[simp] theorem modBlocks_ports (s : State) (p : Nat) (f : BlockUnit → BlockUnit) : (modBlocks s p f).ports = s.ports := rfl
@[simp] theorem modBlocks_streams (s : State) (p : Nat) (f : BlockUnit → BlockUnit) : (modBlocks s p f).streams = s.streams := rfl
@[simp] theorem modBlocks_inStreams (s : State) (p : Nat) (f : BlockUnit → BlockUnit) : (modBlocks s p f).inStreams = s.inStreams := rfl
@[simp] theorem modBlocks_msi (s : State) (p : Nat) (f : BlockUnit → BlockUnit) : (modBlocks s p f).msi = s.msi := rfl
@[simp] theorem modBlocks_queues (s : State) (p : Nat) (f : BlockUnit → BlockUnit) : (modBlocks s p f).queues = s.queues := rfl
@[simp] theorem modBlocks_qtbase (s : State) (p : Nat) (f : BlockUnit → BlockUnit) : (modBlocks s p f).qtbase = s.qtbase := rfl
@[simp] theorem modBlocks_ready (s : State) (p : Nat) (f : BlockUnit → BlockUnit) : (modBlocks s p f).ready = s.ready := rfl
@[simp] theorem modBlocks_turn (s : State) (p : Nat) (f : BlockUnit → BlockUnit) : (modBlocks s p f).turn = s.turn := rfl
@[simp] theorem modBlocks_kernels (s : State) (p : Nat) (f : BlockUnit → BlockUnit) : (modBlocks s p f).kernels = s.kernels := rfl
@[simp] theorem modBlocks_childDone (s : State) (p : Nat) (f : BlockUnit → BlockUnit) : (modBlocks s p f).childDone = s.childDone := rfl
@[simp] theorem modBlocks_doubled (s : State) (p : Nat) (f : BlockUnit → BlockUnit) : (modBlocks s p f).doubled = s.doubled := rfl
@[simp] theorem modBlocks_loads (s : State) (p : Nat) (f : BlockUnit → BlockUnit) : (modBlocks s p f).loads = s.loads := rfl
@[simp] theorem modBlocks_busyLoads (s : State) (p : Nat) (f : BlockUnit → BlockUnit) : (modBlocks s p f).busyLoads = s.busyLoads := rfl
@[simp] theorem modBlocks_cache (s : State) (p : Nat) (f : BlockUnit → BlockUnit) : (modBlocks s p f).cache = s.cache := rfl
@[simp] theorem modBlocks_tlbis (s : State) (p : Nat) (f : BlockUnit → BlockUnit) : (modBlocks s p f).tlbis = s.tlbis := rfl
@[simp] theorem modBlocks_regWrites (s : State) (p : Nat) (f : BlockUnit → BlockUnit) : (modBlocks s p f).regWrites = s.regWrites := rfl
@[simp] theorem modBlocks_furrows (s : State) (p : Nat) (f : BlockUnit → BlockUnit) : (modBlocks s p f).furrows = s.furrows := rfl
@[simp] theorem modBlocks_thermal (s : State) (p : Nat) (f : BlockUnit → BlockUnit) : (modBlocks s p f).thermal = s.thermal := rfl
@[simp] theorem modBlocks_power (s : State) (p : Nat) (f : BlockUnit → BlockUnit) : (modBlocks s p f).power = s.power := rfl
@[simp] theorem modBlocks_cycles (s : State) (p : Nat) (f : BlockUnit → BlockUnit) : (modBlocks s p f).cycles = s.cycles := rfl
@[simp] theorem modBlocks_timers (s : State) (p : Nat) (f : BlockUnit → BlockUnit) : (modBlocks s p f).timers = s.timers := rfl

/-! ### modUnit -/

@[simp] theorem modUnit_sched (s : State) (p : Nat) (f : GroupUnit → GroupUnit) : (modUnit s p f).sched = s.sched := rfl
@[simp] theorem modUnit_cur (s : State) (p : Nat) (f : GroupUnit → GroupUnit) : (modUnit s p f).cur = s.cur := rfl
@[simp] theorem modUnit_fresh (s : State) (p : Nat) (f : GroupUnit → GroupUnit) : (modUnit s p f).fresh = s.fresh := rfl
@[simp] theorem modUnit_nextId (s : State) (p : Nat) (f : GroupUnit → GroupUnit) : (modUnit s p f).nextId = s.nextId := rfl
@[simp] theorem modUnit_flights (s : State) (p : Nat) (f : GroupUnit → GroupUnit) : (modUnit s p f).flights = s.flights := rfl
@[simp] theorem modUnit_rows (s : State) (p : Nat) (f : GroupUnit → GroupUnit) : (modUnit s p f).rows = s.rows := rfl
@[simp] theorem modUnit_ctxs (s : State) (p : Nat) (f : GroupUnit → GroupUnit) : (modUnit s p f).ctxs = s.ctxs := rfl
@[simp] theorem modUnit_overrides (s : State) (p : Nat) (f : GroupUnit → GroupUnit) : (modUnit s p f).overrides = s.overrides := rfl
@[simp] theorem modUnit_mem (s : State) (p : Nat) (f : GroupUnit → GroupUnit) : (modUnit s p f).mem = s.mem := rfl
@[simp] theorem modUnit_dir (s : State) (p : Nat) (f : GroupUnit → GroupUnit) : (modUnit s p f).dir = s.dir := rfl
@[simp] theorem modUnit_toHome (s : State) (p : Nat) (f : GroupUnit → GroupUnit) : (modUnit s p f).toHome = s.toHome := rfl
@[simp] theorem modUnit_toPlot (s : State) (p : Nat) (f : GroupUnit → GroupUnit) : (modUnit s p f).toPlot = s.toPlot := rfl
@[simp] theorem modUnit_fromOwner (s : State) (p : Nat) (f : GroupUnit → GroupUnit) : (modUnit s p f).fromOwner = s.fromOwner := rfl
@[simp] theorem modUnit_homeWaiters (s : State) (p : Nat) (f : GroupUnit → GroupUnit) : (modUnit s p f).homeWaiters = s.homeWaiters := rfl
@[simp] theorem modUnit_banks (s : State) (p : Nat) (f : GroupUnit → GroupUnit) : (modUnit s p f).banks = s.banks := rfl
@[simp] theorem modUnit_engReqs (s : State) (p : Nat) (f : GroupUnit → GroupUnit) : (modUnit s p f).engReqs = s.engReqs := rfl
@[simp] theorem modUnit_l2 (s : State) (p : Nat) (f : GroupUnit → GroupUnit) : (modUnit s p f).l2 = s.l2 := rfl
@[simp] theorem modUnit_served (s : State) (p : Nat) (f : GroupUnit → GroupUnit) : (modUnit s p f).served = s.served := rfl
@[simp] theorem modUnit_arrived (s : State) (p : Nat) (f : GroupUnit → GroupUnit) : (modUnit s p f).arrived = s.arrived := rfl
@[simp] theorem modUnit_barData (s : State) (p : Nat) (f : GroupUnit → GroupUnit) : (modUnit s p f).barData = s.barData := rfl
@[simp] theorem modUnit_reached (s : State) (p : Nat) (f : GroupUnit → GroupUnit) : (modUnit s p f).reached = s.reached := rfl
@[simp] theorem modUnit_peerCopies (s : State) (p : Nat) (f : GroupUnit → GroupUnit) : (modUnit s p f).peerCopies = s.peerCopies := rfl
@[simp] theorem modUnit_hostLines (s : State) (p : Nat) (f : GroupUnit → GroupUnit) : (modUnit s p f).hostLines = s.hostLines := rfl
@[simp] theorem modUnit_hacol (s : State) (p : Nat) (f : GroupUnit → GroupUnit) : (modUnit s p f).hacol = s.hacol := rfl
@[simp] theorem modUnit_dev (s : State) (p : Nat) (f : GroupUnit → GroupUnit) : (modUnit s p f).dev = s.dev := rfl
@[simp] theorem modUnit_ports (s : State) (p : Nat) (f : GroupUnit → GroupUnit) : (modUnit s p f).ports = s.ports := rfl
@[simp] theorem modUnit_streams (s : State) (p : Nat) (f : GroupUnit → GroupUnit) : (modUnit s p f).streams = s.streams := rfl
@[simp] theorem modUnit_inStreams (s : State) (p : Nat) (f : GroupUnit → GroupUnit) : (modUnit s p f).inStreams = s.inStreams := rfl
@[simp] theorem modUnit_msi (s : State) (p : Nat) (f : GroupUnit → GroupUnit) : (modUnit s p f).msi = s.msi := rfl
@[simp] theorem modUnit_queues (s : State) (p : Nat) (f : GroupUnit → GroupUnit) : (modUnit s p f).queues = s.queues := rfl
@[simp] theorem modUnit_qtbase (s : State) (p : Nat) (f : GroupUnit → GroupUnit) : (modUnit s p f).qtbase = s.qtbase := rfl
@[simp] theorem modUnit_ready (s : State) (p : Nat) (f : GroupUnit → GroupUnit) : (modUnit s p f).ready = s.ready := rfl
@[simp] theorem modUnit_turn (s : State) (p : Nat) (f : GroupUnit → GroupUnit) : (modUnit s p f).turn = s.turn := rfl
@[simp] theorem modUnit_kernels (s : State) (p : Nat) (f : GroupUnit → GroupUnit) : (modUnit s p f).kernels = s.kernels := rfl
@[simp] theorem modUnit_childDone (s : State) (p : Nat) (f : GroupUnit → GroupUnit) : (modUnit s p f).childDone = s.childDone := rfl
@[simp] theorem modUnit_doubled (s : State) (p : Nat) (f : GroupUnit → GroupUnit) : (modUnit s p f).doubled = s.doubled := rfl
@[simp] theorem modUnit_loads (s : State) (p : Nat) (f : GroupUnit → GroupUnit) : (modUnit s p f).loads = s.loads := rfl
@[simp] theorem modUnit_busyLoads (s : State) (p : Nat) (f : GroupUnit → GroupUnit) : (modUnit s p f).busyLoads = s.busyLoads := rfl
@[simp] theorem modUnit_cache (s : State) (p : Nat) (f : GroupUnit → GroupUnit) : (modUnit s p f).cache = s.cache := rfl
@[simp] theorem modUnit_tlbis (s : State) (p : Nat) (f : GroupUnit → GroupUnit) : (modUnit s p f).tlbis = s.tlbis := rfl
@[simp] theorem modUnit_regWrites (s : State) (p : Nat) (f : GroupUnit → GroupUnit) : (modUnit s p f).regWrites = s.regWrites := rfl
@[simp] theorem modUnit_furrows (s : State) (p : Nat) (f : GroupUnit → GroupUnit) : (modUnit s p f).furrows = s.furrows := rfl
@[simp] theorem modUnit_thermal (s : State) (p : Nat) (f : GroupUnit → GroupUnit) : (modUnit s p f).thermal = s.thermal := rfl
@[simp] theorem modUnit_power (s : State) (p : Nat) (f : GroupUnit → GroupUnit) : (modUnit s p f).power = s.power := rfl
@[simp] theorem modUnit_cycles (s : State) (p : Nat) (f : GroupUnit → GroupUnit) : (modUnit s p f).cycles = s.cycles := rfl
@[simp] theorem modUnit_timers (s : State) (p : Nat) (f : GroupUnit → GroupUnit) : (modUnit s p f).timers = s.timers := rfl

/-! ### modCopy -/

@[simp] theorem modCopy_sched (s : State) (p : Nat) (b : BlockId) (f : Copy → Copy) : (modCopy s p b f).sched = s.sched := rfl
@[simp] theorem modCopy_cur (s : State) (p : Nat) (b : BlockId) (f : Copy → Copy) : (modCopy s p b f).cur = s.cur := rfl
@[simp] theorem modCopy_fresh (s : State) (p : Nat) (b : BlockId) (f : Copy → Copy) : (modCopy s p b f).fresh = s.fresh := rfl
@[simp] theorem modCopy_nextId (s : State) (p : Nat) (b : BlockId) (f : Copy → Copy) : (modCopy s p b f).nextId = s.nextId := rfl
@[simp] theorem modCopy_flights (s : State) (p : Nat) (b : BlockId) (f : Copy → Copy) : (modCopy s p b f).flights = s.flights := rfl
@[simp] theorem modCopy_rows (s : State) (p : Nat) (b : BlockId) (f : Copy → Copy) : (modCopy s p b f).rows = s.rows := rfl
@[simp] theorem modCopy_ctxs (s : State) (p : Nat) (b : BlockId) (f : Copy → Copy) : (modCopy s p b f).ctxs = s.ctxs := rfl
@[simp] theorem modCopy_overrides (s : State) (p : Nat) (b : BlockId) (f : Copy → Copy) : (modCopy s p b f).overrides = s.overrides := rfl
@[simp] theorem modCopy_mem (s : State) (p : Nat) (b : BlockId) (f : Copy → Copy) : (modCopy s p b f).mem = s.mem := rfl
@[simp] theorem modCopy_dir (s : State) (p : Nat) (b : BlockId) (f : Copy → Copy) : (modCopy s p b f).dir = s.dir := rfl
@[simp] theorem modCopy_toHome (s : State) (p : Nat) (b : BlockId) (f : Copy → Copy) : (modCopy s p b f).toHome = s.toHome := rfl
@[simp] theorem modCopy_toPlot (s : State) (p : Nat) (b : BlockId) (f : Copy → Copy) : (modCopy s p b f).toPlot = s.toPlot := rfl
@[simp] theorem modCopy_fromOwner (s : State) (p : Nat) (b : BlockId) (f : Copy → Copy) : (modCopy s p b f).fromOwner = s.fromOwner := rfl
@[simp] theorem modCopy_homeWaiters (s : State) (p : Nat) (b : BlockId) (f : Copy → Copy) : (modCopy s p b f).homeWaiters = s.homeWaiters := rfl
@[simp] theorem modCopy_banks (s : State) (p : Nat) (b : BlockId) (f : Copy → Copy) : (modCopy s p b f).banks = s.banks := rfl
@[simp] theorem modCopy_engReqs (s : State) (p : Nat) (b : BlockId) (f : Copy → Copy) : (modCopy s p b f).engReqs = s.engReqs := rfl
@[simp] theorem modCopy_l2 (s : State) (p : Nat) (b : BlockId) (f : Copy → Copy) : (modCopy s p b f).l2 = s.l2 := rfl
@[simp] theorem modCopy_served (s : State) (p : Nat) (b : BlockId) (f : Copy → Copy) : (modCopy s p b f).served = s.served := rfl
@[simp] theorem modCopy_arrived (s : State) (p : Nat) (b : BlockId) (f : Copy → Copy) : (modCopy s p b f).arrived = s.arrived := rfl
@[simp] theorem modCopy_barData (s : State) (p : Nat) (b : BlockId) (f : Copy → Copy) : (modCopy s p b f).barData = s.barData := rfl
@[simp] theorem modCopy_reached (s : State) (p : Nat) (b : BlockId) (f : Copy → Copy) : (modCopy s p b f).reached = s.reached := rfl
@[simp] theorem modCopy_peerCopies (s : State) (p : Nat) (b : BlockId) (f : Copy → Copy) : (modCopy s p b f).peerCopies = s.peerCopies := rfl
@[simp] theorem modCopy_hostLines (s : State) (p : Nat) (b : BlockId) (f : Copy → Copy) : (modCopy s p b f).hostLines = s.hostLines := rfl
@[simp] theorem modCopy_hacol (s : State) (p : Nat) (b : BlockId) (f : Copy → Copy) : (modCopy s p b f).hacol = s.hacol := rfl
@[simp] theorem modCopy_dev (s : State) (p : Nat) (b : BlockId) (f : Copy → Copy) : (modCopy s p b f).dev = s.dev := rfl
@[simp] theorem modCopy_ports (s : State) (p : Nat) (b : BlockId) (f : Copy → Copy) : (modCopy s p b f).ports = s.ports := rfl
@[simp] theorem modCopy_streams (s : State) (p : Nat) (b : BlockId) (f : Copy → Copy) : (modCopy s p b f).streams = s.streams := rfl
@[simp] theorem modCopy_inStreams (s : State) (p : Nat) (b : BlockId) (f : Copy → Copy) : (modCopy s p b f).inStreams = s.inStreams := rfl
@[simp] theorem modCopy_msi (s : State) (p : Nat) (b : BlockId) (f : Copy → Copy) : (modCopy s p b f).msi = s.msi := rfl
@[simp] theorem modCopy_queues (s : State) (p : Nat) (b : BlockId) (f : Copy → Copy) : (modCopy s p b f).queues = s.queues := rfl
@[simp] theorem modCopy_qtbase (s : State) (p : Nat) (b : BlockId) (f : Copy → Copy) : (modCopy s p b f).qtbase = s.qtbase := rfl
@[simp] theorem modCopy_ready (s : State) (p : Nat) (b : BlockId) (f : Copy → Copy) : (modCopy s p b f).ready = s.ready := rfl
@[simp] theorem modCopy_turn (s : State) (p : Nat) (b : BlockId) (f : Copy → Copy) : (modCopy s p b f).turn = s.turn := rfl
@[simp] theorem modCopy_kernels (s : State) (p : Nat) (b : BlockId) (f : Copy → Copy) : (modCopy s p b f).kernels = s.kernels := rfl
@[simp] theorem modCopy_childDone (s : State) (p : Nat) (b : BlockId) (f : Copy → Copy) : (modCopy s p b f).childDone = s.childDone := rfl
@[simp] theorem modCopy_doubled (s : State) (p : Nat) (b : BlockId) (f : Copy → Copy) : (modCopy s p b f).doubled = s.doubled := rfl
@[simp] theorem modCopy_loads (s : State) (p : Nat) (b : BlockId) (f : Copy → Copy) : (modCopy s p b f).loads = s.loads := rfl
@[simp] theorem modCopy_busyLoads (s : State) (p : Nat) (b : BlockId) (f : Copy → Copy) : (modCopy s p b f).busyLoads = s.busyLoads := rfl
@[simp] theorem modCopy_cache (s : State) (p : Nat) (b : BlockId) (f : Copy → Copy) : (modCopy s p b f).cache = s.cache := rfl
@[simp] theorem modCopy_tlbis (s : State) (p : Nat) (b : BlockId) (f : Copy → Copy) : (modCopy s p b f).tlbis = s.tlbis := rfl
@[simp] theorem modCopy_regWrites (s : State) (p : Nat) (b : BlockId) (f : Copy → Copy) : (modCopy s p b f).regWrites = s.regWrites := rfl
@[simp] theorem modCopy_furrows (s : State) (p : Nat) (b : BlockId) (f : Copy → Copy) : (modCopy s p b f).furrows = s.furrows := rfl
@[simp] theorem modCopy_thermal (s : State) (p : Nat) (b : BlockId) (f : Copy → Copy) : (modCopy s p b f).thermal = s.thermal := rfl
@[simp] theorem modCopy_power (s : State) (p : Nat) (b : BlockId) (f : Copy → Copy) : (modCopy s p b f).power = s.power := rfl
@[simp] theorem modCopy_cycles (s : State) (p : Nat) (b : BlockId) (f : Copy → Copy) : (modCopy s p b f).cycles = s.cycles := rfl
@[simp] theorem modCopy_timers (s : State) (p : Nat) (b : BlockId) (f : Copy → Copy) : (modCopy s p b f).timers = s.timers := rfl

/-! ### modGroup -/

@[simp] theorem modGroup_sched (s : State) (p : Nat) (g : BitVec 3) (f : Group → Group) : (modGroup s p g f).sched = s.sched := rfl
@[simp] theorem modGroup_cur (s : State) (p : Nat) (g : BitVec 3) (f : Group → Group) : (modGroup s p g f).cur = s.cur := rfl
@[simp] theorem modGroup_fresh (s : State) (p : Nat) (g : BitVec 3) (f : Group → Group) : (modGroup s p g f).fresh = s.fresh := rfl
@[simp] theorem modGroup_nextId (s : State) (p : Nat) (g : BitVec 3) (f : Group → Group) : (modGroup s p g f).nextId = s.nextId := rfl
@[simp] theorem modGroup_flights (s : State) (p : Nat) (g : BitVec 3) (f : Group → Group) : (modGroup s p g f).flights = s.flights := rfl
@[simp] theorem modGroup_rows (s : State) (p : Nat) (g : BitVec 3) (f : Group → Group) : (modGroup s p g f).rows = s.rows := rfl
@[simp] theorem modGroup_ctxs (s : State) (p : Nat) (g : BitVec 3) (f : Group → Group) : (modGroup s p g f).ctxs = s.ctxs := rfl
@[simp] theorem modGroup_overrides (s : State) (p : Nat) (g : BitVec 3) (f : Group → Group) : (modGroup s p g f).overrides = s.overrides := rfl
@[simp] theorem modGroup_mem (s : State) (p : Nat) (g : BitVec 3) (f : Group → Group) : (modGroup s p g f).mem = s.mem := rfl
@[simp] theorem modGroup_dir (s : State) (p : Nat) (g : BitVec 3) (f : Group → Group) : (modGroup s p g f).dir = s.dir := rfl
@[simp] theorem modGroup_toHome (s : State) (p : Nat) (g : BitVec 3) (f : Group → Group) : (modGroup s p g f).toHome = s.toHome := rfl
@[simp] theorem modGroup_toPlot (s : State) (p : Nat) (g : BitVec 3) (f : Group → Group) : (modGroup s p g f).toPlot = s.toPlot := rfl
@[simp] theorem modGroup_fromOwner (s : State) (p : Nat) (g : BitVec 3) (f : Group → Group) : (modGroup s p g f).fromOwner = s.fromOwner := rfl
@[simp] theorem modGroup_homeWaiters (s : State) (p : Nat) (g : BitVec 3) (f : Group → Group) : (modGroup s p g f).homeWaiters = s.homeWaiters := rfl
@[simp] theorem modGroup_banks (s : State) (p : Nat) (g : BitVec 3) (f : Group → Group) : (modGroup s p g f).banks = s.banks := rfl
@[simp] theorem modGroup_engReqs (s : State) (p : Nat) (g : BitVec 3) (f : Group → Group) : (modGroup s p g f).engReqs = s.engReqs := rfl
@[simp] theorem modGroup_l2 (s : State) (p : Nat) (g : BitVec 3) (f : Group → Group) : (modGroup s p g f).l2 = s.l2 := rfl
@[simp] theorem modGroup_served (s : State) (p : Nat) (g : BitVec 3) (f : Group → Group) : (modGroup s p g f).served = s.served := rfl
@[simp] theorem modGroup_arrived (s : State) (p : Nat) (g : BitVec 3) (f : Group → Group) : (modGroup s p g f).arrived = s.arrived := rfl
@[simp] theorem modGroup_barData (s : State) (p : Nat) (g : BitVec 3) (f : Group → Group) : (modGroup s p g f).barData = s.barData := rfl
@[simp] theorem modGroup_reached (s : State) (p : Nat) (g : BitVec 3) (f : Group → Group) : (modGroup s p g f).reached = s.reached := rfl
@[simp] theorem modGroup_peerCopies (s : State) (p : Nat) (g : BitVec 3) (f : Group → Group) : (modGroup s p g f).peerCopies = s.peerCopies := rfl
@[simp] theorem modGroup_hostLines (s : State) (p : Nat) (g : BitVec 3) (f : Group → Group) : (modGroup s p g f).hostLines = s.hostLines := rfl
@[simp] theorem modGroup_hacol (s : State) (p : Nat) (g : BitVec 3) (f : Group → Group) : (modGroup s p g f).hacol = s.hacol := rfl
@[simp] theorem modGroup_dev (s : State) (p : Nat) (g : BitVec 3) (f : Group → Group) : (modGroup s p g f).dev = s.dev := rfl
@[simp] theorem modGroup_ports (s : State) (p : Nat) (g : BitVec 3) (f : Group → Group) : (modGroup s p g f).ports = s.ports := rfl
@[simp] theorem modGroup_streams (s : State) (p : Nat) (g : BitVec 3) (f : Group → Group) : (modGroup s p g f).streams = s.streams := rfl
@[simp] theorem modGroup_inStreams (s : State) (p : Nat) (g : BitVec 3) (f : Group → Group) : (modGroup s p g f).inStreams = s.inStreams := rfl
@[simp] theorem modGroup_msi (s : State) (p : Nat) (g : BitVec 3) (f : Group → Group) : (modGroup s p g f).msi = s.msi := rfl
@[simp] theorem modGroup_queues (s : State) (p : Nat) (g : BitVec 3) (f : Group → Group) : (modGroup s p g f).queues = s.queues := rfl
@[simp] theorem modGroup_qtbase (s : State) (p : Nat) (g : BitVec 3) (f : Group → Group) : (modGroup s p g f).qtbase = s.qtbase := rfl
@[simp] theorem modGroup_ready (s : State) (p : Nat) (g : BitVec 3) (f : Group → Group) : (modGroup s p g f).ready = s.ready := rfl
@[simp] theorem modGroup_turn (s : State) (p : Nat) (g : BitVec 3) (f : Group → Group) : (modGroup s p g f).turn = s.turn := rfl
@[simp] theorem modGroup_kernels (s : State) (p : Nat) (g : BitVec 3) (f : Group → Group) : (modGroup s p g f).kernels = s.kernels := rfl
@[simp] theorem modGroup_childDone (s : State) (p : Nat) (g : BitVec 3) (f : Group → Group) : (modGroup s p g f).childDone = s.childDone := rfl
@[simp] theorem modGroup_doubled (s : State) (p : Nat) (g : BitVec 3) (f : Group → Group) : (modGroup s p g f).doubled = s.doubled := rfl
@[simp] theorem modGroup_loads (s : State) (p : Nat) (g : BitVec 3) (f : Group → Group) : (modGroup s p g f).loads = s.loads := rfl
@[simp] theorem modGroup_busyLoads (s : State) (p : Nat) (g : BitVec 3) (f : Group → Group) : (modGroup s p g f).busyLoads = s.busyLoads := rfl
@[simp] theorem modGroup_cache (s : State) (p : Nat) (g : BitVec 3) (f : Group → Group) : (modGroup s p g f).cache = s.cache := rfl
@[simp] theorem modGroup_tlbis (s : State) (p : Nat) (g : BitVec 3) (f : Group → Group) : (modGroup s p g f).tlbis = s.tlbis := rfl
@[simp] theorem modGroup_regWrites (s : State) (p : Nat) (g : BitVec 3) (f : Group → Group) : (modGroup s p g f).regWrites = s.regWrites := rfl
@[simp] theorem modGroup_furrows (s : State) (p : Nat) (g : BitVec 3) (f : Group → Group) : (modGroup s p g f).furrows = s.furrows := rfl
@[simp] theorem modGroup_thermal (s : State) (p : Nat) (g : BitVec 3) (f : Group → Group) : (modGroup s p g f).thermal = s.thermal := rfl
@[simp] theorem modGroup_power (s : State) (p : Nat) (g : BitVec 3) (f : Group → Group) : (modGroup s p g f).power = s.power := rfl
@[simp] theorem modGroup_cycles (s : State) (p : Nat) (g : BitVec 3) (f : Group → Group) : (modGroup s p g f).cycles = s.cycles := rfl
@[simp] theorem modGroup_timers (s : State) (p : Nat) (g : BitVec 3) (f : Group → Group) : (modGroup s p g f).timers = s.timers := rfl

/-! ### modCtx -/

@[simp] theorem modCtx_sched (s : State) (c : BitVec 12) (f : Ctx → Ctx) : (modCtx s c f).sched = s.sched := rfl
@[simp] theorem modCtx_cur (s : State) (c : BitVec 12) (f : Ctx → Ctx) : (modCtx s c f).cur = s.cur := rfl
@[simp] theorem modCtx_fresh (s : State) (c : BitVec 12) (f : Ctx → Ctx) : (modCtx s c f).fresh = s.fresh := rfl
@[simp] theorem modCtx_nextId (s : State) (c : BitVec 12) (f : Ctx → Ctx) : (modCtx s c f).nextId = s.nextId := rfl
@[simp] theorem modCtx_flights (s : State) (c : BitVec 12) (f : Ctx → Ctx) : (modCtx s c f).flights = s.flights := rfl
@[simp] theorem modCtx_rows (s : State) (c : BitVec 12) (f : Ctx → Ctx) : (modCtx s c f).rows = s.rows := rfl
@[simp] theorem modCtx_plots (s : State) (c : BitVec 12) (f : Ctx → Ctx) : (modCtx s c f).plots = s.plots := rfl
@[simp] theorem modCtx_overrides (s : State) (c : BitVec 12) (f : Ctx → Ctx) : (modCtx s c f).overrides = s.overrides := rfl
@[simp] theorem modCtx_mem (s : State) (c : BitVec 12) (f : Ctx → Ctx) : (modCtx s c f).mem = s.mem := rfl
@[simp] theorem modCtx_dir (s : State) (c : BitVec 12) (f : Ctx → Ctx) : (modCtx s c f).dir = s.dir := rfl
@[simp] theorem modCtx_toHome (s : State) (c : BitVec 12) (f : Ctx → Ctx) : (modCtx s c f).toHome = s.toHome := rfl
@[simp] theorem modCtx_toPlot (s : State) (c : BitVec 12) (f : Ctx → Ctx) : (modCtx s c f).toPlot = s.toPlot := rfl
@[simp] theorem modCtx_fromOwner (s : State) (c : BitVec 12) (f : Ctx → Ctx) : (modCtx s c f).fromOwner = s.fromOwner := rfl
@[simp] theorem modCtx_homeWaiters (s : State) (c : BitVec 12) (f : Ctx → Ctx) : (modCtx s c f).homeWaiters = s.homeWaiters := rfl
@[simp] theorem modCtx_banks (s : State) (c : BitVec 12) (f : Ctx → Ctx) : (modCtx s c f).banks = s.banks := rfl
@[simp] theorem modCtx_engReqs (s : State) (c : BitVec 12) (f : Ctx → Ctx) : (modCtx s c f).engReqs = s.engReqs := rfl
@[simp] theorem modCtx_l2 (s : State) (c : BitVec 12) (f : Ctx → Ctx) : (modCtx s c f).l2 = s.l2 := rfl
@[simp] theorem modCtx_served (s : State) (c : BitVec 12) (f : Ctx → Ctx) : (modCtx s c f).served = s.served := rfl
@[simp] theorem modCtx_arrived (s : State) (c : BitVec 12) (f : Ctx → Ctx) : (modCtx s c f).arrived = s.arrived := rfl
@[simp] theorem modCtx_barData (s : State) (c : BitVec 12) (f : Ctx → Ctx) : (modCtx s c f).barData = s.barData := rfl
@[simp] theorem modCtx_reached (s : State) (c : BitVec 12) (f : Ctx → Ctx) : (modCtx s c f).reached = s.reached := rfl
@[simp] theorem modCtx_peerCopies (s : State) (c : BitVec 12) (f : Ctx → Ctx) : (modCtx s c f).peerCopies = s.peerCopies := rfl
@[simp] theorem modCtx_hostLines (s : State) (c : BitVec 12) (f : Ctx → Ctx) : (modCtx s c f).hostLines = s.hostLines := rfl
@[simp] theorem modCtx_hacol (s : State) (c : BitVec 12) (f : Ctx → Ctx) : (modCtx s c f).hacol = s.hacol := rfl
@[simp] theorem modCtx_dev (s : State) (c : BitVec 12) (f : Ctx → Ctx) : (modCtx s c f).dev = s.dev := rfl
@[simp] theorem modCtx_ports (s : State) (c : BitVec 12) (f : Ctx → Ctx) : (modCtx s c f).ports = s.ports := rfl
@[simp] theorem modCtx_streams (s : State) (c : BitVec 12) (f : Ctx → Ctx) : (modCtx s c f).streams = s.streams := rfl
@[simp] theorem modCtx_inStreams (s : State) (c : BitVec 12) (f : Ctx → Ctx) : (modCtx s c f).inStreams = s.inStreams := rfl
@[simp] theorem modCtx_msi (s : State) (c : BitVec 12) (f : Ctx → Ctx) : (modCtx s c f).msi = s.msi := rfl
@[simp] theorem modCtx_queues (s : State) (c : BitVec 12) (f : Ctx → Ctx) : (modCtx s c f).queues = s.queues := rfl
@[simp] theorem modCtx_qtbase (s : State) (c : BitVec 12) (f : Ctx → Ctx) : (modCtx s c f).qtbase = s.qtbase := rfl
@[simp] theorem modCtx_ready (s : State) (c : BitVec 12) (f : Ctx → Ctx) : (modCtx s c f).ready = s.ready := rfl
@[simp] theorem modCtx_turn (s : State) (c : BitVec 12) (f : Ctx → Ctx) : (modCtx s c f).turn = s.turn := rfl
@[simp] theorem modCtx_kernels (s : State) (c : BitVec 12) (f : Ctx → Ctx) : (modCtx s c f).kernels = s.kernels := rfl
@[simp] theorem modCtx_childDone (s : State) (c : BitVec 12) (f : Ctx → Ctx) : (modCtx s c f).childDone = s.childDone := rfl
@[simp] theorem modCtx_doubled (s : State) (c : BitVec 12) (f : Ctx → Ctx) : (modCtx s c f).doubled = s.doubled := rfl
@[simp] theorem modCtx_loads (s : State) (c : BitVec 12) (f : Ctx → Ctx) : (modCtx s c f).loads = s.loads := rfl
@[simp] theorem modCtx_busyLoads (s : State) (c : BitVec 12) (f : Ctx → Ctx) : (modCtx s c f).busyLoads = s.busyLoads := rfl
@[simp] theorem modCtx_cache (s : State) (c : BitVec 12) (f : Ctx → Ctx) : (modCtx s c f).cache = s.cache := rfl
@[simp] theorem modCtx_tlbis (s : State) (c : BitVec 12) (f : Ctx → Ctx) : (modCtx s c f).tlbis = s.tlbis := rfl
@[simp] theorem modCtx_regWrites (s : State) (c : BitVec 12) (f : Ctx → Ctx) : (modCtx s c f).regWrites = s.regWrites := rfl
@[simp] theorem modCtx_furrows (s : State) (c : BitVec 12) (f : Ctx → Ctx) : (modCtx s c f).furrows = s.furrows := rfl
@[simp] theorem modCtx_thermal (s : State) (c : BitVec 12) (f : Ctx → Ctx) : (modCtx s c f).thermal = s.thermal := rfl
@[simp] theorem modCtx_power (s : State) (c : BitVec 12) (f : Ctx → Ctx) : (modCtx s c f).power = s.power := rfl
@[simp] theorem modCtx_cycles (s : State) (c : BitVec 12) (f : Ctx → Ctx) : (modCtx s c f).cycles = s.cycles := rfl
@[simp] theorem modCtx_timers (s : State) (c : BitVec 12) (f : Ctx → Ctx) : (modCtx s c f).timers = s.timers := rfl

/-! ### modCount -/

@[simp] theorem modCount_sched (s : State) (c : BitVec 12) (p : Nat) (f : PlotCount → PlotCount) : (modCount s c p f).sched = s.sched := rfl
@[simp] theorem modCount_cur (s : State) (c : BitVec 12) (p : Nat) (f : PlotCount → PlotCount) : (modCount s c p f).cur = s.cur := rfl
@[simp] theorem modCount_fresh (s : State) (c : BitVec 12) (p : Nat) (f : PlotCount → PlotCount) : (modCount s c p f).fresh = s.fresh := rfl
@[simp] theorem modCount_nextId (s : State) (c : BitVec 12) (p : Nat) (f : PlotCount → PlotCount) : (modCount s c p f).nextId = s.nextId := rfl
@[simp] theorem modCount_flights (s : State) (c : BitVec 12) (p : Nat) (f : PlotCount → PlotCount) : (modCount s c p f).flights = s.flights := rfl
@[simp] theorem modCount_rows (s : State) (c : BitVec 12) (p : Nat) (f : PlotCount → PlotCount) : (modCount s c p f).rows = s.rows := rfl
@[simp] theorem modCount_plots (s : State) (c : BitVec 12) (p : Nat) (f : PlotCount → PlotCount) : (modCount s c p f).plots = s.plots := rfl
@[simp] theorem modCount_overrides (s : State) (c : BitVec 12) (p : Nat) (f : PlotCount → PlotCount) : (modCount s c p f).overrides = s.overrides := rfl
@[simp] theorem modCount_mem (s : State) (c : BitVec 12) (p : Nat) (f : PlotCount → PlotCount) : (modCount s c p f).mem = s.mem := rfl
@[simp] theorem modCount_dir (s : State) (c : BitVec 12) (p : Nat) (f : PlotCount → PlotCount) : (modCount s c p f).dir = s.dir := rfl
@[simp] theorem modCount_toHome (s : State) (c : BitVec 12) (p : Nat) (f : PlotCount → PlotCount) : (modCount s c p f).toHome = s.toHome := rfl
@[simp] theorem modCount_toPlot (s : State) (c : BitVec 12) (p : Nat) (f : PlotCount → PlotCount) : (modCount s c p f).toPlot = s.toPlot := rfl
@[simp] theorem modCount_fromOwner (s : State) (c : BitVec 12) (p : Nat) (f : PlotCount → PlotCount) : (modCount s c p f).fromOwner = s.fromOwner := rfl
@[simp] theorem modCount_homeWaiters (s : State) (c : BitVec 12) (p : Nat) (f : PlotCount → PlotCount) : (modCount s c p f).homeWaiters = s.homeWaiters := rfl
@[simp] theorem modCount_banks (s : State) (c : BitVec 12) (p : Nat) (f : PlotCount → PlotCount) : (modCount s c p f).banks = s.banks := rfl
@[simp] theorem modCount_engReqs (s : State) (c : BitVec 12) (p : Nat) (f : PlotCount → PlotCount) : (modCount s c p f).engReqs = s.engReqs := rfl
@[simp] theorem modCount_l2 (s : State) (c : BitVec 12) (p : Nat) (f : PlotCount → PlotCount) : (modCount s c p f).l2 = s.l2 := rfl
@[simp] theorem modCount_served (s : State) (c : BitVec 12) (p : Nat) (f : PlotCount → PlotCount) : (modCount s c p f).served = s.served := rfl
@[simp] theorem modCount_arrived (s : State) (c : BitVec 12) (p : Nat) (f : PlotCount → PlotCount) : (modCount s c p f).arrived = s.arrived := rfl
@[simp] theorem modCount_barData (s : State) (c : BitVec 12) (p : Nat) (f : PlotCount → PlotCount) : (modCount s c p f).barData = s.barData := rfl
@[simp] theorem modCount_reached (s : State) (c : BitVec 12) (p : Nat) (f : PlotCount → PlotCount) : (modCount s c p f).reached = s.reached := rfl
@[simp] theorem modCount_peerCopies (s : State) (c : BitVec 12) (p : Nat) (f : PlotCount → PlotCount) : (modCount s c p f).peerCopies = s.peerCopies := rfl
@[simp] theorem modCount_hostLines (s : State) (c : BitVec 12) (p : Nat) (f : PlotCount → PlotCount) : (modCount s c p f).hostLines = s.hostLines := rfl
@[simp] theorem modCount_hacol (s : State) (c : BitVec 12) (p : Nat) (f : PlotCount → PlotCount) : (modCount s c p f).hacol = s.hacol := rfl
@[simp] theorem modCount_dev (s : State) (c : BitVec 12) (p : Nat) (f : PlotCount → PlotCount) : (modCount s c p f).dev = s.dev := rfl
@[simp] theorem modCount_ports (s : State) (c : BitVec 12) (p : Nat) (f : PlotCount → PlotCount) : (modCount s c p f).ports = s.ports := rfl
@[simp] theorem modCount_streams (s : State) (c : BitVec 12) (p : Nat) (f : PlotCount → PlotCount) : (modCount s c p f).streams = s.streams := rfl
@[simp] theorem modCount_inStreams (s : State) (c : BitVec 12) (p : Nat) (f : PlotCount → PlotCount) : (modCount s c p f).inStreams = s.inStreams := rfl
@[simp] theorem modCount_msi (s : State) (c : BitVec 12) (p : Nat) (f : PlotCount → PlotCount) : (modCount s c p f).msi = s.msi := rfl
@[simp] theorem modCount_queues (s : State) (c : BitVec 12) (p : Nat) (f : PlotCount → PlotCount) : (modCount s c p f).queues = s.queues := rfl
@[simp] theorem modCount_qtbase (s : State) (c : BitVec 12) (p : Nat) (f : PlotCount → PlotCount) : (modCount s c p f).qtbase = s.qtbase := rfl
@[simp] theorem modCount_ready (s : State) (c : BitVec 12) (p : Nat) (f : PlotCount → PlotCount) : (modCount s c p f).ready = s.ready := rfl
@[simp] theorem modCount_turn (s : State) (c : BitVec 12) (p : Nat) (f : PlotCount → PlotCount) : (modCount s c p f).turn = s.turn := rfl
@[simp] theorem modCount_kernels (s : State) (c : BitVec 12) (p : Nat) (f : PlotCount → PlotCount) : (modCount s c p f).kernels = s.kernels := rfl
@[simp] theorem modCount_childDone (s : State) (c : BitVec 12) (p : Nat) (f : PlotCount → PlotCount) : (modCount s c p f).childDone = s.childDone := rfl
@[simp] theorem modCount_doubled (s : State) (c : BitVec 12) (p : Nat) (f : PlotCount → PlotCount) : (modCount s c p f).doubled = s.doubled := rfl
@[simp] theorem modCount_loads (s : State) (c : BitVec 12) (p : Nat) (f : PlotCount → PlotCount) : (modCount s c p f).loads = s.loads := rfl
@[simp] theorem modCount_busyLoads (s : State) (c : BitVec 12) (p : Nat) (f : PlotCount → PlotCount) : (modCount s c p f).busyLoads = s.busyLoads := rfl
@[simp] theorem modCount_cache (s : State) (c : BitVec 12) (p : Nat) (f : PlotCount → PlotCount) : (modCount s c p f).cache = s.cache := rfl
@[simp] theorem modCount_tlbis (s : State) (c : BitVec 12) (p : Nat) (f : PlotCount → PlotCount) : (modCount s c p f).tlbis = s.tlbis := rfl
@[simp] theorem modCount_regWrites (s : State) (c : BitVec 12) (p : Nat) (f : PlotCount → PlotCount) : (modCount s c p f).regWrites = s.regWrites := rfl
@[simp] theorem modCount_furrows (s : State) (c : BitVec 12) (p : Nat) (f : PlotCount → PlotCount) : (modCount s c p f).furrows = s.furrows := rfl
@[simp] theorem modCount_thermal (s : State) (c : BitVec 12) (p : Nat) (f : PlotCount → PlotCount) : (modCount s c p f).thermal = s.thermal := rfl
@[simp] theorem modCount_power (s : State) (c : BitVec 12) (p : Nat) (f : PlotCount → PlotCount) : (modCount s c p f).power = s.power := rfl
@[simp] theorem modCount_cycles (s : State) (c : BitVec 12) (p : Nat) (f : PlotCount → PlotCount) : (modCount s c p f).cycles = s.cycles := rfl
@[simp] theorem modCount_timers (s : State) (c : BitVec 12) (p : Nat) (f : PlotCount → PlotCount) : (modCount s c p f).timers = s.timers := rfl

/-! ### countEvent -/

@[simp] theorem countEvent_sched (s : State) (p : Nat) (ev : BitVec 6) (ctx : Option (BitVec 12)) (k : Nat) : (countEvent s p ev ctx k).sched = s.sched := rfl
@[simp] theorem countEvent_cur (s : State) (p : Nat) (ev : BitVec 6) (ctx : Option (BitVec 12)) (k : Nat) : (countEvent s p ev ctx k).cur = s.cur := rfl
@[simp] theorem countEvent_fresh (s : State) (p : Nat) (ev : BitVec 6) (ctx : Option (BitVec 12)) (k : Nat) : (countEvent s p ev ctx k).fresh = s.fresh := rfl
@[simp] theorem countEvent_nextId (s : State) (p : Nat) (ev : BitVec 6) (ctx : Option (BitVec 12)) (k : Nat) : (countEvent s p ev ctx k).nextId = s.nextId := rfl
@[simp] theorem countEvent_flights (s : State) (p : Nat) (ev : BitVec 6) (ctx : Option (BitVec 12)) (k : Nat) : (countEvent s p ev ctx k).flights = s.flights := rfl
@[simp] theorem countEvent_rows (s : State) (p : Nat) (ev : BitVec 6) (ctx : Option (BitVec 12)) (k : Nat) : (countEvent s p ev ctx k).rows = s.rows := rfl
@[simp] theorem countEvent_ctxs (s : State) (p : Nat) (ev : BitVec 6) (ctx : Option (BitVec 12)) (k : Nat) : (countEvent s p ev ctx k).ctxs = s.ctxs := rfl
@[simp] theorem countEvent_overrides (s : State) (p : Nat) (ev : BitVec 6) (ctx : Option (BitVec 12)) (k : Nat) : (countEvent s p ev ctx k).overrides = s.overrides := rfl
@[simp] theorem countEvent_mem (s : State) (p : Nat) (ev : BitVec 6) (ctx : Option (BitVec 12)) (k : Nat) : (countEvent s p ev ctx k).mem = s.mem := rfl
@[simp] theorem countEvent_dir (s : State) (p : Nat) (ev : BitVec 6) (ctx : Option (BitVec 12)) (k : Nat) : (countEvent s p ev ctx k).dir = s.dir := rfl
@[simp] theorem countEvent_toHome (s : State) (p : Nat) (ev : BitVec 6) (ctx : Option (BitVec 12)) (k : Nat) : (countEvent s p ev ctx k).toHome = s.toHome := rfl
@[simp] theorem countEvent_toPlot (s : State) (p : Nat) (ev : BitVec 6) (ctx : Option (BitVec 12)) (k : Nat) : (countEvent s p ev ctx k).toPlot = s.toPlot := rfl
@[simp] theorem countEvent_fromOwner (s : State) (p : Nat) (ev : BitVec 6) (ctx : Option (BitVec 12)) (k : Nat) : (countEvent s p ev ctx k).fromOwner = s.fromOwner := rfl
@[simp] theorem countEvent_homeWaiters (s : State) (p : Nat) (ev : BitVec 6) (ctx : Option (BitVec 12)) (k : Nat) : (countEvent s p ev ctx k).homeWaiters = s.homeWaiters := rfl
@[simp] theorem countEvent_banks (s : State) (p : Nat) (ev : BitVec 6) (ctx : Option (BitVec 12)) (k : Nat) : (countEvent s p ev ctx k).banks = s.banks := rfl
@[simp] theorem countEvent_engReqs (s : State) (p : Nat) (ev : BitVec 6) (ctx : Option (BitVec 12)) (k : Nat) : (countEvent s p ev ctx k).engReqs = s.engReqs := rfl
@[simp] theorem countEvent_l2 (s : State) (p : Nat) (ev : BitVec 6) (ctx : Option (BitVec 12)) (k : Nat) : (countEvent s p ev ctx k).l2 = s.l2 := rfl
@[simp] theorem countEvent_served (s : State) (p : Nat) (ev : BitVec 6) (ctx : Option (BitVec 12)) (k : Nat) : (countEvent s p ev ctx k).served = s.served := rfl
@[simp] theorem countEvent_arrived (s : State) (p : Nat) (ev : BitVec 6) (ctx : Option (BitVec 12)) (k : Nat) : (countEvent s p ev ctx k).arrived = s.arrived := rfl
@[simp] theorem countEvent_barData (s : State) (p : Nat) (ev : BitVec 6) (ctx : Option (BitVec 12)) (k : Nat) : (countEvent s p ev ctx k).barData = s.barData := rfl
@[simp] theorem countEvent_reached (s : State) (p : Nat) (ev : BitVec 6) (ctx : Option (BitVec 12)) (k : Nat) : (countEvent s p ev ctx k).reached = s.reached := rfl
@[simp] theorem countEvent_peerCopies (s : State) (p : Nat) (ev : BitVec 6) (ctx : Option (BitVec 12)) (k : Nat) : (countEvent s p ev ctx k).peerCopies = s.peerCopies := rfl
@[simp] theorem countEvent_hostLines (s : State) (p : Nat) (ev : BitVec 6) (ctx : Option (BitVec 12)) (k : Nat) : (countEvent s p ev ctx k).hostLines = s.hostLines := rfl
@[simp] theorem countEvent_hacol (s : State) (p : Nat) (ev : BitVec 6) (ctx : Option (BitVec 12)) (k : Nat) : (countEvent s p ev ctx k).hacol = s.hacol := rfl
@[simp] theorem countEvent_dev (s : State) (p : Nat) (ev : BitVec 6) (ctx : Option (BitVec 12)) (k : Nat) : (countEvent s p ev ctx k).dev = s.dev := rfl
@[simp] theorem countEvent_ports (s : State) (p : Nat) (ev : BitVec 6) (ctx : Option (BitVec 12)) (k : Nat) : (countEvent s p ev ctx k).ports = s.ports := rfl
@[simp] theorem countEvent_streams (s : State) (p : Nat) (ev : BitVec 6) (ctx : Option (BitVec 12)) (k : Nat) : (countEvent s p ev ctx k).streams = s.streams := rfl
@[simp] theorem countEvent_inStreams (s : State) (p : Nat) (ev : BitVec 6) (ctx : Option (BitVec 12)) (k : Nat) : (countEvent s p ev ctx k).inStreams = s.inStreams := rfl
@[simp] theorem countEvent_msi (s : State) (p : Nat) (ev : BitVec 6) (ctx : Option (BitVec 12)) (k : Nat) : (countEvent s p ev ctx k).msi = s.msi := rfl
@[simp] theorem countEvent_queues (s : State) (p : Nat) (ev : BitVec 6) (ctx : Option (BitVec 12)) (k : Nat) : (countEvent s p ev ctx k).queues = s.queues := rfl
@[simp] theorem countEvent_qtbase (s : State) (p : Nat) (ev : BitVec 6) (ctx : Option (BitVec 12)) (k : Nat) : (countEvent s p ev ctx k).qtbase = s.qtbase := rfl
@[simp] theorem countEvent_ready (s : State) (p : Nat) (ev : BitVec 6) (ctx : Option (BitVec 12)) (k : Nat) : (countEvent s p ev ctx k).ready = s.ready := rfl
@[simp] theorem countEvent_turn (s : State) (p : Nat) (ev : BitVec 6) (ctx : Option (BitVec 12)) (k : Nat) : (countEvent s p ev ctx k).turn = s.turn := rfl
@[simp] theorem countEvent_kernels (s : State) (p : Nat) (ev : BitVec 6) (ctx : Option (BitVec 12)) (k : Nat) : (countEvent s p ev ctx k).kernels = s.kernels := rfl
@[simp] theorem countEvent_childDone (s : State) (p : Nat) (ev : BitVec 6) (ctx : Option (BitVec 12)) (k : Nat) : (countEvent s p ev ctx k).childDone = s.childDone := rfl
@[simp] theorem countEvent_doubled (s : State) (p : Nat) (ev : BitVec 6) (ctx : Option (BitVec 12)) (k : Nat) : (countEvent s p ev ctx k).doubled = s.doubled := rfl
@[simp] theorem countEvent_loads (s : State) (p : Nat) (ev : BitVec 6) (ctx : Option (BitVec 12)) (k : Nat) : (countEvent s p ev ctx k).loads = s.loads := rfl
@[simp] theorem countEvent_busyLoads (s : State) (p : Nat) (ev : BitVec 6) (ctx : Option (BitVec 12)) (k : Nat) : (countEvent s p ev ctx k).busyLoads = s.busyLoads := rfl
@[simp] theorem countEvent_cache (s : State) (p : Nat) (ev : BitVec 6) (ctx : Option (BitVec 12)) (k : Nat) : (countEvent s p ev ctx k).cache = s.cache := rfl
@[simp] theorem countEvent_tlbis (s : State) (p : Nat) (ev : BitVec 6) (ctx : Option (BitVec 12)) (k : Nat) : (countEvent s p ev ctx k).tlbis = s.tlbis := rfl
@[simp] theorem countEvent_regWrites (s : State) (p : Nat) (ev : BitVec 6) (ctx : Option (BitVec 12)) (k : Nat) : (countEvent s p ev ctx k).regWrites = s.regWrites := rfl
@[simp] theorem countEvent_furrows (s : State) (p : Nat) (ev : BitVec 6) (ctx : Option (BitVec 12)) (k : Nat) : (countEvent s p ev ctx k).furrows = s.furrows := rfl
@[simp] theorem countEvent_thermal (s : State) (p : Nat) (ev : BitVec 6) (ctx : Option (BitVec 12)) (k : Nat) : (countEvent s p ev ctx k).thermal = s.thermal := rfl
@[simp] theorem countEvent_power (s : State) (p : Nat) (ev : BitVec 6) (ctx : Option (BitVec 12)) (k : Nat) : (countEvent s p ev ctx k).power = s.power := rfl
@[simp] theorem countEvent_cycles (s : State) (p : Nat) (ev : BitVec 6) (ctx : Option (BitVec 12)) (k : Nat) : (countEvent s p ev ctx k).cycles = s.cycles := rfl
@[simp] theorem countEvent_timers (s : State) (p : Nat) (ev : BitVec 6) (ctx : Option (BitVec 12)) (k : Nat) : (countEvent s p ev ctx k).timers = s.timers := rfl

/-! ### sendAll -/

@[simp] theorem sendAll_sched (s : State) (p : Nat) (b : BlockId) (xs : List Send) : (sendAll s p b xs).sched = s.sched := rfl
@[simp] theorem sendAll_cur (s : State) (p : Nat) (b : BlockId) (xs : List Send) : (sendAll s p b xs).cur = s.cur := rfl
@[simp] theorem sendAll_fresh (s : State) (p : Nat) (b : BlockId) (xs : List Send) : (sendAll s p b xs).fresh = s.fresh := rfl
@[simp] theorem sendAll_nextId (s : State) (p : Nat) (b : BlockId) (xs : List Send) : (sendAll s p b xs).nextId = s.nextId := rfl
@[simp] theorem sendAll_rows (s : State) (p : Nat) (b : BlockId) (xs : List Send) : (sendAll s p b xs).rows = s.rows := rfl
@[simp] theorem sendAll_plots (s : State) (p : Nat) (b : BlockId) (xs : List Send) : (sendAll s p b xs).plots = s.plots := rfl
@[simp] theorem sendAll_ctxs (s : State) (p : Nat) (b : BlockId) (xs : List Send) : (sendAll s p b xs).ctxs = s.ctxs := rfl
@[simp] theorem sendAll_overrides (s : State) (p : Nat) (b : BlockId) (xs : List Send) : (sendAll s p b xs).overrides = s.overrides := rfl
@[simp] theorem sendAll_mem (s : State) (p : Nat) (b : BlockId) (xs : List Send) : (sendAll s p b xs).mem = s.mem := rfl
@[simp] theorem sendAll_dir (s : State) (p : Nat) (b : BlockId) (xs : List Send) : (sendAll s p b xs).dir = s.dir := rfl
@[simp] theorem sendAll_toHome (s : State) (p : Nat) (b : BlockId) (xs : List Send) : (sendAll s p b xs).toHome = s.toHome := rfl
@[simp] theorem sendAll_toPlot (s : State) (p : Nat) (b : BlockId) (xs : List Send) : (sendAll s p b xs).toPlot = s.toPlot := rfl
@[simp] theorem sendAll_fromOwner (s : State) (p : Nat) (b : BlockId) (xs : List Send) : (sendAll s p b xs).fromOwner = s.fromOwner := rfl
@[simp] theorem sendAll_homeWaiters (s : State) (p : Nat) (b : BlockId) (xs : List Send) : (sendAll s p b xs).homeWaiters = s.homeWaiters := rfl
@[simp] theorem sendAll_banks (s : State) (p : Nat) (b : BlockId) (xs : List Send) : (sendAll s p b xs).banks = s.banks := rfl
@[simp] theorem sendAll_engReqs (s : State) (p : Nat) (b : BlockId) (xs : List Send) : (sendAll s p b xs).engReqs = s.engReqs := rfl
@[simp] theorem sendAll_l2 (s : State) (p : Nat) (b : BlockId) (xs : List Send) : (sendAll s p b xs).l2 = s.l2 := rfl
@[simp] theorem sendAll_served (s : State) (p : Nat) (b : BlockId) (xs : List Send) : (sendAll s p b xs).served = s.served := rfl
@[simp] theorem sendAll_arrived (s : State) (p : Nat) (b : BlockId) (xs : List Send) : (sendAll s p b xs).arrived = s.arrived := rfl
@[simp] theorem sendAll_barData (s : State) (p : Nat) (b : BlockId) (xs : List Send) : (sendAll s p b xs).barData = s.barData := rfl
@[simp] theorem sendAll_reached (s : State) (p : Nat) (b : BlockId) (xs : List Send) : (sendAll s p b xs).reached = s.reached := rfl
@[simp] theorem sendAll_peerCopies (s : State) (p : Nat) (b : BlockId) (xs : List Send) : (sendAll s p b xs).peerCopies = s.peerCopies := rfl
@[simp] theorem sendAll_hostLines (s : State) (p : Nat) (b : BlockId) (xs : List Send) : (sendAll s p b xs).hostLines = s.hostLines := rfl
@[simp] theorem sendAll_hacol (s : State) (p : Nat) (b : BlockId) (xs : List Send) : (sendAll s p b xs).hacol = s.hacol := rfl
@[simp] theorem sendAll_dev (s : State) (p : Nat) (b : BlockId) (xs : List Send) : (sendAll s p b xs).dev = s.dev := rfl
@[simp] theorem sendAll_ports (s : State) (p : Nat) (b : BlockId) (xs : List Send) : (sendAll s p b xs).ports = s.ports := rfl
@[simp] theorem sendAll_streams (s : State) (p : Nat) (b : BlockId) (xs : List Send) : (sendAll s p b xs).streams = s.streams := rfl
@[simp] theorem sendAll_inStreams (s : State) (p : Nat) (b : BlockId) (xs : List Send) : (sendAll s p b xs).inStreams = s.inStreams := rfl
@[simp] theorem sendAll_msi (s : State) (p : Nat) (b : BlockId) (xs : List Send) : (sendAll s p b xs).msi = s.msi := rfl
@[simp] theorem sendAll_queues (s : State) (p : Nat) (b : BlockId) (xs : List Send) : (sendAll s p b xs).queues = s.queues := rfl
@[simp] theorem sendAll_qtbase (s : State) (p : Nat) (b : BlockId) (xs : List Send) : (sendAll s p b xs).qtbase = s.qtbase := rfl
@[simp] theorem sendAll_ready (s : State) (p : Nat) (b : BlockId) (xs : List Send) : (sendAll s p b xs).ready = s.ready := rfl
@[simp] theorem sendAll_turn (s : State) (p : Nat) (b : BlockId) (xs : List Send) : (sendAll s p b xs).turn = s.turn := rfl
@[simp] theorem sendAll_kernels (s : State) (p : Nat) (b : BlockId) (xs : List Send) : (sendAll s p b xs).kernels = s.kernels := rfl
@[simp] theorem sendAll_childDone (s : State) (p : Nat) (b : BlockId) (xs : List Send) : (sendAll s p b xs).childDone = s.childDone := rfl
@[simp] theorem sendAll_doubled (s : State) (p : Nat) (b : BlockId) (xs : List Send) : (sendAll s p b xs).doubled = s.doubled := rfl
@[simp] theorem sendAll_loads (s : State) (p : Nat) (b : BlockId) (xs : List Send) : (sendAll s p b xs).loads = s.loads := rfl
@[simp] theorem sendAll_busyLoads (s : State) (p : Nat) (b : BlockId) (xs : List Send) : (sendAll s p b xs).busyLoads = s.busyLoads := rfl
@[simp] theorem sendAll_cache (s : State) (p : Nat) (b : BlockId) (xs : List Send) : (sendAll s p b xs).cache = s.cache := rfl
@[simp] theorem sendAll_tlbis (s : State) (p : Nat) (b : BlockId) (xs : List Send) : (sendAll s p b xs).tlbis = s.tlbis := rfl
@[simp] theorem sendAll_regWrites (s : State) (p : Nat) (b : BlockId) (xs : List Send) : (sendAll s p b xs).regWrites = s.regWrites := rfl
@[simp] theorem sendAll_furrows (s : State) (p : Nat) (b : BlockId) (xs : List Send) : (sendAll s p b xs).furrows = s.furrows := rfl
@[simp] theorem sendAll_thermal (s : State) (p : Nat) (b : BlockId) (xs : List Send) : (sendAll s p b xs).thermal = s.thermal := rfl
@[simp] theorem sendAll_power (s : State) (p : Nat) (b : BlockId) (xs : List Send) : (sendAll s p b xs).power = s.power := rfl
@[simp] theorem sendAll_cycles (s : State) (p : Nat) (b : BlockId) (xs : List Send) : (sendAll s p b xs).cycles = s.cycles := rfl
@[simp] theorem sendAll_timers (s : State) (p : Nat) (b : BlockId) (xs : List Send) : (sendAll s p b xs).timers = s.timers := rfl

/-! ### sendEntry -/

@[simp] theorem sendEntry_sched (s : State) (edge : EdgeKind) (p : Nat) (b : BlockId) (slot : BitVec 7) (port : BitVec 2) (t : Token) : (sendEntry s edge p b slot port t).sched = s.sched := rfl
@[simp] theorem sendEntry_cur (s : State) (edge : EdgeKind) (p : Nat) (b : BlockId) (slot : BitVec 7) (port : BitVec 2) (t : Token) : (sendEntry s edge p b slot port t).cur = s.cur := rfl
@[simp] theorem sendEntry_fresh (s : State) (edge : EdgeKind) (p : Nat) (b : BlockId) (slot : BitVec 7) (port : BitVec 2) (t : Token) : (sendEntry s edge p b slot port t).fresh = s.fresh := rfl
@[simp] theorem sendEntry_nextId (s : State) (edge : EdgeKind) (p : Nat) (b : BlockId) (slot : BitVec 7) (port : BitVec 2) (t : Token) : (sendEntry s edge p b slot port t).nextId = s.nextId := rfl
@[simp] theorem sendEntry_rows (s : State) (edge : EdgeKind) (p : Nat) (b : BlockId) (slot : BitVec 7) (port : BitVec 2) (t : Token) : (sendEntry s edge p b slot port t).rows = s.rows := rfl
@[simp] theorem sendEntry_plots (s : State) (edge : EdgeKind) (p : Nat) (b : BlockId) (slot : BitVec 7) (port : BitVec 2) (t : Token) : (sendEntry s edge p b slot port t).plots = s.plots := rfl
@[simp] theorem sendEntry_ctxs (s : State) (edge : EdgeKind) (p : Nat) (b : BlockId) (slot : BitVec 7) (port : BitVec 2) (t : Token) : (sendEntry s edge p b slot port t).ctxs = s.ctxs := rfl
@[simp] theorem sendEntry_overrides (s : State) (edge : EdgeKind) (p : Nat) (b : BlockId) (slot : BitVec 7) (port : BitVec 2) (t : Token) : (sendEntry s edge p b slot port t).overrides = s.overrides := rfl
@[simp] theorem sendEntry_mem (s : State) (edge : EdgeKind) (p : Nat) (b : BlockId) (slot : BitVec 7) (port : BitVec 2) (t : Token) : (sendEntry s edge p b slot port t).mem = s.mem := rfl
@[simp] theorem sendEntry_dir (s : State) (edge : EdgeKind) (p : Nat) (b : BlockId) (slot : BitVec 7) (port : BitVec 2) (t : Token) : (sendEntry s edge p b slot port t).dir = s.dir := rfl
@[simp] theorem sendEntry_toHome (s : State) (edge : EdgeKind) (p : Nat) (b : BlockId) (slot : BitVec 7) (port : BitVec 2) (t : Token) : (sendEntry s edge p b slot port t).toHome = s.toHome := rfl
@[simp] theorem sendEntry_toPlot (s : State) (edge : EdgeKind) (p : Nat) (b : BlockId) (slot : BitVec 7) (port : BitVec 2) (t : Token) : (sendEntry s edge p b slot port t).toPlot = s.toPlot := rfl
@[simp] theorem sendEntry_fromOwner (s : State) (edge : EdgeKind) (p : Nat) (b : BlockId) (slot : BitVec 7) (port : BitVec 2) (t : Token) : (sendEntry s edge p b slot port t).fromOwner = s.fromOwner := rfl
@[simp] theorem sendEntry_homeWaiters (s : State) (edge : EdgeKind) (p : Nat) (b : BlockId) (slot : BitVec 7) (port : BitVec 2) (t : Token) : (sendEntry s edge p b slot port t).homeWaiters = s.homeWaiters := rfl
@[simp] theorem sendEntry_banks (s : State) (edge : EdgeKind) (p : Nat) (b : BlockId) (slot : BitVec 7) (port : BitVec 2) (t : Token) : (sendEntry s edge p b slot port t).banks = s.banks := rfl
@[simp] theorem sendEntry_engReqs (s : State) (edge : EdgeKind) (p : Nat) (b : BlockId) (slot : BitVec 7) (port : BitVec 2) (t : Token) : (sendEntry s edge p b slot port t).engReqs = s.engReqs := rfl
@[simp] theorem sendEntry_l2 (s : State) (edge : EdgeKind) (p : Nat) (b : BlockId) (slot : BitVec 7) (port : BitVec 2) (t : Token) : (sendEntry s edge p b slot port t).l2 = s.l2 := rfl
@[simp] theorem sendEntry_served (s : State) (edge : EdgeKind) (p : Nat) (b : BlockId) (slot : BitVec 7) (port : BitVec 2) (t : Token) : (sendEntry s edge p b slot port t).served = s.served := rfl
@[simp] theorem sendEntry_arrived (s : State) (edge : EdgeKind) (p : Nat) (b : BlockId) (slot : BitVec 7) (port : BitVec 2) (t : Token) : (sendEntry s edge p b slot port t).arrived = s.arrived := rfl
@[simp] theorem sendEntry_barData (s : State) (edge : EdgeKind) (p : Nat) (b : BlockId) (slot : BitVec 7) (port : BitVec 2) (t : Token) : (sendEntry s edge p b slot port t).barData = s.barData := rfl
@[simp] theorem sendEntry_reached (s : State) (edge : EdgeKind) (p : Nat) (b : BlockId) (slot : BitVec 7) (port : BitVec 2) (t : Token) : (sendEntry s edge p b slot port t).reached = s.reached := rfl
@[simp] theorem sendEntry_peerCopies (s : State) (edge : EdgeKind) (p : Nat) (b : BlockId) (slot : BitVec 7) (port : BitVec 2) (t : Token) : (sendEntry s edge p b slot port t).peerCopies = s.peerCopies := rfl
@[simp] theorem sendEntry_hostLines (s : State) (edge : EdgeKind) (p : Nat) (b : BlockId) (slot : BitVec 7) (port : BitVec 2) (t : Token) : (sendEntry s edge p b slot port t).hostLines = s.hostLines := rfl
@[simp] theorem sendEntry_hacol (s : State) (edge : EdgeKind) (p : Nat) (b : BlockId) (slot : BitVec 7) (port : BitVec 2) (t : Token) : (sendEntry s edge p b slot port t).hacol = s.hacol := rfl
@[simp] theorem sendEntry_dev (s : State) (edge : EdgeKind) (p : Nat) (b : BlockId) (slot : BitVec 7) (port : BitVec 2) (t : Token) : (sendEntry s edge p b slot port t).dev = s.dev := rfl
@[simp] theorem sendEntry_ports (s : State) (edge : EdgeKind) (p : Nat) (b : BlockId) (slot : BitVec 7) (port : BitVec 2) (t : Token) : (sendEntry s edge p b slot port t).ports = s.ports := rfl
@[simp] theorem sendEntry_streams (s : State) (edge : EdgeKind) (p : Nat) (b : BlockId) (slot : BitVec 7) (port : BitVec 2) (t : Token) : (sendEntry s edge p b slot port t).streams = s.streams := rfl
@[simp] theorem sendEntry_inStreams (s : State) (edge : EdgeKind) (p : Nat) (b : BlockId) (slot : BitVec 7) (port : BitVec 2) (t : Token) : (sendEntry s edge p b slot port t).inStreams = s.inStreams := rfl
@[simp] theorem sendEntry_msi (s : State) (edge : EdgeKind) (p : Nat) (b : BlockId) (slot : BitVec 7) (port : BitVec 2) (t : Token) : (sendEntry s edge p b slot port t).msi = s.msi := rfl
@[simp] theorem sendEntry_queues (s : State) (edge : EdgeKind) (p : Nat) (b : BlockId) (slot : BitVec 7) (port : BitVec 2) (t : Token) : (sendEntry s edge p b slot port t).queues = s.queues := rfl
@[simp] theorem sendEntry_qtbase (s : State) (edge : EdgeKind) (p : Nat) (b : BlockId) (slot : BitVec 7) (port : BitVec 2) (t : Token) : (sendEntry s edge p b slot port t).qtbase = s.qtbase := rfl
@[simp] theorem sendEntry_ready (s : State) (edge : EdgeKind) (p : Nat) (b : BlockId) (slot : BitVec 7) (port : BitVec 2) (t : Token) : (sendEntry s edge p b slot port t).ready = s.ready := rfl
@[simp] theorem sendEntry_turn (s : State) (edge : EdgeKind) (p : Nat) (b : BlockId) (slot : BitVec 7) (port : BitVec 2) (t : Token) : (sendEntry s edge p b slot port t).turn = s.turn := rfl
@[simp] theorem sendEntry_kernels (s : State) (edge : EdgeKind) (p : Nat) (b : BlockId) (slot : BitVec 7) (port : BitVec 2) (t : Token) : (sendEntry s edge p b slot port t).kernels = s.kernels := rfl
@[simp] theorem sendEntry_childDone (s : State) (edge : EdgeKind) (p : Nat) (b : BlockId) (slot : BitVec 7) (port : BitVec 2) (t : Token) : (sendEntry s edge p b slot port t).childDone = s.childDone := rfl
@[simp] theorem sendEntry_doubled (s : State) (edge : EdgeKind) (p : Nat) (b : BlockId) (slot : BitVec 7) (port : BitVec 2) (t : Token) : (sendEntry s edge p b slot port t).doubled = s.doubled := rfl
@[simp] theorem sendEntry_loads (s : State) (edge : EdgeKind) (p : Nat) (b : BlockId) (slot : BitVec 7) (port : BitVec 2) (t : Token) : (sendEntry s edge p b slot port t).loads = s.loads := rfl
@[simp] theorem sendEntry_busyLoads (s : State) (edge : EdgeKind) (p : Nat) (b : BlockId) (slot : BitVec 7) (port : BitVec 2) (t : Token) : (sendEntry s edge p b slot port t).busyLoads = s.busyLoads := rfl
@[simp] theorem sendEntry_cache (s : State) (edge : EdgeKind) (p : Nat) (b : BlockId) (slot : BitVec 7) (port : BitVec 2) (t : Token) : (sendEntry s edge p b slot port t).cache = s.cache := rfl
@[simp] theorem sendEntry_tlbis (s : State) (edge : EdgeKind) (p : Nat) (b : BlockId) (slot : BitVec 7) (port : BitVec 2) (t : Token) : (sendEntry s edge p b slot port t).tlbis = s.tlbis := rfl
@[simp] theorem sendEntry_regWrites (s : State) (edge : EdgeKind) (p : Nat) (b : BlockId) (slot : BitVec 7) (port : BitVec 2) (t : Token) : (sendEntry s edge p b slot port t).regWrites = s.regWrites := rfl
@[simp] theorem sendEntry_furrows (s : State) (edge : EdgeKind) (p : Nat) (b : BlockId) (slot : BitVec 7) (port : BitVec 2) (t : Token) : (sendEntry s edge p b slot port t).furrows = s.furrows := rfl
@[simp] theorem sendEntry_thermal (s : State) (edge : EdgeKind) (p : Nat) (b : BlockId) (slot : BitVec 7) (port : BitVec 2) (t : Token) : (sendEntry s edge p b slot port t).thermal = s.thermal := rfl
@[simp] theorem sendEntry_power (s : State) (edge : EdgeKind) (p : Nat) (b : BlockId) (slot : BitVec 7) (port : BitVec 2) (t : Token) : (sendEntry s edge p b slot port t).power = s.power := rfl
@[simp] theorem sendEntry_cycles (s : State) (edge : EdgeKind) (p : Nat) (b : BlockId) (slot : BitVec 7) (port : BitVec 2) (t : Token) : (sendEntry s edge p b slot port t).cycles = s.cycles := rfl
@[simp] theorem sendEntry_timers (s : State) (edge : EdgeKind) (p : Nat) (b : BlockId) (slot : BitVec 7) (port : BitVec 2) (t : Token) : (sendEntry s edge p b slot port t).timers = s.timers := rfl

/-! ### requestStop -/

@[simp] theorem requestStop_sched (s : State) (c : BitVec 12) (flags : BitVec 16) (cause : BitVec 8) (freeze kill : Bool) : (requestStop s c flags cause freeze kill).sched = s.sched := rfl
@[simp] theorem requestStop_cur (s : State) (c : BitVec 12) (flags : BitVec 16) (cause : BitVec 8) (freeze kill : Bool) : (requestStop s c flags cause freeze kill).cur = s.cur := rfl
@[simp] theorem requestStop_fresh (s : State) (c : BitVec 12) (flags : BitVec 16) (cause : BitVec 8) (freeze kill : Bool) : (requestStop s c flags cause freeze kill).fresh = s.fresh := rfl
@[simp] theorem requestStop_nextId (s : State) (c : BitVec 12) (flags : BitVec 16) (cause : BitVec 8) (freeze kill : Bool) : (requestStop s c flags cause freeze kill).nextId = s.nextId := rfl
@[simp] theorem requestStop_flights (s : State) (c : BitVec 12) (flags : BitVec 16) (cause : BitVec 8) (freeze kill : Bool) : (requestStop s c flags cause freeze kill).flights = s.flights := rfl
@[simp] theorem requestStop_rows (s : State) (c : BitVec 12) (flags : BitVec 16) (cause : BitVec 8) (freeze kill : Bool) : (requestStop s c flags cause freeze kill).rows = s.rows := rfl
@[simp] theorem requestStop_plots (s : State) (c : BitVec 12) (flags : BitVec 16) (cause : BitVec 8) (freeze kill : Bool) : (requestStop s c flags cause freeze kill).plots = s.plots := rfl
@[simp] theorem requestStop_overrides (s : State) (c : BitVec 12) (flags : BitVec 16) (cause : BitVec 8) (freeze kill : Bool) : (requestStop s c flags cause freeze kill).overrides = s.overrides := rfl
@[simp] theorem requestStop_mem (s : State) (c : BitVec 12) (flags : BitVec 16) (cause : BitVec 8) (freeze kill : Bool) : (requestStop s c flags cause freeze kill).mem = s.mem := rfl
@[simp] theorem requestStop_dir (s : State) (c : BitVec 12) (flags : BitVec 16) (cause : BitVec 8) (freeze kill : Bool) : (requestStop s c flags cause freeze kill).dir = s.dir := rfl
@[simp] theorem requestStop_toHome (s : State) (c : BitVec 12) (flags : BitVec 16) (cause : BitVec 8) (freeze kill : Bool) : (requestStop s c flags cause freeze kill).toHome = s.toHome := rfl
@[simp] theorem requestStop_toPlot (s : State) (c : BitVec 12) (flags : BitVec 16) (cause : BitVec 8) (freeze kill : Bool) : (requestStop s c flags cause freeze kill).toPlot = s.toPlot := rfl
@[simp] theorem requestStop_fromOwner (s : State) (c : BitVec 12) (flags : BitVec 16) (cause : BitVec 8) (freeze kill : Bool) : (requestStop s c flags cause freeze kill).fromOwner = s.fromOwner := rfl
@[simp] theorem requestStop_homeWaiters (s : State) (c : BitVec 12) (flags : BitVec 16) (cause : BitVec 8) (freeze kill : Bool) : (requestStop s c flags cause freeze kill).homeWaiters = s.homeWaiters := rfl
@[simp] theorem requestStop_banks (s : State) (c : BitVec 12) (flags : BitVec 16) (cause : BitVec 8) (freeze kill : Bool) : (requestStop s c flags cause freeze kill).banks = s.banks := rfl
@[simp] theorem requestStop_engReqs (s : State) (c : BitVec 12) (flags : BitVec 16) (cause : BitVec 8) (freeze kill : Bool) : (requestStop s c flags cause freeze kill).engReqs = s.engReqs := rfl
@[simp] theorem requestStop_l2 (s : State) (c : BitVec 12) (flags : BitVec 16) (cause : BitVec 8) (freeze kill : Bool) : (requestStop s c flags cause freeze kill).l2 = s.l2 := rfl
@[simp] theorem requestStop_served (s : State) (c : BitVec 12) (flags : BitVec 16) (cause : BitVec 8) (freeze kill : Bool) : (requestStop s c flags cause freeze kill).served = s.served := rfl
@[simp] theorem requestStop_arrived (s : State) (c : BitVec 12) (flags : BitVec 16) (cause : BitVec 8) (freeze kill : Bool) : (requestStop s c flags cause freeze kill).arrived = s.arrived := rfl
@[simp] theorem requestStop_barData (s : State) (c : BitVec 12) (flags : BitVec 16) (cause : BitVec 8) (freeze kill : Bool) : (requestStop s c flags cause freeze kill).barData = s.barData := rfl
@[simp] theorem requestStop_reached (s : State) (c : BitVec 12) (flags : BitVec 16) (cause : BitVec 8) (freeze kill : Bool) : (requestStop s c flags cause freeze kill).reached = s.reached := rfl
@[simp] theorem requestStop_peerCopies (s : State) (c : BitVec 12) (flags : BitVec 16) (cause : BitVec 8) (freeze kill : Bool) : (requestStop s c flags cause freeze kill).peerCopies = s.peerCopies := rfl
@[simp] theorem requestStop_hostLines (s : State) (c : BitVec 12) (flags : BitVec 16) (cause : BitVec 8) (freeze kill : Bool) : (requestStop s c flags cause freeze kill).hostLines = s.hostLines := rfl
@[simp] theorem requestStop_hacol (s : State) (c : BitVec 12) (flags : BitVec 16) (cause : BitVec 8) (freeze kill : Bool) : (requestStop s c flags cause freeze kill).hacol = s.hacol := rfl
@[simp] theorem requestStop_dev (s : State) (c : BitVec 12) (flags : BitVec 16) (cause : BitVec 8) (freeze kill : Bool) : (requestStop s c flags cause freeze kill).dev = s.dev := rfl
@[simp] theorem requestStop_ports (s : State) (c : BitVec 12) (flags : BitVec 16) (cause : BitVec 8) (freeze kill : Bool) : (requestStop s c flags cause freeze kill).ports = s.ports := rfl
@[simp] theorem requestStop_streams (s : State) (c : BitVec 12) (flags : BitVec 16) (cause : BitVec 8) (freeze kill : Bool) : (requestStop s c flags cause freeze kill).streams = s.streams := rfl
@[simp] theorem requestStop_inStreams (s : State) (c : BitVec 12) (flags : BitVec 16) (cause : BitVec 8) (freeze kill : Bool) : (requestStop s c flags cause freeze kill).inStreams = s.inStreams := rfl
@[simp] theorem requestStop_msi (s : State) (c : BitVec 12) (flags : BitVec 16) (cause : BitVec 8) (freeze kill : Bool) : (requestStop s c flags cause freeze kill).msi = s.msi := rfl
@[simp] theorem requestStop_queues (s : State) (c : BitVec 12) (flags : BitVec 16) (cause : BitVec 8) (freeze kill : Bool) : (requestStop s c flags cause freeze kill).queues = s.queues := rfl
@[simp] theorem requestStop_qtbase (s : State) (c : BitVec 12) (flags : BitVec 16) (cause : BitVec 8) (freeze kill : Bool) : (requestStop s c flags cause freeze kill).qtbase = s.qtbase := rfl
@[simp] theorem requestStop_ready (s : State) (c : BitVec 12) (flags : BitVec 16) (cause : BitVec 8) (freeze kill : Bool) : (requestStop s c flags cause freeze kill).ready = s.ready := rfl
@[simp] theorem requestStop_turn (s : State) (c : BitVec 12) (flags : BitVec 16) (cause : BitVec 8) (freeze kill : Bool) : (requestStop s c flags cause freeze kill).turn = s.turn := rfl
@[simp] theorem requestStop_kernels (s : State) (c : BitVec 12) (flags : BitVec 16) (cause : BitVec 8) (freeze kill : Bool) : (requestStop s c flags cause freeze kill).kernels = s.kernels := rfl
@[simp] theorem requestStop_childDone (s : State) (c : BitVec 12) (flags : BitVec 16) (cause : BitVec 8) (freeze kill : Bool) : (requestStop s c flags cause freeze kill).childDone = s.childDone := rfl
@[simp] theorem requestStop_doubled (s : State) (c : BitVec 12) (flags : BitVec 16) (cause : BitVec 8) (freeze kill : Bool) : (requestStop s c flags cause freeze kill).doubled = s.doubled := rfl
@[simp] theorem requestStop_loads (s : State) (c : BitVec 12) (flags : BitVec 16) (cause : BitVec 8) (freeze kill : Bool) : (requestStop s c flags cause freeze kill).loads = s.loads := rfl
@[simp] theorem requestStop_busyLoads (s : State) (c : BitVec 12) (flags : BitVec 16) (cause : BitVec 8) (freeze kill : Bool) : (requestStop s c flags cause freeze kill).busyLoads = s.busyLoads := rfl
@[simp] theorem requestStop_cache (s : State) (c : BitVec 12) (flags : BitVec 16) (cause : BitVec 8) (freeze kill : Bool) : (requestStop s c flags cause freeze kill).cache = s.cache := rfl
@[simp] theorem requestStop_tlbis (s : State) (c : BitVec 12) (flags : BitVec 16) (cause : BitVec 8) (freeze kill : Bool) : (requestStop s c flags cause freeze kill).tlbis = s.tlbis := rfl
@[simp] theorem requestStop_regWrites (s : State) (c : BitVec 12) (flags : BitVec 16) (cause : BitVec 8) (freeze kill : Bool) : (requestStop s c flags cause freeze kill).regWrites = s.regWrites := rfl
@[simp] theorem requestStop_furrows (s : State) (c : BitVec 12) (flags : BitVec 16) (cause : BitVec 8) (freeze kill : Bool) : (requestStop s c flags cause freeze kill).furrows = s.furrows := rfl
@[simp] theorem requestStop_thermal (s : State) (c : BitVec 12) (flags : BitVec 16) (cause : BitVec 8) (freeze kill : Bool) : (requestStop s c flags cause freeze kill).thermal = s.thermal := rfl
@[simp] theorem requestStop_power (s : State) (c : BitVec 12) (flags : BitVec 16) (cause : BitVec 8) (freeze kill : Bool) : (requestStop s c flags cause freeze kill).power = s.power := rfl
@[simp] theorem requestStop_cycles (s : State) (c : BitVec 12) (flags : BitVec 16) (cause : BitVec 8) (freeze kill : Bool) : (requestStop s c flags cause freeze kill).cycles = s.cycles := rfl
@[simp] theorem requestStop_timers (s : State) (c : BitVec 12) (flags : BitVec 16) (cause : BitVec 8) (freeze kill : Bool) : (requestStop s c flags cause freeze kill).timers = s.timers := rfl

/-! ### takeSet -/

@[simp] theorem takeSet_sched (s : State) (p : Nat) (b : BlockId) (m : MatchedSet) : (takeSet s p b m).sched = s.sched := rfl
@[simp] theorem takeSet_cur (s : State) (p : Nat) (b : BlockId) (m : MatchedSet) : (takeSet s p b m).cur = s.cur := rfl
@[simp] theorem takeSet_fresh (s : State) (p : Nat) (b : BlockId) (m : MatchedSet) : (takeSet s p b m).fresh = s.fresh := rfl
@[simp] theorem takeSet_nextId (s : State) (p : Nat) (b : BlockId) (m : MatchedSet) : (takeSet s p b m).nextId = s.nextId := rfl
@[simp] theorem takeSet_flights (s : State) (p : Nat) (b : BlockId) (m : MatchedSet) : (takeSet s p b m).flights = s.flights := rfl
@[simp] theorem takeSet_rows (s : State) (p : Nat) (b : BlockId) (m : MatchedSet) : (takeSet s p b m).rows = s.rows := rfl
@[simp] theorem takeSet_ctxs (s : State) (p : Nat) (b : BlockId) (m : MatchedSet) : (takeSet s p b m).ctxs = s.ctxs := rfl
@[simp] theorem takeSet_overrides (s : State) (p : Nat) (b : BlockId) (m : MatchedSet) : (takeSet s p b m).overrides = s.overrides := rfl
@[simp] theorem takeSet_mem (s : State) (p : Nat) (b : BlockId) (m : MatchedSet) : (takeSet s p b m).mem = s.mem := rfl
@[simp] theorem takeSet_dir (s : State) (p : Nat) (b : BlockId) (m : MatchedSet) : (takeSet s p b m).dir = s.dir := rfl
@[simp] theorem takeSet_toHome (s : State) (p : Nat) (b : BlockId) (m : MatchedSet) : (takeSet s p b m).toHome = s.toHome := rfl
@[simp] theorem takeSet_toPlot (s : State) (p : Nat) (b : BlockId) (m : MatchedSet) : (takeSet s p b m).toPlot = s.toPlot := rfl
@[simp] theorem takeSet_fromOwner (s : State) (p : Nat) (b : BlockId) (m : MatchedSet) : (takeSet s p b m).fromOwner = s.fromOwner := rfl
@[simp] theorem takeSet_homeWaiters (s : State) (p : Nat) (b : BlockId) (m : MatchedSet) : (takeSet s p b m).homeWaiters = s.homeWaiters := rfl
@[simp] theorem takeSet_banks (s : State) (p : Nat) (b : BlockId) (m : MatchedSet) : (takeSet s p b m).banks = s.banks := rfl
@[simp] theorem takeSet_engReqs (s : State) (p : Nat) (b : BlockId) (m : MatchedSet) : (takeSet s p b m).engReqs = s.engReqs := rfl
@[simp] theorem takeSet_l2 (s : State) (p : Nat) (b : BlockId) (m : MatchedSet) : (takeSet s p b m).l2 = s.l2 := rfl
@[simp] theorem takeSet_served (s : State) (p : Nat) (b : BlockId) (m : MatchedSet) : (takeSet s p b m).served = s.served := rfl
@[simp] theorem takeSet_arrived (s : State) (p : Nat) (b : BlockId) (m : MatchedSet) : (takeSet s p b m).arrived = s.arrived := rfl
@[simp] theorem takeSet_barData (s : State) (p : Nat) (b : BlockId) (m : MatchedSet) : (takeSet s p b m).barData = s.barData := rfl
@[simp] theorem takeSet_reached (s : State) (p : Nat) (b : BlockId) (m : MatchedSet) : (takeSet s p b m).reached = s.reached := rfl
@[simp] theorem takeSet_peerCopies (s : State) (p : Nat) (b : BlockId) (m : MatchedSet) : (takeSet s p b m).peerCopies = s.peerCopies := rfl
@[simp] theorem takeSet_hostLines (s : State) (p : Nat) (b : BlockId) (m : MatchedSet) : (takeSet s p b m).hostLines = s.hostLines := rfl
@[simp] theorem takeSet_hacol (s : State) (p : Nat) (b : BlockId) (m : MatchedSet) : (takeSet s p b m).hacol = s.hacol := rfl
@[simp] theorem takeSet_dev (s : State) (p : Nat) (b : BlockId) (m : MatchedSet) : (takeSet s p b m).dev = s.dev := rfl
@[simp] theorem takeSet_ports (s : State) (p : Nat) (b : BlockId) (m : MatchedSet) : (takeSet s p b m).ports = s.ports := rfl
@[simp] theorem takeSet_streams (s : State) (p : Nat) (b : BlockId) (m : MatchedSet) : (takeSet s p b m).streams = s.streams := rfl
@[simp] theorem takeSet_inStreams (s : State) (p : Nat) (b : BlockId) (m : MatchedSet) : (takeSet s p b m).inStreams = s.inStreams := rfl
@[simp] theorem takeSet_msi (s : State) (p : Nat) (b : BlockId) (m : MatchedSet) : (takeSet s p b m).msi = s.msi := rfl
@[simp] theorem takeSet_queues (s : State) (p : Nat) (b : BlockId) (m : MatchedSet) : (takeSet s p b m).queues = s.queues := rfl
@[simp] theorem takeSet_qtbase (s : State) (p : Nat) (b : BlockId) (m : MatchedSet) : (takeSet s p b m).qtbase = s.qtbase := rfl
@[simp] theorem takeSet_ready (s : State) (p : Nat) (b : BlockId) (m : MatchedSet) : (takeSet s p b m).ready = s.ready := rfl
@[simp] theorem takeSet_turn (s : State) (p : Nat) (b : BlockId) (m : MatchedSet) : (takeSet s p b m).turn = s.turn := rfl
@[simp] theorem takeSet_kernels (s : State) (p : Nat) (b : BlockId) (m : MatchedSet) : (takeSet s p b m).kernels = s.kernels := rfl
@[simp] theorem takeSet_childDone (s : State) (p : Nat) (b : BlockId) (m : MatchedSet) : (takeSet s p b m).childDone = s.childDone := rfl
@[simp] theorem takeSet_doubled (s : State) (p : Nat) (b : BlockId) (m : MatchedSet) : (takeSet s p b m).doubled = s.doubled := rfl
@[simp] theorem takeSet_loads (s : State) (p : Nat) (b : BlockId) (m : MatchedSet) : (takeSet s p b m).loads = s.loads := rfl
@[simp] theorem takeSet_busyLoads (s : State) (p : Nat) (b : BlockId) (m : MatchedSet) : (takeSet s p b m).busyLoads = s.busyLoads := rfl
@[simp] theorem takeSet_cache (s : State) (p : Nat) (b : BlockId) (m : MatchedSet) : (takeSet s p b m).cache = s.cache := rfl
@[simp] theorem takeSet_tlbis (s : State) (p : Nat) (b : BlockId) (m : MatchedSet) : (takeSet s p b m).tlbis = s.tlbis := rfl
@[simp] theorem takeSet_regWrites (s : State) (p : Nat) (b : BlockId) (m : MatchedSet) : (takeSet s p b m).regWrites = s.regWrites := rfl
@[simp] theorem takeSet_furrows (s : State) (p : Nat) (b : BlockId) (m : MatchedSet) : (takeSet s p b m).furrows = s.furrows := rfl
@[simp] theorem takeSet_thermal (s : State) (p : Nat) (b : BlockId) (m : MatchedSet) : (takeSet s p b m).thermal = s.thermal := rfl
@[simp] theorem takeSet_power (s : State) (p : Nat) (b : BlockId) (m : MatchedSet) : (takeSet s p b m).power = s.power := rfl
@[simp] theorem takeSet_cycles (s : State) (p : Nat) (b : BlockId) (m : MatchedSet) : (takeSet s p b m).cycles = s.cycles := rfl
@[simp] theorem takeSet_timers (s : State) (p : Nat) (b : BlockId) (m : MatchedSet) : (takeSet s p b m).timers = s.timers := rfl

/-! ### countSet -/

@[simp] theorem countSet_sched (s : State) (p : Nat) (c : BitVec 12) (yld : Bool) : (countSet s p c yld).sched = s.sched := rfl
@[simp] theorem countSet_cur (s : State) (p : Nat) (c : BitVec 12) (yld : Bool) : (countSet s p c yld).cur = s.cur := rfl
@[simp] theorem countSet_fresh (s : State) (p : Nat) (c : BitVec 12) (yld : Bool) : (countSet s p c yld).fresh = s.fresh := rfl
@[simp] theorem countSet_nextId (s : State) (p : Nat) (c : BitVec 12) (yld : Bool) : (countSet s p c yld).nextId = s.nextId := rfl
@[simp] theorem countSet_flights (s : State) (p : Nat) (c : BitVec 12) (yld : Bool) : (countSet s p c yld).flights = s.flights := rfl
@[simp] theorem countSet_rows (s : State) (p : Nat) (c : BitVec 12) (yld : Bool) : (countSet s p c yld).rows = s.rows := rfl
@[simp] theorem countSet_plots (s : State) (p : Nat) (c : BitVec 12) (yld : Bool) : (countSet s p c yld).plots = s.plots := rfl
@[simp] theorem countSet_overrides (s : State) (p : Nat) (c : BitVec 12) (yld : Bool) : (countSet s p c yld).overrides = s.overrides := rfl
@[simp] theorem countSet_mem (s : State) (p : Nat) (c : BitVec 12) (yld : Bool) : (countSet s p c yld).mem = s.mem := rfl
@[simp] theorem countSet_dir (s : State) (p : Nat) (c : BitVec 12) (yld : Bool) : (countSet s p c yld).dir = s.dir := rfl
@[simp] theorem countSet_toHome (s : State) (p : Nat) (c : BitVec 12) (yld : Bool) : (countSet s p c yld).toHome = s.toHome := rfl
@[simp] theorem countSet_toPlot (s : State) (p : Nat) (c : BitVec 12) (yld : Bool) : (countSet s p c yld).toPlot = s.toPlot := rfl
@[simp] theorem countSet_fromOwner (s : State) (p : Nat) (c : BitVec 12) (yld : Bool) : (countSet s p c yld).fromOwner = s.fromOwner := rfl
@[simp] theorem countSet_homeWaiters (s : State) (p : Nat) (c : BitVec 12) (yld : Bool) : (countSet s p c yld).homeWaiters = s.homeWaiters := rfl
@[simp] theorem countSet_banks (s : State) (p : Nat) (c : BitVec 12) (yld : Bool) : (countSet s p c yld).banks = s.banks := rfl
@[simp] theorem countSet_engReqs (s : State) (p : Nat) (c : BitVec 12) (yld : Bool) : (countSet s p c yld).engReqs = s.engReqs := rfl
@[simp] theorem countSet_l2 (s : State) (p : Nat) (c : BitVec 12) (yld : Bool) : (countSet s p c yld).l2 = s.l2 := rfl
@[simp] theorem countSet_served (s : State) (p : Nat) (c : BitVec 12) (yld : Bool) : (countSet s p c yld).served = s.served := rfl
@[simp] theorem countSet_arrived (s : State) (p : Nat) (c : BitVec 12) (yld : Bool) : (countSet s p c yld).arrived = s.arrived := rfl
@[simp] theorem countSet_barData (s : State) (p : Nat) (c : BitVec 12) (yld : Bool) : (countSet s p c yld).barData = s.barData := rfl
@[simp] theorem countSet_reached (s : State) (p : Nat) (c : BitVec 12) (yld : Bool) : (countSet s p c yld).reached = s.reached := rfl
@[simp] theorem countSet_peerCopies (s : State) (p : Nat) (c : BitVec 12) (yld : Bool) : (countSet s p c yld).peerCopies = s.peerCopies := rfl
@[simp] theorem countSet_hostLines (s : State) (p : Nat) (c : BitVec 12) (yld : Bool) : (countSet s p c yld).hostLines = s.hostLines := rfl
@[simp] theorem countSet_hacol (s : State) (p : Nat) (c : BitVec 12) (yld : Bool) : (countSet s p c yld).hacol = s.hacol := rfl
@[simp] theorem countSet_dev (s : State) (p : Nat) (c : BitVec 12) (yld : Bool) : (countSet s p c yld).dev = s.dev := rfl
@[simp] theorem countSet_ports (s : State) (p : Nat) (c : BitVec 12) (yld : Bool) : (countSet s p c yld).ports = s.ports := rfl
@[simp] theorem countSet_streams (s : State) (p : Nat) (c : BitVec 12) (yld : Bool) : (countSet s p c yld).streams = s.streams := rfl
@[simp] theorem countSet_inStreams (s : State) (p : Nat) (c : BitVec 12) (yld : Bool) : (countSet s p c yld).inStreams = s.inStreams := rfl
@[simp] theorem countSet_msi (s : State) (p : Nat) (c : BitVec 12) (yld : Bool) : (countSet s p c yld).msi = s.msi := rfl
@[simp] theorem countSet_queues (s : State) (p : Nat) (c : BitVec 12) (yld : Bool) : (countSet s p c yld).queues = s.queues := rfl
@[simp] theorem countSet_qtbase (s : State) (p : Nat) (c : BitVec 12) (yld : Bool) : (countSet s p c yld).qtbase = s.qtbase := rfl
@[simp] theorem countSet_ready (s : State) (p : Nat) (c : BitVec 12) (yld : Bool) : (countSet s p c yld).ready = s.ready := rfl
@[simp] theorem countSet_turn (s : State) (p : Nat) (c : BitVec 12) (yld : Bool) : (countSet s p c yld).turn = s.turn := rfl
@[simp] theorem countSet_kernels (s : State) (p : Nat) (c : BitVec 12) (yld : Bool) : (countSet s p c yld).kernels = s.kernels := rfl
@[simp] theorem countSet_childDone (s : State) (p : Nat) (c : BitVec 12) (yld : Bool) : (countSet s p c yld).childDone = s.childDone := rfl
@[simp] theorem countSet_doubled (s : State) (p : Nat) (c : BitVec 12) (yld : Bool) : (countSet s p c yld).doubled = s.doubled := rfl
@[simp] theorem countSet_loads (s : State) (p : Nat) (c : BitVec 12) (yld : Bool) : (countSet s p c yld).loads = s.loads := rfl
@[simp] theorem countSet_busyLoads (s : State) (p : Nat) (c : BitVec 12) (yld : Bool) : (countSet s p c yld).busyLoads = s.busyLoads := rfl
@[simp] theorem countSet_cache (s : State) (p : Nat) (c : BitVec 12) (yld : Bool) : (countSet s p c yld).cache = s.cache := rfl
@[simp] theorem countSet_tlbis (s : State) (p : Nat) (c : BitVec 12) (yld : Bool) : (countSet s p c yld).tlbis = s.tlbis := rfl
@[simp] theorem countSet_regWrites (s : State) (p : Nat) (c : BitVec 12) (yld : Bool) : (countSet s p c yld).regWrites = s.regWrites := rfl
@[simp] theorem countSet_furrows (s : State) (p : Nat) (c : BitVec 12) (yld : Bool) : (countSet s p c yld).furrows = s.furrows := rfl
@[simp] theorem countSet_thermal (s : State) (p : Nat) (c : BitVec 12) (yld : Bool) : (countSet s p c yld).thermal = s.thermal := rfl
@[simp] theorem countSet_power (s : State) (p : Nat) (c : BitVec 12) (yld : Bool) : (countSet s p c yld).power = s.power := rfl
@[simp] theorem countSet_cycles (s : State) (p : Nat) (c : BitVec 12) (yld : Bool) : (countSet s p c yld).cycles = s.cycles := rfl
@[simp] theorem countSet_timers (s : State) (p : Nat) (c : BitVec 12) (yld : Bool) : (countSet s p c yld).timers = s.timers := rfl

/-! ### consume -/

@[simp] theorem consume_sched (s : State) (p : Nat) (b : BlockId) (m : MatchedSet) : (consume s p b m).sched = s.sched := rfl
@[simp] theorem consume_nextId (s : State) (p : Nat) (b : BlockId) (m : MatchedSet) : (consume s p b m).nextId = s.nextId := rfl
@[simp] theorem consume_flights (s : State) (p : Nat) (b : BlockId) (m : MatchedSet) : (consume s p b m).flights = s.flights := rfl
@[simp] theorem consume_rows (s : State) (p : Nat) (b : BlockId) (m : MatchedSet) : (consume s p b m).rows = s.rows := rfl
@[simp] theorem consume_overrides (s : State) (p : Nat) (b : BlockId) (m : MatchedSet) : (consume s p b m).overrides = s.overrides := rfl
@[simp] theorem consume_mem (s : State) (p : Nat) (b : BlockId) (m : MatchedSet) : (consume s p b m).mem = s.mem := rfl
@[simp] theorem consume_dir (s : State) (p : Nat) (b : BlockId) (m : MatchedSet) : (consume s p b m).dir = s.dir := rfl
@[simp] theorem consume_toHome (s : State) (p : Nat) (b : BlockId) (m : MatchedSet) : (consume s p b m).toHome = s.toHome := rfl
@[simp] theorem consume_toPlot (s : State) (p : Nat) (b : BlockId) (m : MatchedSet) : (consume s p b m).toPlot = s.toPlot := rfl
@[simp] theorem consume_fromOwner (s : State) (p : Nat) (b : BlockId) (m : MatchedSet) : (consume s p b m).fromOwner = s.fromOwner := rfl
@[simp] theorem consume_homeWaiters (s : State) (p : Nat) (b : BlockId) (m : MatchedSet) : (consume s p b m).homeWaiters = s.homeWaiters := rfl
@[simp] theorem consume_banks (s : State) (p : Nat) (b : BlockId) (m : MatchedSet) : (consume s p b m).banks = s.banks := rfl
@[simp] theorem consume_engReqs (s : State) (p : Nat) (b : BlockId) (m : MatchedSet) : (consume s p b m).engReqs = s.engReqs := rfl
@[simp] theorem consume_l2 (s : State) (p : Nat) (b : BlockId) (m : MatchedSet) : (consume s p b m).l2 = s.l2 := rfl
@[simp] theorem consume_served (s : State) (p : Nat) (b : BlockId) (m : MatchedSet) : (consume s p b m).served = s.served := rfl
@[simp] theorem consume_arrived (s : State) (p : Nat) (b : BlockId) (m : MatchedSet) : (consume s p b m).arrived = s.arrived := rfl
@[simp] theorem consume_barData (s : State) (p : Nat) (b : BlockId) (m : MatchedSet) : (consume s p b m).barData = s.barData := rfl
@[simp] theorem consume_reached (s : State) (p : Nat) (b : BlockId) (m : MatchedSet) : (consume s p b m).reached = s.reached := rfl
@[simp] theorem consume_peerCopies (s : State) (p : Nat) (b : BlockId) (m : MatchedSet) : (consume s p b m).peerCopies = s.peerCopies := rfl
@[simp] theorem consume_hostLines (s : State) (p : Nat) (b : BlockId) (m : MatchedSet) : (consume s p b m).hostLines = s.hostLines := rfl
@[simp] theorem consume_hacol (s : State) (p : Nat) (b : BlockId) (m : MatchedSet) : (consume s p b m).hacol = s.hacol := rfl
@[simp] theorem consume_dev (s : State) (p : Nat) (b : BlockId) (m : MatchedSet) : (consume s p b m).dev = s.dev := rfl
@[simp] theorem consume_ports (s : State) (p : Nat) (b : BlockId) (m : MatchedSet) : (consume s p b m).ports = s.ports := rfl
@[simp] theorem consume_streams (s : State) (p : Nat) (b : BlockId) (m : MatchedSet) : (consume s p b m).streams = s.streams := rfl
@[simp] theorem consume_inStreams (s : State) (p : Nat) (b : BlockId) (m : MatchedSet) : (consume s p b m).inStreams = s.inStreams := rfl
@[simp] theorem consume_msi (s : State) (p : Nat) (b : BlockId) (m : MatchedSet) : (consume s p b m).msi = s.msi := rfl
@[simp] theorem consume_queues (s : State) (p : Nat) (b : BlockId) (m : MatchedSet) : (consume s p b m).queues = s.queues := rfl
@[simp] theorem consume_qtbase (s : State) (p : Nat) (b : BlockId) (m : MatchedSet) : (consume s p b m).qtbase = s.qtbase := rfl
@[simp] theorem consume_ready (s : State) (p : Nat) (b : BlockId) (m : MatchedSet) : (consume s p b m).ready = s.ready := rfl
@[simp] theorem consume_turn (s : State) (p : Nat) (b : BlockId) (m : MatchedSet) : (consume s p b m).turn = s.turn := rfl
@[simp] theorem consume_kernels (s : State) (p : Nat) (b : BlockId) (m : MatchedSet) : (consume s p b m).kernels = s.kernels := rfl
@[simp] theorem consume_childDone (s : State) (p : Nat) (b : BlockId) (m : MatchedSet) : (consume s p b m).childDone = s.childDone := rfl
@[simp] theorem consume_doubled (s : State) (p : Nat) (b : BlockId) (m : MatchedSet) : (consume s p b m).doubled = s.doubled := rfl
@[simp] theorem consume_loads (s : State) (p : Nat) (b : BlockId) (m : MatchedSet) : (consume s p b m).loads = s.loads := rfl
@[simp] theorem consume_busyLoads (s : State) (p : Nat) (b : BlockId) (m : MatchedSet) : (consume s p b m).busyLoads = s.busyLoads := rfl
@[simp] theorem consume_cache (s : State) (p : Nat) (b : BlockId) (m : MatchedSet) : (consume s p b m).cache = s.cache := rfl
@[simp] theorem consume_tlbis (s : State) (p : Nat) (b : BlockId) (m : MatchedSet) : (consume s p b m).tlbis = s.tlbis := rfl
@[simp] theorem consume_regWrites (s : State) (p : Nat) (b : BlockId) (m : MatchedSet) : (consume s p b m).regWrites = s.regWrites := rfl
@[simp] theorem consume_furrows (s : State) (p : Nat) (b : BlockId) (m : MatchedSet) : (consume s p b m).furrows = s.furrows := rfl
@[simp] theorem consume_thermal (s : State) (p : Nat) (b : BlockId) (m : MatchedSet) : (consume s p b m).thermal = s.thermal := rfl
@[simp] theorem consume_power (s : State) (p : Nat) (b : BlockId) (m : MatchedSet) : (consume s p b m).power = s.power := rfl
@[simp] theorem consume_cycles (s : State) (p : Nat) (b : BlockId) (m : MatchedSet) : (consume s p b m).cycles = s.cycles := rfl
@[simp] theorem consume_timers (s : State) (p : Nat) (b : BlockId) (m : MatchedSet) : (consume s p b m).timers = s.timers := rfl

/-! ### freshHandlerWave -/

@[simp] theorem freshHandlerWave_sched (s : State) (p : Nat) (c : BitVec 12) (g : BitVec 3) (thread : BitVec 10) : (freshHandlerWave s p c g thread).sched = s.sched := rfl
@[simp] theorem freshHandlerWave_cur (s : State) (p : Nat) (c : BitVec 12) (g : BitVec 3) (thread : BitVec 10) : (freshHandlerWave s p c g thread).cur = s.cur := rfl
@[simp] theorem freshHandlerWave_fresh (s : State) (p : Nat) (c : BitVec 12) (g : BitVec 3) (thread : BitVec 10) : (freshHandlerWave s p c g thread).fresh = s.fresh := rfl
@[simp] theorem freshHandlerWave_nextId (s : State) (p : Nat) (c : BitVec 12) (g : BitVec 3) (thread : BitVec 10) : (freshHandlerWave s p c g thread).nextId = s.nextId := rfl
@[simp] theorem freshHandlerWave_flights (s : State) (p : Nat) (c : BitVec 12) (g : BitVec 3) (thread : BitVec 10) : (freshHandlerWave s p c g thread).flights = s.flights := rfl
@[simp] theorem freshHandlerWave_rows (s : State) (p : Nat) (c : BitVec 12) (g : BitVec 3) (thread : BitVec 10) : (freshHandlerWave s p c g thread).rows = s.rows := rfl
@[simp] theorem freshHandlerWave_ctxs (s : State) (p : Nat) (c : BitVec 12) (g : BitVec 3) (thread : BitVec 10) : (freshHandlerWave s p c g thread).ctxs = s.ctxs := rfl
@[simp] theorem freshHandlerWave_overrides (s : State) (p : Nat) (c : BitVec 12) (g : BitVec 3) (thread : BitVec 10) : (freshHandlerWave s p c g thread).overrides = s.overrides := rfl
@[simp] theorem freshHandlerWave_mem (s : State) (p : Nat) (c : BitVec 12) (g : BitVec 3) (thread : BitVec 10) : (freshHandlerWave s p c g thread).mem = s.mem := rfl
@[simp] theorem freshHandlerWave_dir (s : State) (p : Nat) (c : BitVec 12) (g : BitVec 3) (thread : BitVec 10) : (freshHandlerWave s p c g thread).dir = s.dir := rfl
@[simp] theorem freshHandlerWave_toHome (s : State) (p : Nat) (c : BitVec 12) (g : BitVec 3) (thread : BitVec 10) : (freshHandlerWave s p c g thread).toHome = s.toHome := rfl
@[simp] theorem freshHandlerWave_toPlot (s : State) (p : Nat) (c : BitVec 12) (g : BitVec 3) (thread : BitVec 10) : (freshHandlerWave s p c g thread).toPlot = s.toPlot := rfl
@[simp] theorem freshHandlerWave_fromOwner (s : State) (p : Nat) (c : BitVec 12) (g : BitVec 3) (thread : BitVec 10) : (freshHandlerWave s p c g thread).fromOwner = s.fromOwner := rfl
@[simp] theorem freshHandlerWave_homeWaiters (s : State) (p : Nat) (c : BitVec 12) (g : BitVec 3) (thread : BitVec 10) : (freshHandlerWave s p c g thread).homeWaiters = s.homeWaiters := rfl
@[simp] theorem freshHandlerWave_banks (s : State) (p : Nat) (c : BitVec 12) (g : BitVec 3) (thread : BitVec 10) : (freshHandlerWave s p c g thread).banks = s.banks := rfl
@[simp] theorem freshHandlerWave_engReqs (s : State) (p : Nat) (c : BitVec 12) (g : BitVec 3) (thread : BitVec 10) : (freshHandlerWave s p c g thread).engReqs = s.engReqs := rfl
@[simp] theorem freshHandlerWave_l2 (s : State) (p : Nat) (c : BitVec 12) (g : BitVec 3) (thread : BitVec 10) : (freshHandlerWave s p c g thread).l2 = s.l2 := rfl
@[simp] theorem freshHandlerWave_served (s : State) (p : Nat) (c : BitVec 12) (g : BitVec 3) (thread : BitVec 10) : (freshHandlerWave s p c g thread).served = s.served := rfl
@[simp] theorem freshHandlerWave_arrived (s : State) (p : Nat) (c : BitVec 12) (g : BitVec 3) (thread : BitVec 10) : (freshHandlerWave s p c g thread).arrived = s.arrived := rfl
@[simp] theorem freshHandlerWave_barData (s : State) (p : Nat) (c : BitVec 12) (g : BitVec 3) (thread : BitVec 10) : (freshHandlerWave s p c g thread).barData = s.barData := rfl
@[simp] theorem freshHandlerWave_reached (s : State) (p : Nat) (c : BitVec 12) (g : BitVec 3) (thread : BitVec 10) : (freshHandlerWave s p c g thread).reached = s.reached := rfl
@[simp] theorem freshHandlerWave_peerCopies (s : State) (p : Nat) (c : BitVec 12) (g : BitVec 3) (thread : BitVec 10) : (freshHandlerWave s p c g thread).peerCopies = s.peerCopies := rfl
@[simp] theorem freshHandlerWave_hostLines (s : State) (p : Nat) (c : BitVec 12) (g : BitVec 3) (thread : BitVec 10) : (freshHandlerWave s p c g thread).hostLines = s.hostLines := rfl
@[simp] theorem freshHandlerWave_hacol (s : State) (p : Nat) (c : BitVec 12) (g : BitVec 3) (thread : BitVec 10) : (freshHandlerWave s p c g thread).hacol = s.hacol := rfl
@[simp] theorem freshHandlerWave_dev (s : State) (p : Nat) (c : BitVec 12) (g : BitVec 3) (thread : BitVec 10) : (freshHandlerWave s p c g thread).dev = s.dev := rfl
@[simp] theorem freshHandlerWave_ports (s : State) (p : Nat) (c : BitVec 12) (g : BitVec 3) (thread : BitVec 10) : (freshHandlerWave s p c g thread).ports = s.ports := rfl
@[simp] theorem freshHandlerWave_streams (s : State) (p : Nat) (c : BitVec 12) (g : BitVec 3) (thread : BitVec 10) : (freshHandlerWave s p c g thread).streams = s.streams := rfl
@[simp] theorem freshHandlerWave_inStreams (s : State) (p : Nat) (c : BitVec 12) (g : BitVec 3) (thread : BitVec 10) : (freshHandlerWave s p c g thread).inStreams = s.inStreams := rfl
@[simp] theorem freshHandlerWave_msi (s : State) (p : Nat) (c : BitVec 12) (g : BitVec 3) (thread : BitVec 10) : (freshHandlerWave s p c g thread).msi = s.msi := rfl
@[simp] theorem freshHandlerWave_queues (s : State) (p : Nat) (c : BitVec 12) (g : BitVec 3) (thread : BitVec 10) : (freshHandlerWave s p c g thread).queues = s.queues := rfl
@[simp] theorem freshHandlerWave_qtbase (s : State) (p : Nat) (c : BitVec 12) (g : BitVec 3) (thread : BitVec 10) : (freshHandlerWave s p c g thread).qtbase = s.qtbase := rfl
@[simp] theorem freshHandlerWave_ready (s : State) (p : Nat) (c : BitVec 12) (g : BitVec 3) (thread : BitVec 10) : (freshHandlerWave s p c g thread).ready = s.ready := rfl
@[simp] theorem freshHandlerWave_turn (s : State) (p : Nat) (c : BitVec 12) (g : BitVec 3) (thread : BitVec 10) : (freshHandlerWave s p c g thread).turn = s.turn := rfl
@[simp] theorem freshHandlerWave_kernels (s : State) (p : Nat) (c : BitVec 12) (g : BitVec 3) (thread : BitVec 10) : (freshHandlerWave s p c g thread).kernels = s.kernels := rfl
@[simp] theorem freshHandlerWave_childDone (s : State) (p : Nat) (c : BitVec 12) (g : BitVec 3) (thread : BitVec 10) : (freshHandlerWave s p c g thread).childDone = s.childDone := rfl
@[simp] theorem freshHandlerWave_doubled (s : State) (p : Nat) (c : BitVec 12) (g : BitVec 3) (thread : BitVec 10) : (freshHandlerWave s p c g thread).doubled = s.doubled := rfl
@[simp] theorem freshHandlerWave_loads (s : State) (p : Nat) (c : BitVec 12) (g : BitVec 3) (thread : BitVec 10) : (freshHandlerWave s p c g thread).loads = s.loads := rfl
@[simp] theorem freshHandlerWave_busyLoads (s : State) (p : Nat) (c : BitVec 12) (g : BitVec 3) (thread : BitVec 10) : (freshHandlerWave s p c g thread).busyLoads = s.busyLoads := rfl
@[simp] theorem freshHandlerWave_cache (s : State) (p : Nat) (c : BitVec 12) (g : BitVec 3) (thread : BitVec 10) : (freshHandlerWave s p c g thread).cache = s.cache := rfl
@[simp] theorem freshHandlerWave_tlbis (s : State) (p : Nat) (c : BitVec 12) (g : BitVec 3) (thread : BitVec 10) : (freshHandlerWave s p c g thread).tlbis = s.tlbis := rfl
@[simp] theorem freshHandlerWave_regWrites (s : State) (p : Nat) (c : BitVec 12) (g : BitVec 3) (thread : BitVec 10) : (freshHandlerWave s p c g thread).regWrites = s.regWrites := rfl
@[simp] theorem freshHandlerWave_furrows (s : State) (p : Nat) (c : BitVec 12) (g : BitVec 3) (thread : BitVec 10) : (freshHandlerWave s p c g thread).furrows = s.furrows := rfl
@[simp] theorem freshHandlerWave_thermal (s : State) (p : Nat) (c : BitVec 12) (g : BitVec 3) (thread : BitVec 10) : (freshHandlerWave s p c g thread).thermal = s.thermal := rfl
@[simp] theorem freshHandlerWave_power (s : State) (p : Nat) (c : BitVec 12) (g : BitVec 3) (thread : BitVec 10) : (freshHandlerWave s p c g thread).power = s.power := rfl
@[simp] theorem freshHandlerWave_cycles (s : State) (p : Nat) (c : BitVec 12) (g : BitVec 3) (thread : BitVec 10) : (freshHandlerWave s p c g thread).cycles = s.cycles := rfl
@[simp] theorem freshHandlerWave_timers (s : State) (p : Nat) (c : BitVec 12) (g : BitVec 3) (thread : BitVec 10) : (freshHandlerWave s p c g thread).timers = s.timers := rfl

/-! ### dropFlights -/

@[simp] theorem dropFlights_sched (s : State) (p : Nat) (g : BitVec 3) : (dropFlights s p g).sched = s.sched := rfl
@[simp] theorem dropFlights_cur (s : State) (p : Nat) (g : BitVec 3) : (dropFlights s p g).cur = s.cur := rfl
@[simp] theorem dropFlights_fresh (s : State) (p : Nat) (g : BitVec 3) : (dropFlights s p g).fresh = s.fresh := rfl
@[simp] theorem dropFlights_nextId (s : State) (p : Nat) (g : BitVec 3) : (dropFlights s p g).nextId = s.nextId := rfl
@[simp] theorem dropFlights_plots (s : State) (p : Nat) (g : BitVec 3) : (dropFlights s p g).plots = s.plots := rfl
@[simp] theorem dropFlights_ctxs (s : State) (p : Nat) (g : BitVec 3) : (dropFlights s p g).ctxs = s.ctxs := rfl
@[simp] theorem dropFlights_overrides (s : State) (p : Nat) (g : BitVec 3) : (dropFlights s p g).overrides = s.overrides := rfl
@[simp] theorem dropFlights_mem (s : State) (p : Nat) (g : BitVec 3) : (dropFlights s p g).mem = s.mem := rfl
@[simp] theorem dropFlights_dir (s : State) (p : Nat) (g : BitVec 3) : (dropFlights s p g).dir = s.dir := rfl
@[simp] theorem dropFlights_toHome (s : State) (p : Nat) (g : BitVec 3) : (dropFlights s p g).toHome = s.toHome := rfl
@[simp] theorem dropFlights_toPlot (s : State) (p : Nat) (g : BitVec 3) : (dropFlights s p g).toPlot = s.toPlot := rfl
@[simp] theorem dropFlights_fromOwner (s : State) (p : Nat) (g : BitVec 3) : (dropFlights s p g).fromOwner = s.fromOwner := rfl
@[simp] theorem dropFlights_banks (s : State) (p : Nat) (g : BitVec 3) : (dropFlights s p g).banks = s.banks := rfl
@[simp] theorem dropFlights_l2 (s : State) (p : Nat) (g : BitVec 3) : (dropFlights s p g).l2 = s.l2 := rfl
@[simp] theorem dropFlights_served (s : State) (p : Nat) (g : BitVec 3) : (dropFlights s p g).served = s.served := rfl
@[simp] theorem dropFlights_arrived (s : State) (p : Nat) (g : BitVec 3) : (dropFlights s p g).arrived = s.arrived := rfl
@[simp] theorem dropFlights_barData (s : State) (p : Nat) (g : BitVec 3) : (dropFlights s p g).barData = s.barData := rfl
@[simp] theorem dropFlights_reached (s : State) (p : Nat) (g : BitVec 3) : (dropFlights s p g).reached = s.reached := rfl
@[simp] theorem dropFlights_peerCopies (s : State) (p : Nat) (g : BitVec 3) : (dropFlights s p g).peerCopies = s.peerCopies := rfl
@[simp] theorem dropFlights_hostLines (s : State) (p : Nat) (g : BitVec 3) : (dropFlights s p g).hostLines = s.hostLines := rfl
@[simp] theorem dropFlights_hacol (s : State) (p : Nat) (g : BitVec 3) : (dropFlights s p g).hacol = s.hacol := rfl
@[simp] theorem dropFlights_dev (s : State) (p : Nat) (g : BitVec 3) : (dropFlights s p g).dev = s.dev := rfl
@[simp] theorem dropFlights_ports (s : State) (p : Nat) (g : BitVec 3) : (dropFlights s p g).ports = s.ports := rfl
@[simp] theorem dropFlights_streams (s : State) (p : Nat) (g : BitVec 3) : (dropFlights s p g).streams = s.streams := rfl
@[simp] theorem dropFlights_inStreams (s : State) (p : Nat) (g : BitVec 3) : (dropFlights s p g).inStreams = s.inStreams := rfl
@[simp] theorem dropFlights_msi (s : State) (p : Nat) (g : BitVec 3) : (dropFlights s p g).msi = s.msi := rfl
@[simp] theorem dropFlights_queues (s : State) (p : Nat) (g : BitVec 3) : (dropFlights s p g).queues = s.queues := rfl
@[simp] theorem dropFlights_qtbase (s : State) (p : Nat) (g : BitVec 3) : (dropFlights s p g).qtbase = s.qtbase := rfl
@[simp] theorem dropFlights_ready (s : State) (p : Nat) (g : BitVec 3) : (dropFlights s p g).ready = s.ready := rfl
@[simp] theorem dropFlights_turn (s : State) (p : Nat) (g : BitVec 3) : (dropFlights s p g).turn = s.turn := rfl
@[simp] theorem dropFlights_kernels (s : State) (p : Nat) (g : BitVec 3) : (dropFlights s p g).kernels = s.kernels := rfl
@[simp] theorem dropFlights_childDone (s : State) (p : Nat) (g : BitVec 3) : (dropFlights s p g).childDone = s.childDone := rfl
@[simp] theorem dropFlights_doubled (s : State) (p : Nat) (g : BitVec 3) : (dropFlights s p g).doubled = s.doubled := rfl
@[simp] theorem dropFlights_loads (s : State) (p : Nat) (g : BitVec 3) : (dropFlights s p g).loads = s.loads := rfl
@[simp] theorem dropFlights_busyLoads (s : State) (p : Nat) (g : BitVec 3) : (dropFlights s p g).busyLoads = s.busyLoads := rfl
@[simp] theorem dropFlights_cache (s : State) (p : Nat) (g : BitVec 3) : (dropFlights s p g).cache = s.cache := rfl
@[simp] theorem dropFlights_tlbis (s : State) (p : Nat) (g : BitVec 3) : (dropFlights s p g).tlbis = s.tlbis := rfl
@[simp] theorem dropFlights_regWrites (s : State) (p : Nat) (g : BitVec 3) : (dropFlights s p g).regWrites = s.regWrites := rfl
@[simp] theorem dropFlights_furrows (s : State) (p : Nat) (g : BitVec 3) : (dropFlights s p g).furrows = s.furrows := rfl
@[simp] theorem dropFlights_thermal (s : State) (p : Nat) (g : BitVec 3) : (dropFlights s p g).thermal = s.thermal := rfl
@[simp] theorem dropFlights_power (s : State) (p : Nat) (g : BitVec 3) : (dropFlights s p g).power = s.power := rfl
@[simp] theorem dropFlights_cycles (s : State) (p : Nat) (g : BitVec 3) : (dropFlights s p g).cycles = s.cycles := rfl
@[simp] theorem dropFlights_timers (s : State) (p : Nat) (g : BitVec 3) : (dropFlights s p g).timers = s.timers := rfl

/-! ### killGroup -/

@[simp] theorem killGroup_sched (s : State) (p : Nat) (g : BitVec 3) (cause : BitVec 8) : (killGroup s p g cause).sched = s.sched := rfl
@[simp] theorem killGroup_cur (s : State) (p : Nat) (g : BitVec 3) (cause : BitVec 8) : (killGroup s p g cause).cur = s.cur := rfl
@[simp] theorem killGroup_fresh (s : State) (p : Nat) (g : BitVec 3) (cause : BitVec 8) : (killGroup s p g cause).fresh = s.fresh := rfl
@[simp] theorem killGroup_nextId (s : State) (p : Nat) (g : BitVec 3) (cause : BitVec 8) : (killGroup s p g cause).nextId = s.nextId := rfl
@[simp] theorem killGroup_ctxs (s : State) (p : Nat) (g : BitVec 3) (cause : BitVec 8) : (killGroup s p g cause).ctxs = s.ctxs := rfl
@[simp] theorem killGroup_overrides (s : State) (p : Nat) (g : BitVec 3) (cause : BitVec 8) : (killGroup s p g cause).overrides = s.overrides := rfl
@[simp] theorem killGroup_mem (s : State) (p : Nat) (g : BitVec 3) (cause : BitVec 8) : (killGroup s p g cause).mem = s.mem := rfl
@[simp] theorem killGroup_dir (s : State) (p : Nat) (g : BitVec 3) (cause : BitVec 8) : (killGroup s p g cause).dir = s.dir := rfl
@[simp] theorem killGroup_toHome (s : State) (p : Nat) (g : BitVec 3) (cause : BitVec 8) : (killGroup s p g cause).toHome = s.toHome := rfl
@[simp] theorem killGroup_toPlot (s : State) (p : Nat) (g : BitVec 3) (cause : BitVec 8) : (killGroup s p g cause).toPlot = s.toPlot := rfl
@[simp] theorem killGroup_fromOwner (s : State) (p : Nat) (g : BitVec 3) (cause : BitVec 8) : (killGroup s p g cause).fromOwner = s.fromOwner := rfl
@[simp] theorem killGroup_banks (s : State) (p : Nat) (g : BitVec 3) (cause : BitVec 8) : (killGroup s p g cause).banks = s.banks := rfl
@[simp] theorem killGroup_l2 (s : State) (p : Nat) (g : BitVec 3) (cause : BitVec 8) : (killGroup s p g cause).l2 = s.l2 := rfl
@[simp] theorem killGroup_served (s : State) (p : Nat) (g : BitVec 3) (cause : BitVec 8) : (killGroup s p g cause).served = s.served := rfl
@[simp] theorem killGroup_arrived (s : State) (p : Nat) (g : BitVec 3) (cause : BitVec 8) : (killGroup s p g cause).arrived = s.arrived := rfl
@[simp] theorem killGroup_barData (s : State) (p : Nat) (g : BitVec 3) (cause : BitVec 8) : (killGroup s p g cause).barData = s.barData := rfl
@[simp] theorem killGroup_reached (s : State) (p : Nat) (g : BitVec 3) (cause : BitVec 8) : (killGroup s p g cause).reached = s.reached := rfl
@[simp] theorem killGroup_peerCopies (s : State) (p : Nat) (g : BitVec 3) (cause : BitVec 8) : (killGroup s p g cause).peerCopies = s.peerCopies := rfl
@[simp] theorem killGroup_hostLines (s : State) (p : Nat) (g : BitVec 3) (cause : BitVec 8) : (killGroup s p g cause).hostLines = s.hostLines := rfl
@[simp] theorem killGroup_hacol (s : State) (p : Nat) (g : BitVec 3) (cause : BitVec 8) : (killGroup s p g cause).hacol = s.hacol := rfl
@[simp] theorem killGroup_dev (s : State) (p : Nat) (g : BitVec 3) (cause : BitVec 8) : (killGroup s p g cause).dev = s.dev := rfl
@[simp] theorem killGroup_ports (s : State) (p : Nat) (g : BitVec 3) (cause : BitVec 8) : (killGroup s p g cause).ports = s.ports := rfl
@[simp] theorem killGroup_streams (s : State) (p : Nat) (g : BitVec 3) (cause : BitVec 8) : (killGroup s p g cause).streams = s.streams := rfl
@[simp] theorem killGroup_inStreams (s : State) (p : Nat) (g : BitVec 3) (cause : BitVec 8) : (killGroup s p g cause).inStreams = s.inStreams := rfl
@[simp] theorem killGroup_msi (s : State) (p : Nat) (g : BitVec 3) (cause : BitVec 8) : (killGroup s p g cause).msi = s.msi := rfl
@[simp] theorem killGroup_queues (s : State) (p : Nat) (g : BitVec 3) (cause : BitVec 8) : (killGroup s p g cause).queues = s.queues := rfl
@[simp] theorem killGroup_qtbase (s : State) (p : Nat) (g : BitVec 3) (cause : BitVec 8) : (killGroup s p g cause).qtbase = s.qtbase := rfl
@[simp] theorem killGroup_ready (s : State) (p : Nat) (g : BitVec 3) (cause : BitVec 8) : (killGroup s p g cause).ready = s.ready := rfl
@[simp] theorem killGroup_turn (s : State) (p : Nat) (g : BitVec 3) (cause : BitVec 8) : (killGroup s p g cause).turn = s.turn := rfl
@[simp] theorem killGroup_kernels (s : State) (p : Nat) (g : BitVec 3) (cause : BitVec 8) : (killGroup s p g cause).kernels = s.kernels := rfl
@[simp] theorem killGroup_childDone (s : State) (p : Nat) (g : BitVec 3) (cause : BitVec 8) : (killGroup s p g cause).childDone = s.childDone := rfl
@[simp] theorem killGroup_doubled (s : State) (p : Nat) (g : BitVec 3) (cause : BitVec 8) : (killGroup s p g cause).doubled = s.doubled := rfl
@[simp] theorem killGroup_loads (s : State) (p : Nat) (g : BitVec 3) (cause : BitVec 8) : (killGroup s p g cause).loads = s.loads := rfl
@[simp] theorem killGroup_busyLoads (s : State) (p : Nat) (g : BitVec 3) (cause : BitVec 8) : (killGroup s p g cause).busyLoads = s.busyLoads := rfl
@[simp] theorem killGroup_cache (s : State) (p : Nat) (g : BitVec 3) (cause : BitVec 8) : (killGroup s p g cause).cache = s.cache := rfl
@[simp] theorem killGroup_furrows (s : State) (p : Nat) (g : BitVec 3) (cause : BitVec 8) : (killGroup s p g cause).furrows = s.furrows := rfl
@[simp] theorem killGroup_thermal (s : State) (p : Nat) (g : BitVec 3) (cause : BitVec 8) : (killGroup s p g cause).thermal = s.thermal := rfl
@[simp] theorem killGroup_power (s : State) (p : Nat) (g : BitVec 3) (cause : BitVec 8) : (killGroup s p g cause).power = s.power := rfl
@[simp] theorem killGroup_cycles (s : State) (p : Nat) (g : BitVec 3) (cause : BitVec 8) : (killGroup s p g cause).cycles = s.cycles := rfl
@[simp] theorem killGroup_timers (s : State) (p : Nat) (g : BitVec 3) (cause : BitVec 8) : (killGroup s p g cause).timers = s.timers := rfl

/-! ### The fields that an update writes -/

@[simp] theorem modPlot_plots (s : State) (p : Nat) (f : Plot → Plot) : (modPlot s p f).plots = s.plots.modify p f := rfl
@[simp] theorem modCtx_ctxs (s : State) (c : BitVec 12) (f : Ctx → Ctx) :
    (modCtx s c f).ctxs = assocSet c.toNat (f (ctxAt s c)) s.ctxs := rfl
@[simp] theorem sendAll_flights (s : State) (p : Nat) (b : BlockId) (xs : List Send) :
    (sendAll s p b xs).flights = s.flights ++ xs.map (fun x => Flight.mk (Dest.mk p b x.dest.slot x.dest.port) x.tok .inner false false) := rfl
@[simp] theorem sendAll_nil (s : State) (p : Nat) (b : BlockId) : sendAll s p b [] = s := by simp [sendAll]
@[simp] theorem consume_cur (s : State) (p : Nat) (b : BlockId) (m : MatchedSet) : (consume s p b m).cur = .idle := rfl
@[simp] theorem consume_fresh (s : State) (p : Nat) (b : BlockId) (m : MatchedSet) : (consume s p b m).fresh = s.fresh + 64 := rfl

/-- A plot that exists, after a change of it. -/
theorem plotAt_modPlot (s : State) (p : Nat) (f : Plot → Plot) (h : p < s.plots.length) :
    plotAt (modPlot s p f) p = f (plotAt s p) := by
  simp [plotAt, List.getD_eq_getElem?_getD, h]

/-- Any other plot, after a change of one. -/
theorem plotAt_modPlot_other (s : State) (p q : Nat) (f : Plot → Plot) (h : q ≠ p) :
    plotAt (modPlot s p f) q = plotAt s q := by
  simp [plotAt, List.getD_eq_getElem?_getD, Ne.symm h]

theorem lookupD_assocSet_same {α β : Type} [DecidableEq α] (d v : β) (k : α) (l : List (α × β)) :
    lookupD d k (assocSet k v l) = v := by
  induction l with
  | nil => simp [assocSet, lookupD]
  | cons x l ih => obtain ⟨a, b⟩ := x; simp only [assocSet]; split <;> simp_all [lookupD]

theorem lookupD_assocSet_other {α β : Type} [DecidableEq α] (d v : β) (k j : α) (l : List (α × β)) (h : j ≠ k) :
    lookupD d j (assocSet k v l) = lookupD d j l := by
  induction l with
  | nil => simp [assocSet, lookupD, Ne.symm h]
  | cons x l ih =>
    obtain ⟨a, b⟩ := x
    simp only [assocSet]
    split
    · subst a; simp [lookupD, Ne.symm h]
    · simp only [lookupD]; split <;> simp_all

/-- A context after a change of it. -/
theorem ctxAt_modCtx (s : State) (c : BitVec 12) (f : Ctx → Ctx) : ctxAt (modCtx s c f) c = f (ctxAt s c) :=
  lookupD_assocSet_same _ _ _ _

/-- Any other context, after a change of one. -/
theorem ctxAt_modCtx_other (s : State) (c d : BitVec 12) (f : Ctx → Ctx) (h : d ≠ c) :
    ctxAt (modCtx s c f) d = ctxAt s d :=
  lookupD_assocSet_other _ _ _ _ _ (fun e => h (BitVec.eq_of_toNat_eq e))

end Sys2Proof.Machine
end

