-- ==== Sys2Proof/Laws/Lookup.lean ====
section
/-! SUPPORT. Reading back what the shared updates write: groups, and plots that do not exist. -/
namespace Sys2Proof.Machine

/-- A plot that does not exist reads as a plot after reset, whatever is changed. -/
theorem plotAt_beyond {s : State} {p : Nat} (h : s.plots.length ≤ p) : plotAt s p = Plot.reset := by
  simp [plotAt, List.getD, List.getElem?_eq_none h]

/-- A changed group of an existing plot, and every other slot of it. -/
theorem groupAt_modGroup_same {s : State} {p : Nat} {g : BitVec 3} {f : Group → Group} (h : p < s.plots.length) :
    groupAt (modGroup s p g f) p g = (groupAt s p g).map f := by
  simp only [groupAt, modGroup, modUnit, plotAt_modPlot s p _ h, List.getD, List.getElem?_modify_eq]
  cases (plotAt s p).unit.groups[g.toNat]? <;> rfl

theorem groupAt_modGroup_slot {s : State} {p : Nat} {g k : BitVec 3} {f : Group → Group} (h : k ≠ g) (hp : p < s.plots.length) :
    groupAt (modGroup s p g f) p k = groupAt s p k := by
  have hn : g.toNat ≠ k.toNat := fun e => h (BitVec.eq_of_toNat_eq e.symm)
  simp [groupAt, modGroup, modUnit, plotAt_modPlot s p _ hp, List.getD, hn]

theorem groupAt_modGroup_plot {s : State} {p q : Nat} {g k : BitVec 3} {f : Group → Group} (h : q ≠ p) :
    groupAt (modGroup s p g f) q k = groupAt s q k := by
  simp only [groupAt, modGroup, modUnit, plotAt_modPlot_other s p q _ h]

end Sys2Proof.Machine
end

