-- ==== Sys2Proof/Laws/Fire.lean ====
section
/-! SUPPORT. What a firing, a fault and a step can do, once for all instructions. -/
namespace Sys2Proof
open Machine

/-! ### Firings -/

/-- Everything that a firing can do: nothing without a set; a FORMAT fault of its predicate; what `skip` does where the
predicate is false; and otherwise what its body says, or the fault of the body. -/
theorem fireWith_cases {h : Head} {skip : FireCtx → State → State} {body : FireCtx → State → Except FaultInfo (State × List Send)}
    {s t : State} (ht : fireWith h skip body s = .next t) :
    ((∀ p b m, s.cur ≠ .firing p b m) ∧ t = s) ∨
    ∃ p b m, s.cur = .firing p b m ∧
      ((predicateOf (fireCtxOf s p b m h) = none ∧ t = faultedFrom s p b m h (causeOnly causeFormat)) ∨
        (predicateOf (fireCtxOf s p b m h) = some false ∧ t = skip (fireCtxOf s p b m h) (consume s p b m)) ∨
        (predicateOf (fireCtxOf s p b m h) = some true ∧
          ((∃ e, body (fireCtxOf s p b m h) (consume s p b m) = .error e ∧ t = faultedFrom s p b m h e) ∨
            ∃ u xs, body (fireCtxOf s p b m h) (consume s p b m) = .ok (u, xs) ∧ t = sendAll u p b xs))) := by
  unfold fireWith at ht
  split at ht
  · rename_i p b m hc
    refine .inr ⟨p, b, m, hc, ?_⟩
    simp only at ht
    split at ht
    · rename_i hp
      exact .inl ⟨hp, (Host.Outcome.next.inj ht).symm⟩
    · rename_i hp
      exact .inr (.inl ⟨hp, (Host.Outcome.next.inj ht).symm⟩)
    · rename_i hp
      refine .inr (.inr ⟨hp, ?_⟩)
      split at ht
      · rename_i e he
        exact .inl ⟨e, he, (Host.Outcome.next.inj ht).symm⟩
      · rename_i u xs he
        exact .inr ⟨u, xs, he, (Host.Outcome.next.inj ht).symm⟩
  · rename_i hc
    exact .inl ⟨hc, (Host.Outcome.next.inj ht).symm⟩

/-- A firing always answers a next state. -/
theorem fireWith_next (h : Head) (skip : FireCtx → State → State) (body : FireCtx → State → Except FaultInfo (State × List Send))
    (s : State) : ∃ t, fireWith h skip body s = .next t := by
  unfold fireWith
  split
  · simp only
    split
    · exact ⟨_, rfl⟩
    · exact ⟨_, rfl⟩
    · split <;> exact ⟨_, rfl⟩
  · exact ⟨_, rfl⟩

/-- A firing whose predicate selects it, with what its body answers. -/
theorem fireState_ok {s u : State} {p : Nat} {b : BlockId} {m : MatchedSet} {h : Head} {xs : List Send}
    {body : FireCtx → State → Except FaultInfo (State × List Send)} (hf : Fires s p b m h)
    (hb : body (fireCtxOf s p b m h) (consume s p b m) = .ok (u, xs)) : fireState h body s = .next (sendAll u p b xs) := by
  simp only [fireState, fireWith, hf.1, hf.2, hb]

theorem fireState_error {s : State} {p : Nat} {b : BlockId} {m : MatchedSet} {h : Head} {e : FaultInfo}
    {body : FireCtx → State → Except FaultInfo (State × List Send)} (hf : Fires s p b m h)
    (hb : body (fireCtxOf s p b m h) (consume s p b m) = .error e) : fireState h body s = .next (faultedFrom s p b m h e) := by
  simp only [fireState, fireWith, hf.1, hf.2, hb, faultedFrom]

theorem fire_ok {s : State} {p : Nat} {b : BlockId} {m : MatchedSet} {h : Head} {xs : List Send}
    {body : FireCtx → Except FaultInfo (List Send)} (hf : Fires s p b m h) (hb : body (fireCtxOf s p b m h) = .ok xs) :
    fire h body s = .next (sentFrom s p b m xs) := by
  simp only [fire, fireWith, hf.1, hf.2, hb, sentFrom, Except.map]

theorem fire_error {s : State} {p : Nat} {b : BlockId} {m : MatchedSet} {h : Head} {e : FaultInfo}
    {body : FireCtx → Except FaultInfo (List Send)} (hf : Fires s p b m h) (hb : body (fireCtxOf s p b m h) = .error e) :
    fire h body s = .next (faultedFrom s p b m h e) := by
  simp only [fire, fireWith, hf.1, hf.2, hb, faultedFrom, Except.map]

/-- A firing whose unit translates addresses first: with what its body answers, and where it faults with what its walks leave. -/
theorem fireWalks_ok {s u : State} {p : Nat} {b : BlockId} {m : MatchedSet} {h : Head} {xs : List Send}
    {walks : FireCtx → FaultInfo → State → State} {body : FireCtx → MatchedSet → State → Except FaultInfo (State × List Send)}
    (hf : Fires s p b m h) (hb : body (fireCtxOf s p b m h) m (consume s p b m) = .ok (u, xs)) :
    fireWalks h walks body s = .next (sendAll u p b xs) := by
  simp only [fireWalks, fireState, fireWith, hf.1, hf.2, hb]

theorem fireWalks_error {s : State} {p : Nat} {b : BlockId} {m : MatchedSet} {h : Head} {e : FaultInfo}
    {walks : FireCtx → FaultInfo → State → State} {body : FireCtx → MatchedSet → State → Except FaultInfo (State × List Send)}
    (hf : Fires s p b m h) (hb : body (fireCtxOf s p b m h) m (consume s p b m) = .error e) :
    fireWalks h walks body s = .next (faultSet (walks (fireCtxOf s p b m h) e s) (fireCtxOf s p b m h) m e) := by
  simp only [fireWalks, hf.1, hf.2, hb]

/-- The context of a firing names its plot, block, slot and head, and the consumed state has spent its free values. -/
theorem fireCtxOf_fields (s : State) (p : Nat) (b : BlockId) (m : MatchedSet) (h : Head) :
    (fireCtxOf s p b m h).plot = p ∧ (fireCtxOf s p b m h).block = b ∧ (fireCtxOf s p b m h).slot = m.slot ∧
      (fireCtxOf s p b m h).head = h ∧ (fireCtxOf s p b m h).fresh = s.fresh ∧
      heldEnv (heldOf (fireCtxOf s p b m h) m) = (fireCtxOf s p b m h).env := ⟨rfl, rfl, rfl, rfl, rfl, rfl⟩

/-- Consuming a set changes its plot, the counts of its context, `cur` and the counter of free values, and nothing
else. -/
theorem consume_frame (s : State) (p : Nat) (b : BlockId) (m : MatchedSet) :
    consume s p b m = { s with
      cur := .idle, fresh := s.fresh + 64, plots := (consume s p b m).plots, ctxs := (consume s p b m).ctxs } := rfl

theorem consume_other_plot (s : State) (p q : Nat) (b : BlockId) (m : MatchedSet) (h : q ≠ p) :
    plotAt (consume s p b m) q = plotAt s q :=
  plotAt_modPlot_other { s with cur := .idle, fresh := s.fresh + 64 } p q _ h

theorem consume_other_ctx (s : State) (p : Nat) (b : BlockId) (m : MatchedSet) (c : BitVec 12) (h : c ≠ b.ctx) :
    ctxAt (consume s p b m) c = ctxAt s c := by
  unfold consume countSet modCount
  rw [ctxAt_modCtx_other _ _ _ _ h]
  rfl

theorem consume_ctx (s : State) (p : Nat) (b : BlockId) (m : MatchedSet) :
    ctxAt (consume s p b m) b.ctx = { ctxAt s b.ctx with counts := (ctxAt (consume s p b m) b.ctx).counts } := by
  unfold consume countSet modCount
  rw [ctxAt_modCtx]
  rfl

/-! ### Bodies in `Except` -/

theorem bind_ok {α β : Type} (a : α) (f : α → Except FaultInfo β) : (Except.ok a >>= f) = f a := rfl
theorem bind_error {α β : Type} (e : FaultInfo) (f : α → Except FaultInfo β) :
    ((Except.error e : Except FaultInfo α) >>= f) = .error e := rfl
theorem require_bind {α : Type} (x : Bool) (c : BitVec 8) (f : Unit → Except FaultInfo α) :
    (require x c >>= f) = if x = true then f () else .error (causeOnly c) := by
  cases x <;> rfl

/-- What a bound computation answers comes from an answer of the first. -/
theorem bind_eq_ok {α β : Type} {x : Except FaultInfo α} {f : α → Except FaultInfo β} {b : β} (h : (x >>= f) = .ok b) :
    ∃ a, x = .ok a ∧ f a = .ok b := by
  cases x with
  | error e => cases h
  | ok a => exact ⟨a, rfl, h⟩

/-! ### Faults -/

/-- Everything that the delivery of a fault can do (R425, R429, R430). -/
theorem deliverFault_cases (s : State) (p : Nat) (g : BitVec 3) (e : FaultInfo) (slot : BitVec 8) (b : BlockId) (env : Envelope)
    (kept : Kept) :
    (groupAt s p g = none ∧ deliverFault s p g e slot b env kept = (s, false)) ∨
    ∃ x, groupAt s p g = some x ∧
      ((x.phase = .placed ∧ deliverFault s p g e slot b env kept = (s, false)) ∨
        (x.hbid = 0xFFFF_FFFF ∧ deliverFault s p g e slot b env kept = (killGroup s p g e.cause, true)) ∨
        (x.hbid ≠ 0xFFFF_FFFF ∧ ∃ r, deliverFault s p g e slot b env kept = (doubleFault s x.ctx x.record r, false)) ∨
        (freeCause x.causes = none ∧ deliverFault s p g e slot b env kept = (s, false)) ∨
        ∃ n r, freeCause x.causes = some n ∧ deliverFault s p g e slot b env kept =
          (sendEntry (freshHandlerWave (modGroup s p g (fun y => { y with
              causes := y.causes.set n (CauseSlot.mk .delivered r kept)
              phase := if y.phase = .running then .stopped else y.phase })) p x.ctx g env.thread) .entry p
            (BlockId.mk x.ctx x.obj x.hbid) 0 0 (handlerToken env.thread g n), true)) := by
  cases hg : groupAt s p g with
  | none => exact .inl ⟨rfl, by simp only [deliverFault, hg]⟩
  | some x =>
    refine .inr ⟨x, rfl, ?_⟩
    simp only [deliverFault, hg, deliverTo]
    split
    · exact .inl ⟨‹_›, rfl⟩
    · split
      · exact .inr (.inl ⟨‹_›, rfl⟩)
      · split
        · exact .inr (.inr (.inl ⟨‹_›, _, rfl⟩))
        · cases hn : freeCause x.causes with
          | none => exact .inr (.inr (.inr (.inl ⟨rfl, rfl⟩)))
          | some n => exact .inr (.inr (.inr (.inr ⟨n, _, rfl, rfl⟩)))

/-! ### A memory PE's return port (R471) -/

/-- What a list of flights has beyond the first `n` entered from outside. -/
theorem markReturns_of {n : Nat} {t : State} (h : ∀ f ∈ t.flights.drop n, f.edge ≠ .inner) : markReturns n t = t := by
  have h1 : (t.flights.drop n).map (fun f => if f.edge = .inner then { f with edge := .back } else f) = t.flights.drop n := by
    rw [List.map_congr_left (g := id) (fun f hf => by simp [h f hf]), List.map_id]
  unfold markReturns
  rw [h1, List.take_append_drop]

theorem markReturns_id (s : State) : markReturns s.flights.length s = s := markReturns_of (by simp)

theorem mutePending_flights (s : State) (p : Nat) (g : BitVec 3) : (mutePending s p g).flights = s.flights := rfl

/-- A firing that faults puts no token of its own into flight. -/
theorem markReturns_faultSet (s : State) (c : FireCtx) (m : MatchedSet) (e : FaultInfo) :
    markReturns s.flights.length (faultSet s c m e) = faultSet s c m e := by
  apply markReturns_of
  have key : ∀ f ∈ (deliverFault { s with cur := .idle, fresh := s.fresh + 64 } c.plot c.env.gslot e (0#1 ++ c.slot) c.block c.env
      (.set c.block m)).1.flights.drop s.flights.length, f.edge ≠ .inner := by
    obtain h | ⟨x, -, h⟩ := deliverFault_cases { s with cur := .idle, fresh := s.fresh + 64 } c.plot c.env.gslot e (0#1 ++ c.slot) c.block
      c.env (.set c.block m)
    · rw [h.2]; simp
    · obtain h | h | ⟨-, r, h⟩ | h | ⟨n, r, -, h⟩ := h
      · rw [h.2]; simp
      · rw [h.2]
        have : (killGroup { s with cur := .idle, fresh := s.fresh + 64 } c.plot c.env.gslot e.cause).flights.length ≤ s.flights.length :=
          List.length_filter_le ..
        rw [List.drop_eq_nil_of_le this]; simp
      · rw [h]; intro f hf
        have : (doubleFault { s with cur := .idle, fresh := s.fresh + 64 } x.ctx x.record r).flights = s.flights := rfl
        simp [this] at hf
      · rw [h.2]; simp
      · rw [h]
        intro f hf
        have : ∀ (y : State) (d : BlockId) (t : Token), y.flights = s.flights →
          ∀ f ∈ (sendEntry y .entry c.plot d 0 0 t).flights.drop s.flights.length, f.edge ≠ .inner := by
          intro y d t hy f hf
          simp only [sendEntry, hy, List.drop_left, List.mem_singleton] at hf
          subst hf; simp
        exact this _ _ _ rfl f hf
  unfold faultSet
  dsimp only
  split
  · exact key
  · exact key
/-- A memory PE's firing that faults, or that its predicate leaves out, leaves its return port alone. -/
theorem throughPort_faulted (s : State) (p : Nat) (b : BlockId) (m : MatchedSet) (h : Head) (e : FaultInfo) :
    throughPort s (.next (faultedFrom s p b m h e)) = .next (faultedFrom s p b m h e) :=
  congrArg Host.Outcome.next (markReturns_faultSet s _ m e)
theorem throughPort_consume (s : State) (p : Nat) (b : BlockId) (m : MatchedSet) :
    throughPort s (.next (consume s p b m)) = .next (consume s p b m) :=
  congrArg Host.Outcome.next (markReturns_id (consume s p b m))

/-! ### The step -/

/-- Everything that the start of a set of a copy can be: its instruction run in the prepared state, or words that are no
instruction. -/
theorem runSet_cases (u : State) (p t pe : Nat) (c : Copy) (m : MatchedSet) :
    (∃ i, stationInstr c m.slot = .ok i ∧ runSet u p t pe c m = exec i { prepare u p t pe c.id m i with cur := .firing p c.id m }) ∨
      ∃ w, stationInstr c m.slot = .error w ∧ runSet u p t pe c m = .refused (.undecodable w.1 w.2) := by
  unfold runSet
  split
  · exact .inl ⟨_, ‹_›, rfl⟩
  · exact .inr ⟨_, ‹_›, rfl⟩

/-- Everything that the start of a set behind that of an `argwr` can be (R117): nothing, that set alone, or that set and then the
`argwr`. -/
theorem runBehind_cases (u : State) (p t pe : Nat) (o : Option (Copy × MatchedSet × MatchedSet)) :
    runBehind u p t pe o = .next u ∨
    ∃ c x m, o = some (c, x, m) ∧
      (runBehind u p t pe o = runSet u p t pe c x ∨
        ∃ v, runSet u p t pe c x = .next v ∧ runBehind u p t pe o = runSet v p t pe c m) := by
  unfold runBehind
  split
  · exact .inl rfl
  · rename_i c x m
    refine .inr ⟨c, x, m, rfl, ?_⟩
    split
    · rename_i v hv
      split
      · exact .inr ⟨v, hv, rfl⟩
      · exact .inl hv.symm
    · rename_i hv; exact .inl hv.symm
    · rename_i hv; exact .inl hv.symm

/-- Everything that the work of a schedule entry can be: an instruction run on `cur`; a set started, or one started behind that of
an `argwr`; an entry with nothing to start; one of the small steps of a PE, an engine, a plot or a queue; or words that are no
instruction. -/
theorem entryStep_cases (s : State) :
    let u := { s with sched := s.sched.tail }
    (∃ i c, entryStep s = exec i { u with cur := c }) ∨
    (∃ p t pe c m, entryStep s = runSet u p t pe c m) ∨
    (∃ p t pe o, entryStep s = runBehind u p t pe o) ∨
    (∃ v, entryStep s = .next v ∧
      (v = u ∨ (∃ p t pe, v = freeIterative u p t pe) ∨ (∃ p t pe, v = askStation u p t pe) ∨ (∃ q, v = nextSlot u (q % 1024)) ∨
        (∃ p n, v = stepEngine u p n) ∨ (∃ p t n, v = endJob u p t n) ∨ (∃ p t n, v = accError u p t n) ∨
        ∃ p c, v = takeWrite u p c)) ∨
    ∃ op cfg, entryStep s = .refused (.undecodable op cfg) := by
  unfold entryStep
  split <;> rename_i h <;> simp only [h, List.tail_cons, List.tail_nil]
  · exact .inl ⟨_, _, rfl⟩
  · exact .inl ⟨_, _, rfl⟩
  · unfold runChosen
    split
    · exact .inr (.inr (.inr (.inl ⟨_, rfl, .inl rfl⟩)))
    · exact .inr (.inl ⟨_, _, _, _, _, rfl⟩)
  · exact .inr (.inr (.inl ⟨_, _, _, _, rfl⟩))
  · exact .inr (.inr (.inr (.inl ⟨_, rfl, .inr (.inl ⟨_, _, _, rfl⟩)⟩)))
  · exact .inr (.inr (.inr (.inl ⟨_, rfl, .inr (.inr (.inl ⟨_, _, _, rfl⟩))⟩)))
  · exact .inr (.inr (.inr (.inl ⟨_, rfl, .inr (.inr (.inr (.inl ⟨_, rfl⟩)))⟩)))
  · exact .inr (.inr (.inr (.inl ⟨_, rfl, .inr (.inr (.inr (.inr (.inl ⟨_, _, rfl⟩))))⟩)))
  · exact .inr (.inr (.inr (.inl ⟨_, rfl, .inr (.inr (.inr (.inr (.inr (.inl ⟨_, _, _, rfl⟩)))))⟩)))
  · exact .inr (.inr (.inr (.inl ⟨_, rfl, .inr (.inr (.inr (.inr (.inr (.inr (.inl ⟨_, _, _, rfl⟩))))))⟩)))
  · exact .inr (.inr (.inr (.inl ⟨_, rfl, .inr (.inr (.inr (.inr (.inr (.inr (.inr ⟨_, _, rfl⟩))))))⟩)))
  · split
    · exact .inr (.inr (.inr (.inl ⟨_, rfl, .inl rfl⟩)))
    · unfold runStation
      split
      · exact .inl ⟨_, _, rfl⟩
      · exact .inr (.inr (.inr (.inr ⟨_, _, rfl⟩)))

end Sys2Proof
end

