-- ==== Sys2Proof/Laws/Mem.lean ====
section
/-! SUPPORT. The laws of memory: every operation keeps the canonical form, a read after a write, and what a write
leaves alone. -/
namespace Sys2Proof.Machine

/-! ### The canonical form of the lists -/

theorem cellsAbove_mono {lo hi : Nat} {l : List Host.Cell} (h : cellsAbove hi l = true) (hl : lo ≤ hi) :
    cellsAbove lo l = true := by
  cases l with
  | nil => rfl
  | cons x l => simp only [cellsAbove, Bool.and_eq_true, decide_eq_true_eq] at h ⊢; exact ⟨⟨by omega, h.1.2⟩, h.2⟩

theorem cellPut_above {l : List Host.Cell} : ∀ {lo a : Nat} {b : Byte}, cellsAbove lo l = true → lo ≤ a →
    cellsAbove lo (cellPut l a b) = true := by
  induction l with
  | nil => intro lo a b _ h; simp only [cellPut]; split <;> simp_all [cellsAbove]
  | cons x l ih =>
    intro lo a b h ha
    obtain ⟨k, v⟩ := x
    simp only [cellsAbove, Bool.and_eq_true, decide_eq_true_eq] at h
    obtain ⟨⟨hk, hv⟩, hl⟩ := h
    simp only [cellPut]
    split
    · split
      · simp [cellsAbove, hk, hv, hl]
      · simp only [cellsAbove, Bool.and_eq_true, decide_eq_true_eq]; exact ⟨⟨ha, ‹_›⟩, ⟨by omega, hv⟩, hl⟩
    · split
      · split
        · exact cellsAbove_mono hl (by omega)
        · simp only [cellsAbove, Bool.and_eq_true, decide_eq_true_eq]; exact ⟨⟨ha, ‹_›⟩, by subst a; exact hl⟩
      · simp only [cellsAbove, Bool.and_eq_true, decide_eq_true_eq]; exact ⟨⟨hk, hv⟩, ih hl (by omega)⟩

theorem wordsAbove_mono {lo hi : Nat} {l : List Nat} (h : wordsAbove hi l = true) (hl : lo ≤ hi) :
    wordsAbove lo l = true := by
  cases l with
  | nil => rfl
  | cons x l => simp only [wordsAbove, Bool.and_eq_true, decide_eq_true_eq] at h ⊢; exact ⟨by omega, h.2⟩

theorem wordAdd_above {l : List Nat} : ∀ {lo w : Nat}, wordsAbove lo l = true → lo ≤ w →
    wordsAbove lo (wordAdd l w) = true := by
  induction l with
  | nil => intro lo w _ h; simp [wordAdd, wordsAbove, h]
  | cons k l ih =>
    intro lo w h hw
    simp only [wordsAbove, Bool.and_eq_true, decide_eq_true_eq] at h
    simp only [wordAdd]
    split
    · simp only [wordsAbove, Bool.and_eq_true, decide_eq_true_eq]; exact ⟨hw, by omega, h.2⟩
    · split
      · simp [wordsAbove, h]
      · simp only [wordsAbove, Bool.and_eq_true, decide_eq_true_eq]; exact ⟨h.1, ih h.2 (by omega)⟩

theorem filter_above {l : List Nat} (f : Nat → Bool) : ∀ {lo : Nat}, wordsAbove lo l = true →
    wordsAbove lo (l.filter f) = true := by
  induction l with
  | nil => intro lo _; rfl
  | cons k l ih =>
    intro lo h
    simp only [wordsAbove, Bool.and_eq_true, decide_eq_true_eq] at h
    simp only [List.filter]
    split
    · simp only [wordsAbove, Bool.and_eq_true, decide_eq_true_eq]; exact ⟨h.1, ih h.2⟩
    · exact wordsAbove_mono (ih h.2) (by omega)

/-! ### Every memory operation keeps the form -/

theorem Mem.setByte_wf {m : Mem} (h : m.wf = true) (a : Nat) (b : Byte) : (m.setByte a b).wf = true := by
  simp only [Mem.wf, Mem.setByte, Bool.and_eq_true] at h ⊢
  exact ⟨cellPut_above h.1 (Nat.zero_le _), h.2⟩

theorem Mem.write_wf {m : Mem} (h : m.wf = true) (a n v : Nat) : (m.write a n v).wf = true := by
  induction n generalizing m a v with
  | zero => exact h
  | succ n ih => exact ih (Mem.setByte_wf h _ _) _ _

theorem Mem.setFull_wf {m : Mem} (h : m.wf = true) (a n : Nat) : (m.setFull a n).wf = true := by
  simp only [Mem.wf, Mem.setFull, Bool.and_eq_true] at h ⊢
  exact ⟨h.1, filter_above _ h.2⟩

theorem Mem.addEmpty_wf {m : Mem} (h : m.wf = true) (w : Nat) : ({ m with empty := wordAdd m.empty w } : Mem).wf = true := by
  simp only [Mem.wf, Bool.and_eq_true] at h ⊢
  exact ⟨h.1, wordAdd_above h.2 (Nat.zero_le _)⟩

theorem Mem.setEmpty_wf {m : Mem} (h : m.wf = true) (a n : Nat) : (m.setEmpty a n).wf = true := by
  induction n generalizing m a with
  | zero => exact h
  | succ n ih => exact ih (Mem.addEmpty_wf h _) _

theorem Mem.marks_wf {m : Mem} (h : m.wf = true) (x : List EccMark) : ({ m with marks := x } : Mem).wf = true := h

theorem Mem.clearMarks_wf {m : Mem} (h : m.wf = true) (a n : Nat) : (m.clearMarks a n).wf = true := h

theorem Mem.setLine_wf {m : Mem} (h : m.wf = true) (l : Nat) (d : LineData) : (m.setLine l d).wf = true :=
  Mem.write_wf h _ _ _

/-! ### Reads after writes -/

theorem cellAt_cellPut_other {l : List Host.Cell} {a c : Nat} {b : Byte} (h : c ≠ a) :
    cellAt (cellPut l a b) c = cellAt l c := by
  induction l with
  | nil => simp only [cellPut]; split <;> simp [cellAt, h]
  | cons x l ih =>
    obtain ⟨k, v⟩ := x
    simp only [cellPut]
    split
    · split <;> simp [cellAt, h]
    · split
      · subst k; split <;> simp [cellAt, h]
      · simp only [cellAt]; split <;> simp [ih]

theorem cellAt_of_above {l : List Host.Cell} : ∀ {lo a : Nat}, cellsAbove lo l = true → a < lo →
    cellAt l a = unwrittenByte := by
  induction l with
  | nil => intros; rfl
  | cons x l ih =>
    intro lo a h ha
    obtain ⟨k, v⟩ := x
    simp only [cellsAbove, Bool.and_eq_true, decide_eq_true_eq] at h
    simp only [cellAt]
    rw [if_neg (by omega)]
    exact ih h.2 (by omega)

theorem cellAt_cellPut_same {l : List Host.Cell} : ∀ {lo a : Nat} {b : Byte}, cellsAbove lo l = true →
    cellAt (cellPut l a b) a = b := by
  induction l with
  | nil => intro lo a b _; simp only [cellPut]; split <;> simp_all [cellAt]
  | cons x l ih =>
    intro lo a b h
    obtain ⟨k, v⟩ := x
    simp only [cellsAbove, Bool.and_eq_true, decide_eq_true_eq] at h
    simp only [cellPut]
    split
    · split
      · simp only [cellAt]; rw [if_neg (by omega), cellAt_of_above h.2 (by omega)]; simp_all
      · simp [cellAt]
    · split
      · split
        · subst k; rw [cellAt_of_above h.2 (by omega)]; simp_all
        · simp [cellAt]
      · simp only [cellAt]; rw [if_neg (by omega)]; exact ih h.2

theorem Mem.byte_setByte_same {m : Mem} (h : m.wf = true) (a : Nat) (b : Byte) : (m.setByte a b).byte a = b := by
  simp only [Mem.wf, Bool.and_eq_true] at h
  exact cellAt_cellPut_same h.1

theorem Mem.byte_setByte_other {m : Mem} {a c : Nat} (b : Byte) (h : c ≠ a) : (m.setByte a b).byte c = m.byte c :=
  cellAt_cellPut_other h

/-- A write leaves every byte outside its range alone. -/
theorem Mem.byte_write_outside {m : Mem} {a c n v : Nat} (h : c < a ∨ a + n ≤ c) : (m.write a n v).byte c = m.byte c := by
  induction n generalizing m a v with
  | zero => rfl
  | succ n ih =>
    simp only [Mem.write]
    rw [ih (by omega), Mem.byte_setByte_other _ (by omega)]

/-- A read of the range just written gives the number written, within its width. -/
theorem Mem.read_write_same {m : Mem} (h : m.wf = true) (a n v : Nat) : (m.write a n v).read a n = v % 256 ^ n := by
  induction n generalizing m a v with
  | zero => simp [Mem.read, Nat.mod_one]
  | succ n ih =>
    simp only [Mem.write, Mem.read]
    rw [ih (Mem.setByte_wf h _ _), Mem.byte_write_outside (by omega), Mem.byte_setByte_same h]
    rw [Nat.pow_succ, Nat.mul_comm (256 ^ n) 256, Nat.mod_mul]
    simp

end Sys2Proof.Machine
end

