-- ==== Sys2Proof/Laws/FormOps.lean ====
section
/-! SUPPORT. The memory keeps its canonical form: what the operations on registers, lines, records, tokens and translation do.
For an operation `f`, `f_wf` says that the state it answers has a memory in canonical form when the state it was given has
one. -/
namespace Sys2Proof.Machine
-- One theorem after another: in parallel each would hold a thread and its stack.
set_option Elab.async false
set_option linter.unusedSimpArgs false
set_option linter.unusedVariables false

theorem foldl_wf {α : Type} {f : State → α → State} (hf : ∀ s x, s.mem.wf = true → (f s x).mem.wf = true) (l : List α) (s : State)
    (h : s.mem.wf = true) : (l.foldl f s).mem.wf = true := by
  induction l generalizing s with
  | nil => exact h
  | cons a l ih => exact ih _ (hf _ _ h)

theorem foldl_fst_wf {α β : Type} {f : State × β → α → State × β} (hf : ∀ s x, s.1.mem.wf = true → (f s x).1.mem.wf = true) (l : List α) (s : State × β)
    (h : s.1.mem.wf = true) : (l.foldl f s).1.mem.wf = true := by
  induction l generalizing s with
  | nil => exact h
  | cons a l ih => exact ih _ (hf _ _ h)

theorem foldlM_wf {α ε : Type} {f : State → α → Except ε State} (hf : ∀ s x r, s.mem.wf = true → f s x = .ok r → r.mem.wf = true) (l : List α) (s : State)
    (h : s.mem.wf = true) : ∀ r, l.foldlM f s = .ok r → r.mem.wf = true := by
  induction l generalizing s with
  | nil => intro r hr; cases hr; exact h
  | cons a l ih =>
    intro r hr
    simp only [List.foldlM_cons, bind, Except.bind] at hr
    split at hr
    · cases hr
    · rename_i v hv; exact ih v (hf _ _ _ h hv) r hr

theorem foldlM_fst_wf {α β ε : Type} {f : State × β → α → Except ε (State × β)} (hf : ∀ s x r, s.1.mem.wf = true → f s x = .ok r → r.1.mem.wf = true)
    (l : List α) (s : State × β) (h : s.1.mem.wf = true) : ∀ r, l.foldlM f s = .ok r → r.1.mem.wf = true := by
  induction l generalizing s with
  | nil => intro r hr; cases hr; exact h
  | cons a l ih =>
    intro r hr
    simp only [List.foldlM_cons, bind, Except.bind] at hr
    split at hr
    · cases hr
    · rename_i v hv; exact ih v (hf _ _ _ h hv) r hr

theorem bind_ok_wf {ε α β : Type} {x : Except ε α} {f : α → Except ε β} {b : β} (h : (x >>= f) = .ok b) :
    ∃ a, x = .ok a ∧ f a = .ok b := by
  cases x with
  | error e => cases h
  | ok a => exact ⟨a, rfl, h⟩

theorem ite_wf {c : Prop} [Decidable c] {a b : State} (ha : a.mem.wf = true) (hb : b.mem.wf = true) : (if c then a else b).mem.wf = true := by
  split <;> assumption

theorem bind_error_wf {ε α β : Type} {x : Except ε α} {f : α → Except ε β} {e : ε} (h : (x >>= f) = .error e) :
    x = .error e ∨ ∃ a, x = .ok a ∧ f a = .error e := by
  cases x with
  | error e => cases h; exact .inl rfl
  | ok a => exact .inr ⟨a, rfl, h⟩

/-! ### Ops -/

theorem modPlot_wf (s p f) (hs : s.mem.wf = true) : (modPlot s p f).mem.wf = true := hs

theorem modBlocks_wf (s p f) (hs : s.mem.wf = true) : (modBlocks s p f).mem.wf = true := hs

theorem modUnit_wf (s p f) (hs : s.mem.wf = true) : (modUnit s p f).mem.wf = true := hs

theorem modCopy_wf (s p b f) (hs : s.mem.wf = true) : (modCopy s p b f).mem.wf = true := hs

theorem modCtx_wf (s c f) (hs : s.mem.wf = true) : (modCtx s c f).mem.wf = true := hs

theorem modCount_wf (s c p f) (hs : s.mem.wf = true) : (modCount s c p f).mem.wf = true := hs

theorem modGroup_wf (s p g f) (hs : s.mem.wf = true) : (modGroup s p g f).mem.wf = true := hs

theorem countEvent_wf (s : State) (p : Nat) (ev : BitVec 6) (ctx : Option (BitVec 12)) (k : Nat) (w_s : s.mem.wf = true) :
    (countEvent s p ev ctx k).mem.wf = true := by
  unfold countEvent
  grind -ring -linarith -lia -order -ac [modBlocks_wf]

theorem sendAll_wf (s : State) (p : Nat) (b : BlockId) (xs : List Send) (w_s : s.mem.wf = true) :
    (sendAll s p b xs).mem.wf = true := by
  unfold sendAll
  grind -ring -linarith -lia -order -ac

theorem markReturns_wf (n : Nat) (s : State) (w_s : s.mem.wf = true) : (markReturns n s).mem.wf = true := by
  unfold markReturns
  grind -ring -linarith -lia -order -ac

theorem throughPort_wf {s : State} {x : Result} (hx : ∀ r, x = .next r → r.mem.wf = true) :
    ∀ r, throughPort s x = .next r → r.mem.wf = true := by
  intro r hr
  unfold throughPort at hr
  split at hr
  · cases hr; exact markReturns_wf _ _ (hx _ rfl)
  · cases hr
  · cases hr

theorem sendBack_wf (s : State) (p : Nat) (b : BlockId) (xs : List Send) (w_s : s.mem.wf = true) :
    (sendBack s p b xs).mem.wf = true := by
  unfold sendBack
  grind -ring -linarith -lia -order -ac [markReturns_wf, sendAll_wf]

theorem sendEntry_wf (s : State) (edge : EdgeKind) (p : Nat) (b : BlockId) (slot : BitVec 7) (port : BitVec 2) (t : Token) (w_s : s.mem.wf = true) :
    (sendEntry s edge p b slot port t).mem.wf = true := by
  unfold sendEntry
  grind -ring -linarith -lia -order -ac

theorem requestStop_wf (s : State) (c : BitVec 12) (flags : BitVec 16) (cause : BitVec 8) (freeze kill : Bool) (w_s : s.mem.wf = true) :
    (requestStop s c flags cause freeze kill).mem.wf = true := by
  unfold requestStop
  grind -ring -linarith -lia -order -ac [modCtx_wf]

theorem dropFlights_wf (s : State) (p : Nat) (g : BitVec 3) (w_s : s.mem.wf = true) :
    (dropFlights s p g).mem.wf = true := by
  unfold dropFlights
  grind -ring -linarith -lia -order -ac

theorem mutePending_wf (s : State) (p : Nat) (g : BitVec 3) (w_s : s.mem.wf = true) :
    (mutePending s p g).mem.wf = true := by
  unfold mutePending
  grind -ring -linarith -lia -order -ac

theorem killGroup_wf (s : State) (p : Nat) (g : BitVec 3) (cause : BitVec 8) (w_s : s.mem.wf = true) :
    (killGroup s p g cause).mem.wf = true := by
  unfold killGroup
  grind -ring -linarith -lia -order -ac [modGroup_wf, dropFlights_wf, modPlot_wf, mutePending_wf]

theorem doubleFault_wf (s : State) (c : BitVec 12) (record : Nat) (r : CauseRecord) (w_s : s.mem.wf = true) :
    (doubleFault s c record r).mem.wf = true := by
  unfold doubleFault
  grind -ring -linarith -lia -order -ac [requestStop_wf, modCtx_wf]

theorem freshHandlerWave_wf (s : State) (p : Nat) (c : BitVec 12) (g : BitVec 3) (thread : BitVec 10) (w_s : s.mem.wf = true) :
    (freshHandlerWave s p c g thread).mem.wf = true := by
  unfold freshHandlerWave
  grind -ring -linarith -lia -order -ac [modPlot_wf]

theorem deliverTo_wf (s : State) (p : Nat) (g : BitVec 3) (x : Group) (inHandler : Bool) (e : FaultInfo) (slot : BitVec 8) (b : BlockId) (env : Envelope) (kept : Kept) (w_s : s.mem.wf = true) :
    (deliverTo s p g x inHandler e slot b env kept).1.mem.wf = true := by
  unfold deliverTo
  grind -ring -linarith -lia -order -ac [freshHandlerWave_wf, sendEntry_wf, doubleFault_wf, killGroup_wf, modGroup_wf]

theorem deliverFault_wf (s : State) (p : Nat) (g : BitVec 3) (e : FaultInfo) (slot : BitVec 8) (b : BlockId) (env : Envelope) (kept : Kept) (w_s : s.mem.wf = true) :
    (deliverFault s p g e slot b env kept).1.mem.wf = true := by
  unfold deliverFault
  grind -ring -linarith -lia -order -ac [deliverTo_wf]

theorem takeSet_wf (s : State) (p : Nat) (b : BlockId) (m : MatchedSet) (w_s : s.mem.wf = true) :
    (takeSet s p b m).mem.wf = true := by
  unfold takeSet
  grind -ring -linarith -lia -order -ac [modCopy_wf]

theorem countSet_wf (s : State) (p : Nat) (c : BitVec 12) (yld : Bool) (w_s : s.mem.wf = true) :
    (countSet s p c yld).mem.wf = true := by
  unfold countSet
  grind -ring -linarith -lia -order -ac [modCount_wf]

theorem consume_wf (s : State) (p : Nat) (b : BlockId) (m : MatchedSet) (w_s : s.mem.wf = true) :
    (consume s p b m).mem.wf = true := by
  unfold consume
  grind -ring -linarith -lia -order -ac [countSet_wf, takeSet_wf]

theorem faultSet_wf (s : State) (c : FireCtx) (m : MatchedSet) (e : FaultInfo) (w_s : s.mem.wf = true) :
    (faultSet s c m e).mem.wf = true := by
  unfold faultSet
  grind -ring -linarith -lia -order -ac [deliverFault_wf, takeSet_wf]

theorem fireWith_wf {h : Head} {skip : FireCtx → State → State} {body : FireCtx → State → Except FaultInfo (State × List Send)}
    {s : State} (hs : s.mem.wf = true) (h1 : ∀ c u, u.mem.wf = true → (skip c u).mem.wf = true)
    (h2 : ∀ c u r, u.mem.wf = true → body c u = .ok r → r.1.mem.wf = true) : ∀ r, fireWith h skip body s = .next r → r.mem.wf = true := by
  intro r hr
  rcases Sys2Proof.fireWith_cases hr with ⟨_, rfl⟩ | ⟨p, b, m, _, ⟨_, rfl⟩ | ⟨_, rfl⟩ | ⟨_, ⟨e, _, rfl⟩ | ⟨u, xs, hb, rfl⟩⟩⟩
  · exact hs
  · exact faultSet_wf _ _ _ _ hs
  · exact h1 _ _ hs
  · exact faultSet_wf _ _ _ _ hs
  · exact h2 _ (consume s p b m) (u, xs) hs hb

theorem fire_wf {h : Head} {body : FireCtx → Except FaultInfo (List Send)} {s : State} (hs : s.mem.wf = true) :
    ∀ r, fire h body s = .next r → r.mem.wf = true := by
  unfold fire
  refine fireWith_wf hs (fun _ _ hu => hu) ?_
  intro c u r hu hb
  cases hc : body c with
  | error e => rw [hc] at hb; cases hb
  | ok xs => rw [hc] at hb; cases hb; exact hu

theorem fireState_wf {h : Head} {body : FireCtx → State → Except FaultInfo (State × List Send)} {s : State}
    (hs : s.mem.wf = true) (h2 : ∀ c u r, u.mem.wf = true → body c u = .ok r → r.1.mem.wf = true) :
    ∀ r, fireState h body s = .next r → r.mem.wf = true := fireWith_wf hs (fun _ _ hu => hu) h2

/-! ### Select -/

theorem turnTaken_wf (s : State) (p : Nat) (c : BitVec 12) (k : Nat) (w_s : s.mem.wf = true) :
    (turnTaken s p c k).mem.wf = true := by
  unfold turnTaken
  grind -ring -linarith -lia -order -ac [modCount_wf]

theorem countRow_wf (s : State) (p : Nat) (b : BlockId) (slot : BitVec 7) (w_s : s.mem.wf = true) :
    (countRow s p b slot).mem.wf = true := by
  unfold countRow
  grind -ring -linarith -lia -order -ac [countSet_wf, turnTaken_wf]

/-! ### Lines -/

theorem modL1_wf (s : State) (p : Nat) (f : List L1Line → List L1Line) (w_s : s.mem.wf = true) :
    (modL1 s p f).mem.wf = true := by
  unfold modL1
  grind -ring -linarith -lia -order -ac [modPlot_wf]

theorem setLineState_wf (s : State) (p line : Nat) (f : L1Line → L1Line) (w_s : s.mem.wf = true) :
    (setLineState s p line f).mem.wf = true := by
  unfold setLineState
  grind -ring -linarith -lia -order -ac [modL1_wf]

theorem dropLine_wf (s : State) (p line : Nat) (w_s : s.mem.wf = true) : (dropLine s p line).mem.wf = true := by
  unfold dropLine
  grind -ring -linarith -lia -order -ac [modL1_wf]

theorem dropRep_wf (s : State) (p : Nat) (f : Nat → Bool) (w_s : s.mem.wf = true) :
    (dropRep s p f).mem.wf = true := by
  unfold dropRep
  grind -ring -linarith -lia -order -ac [modL1_wf]

theorem dropRepAll_wf (s : State) (f : Nat → Bool) (w_s : s.mem.wf = true) : (dropRepAll s f).mem.wf = true := by
  unfold dropRepAll
  (try dsimp only)
  (repeat' (first | with_reducible assumption | (with_reducible refine foldl_wf (fun _ _ _ => ?_) _ _ ?_) | split | with_reducible apply dropRep_wf)) <;> grind -ring -linarith -lia -order -ac [dropRep_wf]

theorem setDir_wf (s : State) (e : DirEntry) (w_s : s.mem.wf = true) : (setDir s e).mem.wf = true := by
  unfold setDir
  grind -ring -linarith -lia -order -ac

theorem setHostFlag_wf (s : State) (line : Nat) (b : Bool) (w_s : s.mem.wf = true) :
    (setHostFlag s line b).mem.wf = true := by
  unfold setHostFlag
  grind -ring -linarith -lia -order -ac [setDir_wf]

theorem wakeWatch_wf (s : State) (line : Nat) (w_s : s.mem.wf = true) : (wakeWatch s line).mem.wf = true := by
  unfold wakeWatch
  grind -ring -linarith -lia -order -ac

theorem noteStore_wf (s : State) (line : Nat) (w_s : s.mem.wf = true) : (noteStore s line).mem.wf = true := by
  unfold noteStore
  grind -ring -linarith -lia -order -ac [wakeWatch_wf]

theorem endWatch_wf (s : State) (line : Nat) (w_s : s.mem.wf = true) : (endWatch s line).mem.wf = true := by
  unfold endWatch
  grind -ring -linarith -lia -order -ac

theorem l2Leave_wf (s : State) (x : L2Line) (w_s : s.mem.wf = true) : (l2Leave s x).mem.wf = true := by
  unfold l2Leave
  grind -ring -linarith -lia -order -ac [endWatch_wf]

theorem l2Mark_wf (s : State) (x : L2Line) (w_s : s.mem.wf = true) : (l2Mark s x).mem.wf = true := by
  unfold l2Mark
  (try dsimp only)
  (repeat' (first | with_reducible assumption | (with_reducible refine foldl_wf (fun _ _ _ => ?_) _ _ ?_) | split)) <;> grind -ring -linarith -lia -order -ac

theorem l2Touch_wf (s : State) (cp : CachePol) (c : Option (BitVec 12)) (line : Nat) (w_s : s.mem.wf = true) :
    (l2Touch s cp c line).mem.wf = true := by
  unfold l2Touch
  grind -ring -linarith -lia -order -ac [l2Leave_wf, l2Mark_wf]

theorem l2Drop_wf (s : State) (line : Nat) (w_s : s.mem.wf = true) : (l2Drop s line).mem.wf = true := by
  unfold l2Drop
  grind -ring -linarith -lia -order -ac [l2Leave_wf]

theorem ownHostLine_wf (s : State) (pa : Nat) (w_s : s.mem.wf = true) : (ownHostLine s pa).mem.wf = true := by
  unfold ownHostLine
  grind -ring -linarith -lia -order -ac

theorem dropPeer_wf (s : State) (c : BitVec 12) (f : Nat → Bool) (w_s : s.mem.wf = true) :
    (dropPeer s c f).mem.wf = true := by
  unfold dropPeer
  grind -ring -linarith -lia -order -ac

theorem reaches_wf (s : State) (line p : Nat) (w_s : s.mem.wf = true) :
    ∀ rr, (reaches s line p) = some rr → rr.mem.wf = true := by
  unfold reaches
  grind -ring -linarith -lia -order -ac

theorem recallLine_wf (s : State) (line : Nat) (w_s : s.mem.wf = true) : (recallLine s line).mem.wf = true := by
  unfold recallLine
  grind -ring -linarith -lia -order -ac [setDir_wf, Mem.setByte_wf, Mem.write_wf, Mem.setFull_wf, Mem.addEmpty_wf, Mem.setEmpty_wf, Mem.marks_wf,
        Mem.clearMarks_wf, Mem.setLine_wf]

theorem patchLine_wf (s : State) (line : Nat) (f : LineData → LineData) (w_s : s.mem.wf = true) :
    (patchLine s line f).mem.wf = true := by
  unfold patchLine
  grind -ring -linarith -lia -order -ac [setDir_wf, Mem.setByte_wf, Mem.write_wf, Mem.setFull_wf, Mem.addEmpty_wf, Mem.setEmpty_wf, Mem.marks_wf,
        Mem.clearMarks_wf, Mem.setLine_wf]

theorem hbmWrite_wf (s : State) (a n v : Nat) (w_s : s.mem.wf = true) : (hbmWrite s a n v).mem.wf = true := by
  unfold hbmWrite
  grind -ring -linarith -lia -order -ac [patchLine_wf, setHostFlag_wf, recallLine_wf, Mem.setByte_wf, Mem.write_wf, Mem.setFull_wf, Mem.addEmpty_wf,
        Mem.setEmpty_wf, Mem.marks_wf, Mem.clearMarks_wf, Mem.setLine_wf]

theorem lineWrite_wf (s : State) (a n v : Nat) (w_s : s.mem.wf = true) : (lineWrite s a n v).mem.wf = true := by
  unfold lineWrite
  grind -ring -linarith -lia -order -ac [hbmWrite_wf, ownHostLine_wf, noteStore_wf, Mem.setByte_wf, Mem.write_wf, Mem.setFull_wf, Mem.addEmpty_wf,
        Mem.setEmpty_wf, Mem.marks_wf, Mem.clearMarks_wf, Mem.setLine_wf]

theorem engineWriteFrom_wf (a0 : Nat) (a1 : State) (a2 : Nat) (a3 : Nat) (a4 : Nat) (w_a1 : a1.mem.wf = true) :
    (engineWriteFrom a0 a1 a2 a3 a4).mem.wf = true := by
  induction a0 generalizing a1 a2 a3 a4 w_a1 with
  | zero => (unfold engineWriteFrom; grind -ring -linarith -lia -order -ac [lineWrite_wf])
  | succ n ih => (unfold engineWriteFrom; grind -ring -linarith -lia -order -ac [lineWrite_wf])

theorem engineWrite_wf (s : State) (a n v : Nat) (w_s : s.mem.wf = true) : (engineWrite s a n v).mem.wf = true := by
  unfold engineWrite
  grind -ring -linarith -lia -order -ac [engineWriteFrom_wf]

theorem engineStore_wf (s : State) (a n v : Nat) (w_s : s.mem.wf = true) : (engineStore s a n v).mem.wf = true := by
  unfold engineStore
  grind -ring -linarith -lia -order -ac [engineWrite_wf, Mem.setByte_wf, Mem.write_wf, Mem.setFull_wf, Mem.addEmpty_wf, Mem.setEmpty_wf,
        Mem.marks_wf, Mem.clearMarks_wf, Mem.setLine_wf]

theorem writeWord_wf (s : State) (a : Nat) (v : Word) (w_s : s.mem.wf = true) : (writeWord s a v).mem.wf = true := by
  unfold writeWord
  grind -ring -linarith -lia -order -ac [engineWrite_wf]

/-! ### Record -/

theorem writeWords_wf (ws : List Word) (s : State) (a : Nat) (hs : s.mem.wf = true) : (writeWords s a ws).mem.wf = true := by
  induction ws generalizing s a with
  | nil => exact hs
  | cons w ws ih => exact ih _ _ (writeWord_wf _ _ _ hs)

theorem askDrain_wf (s : State) (c : BitVec 12) (w_s : s.mem.wf = true) : (askDrain s c).mem.wf = true := by
  unfold askDrain
  grind -ring -linarith -lia -order -ac [requestStop_wf]

theorem recordEntry_wf (s : State) (c : BitVec 12) (kind addr : Nat) (words : List Word) (w_s : s.mem.wf = true) :
    (recordEntry s c kind addr words).mem.wf = true := by
  unfold recordEntry
  grind -ring -linarith -lia -order -ac [askDrain_wf, writeWords_wf, modCtx_wf]

theorem awaitTurn_wf (s : State) (c : BitVec 12) (v : Verdict) (w_s : s.mem.wf = true) :
    (awaitTurn s c v).mem.wf = true := by
  unfold awaitTurn
  grind -ring -linarith -lia -order -ac [askDrain_wf]

theorem serveEntry_wf (s : State) (c : BitVec 12) (e : RecEntry) (w_s : s.mem.wf = true) :
    (serveEntry s c e).mem.wf = true := by
  unfold serveEntry
  grind -ring -linarith -lia -order -ac [modCtx_wf]

theorem valueChannel_wf (s : State) (c : BitVec 12) (kind addr : Nat) (ident : List Word) (found : Word) (w_s : s.mem.wf = true) :
    (valueChannel s c kind addr ident found).1.mem.wf = true := by
  unfold valueChannel
  grind -ring -linarith -lia -order -ac [modCtx_wf, serveEntry_wf, recordEntry_wf]

/-! ### Access -/

theorem modAccesses_wf (s : State) (p : Nat) (f : List Access → List Access) (w_s : s.mem.wf = true) :
    (modAccesses s p f).mem.wf = true := by
  unfold modAccesses
  grind -ring -linarith -lia -order -ac [modPlot_wf]

theorem modAccess_wf (s : State) (p id : Nat) (f : Access → Access) (w_s : s.mem.wf = true) :
    (modAccess s p id f).mem.wf = true := by
  unfold modAccess
  grind -ring -linarith -lia -order -ac [modAccesses_wf]

theorem modPart_wf (s : State) (r : PartRef) (f : Part → Part) (w_s : s.mem.wf = true) :
    (modPart s r f).mem.wf = true := by
  unfold modPart
  grind -ring -linarith -lia -order -ac [modAccess_wf]

theorem finishPart_wf (s : State) (r : PartRef) (got : Word) (sys : Bool) (w_s : s.mem.wf = true) :
    (finishPart s r got sys).mem.wf = true := by
  unfold finishPart
  grind -ring -linarith -lia -order -ac [modPart_wf]

theorem spoil_wf (s : State) (r : PartRef) (e : FaultInfo) (w_s : s.mem.wf = true) : (spoil s r e).mem.wf = true := by
  unfold spoil
  grind -ring -linarith -lia -order -ac [modAccess_wf]

theorem spoilBad_wf (s : State) (r : PartRef) (x : Part) (w_s : s.mem.wf = true) :
    (spoilBad s r x).mem.wf = true := by
  unfold spoilBad
  grind -ring -linarith -lia -order -ac [spoil_wf]

theorem modUnitOf_wf (s : State) (r : PartRef) (f : Part → Part) (w_s : s.mem.wf = true) :
    (modUnitOf s r f).mem.wf = true := by
  unfold modUnitOf
  (try dsimp only)
  (repeat' (first | with_reducible assumption | (with_reducible refine foldl_wf (fun _ _ _ => ?_) _ _ ?_) | split | with_reducible apply modPart_wf)) <;> grind -ring -linarith -lia -order -ac [modPart_wf]

theorem modEng_wf (s : State) (id : Nat) (f : EngReq → EngReq) (w_s : s.mem.wf = true) :
    (modEng s id f).mem.wf = true := by
  unfold modEng
  grind -ring -linarith -lia -order -ac

theorem dropEng_wf (s : State) (id : Nat) (w_s : s.mem.wf = true) : (dropEng s id).mem.wf = true := by
  unfold dropEng
  grind -ring -linarith -lia -order -ac

theorem keepResponse_wf (s : State) (src port : Nat) (seq : BitVec 32) (refused : Bool) (v : Nat) (w_s : s.mem.wf = true) :
    (keepResponse s src port seq refused v).mem.wf = true := by
  unfold keepResponse
  grind -ring -linarith -lia -order -ac

theorem answerAsk_wf (s : State) (q : EngReq) (v : Nat) (w_s : s.mem.wf = true) :
    (answerAsk s q v).mem.wf = true := by
  unfold answerAsk
  grind -ring -linarith -lia -order -ac [keepResponse_wf, modEng_wf, dropEng_wf]

theorem joinReplay_wf (s : State) (r : PartRef) (a : Access) (pa : Nat) (w_s : s.mem.wf = true) :
    (joinReplay s r a pa).mem.wf = true := by
  unfold joinReplay
  grind -ring -linarith -lia -order -ac [awaitTurn_wf]

theorem countCollision_wf (s : State) (home : Nat) (w_s : s.mem.wf = true) :
    (countCollision s home).mem.wf = true := by
  unfold countCollision
  grind -ring -linarith -lia -order -ac

theorem meetHostCopy_wf (s : State) (sysAtomic : Bool) (pa : Nat) (w_s : s.mem.wf = true) :
    (meetHostCopy s sysAtomic pa).mem.wf = true := by
  unfold meetHostCopy
  grind -ring -linarith -lia -order -ac [setHostFlag_wf, countCollision_wf]

theorem serveLds_wf (s : State) (r : PartRef) (a : Access) (x : Part) (pa : Nat) (w_s : s.mem.wf = true) :
    (serveLds s r a x pa).mem.wf = true := by
  unfold serveLds
  grind -ring -linarith -lia -order -ac [valueChannel_wf, finishPart_wf, meetHostCopy_wf, spoilBad_wf, joinReplay_wf, Mem.setByte_wf, Mem.write_wf,
        Mem.setFull_wf, Mem.addEmpty_wf, Mem.setEmpty_wf, Mem.marks_wf, Mem.clearMarks_wf, Mem.setLine_wf]

theorem serveAskLds_wf (s : State) (q : EngReq) (x : PeerAsk) (w_s : s.mem.wf = true) :
    (serveAskLds s q x).mem.wf = true := by
  unfold serveAskLds
  grind -ring -linarith -lia -order -ac [answerAsk_wf, meetHostCopy_wf, Mem.setByte_wf, Mem.write_wf, Mem.setFull_wf, Mem.addEmpty_wf,
        Mem.setEmpty_wf, Mem.marks_wf, Mem.clearMarks_wf, Mem.setLine_wf]

theorem serveWaiting_wf (s : State) (r : ReqRef) (w_s : s.mem.wf = true) : (serveWaiting s r).mem.wf = true := by
  unfold serveWaiting
  grind -ring -linarith -lia -order -ac [serveLds_wf, serveAskLds_wf]

theorem wakeLds_wf (a0 : Nat) (a1 : State) (a2 : Nat) (w_a1 : a1.mem.wf = true) :
    (wakeLds a0 a1 a2).mem.wf = true := by
  induction a0 generalizing a1 a2 w_a1 with
  | zero => (unfold wakeLds; grind -ring -linarith -lia -order -ac [serveWaiting_wf, Mem.setByte_wf, Mem.write_wf, Mem.setFull_wf, Mem.addEmpty_wf, Mem.setEmpty_wf, Mem.marks_wf, Mem.clearMarks_wf, Mem.setLine_wf])
  | succ n ih => (unfold wakeLds; grind -ring -linarith -lia -order -ac [serveWaiting_wf, Mem.setByte_wf, Mem.write_wf, Mem.setFull_wf, Mem.addEmpty_wf, Mem.setEmpty_wf, Mem.marks_wf, Mem.clearMarks_wf, Mem.setLine_wf])

theorem wakeWord_wf (s : State) (a : Nat) (w_s : s.mem.wf = true) : (wakeWord s a).mem.wf = true := by
  unfold wakeWord
  grind -ring -linarith -lia -order -ac [wakeLds_wf]

theorem wakeRange_wf (s : State) (a n : Nat) (w_s : s.mem.wf = true) : (wakeRange s a n).mem.wf = true := by
  unfold wakeRange
  (try dsimp only)
  (repeat' (first | with_reducible assumption | (with_reducible refine foldl_wf (fun _ _ _ => ?_) _ _ ?_) | split | with_reducible apply wakeWord_wf)) <;> grind -ring -linarith -lia -order -ac [wakeWord_wf]

theorem joinLds_wf (s : State) (r : ReqRef) (pa : Nat) (w_s : s.mem.wf = true) :
    ∀ rr, (joinLds s r pa) = some rr → rr.mem.wf = true := by
  unfold joinLds
  grind -ring -linarith -lia -order -ac

theorem storeAt_wf (s : State) (pa n v : Nat) (w_s : s.mem.wf = true) : (storeAt s pa n v).mem.wf = true := by
  unfold storeAt
  grind -ring -linarith -lia -order -ac [noteStore_wf, Mem.setByte_wf, Mem.write_wf, Mem.setFull_wf, Mem.addEmpty_wf, Mem.setEmpty_wf, Mem.marks_wf,
        Mem.clearMarks_wf, Mem.setLine_wf]

theorem modifyAt_wf (s : State) (a : Access) (x : Part) (pa : Nat) (w_s : s.mem.wf = true) :
    (modifyAt s a x pa).1.mem.wf = true := by
  unfold modifyAt
  grind -ring -linarith -lia -order -ac [meetHostCopy_wf, storeAt_wf, Mem.setByte_wf, Mem.write_wf, Mem.setFull_wf, Mem.addEmpty_wf,
        Mem.setEmpty_wf, Mem.marks_wf, Mem.clearMarks_wf, Mem.setLine_wf]

theorem performAt_wf (s : State) (r : PartRef) (a : Access) (x : Part) (pa : Nat) (hs : s.mem.wf = true) :
    (performAt s r a x pa).mem.wf = true := by
  unfold performAt
  dsimp only
  have hst := storeAt_wf s pa x.bytes x.val.toNat hs
  have hm2 := storeAt_wf _ pa x.bytes x.val.toNat (meetHostCopy_wf s x.sysAtomic pa hs)
  split
  iterate 4 exact ite_wf (spoilBad_wf _ _ _ hs) (finishPart_wf _ _ _ _ hs)
  iterate 3 exact finishPart_wf _ _ _ _ hst
  · exact wakeWord_wf _ _ (finishPart_wf _ r 0 true (Mem.setFull_wf hm2 _ _))
  · exact finishPart_wf _ _ _ _ (Mem.setEmpty_wf hs _ _)
  · refine ite_wf (spoilBad_wf _ _ _ hs) (ite_wf (joinReplay_wf _ _ _ _ hs) ?_)
    exact finishPart_wf _ _ _ _ (valueChannel_wf _ _ _ _ _ _ (modifyAt_wf _ _ _ _ hs))
  · exact finishPart_wf _ _ _ _ (modifyAt_wf _ _ _ _ hs)
  · refine ite_wf (serveLds_wf _ _ _ _ _ hs) ?_
    cases h : joinLds s (.part r) pa with
    | none => exact modPart_wf _ _ _ hs
    | some t => exact joinLds_wf _ _ _ hs _ h
  · exact finishPart_wf _ _ _ _ (l2Drop_wf _ _ hs)
  iterate 3 exact finishPart_wf _ _ _ _ hs

theorem performPart_wf (s : State) (r : PartRef) (w_s : s.mem.wf = true) : (performPart s r).mem.wf = true := by
  unfold performPart
  grind -ring -linarith -lia -order -ac [performAt_wf]

theorem performUnit_wf (s : State) (r : PartRef) (w_s : s.mem.wf = true) : (performUnit s r).mem.wf = true := by
  unfold performUnit
  (try dsimp only)
  (repeat' (first | with_reducible assumption | (with_reducible refine foldl_wf (fun _ _ _ => ?_) _ _ ?_) | split | with_reducible apply meetHostCopy_wf | with_reducible apply spoil_wf | with_reducible apply performPart_wf | with_reducible apply l2Touch_wf | with_reducible apply ownHostLine_wf)) <;> grind -ring -linarith -lia -order -ac [meetHostCopy_wf, spoil_wf, performPart_wf, l2Touch_wf, ownHostLine_wf]

theorem retryAsk_wf (s : State) (q : EngReq) (w_s : s.mem.wf = true) : (retryAsk s q).mem.wf = true := by
  unfold retryAsk
  grind -ring -linarith -lia -order -ac

theorem performAsk_wf (s : State) (q : EngReq) (x : PeerAsk) (hs : s.mem.wf = true) : (performAsk s q x).mem.wf = true := by
  unfold performAsk
  dsimp only
  have hm := meetHostCopy_wf s false q.pa hs
  split
  · exact answerAsk_wf _ _ _ hs
  · exact answerAsk_wf _ _ _ (storeAt_wf _ _ _ _ hs)
  · exact answerAsk_wf _ _ _ (storeAt_wf _ _ _ _ hm)
  · exact wakeRange_wf _ _ _ (answerAsk_wf _ _ _ (Mem.setFull_wf (storeAt_wf _ _ _ _ hm) _ _))
  · exact answerAsk_wf _ _ _ (Mem.setEmpty_wf hm _ _)
  · refine ite_wf (serveAskLds_wf _ _ _ hs) ?_
    cases h : joinLds s (.eng q.id) q.pa with
    | none => exact retryAsk_wf _ _ hs
    | some t => exact joinLds_wf _ _ _ hs _ h

theorem performEng_wf (s : State) (id : Nat) (w_s : s.mem.wf = true) : (performEng s id).mem.wf = true := by
  unfold performEng
  grind -ring -linarith -lia -order -ac [performAsk_wf, modEng_wf, wakeRange_wf, setHostFlag_wf, l2Touch_wf, ownHostLine_wf, dropEng_wf, storeAt_wf,
        Mem.setByte_wf, Mem.write_wf, Mem.setFull_wf, Mem.addEmpty_wf, Mem.setEmpty_wf, Mem.marks_wf,
        Mem.clearMarks_wf, Mem.setLine_wf]

theorem performRef_wf (s : State) (r : ReqRef) (w_s : s.mem.wf = true) : (performRef s r).mem.wf = true := by
  unfold performRef
  grind -ring -linarith -lia -order -ac [performUnit_wf, performEng_wf]

end Sys2Proof.Machine
end

