-- ==== Sys2Proof/Laws/FormMemory.lean ====
section
/-! SUPPORT. The memory keeps its canonical form: coherence, tokens, translation, the store buffer, engine requests and blocks.
For an operation `f`, `f_wf` says that the state it answers has a memory in canonical form when the state it was given has
one. -/
namespace Sys2Proof.Machine
-- One theorem after another: in parallel each would hold a thread and its stack.
set_option Elab.async false
set_option linter.unusedSimpArgs false
set_option linter.unusedVariables false

/-! ### Coherence -/

theorem sendHome_wf (s : State) (p line : Nat) (m : HomeMsg) (w_s : s.mem.wf = true) :
    (sendHome s p line m).mem.wf = true := by
  unfold sendHome
  grind -ring -linarith -lia -order -ac

theorem sendPlot_wf (s : State) (p line : Nat) (m : PlotMsg) (w_s : s.mem.wf = true) :
    (sendPlot s p line m).mem.wf = true := by
  unfold sendPlot
  grind -ring -linarith -lia -order -ac

theorem sendOwner_wf (s : State) (p line : Nat) (m : PlotMsg) (w_s : s.mem.wf = true) :
    (sendOwner s p line m).mem.wf = true := by
  unfold sendOwner
  grind -ring -linarith -lia -order -ac

theorem replaceLine_wf (s : State) (p : Nat) (x : L1Line) (w_s : s.mem.wf = true) :
    (replaceLine s p x).mem.wf = true := by
  unfold replaceLine
  grind -ring -linarith -lia -order -ac [setLineState_wf, dropRep_wf, dropLine_wf, sendHome_wf]

theorem makeWay_wf (s : State) (p line : Nat) (hs : s.mem.wf = true) : ∀ r, makeWay s p line = some r → r.mem.wf = true := by
  intro r hr
  unfold makeWay at hr
  dsimp only at hr
  split at hr
  · cases hr; exact hs
  · obtain ⟨x, _, rfl⟩ := Option.map_eq_some_iff.mp hr
    exact replaceLine_wf _ _ _ hs

theorem addLine_wf (s : State) (p : Nat) (stream : Bool) (x : L1Line) (w_s : s.mem.wf = true) :
    (addLine s p stream x).mem.wf = true := by
  unfold addLine
  grind -ring -linarith -lia -order -ac [modL1_wf]

theorem touchLine_wf (s : State) (p : Nat) (stream rep : Bool) (line : Nat) (w_s : s.mem.wf = true) :
    (touchLine s p stream rep line).mem.wf = true := by
  unfold touchLine
  grind -ring -linarith -lia -order -ac [modL1_wf]

theorem missLine_wf (s : State) (r : PartRef) (a : Access) (line : Nat) (st : L1State) (m : HomeMsg) (w_s : s.mem.wf = true) :
    (missLine s r a line st m).mem.wf = true := by
  unfold missLine
  grind -ring -linarith -lia -order -ac [countEvent_wf, → makeWay_wf, addLine_wf, sendHome_wf]

theorem bindRead_wf (s : State) (r : PartRef) (a : Access) (x : Part) (pa : Nat) (d : LineData) (w_s : s.mem.wf = true) :
    (bindRead s r a x pa d).mem.wf = true := by
  unfold bindRead
  grind -ring -linarith -lia -order -ac [spoilBad_wf, finishPart_wf, Mem.setByte_wf, Mem.write_wf, Mem.setFull_wf, Mem.addEmpty_wf, Mem.setEmpty_wf,
        Mem.marks_wf, Mem.clearMarks_wf, Mem.setLine_wf]

theorem writeOwned_wf (s : State) (r : PartRef) (x : Part) (pa : Nat) (w_s : s.mem.wf = true) :
    (writeOwned s r x pa).mem.wf = true := by
  unfold writeOwned
  grind -ring -linarith -lia -order -ac [finishPart_wf, setLineState_wf, noteStore_wf, Mem.setByte_wf, Mem.write_wf, Mem.setFull_wf,
        Mem.addEmpty_wf, Mem.setEmpty_wf, Mem.marks_wf, Mem.clearMarks_wf, Mem.setLine_wf]

theorem tryRep_wf (s : State) (r : PartRef) (a : Access) (x : Part) (pa : Nat) (w_s : s.mem.wf = true) :
    (tryRep s r a x pa).mem.wf = true := by
  unfold tryRep
  grind -ring -linarith -lia -order -ac [countEvent_wf, modUnitOf_wf, bindRead_wf, touchLine_wf, → makeWay_wf, addLine_wf, sendHome_wf]

theorem tryL1_wf (s : State) (r : PartRef) (w_s : s.mem.wf = true) : (tryL1 s r).mem.wf = true := by
  unfold tryL1
  grind -ring -linarith -lia -order -ac [writeOwned_wf, bindRead_wf, touchLine_wf, tryRep_wf, setLineState_wf, sendHome_wf, missLine_wf]

theorem kickL1_wf (s : State) (p : Nat) (w_s : s.mem.wf = true) : (kickL1 s p).mem.wf = true := by
  unfold kickL1
  (try dsimp only)
  (repeat' (first | with_reducible assumption | (with_reducible refine foldl_wf (fun _ _ _ => ?_) _ _ ?_) | split | with_reducible apply tryL1_wf)) <;> grind -ring -linarith -lia -order -ac [tryL1_wf]

theorem answerForward_wf (s : State) (p line : Nat) (f : Forward) (w_s : s.mem.wf = true) :
    (answerForward s p line f).mem.wf = true := by
  unfold answerForward
  grind -ring -linarith -lia -order -ac [setLineState_wf, dropLine_wf, sendHome_wf, sendOwner_wf]

theorem answerHeld_wf (s : State) (p line : Nat) (w_s : s.mem.wf = true) : (answerHeld s p line).mem.wf = true := by
  unfold answerHeld
  (try dsimp only)
  (repeat' (first | with_reducible assumption | (with_reducible refine foldl_wf (fun _ _ _ => ?_) _ _ ?_) | split | with_reducible apply setLineState_wf | with_reducible apply answerForward_wf)) <;> grind -ring -linarith -lia -order -ac [setLineState_wf, answerForward_wf]

theorem forReads_wf {st : PartState} {line : Nat} {f : State → PartRef → Access → Part → Nat → State} {s : State} {p : Nat}
    (hf : ∀ s r a x pa, s.mem.wf = true → (f s r a x pa).mem.wf = true) (hs : s.mem.wf = true) :
    (forReads st line f s p).mem.wf = true := by
  refine foldl_wf (fun u r hu => ?_) _ _ hs
  split
  · split
    · exact ite_wf (hf _ _ _ _ _ hu) hu
    · exact hu
  · exact hu

theorem markWaiting_wf (s : State) (p line : Nat) (hs : s.mem.wf = true) : (markWaiting s p line).mem.wf = true :=
  forReads_wf (fun _ _ _ _ _ h => modPart_wf _ _ _ h) hs

theorem bindWaiting_wf (s : State) (p line : Nat) (d : LineData) (hs : s.mem.wf = true) : (bindWaiting s p line d).mem.wf = true :=
  forReads_wf (fun _ _ _ _ _ h => bindRead_wf _ _ _ _ _ _ h) hs

theorem arriveData_wf (s : State) (p line : Nat) (d : LineData) (st : L1State) (w_s : s.mem.wf = true) :
    (arriveData s p line d st).mem.wf = true := by
  unfold arriveData
  grind -ring -linarith -lia -order -ac [bindWaiting_wf, setLineState_wf, dropLine_wf, answerHeld_wf, kickL1_wf]

theorem arriveInv_wf (s : State) (p line : Nat) (w_s : s.mem.wf = true) : (arriveInv s p line).mem.wf = true := by
  unfold arriveInv
  grind -ring -linarith -lia -order -ac [setLineState_wf, markWaiting_wf, dropLine_wf, kickL1_wf, sendHome_wf]

theorem arriveForward_wf (s : State) (p line : Nat) (f : Forward) (w_s : s.mem.wf = true) :
    (arriveForward s p line f).mem.wf = true := by
  unfold arriveForward
  grind -ring -linarith -lia -order -ac [answerForward_wf, setLineState_wf]

theorem arriveGrant_wf (s : State) (p line : Nat) (w_s : s.mem.wf = true) : (arriveGrant s p line).mem.wf = true := by
  unfold arriveGrant
  grind -ring -linarith -lia -order -ac [setLineState_wf, kickL1_wf]

theorem arrivePutAck_wf (s : State) (p line : Nat) (w_s : s.mem.wf = true) :
    (arrivePutAck s p line).mem.wf = true := by
  unfold arrivePutAck
  grind -ring -linarith -lia -order -ac [dropLine_wf, kickL1_wf]

theorem invalidate_wf (s : State) (e : DirEntry) (others : List Nat) (req : DirReq) (w_s : s.mem.wf = true) :
    (invalidate s e others req).mem.wf = true := by
  unfold invalidate
  (try dsimp only)
  (repeat' (first | with_reducible assumption | (with_reducible refine foldl_wf (fun _ _ _ => ?_) _ _ ?_) | split | with_reducible apply setDir_wf | with_reducible apply sendPlot_wf)) <;> grind -ring -linarith -lia -order -ac [setDir_wf, sendPlot_wf]

theorem l2Request_wf (s : State) (line : Nat) (req : DirReq) (w_s : s.mem.wf = true) :
    (l2Request s line req).mem.wf = true := by
  unfold l2Request
  grind -ring -linarith -lia -order -ac [l2Touch_wf]

theorem serveReq_wf (s : State) (line : Nat) (req : DirReq) (w_s : s.mem.wf = true) :
    (serveReq s line req).mem.wf = true := by
  unfold serveReq
  grind -ring -linarith -lia -order -ac [l2Request_wf, invalidate_wf, setDir_wf, performRef_wf, sendPlot_wf, Mem.setByte_wf, Mem.write_wf,
        Mem.setFull_wf, Mem.addEmpty_wf, Mem.setEmpty_wf, Mem.marks_wf, Mem.clearMarks_wf, Mem.setLine_wf]

theorem serveQueue_wf (a0 : Nat) (a1 : State) (a2 : Nat) (w_a1 : a1.mem.wf = true) :
    (serveQueue a0 a1 a2).mem.wf = true := by
  induction a0 generalizing a1 a2 w_a1 with
  | zero => (unfold serveQueue; grind -ring -linarith -lia -order -ac [serveReq_wf, setDir_wf])
  | succ n ih => (unfold serveQueue; grind -ring -linarith -lia -order -ac [serveReq_wf, setDir_wf])

theorem serveLine_wf (s : State) (line : Nat) (w_s : s.mem.wf = true) : (serveLine s line).mem.wf = true := by
  unfold serveLine
  grind -ring -linarith -lia -order -ac [serveQueue_wf]

theorem againEng_wf (s : State) (line id : Nat) (m : HomeMsg) (w_s : s.mem.wf = true) :
    (againEng s line id m).mem.wf = true := by
  unfold againEng
  grind -ring -linarith -lia -order -ac [countEvent_wf, sendHome_wf]

theorem refuseReq_wf (s : State) (line : Nat) (req : DirReq) (w_s : s.mem.wf = true) :
    (refuseReq s line req).mem.wf = true := by
  unfold refuseReq
  grind -ring -linarith -lia -order -ac [againEng_wf, countEvent_wf, modUnitOf_wf, sendPlot_wf]

theorem arriveReq_wf (s : State) (line : Nat) (req : DirReq) (w_s : s.mem.wf = true) :
    (arriveReq s line req).mem.wf = true := by
  unfold arriveReq
  grind -ring -linarith -lia -order -ac [refuseReq_wf, serveReq_wf, serveLine_wf, setDir_wf]

theorem arriveInvAck_wf (s : State) (line : Nat) (w_s : s.mem.wf = true) : (arriveInvAck s line).mem.wf = true := by
  unfold arriveInvAck
  grind -ring -linarith -lia -order -ac [serveLine_wf, setDir_wf, performRef_wf, sendPlot_wf, Mem.setByte_wf, Mem.write_wf, Mem.setFull_wf,
        Mem.addEmpty_wf, Mem.setEmpty_wf, Mem.marks_wf, Mem.clearMarks_wf, Mem.setLine_wf]

theorem arriveFwdDone_wf (s : State) (line : Nat) (d : LineData) (retain : Bool) (w_s : s.mem.wf = true) :
    (arriveFwdDone s line d retain).mem.wf = true := by
  unfold arriveFwdDone
  grind -ring -linarith -lia -order -ac [serveLine_wf, setDir_wf, performRef_wf, Mem.setByte_wf, Mem.write_wf, Mem.setFull_wf, Mem.addEmpty_wf,
        Mem.setEmpty_wf, Mem.marks_wf, Mem.clearMarks_wf, Mem.setLine_wf]

theorem takeHome_wf (s : State) (p n : Nat) (want : HomeMsg → Bool) (w_s : s.mem.wf = true) :
    ∀ rr, (takeHome s p n want) = some rr → rr.2.mem.wf = true := by
  unfold takeHome
  grind -ring -linarith -lia -order -ac

theorem takePlot_wf (s : State) (p n k : Nat) (want : PlotMsg → Bool) (w_s : s.mem.wf = true) :
    ∀ rr, (takePlot s p n k want) = some rr → rr.2.mem.wf = true := by
  unfold takePlot
  grind -ring -linarith -lia -order -ac

theorem takeRequest_wf (s : State) (p n : Nat) (want : HomeMsg → Bool) (hs : s.mem.wf = true) :
    ∀ r, takeRequest s p n want = some r → r.2.mem.wf = true := by
  intro r hr
  unfold takeRequest at hr
  split at hr
  · rename_i m u hm
    rw [Option.map_eq_some_iff] at hr
    obtain ⟨v, hv, rfl⟩ := hr
    exact reaches_wf _ _ _ (takeHome_wf _ _ _ _ (by exact hs) _ hm) _ hv
  · cases hr

theorem homeStep_wf {want : HomeMsg → Bool} {f : State → ToHome → State} {s : State} (hs : s.mem.wf = true)
    (hf : ∀ s x, s.mem.wf = true → (f s x).mem.wf = true) : ∀ r, homeStep want f s = .next r → r.mem.wf = true := by
  intro r hr
  unfold homeStep at hr
  split at hr
  · dsimp only at hr
    split at hr
    · rename_i m u hm
      cases hr
      exact hf _ _ (takeHome_wf _ _ _ _ (by exact hs) _ hm)
    · cases hr; exact hs
  · cases hr; exact hs

theorem requestStep_wf {want : HomeMsg → Bool} {f : State → ToHome → State} {s : State} (hs : s.mem.wf = true)
    (hf : ∀ s x, s.mem.wf = true → (f s x).mem.wf = true) : ∀ r, requestStep want f s = .next r → r.mem.wf = true := by
  intro r hr
  unfold requestStep at hr
  split at hr
  · dsimp only at hr
    split at hr
    · rename_i m u hm
      cases hr
      exact hf _ _ (takeRequest_wf _ _ _ _ (by exact hs) _ hm)
    · cases hr; exact hs
  · cases hr; exact hs

theorem plotStep_wf {want : PlotMsg → Bool} {f : State → ToPlot → State} {s : State} (hs : s.mem.wf = true)
    (hf : ∀ s x, s.mem.wf = true → (f s x).mem.wf = true) : ∀ r, plotStep want f s = .next r → r.mem.wf = true := by
  intro r hr
  unfold plotStep at hr
  split at hr
  · dsimp only at hr
    split at hr
    · rename_i m u hm
      cases hr
      exact hf _ _ (takePlot_wf _ _ _ _ _ (by exact hs) _ hm)
    · cases hr; exact hs
  · cases hr; exact hs

theorem execGets_wf (s : State) (w_s : s.mem.wf = true) : ∀ rr, (execGets s) = .next rr → rr.mem.wf = true := by
  unfold execGets
  grind -ring -linarith -lia -order -ac [arriveReq_wf, → requestStep_wf]

theorem execGetx_wf (s : State) (w_s : s.mem.wf = true) : ∀ rr, (execGetx s) = .next rr → rr.mem.wf = true := by
  unfold execGetx
  grind -ring -linarith -lia -order -ac [arriveReq_wf, → requestStep_wf]

theorem execUpg_wf (s : State) (w_s : s.mem.wf = true) : ∀ rr, (execUpg s) = .next rr → rr.mem.wf = true := by
  unfold execUpg
  grind -ring -linarith -lia -order -ac [arriveReq_wf, → requestStep_wf]

theorem execPute_wf (s : State) (w_s : s.mem.wf = true) : ∀ rr, (execPute s) = .next rr → rr.mem.wf = true := by
  unfold execPute
  grind -ring -linarith -lia -order -ac [arriveReq_wf, → requestStep_wf]

theorem execPutm_wf (s : State) (w_s : s.mem.wf = true) : ∀ rr, (execPutm s) = .next rr → rr.mem.wf = true := by
  unfold execPutm
  grind -ring -linarith -lia -order -ac [arriveReq_wf, → requestStep_wf]

theorem execInvAck_wf (s : State) (w_s : s.mem.wf = true) : ∀ rr, (execInvAck s) = .next rr → rr.mem.wf = true := by
  unfold execInvAck
  grind -ring -linarith -lia -order -ac [→ homeStep_wf, arriveInvAck_wf]

theorem execFwdDone_wf (s : State) (w_s : s.mem.wf = true) : ∀ rr, (execFwdDone s) = .next rr → rr.mem.wf = true := by
  unfold execFwdDone
  grind -ring -linarith -lia -order -ac [→ homeStep_wf, arriveFwdDone_wf]

theorem execDataS_wf (s : State) (w_s : s.mem.wf = true) : ∀ rr, (execDataS s) = .next rr → rr.mem.wf = true := by
  unfold execDataS
  grind -ring -linarith -lia -order -ac [→ plotStep_wf, arriveData_wf]

theorem execDataE_wf (s : State) (w_s : s.mem.wf = true) : ∀ rr, (execDataE s) = .next rr → rr.mem.wf = true := by
  unfold execDataE
  grind -ring -linarith -lia -order -ac [→ plotStep_wf, arriveData_wf]

theorem execDataM_wf (s : State) (w_s : s.mem.wf = true) : ∀ rr, (execDataM s) = .next rr → rr.mem.wf = true := by
  unfold execDataM
  grind -ring -linarith -lia -order -ac [→ plotStep_wf, arriveData_wf]

theorem execGrant_wf (s : State) (w_s : s.mem.wf = true) : ∀ rr, (execGrant s) = .next rr → rr.mem.wf = true := by
  unfold execGrant
  grind -ring -linarith -lia -order -ac [→ plotStep_wf, arriveGrant_wf]

theorem execInv_wf (s : State) (w_s : s.mem.wf = true) : ∀ rr, (execInv s) = .next rr → rr.mem.wf = true := by
  unfold execInv
  grind -ring -linarith -lia -order -ac [→ plotStep_wf, arriveInv_wf]

theorem execFwdGets_wf (s : State) (w_s : s.mem.wf = true) : ∀ rr, (execFwdGets s) = .next rr → rr.mem.wf = true := by
  unfold execFwdGets
  grind -ring -linarith -lia -order -ac [→ plotStep_wf, arriveForward_wf]

theorem execFwdGetx_wf (s : State) (w_s : s.mem.wf = true) : ∀ rr, (execFwdGetx s) = .next rr → rr.mem.wf = true := by
  unfold execFwdGetx
  grind -ring -linarith -lia -order -ac [→ plotStep_wf, arriveForward_wf]

theorem execPutAck_wf (s : State) (w_s : s.mem.wf = true) : ∀ rr, (execPutAck s) = .next rr → rr.mem.wf = true := by
  unfold execPutAck
  grind -ring -linarith -lia -order -ac [→ plotStep_wf, arrivePutAck_wf]

theorem reissueRequest_wf (s : State) (p line : Nat) (x : HomeMsg) (w_s : s.mem.wf = true) :
    (reissueRequest s p line x).mem.wf = true := by
  unfold reissueRequest
  grind -ring -linarith -lia -order -ac [sendHome_wf]

theorem execRequestReissue_wf (s : State) (w_s : s.mem.wf = true) :
    ∀ rr, (execRequestReissue s) = .next rr → rr.mem.wf = true := by
  unfold execRequestReissue
  grind -ring -linarith -lia -order -ac [→ plotStep_wf, reissueRequest_wf, countEvent_wf]

theorem execBackInvalidation_wf (s : State) (w_s : s.mem.wf = true) :
    ∀ rr, (execBackInvalidation s) = .next rr → rr.mem.wf = true := by
  unfold execBackInvalidation
  grind -ring -linarith -lia -order -ac [setHostFlag_wf]

theorem arriveHome_wf (s : State) (line : Nat) (req : DirReq) (r : ReqRef) (w_s : s.mem.wf = true) :
    (arriveHome s line req r).mem.wf = true := by
  unfold arriveHome
  grind -ring -linarith -lia -order -ac [arriveReq_wf, performRef_wf]

theorem resumeReplay_wf (s : State) (home : Nat) (r : PartRef) (w_s : s.mem.wf = true) :
    (resumeReplay s home r).mem.wf = true := by
  unfold resumeReplay
  grind -ring -linarith -lia -order -ac [arriveHome_wf]

theorem countConflicts_wf (s : State) (store b w : Nat) (served : List BankReq) (w_s : s.mem.wf = true) :
    (countConflicts s store b w served).mem.wf = true := by
  unfold countConflicts
  (try dsimp only)
  (repeat' (first | with_reducible assumption | (with_reducible refine foldl_wf (fun _ _ _ => ?_) _ _ ?_) | split | with_reducible apply countEvent_wf)) <;> grind -ring -linarith -lia -order -ac [countEvent_wf]

theorem serveWords_wf (s : State) (store b w : Nat) (served : List BankReq) (w_s : s.mem.wf = true) :
    (serveWords s store b w served).mem.wf = true := by
  unfold serveWords
  (try dsimp only)
  (repeat' (first | with_reducible assumption | (with_reducible refine foldl_wf (fun _ _ _ => ?_) _ _ ?_) | split | with_reducible apply countConflicts_wf | with_reducible apply performRef_wf)) <;> grind -ring -linarith -lia -order -ac [countConflicts_wf, performRef_wf]

theorem storeAtomic_wf (s : State) (store b : Nat) (w_s : s.mem.wf = true) :
    (storeAtomic s store b).mem.wf = true := by
  unfold storeAtomic
  grind -ring -linarith -lia -order -ac [serveWords_wf]

theorem execHomeOperation_wf (s : State) (hs : s.mem.wf = true) : ∀ r, execHomeOperation s = .next r → r.mem.wf = true := by
  intro r hr
  unfold execHomeOperation at hr
  split at hr
  · dsimp only at hr
    split at hr
    · split at hr
      · cases hr; exact resumeReplay_wf _ _ _ hs
      · cases hr; exact hs
    · split at hr
      · cases hr; exact storeAtomic_wf _ _ _ hs
      · split at hr
        · rename_i h
          have hu := takeRequest_wf { s with cur := .idle } _ _ _ hs _ h
          split at hr
          · cases hr; exact arriveHome_wf _ _ _ _ hu
          · cases hr; exact hu
        · cases hr; exact hs
  · cases hr; exact hs

theorem repRead_wf (s : State) (r : PartRef) (line : Nat) (w_s : s.mem.wf = true) :
    (repRead s r line).mem.wf = true := by
  unfold repRead
  (try dsimp only)
  (repeat' (first | with_reducible assumption | (with_reducible refine foldl_wf (fun _ _ _ => ?_) _ _ ?_) | split | with_reducible apply bindRead_wf | with_reducible apply modL1_wf | with_reducible apply l2Touch_wf | with_reducible apply kickL1_wf)) <;> grind -ring -linarith -lia -order -ac [bindRead_wf, modL1_wf, l2Touch_wf, kickL1_wf]

theorem arriveRead_wf (s : State) (line : Nat) (r : ReqRef) (w_s : s.mem.wf = true) :
    (arriveRead s line r).mem.wf = true := by
  unfold arriveRead
  grind -ring -linarith -lia -order -ac [arriveHome_wf, repRead_wf]

theorem execHomeRead_wf (s : State) (w_s : s.mem.wf = true) :
    ∀ rr, (execHomeRead s) = .next rr → rr.mem.wf = true := by
  unfold execHomeRead
  grind -ring -linarith -lia -order -ac [→ requestStep_wf, arriveRead_wf]

/-! ### Tokens -/

theorem thrdResult_wf (sel : ThrdSel) (c : FireCtx) (s : State) (w_s : s.mem.wf = true) :
    ∀ rr, (thrdResult sel c s) = .ok rr → rr.1.mem.wf = true := by
  unfold thrdResult
  grind -ring -linarith -lia -order -ac

theorem passTurn_wf (s : State) (p : Nat) (b : BlockId) (slot : BitVec 7) (e : Envelope) (w_s : s.mem.wf = true) :
    (passTurn s p b slot e).mem.wf = true := by
  unfold passTurn
  grind -ring -linarith -lia -order -ac [modCopy_wf, modPlot_wf]

theorem reordResult_wf (c : FireCtx) (s : State) (w_s : s.mem.wf = true) :
    ∀ rr, (reordResult c s) = .ok rr → rr.1.mem.wf = true := by
  unfold reordResult
  grind -ring -linarith -lia -order -ac [passTurn_wf]

theorem joinFire_wf (h : Head) (all : Bool) (s : State) (hs : s.mem.wf = true) : ∀ r, joinFire h all s = .next r → r.mem.wf = true := by
  intro r hr
  unfold joinFire at hr
  split at hr
  · dsimp only at hr
    split at hr
    · cases hr; exact faultSet_wf _ _ _ _ hs
    · cases hr; exact sendAll_wf _ _ _ _ (foldl_wf (fun _ _ h => consume_wf _ _ _ _ h) _ _ hs)
  · cases hr; exact hs

theorem argwrResult_wf (c : FireCtx) (s : State) (w_s : s.mem.wf = true) :
    ∀ rr, (argwrResult c s) = .ok rr → rr.1.mem.wf = true := by
  unfold argwrResult
  grind -ring -linarith -lia -order -ac [modCopy_wf]

theorem execMov_wf (h : Head) (s : State) (w_s : s.mem.wf = true) :
    ∀ rr, (execMov h s) = .next rr → rr.mem.wf = true := by
  unfold execMov
  exact fire_wf (by assumption)

theorem execSink_wf (h : Head) (s : State) (w_s : s.mem.wf = true) :
    ∀ rr, (execSink h s) = .next rr → rr.mem.wf = true := by
  unfold execSink
  exact fire_wf (by assumption)

theorem execSteer_wf (h : Head) (tm : BitVec 3) (s : State) (w_s : s.mem.wf = true) :
    ∀ rr, (execSteer h tm s) = .next rr → rr.mem.wf = true := by
  unfold execSteer
  exact fire_wf (by assumption)

theorem execSelect_wf (h : Head) (s : State) (w_s : s.mem.wf = true) :
    ∀ rr, (execSelect h s) = .next rr → rr.mem.wf = true := by
  unfold execSelect
  exact fire_wf (by assumption)

theorem execGate_wf (h : Head) (s : State) (w_s : s.mem.wf = true) :
    ∀ rr, (execGate h s) = .next rr → rr.mem.wf = true := by
  unfold execGate
  exact fire_wf (by assumption)

theorem execConst_wf (h : Head) (s : State) (w_s : s.mem.wf = true) :
    ∀ rr, (execConst h s) = .next rr → rr.mem.wf = true := by
  unfold execConst
  exact fire_wf (by assumption)

theorem execLpent_wf (h : Head) (w : BitVec 6) (s : State) (w_s : s.mem.wf = true) :
    ∀ rr, (execLpent h w s) = .next rr → rr.mem.wf = true := by
  unfold execLpent
  exact fire_wf (by assumption)

theorem execLpnext_wf (h : Head) (w : BitVec 6) (s : State) (w_s : s.mem.wf = true) :
    ∀ rr, (execLpnext h w s) = .next rr → rr.mem.wf = true := by
  unfold execLpnext
  exact fire_wf (by assumption)

theorem execLpexit_wf (h : Head) (w : BitVec 6) (s : State) (w_s : s.mem.wf = true) :
    ∀ rr, (execLpexit h w s) = .next rr → rr.mem.wf = true := by
  unfold execLpexit
  exact fire_wf (by assumption)

theorem execTagrd_wf (h : Head) (pos w : BitVec 6) (s : State) (w_s : s.mem.wf = true) :
    ∀ rr, (execTagrd h pos w s) = .next rr → rr.mem.wf = true := by
  unfold execTagrd
  exact fire_wf (by assumption)

theorem execTagwr_wf (h : Head) (mode : TagMode) (w : BitVec 6) (s : State) (w_s : s.mem.wf = true) :
    ∀ rr, (execTagwr h mode w s) = .next rr → rr.mem.wf = true := by
  unfold execTagwr
  exact fire_wf (by assumption)

theorem execThrd_wf (h : Head) (sel : ThrdSel) (s : State) (w_s : s.mem.wf = true) :
    ∀ rr, (execThrd h sel s) = .next rr → rr.mem.wf = true := by
  unfold execThrd
  refine fireState_wf (by assumption) (fun c u r hu hb => ?_)
  grind -ring -linarith -lia -order -ac [→ fireState_wf, → thrdResult_wf]

theorem execReord_wf (h : Head) (s : State) (w_s : s.mem.wf = true) :
    ∀ rr, (execReord h s) = .next rr → rr.mem.wf = true := by
  unfold execReord
  refine fireWith_wf (by assumption) (fun c u hu => ?_) (fun c u r hu hb => ?_) <;>
        (try simp only [bind, Except.bind, pure, Except.pure] at hb) <;> grind -ring -linarith -lia -order -ac [→ fireWith_wf, → reordResult_wf,
        passTurn_wf]

theorem execJoin_wf (h : Head) (all : Bool) (s : State) (w_s : s.mem.wf = true) :
    ∀ rr, (execJoin h all s) = .next rr → rr.mem.wf = true := by
  unfold execJoin
  grind -ring -linarith -lia -order -ac [→ joinFire_wf]

theorem execArgwr_wf (h : Head) (s : State) (w_s : s.mem.wf = true) :
    ∀ rr, (execArgwr h s) = .next rr → rr.mem.wf = true := by
  unfold execArgwr
  refine fireState_wf (by assumption) (fun c u r hu hb => ?_)
  grind -ring -linarith -lia -order -ac [→ fireState_wf, → argwrResult_wf]

/-! ### Stations -/

theorem modTile_wf (s : State) (p t : Nat) (f : Tile → Tile) (w_s : s.mem.wf = true) :
    (modTile s p t f).mem.wf = true := by
  unfold modTile
  grind -ring -linarith -lia -order -ac [modPlot_wf]

theorem setChain_wf (s : State) (p : Nat) (x : Chain) (w_s : s.mem.wf = true) : (setChain s p x).mem.wf = true := by
  unfold setChain
  grind -ring -linarith -lia -order -ac [modPlot_wf]

theorem chainFreed_wf (s : State) (p : Nat) (x : Chain) (w_s : s.mem.wf = true) :
    (chainFreed s p x).mem.wf = true := by
  unfold chainFreed
  grind -ring -linarith -lia -order -ac [modCopy_wf]

theorem sendFinish_wf (s : State) (p : Nat) (x : Chain) (h : Head) (w_s : s.mem.wf = true) :
    (sendFinish s p x h).mem.wf = true := by
  unfold sendFinish
  grind -ring -linarith -lia -order -ac [sendAll_wf]

theorem dropWaiting_wf (s : State) (p : Nat) (b : BlockId) (w : Waiting) (w_s : s.mem.wf = true) :
    (dropWaiting s p b w).mem.wf = true := by
  unfold dropWaiting
  grind -ring -linarith -lia -order -ac [modCopy_wf]

theorem countAtOnce_wf (s : State) (p : Nat) (c : Copy) (slot : BitVec 7) (i : Instr) (e : Envelope) (w_s : s.mem.wf = true) :
    ∀ rr, (countAtOnce s p c slot i e) = some rr → rr.mem.wf = true := by
  unfold countAtOnce
  grind -ring -linarith -lia -order -ac [modTile_wf, setChain_wf]

/-! ### Meter -/

theorem setEdge_wf (s : State) (p : Nat) (e : EdgePort) (w_s : s.mem.wf = true) : (setEdge s p e).mem.wf = true := by
  unfold setEdge
  grind -ring -linarith -lia -order -ac [modPlot_wf]

theorem passEdge_wf (s : State) (p t k : Nat) (w_s : s.mem.wf = true) : (passEdge s p t k).mem.wf = true := by
  unfold passEdge
  grind -ring -linarith -lia -order -ac [setEdge_wf]

theorem refuseAt_wf (s : State) (p t k : Nat) (ctx : BitVec 12) (id : Nat) (w_s : s.mem.wf = true) :
    (refuseAt s p t k ctx id).mem.wf = true := by
  unfold refuseAt
  grind -ring -linarith -lia -order -ac [countEvent_wf, setEdge_wf]

theorem admitAt_wf (s : State) (p t k id : Nat) (w_s : s.mem.wf = true) : (admitAt s p t k id).mem.wf = true := by
  unfold admitAt
  grind -ring -linarith -lia -order -ac [passEdge_wf, setEdge_wf]

/-! ### Translate -/

theorem cacheRoute_wf (s : State) (peer : Nat) (w_s : s.mem.wf = true) : (cacheRoute s peer).mem.wf = true := by
  unfold cacheRoute
  grind -ring -linarith -lia -order -ac

theorem modWalker_wf (s : State) (p : Nat) (f : Walker → Walker) (w_s : s.mem.wf = true) :
    (modWalker s p f).mem.wf = true := by
  unfold modWalker
  grind -ring -linarith -lia -order -ac [modPlot_wf]

theorem installLeaf_wf (s : State) (p : Nat) (x : Leaf) (w_s : s.mem.wf = true) :
    (installLeaf s p x).mem.wf = true := by
  unfold installLeaf
  grind -ring -linarith -lia -order -ac [modWalker_wf]

theorem installWalk_wf (s : State) (p : Nat) (x : WalkEntry) (w_s : s.mem.wf = true) :
    (installWalk s p x).mem.wf = true := by
  unfold installWalk
  grind -ring -linarith -lia -order -ac [modWalker_wf]

theorem useWalk_wf (s : State) (p : Nat) (c : BitVec 12) (va : Word) (w_s : s.mem.wf = true) :
    (useWalk s p c va).mem.wf = true := by
  unfold useWalk
  grind -ring -linarith -lia -order -ac [modWalker_wf]

theorem answer_wf (s : State) (p : Nat) (q : WalkReq) (r : WalkResult) (w_s : s.mem.wf = true) :
    (answer s p q r).mem.wf = true := by
  unfold answer
  grind -ring -linarith -lia -order -ac [modWalker_wf]

theorem failWalk_wf (s : State) (p : Nat) (reqs : List WalkReq) (c : BitVec 8) (l : Nat) (w_s : s.mem.wf = true) :
    (failWalk s p reqs c l).mem.wf = true := by
  unfold failWalk
  (try dsimp only)
  (repeat' (first | with_reducible assumption | (with_reducible refine foldl_wf (fun _ _ _ => ?_) _ _ ?_) | split | with_reducible apply answer_wf)) <;> grind -ring -linarith -lia -order -ac [answer_wf]

theorem setWalk_wf (s : State) (p n : Nat) (w : Option Walk) (w_s : s.mem.wf = true) :
    (setWalk s p n w).mem.wf = true := by
  unfold setWalk
  grind -ring -linarith -lia -order -ac [modWalker_wf]

theorem beginWalk_wf (s : State) (p : Nat) (q : WalkReq) (w_s : s.mem.wf = true) :
    (beginWalk s p q).mem.wf = true := by
  unfold beginWalk
  grind -ring -linarith -lia -order -ac [countEvent_wf, failWalk_wf, modWalker_wf, useWalk_wf]

theorem joinWalk_wf (s : State) (p n : Nat) (q : WalkReq) (w_s : s.mem.wf = true) :
    (joinWalk s p n q).mem.wf = true := by
  unfold joinWalk
  grind -ring -linarith -lia -order -ac [modWalker_wf]

theorem cacheAnswer_wf (s : State) (p : Nat) (q : WalkReq) (w_s : s.mem.wf = true) :
    ∀ rr, (cacheAnswer s p q) = some rr → rr.mem.wf = true := by
  unfold cacheAnswer
  grind -ring -linarith -lia -order -ac [modWalker_wf, answer_wf]

theorem askWalker_wf (s : State) (p : Nat) (q : WalkReq) (w_s : s.mem.wf = true) :
    (askWalker s p q).1.mem.wf = true := by
  unfold askWalker
  grind -ring -linarith -lia -order -ac [countEvent_wf, joinWalk_wf, → cacheAnswer_wf, modWalker_wf]

theorem startWalk_wf (s : State) (p : Nat) (q : WalkReq) (w_s : s.mem.wf = true) :
    (startWalk s p q).mem.wf = true := by
  unfold startWalk
  grind -ring -linarith -lia -order -ac [joinWalk_wf, → cacheAnswer_wf, modWalker_wf, beginWalk_wf]

theorem nextWalks_wf (a0 : Nat) (a1 : State) (a2 : Nat) (w_a1 : a1.mem.wf = true) :
    (nextWalks a0 a1 a2).mem.wf = true := by
  induction a0 generalizing a1 a2 w_a1 with
  | zero => (unfold nextWalks; grind -ring -linarith -lia -order -ac [modWalker_wf, startWalk_wf])
  | succ n ih => (unfold nextWalks; grind -ring -linarith -lia -order -ac [modWalker_wf, startWalk_wf])

theorem nextWalk_wf (s : State) (p : Nat) (w_s : s.mem.wf = true) : (nextWalk s p).mem.wf = true := by
  unfold nextWalk
  grind -ring -linarith -lia -order -ac [nextWalks_wf]

theorem finishWalk_wf (s : State) (p n : Nat) (w : Walk) (x : Leaf) (w_s : s.mem.wf = true) :
    (finishWalk s p n w x).mem.wf = true := by
  unfold finishWalk
  (try dsimp only)
  (repeat' (first | with_reducible assumption | (with_reducible refine foldl_wf (fun _ _ _ => ?_) _ _ ?_) | split | with_reducible apply installLeaf_wf | with_reducible apply nextWalk_wf | with_reducible apply installWalk_wf | with_reducible apply answer_wf | with_reducible apply setWalk_wf)) <;> grind -ring -linarith -lia -order -ac [installLeaf_wf, nextWalk_wf, installWalk_wf, answer_wf, setWalk_wf]

theorem leafKnown_wf (s : State) (p n : Nat) (w : Walk) (l addr : Nat) (e : Word) (w_s : s.mem.wf = true) :
    (leafKnown s p n w l addr e).mem.wf = true := by
  unfold leafKnown
  grind -ring -linarith -lia -order -ac [finishWalk_wf, setWalk_wf]

theorem leafRead_wf (s : State) (p n : Nat) (w : Walk) (l addr : Nat) (e : Word) (w_s : s.mem.wf = true) :
    (leafRead s p n w l addr e).mem.wf = true := by
  unfold leafRead
  (try dsimp only)
  (repeat' (first | with_reducible assumption | (with_reducible refine foldl_wf (fun _ _ _ => ?_) _ _ ?_) | split | with_reducible apply failWalk_wf | with_reducible apply nextWalk_wf | with_reducible apply leafKnown_wf | with_reducible apply setWalk_wf)) <;> grind -ring -linarith -lia -order -ac [failWalk_wf, nextWalk_wf, leafKnown_wf, setWalk_wf]

theorem levelRead_wf (s : State) (p n : Nat) (w : Walk) (l table : Nat) (w_s : s.mem.wf = true) :
    (levelRead s p n w l table).mem.wf = true := by
  unfold levelRead
  grind -ring -linarith -lia -order -ac [failWalk_wf, nextWalk_wf, setWalk_wf, leafRead_wf]

theorem restartWalk_wf (s : State) (p n : Nat) (w : Walk) (w_s : s.mem.wf = true) :
    (restartWalk s p n w).mem.wf = true := by
  unfold restartWalk
  grind -ring -linarith -lia -order -ac [failWalk_wf, nextWalk_wf, setWalk_wf]

theorem adUpdate_wf (s : State) (p n : Nat) (w : Walk) (l addr : Nat) (e : Word) (w_s : s.mem.wf = true) :
    (adUpdate s p n w l addr e).mem.wf = true := by
  unfold adUpdate
  grind -ring -linarith -lia -order -ac [restartWalk_wf, leafKnown_wf, writeWord_wf, leafRead_wf]

theorem groupLeaf_wf (s : State) (p : Nat) (c : BitVec 12) (va : Word) (addr : Nat) (e : Word) (w_s : s.mem.wf = true) :
    (groupLeaf s p c va addr e).1.mem.wf = true := by
  unfold groupLeaf
  (try dsimp only)
  (repeat' (first | with_reducible assumption | (with_reducible refine foldl_wf (fun _ _ _ => ?_) _ _ ?_) | split | with_reducible apply countEvent_wf | with_reducible apply writeWord_wf)) <;> grind -ring -linarith -lia -order -ac [countEvent_wf, writeWord_wf]

theorem execWalkLevelRead_wf (s : State) (w_s : s.mem.wf = true) :
    ∀ rr, (execWalkLevelRead s) = .next rr → rr.mem.wf = true := by
  unfold execWalkLevelRead
  grind -ring -linarith -lia -order -ac [levelRead_wf]

theorem execAdUpdate_wf (s : State) (w_s : s.mem.wf = true) :
    ∀ rr, (execAdUpdate s) = .next rr → rr.mem.wf = true := by
  unfold execAdUpdate
  grind -ring -linarith -lia -order -ac [adUpdate_wf]

theorem execContiguousCheck_wf (s : State) (w_s : s.mem.wf = true) :
    ∀ rr, (execContiguousCheck s) = .next rr → rr.mem.wf = true := by
  unfold execContiguousCheck
  grind -ring -linarith -lia -order -ac [finishWalk_wf, groupLeaf_wf]

theorem engineWalk_wf (s : State) (p : Nat) (c : BitVec 12) (va : Word) (need : Need) (l table : Nat) (hs : s.mem.wf = true) :
    ∀ r, engineWalk s p c va need l table = .ok r → r.1.mem.wf = true := by
  intro r hr
  unfold engineWalk at hr
  obtain ⟨⟨ws, l', addr, e⟩, _, hr⟩ := bind_ok_wf hr
  dsimp only at hr
  have hg : ∀ (u : State) (d : Prop) [Decidable d] (e' : Word), u.mem.wf = true →
      (if d then groupLeaf u p c va addr e' else (u, mkLeaf c va l' addr e')).1.mem.wf = true := by
    intro u d _ e' hu
    split
    · exact groupLeaf_wf _ _ _ _ _ _ hu
    · exact hu
  split at hr
  · cases hr
  · rw [← Except.ok.inj hr]
    exact installLeaf_wf _ _ _ (foldl_wf (fun _ _ h => installWalk_wf _ _ _ h) _ _ (hg _ _ _ (ite_wf hs (writeWord_wf _ _ _ hs))))

theorem countMiss_wf (s : State) (p : Nat) (c : BitVec 12) (va : Word) (w_s : s.mem.wf = true) :
    (countMiss s p c va).mem.wf = true := by
  unfold countMiss
  grind -ring -linarith -lia -order -ac [countEvent_wf, useWalk_wf]

theorem engineLeaf_wf (s : State) (p : Nat) (c : BitVec 12) (va : Word) (need : Need) (w_s : s.mem.wf = true) :
    ∀ rr, (engineLeaf s p c va need) = .ok rr → rr.1.mem.wf = true := by
  unfold engineLeaf
  grind -ring -linarith -lia -order -ac [→ engineWalk_wf, countMiss_wf, modWalker_wf]

theorem engineTranslate_wf (s : State) (p : Nat) (c : BitVec 12) (va : Word) (need : Need) (hs : s.mem.wf = true) :
    ∀ r, engineTranslate s p c va need = .ok r → r.1.mem.wf = true := by
  intro r hr
  unfold engineTranslate at hr
  obtain ⟨⟨t, x⟩, ha, hr⟩ := bind_ok_wf hr
  dsimp only at hr
  split at hr
  · cases hr
  · cases hr; exact engineLeaf_wf _ _ _ _ _ hs (t, x) ha

theorem walkWaits_wf (s : State) (p : Nat) (who : WalkFor) (rank : Nat) (c : BitVec 12) (vas : List (Need × Word)) (hs : s.mem.wf = true) :
    ∀ r, walkWaits s p who rank c vas = some r → r.mem.wf = true := by
  intro r hr
  unfold walkWaits at hr
  split at hr
  · cases hr
  · obtain ⟨x, _, rfl⟩ := Option.map_eq_some_iff.mp hr
    exact ite_wf hs (askWalker_wf _ _ _ hs)

theorem walkMet_wf (s : State) (p : Nat) (who : WalkFor) (w_s : s.mem.wf = true) :
    (walkMet s p who).mem.wf = true := by
  unfold walkMet
  grind -ring -linarith -lia -order -ac [modWalker_wf]

theorem setStationEntry_wf (s : State) (p : Nat) (b : BlockId) (slot : BitVec 7) (l : Leaf) (w_s : s.mem.wf = true) :
    (setStationEntry s p b slot l).mem.wf = true := by
  unfold setStationEntry
  grind -ring -linarith -lia -order -ac [modWalker_wf]

theorem stationTranslate_wf (s : State) (p : Nat) (b : BlockId) (slot : BitVec 7) (va : Word) (need : Need) (w_s : s.mem.wf = true) :
    ∀ rr, (stationTranslate s p b slot va need) = .ok rr → rr.1.mem.wf = true := by
  unfold stationTranslate
  simp only [bind, Except.bind, pure, Except.pure, require]
  grind -ring -linarith -lia -order -ac [setStationEntry_wf, → engineTranslate_wf]

theorem missed_wf (s : State) (p : Nat) (c : BitVec 12) (va : Word) (w_s : s.mem.wf = true) :
    (missed s p c va).mem.wf = true := by
  unfold missed
  grind -ring -linarith -lia -order -ac [countMiss_wf]

theorem walked_wf (s : State) (p : Nat) (c : BitVec 12) (need : Need) (l : List Word) (hs : s.mem.wf = true) :
    (walked s p c need l).mem.wf = true := by
  induction l generalizing s with
  | nil => exact hs
  | cons va l ih =>
    unfold walked
    split
    · rename_i t x h
      have ht := engineLeaf_wf _ _ _ _ _ hs (t, x) h
      exact ite_wf ht (ih _ ht)
    · exact missed_wf _ _ _ _ hs

theorem fireWalks_wf {h : Head} {walks : FireCtx → FaultInfo → State → State}
    {body : FireCtx → MatchedSet → State → Except FaultInfo (State × List Send)} {s : State} (hs : s.mem.wf = true)
    (h1 : ∀ c e u, u.mem.wf = true → (walks c e u).mem.wf = true)
    (h2 : ∀ c m u r, u.mem.wf = true → body c m u = .ok r → r.1.mem.wf = true) :
    ∀ r, fireWalks h walks body s = .next r → r.mem.wf = true := by
  intro r hr
  unfold fireWalks at hr
  split at hr
  · dsimp only at hr
    split at hr
    · cases hr; exact faultSet_wf _ _ _ _ (h1 _ _ _ hs)
    · exact fireState_wf hs (fun c u r hu hb => h2 _ _ _ _ hu hb) r hr
  · cases hr; exact hs

theorem translateRange_wf (s : State) (p : Nat) (c : BitVec 12) (va : Word) (n : Nat) (need : Need) (hs : s.mem.wf = true) :
    ∀ r, translateRange s p c va n need = .ok r → r.mem.wf = true := by
  unfold translateRange
  refine foldlM_wf (fun s x r hs hr => ?_) _ _ hs
  obtain ⟨a, ha, hr⟩ := bind_ok_wf hr
  cases hr
  exact engineTranslate_wf _ _ _ _ _ hs a ha

theorem virtualReadFrom_wf (a0 : Nat) (a1 : State) (a2 : Nat) (a3 : BitVec 12) (a4 : Need) (a5 : Word) (a6 : Nat) (w_a1 : a1.mem.wf = true) :
    ∀ rr, (virtualReadFrom a0 a1 a2 a3 a4 a5 a6) = .ok rr → rr.1.mem.wf = true := by
  induction a0 generalizing a1 a2 a3 a4 a5 a6 w_a1 with
  | zero => (intro r hr; unfold virtualReadFrom at hr; grind -ring -linarith -lia -order -ac [→ engineTranslate_wf])
  | succ n ih => (intro r hr; unfold virtualReadFrom at hr; (repeat' (first | dsimp only at hr | (obtain ⟨a, ha, hr⟩ := bind_ok_wf hr) | split at hr)) <;> grind -ring -linarith -lia -order -ac [→ engineTranslate_wf])

theorem virtualRead_wf (s : State) (p : Nat) (c : BitVec 12) (need : Need) (va : Word) (n : Nat) (w_s : s.mem.wf = true) :
    ∀ rr, (virtualRead s p c need va n) = .ok rr → rr.1.mem.wf = true := by
  unfold virtualRead
  grind -ring -linarith -lia -order -ac [→ virtualReadFrom_wf]

/-! ### StoreBuffer -/

theorem setWave_wf (s : State) (p : Nat) (r : WaveRec) (w_s : s.mem.wf = true) : (setWave s p r).mem.wf = true := by
  unfold setWave
  grind -ring -linarith -lia -order -ac [modPlot_wf]

theorem peerSend_wf (s : State) (pa k : Nat) (r : ReqRef) (store : Bool) (keep : Option (BitVec 12 × Nat)) (w_s : s.mem.wf = true) :
    (peerSend s pa k r store keep).mem.wf = true := by
  unfold peerSend
  grind -ring -linarith -lia -order -ac [cacheRoute_wf]

theorem toL1_wf (s : State) (r : PartRef) (w_s : s.mem.wf = true) : (toL1 s r).mem.wf = true := by
  unfold toL1
  grind -ring -linarith -lia -order -ac [modPart_wf, tryL1_wf]

theorem toSlice_wf (s : State) (r : PartRef) (pa : Nat) (read : Bool) (w_s : s.mem.wf = true) :
    (toSlice s r pa read).mem.wf = true := by
  unfold toSlice
  grind -ring -linarith -lia -order -ac [modUnitOf_wf, sendHome_wf]

theorem askBank_wf (s : State) (pa : Nat) (r : ReqRef) (write atomic : Bool) (w_s : s.mem.wf = true) :
    (askBank s pa r write atomic).mem.wf = true := by
  unfold askBank
  grind -ring -linarith -lia -order -ac

theorem toBank_wf (s : State) (r : PartRef) (pa : Nat) (op : MemOp) (w_s : s.mem.wf = true) :
    (toBank s r pa op).mem.wf = true := by
  unfold toBank
  grind -ring -linarith -lia -order -ac [askBank_wf, modUnitOf_wf]

theorem dropOwn_wf (s : State) (p line : Nat) (w_s : s.mem.wf = true) : (dropOwn s p line).mem.wf = true := by
  unfold dropOwn
  grind -ring -linarith -lia -order -ac [replaceLine_wf]

theorem sendControl_wf (s : State) (r : PartRef) (a : Access) (x : Part) (pa : Nat) (w_s : s.mem.wf = true) :
    (sendControl s r a x pa).mem.wf = true := by
  unfold sendControl
  grind -ring -linarith -lia -order -ac [l2Drop_wf, finishPart_wf, dropOwn_wf, dropRepAll_wf, dropRep_wf, dropPeer_wf, toSlice_wf]

theorem sendPeer_wf (s : State) (r : PartRef) (a : Access) (x : Part) (pa k : Nat) (w_s : s.mem.wf = true) :
    (sendPeer s r a x pa k).mem.wf = true := by
  unfold sendPeer
  grind -ring -linarith -lia -order -ac [finishPart_wf, modUnitOf_wf, peerSend_wf, dropPeer_wf, l2Touch_wf, awaitTurn_wf]

theorem skipPart_wf (s : State) (r : PartRef) (w_s : s.mem.wf = true) : (skipPart s r).mem.wf = true := by
  unfold skipPart
  grind -ring -linarith -lia -order -ac [modAccess_wf, modPart_wf]

theorem sendPart_wf (s : State) (r : PartRef) (w_s : s.mem.wf = true) : (sendPart s r).mem.wf = true := by
  unfold sendPart
  grind -ring -linarith -lia -order -ac [toL1_wf, finishPart_wf, skipPart_wf, sendPeer_wf, spoil_wf, sendControl_wf, toSlice_wf, toBank_wf]

theorem sendParts_wf (s : State) (p : Nat) (a : Access) (w_s : s.mem.wf = true) :
    (sendParts s p a).mem.wf = true := by
  unfold sendParts
  (try dsimp only)
  (repeat' (first | with_reducible assumption | (with_reducible refine foldl_wf (fun _ _ _ => ?_) _ _ ?_) | split | with_reducible apply sendPart_wf)) <;> grind -ring -linarith -lia -order -ac [sendPart_wf]

theorem kickPeers_wf (s : State) (w_s : s.mem.wf = true) : (kickPeers s).mem.wf = true := by
  unfold kickPeers
  (try dsimp only)
  (repeat' (first | with_reducible assumption | (with_reducible refine foldl_wf (fun _ _ _ => ?_) _ _ ?_) | split | with_reducible apply sendParts_wf)) <;> grind -ring -linarith -lia -order -ac [sendParts_wf]

theorem putAccess_wf (s : State) (p : Nat) (a : Access) (w_s : s.mem.wf = true) :
    (putAccess s p a).mem.wf = true := by
  unfold putAccess
  grind -ring -linarith -lia -order -ac [modAccess_wf]

theorem askPart_wf (s : State) (p : Nat) (a : Access) (x : Part) (w_s : s.mem.wf = true) :
    (askPart s p a x).mem.wf = true := by
  unfold askPart
  grind -ring -linarith -lia -order -ac [putAccess_wf, askWalker_wf]

theorem translateParts_wf (n : Nat) (s : State) (p id : Nat) (hs : s.mem.wf = true) : (translateParts n s p id).mem.wf = true := by
  induction n generalizing s with
  | zero => exact hs
  | succ n ih =>
    unfold translateParts
    (repeat' (first | exact hs | split | dsimp only)) <;>
      first
      | exact hs
      | exact putAccess_wf _ _ _ hs
      | exact ih _ (putAccess_wf _ _ _ hs)
      | exact ih _ (placePart_wf _ _ _ _ _ _ hs)
      | exact putAccess_wf _ _ _ (askWalker_wf _ _ _ hs)

theorem translateAccess_wf (s : State) (p id : Nat) (w_s : s.mem.wf = true) :
    (translateAccess s p id).mem.wf = true := by
  unfold translateAccess
  grind -ring -linarith -lia -order -ac [askPart_wf, translateParts_wf]

theorem moveLast_wf (s : State) (p : Nat) (a : Access) (w_s : s.mem.wf = true) : (moveLast s p a).mem.wf = true := by
  unfold moveLast
  grind -ring -linarith -lia -order -ac [modAccesses_wf]

theorem takeFault_wf (s : State) (p : Nat) (a : Access) (e : FaultInfo) (w_s : s.mem.wf = true) :
    (takeFault s p a e).mem.wf = true := by
  unfold takeFault
  grind -ring -linarith -lia -order -ac [deliverFault_wf, modAccess_wf]

theorem tryStream_wf (s : State) (p id : Nat) (w_s : s.mem.wf = true) : (tryStream s p id).mem.wf = true := by
  unfold tryStream
  grind -ring -linarith -lia -order -ac [putAccess_wf, sendParts_wf, takeFault_wf, moveLast_wf]

theorem kickStreams_wf (s : State) (p : Nat) (w_s : s.mem.wf = true) : (kickStreams s p).mem.wf = true := by
  unfold kickStreams
  (try dsimp only)
  (repeat' (first | with_reducible assumption | (with_reducible refine foldl_wf (fun _ _ _ => ?_) _ _ ?_) | split | with_reducible apply tryStream_wf)) <;> grind -ring -linarith -lia -order -ac [tryStream_wf]

theorem advance_wf (s : State) (p id : Nat) (w_s : s.mem.wf = true) : (advance s p id).mem.wf = true := by
  unfold advance
  grind -ring -linarith -lia -order -ac [tryStream_wf, translateAccess_wf]

theorem resume_wf (s : State) (p id : Nat) (w_s : s.mem.wf = true) : (resume s p id).mem.wf = true := by
  unfold resume
  grind -ring -linarith -lia -order -ac [tryStream_wf, translateParts_wf]

theorem addAccess_wf (s : State) (p : Nat) (a : Access) (w_s : s.mem.wf = true) :
    (addAccess s p a).mem.wf = true := by
  unfold addAccess
  grind -ring -linarith -lia -order -ac [modAccesses_wf]

theorem fireAccess_wf (h : Head) (op : MemOp) (ft : BitVec 5) (xf : MemXf) (s : State) (w_s : s.mem.wf = true) :
    ∀ rr, (fireAccess h op ft xf s) = .next rr → rr.mem.wf = true := by
  unfold fireAccess
  grind -ring -linarith -lia -order -ac [advance_wf, addAccess_wf, → fireWith_wf]

theorem sendRow_wf (s : State) (p : Nat) (b : BlockId) (src : BitVec 7) (h : Head) (r : Row) (w_s : s.mem.wf = true) :
    (sendRow s p b src h r).mem.wf = true := by
  unfold sendRow
  grind -ring -linarith -lia -order -ac

theorem sendData_wf (s : State) (p : Nat) (a : Access) (w_s : s.mem.wf = true) : (sendData s p a).mem.wf = true := by
  unfold sendData
  grind -ring -linarith -lia -order -ac [sendRow_wf, sendAll_wf]

theorem sendDone_wf (s : State) (p : Nat) (a : Access) (w_s : s.mem.wf = true) : (sendDone s p a).mem.wf = true := by
  unfold sendDone
  grind -ring -linarith -lia -order -ac [sendAll_wf]

theorem removeAccess_wf (s : State) (p id : Nat) (w_s : s.mem.wf = true) : (removeAccess s p id).mem.wf = true := by
  unfold removeAccess
  grind -ring -linarith -lia -order -ac [modAccesses_wf]

theorem performLocal_wf (s : State) (p : Nat) (a : Access) (w_s : s.mem.wf = true) :
    (performLocal s p a).mem.wf = true := by
  unfold performLocal
  grind -ring -linarith -lia -order -ac [modAccess_wf, sendData_wf, dropPeer_wf, sendDone_wf]

theorem performSystem_wf (s : State) (p : Nat) (a : Access) (w_s : s.mem.wf = true) :
    (performSystem s p a).mem.wf = true := by
  unfold performSystem
  grind -ring -linarith -lia -order -ac [removeAccess_wf, sendDone_wf]

theorem abandonLines_wf (s : State) (p : Nat) (a : Access) (w_s : s.mem.wf = true) :
    (abandonLines s p a).mem.wf = true := by
  unfold abandonLines
  (try dsimp only)
  (repeat' (first | with_reducible assumption | (with_reducible refine foldl_wf (fun _ _ _ => ?_) _ _ ?_) | split | with_reducible apply skipPart_wf)) <;> grind -ring -linarith -lia -order -ac [skipPart_wf]

theorem throughReturn_wf {s : State} {p : Nat} {a : Access} {sends : Bool} {f : State → State}
    (hf : ∀ u, u.mem.wf = true → (f u).mem.wf = true) (hs : s.mem.wf = true) : (throughReturn s p a sends f).mem.wf = true := by
  unfold throughReturn
  exact ite_wf (hf _ hs) (ite_wf (hf _ (admitAt_wf _ _ _ _ _ hs)) (refuseAt_wf _ _ _ _ _ _ hs))

theorem performAccess_wf (s : State) (p : Nat) (a : Access) (w_s : s.mem.wf = true) :
    (performAccess s p a).mem.wf = true := by
  unfold performAccess
  grind -ring -linarith -lia -order -ac [removeAccess_wf, deliverFault_wf, modAccess_wf, performSystem_wf, throughReturn_wf, performLocal_wf]

theorem translateAgain_wf (s : State) (p : Nat) (a : Access) (hs : s.mem.wf = true) : (translateAgain s p a).1.mem.wf = true := by
  unfold translateAgain
  refine foldl_fst_wf (fun x i hx => ?_) _ _ hs
  split
  · exact hx
  · split
    · exact hx
    · split
      · rename_i t l h
        exact engineLeaf_wf _ _ _ _ _ hx _ h
      · exact hx

theorem issueAccess_wf (s : State) (p : Nat) (a : Access) (w_s : s.mem.wf = true) :
    (issueAccess s p a).mem.wf = true := by
  unfold issueAccess
  grind -ring -linarith -lia -order -ac [removeAccess_wf, putAccess_wf, setWave_wf, sendParts_wf, moveLast_wf]

theorem tryIssue_wf (s : State) (p : Nat) (a : Access) (w_s : s.mem.wf = true) : (tryIssue s p a).mem.wf = true := by
  unfold tryIssue
  grind -ring -linarith -lia -order -ac [translateAgain_wf, putAccess_wf, issueAccess_wf, takeFault_wf]

theorem accessStep_wf {f : State → Nat → Access → State} {s : State} (hs : s.mem.wf = true)
    (hf : ∀ s p a, s.mem.wf = true → (f s p a).mem.wf = true) : ∀ r, accessStep f s = .next r → r.mem.wf = true := by
  intro r hr
  unfold accessStep at hr
  split at hr
  · dsimp only at hr
    split at hr
    · cases hr; exact hf _ _ _ hs
    · cases hr; exact hs
  · cases hr; exact hs

theorem execAccessArrival_wf (s : State) (w_s : s.mem.wf = true) :
    ∀ rr, (execAccessArrival s) = .next rr → rr.mem.wf = true := by
  unfold execAccessArrival
  grind -ring -linarith -lia -order -ac [putAccess_wf, → accessStep_wf]

theorem execStoreBufferIssue_wf (s : State) (w_s : s.mem.wf = true) :
    ∀ rr, (execStoreBufferIssue s) = .next rr → rr.mem.wf = true := by
  unfold execStoreBufferIssue
  grind -ring -linarith -lia -order -ac [→ accessStep_wf, tryIssue_wf]

theorem execAccessPerformed_wf (s : State) (w_s : s.mem.wf = true) :
    ∀ rr, (execAccessPerformed s) = .next rr → rr.mem.wf = true := by
  unfold execAccessPerformed
  grind -ring -linarith -lia -order -ac [→ accessStep_wf, performAccess_wf, abandonLines_wf]

theorem execStreamAccessPerformed_wf (s : State) (w_s : s.mem.wf = true) :
    ∀ rr, (execStreamAccessPerformed s) = .next rr → rr.mem.wf = true := by
  unfold execStreamAccessPerformed
  grind -ring -linarith -lia -order -ac [performAccess_wf, kickStreams_wf, → accessStep_wf]

theorem returnAccess_wf (s : State) (p id : Nat) (x : Returned) (w_s : s.mem.wf = true) :
    (returnAccess s p id x).mem.wf = true := by
  unfold returnAccess
  grind -ring -linarith -lia -order -ac [putAccess_wf, setStationEntry_wf, resume_wf]

theorem walkReturn_wf (s : State) (p : Nat) (x : Returned) (w_s : s.mem.wf = true) :
    (walkReturn s p x).mem.wf = true := by
  unfold walkReturn
  grind -ring -linarith -lia -order -ac [returnAccess_wf, setStationEntry_wf, modWalker_wf]

theorem execWalkReturn_wf (s : State) (w_s : s.mem.wf = true) :
    ∀ rr, (execWalkReturn s) = .next rr → rr.mem.wf = true := by
  unfold execWalkReturn
  grind -ring -linarith -lia -order -ac [walkReturn_wf]

theorem execWalkerQueueRetry_wf (s : State) (w_s : s.mem.wf = true) :
    ∀ rr, (execWalkerQueueRetry s) = .next rr → rr.mem.wf = true := by
  unfold execWalkerQueueRetry
  grind -ring -linarith -lia -order -ac [advance_wf, → accessStep_wf]

theorem serveBank_wf (s : State) (store b : Nat) (w_s : s.mem.wf = true) : (serveBank s store b).mem.wf = true := by
  unfold serveBank
  grind -ring -linarith -lia -order -ac [serveWords_wf]

theorem execWordServe_wf (s : State) (w_s : s.mem.wf = true) :
    ∀ rr, (execWordServe s) = .next rr → rr.mem.wf = true := by
  unfold execWordServe
  grind -ring -linarith -lia -order -ac [serveBank_wf]

theorem execLd_wf (h : Head) (m : MemXf) (s : State) (w_s : s.mem.wf = true) :
    ∀ rr, (execLd h m s) = .next rr → rr.mem.wf = true := by
  unfold execLd
  grind -ring -linarith -lia -order -ac [→ fireAccess_wf]

theorem execSt_wf (h : Head) (m : MemXf) (s : State) (w_s : s.mem.wf = true) :
    ∀ rr, (execSt h m s) = .next rr → rr.mem.wf = true := by
  unfold execSt
  grind -ring -linarith -lia -order -ac [→ fireAccess_wf]

theorem execLds_wf (h : Head) (m : MemXf) (s : State) (w_s : s.mem.wf = true) :
    ∀ rr, (execLds h m s) = .next rr → rr.mem.wf = true := by
  unfold execLds
  grind -ring -linarith -lia -order -ac [→ fireAccess_wf]

theorem execStf_wf (h : Head) (m : MemXf) (s : State) (w_s : s.mem.wf = true) :
    ∀ rr, (execStf h m s) = .next rr → rr.mem.wf = true := by
  unfold execStf
  grind -ring -linarith -lia -order -ac [→ fireAccess_wf]

theorem execClre_wf (h : Head) (m : MemXf) (s : State) (w_s : s.mem.wf = true) :
    ∀ rr, (execClre h m s) = .next rr → rr.mem.wf = true := by
  unfold execClre
  grind -ring -linarith -lia -order -ac [→ fireAccess_wf]

theorem execMnop_wf (h : Head) (m : MemXf) (s : State) (w_s : s.mem.wf = true) :
    ∀ rr, (execMnop h m s) = .next rr → rr.mem.wf = true := by
  unfold execMnop
  grind -ring -linarith -lia -order -ac [→ fireAccess_wf]

theorem execFence_wf (h : Head) (m : MemXf) (s : State) (w_s : s.mem.wf = true) :
    ∀ rr, (execFence h m s) = .next rr → rr.mem.wf = true := by
  unfold execFence
  grind -ring -linarith -lia -order -ac [→ fireAccess_wf]

theorem execAtom_wf (h : Head) (m : MemXf) (s : State) (w_s : s.mem.wf = true) :
    ∀ rr, (execAtom h m s) = .next rr → rr.mem.wf = true := by
  unfold execAtom
  grind -ring -linarith -lia -order -ac [→ fireAccess_wf]

theorem execRed_wf (h : Head) (m : MemXf) (s : State) (w_s : s.mem.wf = true) :
    ∀ rr, (execRed h m s) = .next rr → rr.mem.wf = true := by
  unfold execRed
  grind -ring -linarith -lia -order -ac [→ fireAccess_wf]

theorem execPref_wf (h : Head) (m : MemXf) (s : State) (w_s : s.mem.wf = true) :
    ∀ rr, (execPref h m s) = .next rr → rr.mem.wf = true := by
  unfold execPref
  grind -ring -linarith -lia -order -ac [→ fireAccess_wf]

theorem execCctl_wf (h : Head) (m : MemXf) (s : State) (w_s : s.mem.wf = true) :
    ∀ rr, (execCctl h m s) = .next rr → rr.mem.wf = true := by
  unfold execCctl
  grind -ring -linarith -lia -order -ac [→ fireAccess_wf]

theorem execLdg_wf (h : Head) (m : MemXf) (s : State) (w_s : s.mem.wf = true) :
    ∀ rr, (execLdg h m s) = .next rr → rr.mem.wf = true := by
  unfold execLdg
  grind -ring -linarith -lia -order -ac [→ fireAccess_wf]

theorem execSts_wf (h : Head) (m : MemXf) (s : State) (w_s : s.mem.wf = true) :
    ∀ rr, (execSts h m s) = .next rr → rr.mem.wf = true := by
  unfold execSts
  grind -ring -linarith -lia -order -ac [→ fireAccess_wf]

theorem execStrl_wf (h : Head) (row : Bool) (lenM1 : BitVec 3) (ft : BitVec 5) (cp : CachePol) (done : Bool) (scope : Scope) (s : State) (w_s : s.mem.wf = true) :
    ∀ rr, (execStrl h row lenM1 ft cp done scope s) = .next rr → rr.mem.wf = true := by
  unfold execStrl
  grind -ring -linarith -lia -order -ac [→ fireAccess_wf]

theorem execStrs_wf (h : Head) (cp : CachePol) (done : Bool) (scope : Scope) (s : State) (w_s : s.mem.wf = true) :
    ∀ rr, (execStrs h cp done scope s) = .next rr → rr.mem.wf = true := by
  unfold execStrs
  grind -ring -linarith -lia -order -ac [→ fireAccess_wf]

theorem execWadv_wf (h : Head) (s : State) (w_s : s.mem.wf = true) :
    ∀ rr, (execWadv h s) = .next rr → rr.mem.wf = true := by
  unfold execWadv
  refine throughPort_wf ?_
  exact fire_wf (by assumption)

/-! ### Requests -/

theorem fullStore_wf (s : State) (a n v : Nat) (w_s : s.mem.wf = true) : (fullStore s a n v).mem.wf = true := by
  unfold fullStore
  grind -ring -linarith -lia -order -ac [engineStore_wf, wakeRange_wf]

theorem enginePieces_wf (s : State) (p : Nat) (c : BitVec 12) (va : Word) (n : Nat) (need : Need) (hs : s.mem.wf = true) :
    ∀ r, enginePieces s p c va n need = .ok r → r.1.mem.wf = true := by
  unfold enginePieces
  refine foldlM_fst_wf (fun x a r hx hr => ?_) _ _ hs
  obtain ⟨y, hy, hr⟩ := bind_ok_wf hr
  have := engineTranslate_wf _ _ _ _ _ hx y hy
  obtain ⟨s, pa, q⟩ := y
  dsimp only at hr
  split at hr
  · cases hr
  · cases hr; exact this

theorem failEng_wf (s : State) (id : Nat) (w_s : s.mem.wf = true) : (failEng s id).mem.wf = true := by
  unfold failEng
  grind -ring -linarith -lia -order -ac [modEng_wf]

theorem routeEng_wf (s : State) (q : EngReq) (w_s : s.mem.wf = true) : (routeEng s q).mem.wf = true := by
  unfold routeEng
  grind -ring -linarith -lia -order -ac [askBank_wf, peerSend_wf, failEng_wf, modEng_wf, dropPeer_wf, performEng_wf, sendHome_wf]

theorem newEng_wf (s : State) (o : EngOwner) (p : Nat) (c : BitVec 12) (g : BitVec 3) (x : Word × Nat × Nat) (act : EngAct) (w_s : s.mem.wf = true) :
    (newEng s o p c g x act).mem.wf = true := by
  unfold newEng
  grind -ring -linarith -lia -order -ac [routeEng_wf]

theorem requestReads_wf (s : State) (o : EngOwner) (p : Nat) (c : BitVec 12) (g : BitVec 3) (l : List (Word × Nat × Nat)) (w_s : s.mem.wf = true) :
    (requestReads s o p c g l).mem.wf = true := by
  unfold requestReads
  (try dsimp only)
  (repeat' (first | with_reducible assumption | (with_reducible refine foldl_wf (fun _ _ _ => ?_) _ _ ?_) | split | with_reducible apply newEng_wf)) <;> grind -ring -linarith -lia -order -ac [newEng_wf]

theorem requestWrites_wf (s : State) (o : EngOwner) (p : Nat) (c : BitVec 12) (g : BitVec 3) (l : List (Word × Nat × Nat)) (v : Nat)
    (hs : s.mem.wf = true) : (requestWrites s o p c g l v).mem.wf = true := by
  induction l generalizing s v with
  | nil => exact hs
  | cons x l ih => exact ih _ _ (newEng_wf _ _ _ _ _ _ _ hs)

theorem writePieces_wf (o : EngOwner) (p : Nat) (c : BitVec 12) (l : List (Word × Nat × Nat)) (s : State) (v : Nat) (hs : s.mem.wf = true) :
    (writePieces o p c l s v).mem.wf = true := by
  induction l generalizing s v with
  | nil => exact hs
  | cons x l ih => exact ih _ _ (ite_wf (newEng_wf _ _ _ _ _ _ _ hs) (engineWrite_wf _ _ _ _ hs))

theorem dropReads_wf (s : State) (o : EngOwner) (w_s : s.mem.wf = true) : (dropReads s o).mem.wf = true := by
  unfold dropReads
  grind -ring -linarith -lia -order -ac

theorem dropFailed_wf (s : State) (o : EngOwner) (w_s : s.mem.wf = true) : (dropFailed s o).mem.wf = true := by
  unfold dropFailed
  grind -ring -linarith -lia -order -ac

theorem virtualWriteFrom_wf (kind : Need) (a0 : Nat) (a1 : State) (a2 : Nat) (a3 : BitVec 12) (a4 : Word) (a5 : Nat) (a6 : Nat) (w_a1 : a1.mem.wf = true) :
    ∀ rr, (virtualWriteFrom kind a0 a1 a2 a3 a4 a5 a6) = .ok rr → rr.mem.wf = true := by
  induction a0 generalizing a1 a2 a3 a4 a5 a6 w_a1 with
  | zero => (intro r hr; unfold virtualWriteFrom at hr; grind -ring -linarith -lia -order -ac [fullStore_wf, → engineTranslate_wf])
  | succ n ih => (intro r hr; unfold virtualWriteFrom at hr; (repeat' (first | dsimp only at hr | (obtain ⟨a, ha, hr⟩ := bind_ok_wf hr) | split at hr)) <;> grind -ring -linarith -lia -order -ac [fullStore_wf, → engineTranslate_wf])

/-! ### Blocks -/

theorem afterSpill_wf (s : State) (c : BitVec 12) (hs : s.mem.wf = true) : (afterSpill s c).mem.wf = true := by
  unfold afterSpill; exact ite_wf (requestStop_wf _ _ _ _ _ _ hs) hs

theorem overflowAt_wf (s : State) (p : Nat) (c : Copy) (w_s : s.mem.wf = true) :
    (overflowAt s p c).mem.wf = true := by
  unfold overflowAt
  grind -ring -linarith -lia -order -ac [afterSpill_wf, countEvent_wf]

theorem waitAt_wf (s : State) (p : Nat) (c : Copy) (slot : BitVec 7) (port : BitVec 2) (t : Token) (w_s : s.mem.wf = true) :
    (waitAt s p c slot port t).mem.wf = true := by
  unfold waitAt
  grind -ring -linarith -lia -order -ac [modCopy_wf, overflowAt_wf]

theorem completeAt_wf (s : State) (p : Nat) (c : Copy) (slot : BitVec 7) (port : BitVec 2) (t : Token) (ws : List Waiting) (i : Instr) (w_s : s.mem.wf = true) :
    (completeAt s p c slot port t ws i).mem.wf = true := by
  unfold completeAt
  (try dsimp only)
  (repeat' (first | with_reducible assumption | (with_reducible refine foldl_wf (fun _ _ _ => ?_) _ _ ?_) | split | with_reducible apply modCopy_wf | with_reducible apply overflowAt_wf)) <;> grind -ring -linarith -lia -order -ac [modCopy_wf, overflowAt_wf]

theorem tokenFault_wf (s : State) (p : Nat) (b : BlockId) (slot : BitVec 7) (port : BitVec 2) (t : Token) (cause : BitVec 8) (named : BitVec 8) (w_s : s.mem.wf = true) :
    (tokenFault s p b slot port t cause named).1.mem.wf = true := by
  unfold tokenFault
  grind -ring -linarith -lia -order -ac [deliverFault_wf]

theorem arriveAt_wf (s : State) (p : Nat) (c : Copy) (slot : BitVec 7) (port : BitVec 2) (t : Token) (hs : s.mem.wf = true) :
    (arriveAt s p c slot port t).mem.wf = true := by
  unfold arriveAt
  extract_lets u
  have hu : u.mem.wf = true := modCopy_wf _ _ _ _ hs
  split
  · exact waitAt_wf _ _ _ _ _ _ hu
  · split
    · have := tokenFault_wf u p c.id slot port t causeFormat (0#1 ++ slot) hu
      exact ite_wf this (waitAt_wf _ _ _ _ _ _ this)
    · split
      · cases h : countAtOnce u p c slot _ t.env with
        | none => exact waitAt_wf _ _ _ _ _ _ hu
        | some v => exact countAtOnce_wf _ _ _ _ _ _ hu _ h
      · refine ite_wf (waitAt_wf _ _ _ _ _ _ hu) ?_
        split
        · exact completeAt_wf _ _ _ _ _ _ _ _ (ite_wf (countEvent_wf _ _ _ _ _ hu) hu)
        · exact waitAt_wf _ _ _ _ _ _ (ite_wf (countEvent_wf _ _ _ _ _ hu) hu)

theorem trackCopy_wf (s : State) (p : Nat) (b : BlockId) (w_s : s.mem.wf = true) :
    (trackCopy s p b).mem.wf = true := by
  unfold trackCopy
  grind -ring -linarith -lia -order -ac [modBlocks_wf]

theorem bufferEntry_wf (s : State) (p : Nat) (b : BlockId) (e : EntryToken) (w_s : s.mem.wf = true) :
    (bufferEntry s p b e).mem.wf = true := by
  unfold bufferEntry
  grind -ring -linarith -lia -order -ac [afterSpill_wf, countEvent_wf, modCopy_wf]

theorem rejectEntry_wf (s : State) (p : Nat) (b : BlockId) (slot : BitVec 8) (e : EntryToken) (w_s : s.mem.wf = true) :
    (rejectEntry s p b slot e).1.mem.wf = true := by
  unfold rejectEntry
  grind -ring -linarith -lia -order -ac [tokenFault_wf]

theorem arrive_wf (s : State) (f : Flight) (w_s : s.mem.wf = true) : (arrive s f).mem.wf = true := by
  unfold arrive
  grind -ring -linarith -lia -order -ac [trackCopy_wf, afterSpill_wf, arriveAt_wf, modCopy_wf, bufferEntry_wf, rejectEntry_wf]

theorem refuseFlight_wf (s : State) (n : Nat) (f : Flight) (w_s : s.mem.wf = true) :
    (refuseFlight s n f).mem.wf = true := by
  unfold refuseFlight
  grind -ring -linarith -lia -order -ac [countEvent_wf]

theorem landFlight_wf (s : State) (n : Nat) (f : Flight) (w_s : s.mem.wf = true) :
    (landFlight s n f).mem.wf = true := by
  unfold landFlight
  grind -ring -linarith -lia -order -ac [refuseFlight_wf, arrive_wf, passEdge_wf]

theorem execTokenArrival_wf (s : State) (w_s : s.mem.wf = true) :
    ∀ rr, (execTokenArrival s) = .next rr → rr.mem.wf = true := by
  unfold execTokenArrival
  grind -ring -linarith -lia -order -ac [landFlight_wf]

theorem returnSpilled_wf (s : State) (p : Nat) (c : Copy) (pe : Nat) (w_s : s.mem.wf = true) :
    (returnSpilled s p c pe).mem.wf = true := by
  unfold returnSpilled
  grind -ring -linarith -lia -order -ac [modUnit_wf, modCopy_wf]

theorem execOverflowReturn_wf (s : State) (w_s : s.mem.wf = true) :
    ∀ rr, (execOverflowReturn s) = .next rr → rr.mem.wf = true := by
  unfold execOverflowReturn
  grind -ring -linarith -lia -order -ac [returnSpilled_wf]

theorem keepCount_wf (s : State) (p : Nat) (b : BlockId) (n : Nat) (w_s : s.mem.wf = true) :
    (keepCount s p b n).mem.wf = true := by
  unfold keepCount
  grind -ring -linarith -lia -order -ac [modBlocks_wf]

theorem imageBlockBy_wf {ε : Type} {read : State → Word → Nat → Except ε (State × Nat)} {s : State} {p : Nat} {b : BlockId}
    (hf : ∀ u a n r, u.mem.wf = true → read u a n = .ok r → r.1.mem.wf = true) (hs : s.mem.wf = true) :
    ∀ r, imageBlockBy read s p b = .ok r → r.1.mem.wf = true := by
  intro r hr
  unfold imageBlockBy at hr
  obtain ⟨x, hx, hr⟩ := bind_ok_wf hr
  have h1 := hf _ _ _ _ hs hx
  dsimp only at hr
  split at hr
  · cases hr; exact h1
  · obtain ⟨y, hy, hr⟩ := bind_ok_wf hr
    have h2 := keepCount_wf _ p b (bitsOf y.2 0 32) (hf _ _ _ _ h1 hy)
    split at hr
    · cases hr; exact h2
    · obtain ⟨z, hz, hr⟩ := bind_ok_wf hr
      obtain ⟨w, hw, hr⟩ := bind_ok_wf hr
      cases hr
      exact hf _ _ _ _ (hf _ _ _ _ h2 hz) hw

/-- What a fault of the reads leaves, where that of each read has a memory in canonical form. -/
theorem imageBlockBy_left {ε : Type} {read : State → Word → Nat → Except ε (State × Nat)} {s : State} {p : Nat} {b : BlockId}
    {left : ε → Prop} (hf : ∀ u a n r, u.mem.wf = true → read u a n = .ok r → r.1.mem.wf = true)
    (he : ∀ u a n e, u.mem.wf = true → read u a n = .error e → left e) (hs : s.mem.wf = true) :
    ∀ e, imageBlockBy read s p b = .error e → left e := by
  intro e hr
  unfold imageBlockBy at hr
  obtain hx | ⟨x, hx, hr⟩ := bind_error_wf hr
  · exact he _ _ _ _ hs hx
  have h1 := hf _ _ _ _ hs hx
  dsimp only at hr
  split at hr
  · cases hr
  obtain hy | ⟨y, hy, hr⟩ := bind_error_wf hr
  · exact he _ _ _ _ h1 hy
  have h2 := keepCount_wf _ p b (bitsOf y.2 0 32) (hf _ _ _ _ h1 hy)
  split at hr
  · cases hr
  obtain hz | ⟨z, hz, hr⟩ := bind_error_wf hr
  · exact he _ _ _ _ h2 hz
  obtain hw | ⟨w, hw, hr⟩ := bind_error_wf hr
  · exact he _ _ _ _ (hf _ _ _ _ h2 hz) hw
  · cases hr

theorem imageBlock_wf (s : State) (p : Nat) (b : BlockId) (hs : s.mem.wf = true) :
    ∀ r, imageBlock s p b = .ok r → r.1.mem.wf = true :=
  imageBlockBy_wf (fun _ _ _ _ h e => virtualRead_wf _ _ _ _ _ _ h _ e) hs

theorem shareLine_wf (s : State) (p line : Nat) (w_s : s.mem.wf = true) :
    ∀ rr, (shareLine s p line) = some rr → rr.mem.wf = true := by
  unfold shareLine
  grind -ring -linarith -lia -order -ac [setLineState_wf, addLine_wf, setDir_wf, Mem.setByte_wf, Mem.write_wf, Mem.setFull_wf, Mem.addEmpty_wf,
        Mem.setEmpty_wf, Mem.marks_wf, Mem.clearMarks_wf, Mem.setLine_wf]

theorem lineThroughL1_wf (s : State) (p : Nat) (c : BitVec 12) (kind : PageKind) (pa : Nat) (hs : s.mem.wf = true) :
    ∀ r, lineThroughL1 s p c kind pa = some r → r.1.mem.wf = true := by
  intro r hr
  unfold lineThroughL1 at hr
  dsimp only at hr
  split at hr
  · split at hr
    · split at hr
      · cases hr; exact touchLine_wf _ _ _ _ _ hs
      · cases hr
    · split at hr
      · rw [Option.map_eq_some_iff] at hr
        obtain ⟨t, ht, rfl⟩ := hr
        rw [Option.bind_eq_some_iff] at ht
        obtain ⟨u, hu, ht⟩ := ht
        exact countEvent_wf _ _ _ _ _ (shareLine_wf _ _ _ (makeWay_wf _ _ _ hs _ hu) _ ht)
      · cases hr
  · split at hr
    · split at hr
      · cases hr; exact touchLine_wf _ _ _ _ _ hs
      · cases hr
    · rw [Option.map_eq_some_iff] at hr
      obtain ⟨t, ht, rfl⟩ := hr
      exact countEvent_wf _ _ _ _ _ (addLine_wf _ _ _ _ (makeWay_wf _ _ _ hs _ ht))
  · cases hr; exact hs

theorem loadRead_wf (now : Bool) (n : Nat) (s : State) (p : Nat) (c : BitVec 12) (va : Word) (k : Nat) (hs : s.mem.wf = true) :
    ∀ r, loadRead now n s p c va k = .ok r → r.1.mem.wf = true := by
  induction n generalizing s va k with
  | zero => intro r hr; cases hr; exact hs
  | succ n ih =>
    intro r hr
    unfold loadRead at hr
    split at hr
    · cases hr; exact hs
    split at hr
    · cases hr
    dsimp only at hr
    split at hr
    · cases hr
    · rename_i t pa l ht
      have h1 := engineTranslate_wf _ _ _ _ _ hs _ ht
      split at hr
      · cases hr
      · rename_i u d hu
        have h2 := lineThroughL1_wf _ _ _ _ _ h1 _ hu
        obtain ⟨x, hx, hr⟩ := bind_ok_wf hr
        cases hr
        exact ih u _ _ h2 x hx

/-- The state that a stopped read leaves, if it leaves one. -/
def ReadStop.kept : ReadStop → Prop
  | .fault s _ => s.mem.wf = true
  | _ => True

theorem loadRead_left (now : Bool) (n : Nat) (s : State) (p : Nat) (c : BitVec 12) (va : Word) (k : Nat) (hs : s.mem.wf = true) :
    ∀ e, loadRead now n s p c va k = .error e → e.kept := by
  induction n generalizing s va k with
  | zero => intro e hr; cases hr
  | succ n ih =>
    intro e hr
    unfold loadRead at hr
    split at hr
    · cases hr
    split at hr
    · cases hr; exact trivial
    dsimp only at hr
    split at hr
    · cases hr; exact walked_wf _ _ _ _ _ hs
    · rename_i t pa l ht
      have h1 := engineTranslate_wf _ _ _ _ _ hs _ ht
      split at hr
      · cases hr; exact trivial
      · rename_i u d hu
        have h2 := lineThroughL1_wf _ _ _ _ _ h1 _ hu
        obtain hx | ⟨x, hx, hr⟩ := bind_error_wf hr
        · exact ih u _ _ h2 e hx
        · cases hr

theorem readImage_wf (s : State) (p : Nat) (b : BlockId) (hs : s.mem.wf = true) :
    ∀ r, readImage s p b = .ok r → r.1.mem.wf = true := by
  intro r hr
  unfold readImage at hr
  obtain ⟨x, hx, hr⟩ := bind_ok_wf hr
  have h1 := imageBlockBy_wf (fun _ _ _ _ h e => loadRead_wf _ _ _ _ _ _ _ h _ e) hs _ hx
  dsimp only at hr
  split at hr
  · cases hr; exact h1
  · split at hr
    · obtain ⟨y, hy, hr⟩ := bind_ok_wf hr
      cases hr
      exact loadRead_wf _ _ _ _ _ _ _ h1 _ hy
    · cases hr; exact h1

theorem readImage_left (s : State) (p : Nat) (b : BlockId) (hs : s.mem.wf = true) : ∀ e, readImage s p b = .error e → e.kept := by
  intro e hr
  unfold readImage at hr
  obtain hx | ⟨x, hx, hr⟩ := bind_error_wf hr
  · exact imageBlockBy_left (fun _ _ _ _ h e => loadRead_wf _ _ _ _ _ _ _ h _ e) (fun _ _ _ _ h e => loadRead_left _ _ _ _ _ _ _ h _ e) hs _ hx
  have h1 := imageBlockBy_wf (fun _ _ _ _ h e => loadRead_wf _ _ _ _ _ _ _ h _ e) hs _ hx
  dsimp only at hr
  split at hr
  · cases hr
  · split at hr
    · obtain hy | ⟨y, hy, hr⟩ := bind_error_wf hr
      · exact loadRead_left _ _ _ _ _ _ _ h1 _ hy
      · cases hr
    · cases hr

theorem startLoad_wf (s : State) (p : Nat) (w_s : s.mem.wf = true) : (startLoad s p).mem.wf = true := by
  unfold startLoad
  grind -ring -linarith -lia -order -ac [countEvent_wf, modBlocks_wf, modCopy_wf]

theorem execBlockLoadStarted_wf (s : State) (w_s : s.mem.wf = true) :
    ∀ rr, (execBlockLoadStarted s) = .next rr → rr.mem.wf = true := by
  unfold execBlockLoadStarted
  grind -ring -linarith -lia -order -ac [startLoad_wf]

theorem tileFreed_wf (s : State) (p : Nat) (w_s : s.mem.wf = true) : (tileFreed s p).mem.wf = true := by
  unfold tileFreed
  grind -ring -linarith -lia -order -ac [modBlocks_wf]

theorem freeTile_wf (s : State) (p t : Nat) (w_s : s.mem.wf = true) : (freeTile s p t).mem.wf = true := by
  unfold freeTile
  grind -ring -linarith -lia -order -ac [tileFreed_wf, modTile_wf]

theorem dropObject_wf (s : State) (p : Nat) (c : BitVec 12) (obj : Word) (w_s : s.mem.wf = true) :
    (dropObject s p c obj).mem.wf = true := by
  unfold dropObject
  (try dsimp only)
  (repeat' (first | with_reducible assumption | (with_reducible refine foldl_wf (fun _ _ _ => ?_) _ _ ?_) | split | with_reducible apply modBlocks_wf | with_reducible apply freeTile_wf | with_reducible apply modPlot_wf)) <;> grind -ring -linarith -lia -order -ac [modBlocks_wf, freeTile_wf, modPlot_wf]

theorem restoreTile_wf (s : State) (p : Nat) (b : BlockId) (t : Nat) (w_s : s.mem.wf = true) :
    (restoreTile s p b t).mem.wf = true := by
  unfold restoreTile
  grind -ring -linarith -lia -order -ac [modTile_wf, modPlot_wf]

theorem settleToken_wf (s : State) (p : Nat) (b : BlockId) (w : Waiting) (w_s : s.mem.wf = true) :
    (settleToken s p b w).mem.wf = true := by
  unfold settleToken
  grind -ring -linarith -lia -order -ac [modCopy_wf, tokenFault_wf, completeAt_wf]

theorem settleTokens_wf (s : State) (p : Nat) (b : BlockId) (w_s : s.mem.wf = true) :
    (settleTokens s p b).mem.wf = true := by
  unfold settleTokens
  (try dsimp only)
  (repeat' (first | with_reducible assumption | (with_reducible refine foldl_wf (fun _ _ _ => ?_) _ _ ?_) | split | with_reducible apply settleToken_wf)) <;> grind -ring -linarith -lia -order -ac [settleToken_wf]

theorem settleWords_wf (s : State) (p : Nat) (w_s : s.mem.wf = true) : (settleWords s p).mem.wf = true := by
  unfold settleWords
  (try dsimp only)
  (repeat' (first | with_reducible assumption | (with_reducible refine foldl_wf (fun _ _ _ => ?_) _ _ ?_) | split | with_reducible apply settleToken_wf)) <;> grind -ring -linarith -lia -order -ac [settleToken_wf]

theorem becomeResident_wf (s : State) (p : Nat) (c : Copy) (x : ImageBytes) (w_s : s.mem.wf = true) :
    (becomeResident s p c x).mem.wf = true := by
  unfold becomeResident
  grind -ring -linarith -lia -order -ac [modCopy_wf, dropObject_wf, restoreTile_wf, settleTokens_wf]

theorem rejectWaiting_wf (s : State) (p : Nat) (c : Copy) (slot : BitVec 8) (w_s : s.mem.wf = true) :
    (rejectWaiting s p c slot).mem.wf = true := by
  unfold rejectWaiting
  (try dsimp only)
  (repeat' (first | with_reducible assumption | (with_reducible refine foldl_wf (fun _ _ _ => ?_) _ _ ?_) | split | with_reducible apply modCopy_wf | with_reducible apply rejectEntry_wf)) <;> grind -ring -linarith -lia -order -ac [modCopy_wf, rejectEntry_wf]

theorem rejectBlock_wf (s : State) (p : Nat) (c : Copy) (slot : BitVec 8) (w_s : s.mem.wf = true) :
    (rejectBlock s p c slot).mem.wf = true := by
  unfold rejectBlock
  grind -ring -linarith -lia -order -ac [tileFreed_wf, countEvent_wf, rejectWaiting_wf, modCopy_wf, modCtx_wf]

theorem askLoad_wf (s : State) (p : Nat) (c : BitVec 12) (va : Word) (w_s : s.mem.wf = true) :
    (askLoad s p c va).mem.wf = true := by
  unfold askLoad
  grind -ring -linarith -lia -order -ac [askWalker_wf]

theorem finishLoad_wf (s : State) (p : Nat) (w_s : s.mem.wf = true) : (finishLoad s p).mem.wf = true := by
  unfold finishLoad
  grind -ring -linarith -lia -order -ac [askLoad_wf, walkMet_wf, becomeResident_wf, → readImage_wf, rejectBlock_wf]

theorem execBlockLoadComplete_wf (s : State) (w_s : s.mem.wf = true) :
    ∀ rr, (execBlockLoadComplete s) = .next rr → rr.mem.wf = true := by
  unfold execBlockLoadComplete
  grind -ring -linarith -lia -order -ac [finishLoad_wf]

theorem faultLoad_wf (s : State) (p : Nat) (hs : s.mem.wf = true) : (faultLoad s p).mem.wf = true := by
  unfold faultLoad
  split
  · exact hs
  · split
    · exact askLoad_wf _ _ _ _ hs
    · exact hs
    · exact hs
    · rename_i k _ _ t e h
      have ht : t.mem.wf = true := readImage_left _ _ _ hs _ h
      have h1 := tileFreed_wf _ p (countEvent_wf _ p 0x04 (some k.id.ctx) 1
        (modCopy_wf _ p k.id (fun x => { x with phase := .absent }) (walkMet_wf t p .sched ht)))
      dsimp only
      split
      · exact deliverFault_wf _ _ _ _ _ _ _ _ h1
      · exact h1

theorem execImageTranslationFault_wf (s : State) (w_s : s.mem.wf = true) :
    ∀ rr, (execImageTranslationFault s) = .next rr → rr.mem.wf = true := by
  unfold execImageTranslationFault
  grind -ring -linarith -lia -order -ac [faultLoad_wf]

theorem deliverEntry_wf (s : State) (p : Nat) (c : Copy) (w_s : s.mem.wf = true) :
    (deliverEntry s p c).mem.wf = true := by
  unfold deliverEntry
  grind -ring -linarith -lia -order -ac [arriveAt_wf, modCopy_wf, admitAt_wf, refuseAt_wf, rejectEntry_wf]

theorem execEntryTokenDelivery_wf (s : State) (w_s : s.mem.wf = true) :
    ∀ rr, (execEntryTokenDelivery s) = .next rr → rr.mem.wf = true := by
  unfold execEntryTokenDelivery
  grind -ring -linarith -lia -order -ac [deliverEntry_wf]

theorem evict_wf (s : State) (p : Nat) (w_s : s.mem.wf = true) : (evict s p).mem.wf = true := by
  unfold evict
  grind -ring -linarith -lia -order -ac [countEvent_wf, modCopy_wf]

theorem execEviction_wf (s : State) (w_s : s.mem.wf = true) :
    ∀ rr, (execEviction s) = .next rr → rr.mem.wf = true := by
  unfold execEviction
  grind -ring -linarith -lia -order -ac [evict_wf]

theorem execEvictionEnd_wf (s : State) (w_s : s.mem.wf = true) :
    ∀ rr, (execEvictionEnd s) = .next rr → rr.mem.wf = true := by
  unfold execEvictionEnd
  grind -ring -linarith -lia -order -ac [freeTile_wf, modCopy_wf]

theorem consolidate_wf (s : State) (p : Nat) (w_s : s.mem.wf = true) : (consolidate s p).mem.wf = true := by
  unfold consolidate
  grind -ring -linarith -lia -order -ac [modBlocks_wf]

theorem execConsolidation_wf (s : State) (w_s : s.mem.wf = true) :
    ∀ rr, (execConsolidation s) = .next rr → rr.mem.wf = true := by
  unfold execConsolidation
  grind -ring -linarith -lia -order -ac [consolidate_wf]

theorem beginMove_wf (s : State) (p : Nat) (w_s : s.mem.wf = true) : (beginMove s p).mem.wf = true := by
  unfold beginMove
  grind -ring -linarith -lia -order -ac [modBlocks_wf, modCopy_wf]

theorem execMigrationRequest_wf (s : State) (w_s : s.mem.wf = true) :
    ∀ rr, (execMigrationRequest s) = .next rr → rr.mem.wf = true := by
  unfold execMigrationRequest
  grind -ring -linarith -lia -order -ac [beginMove_wf]

theorem switchMove_wf (s : State) (p : Nat) (w_s : s.mem.wf = true) : (switchMove s p).mem.wf = true := by
  unfold switchMove
  grind -ring -linarith -lia -order -ac [countEvent_wf, modTile_wf, modCopy_wf]

theorem execMigrationSwitch_wf (s : State) (w_s : s.mem.wf = true) :
    ∀ rr, (execMigrationSwitch s) = .next rr → rr.mem.wf = true := by
  unfold execMigrationSwitch
  grind -ring -linarith -lia -order -ac [switchMove_wf]

theorem releaseMove_wf (s : State) (p : Nat) (w_s : s.mem.wf = true) : (releaseMove s p).mem.wf = true := by
  unfold releaseMove
  grind -ring -linarith -lia -order -ac [tileFreed_wf, countEvent_wf, modCopy_wf, dropObject_wf]

theorem execMigrationRelease_wf (s : State) (w_s : s.mem.wf = true) :
    ∀ rr, (execMigrationRelease s) = .next rr → rr.mem.wf = true := by
  unfold execMigrationRelease
  grind -ring -linarith -lia -order -ac [releaseMove_wf]

theorem sendInto_wf (s : State) (c : FireCtx) (bid : BitVec 32) (entry port : Nat) (tag : Word) (k : Packet) (w_s : s.mem.wf = true) :
    (sendInto s c bid entry port tag k).mem.wf = true := by
  unfold sendInto
  grind -ring -linarith -lia -order -ac [sendEntry_wf]

/-- What a firing's reads answer or leave has a memory in canonical form. -/
def ReadsKept {α : Type} (f : α → State) (r : Reads α) : Prop :=
  match r with
  | .ok a => (f a).mem.wf = true
  | .error e => e.1.mem.wf = true

theorem ReadsKept.bind {α β : Type} {f : α → State} {g : β → State} {x : Reads α} {k : α → Reads β} (hx : ReadsKept f x)
    (hk : ∀ a, (f a).mem.wf = true → ReadsKept g (k a)) : ReadsKept g (x >>= k) := by
  cases x with
  | error e => exact hx
  | ok a => exact hk a hx

theorem readsOr_kept {α : Type} {f : α → State} {s : State} {r : Except FaultInfo α} (hs : s.mem.wf = true)
    (hr : ∀ a, r = .ok a → (f a).mem.wf = true) : ReadsKept f (readsOr s r) := by
  cases r with
  | error e => exact hs
  | ok a => exact hr a rfl

theorem firingRead_kept (s : State) (p : Nat) (b : BlockId) (va : Word) (n : Nat) (hs : s.mem.wf = true) :
    ReadsKept Prod.fst (firingRead s p b va n) := by
  unfold firingRead
  split
  · rename_i r h; exact loadRead_wf _ _ _ _ _ _ _ hs r h
  · rename_i t e h; exact loadRead_left _ _ _ _ _ _ _ hs _ h
  · exact readsOr_kept hs (fun a ha => virtualRead_wf _ _ _ _ _ _ hs a ha)

theorem firingRead_left (s : State) (p : Nat) (b : BlockId) (va : Word) (n : Nat) (hs : s.mem.wf = true) :
    ∀ e, firingRead s p b va n = .error e → e.1.mem.wf = true := by
  intro e he
  have h := firingRead_kept s p b va n hs
  rw [he] at h; exact h

theorem firingRead_wf (s : State) (p : Nat) (b : BlockId) (va : Word) (n : Nat) (hs : s.mem.wf = true) :
    ∀ r, firingRead s p b va n = .ok r → r.1.mem.wf = true := by
  intro r hr
  have h := firingRead_kept s p b va n hs
  rw [hr] at h; exact h

theorem checkEntry_kept (c : FireCtx) (s : State) (bid : BitVec 32) (es : List Nat) (hs : s.mem.wf = true) :
    ReadsKept id (checkEntry c s bid es) := by
  have test : ∀ (u : State) (n : Nat), u.mem.wf = true →
      ReadsKept id (if es.all (fun e => decide (e < n)) = true then Except.ok u else Except.error (u, causeOnly causeBadTarget)) := by
    intro u n hu; split <;> exact hu
  unfold checkEntry
  dsimp only
  split
  · exact test _ _ hs
  · split
    · exact hs
    · have h1 : ReadsKept Prod.fst (imageBlockBy (fun s va n => firingRead s c.plot (siblingBlock c bid) va n) s c.plot (siblingBlock c bid)) := by
        cases h : imageBlockBy (fun s va n => firingRead s c.plot (siblingBlock c bid) va n) s c.plot (siblingBlock c bid) with
        | ok r => exact imageBlockBy_wf (fun _ _ _ _ hu e => firingRead_wf _ _ _ _ _ hu _ e) hs r h
        | error e =>
          exact imageBlockBy_left (left := fun e => e.1.mem.wf = true) (fun _ _ _ _ hu e => firingRead_wf _ _ _ _ _ hu _ e)
            (fun _ _ _ _ hu e => firingRead_left _ _ _ _ _ hu _ e) hs e h
      refine h1.bind (fun r hr => ?_)
      split
      · exact test _ _ hr
      · exact hr

theorem exitResult_kept (c : FireCtx) (s : State) (hs : s.mem.wf = true) : ReadsKept Prod.fst (exitResult c s) := by
  unfold exitResult
  exact (checkEntry_kept _ _ _ _ hs).bind (fun u hu => sendInto_wf _ _ _ _ _ _ _ hu)

theorem indirectTargets_kept (s : State) (p : Nat) (b : BlockId) (hs : s.mem.wf = true) : ReadsKept Prod.fst (indirectTargets s p b) := by
  unfold indirectTargets
  exact (firingRead_kept _ _ _ _ _ hs).bind (fun r hr => (firingRead_kept _ _ _ _ _ hr).bind (fun _ hq => hq))

theorem calleeOf_kept (ind : Bool) (c : FireCtx) (s : State) (hs : s.mem.wf = true) : ReadsKept Prod.fst (calleeOf ind c s) := by
  unfold calleeOf
  split
  · refine (readsOr_kept (f := fun _ => s) hs (fun _ _ => hs)).bind (fun _ _ => ?_)
    refine (indirectTargets_kept _ _ _ hs).bind (fun r hr => ?_)
    dsimp only
    split <;> exact hr
  · exact hs

theorem callResult_kept (ind : Bool) (site : BitVec 15) (c : FireCtx) (s : State) (hs : s.mem.wf = true) :
    ReadsKept Prod.fst (callResult ind site c s) := by
  unfold callResult
  refine (calleeOf_kept _ _ _ hs).bind (fun r hr => (checkEntry_kept _ _ _ _ hr).bind (fun u hu => ?_))
  refine (readsOr_kept (f := fun _ => u) hu (fun _ _ => hu)).bind (fun _ _ => ?_)
  exact sendInto_wf _ _ _ _ _ _ _ (sendInto_wf _ _ _ _ _ _ _ hu)

theorem retResult_kept (c : FireCtx) (s : State) (hs : s.mem.wf = true) : ReadsKept Prod.fst (retResult c s) := by
  unfold retResult
  have req : ∀ (u : State) (x : Bool) (k : BitVec 8), u.mem.wf = true → ReadsKept (fun _ => u) (readsOr u (require x k)) :=
    fun u x k hu => readsOr_kept hu (fun _ _ => hu)
  refine (req _ _ _ hs).bind (fun _ _ => (req _ _ _ hs).bind (fun _ _ => (req _ _ _ hs).bind (fun _ _ => ?_)))
  refine (checkEntry_kept _ _ _ _ hs).bind (fun u hu => (req _ _ _ hu).bind (fun _ _ => ?_))
  exact sendInto_wf _ _ _ _ _ _ _ hu

theorem readsLeft_wf {s : State} {r : Reads (State × List Send)} (hs : s.mem.wf = true) (hr : ReadsKept Prod.fst r) :
    (readsLeft s r).mem.wf = true := by
  unfold readsLeft
  split
  · exact hr
  · exact hs

theorem fireReads_wf {h : Head} {body : FireCtx → State → Reads (State × List Send)} {s : State} (hs : s.mem.wf = true)
    (hb : ∀ c u, u.mem.wf = true → ReadsKept Prod.fst (body c u)) : ∀ r, fireReads h body s = .next r → r.mem.wf = true := by
  unfold fireReads
  refine fireWalks_wf hs (fun c _ u hu => readsLeft_wf hu (hb c u hu)) (fun c _ u r hu hr => ?_)
  have h1 := hb c u hu
  cases hx : body c u with
  | error e => rw [hx] at hr; cases hr
  | ok a => rw [hx] at hr h1; cases hr; exact h1

theorem execExit_wf (h : Head) (s : State) (hs : s.mem.wf = true) : ∀ r, execExit h s = .next r → r.mem.wf = true :=
  fireReads_wf hs (fun _ _ hu => exitResult_kept _ _ hu)

theorem execCall_wf (h : Head) (ind : Bool) (site : BitVec 15) (s : State) (hs : s.mem.wf = true) :
    ∀ r, execCall h ind site s = .next r → r.mem.wf = true :=
  fireReads_wf hs (fun _ _ hu => callResult_kept _ _ _ _ hu)

theorem execRet_wf (h : Head) (s : State) (hs : s.mem.wf = true) : ∀ r, execRet h s = .next r → r.mem.wf = true :=
  fireReads_wf hs (fun _ _ hu => retResult_kept _ _ hu)

end Sys2Proof.Machine
end

