-- ==== Sys2Proof/Laws/FormEngines.lean ====
section
/-! SUPPORT. The memory keeps its canonical form: streams, buffers, copies, the matrix engines and groups.
For an operation `f`, `f_wf` says that the state it answers has a memory in canonical form when the state it was given has
one. -/
namespace Sys2Proof.Machine
-- One theorem after another: in parallel each would hold a thread and its stack.
set_option Elab.async false
set_option linter.unusedSimpArgs false
set_option linter.unusedVariables false

/-! ### Streams -/

theorem sendHeld_wf (s : State) (p : Nat) (h : Held) (k : Packet) (w_s : s.mem.wf = true) :
    (sendHeld s p h k).mem.wf = true := by
  unfold sendHeld
  grind -ring -linarith -lia -order -ac [sendAll_wf]

theorem endWrites_wf (c : BitVec 12) (a0 : Nat) (a1 : State) (w_a1 : a1.mem.wf = true) :
    (endWrites c a0 a1).mem.wf = true := by
  induction a0 generalizing a1 w_a1 with
  | zero => (unfold endWrites; grind -ring -linarith -lia -order -ac [modCtx_wf, sendHeld_wf])
  | succ n ih => (unfold endWrites; grind -ring -linarith -lia -order -ac [modCtx_wf, sendHeld_wf])

theorem flushWrites_wf (s : State) (c : BitVec 12) (w_s : s.mem.wf = true) : (flushWrites s c).mem.wf = true := by
  unfold flushWrites
  grind -ring -linarith -lia -order -ac [endWrites_wf]

theorem addWrite_wf (s : State) (w : RegWrite) (w_s : s.mem.wf = true) : (addWrite s w).mem.wf = true := by
  unfold addWrite
  grind -ring -linarith -lia -order -ac [endWrites_wf]

theorem takeWrite_wf (s : State) (p : Nat) (c : BitVec 12) (w_s : s.mem.wf = true) :
    (takeWrite s p c).mem.wf = true := by
  unfold takeWrite
  grind -ring -linarith -lia -order -ac [endWrites_wf]

theorem sendHeldBack_wf (s : State) (p : Nat) (h : Held) (k : Packet) (w_s : s.mem.wf = true) :
    (sendHeldBack s p h k).mem.wf = true := by
  unfold sendHeldBack
  grind -ring -linarith -lia -order -ac [sendBack_wf]

theorem fireHeld_wf {h : Head} {body : FireCtx → MatchedSet → State → Except FaultInfo (State × List Send)} {s : State}
    (hs : s.mem.wf = true) (h2 : ∀ c m u r, u.mem.wf = true → body c m u = .ok r → r.1.mem.wf = true) :
    ∀ r, fireHeld h body s = .next r → r.mem.wf = true := by
  unfold fireHeld
  refine fireState_wf hs (fun c u r hu hb => ?_)
  exact h2 _ _ _ _ hu hb

theorem endChain_wf (s : State) (p : Nat) (x : Chain) (f : ChainForm) (w_s : s.mem.wf = true) :
    (endChain s p x f).mem.wf = true := by
  unfold endChain
  grind -ring -linarith -lia -order -ac [chainFreed_wf, sendFinish_wf, setChain_wf]

theorem runChain_wf (s : State) (p : Nat) (x : Chain) (f : ChainForm) (w_s : s.mem.wf = true) :
    (runChain s p x f).mem.wf = true := by
  unfold runChain
  grind -ring -linarith -lia -order -ac [setChain_wf, endChain_wf]

theorem acceptPoint_wf (s : State) (p : Nat) (x : Chain) (f : ChainForm) (w_s : s.mem.wf = true) :
    (acceptPoint s p x f).mem.wf = true := by
  unfold acceptPoint
  grind -ring -linarith -lia -order -ac [sendAll_wf, endChain_wf, runChain_wf]

theorem execPointAccepted_wf (s : State) (w_s : s.mem.wf = true) :
    ∀ rr, (execPointAccepted s) = .next rr → rr.mem.wf = true := by
  unfold execPointAccepted
  grind -ring -linarith -lia -order -ac [acceptPoint_wf]

theorem startChain_wf (paced idx : Bool) (d : BitVec 2) (w : BitVec 6) (c : FireCtx) (s : State) (w_s : s.mem.wf = true) :
    ∀ rr, (startChain paced idx d w c s) = .ok rr → rr.1.mem.wf = true := by
  unfold startChain
  simp only [bind, Except.bind, pure, Except.pure, require]
  grind -ring -linarith -lia -order -ac [modCopy_wf, runChain_wf]

theorem execCnt_wf (h : Head) (idx : Bool) (d : BitVec 2) (w : BitVec 6) (s : State) (w_s : s.mem.wf = true) :
    ∀ rr, (execCnt h idx d w s) = .next rr → rr.mem.wf = true := by
  unfold execCnt
  refine fireState_wf (by assumption) (fun c u r hu hb => ?_)
  grind -ring -linarith -lia -order -ac [→ startChain_wf, → fireState_wf]

theorem execCchn_wf (h : Head) (idx : Bool) (d : BitVec 2) (w : BitVec 6) (s : State) (w_s : s.mem.wf = true) :
    ∀ rr, (execCchn h idx d w s) = .next rr → rr.mem.wf = true := by
  unfold execCchn
  refine fireState_wf (by assumption) (fun c u r hu hb => ?_)
  grind -ring -linarith -lia -order -ac [→ startChain_wf, → fireState_wf]

theorem countCredit_wf (s : State) (p : Nat) (c : Copy) (slot : BitVec 7) (f : ChainForm) (w_s : s.mem.wf = true) :
    (countCredit s p c slot f).mem.wf = true := by
  unfold countCredit
  grind -ring -linarith -lia -order -ac [dropWaiting_wf, setChain_wf]

theorem countPace_wf (s : State) (p : Nat) (c : Copy) (slot : BitVec 7) (w_s : s.mem.wf = true) :
    (countPace s p c slot).mem.wf = true := by
  unfold countPace
  grind -ring -linarith -lia -order -ac [dropWaiting_wf, modTile_wf]

theorem execCreditArrival_wf (s : State) (w_s : s.mem.wf = true) :
    ∀ rr, (execCreditArrival s) = .next rr → rr.mem.wf = true := by
  unfold execCreditArrival
  grind -ring -linarith -lia -order -ac [countPace_wf, countCredit_wf]

theorem cnrdResult_wf (c : FireCtx) (s : State) (w_s : s.mem.wf = true) :
    ∀ rr, (cnrdResult c s) = .ok rr → rr.1.mem.wf = true := by
  unfold cnrdResult
  grind -ring -linarith -lia -order -ac

theorem cnwrResult_wf (op : CnwrOp) (c : FireCtx) (s : State) (w_s : s.mem.wf = true) :
    ∀ rr, (cnwrResult op c s) = .ok rr → rr.1.mem.wf = true := by
  unfold cnwrResult
  simp only [bind, Except.bind, pure, Except.pure, require]
  grind -ring -linarith -lia -order -ac [runChain_wf]

theorem execCnrd_wf (h : Head) (s : State) (w_s : s.mem.wf = true) :
    ∀ rr, (execCnrd h s) = .next rr → rr.mem.wf = true := by
  unfold execCnrd
  refine fireState_wf (by assumption) (fun c u r hu hb => ?_)
  grind -ring -linarith -lia -order -ac [→ fireState_wf, → cnrdResult_wf]

theorem execCnwr_wf (h : Head) (op : CnwrOp) (s : State) (w_s : s.mem.wf = true) :
    ∀ rr, (execCnwr h op s) = .next rr → rr.mem.wf = true := by
  unfold execCnwr
  refine fireState_wf (by assumption) (fun c u r hu hb => ?_)
  grind -ring -linarith -lia -order -ac [→ fireState_wf, → cnwrResult_wf]

theorem rewindChain_wf (s : State) (p : Nat) (b : BlockId) (slot : BitVec 7) (w_s : s.mem.wf = true) :
    (rewindChain s p b slot).mem.wf = true := by
  unfold rewindChain
  grind -ring -linarith -lia -order -ac [runChain_wf]

theorem execAgen_wf (h : Head) (s : State) (w_s : s.mem.wf = true) :
    ∀ rr, (execAgen h s) = .next rr → rr.mem.wf = true := by
  unfold execAgen
  exact fire_wf (by assumption)

theorem openChannel_wf (s : State) (p : Nat) (c : BitVec 12) (ch : BitVec 4) (e : Envelope) (w_s : s.mem.wf = true) :
    (openChannel s p c ch e).mem.wf = true := by
  unfold openChannel
  grind -ring -linarith -lia -order -ac [modUnit_wf, afterSpill_wf, countEvent_wf]

theorem workChannel_wf (s : State) (p : Nat) (c : BitVec 12) (ch : BitVec 4) (e : Envelope) (f : Channel → Channel) (w_s : s.mem.wf = true) :
    (workChannel s p c ch e f).mem.wf = true := by
  unfold workChannel
  (try dsimp only)
  (repeat' (first | with_reducible assumption | (with_reducible refine foldl_wf (fun _ _ _ => ?_) _ _ ?_) | split | with_reducible apply modUnit_wf | with_reducible apply sendHeld_wf)) <;> grind -ring -linarith -lia -order -ac [modUnit_wf, sendHeld_wf]

theorem ctksResult_wf (one : Bool) (ch : BitVec 4) (c : FireCtx) (m : MatchedSet) (s : State) (w_s : s.mem.wf = true) :
    ∀ rr, (ctksResult one ch c m s) = .ok rr → rr.1.mem.wf = true := by
  unfold ctksResult
  grind -ring -linarith -lia -order -ac [modUnit_wf]

theorem ctkwResult_wf (mM1 : BitVec 10) (ch : BitVec 4) (c : FireCtx) (m : MatchedSet) (s : State) (w_s : s.mem.wf = true) :
    ∀ rr, (ctkwResult mM1 ch c m s) = .ok rr → rr.1.mem.wf = true := by
  unfold ctkwResult
  grind -ring -linarith -lia -order -ac [modUnit_wf]

theorem execCtks_wf (h : Head) (one : Bool) (ch : BitVec 4) (s : State) (w_s : s.mem.wf = true) :
    ∀ rr, (execCtks h one ch s) = .next rr → rr.mem.wf = true := by
  unfold execCtks
  refine fireHeld_wf (by assumption) (fun c m u r hu hb => ?_)
  grind -ring -linarith -lia -order -ac [→ fireHeld_wf, → ctksResult_wf]

theorem execCtkw_wf (h : Head) (mM1 : BitVec 10) (ch : BitVec 4) (s : State) (w_s : s.mem.wf = true) :
    ∀ rr, (execCtkw h mM1 ch s) = .next rr → rr.mem.wf = true := by
  unfold execCtkw
  refine fireHeld_wf (by assumption) (fun c m u r hu hb => ?_)
  grind -ring -linarith -lia -order -ac [→ ctkwResult_wf, → fireHeld_wf]

theorem execCounterAdd_wf (s : State) (w_s : s.mem.wf = true) :
    ∀ rr, (execCounterAdd s) = .next rr → rr.mem.wf = true := by
  unfold execCounterAdd
  grind -ring -linarith -lia -order -ac [modUnit_wf, workChannel_wf, sendHeld_wf, openChannel_wf]

theorem execCtkwJoin_wf (s : State) (w_s : s.mem.wf = true) :
    ∀ rr, (execCtkwJoin s) = .next rr → rr.mem.wf = true := by
  unfold execCtkwJoin
  grind -ring -linarith -lia -order -ac [modUnit_wf, workChannel_wf, openChannel_wf]

/-! ### Buffers -/

theorem setBuffer_wf (s : State) (p : Nat) (g : BitVec 3) (cb : Nat) (b : CircBuf) (w_s : s.mem.wf = true) :
    (setBuffer s p g cb b).mem.wf = true := by
  unfold setBuffer
  grind -ring -linarith -lia -order -ac [modGroup_wf]

theorem sendFrame_wf (s : State) (p : Nat) (h : Held) (handle : Nat) (va : Word) (w_s : s.mem.wf = true) :
    (sendFrame s p h handle va).mem.wf = true := by
  unfold sendFrame
  grind -ring -linarith -lia -order -ac [sendBack_wf]

theorem giveFrame_wf (s : State) (p : Nat) (g : BitVec 3) (h : Held) (i n : Nat) (w_s : s.mem.wf = true) :
    (giveFrame s p g h i n).mem.wf = true := by
  unfold giveFrame
  grind -ring -linarith -lia -order -ac [fullStore_wf, sendFrame_wf, modGroup_wf]

theorem modWaiters_wf (s : State) (p : Nat) (f : List Waiter → List Waiter) (w_s : s.mem.wf = true) :
    (modWaiters s p f).mem.wf = true := by
  unfold modWaiters
  grind -ring -linarith -lia -order -ac [modUnit_wf]

theorem sendSlot_wf (s : State) (p : Nat) (h : Held) (va : Word) (ok i : Nat) (w_s : s.mem.wf = true) :
    (sendSlot s p h va ok i).mem.wf = true := by
  unfold sendSlot
  grind -ring -linarith -lia -order -ac [sendBack_wf]

theorem takeSlots_wf (acquire : Bool) (s : State) (p : Nat) (g : BitVec 3) (cb k : Nat) (h : Held) (w_s : s.mem.wf = true) :
    (takeSlots acquire s p g cb k h).mem.wf = true := by
  unfold takeSlots
  grind -ring -linarith -lia -order -ac [sendSlot_wf, setBuffer_wf]

theorem queueCopy_wf (s : State) (p i : Nat) (r : CopyReq) (w_s : s.mem.wf = true) :
    (queueCopy s p i r).mem.wf = true := by
  unfold queueCopy
  grind -ring -linarith -lia -order -ac [modPlot_wf]

theorem placeCopy_wf (s : State) (p : Nat) (g : BitVec 3) (cb k first : Nat) (h : Held) (w_s : s.mem.wf = true) :
    (placeCopy s p g cb k first h).mem.wf = true := by
  unfold placeCopy
  grind -ring -linarith -lia -order -ac [modWaiters_wf, queueCopy_wf]

theorem reserveCopy_wf (s : State) (p : Nat) (g : BitVec 3) (cb k : Nat) (h : Held) (w_s : s.mem.wf = true) :
    (reserveCopy s p g cb k h).mem.wf = true := by
  unfold reserveCopy
  grind -ring -linarith -lia -order -ac [setBuffer_wf, placeCopy_wf]

theorem takeMessage_wf (s : State) (p : Nat) (g : BitVec 3) (port : Nat) (h : Held) (w_s : s.mem.wf = true) :
    (takeMessage s p g port h).mem.wf = true := by
  unfold takeMessage
  grind -ring -linarith -lia -order -ac [sendBack_wf, modGroup_wf]

theorem appendMessage_wf (s : State) (q : Nat) (g : BitVec 3) (ipt : Nat) (k : Packet) (w_s : s.mem.wf = true) :
    (appendMessage s q g ipt k).mem.wf = true := by
  unfold appendMessage
  grind -ring -linarith -lia -order -ac [afterSpill_wf, modGroup_wf]

theorem rankTaken_wf (s : State) (q r : Nat) (w_s : s.mem.wf = true) : (rankTaken s q r).mem.wf = true := by
  unfold rankTaken
  grind -ring -linarith -lia -order -ac

theorem performPost_wf (s : State) (p : Nat) (h : Held) (w_s : s.mem.wf = true) :
    (performPost s p h).mem.wf = true := by
  unfold performPost
  grind -ring -linarith -lia -order -ac [appendMessage_wf, sendBack_wf, countEvent_wf, serveEntry_wf, recordEntry_wf]

theorem serveWaiter_wf (s : State) (p : Nat) (w : Waiter) (w_s : s.mem.wf = true) :
    (serveWaiter s p w).mem.wf = true := by
  unfold serveWaiter
  grind -ring -linarith -lia -order -ac [takeSlots_wf, takeMessage_wf, reserveCopy_wf, performPost_wf, giveFrame_wf, sendFrame_wf, queueCopy_wf]

theorem kickWaiters_wf (a0 : Nat) (a1 : State) (a2 : Nat) (w_a1 : a1.mem.wf = true) :
    (kickWaiters a0 a1 a2).mem.wf = true := by
  induction a0 generalizing a1 a2 w_a1 with
  | zero => (unfold kickWaiters; grind -ring -linarith -lia -order -ac [serveWaiter_wf, modWaiters_wf])
  | succ n ih => (unfold kickWaiters; grind -ring -linarith -lia -order -ac [serveWaiter_wf, modWaiters_wf])

theorem kickUnit_wf (s : State) (p : Nat) (w_s : s.mem.wf = true) : (kickUnit s p).mem.wf = true := by
  unfold kickUnit
  grind -ring -linarith -lia -order -ac [kickWaiters_wf]

theorem joinWaiters_wf (s : State) (p : Nat) (g : BitVec 3) (h : Held) (k : WaitKind) (w_s : s.mem.wf = true) :
    (joinWaiters s p g h k).mem.wf = true := by
  unfold joinWaiters
  grind -ring -linarith -lia -order -ac [modUnit_wf, modWaiters_wf]

theorem requestSlots_wf (s : State) (p : Nat) (g : BitVec 3) (h : Held) (k : WaitKind) (w_s : s.mem.wf = true) :
    (requestSlots s p g h k).mem.wf = true := by
  unfold requestSlots
  grind -ring -linarith -lia -order -ac [takeSlots_wf, kickUnit_wf, reserveCopy_wf, joinWaiters_wf]

theorem cbiniResult_wf (cb : BitVec 4) (c : FireCtx) (s : State) (w_s : s.mem.wf = true) :
    ∀ rr, (cbiniResult cb c s) = .ok rr → rr.1.mem.wf = true := by
  intro r hr
  unfold cbiniResult at hr
  (repeat' (first | dsimp only at hr | (obtain ⟨a, ha, hr⟩ := bind_ok_wf hr) | split at hr)) <;> grind -ring -linarith -lia -order -ac [setBuffer_wf]

theorem takeResult_wf (acquire wait : Bool) (cb : BitVec 4) (c : FireCtx) (m : MatchedSet) (s : State) (w_s : s.mem.wf = true) :
    ∀ rr, (takeResult acquire wait cb c m s) = .ok rr → rr.1.mem.wf = true := by
  unfold takeResult
  simp only [bind, Except.bind, pure, Except.pure, require]
  grind -ring -linarith -lia -order -ac [takeSlots_wf, sendSlot_wf, requestSlots_wf]

theorem giveResult_wf (release : Bool) (cb : BitVec 4) (c : FireCtx) (s : State) (w_s : s.mem.wf = true) :
    ∀ rr, (giveResult release cb c s) = .ok rr → rr.1.mem.wf = true := by
  unfold giveResult
  simp only [bind, Except.bind, pure, Except.pure, require]
  grind -ring -linarith -lia -order -ac [kickUnit_wf, setBuffer_wf]

theorem cbstResult_wf (cb : BitVec 4) (c : FireCtx) (s : State) (w_s : s.mem.wf = true) :
    ∀ rr, (cbstResult cb c s) = .ok rr → rr.1.mem.wf = true := by
  unfold cbstResult
  grind -ring -linarith -lia -order -ac

theorem execCbini_wf (h : Head) (cb : BitVec 4) (s : State) (w_s : s.mem.wf = true) :
    ∀ rr, (execCbini h cb s) = .next rr → rr.mem.wf = true := by
  unfold execCbini
  refine throughPort_wf ?_
  refine fireState_wf (by assumption) (fun c u r hu hb => ?_)
  grind -ring -linarith -lia -order -ac [→ fireState_wf, → cbiniResult_wf]

theorem execCbres_wf (h : Head) (wait : Bool) (cb : BitVec 4) (s : State) (w_s : s.mem.wf = true) :
    ∀ rr, (execCbres h wait cb s) = .next rr → rr.mem.wf = true := by
  unfold execCbres
  refine fireHeld_wf (by assumption) (fun c m u r hu hb => ?_)
  grind -ring -linarith -lia -order -ac [→ fireHeld_wf, → takeResult_wf]

theorem execCbcom_wf (h : Head) (cb : BitVec 4) (s : State) (w_s : s.mem.wf = true) :
    ∀ rr, (execCbcom h cb s) = .next rr → rr.mem.wf = true := by
  unfold execCbcom
  refine throughPort_wf ?_
  refine fireState_wf (by assumption) (fun c u r hu hb => ?_)
  grind -ring -linarith -lia -order -ac [→ giveResult_wf, → fireState_wf]

theorem execCbacq_wf (h : Head) (wait : Bool) (cb : BitVec 4) (s : State) (w_s : s.mem.wf = true) :
    ∀ rr, (execCbacq h wait cb s) = .next rr → rr.mem.wf = true := by
  unfold execCbacq
  refine fireHeld_wf (by assumption) (fun c m u r hu hb => ?_)
  grind -ring -linarith -lia -order -ac [→ fireHeld_wf, → takeResult_wf]

theorem execCbrel_wf (h : Head) (cb : BitVec 4) (s : State) (w_s : s.mem.wf = true) :
    ∀ rr, (execCbrel h cb s) = .next rr → rr.mem.wf = true := by
  unfold execCbrel
  refine throughPort_wf ?_
  refine fireState_wf (by assumption) (fun c u r hu hb => ?_)
  grind -ring -linarith -lia -order -ac [→ giveResult_wf, → fireState_wf]

theorem execCbst_wf (h : Head) (cb : BitVec 4) (s : State) (w_s : s.mem.wf = true) :
    ∀ rr, (execCbst h cb s) = .next rr → rr.mem.wf = true := by
  unfold execCbst
  refine throughPort_wf ?_
  refine fireState_wf (by assumption) (fun c u r hu hb => ?_)
  grind -ring -linarith -lia -order -ac [→ cbstResult_wf, → fireState_wf]

theorem frqResult_wf (wait : Bool) (c : FireCtx) (m : MatchedSet) (s : State) (w_s : s.mem.wf = true) :
    ∀ rr, (frqResult wait c m s) = .ok rr → rr.1.mem.wf = true := by
  unfold frqResult
  simp only [bind, Except.bind, pure, Except.pure, require]
  grind -ring -linarith -lia -order -ac [modWaiters_wf, giveFrame_wf, sendFrame_wf]

theorem frlResult_wf (c : FireCtx) (s : State) (w_s : s.mem.wf = true) :
    ∀ rr, (frlResult c s) = .ok rr → rr.1.mem.wf = true := by
  unfold frlResult
  simp only [bind, Except.bind, pure, Except.pure, require]
  grind -ring -linarith -lia -order -ac [kickUnit_wf, modGroup_wf]

theorem execFrq_wf (h : Head) (wait : Bool) (s : State) (w_s : s.mem.wf = true) :
    ∀ rr, (execFrq h wait s) = .next rr → rr.mem.wf = true := by
  unfold execFrq
  refine fireHeld_wf (by assumption) (fun c m u r hu hb => ?_)
  grind -ring -linarith -lia -order -ac [→ fireHeld_wf, → frqResult_wf]

theorem execFrl_wf (h : Head) (s : State) (w_s : s.mem.wf = true) :
    ∀ rr, (execFrl h s) = .next rr → rr.mem.wf = true := by
  unfold execFrl
  refine throughPort_wf ?_
  refine fireState_wf (by assumption) (fun c u r hu hb => ?_)
  grind -ring -linarith -lia -order -ac [→ fireState_wf, → frlResult_wf]

theorem permitAddress_wf (c : FireCtx) (s : State) (w_s : s.mem.wf = true) :
    ∀ rr, (permitAddress c s) = .ok rr → rr.1.mem.wf = true := by
  unfold permitAddress
  simp only [bind, Except.bind, pure, Except.pure, require]
  grind -ring -linarith -lia -order -ac [→ stationTranslate_wf]

theorem setPermitWaiters_wf (s : State) (pa : Nat) (w_s : s.mem.wf = true) :
    (setPermitWaiters s pa).mem.wf = true := by
  unfold setPermitWaiters
  grind -ring -linarith -lia -order -ac [writeWord_wf]

theorem dropOrphans_wf (s : State) (w_s : s.mem.wf = true) : (dropOrphans s).mem.wf = true := by
  unfold dropOrphans
  (try dsimp only)
  (repeat' (first | with_reducible assumption | (with_reducible refine foldl_wf (fun _ _ _ => ?_) _ _ ?_) | split | with_reducible apply setPermitWaiters_wf)) <;> grind -ring -linarith -lia -order -ac [setPermitWaiters_wf]

theorem grantPermit_wf (s : State) (pa : Nat) (w : HomeWaiter) (w_s : s.mem.wf = true) :
    (grantPermit s pa w).mem.wf = true := by
  unfold grantPermit
  grind -ring -linarith -lia -order -ac [sendHeldBack_wf, serveEntry_wf, recordEntry_wf, writeWord_wf]

theorem awaitGrants_wf (s : State) (pa : Nat) (l : List HomeWaiter) (w_s : s.mem.wf = true) :
    (awaitGrants s pa l).mem.wf = true := by
  unfold awaitGrants
  (try dsimp only)
  (repeat' (first | with_reducible assumption | (with_reducible refine foldl_wf (fun _ _ _ => ?_) _ _ ?_) | split | with_reducible apply awaitTurn_wf)) <;> grind -ring -linarith -lia -order -ac [awaitTurn_wf]

theorem kickPermit_wf (s : State) (pa : Nat) (w_s : s.mem.wf = true) : (kickPermit s pa).mem.wf = true := by
  unfold kickPermit
  grind -ring -linarith -lia -order -ac [grantPermit_wf, awaitGrants_wf, dropOrphans_wf]

theorem kickPermits_wf (s : State) (w_s : s.mem.wf = true) : (kickPermits s).mem.wf = true := by
  unfold kickPermits
  (try dsimp only)
  (repeat' (first | with_reducible assumption | (with_reducible refine foldl_wf (fun _ _ _ => ?_) _ _ ?_) | split | with_reducible apply kickPermit_wf | with_reducible apply dropOrphans_wf)) <;> grind -ring -linarith -lia -order -ac [kickPermit_wf, dropOrphans_wf]

theorem pminiResult_wf (c : FireCtx) (s : State) (w_s : s.mem.wf = true) :
    ∀ rr, (pminiResult c s) = .ok rr → rr.1.mem.wf = true := by
  unfold pminiResult
  simp only [bind, Except.bind, pure, Except.pure, require]
  grind -ring -linarith -lia -order -ac [→ permitAddress_wf, writeWord_wf]

theorem joinPermit_wf (s : State) (p : Nat) (h : Held) (va : Word) (pa : Nat) (w_s : s.mem.wf = true) :
    (joinPermit s p h va pa).mem.wf = true := by
  unfold joinPermit
  grind -ring -linarith -lia -order -ac [modUnit_wf, kickPermit_wf, setPermitWaiters_wf]

theorem pmentResult_wf (c : FireCtx) (m : MatchedSet) (s : State) (w_s : s.mem.wf = true) :
    ∀ rr, (pmentResult c m s) = .ok rr → rr.1.mem.wf = true := by
  unfold pmentResult
  simp only [bind, Except.bind, pure, Except.pure, require]
  grind -ring -linarith -lia -order -ac [joinPermit_wf, → permitAddress_wf]

theorem freePermit_wf (s : State) (pa : Nat) (w : Word) (w_s : s.mem.wf = true) :
    (freePermit s pa w).mem.wf = true := by
  unfold freePermit
  grind -ring -linarith -lia -order -ac [writeWord_wf]

theorem pmexResult_wf (c : FireCtx) (s : State) (w_s : s.mem.wf = true) :
    ∀ rr, (pmexResult c s) = .ok rr → rr.1.mem.wf = true := by
  unfold pmexResult
  simp only [bind, Except.bind, pure, Except.pure, require]
  grind -ring -linarith -lia -order -ac [→ permitAddress_wf, kickPermit_wf, freePermit_wf]

theorem permitWalk_wf (c : FireCtx) (w0 : FaultInfo) (s : State) (w_s : s.mem.wf = true) :
    (permitWalk c w0 s).mem.wf = true := by
  unfold permitWalk
  grind -ring -linarith -lia -order -ac [walked_wf]

theorem execPmini_wf (h : Head) (s : State) (w_s : s.mem.wf = true) :
    ∀ rr, (execPmini h s) = .next rr → rr.mem.wf = true := by
  unfold execPmini
  refine throughPort_wf ?_
  refine fireWalks_wf (by assumption) (fun c e u hu => ?_) (fun c m u r hu hb => ?_) <;> grind -ring -linarith -lia -order -ac [→ pminiResult_wf,
        permitWalk_wf]

theorem execPment_wf (h : Head) (s : State) (w_s : s.mem.wf = true) :
    ∀ rr, (execPment h s) = .next rr → rr.mem.wf = true := by
  unfold execPment
  refine fireWalks_wf (by assumption) (fun c e u hu => ?_) (fun c m u r hu hb => ?_) <;> grind -ring -linarith -lia -order -ac [permitWalk_wf,
        → pmentResult_wf]

theorem execPmex_wf (h : Head) (s : State) (w_s : s.mem.wf = true) :
    ∀ rr, (execPmex h s) = .next rr → rr.mem.wf = true := by
  unfold execPmex
  refine throughPort_wf ?_
  refine fireWalks_wf (by assumption) (fun c e u hu => ?_) (fun c m u r hu hb => ?_) <;> grind -ring -linarith -lia -order -ac [permitWalk_wf,
        → pmexResult_wf]

/-! ### Copies -/

theorem copyDone_wf (s : State) (p : Nat) (h : Held) (w_s : s.mem.wf = true) : (copyDone s p h).mem.wf = true := by
  unfold copyDone
  grind -ring -linarith -lia -order -ac [sendBack_wf]

theorem startCopy_wf (s : State) (p : Nat) (h : Held) (form : CopyForm) (scope : Scope) (done empty : Bool) (w_s : s.mem.wf = true) :
    (startCopy s p h form scope done empty).mem.wf = true := by
  unfold startCopy
  grind -ring -linarith -lia -order -ac [copyDone_wf, queueCopy_wf]

theorem cpyResult_wf (done : Bool) (scope : Scope) (c : FireCtx) (m : MatchedSet) (s : State) (w_s : s.mem.wf = true) :
    ∀ rr, (cpyResult done scope c m s) = .ok rr → rr.1.mem.wf = true := by
  intro r hr
  unfold cpyResult at hr
  (repeat' (first | dsimp only at hr | (obtain ⟨a, ha, hr⟩ := bind_ok_wf hr) | split at hr)) <;> grind -ring -linarith -lia -order -ac [startCopy_wf]

theorem cpy2Result_wf (done : Bool) (scope : Scope) (c : FireCtx) (m : MatchedSet) (s : State) (w_s : s.mem.wf = true) :
    ∀ rr, (cpy2Result done scope c m s) = .ok rr → rr.1.mem.wf = true := by
  unfold cpy2Result
  simp only [bind, Except.bind, pure, Except.pure, require]
  grind -ring -linarith -lia -order -ac [startCopy_wf]

theorem cpyqResult_wf (done : Bool) (scope : Scope) (c : FireCtx) (m : MatchedSet) (s : State) (w_s : s.mem.wf = true) :
    ∀ rr, (cpyqResult done scope c m s) = .ok rr → rr.1.mem.wf = true := by
  unfold cpyqResult
  simp only [bind, Except.bind, pure, Except.pure, require]
  grind -ring -linarith -lia -order -ac [startCopy_wf]

theorem cpycbResult_wf (cb : BitVec 4) (c : FireCtx) (m : MatchedSet) (s : State) (w_s : s.mem.wf = true) :
    ∀ rr, (cpycbResult cb c m s) = .ok rr → rr.1.mem.wf = true := by
  unfold cpycbResult
  simp only [bind, Except.bind, pure, Except.pure, require]
  grind -ring -linarith -lia -order -ac [copyDone_wf, requestSlots_wf]

theorem execCpy_wf (h : Head) (done : Bool) (scope : Scope) (s : State) (w_s : s.mem.wf = true) :
    ∀ rr, (execCpy h done scope s) = .next rr → rr.mem.wf = true := by
  unfold execCpy
  refine fireHeld_wf (by assumption) (fun c m u r hu hb => ?_)
  grind -ring -linarith -lia -order -ac [→ fireHeld_wf, → cpyResult_wf]

theorem execCpy2_wf (h : Head) (done : Bool) (scope : Scope) (s : State) (w_s : s.mem.wf = true) :
    ∀ rr, (execCpy2 h done scope s) = .next rr → rr.mem.wf = true := by
  unfold execCpy2
  refine fireHeld_wf (by assumption) (fun c m u r hu hb => ?_)
  grind -ring -linarith -lia -order -ac [→ fireHeld_wf, → cpy2Result_wf]

theorem execCpycb_wf (h : Head) (_done : Bool) (cb : BitVec 4) (s : State) (w_s : s.mem.wf = true) :
    ∀ rr, (execCpycb h _done cb s) = .next rr → rr.mem.wf = true := by
  unfold execCpycb
  refine fireHeld_wf (by assumption) (fun c m u r hu hb => ?_)
  grind -ring -linarith -lia -order -ac [→ fireHeld_wf, → cpycbResult_wf]

theorem execCpyq_wf (h : Head) (done : Bool) (scope : Scope) (s : State) (w_s : s.mem.wf = true) :
    ∀ rr, (execCpyq h done scope s) = .next rr → rr.mem.wf = true := by
  unfold execCpyq
  refine fireHeld_wf (by assumption) (fun c m u r hu hb => ?_)
  grind -ring -linarith -lia -order -ac [→ fireHeld_wf, → cpyqResult_wf]

theorem modQueue_wf (s : State) (p e : Nat) (f : List CopyReq → List CopyReq) (w_s : s.mem.wf = true) :
    (modQueue s p e f).mem.wf = true := by
  unfold modQueue
  grind -ring -linarith -lia -order -ac [modPlot_wf]

theorem putCopy_wf (s : State) (p e : Nat) (r : CopyReq) (w_s : s.mem.wf = true) :
    (putCopy s p e r).mem.wf = true := by
  unfold putCopy
  grind -ring -linarith -lia -order -ac [modQueue_wf]

theorem copyFault_wf (s : State) (p e : Nat) (r : CopyReq) (f : FaultInfo) (w_s : s.mem.wf = true) :
    (copyFault s p e r f).mem.wf = true := by
  unfold copyFault
  grind -ring -linarith -lia -order -ac [deliverFault_wf, dropReads_wf, putCopy_wf, dropFailed_wf]

theorem chunkTargets_wf (s : State) (p : Nat) (c : BitVec 12) (x : CopyPiece) (n : Nat) (w_s : s.mem.wf = true) :
    ∀ rr, (chunkTargets s p c x n) = .ok rr → rr.1.mem.wf = true := by
  unfold chunkTargets
  grind -ring -linarith -lia -order -ac [→ enginePieces_wf]

theorem targetWalk_wf (s : State) (p : Nat) (c : BitVec 12) (x : CopyPiece) (n : Nat) (w_s : s.mem.wf = true) :
    (targetWalk s p c x n).mem.wf = true := by
  unfold targetWalk
  grind -ring -linarith -lia -order -ac [walked_wf]

theorem writeChunk_wf (s : State) (p e : Nat) (r : CopyReq) (x : CopyPiece) (n v : Nat) (w_s : s.mem.wf = true) :
    (writeChunk s p e r x n v).mem.wf = true := by
  unfold writeChunk
  grind -ring -linarith -lia -order -ac [copyFault_wf, targetWalk_wf, → chunkTargets_wf, dropReads_wf, putCopy_wf, requestWrites_wf]

theorem beginChunk_wf (s : State) (p e : Nat) (r : CopyReq) (x : CopyPiece) (w_s : s.mem.wf = true) :
    (beginChunk s p e r x).mem.wf = true := by
  unfold beginChunk
  grind -ring -linarith -lia -order -ac [→ enginePieces_wf, copyFault_wf, walked_wf, writeChunk_wf, targetWalk_wf, → chunkTargets_wf, putCopy_wf,
        requestReads_wf]

theorem beginDescriptor_wf (s : State) (p e : Nat) (r : CopyReq) (va : Word) (seen : Nat) (w_s : s.mem.wf = true) :
    (beginDescriptor s p e r va seen).mem.wf = true := by
  unfold beginDescriptor
  grind -ring -linarith -lia -order -ac [copyFault_wf, → enginePieces_wf, walked_wf, putCopy_wf, requestReads_wf]

theorem takeDescriptor_wf (s : State) (p e : Nat) (r : CopyReq) (w_s : s.mem.wf = true) :
    (takeDescriptor s p e r).mem.wf = true := by
  unfold takeDescriptor
  grind -ring -linarith -lia -order -ac [copyFault_wf, dropReads_wf, putCopy_wf]

theorem finishCopy_wf (s : State) (p e : Nat) (r : CopyReq) (w_s : s.mem.wf = true) :
    (finishCopy s p e r).mem.wf = true := by
  unfold finishCopy
  grind -ring -linarith -lia -order -ac [kickUnit_wf, modQueue_wf, setBuffer_wf, copyDone_wf]

theorem endCopy_wf (s : State) (p e : Nat) (r : CopyReq) (w_s : s.mem.wf = true) :
    (endCopy s p e r).mem.wf = true := by
  unfold endCopy
  grind -ring -linarith -lia -order -ac [copyFault_wf, finishCopy_wf]

theorem walkThen_wf {s : State} {p e : Nat} {r : CopyReq} {l : List (Need × Word)} {f : State → State}
    (hf : ∀ u, u.mem.wf = true → (f u).mem.wf = true) (hs : s.mem.wf = true) : (walkThen s p e r l f).mem.wf = true := by
  unfold walkThen
  split
  · rename_i u h; exact walkWaits_wf _ _ _ _ _ _ hs _ h
  · exact hf _ (walkMet_wf _ _ _ hs)

theorem stepCopy_wf (s : State) (p e : Nat) (w_s : s.mem.wf = true) : (stepCopy s p e).mem.wf = true := by
  unfold stepCopy
  grind -ring -linarith -lia -order -ac [copyFault_wf, writeChunk_wf, takeDescriptor_wf, walkThen_wf, putCopy_wf, endCopy_wf, beginDescriptor_wf,
        beginChunk_wf]

theorem endChunk_wf (s : State) (p e : Nat) (w_s : s.mem.wf = true) : (endChunk s p e).mem.wf = true := by
  unfold endChunk
  grind -ring -linarith -lia -order -ac [putCopy_wf]

theorem execChunkDone_wf (s : State) (w_s : s.mem.wf = true) :
    ∀ rr, (execChunkDone s) = .next rr → rr.mem.wf = true := by
  unfold execChunkDone
  grind -ring -linarith -lia -order -ac [endChunk_wf]

theorem resendRefused_wf (s : State) (p : Nat) (a : Access) (w_s : s.mem.wf = true) :
    (resendRefused s p a).mem.wf = true := by
  unfold resendRefused
  grind -ring -linarith -lia -order -ac [putAccess_wf, sendParts_wf]

theorem refusedFault_wf (s : State) (p : Nat) (h : Held) (e : FaultInfo) (w_s : s.mem.wf = true) :
    (refusedFault s p h e).mem.wf = true := by
  unfold refusedFault
  grind -ring -linarith -lia -order -ac [deliverFault_wf, modCopy_wf]

theorem resendPermit_wf (s : State) (p : Nat) (h : Held) (va : Word) (w_s : s.mem.wf = true) :
    (resendPermit s p h va).mem.wf = true := by
  unfold resendPermit
  grind -ring -linarith -lia -order -ac [walked_wf, → engineTranslate_wf, refusedFault_wf, joinPermit_wf]

/-! ### Matrix -/

theorem passTrigger_wf (s : State) (p : Nat) (h : Held) (port : Nat) (w_s : s.mem.wf = true) :
    (passTrigger s p h port).mem.wf = true := by
  unfold passTrigger
  grind -ring -linarith -lia -order -ac [sendAll_wf]

theorem rowFault_wf (s : State) (p : Nat) (b : BlockId) (slot : BitVec 7) (x : Row) (e : FaultInfo) (w_s : s.mem.wf = true) :
    (rowFault s p b slot x e).mem.wf = true := by
  unfold rowFault
  grind -ring -linarith -lia -order -ac [deliverFault_wf]

theorem takeRow_wf (s : State) (p : Nat) (b : BlockId) (slot : BitVec 7) (w_s : s.mem.wf = true) :
    (takeRow s p b slot).mem.wf = true := by
  unfold takeRow
  grind -ring -linarith -lia -order -ac [modTile_wf]

theorem pullWeight_wf (s : State) (p : Nat) (b : BlockId) (slot : BitVec 7) (w : Bool) (x : Row) (w_s : s.mem.wf = true) :
    ∀ rr, (pullWeight s p b slot w x) = some rr → rr.mem.wf = true := by
  unfold pullWeight
  grind -ring -linarith -lia -order -ac [modTile_wf, takeRow_wf, rowFault_wf]

theorem pullRepeat_wf (s : State) (p : Nat) (b : BlockId) (slot : BitVec 7) (x : Row) (w_s : s.mem.wf = true) :
    ∀ rr, (pullRepeat s p b slot x) = some rr → rr.mem.wf = true := by
  unfold pullRepeat
  grind -ring -linarith -lia -order -ac [modTile_wf, takeRow_wf]

theorem pullOne_wf (s : State) (p : Nat) (b : BlockId) (slot : BitVec 7) (w_s : s.mem.wf = true) :
    ∀ rr, (pullOne s p b slot) = some rr → rr.mem.wf = true := by
  unfold pullOne
  grind -ring -linarith -lia -order -ac [→ pullRepeat_wf, → pullWeight_wf]

theorem pullRows_wf (a0 : Nat) (a1 : State) (a2 : Nat) (a3 : BlockId) (a4 : BitVec 7) (w_a1 : a1.mem.wf = true) :
    (pullRows a0 a1 a2 a3 a4).mem.wf = true := by
  induction a0 generalizing a1 a2 a3 a4 w_a1 with
  | zero => (unfold pullRows; grind -ring -linarith -lia -order -ac [→ pullOne_wf])
  | succ n ih => (unfold pullRows; grind -ring -linarith -lia -order -ac [→ pullOne_wf])

theorem pullPort_wf (s : State) (p : Nat) (b : BlockId) (slot : BitVec 7) (w_s : s.mem.wf = true) :
    (pullPort s p b slot).mem.wf = true := by
  unfold pullPort
  grind -ring -linarith -lia -order -ac [pullRows_wf]

theorem pullAll_wf (s : State) (p : Nat) (b : BlockId) (w_s : s.mem.wf = true) : (pullAll s p b).mem.wf = true := by
  unfold pullAll
  (try dsimp only)
  (repeat' (first | with_reducible assumption | (with_reducible refine foldl_wf (fun _ _ _ => ?_) _ _ ?_) | split | with_reducible apply pullPort_wf)) <;> grind -ring -linarith -lia -order -ac [pullPort_wf]

theorem tryLatch_wf (s : State) (p : Nat) (b : BlockId) (l : SlotChange) (w_s : s.mem.wf = true) :
    (tryLatch s p b l).mem.wf = true := by
  unfold tryLatch
  grind -ring -linarith -lia -order -ac [modTile_wf, pullAll_wf, passTrigger_wf]

theorem tryLatches_wf (s : State) (p : Nat) (b : BlockId) (w_s : s.mem.wf = true) :
    (tryLatches s p b).mem.wf = true := by
  unfold tryLatches
  (try dsimp only)
  (repeat' (first | with_reducible assumption | (with_reducible refine foldl_wf (fun _ _ _ => ?_) _ _ ?_) | split | with_reducible apply tryLatch_wf)) <;> grind -ring -linarith -lia -order -ac [tryLatch_wf]

theorem mwldResult_wf (w : Bool) (c : FireCtx) (m : MatchedSet) (s : State) (w_s : s.mem.wf = true) :
    ∀ rr, (mwldResult w c m s) = .ok rr → rr.1.mem.wf = true := by
  unfold mwldResult
  grind -ring -linarith -lia -order -ac [modTile_wf, tryLatches_wf]

theorem execMwld_wf (h : Head) (w : Bool) (s : State) (w_s : s.mem.wf = true) :
    ∀ rr, (execMwld h w s) = .next rr → rr.mem.wf = true := by
  unfold execMwld
  refine fireHeld_wf (by assumption) (fun c m u r hu hb => ?_)
  grind -ring -linarith -lia -order -ac [→ fireHeld_wf, → mwldResult_wf]

theorem mwswResult_wf (w : Bool) (c : FireCtx) (m : MatchedSet) (s : State) (w_s : s.mem.wf = true) :
    ∀ rr, (mwswResult w c m s) = .ok rr → rr.1.mem.wf = true := by
  unfold mwswResult
  grind -ring -linarith -lia -order -ac [modTile_wf, passTrigger_wf]

theorem execMwsw_wf (h : Head) (w : Bool) (s : State) (w_s : s.mem.wf = true) :
    ∀ rr, (execMwsw h w s) = .next rr → rr.mem.wf = true := by
  unfold execMwsw
  refine fireHeld_wf (by assumption) (fun c m u r hu hb => ?_)
  grind -ring -linarith -lia -order -ac [→ fireHeld_wf, → mwswResult_wf]

theorem execRowBoundarySwitch_wf (s : State) (w_s : s.mem.wf = true) :
    ∀ rr, (execRowBoundarySwitch s) = .next rr → rr.mem.wf = true := by
  unfold execRowBoundarySwitch
  grind -ring -linarith -lia -order -ac [modTile_wf, passTrigger_wf, tryLatches_wf]

theorem execPushWritten_wf (s : State) (w_s : s.mem.wf = true) :
    ∀ rr, (execPushWritten s) = .next rr → rr.mem.wf = true := by
  unfold execPushWritten
  grind -ring -linarith -lia -order -ac [modTile_wf, tryLatches_wf]

theorem execMma_wf (_h : Head) (_nrM1 : BitVec 6) (a : BitVec 3) (s : State) (w_s : s.mem.wf = true) :
    ∀ rr, (execMma _h _nrM1 a s) = .next rr → rr.mem.wf = true := by
  unfold execMma
  grind -ring -linarith -lia -order -ac [countRow_wf, modTile_wf, takeRow_wf, rowFault_wf]

theorem execRowResultWritten_wf (s : State) (w_s : s.mem.wf = true) :
    ∀ rr, (execRowResultWritten s) = .next rr → rr.mem.wf = true := by
  unfold execRowResultWritten
  grind -ring -linarith -lia -order -ac [modTile_wf, sendAll_wf, tryLatches_wf]

theorem execRowArrival_wf (s : State) (w_s : s.mem.wf = true) :
    ∀ rr, (execRowArrival s) = .next rr → rr.mem.wf = true := by
  unfold execRowArrival
  grind -ring -linarith -lia -order -ac [modTile_wf, pullPort_wf, tryLatches_wf]

theorem mgatResult_wf (ft : BitVec 5) (c : FireCtx) (m : MatchedSet) (s : State) (w_s : s.mem.wf = true) :
    ∀ rr, (mgatResult ft c m s) = .ok rr → rr.1.mem.wf = true := by
  unfold mgatResult
  simp only [bind, Except.bind, pure, Except.pure, require]
  grind -ring -linarith -lia -order -ac [modTile_wf]

theorem execMgat_wf (h : Head) (ft : BitVec 5) (s : State) (w_s : s.mem.wf = true) :
    ∀ rr, (execMgat h ft s) = .next rr → rr.mem.wf = true := by
  unfold execMgat
  refine fireHeld_wf (by assumption) (fun c m u r hu hb => ?_)
  grind -ring -linarith -lia -order -ac [→ fireHeld_wf, → mgatResult_wf]

theorem stepGather_wf (s : State) (p tile : Nat) (w_s : s.mem.wf = true) : (stepGather s p tile).mem.wf = true := by
  unfold stepGather
  grind -ring -linarith -lia -order -ac [modTile_wf, requestReads_wf]

theorem execGatherRowSent_wf (s : State) (w_s : s.mem.wf = true) :
    ∀ rr, (execGatherRowSent s) = .next rr → rr.mem.wf = true := by
  unfold execGatherRowSent
  grind -ring -linarith -lia -order -ac [sendRow_wf, modTile_wf, dropReads_wf]

theorem sendPasses_wf (s : State) (p : Nat) (j : RepJob) (w_s : s.mem.wf = true) :
    (sendPasses s p j).mem.wf = true := by
  unfold sendPasses
  grind -ring -linarith -lia -order -ac [sendAll_wf]

theorem mrepResult_wf (c : FireCtx) (m : MatchedSet) (s : State) (w_s : s.mem.wf = true) :
    ∀ rr, (mrepResult c m s) = .ok rr → rr.1.mem.wf = true := by
  unfold mrepResult
  simp only [bind, Except.bind, pure, Except.pure, require]
  grind -ring -linarith -lia -order -ac [modTile_wf, sendPasses_wf]

theorem execMrep_wf (h : Head) (_pace : Bool) (s : State) (w_s : s.mem.wf = true) :
    ∀ rr, (execMrep h _pace s) = .next rr → rr.mem.wf = true := by
  unfold execMrep
  refine fireHeld_wf (by assumption) (fun c m u r hu hb => ?_)
  grind -ring -linarith -lia -order -ac [→ fireHeld_wf, → mrepResult_wf]

theorem passRows_wf (s : State) (p n : Nat) (r : Repeat) (j : RepJob) (rows : List Row) (pace : Bool) (w_s : s.mem.wf = true) :
    (passRows s p n r j rows pace).mem.wf = true := by
  unfold passRows
  grind -ring -linarith -lia -order -ac [sendRow_wf, modTile_wf, sendPasses_wf]

theorem execMrepPass_wf (s : State) (w_s : s.mem.wf = true) :
    ∀ rr, (execMrepPass s) = .next rr → rr.mem.wf = true := by
  unfold execMrepPass
  grind -ring -linarith -lia -order -ac [modTile_wf, passRows_wf, pullPort_wf]

theorem sendFilled_wf (s : State) (p : Nat) (f : Filler) (w_s : s.mem.wf = true) :
    (sendFilled s p f).mem.wf = true := by
  unfold sendFilled
  grind -ring -linarith -lia -order -ac [sendHeld_wf]

theorem mfilResult_wf (c : FireCtx) (m : MatchedSet) (s : State) (w_s : s.mem.wf = true) :
    ∀ rr, (mfilResult c m s) = .ok rr → rr.1.mem.wf = true := by
  unfold mfilResult
  simp only [bind, Except.bind, pure, Except.pure, require]
  grind -ring -linarith -lia -order -ac [modTile_wf, sendFilled_wf]

theorem execMfil_wf (h : Head) (s : State) (w_s : s.mem.wf = true) :
    ∀ rr, (execMfil h s) = .next rr → rr.mem.wf = true := by
  unfold execMfil
  refine fireHeld_wf (by assumption) (fun c m u r hu hb => ?_)
  grind -ring -linarith -lia -order -ac [→ fireHeld_wf, → mfilResult_wf]

theorem execFillerRow_wf (s : State) (w_s : s.mem.wf = true) :
    ∀ rr, (execFillerRow s) = .next rr → rr.mem.wf = true := by
  unfold execFillerRow
  grind -ring -linarith -lia -order -ac [modTile_wf, sendFilled_wf]

theorem execWad_wf (h : Head) (ft : BitVec 5) (s : State) (w_s : s.mem.wf = true) :
    ∀ rr, (execWad h ft s) = .next rr → rr.mem.wf = true := by
  unfold execWad
  grind -ring -linarith -lia -order -ac [sendRow_wf, takeRow_wf, rowFault_wf]

/-! ### Accumulator -/

theorem putAcc_wf (s : State) (p tile a : Nat) (x : Acc) (w_s : s.mem.wf = true) :
    (putAcc s p tile a x).mem.wf = true := by
  unfold putAcc
  grind -ring -linarith -lia -order -ac [modTile_wf]

theorem putOwn_wf (s : State) (c : FireCtx) (a : BitVec 3) (x : Acc) (w_s : s.mem.wf = true) :
    (putOwn s c a x).mem.wf = true := by
  unfold putOwn
  grind -ring -linarith -lia -order -ac [putAcc_wf]

theorem status_wf (c : FireCtx) (s : State) (n : Nat) (w_s : s.mem.wf = true) : (status c s n).1.mem.wf = true := by
  unfold status
  grind -ring -linarith -lia -order -ac

theorem snapChain_wf (s : State) (p : Nat) (b : BlockId) (slot : BitVec 7) (w_s : s.mem.wf = true) :
    (snapChain s p b slot).mem.wf = true := by
  unfold snapChain
  grind -ring -linarith -lia -order -ac [setChain_wf]

theorem mclrResult_wf (a : BitVec 3) (c : FireCtx) (m : MatchedSet) (s : State) (hs : s.mem.wf = true) :
    ∀ r, mclrResult a c m s = .ok r → r.1.mem.wf = true := by
  intro r hr
  cases hr
  exact passTrigger_wf _ _ _ _ (foldl_wf (fun _ _ h => snapChain_wf _ _ _ _ h) _ _ (putOwn_wf _ _ _ _ hs))

theorem execMclr_wf (h : Head) (a : BitVec 3) (s : State) (w_s : s.mem.wf = true) :
    ∀ rr, (execMclr h a s) = .next rr → rr.mem.wf = true := by
  unfold execMclr
  refine fireHeld_wf (by assumption) (fun c m u r hu hb => ?_)
  grind -ring -linarith -lia -order -ac [→ fireHeld_wf, → mclrResult_wf]

theorem mwrResult_wf (cls : RunCls) (a : BitVec 3) (c : FireCtx) (m : MatchedSet) (s : State) (w_s : s.mem.wf = true) :
    ∀ rr, (mwrResult cls a c m s) = .ok rr → rr.1.mem.wf = true := by
  unfold mwrResult
  simp only [bind, Except.bind, pure, Except.pure, require]
  grind -ring -linarith -lia -order -ac [modTile_wf, putOwn_wf, status_wf, requestReads_wf]

theorem execMwr_wf (h : Head) (cls : RunCls) (a : BitVec 3) (s : State) (w_s : s.mem.wf = true) :
    ∀ rr, (execMwr h cls a s) = .next rr → rr.mem.wf = true := by
  unfold execMwr
  refine fireHeld_wf (by assumption) (fun c m u r hu hb => ?_)
  grind -ring -linarith -lia -order -ac [→ mwrResult_wf, → fireHeld_wf]

theorem mchkResult_wf (a : BitVec 3) (c : FireCtx) (m : MatchedSet) (s : State) (w_s : s.mem.wf = true) :
    ∀ rr, (mchkResult a c m s) = .ok rr → rr.1.mem.wf = true := by
  unfold mchkResult
  grind -ring -linarith -lia -order -ac [putOwn_wf, status_wf]

theorem execMchk_wf (h : Head) (a : BitVec 3) (s : State) (w_s : s.mem.wf = true) :
    ∀ rr, (execMchk h a s) = .next rr → rr.mem.wf = true := by
  unfold execMchk
  refine fireHeld_wf (by assumption) (fun c m u r hu hb => ?_)
  grind -ring -linarith -lia -order -ac [→ fireHeld_wf, → mchkResult_wf]

theorem drainTranslate_wf (s : State) (p : Nat) (ctx : BitVec 12) (addr pitch : Word) (n : Nat) (hs : s.mem.wf = true) :
    ∀ r, drainTranslate s p ctx addr pitch n = .ok r → r.mem.wf = true :=
  foldlM_wf (fun _ _ _ h => translateRange_wf _ _ _ _ _ _ h _) _ _ hs

theorem drainWalk_wf (s : State) (p : Nat) (ctx : BitVec 12) (addr pitch : Word) (n : Nat) (w_s : s.mem.wf = true) :
    (drainWalk s p ctx addr pitch n).mem.wf = true := by
  unfold drainWalk
  grind -ring -linarith -lia -order -ac [walked_wf]

theorem mdrnResult_wf (done : Bool) (sh : Bool) (outf : OutFmt) (a : BitVec 3) (c : FireCtx) (m : MatchedSet) (s : State) (w_s : s.mem.wf = true) :
    ∀ rr, (mdrnResult done sh outf a c m s) = .ok rr → rr.1.mem.wf = true := by
  unfold mdrnResult
  simp only [bind, Except.bind, pure, Except.pure, require]
  grind -ring -linarith -lia -order -ac [putOwn_wf, → drainTranslate_wf]

theorem mdrnWalk_wf (outf : OutFmt) (c : FireCtx) (e : FaultInfo) (s : State) (w_s : s.mem.wf = true) :
    (mdrnWalk outf c e s).mem.wf = true := by
  unfold mdrnWalk
  grind -ring -linarith -lia -order -ac [drainWalk_wf]

theorem execMdrn_wf (h : Head) (_scope : Scope) (done : Bool) (_rm : Rnd) (sh : Bool) (outf : OutFmt) (a : BitVec 3) (s : State) (w_s : s.mem.wf = true) :
    ∀ rr, (execMdrn h _scope done _rm sh outf a s) = .next rr → rr.mem.wf = true := by
  unfold execMdrn
  refine fireWalks_wf (by assumption) (fun c e u hu => ?_) (fun c m u r hu hb => ?_) <;> grind -ring -linarith -lia -order -ac [mdrnWalk_wf,
        → mdrnResult_wf]

theorem failCheck_wf (s : State) (p : Nat) (h : Held) (e : FaultInfo) (w_s : s.mem.wf = true) :
    (failCheck s p h e).mem.wf = true := by
  unfold failCheck
  grind -ring -linarith -lia -order -ac [deliverFault_wf, modCopy_wf]

theorem endFaulty_wf (s : State) (p n m : Nat) (x : Acc) (k : Check) (st : AccState) (l : Option Located) (e : FaultInfo) (code : Nat) (w_s : s.mem.wf = true) :
    (endFaulty s p n m x k st l e code).mem.wf = true := by
  unfold endFaulty
  grind -ring -linarith -lia -order -ac [putAcc_wf, failCheck_wf, sendHeld_wf]

theorem endClean_wf (s : State) (p n m : Nat) (x : Acc) (k : Check) (w_s : s.mem.wf = true) :
    (endClean s p n m x k).mem.wf = true := by
  unfold endClean
  grind -ring -linarith -lia -order -ac [putAcc_wf, drainWalk_wf, failCheck_wf, → drainTranslate_wf, sendHeld_wf]

theorem endComparison_wf (s : State) (p n m : Nat) (x : Acc) (k : Check) (bad : Bool) (w_s : s.mem.wf = true) :
    (endComparison s p n m x k bad).mem.wf = true := by
  unfold endComparison
  grind -ring -linarith -lia -order -ac [endClean_wf, endFaulty_wf]

theorem execComparisonEnd_wf (s : State) (w_s : s.mem.wf = true) :
    ∀ rr, (execComparisonEnd s) = .next rr → rr.mem.wf = true := by
  unfold execComparisonEnd
  grind -ring -linarith -lia -order -ac [endComparison_wf]

theorem drainPieces_wf (s : State) (p : Nat) (ctx : BitVec 12) (addr pitch : Word) (n : Nat) (hs : s.mem.wf = true) :
    ∀ r, drainPieces s p ctx addr pitch n = .ok r → r.1.mem.wf = true := by
  unfold drainPieces
  refine foldlM_fst_wf (fun x a r hx hr => ?_) _ _ hs
  obtain ⟨y, hy, hr⟩ := bind_ok_wf hr
  cases hr
  exact enginePieces_wf _ _ _ _ _ _ hx y hy

theorem drainFails_wf (s : State) (p n m : Nat) (x : Acc) (h : Held) (st : AccState) (e : FaultInfo) (w_s : s.mem.wf = true) :
    (drainFails s p n m x h st e).mem.wf = true := by
  unfold drainFails
  grind -ring -linarith -lia -order -ac [putAcc_wf, failCheck_wf]

theorem beginDrain_wf (s : State) (p n m : Nat) (w_s : s.mem.wf = true) : (beginDrain s p n m).mem.wf = true := by
  unfold beginDrain
  grind -ring -linarith -lia -order -ac [putAcc_wf, drainFails_wf, drainWalk_wf, requestWrites_wf, → drainPieces_wf]

theorem drainDone_wf (s : State) (p n o : Nat) (h : Held) (sc : Scope) (w_s : s.mem.wf = true) :
    (drainDone s p n o h sc).mem.wf = true := by
  unfold drainDone
  grind -ring -linarith -lia -order -ac [modTile_wf, copyDone_wf]

theorem endDrain_wf (s : State) (p n m : Nat) (x : Acc) (k : Check) (o : Nat) (w_s : s.mem.wf = true) :
    (endDrain s p n m x k o).mem.wf = true := by
  unfold endDrain
  grind -ring -linarith -lia -order -ac [drainDone_wf, putAcc_wf, sendAll_wf]

theorem endWrite_wf (s : State) (p n m : Nat) (j : TileJob) (a : BitVec 3) (f k : Nat) (w_s : s.mem.wf = true) :
    (endWrite s p n m j a f k).mem.wf = true := by
  unfold endWrite
  grind -ring -linarith -lia -order -ac [putAcc_wf, modTile_wf, dropReads_wf, sendHeld_wf]

theorem endJob_wf (s : State) (p n m : Nat) (w_s : s.mem.wf = true) : (endJob s p n m).mem.wf = true := by
  unfold endJob
  grind -ring -linarith -lia -order -ac [dropFailed_wf, deliverFault_wf, modTile_wf, copyDone_wf, endWrite_wf, sendHeld_wf]

theorem execDrainPerformed_wf (s : State) (w_s : s.mem.wf = true) :
    ∀ rr, (execDrainPerformed s) = .next rr → rr.mem.wf = true := by
  unfold execDrainPerformed
  grind -ring -linarith -lia -order -ac [endDrain_wf]

theorem accError_wf (s : State) (p n m : Nat) (w_s : s.mem.wf = true) : (accError s p n m).mem.wf = true := by
  unfold accError
  grind -ring -linarith -lia -order -ac [putAcc_wf, modPlot_wf]

theorem storeRows_wf (s : State) (c : FireCtx) (m : MatchedSet) (x : Acc) (rm : Rnd) (sh : Bool) (outf : OutFmt) (offs : List Nat) (w_s : s.mem.wf = true) :
    (storeRows s c m x rm sh outf offs).mem.wf = true := by
  unfold storeRows
  grind -ring -linarith -lia -order -ac [modTile_wf, requestWrites_wf]

theorem mstResult_wf (rm : Rnd) (sh : Bool) (outf : OutFmt) (a : BitVec 3) (c : FireCtx) (m : MatchedSet) (s : State) (w_s : s.mem.wf = true) :
    ∀ rr, (mstResult rm sh outf a c m s) = .ok rr → rr.1.mem.wf = true := by
  unfold mstResult
  simp only [bind, Except.bind, pure, Except.pure, require]
  grind -ring -linarith -lia -order -ac [storeRows_wf, status_wf]

theorem execMst_wf (h : Head) (rm : Rnd) (sh : Bool) (outf : OutFmt) (a : BitVec 3) (s : State) (w_s : s.mem.wf = true) :
    ∀ rr, (execMst h rm sh outf a s) = .next rr → rr.mem.wf = true := by
  unfold execMst
  refine fireHeld_wf (by assumption) (fun c m u r hu hb => ?_)
  grind -ring -linarith -lia -order -ac [→ fireHeld_wf, → mstResult_wf]

theorem mlocResult_wf (c : FireCtx) (s : State) (w_s : s.mem.wf = true) :
    ∀ rr, (mlocResult c s) = .ok rr → rr.1.mem.wf = true := by
  unfold mlocResult
  simp only [bind, Except.bind, pure, Except.pure, require]
  grind -ring -linarith -lia -order -ac

theorem execMloc_wf (h : Head) (s : State) (w_s : s.mem.wf = true) :
    ∀ rr, (execMloc h s) = .next rr → rr.mem.wf = true := by
  unfold execMloc
  refine fireState_wf (by assumption) (fun c u r hu hb => ?_)
  grind -ring -linarith -lia -order -ac [→ fireState_wf, → mlocResult_wf]

theorem mfixResult_wf (c : FireCtx) (m : MatchedSet) (s : State) (w_s : s.mem.wf = true) :
    ∀ rr, (mfixResult c m s) = .ok rr → rr.1.mem.wf = true := by
  intro r hr
  unfold mfixResult at hr
  (repeat' (first | dsimp only at hr | (obtain ⟨a, ha, hr⟩ := bind_ok_wf hr) | split at hr)) <;> grind -ring -linarith -lia -order -ac [putAcc_wf,
        status_wf]

theorem execMfix_wf (h : Head) (s : State) (w_s : s.mem.wf = true) :
    ∀ rr, (execMfix h s) = .next rr → rr.mem.wf = true := by
  unfold execMfix
  refine fireHeld_wf (by assumption) (fun c m u r hu hb => ?_)
  grind -ring -linarith -lia -order -ac [→ fireHeld_wf, → mfixResult_wf]

theorem serveChannels_wf (s : State) (p : Nat) (w_s : s.mem.wf = true) : (serveChannels s p).mem.wf = true := by
  unfold serveChannels
  (try dsimp only)
  (repeat' (first | with_reducible assumption | (with_reducible refine foldl_wf (fun _ _ _ => ?_) _ _ ?_) | split | with_reducible apply workChannel_wf)) <;> grind -ring -linarith -lia -order -ac [workChannel_wf]

theorem dropBars_wf (gone : BarWaiter → Bool) (s : State) (p : Nat) (g : BitVec 3) (w_s : s.mem.wf = true) :
    (dropBars gone s p g).mem.wf = true := by
  unfold dropBars
  grind -ring -linarith -lia -order -ac [modUnit_wf, modGroup_wf]

theorem squash_wf (s : State) (p : Nat) (b : BlockId) (x : Acc) (w_s : s.mem.wf = true) :
    (squash s p b x).mem.wf = true := by
  unfold squash
  grind -ring -linarith -lia -order -ac [modUnit_wf, modTile_wf, serveChannels_wf, modCopy_wf, modAccesses_wf, modGroup_wf, dropBars_wf]

theorem retryRun_wf (s : State) (p : Nat) (b : BlockId) (h : Handle) (x : Acc) (w_s : s.mem.wf = true) :
    (retryRun s p b h x).mem.wf = true := by
  unfold retryRun
  (try dsimp only)
  (repeat' (first | with_reducible assumption | (with_reducible refine foldl_wf (fun _ _ _ => ?_) _ _ ?_) | split | with_reducible apply putAcc_wf | with_reducible apply modTile_wf | with_reducible apply pullAll_wf | with_reducible apply squash_wf | with_reducible apply rewindChain_wf | with_reducible apply tryLatches_wf)) <;> grind -ring -linarith -lia -order -ac [putAcc_wf, modTile_wf, pullAll_wf, squash_wf, rewindChain_wf, tryLatches_wf]

theorem mrtyResult_wf (c : FireCtx) (s : State) (w_s : s.mem.wf = true) :
    ∀ rr, (mrtyResult c s) = .ok rr → rr.1.mem.wf = true := by
  unfold mrtyResult
  simp only [bind, Except.bind, pure, Except.pure, require]
  grind -ring -linarith -lia -order -ac [retryRun_wf, status_wf]

theorem execMrty_wf (h : Head) (s : State) (w_s : s.mem.wf = true) :
    ∀ rr, (execMrty h s) = .next rr → rr.mem.wf = true := by
  unfold execMrty
  refine fireState_wf (by assumption) (fun c u r hu hb => ?_)
  grind -ring -linarith -lia -order -ac [→ mrtyResult_wf, → fireState_wf]

theorem mrdResult_wf (sel : MrdSel) (c : FireCtx) (s : State) (w_s : s.mem.wf = true) :
    ∀ rr, (mrdResult sel c s) = .ok rr → rr.1.mem.wf = true := by
  intro r hr
  unfold mrdResult at hr
  (repeat' (first | dsimp only at hr | (obtain ⟨a, ha, hr⟩ := bind_ok_wf hr) | split at hr)) <;> grind -ring -linarith -lia -order -ac [status_wf]

theorem execMrd_wf (h : Head) (sel : MrdSel) (s : State) (w_s : s.mem.wf = true) :
    ∀ rr, (execMrd h sel s) = .next rr → rr.mem.wf = true := by
  unfold execMrd
  refine fireState_wf (by assumption) (fun c u r hu hb => ?_)
  grind -ring -linarith -lia -order -ac [→ mrdResult_wf, → fireState_wf]

theorem mtolResult_wf (k : TolCls) (c : FireCtx) (s : State) (w_s : s.mem.wf = true) :
    ∀ rr, (mtolResult k c s) = .ok rr → rr.1.mem.wf = true := by
  unfold mtolResult
  simp only [bind, Except.bind, pure, Except.pure, require]
  grind -ring -linarith -lia -order -ac [addWrite_wf]

theorem execMtol_wf (h : Head) (k : TolCls) (s : State) (w_s : s.mem.wf = true) :
    ∀ rr, (execMtol h k s) = .next rr → rr.mem.wf = true := by
  unfold execMtol
  refine fireState_wf (by assumption) (fun c u r hu hb => ?_)
  grind -ring -linarith -lia -order -ac [→ mtolResult_wf, → fireState_wf]

/-! ### Groups -/

theorem grexResult_wf (op : GrexOp) (c : FireCtx) (s : State) (w_s : s.mem.wf = true) :
    ∀ rr, (grexResult op c s) = .ok rr → rr.1.mem.wf = true := by
  unfold grexResult
  simp only [bind, Except.bind, pure, Except.pure, require]
  grind -ring -linarith -lia -order -ac [modGroup_wf]

theorem execGrex_wf (h : Head) (op : GrexOp) (s : State) (w_s : s.mem.wf = true) :
    ∀ rr, (execGrex h op s) = .next rr → rr.mem.wf = true := by
  unfold execGrex
  refine throughPort_wf ?_
  refine fireState_wf (by assumption) (fun c u r hu hb => ?_)
  grind -ring -linarith -lia -order -ac [→ fireState_wf, → grexResult_wf]

theorem postResult_wf (c : FireCtx) (m : MatchedSet) (s : State) (w_s : s.mem.wf = true) :
    ∀ rr, (postResult c m s) = .ok rr → rr.1.mem.wf = true := by
  unfold postResult
  simp only [bind, Except.bind, pure, Except.pure, require]
  grind -ring -linarith -lia -order -ac [kickUnit_wf, performPost_wf, modWaiters_wf, awaitTurn_wf]

theorem execPost_wf (h : Head) (_done : Bool) (_ipt : BitVec 2) (s : State) (w_s : s.mem.wf = true) :
    ∀ rr, (execPost h _done _ipt s) = .next rr → rr.mem.wf = true := by
  unfold execPost
  refine fireHeld_wf (by assumption) (fun c m u r hu hb => ?_)
  grind -ring -linarith -lia -order -ac [→ fireHeld_wf, → postResult_wf]

theorem recvResult_wf (wait : Bool) (ipt : BitVec 2) (c : FireCtx) (m : MatchedSet) (s : State) (w_s : s.mem.wf = true) :
    ∀ rr, (recvResult wait ipt c m s) = .ok rr → rr.1.mem.wf = true := by
  unfold recvResult
  grind -ring -linarith -lia -order -ac [takeMessage_wf, joinWaiters_wf]

theorem execRecv_wf (h : Head) (wait : Bool) (ipt : BitVec 2) (s : State) (w_s : s.mem.wf = true) :
    ∀ rr, (execRecv h wait ipt s) = .next rr → rr.mem.wf = true := by
  unfold execRecv
  refine throughPort_wf ?_
  refine fireHeld_wf (by assumption) (fun c m u r hu hb => ?_)
  grind -ring -linarith -lia -order -ac [→ fireHeld_wf, → recvResult_wf]

theorem execPortSpillReturn_wf (s : State) (w_s : s.mem.wf = true) :
    ∀ rr, (execPortSpillReturn s) = .next rr → rr.mem.wf = true := by
  unfold execPortSpillReturn
  grind -ring -linarith -lia -order -ac [kickUnit_wf, modGroup_wf]

theorem setBarrier_wf (s : State) (p : Nat) (g : BitVec 3) (b : Nat) (x : Barrier) (w_s : s.mem.wf = true) :
    (setBarrier s p g b x).mem.wf = true := by
  unfold setBarrier
  grind -ring -linarith -lia -order -ac [modGroup_wf]

theorem sendSignal_wf (s : State) (p : Nat) (g : BitVec 3) (b : Nat) (phase : Bool) (w_s : s.mem.wf = true) :
    (sendSignal s p g b phase).mem.wf = true := by
  unfold sendSignal
  grind -ring -linarith -lia -order -ac [modUnit_wf]

theorem holdBar_wf (s : State) (p : Nat) (h : Held) (g : BitVec 3) (b : Nat) (phase : Bool) (w_s : s.mem.wf = true) :
    (holdBar s p h g b phase).mem.wf = true := by
  unfold holdBar
  grind -ring -linarith -lia -order -ac [modUnit_wf, setBarrier_wf, afterSpill_wf, countEvent_wf]

theorem barResult_wf (wait : Bool) (b : BitVec 4) (c : FireCtx) (m : MatchedSet) (s : State) (w_s : s.mem.wf = true) :
    ∀ rr, (barResult wait b c m s) = .ok rr → rr.1.mem.wf = true := by
  unfold barResult
  simp only [bind, Except.bind, pure, Except.pure, require]
  grind -ring -linarith -lia -order -ac [setBarrier_wf, sendSignal_wf, holdBar_wf]

theorem execBar_wf (h : Head) (wait : Bool) (b : BitVec 4) (s : State) (w_s : s.mem.wf = true) :
    ∀ rr, (execBar h wait b s) = .next rr → rr.mem.wf = true := by
  unfold execBar
  refine throughPort_wf ?_
  refine fireHeld_wf (by assumption) (fun c m u r hu hb => ?_)
  grind -ring -linarith -lia -order -ac [→ fireHeld_wf, → barResult_wf]

theorem bariResult_wf (b : BitVec 4) (c : FireCtx) (s : State) (w_s : s.mem.wf = true) :
    ∀ rr, (bariResult b c s) = .ok rr → rr.1.mem.wf = true := by
  unfold bariResult
  simp only [bind, Except.bind, pure, Except.pure, require]
  grind -ring -linarith -lia -order -ac [setBarrier_wf]

theorem execBari_wf (h : Head) (b : BitVec 4) (s : State) (w_s : s.mem.wf = true) :
    ∀ rr, (execBari h b s) = .next rr → rr.mem.wf = true := by
  unfold execBari
  refine throughPort_wf ?_
  refine fireState_wf (by assumption) (fun c u r hu hb => ?_)
  grind -ring -linarith -lia -order -ac [→ fireState_wf, → bariResult_wf]

theorem barqResult_wf (b : BitVec 4) (c : FireCtx) (s : State) (w_s : s.mem.wf = true) :
    ∀ rr, (barqResult b c s) = .ok rr → rr.1.mem.wf = true := by
  unfold barqResult
  grind -ring -linarith -lia -order -ac

theorem execBarq_wf (h : Head) (b : BitVec 4) (s : State) (w_s : s.mem.wf = true) :
    ∀ rr, (execBarq h b s) = .next rr → rr.mem.wf = true := by
  unfold execBarq
  refine throughPort_wf ?_
  refine fireState_wf (by assumption) (fun c u r hu hb => ?_)
  grind -ring -linarith -lia -order -ac [→ barqResult_wf, → fireState_wf]

theorem execCompletionSignal_wf (s : State) (hs : s.mem.wf = true) : ∀ r, execCompletionSignal s = .next r → r.mem.wf = true := by
  intro r hr
  unfold execCompletionSignal at hr
  split at hr
  · dsimp only at hr
    split at hr
    · cases hr
      exact foldl_wf (fun _ _ h => sendHeldBack_wf _ _ _ _ h) _ _ (setBarrier_wf _ _ _ _ _ (modUnit_wf _ _ _ hs))
    · cases hr; exact hs
  · cases hr; exact hs

theorem resendSlots_wf (s : State) (p : Nat) (g : BitVec 3) (h : Held) (cb k : Nat) (w : WaitKind) (w_s : s.mem.wf = true) :
    (resendSlots s p g h cb k w).mem.wf = true := by
  unfold resendSlots
  grind -ring -linarith -lia -order -ac [requestSlots_wf, refusedFault_wf]

theorem resendUnit_wf (s : State) (p : Nat) (r : Refused) (w_s : s.mem.wf = true) :
    (resendUnit s p r).mem.wf = true := by
  unfold resendUnit
  grind -ring -linarith -lia -order -ac [takeMessage_wf, resendSlots_wf, resendPermit_wf, joinWaiters_wf]

theorem execWaiterRefusalRetry_wf (s : State) (w_s : s.mem.wf = true) :
    ∀ rr, (execWaiterRefusalRetry s) = .next rr → rr.mem.wf = true := by
  unfold execWaiterRefusalRetry
  grind -ring -linarith -lia -order -ac [modUnit_wf, resendUnit_wf, resendRefused_wf, rankTaken_wf]

end Sys2Proof.Machine
end

