-- ==== Sys2Proof/Laws/FormDevice.lean ====
section
/-! SUPPORT. The memory keeps its canonical form: kernels, queues, the loader, contexts, furrows and links.
For an operation `f`, `f_wf` says that the state it answers has a memory in canonical form when the state it was given has
one. -/
namespace Sys2Proof.Machine
-- One theorem after another: in parallel each would hold a thread and its stack.
set_option Elab.async false
set_option linter.unusedSimpArgs false
set_option linter.unusedVariables false

/-! ### Kernel -/

theorem writeState_wf (s : State) (c : BitVec 12) (w_s : s.mem.wf = true) : (writeState s c).mem.wf = true := by
  unfold writeState
  grind -ring -linarith -lia -order -ac [modCtx_wf, writeWord_wf]

theorem startRunning_wf (s : State) (c : BitVec 12) (w_s : s.mem.wf = true) : (startRunning s c).mem.wf = true := by
  unfold startRunning
  grind -ring -linarith -lia -order -ac [writeState_wf, modCtx_wf]

theorem recSet_wf (s : State) (pa w lo n v : Nat) (w_s : s.mem.wf = true) : (recSet s pa w lo n v).mem.wf = true := by
  unfold recSet
  grind -ring -linarith -lia -order -ac [writeWord_wf]

theorem setRecState_wf (s : State) (pa n : Nat) (w_s : s.mem.wf = true) : (setRecState s pa n).mem.wf = true := by
  unfold setRecState
  grind -ring -linarith -lia -order -ac [recSet_wf]

theorem setRecDep_wf (s : State) (pa n : Nat) (w_s : s.mem.wf = true) : (setRecDep s pa n).mem.wf = true := by
  unfold setRecDep
  grind -ring -linarith -lia -order -ac [recSet_wf]

theorem setRecChild_wf (s : State) (pa n : Nat) (w_s : s.mem.wf = true) : (setRecChild s pa n).mem.wf = true := by
  unfold setRecChild
  grind -ring -linarith -lia -order -ac [recSet_wf]

theorem setRecCause_wf (s : State) (pa n : Nat) (w_s : s.mem.wf = true) : (setRecCause s pa n).mem.wf = true := by
  unfold setRecCause
  grind -ring -linarith -lia -order -ac [recSet_wf]

theorem modLevel_wf (s : State) (l : Nat) (f : List ReadyEntry → List ReadyEntry) (w_s : s.mem.wf = true) :
    (modLevel s l f).mem.wf = true := by
  unfold modLevel
  grind -ring -linarith -lia -order -ac

theorem makeReady_wf (s : State) (pa : Nat) (w_s : s.mem.wf = true) : (makeReady s pa).mem.wf = true := by
  unfold makeReady
  grind -ring -linarith -lia -order -ac [modLevel_wf, setRecState_wf]

theorem decrementDep_wf (s : State) (pa : Nat) (w_s : s.mem.wf = true) : (decrementDep s pa).1.mem.wf = true := by
  unfold decrementDep
  grind -ring -linarith -lia -order -ac [makeReady_wf, setRecDep_wf]

theorem queueMessage_wf (s : State) (q : Nat) (w_s : s.mem.wf = true) : (queueMessage s q).mem.wf = true := by
  unfold queueMessage
  grind -ring -linarith -lia -order -ac

theorem releaseSuccessors_wf (s : State) (pa : Nat) (w_s : s.mem.wf = true) :
    (releaseSuccessors s pa).mem.wf = true := by
  unfold releaseSuccessors
  (try dsimp only)
  (repeat' (first | with_reducible assumption | (with_reducible refine foldl_wf (fun _ _ _ => ?_) _ _ ?_) | split | with_reducible apply decrementDep_wf)) <;> grind -ring -linarith -lia -order -ac [decrementDep_wf]

theorem sendMessage_wf (s : State) (a0 : Option Nat) (w_s : s.mem.wf = true) : (sendMessage s a0).mem.wf = true := by
  unfold sendMessage
  grind -ring -linarith -lia -order -ac [queueMessage_wf]

theorem tellParent_wf (s : State) (pa : Nat) (faulted : Bool) (message : Option Nat) (w_s : s.mem.wf = true) :
    (tellParent s pa faulted message).mem.wf = true := by
  unfold tellParent
  grind -ring -linarith -lia -order -ac [sendMessage_wf]

theorem modKernel_wf (s : State) (pa : Nat) (f : KernelRef → KernelRef) (w_s : s.mem.wf = true) :
    (modKernel s pa f).mem.wf = true := by
  unfold modKernel
  grind -ring -linarith -lia -order -ac

theorem dropKernel_wf (s : State) (pa : Nat) (w_s : s.mem.wf = true) : (dropKernel s pa).mem.wf = true := by
  unfold dropKernel
  grind -ring -linarith -lia -order -ac

theorem writeCompletion_wf (s : State) (k : KernelRef) (status cause : Nat) (w_s : s.mem.wf = true) :
    ∀ rr, (writeCompletion s k status cause) = some rr → rr.mem.wf = true := by
  unfold writeCompletion
  grind -ring -linarith -lia -order -ac [→ enginePieces_wf, status_wf, writePieces_wf]

theorem endKernel_wf (s : State) (k : KernelRef) (status : Nat) (w_s : s.mem.wf = true) :
    (endKernel s k status).mem.wf = true := by
  unfold endKernel
  grind -ring -linarith -lia -order -ac [status_wf, tellParent_wf, releaseSuccessors_wf, dropKernel_wf, dropFailed_wf]

theorem advanceFinish_wf (s : State) (pa : Nat) (w_s : s.mem.wf = true) : (advanceFinish s pa).mem.wf = true := by
  unfold advanceFinish
  grind -ring -linarith -lia -order -ac [endKernel_wf, status_wf, → writeCompletion_wf, modKernel_wf]

theorem finishKernel_wf (s : State) (k : KernelRef) (status cause : Nat) (w_s : s.mem.wf = true) :
    (finishKernel s k status cause).mem.wf = true := by
  unfold finishKernel
  grind -ring -linarith -lia -order -ac [setRecState_wf, advanceFinish_wf, status_wf, modKernel_wf]

theorem checkKernel_wf (s : State) (pa : Nat) (w_s : s.mem.wf = true) : (checkKernel s pa).mem.wf = true := by
  unfold checkKernel
  grind -ring -linarith -lia -order -ac [setRecState_wf, finishKernel_wf, modKernel_wf]

theorem execChildCompletion_wf (s : State) (w_s : s.mem.wf = true) :
    ∀ rr, (execChildCompletion s) = .next rr → rr.mem.wf = true := by
  unfold execChildCompletion
  grind -ring -linarith -lia -order -ac [checkKernel_wf, sendMessage_wf, setRecChild_wf]

theorem settleDoubled_wf (s : State) (w_s : s.mem.wf = true) : (settleDoubled s).mem.wf = true := by
  unfold settleDoubled
  (try dsimp only)
  (repeat' (first | with_reducible assumption | (with_reducible refine foldl_wf (fun _ _ _ => ?_) _ _ ?_) | split | with_reducible apply finishKernel_wf | with_reducible apply setRecCause_wf)) <;> grind -ring -linarith -lia -order -ac [finishKernel_wf, setRecCause_wf]

theorem settleKernels_wf (s : State) (w_s : s.mem.wf = true) : (settleKernels s).mem.wf = true := by
  unfold settleKernels
  (try dsimp only)
  (repeat' (first | with_reducible assumption | (with_reducible refine foldl_wf (fun _ _ _ => ?_) _ _ ?_) | split | with_reducible apply checkKernel_wf | with_reducible apply modKernel_wf | with_reducible apply advanceFinish_wf)) <;> grind -ring -linarith -lia -order -ac [checkKernel_wf, modKernel_wf, advanceFinish_wf]

theorem kernelInfo_wf (s : State) (p : Nat) (c : BitVec 12) (kobj : Word) (kidx : Nat) (w_s : s.mem.wf = true) :
    ∀ rr, (kernelInfo s p c kobj kidx) = .ok rr → rr.1.mem.wf = true := by
  unfold kernelInfo
  simp only [bind, Except.bind, pure, Except.pure, require]
  grind -ring -linarith -lia -order -ac [→ virtualRead_wf]

theorem kernelWalk_wf (s : State) (p : Nat) (c : BitVec 12) (kobj : Word) (kidx : Nat) (w_s : s.mem.wf = true) :
    (kernelWalk s p c kobj kidx).mem.wf = true := by
  unfold kernelWalk
  grind -ring -linarith -lia -order -ac [walked_wf, → virtualRead_wf]

theorem countPlaced_wf (s : State) (e : ReadyEntry) (w_s : s.mem.wf = true) : (countPlaced s e).mem.wf = true := by
  unfold countPlaced
  grind -ring -linarith -lia -order -ac [modLevel_wf, setRecState_wf, recSet_wf]

theorem placeGroup_wf (s : State) (x : Placing) (w_s : s.mem.wf = true) : (placeGroup s x).mem.wf = true := by
  unfold placeGroup
  grind -ring -linarith -lia -order -ac [modUnit_wf, fullStore_wf, startRunning_wf, countPlaced_wf, modPlot_wf]

theorem execGroupPlacement_wf (s : State) (w_s : s.mem.wf = true) :
    ∀ rr, (execGroupPlacement s) = .next rr → rr.mem.wf = true := by
  unfold execGroupPlacement
  grind -ring -linarith -lia -order -ac [placeGroup_wf]

theorem execDispatchToken_wf (s : State) (w_s : s.mem.wf = true) :
    ∀ rr, (execDispatchToken s) = .next rr → rr.mem.wf = true := by
  unfold execDispatchToken
  grind -ring -linarith -lia -order -ac [sendEntry_wf, countEvent_wf, modGroup_wf]

theorem execQuiescence_wf (s : State) (w_s : s.mem.wf = true) :
    ∀ rr, (execQuiescence s) = .next rr → rr.mem.wf = true := by
  unfold execQuiescence
  grind -ring -linarith -lia -order -ac [modGroup_wf]

theorem handStores_wf (s : State) (p : Nat) (g : BitVec 3) (pa : Nat) (w_s : s.mem.wf = true) :
    (handStores s p g pa).mem.wf = true := by
  unfold handStores
  grind -ring -linarith -lia -order -ac [modKernel_wf]

theorem ackKernels_wf (s : State) (peer port : Nat) (seq : BitVec 32) (w_s : s.mem.wf = true) :
    (ackKernels s peer port seq).mem.wf = true := by
  unfold ackKernels
  grind -ring -linarith -lia -order -ac

theorem countRetired_wf (s : State) (x : Group) (w_s : s.mem.wf = true) : (countRetired s x).mem.wf = true := by
  unfold countRetired
  grind -ring -linarith -lia -order -ac [checkKernel_wf, setRecCause_wf, recSet_wf]

theorem retireGroup_wf (s : State) (p : Nat) (g : BitVec 3) (x : Group) (w_s : s.mem.wf = true) :
    (retireGroup s p g x).mem.wf = true := by
  unfold retireGroup
  grind -ring -linarith -lia -order -ac [countEvent_wf, kickUnit_wf, dropObject_wf, countRetired_wf, handStores_wf, modPlot_wf]

theorem execGroupRetired_wf (s : State) (w_s : s.mem.wf = true) :
    ∀ rr, (execGroupRetired s) = .next rr → rr.mem.wf = true := by
  unfold execGroupRetired
  grind -ring -linarith -lia -order -ac [retireGroup_wf, dropOrphans_wf]

theorem recordAddress_wf (c : FireCtx) (s : State) (va : Word) (k : Nat) (w_s : s.mem.wf = true) :
    ∀ rr, (recordAddress c s va k) = .ok rr → rr.1.mem.wf = true := by
  unfold recordAddress
  simp only [bind, Except.bind, pure, Except.pure, require]
  grind -ring -linarith -lia -order -ac [→ stationTranslate_wf]

theorem namedRecord_wf (c : FireCtx) (s : State) (va : Word) (w_s : s.mem.wf = true) :
    ∀ rr, (namedRecord c s va) = .ok rr → rr.1.mem.wf = true := by
  unfold namedRecord
  simp only [bind, Except.bind, pure, Except.pure, require]
  grind -ring -linarith -lia -order -ac [→ recordAddress_wf]

theorem recordWalk_wf (c : FireCtx) (s : State) (va : Word) (k : Nat) (w_s : s.mem.wf = true) :
    (recordWalk c s va k).mem.wf = true := by
  unfold recordWalk
  grind -ring -linarith -lia -order -ac [walked_wf]

theorem addChild_wf (s : State) (pa : Nat) (w_s : s.mem.wf = true) : (addChild s pa).mem.wf = true := by
  unfold addChild
  grind -ring -linarith -lia -order -ac [setRecChild_wf]

theorem sowResult_wf (c : FireCtx) (s : State) (hs : s.mem.wf = true) : ∀ r, sowResult c s = .ok r → r.1.mem.wf = true := by
  intro r hr
  unfold sowResult at hr
  obtain ⟨_, _, hr⟩ := bind_ok_wf hr
  obtain ⟨⟨s1, pa⟩, h1, hr⟩ := bind_ok_wf hr
  have w1 := recordAddress_wf _ _ _ _ hs _ h1
  obtain ⟨⟨s2, rec_⟩, h2, hr⟩ := bind_ok_wf hr
  have w2 := recordAddress_wf _ _ _ _ w1 _ h2
  obtain ⟨_, _, hr⟩ := bind_ok_wf hr
  split at hr
  · cases hr; exact w2
  · split at hr
    · cases hr; exact w2
    · obtain ⟨_, _, hr⟩ := bind_ok_wf hr
      cases hr
      exact engineWrite_wf _ _ _ _ (writeWords_wf _ _ _ (addChild_wf _ _ w2))

theorem sowWalk_wf (c : FireCtx) (w0 : FaultInfo) (s : State) (w_s : s.mem.wf = true) :
    (sowWalk c w0 s).mem.wf = true := by
  unfold sowWalk
  grind -ring -linarith -lia -order -ac [→ recordAddress_wf, recordWalk_wf]

theorem execSow_wf (h : Head) (s : State) (hs : s.mem.wf = true) : ∀ r, execSow h s = .next r → r.mem.wf = true :=
  throughPort_wf (fireWalks_wf hs sowWalk_wf (fun c _ u r hu hb => sowResult_wf c u hu r hb))

theorem kdepResult_wf (c : FireCtx) (s : State) (hs : s.mem.wf = true) : ∀ r, kdepResult c s = .ok r → r.1.mem.wf = true := by
  intro r hr
  unfold kdepResult at hr
  obtain ⟨_, _, hr⟩ := bind_ok_wf hr
  obtain ⟨_, _, hr⟩ := bind_ok_wf hr
  obtain ⟨⟨s1, pred⟩, h1, hr⟩ := bind_ok_wf hr
  have w1 := namedRecord_wf _ _ _ hs _ h1
  obtain ⟨⟨s2, succ⟩, h2, hr⟩ := bind_ok_wf hr
  have w2 := namedRecord_wf _ _ _ w1 _ h2
  dsimp only at hr
  split at hr
  · cases hr; exact w2
  · split at hr
    · cases hr; exact w2
    · split at hr
      · cases hr; exact w2
      · cases hr; exact writeWord_wf _ _ _ (setRecDep_wf _ _ _ w2)

theorem kdepWalk_wf (c : FireCtx) (w0 : FaultInfo) (s : State) (w_s : s.mem.wf = true) :
    (kdepWalk c w0 s).mem.wf = true := by
  unfold kdepWalk
  grind -ring -linarith -lia -order -ac [→ namedRecord_wf, recordWalk_wf]

theorem execKdep_wf (h : Head) (s : State) (hs : s.mem.wf = true) : ∀ r, execKdep h s = .next r → r.mem.wf = true :=
  throughPort_wf (fireWalks_wf hs kdepWalk_wf (fun c _ u r hu hb => kdepResult_wf c u hu r hb))

theorem kdecResult_wf (c : FireCtx) (s : State) (w_s : s.mem.wf = true) :
    ∀ rr, (kdecResult c s) = .ok rr → rr.1.mem.wf = true := by
  unfold kdecResult
  simp only [bind, Except.bind, pure, Except.pure, require]
  grind -ring -linarith -lia -order -ac [→ namedRecord_wf, decrementDep_wf]

theorem kdecWalk_wf (c : FireCtx) (w0 : FaultInfo) (s : State) (w_s : s.mem.wf = true) :
    (kdecWalk c w0 s).mem.wf = true := by
  unfold kdecWalk
  grind -ring -linarith -lia -order -ac [recordWalk_wf]

theorem execKdec_wf (h : Head) (s : State) (hs : s.mem.wf = true) : ∀ r, execKdec h s = .next r → r.mem.wf = true :=
  throughPort_wf (fireWalks_wf hs kdecWalk_wf (fun c _ u r hu hb => kdecResult_wf c u hu r hb))

/-! ### Queues -/

theorem setQueue_wf (s : State) (q : Nat) (x : Queue) (w_s : s.mem.wf = true) : (setQueue s q x).mem.wf = true := by
  unfold setQueue
  grind -ring -linarith -lia -order -ac

theorem writeDesc_wf (s : State) (q : Nat) (w_s : s.mem.wf = true) : (writeDesc s q).mem.wf = true := by
  unfold writeDesc
  grind -ring -linarith -lia -order -ac [writeWord_wf]

theorem putQueue_wf (s : State) (q : Nat) (x : Queue) (w_s : s.mem.wf = true) : (putQueue s q x).mem.wf = true := by
  unfold putQueue
  grind -ring -linarith -lia -order -ac [setQueue_wf, writeDesc_wf]

theorem queueError_wf (s : State) (q : Nat) (code : BitVec 8) (w_s : s.mem.wf = true) :
    (queueError s q code).mem.wf = true := by
  unfold queueError
  grind -ring -linarith -lia -order -ac [putQueue_wf, queueMessage_wf]

theorem armQueue_wf (s : State) (q : Nat) (w_s : s.mem.wf = true) : (armQueue s q).mem.wf = true := by
  unfold armQueue
  grind -ring -linarith -lia -order -ac [putQueue_wf, setQueue_wf, queueError_wf]

theorem enableQueue_wf (s : State) (q : Nat) (w_s : s.mem.wf = true) : (enableQueue s q).mem.wf = true := by
  unfold enableQueue
  grind -ring -linarith -lia -order -ac [armQueue_wf]

theorem clearQueue_wf (s : State) (q : Nat) (w_s : s.mem.wf = true) : (clearQueue s q).mem.wf = true := by
  unfold clearQueue
  grind -ring -linarith -lia -order -ac [armQueue_wf]

theorem disableQueue_wf (s : State) (q : Nat) (w_s : s.mem.wf = true) : (disableQueue s q).mem.wf = true := by
  unfold disableQueue
  grind -ring -linarith -lia -order -ac [putQueue_wf, setQueue_wf]

theorem writeQcmd_wf (s : State) (die : Nat) (v : Word) (w_s : s.mem.wf = true) :
    (writeQcmd s die v).mem.wf = true := by
  unfold writeQcmd
  grind -ring -linarith -lia -order -ac [disableQueue_wf, clearQueue_wf, enableQueue_wf]

theorem qcmdEvent_wf (op : Nat) (s : State) (w_s : s.mem.wf = true) :
    ∀ rr, (qcmdEvent op s) = .next rr → rr.mem.wf = true := by
  unfold qcmdEvent
  grind -ring -linarith -lia -order -ac [writeQcmd_wf]

theorem execEnable_wf (s : State) (w_s : s.mem.wf = true) : ∀ rr, (execEnable s) = .next rr → rr.mem.wf = true := by
  unfold execEnable
  grind -ring -linarith -lia -order -ac [→ qcmdEvent_wf]

theorem execDisable_wf (s : State) (w_s : s.mem.wf = true) : ∀ rr, (execDisable s) = .next rr → rr.mem.wf = true := by
  unfold execDisable
  grind -ring -linarith -lia -order -ac [→ qcmdEvent_wf]

theorem execClear_wf (s : State) (w_s : s.mem.wf = true) : ∀ rr, (execClear s) = .next rr → rr.mem.wf = true := by
  unfold execClear
  grind -ring -linarith -lia -order -ac [→ qcmdEvent_wf]

theorem kickQueue_wf (s : State) (q : Nat) (w_s : s.mem.wf = true) : (kickQueue s q).mem.wf = true := by
  unfold kickQueue
  grind -ring -linarith -lia -order -ac [setQueue_wf]

theorem watchQueue_wf (s : State) (q : Nat) (w_s : s.mem.wf = true) : (watchQueue s q).mem.wf = true := by
  unfold watchQueue
  grind -ring -linarith -lia -order -ac [setQueue_wf]

theorem backoffQueue_wf (s : State) (q : Nat) (w_s : s.mem.wf = true) : (backoffQueue s q).mem.wf = true := by
  unfold backoffQueue
  grind -ring -linarith -lia -order -ac [setQueue_wf]

theorem execKick_wf (s : State) (w_s : s.mem.wf = true) : ∀ rr, (execKick s) = .next rr → rr.mem.wf = true := by
  unfold execKick
  grind -ring -linarith -lia -order -ac [kickQueue_wf]

theorem execWatchWake_wf (s : State) (w_s : s.mem.wf = true) :
    ∀ rr, (execWatchWake s) = .next rr → rr.mem.wf = true := by
  unfold execWatchWake
  grind -ring -linarith -lia -order -ac [watchQueue_wf]

theorem execBackoffExpiry_wf (s : State) (w_s : s.mem.wf = true) :
    ∀ rr, (execBackoffExpiry s) = .next rr → rr.mem.wf = true := by
  unfold execBackoffExpiry
  grind -ring -linarith -lia -order -ac [backoffQueue_wf]

theorem nextSlot_wf (s : State) (q : Nat) (w_s : s.mem.wf = true) : (nextSlot s q).mem.wf = true := by
  unfold nextSlot
  grind -ring -linarith -lia -order -ac [putQueue_wf]

theorem readRing_wf (s : State) (q : Nat) (x : Queue) (o n : Nat) (w_s : s.mem.wf = true) :
    ∀ rr, (readRing s q x o n) = .ok rr → rr.1.mem.wf = true := by
  unfold readRing
  grind -ring -linarith -lia -order -ac [→ virtualRead_wf, → engineTranslate_wf, Mem.setByte_wf, Mem.write_wf, Mem.setFull_wf, Mem.addEmpty_wf,
        Mem.setEmpty_wf, Mem.marks_wf, Mem.clearMarks_wf, Mem.setLine_wf]

theorem ringWalk_wf (s : State) (q : Nat) (x : Queue) (o n : Nat) (w_s : s.mem.wf = true) :
    (ringWalk s q x o n).mem.wf = true := by
  unfold ringWalk
  grind -ring -linarith -lia -order -ac [walked_wf]

theorem takeHeader_wf (s : State) (q : Nat) (x : Queue) (line : Option Nat) (h : Word) (w_s : s.mem.wf = true) :
    (takeHeader s q x line h).mem.wf = true := by
  unfold takeHeader
  grind -ring -linarith -lia -order -ac [putQueue_wf]

theorem queueWalks_wf {s : State} {q : Nat} {c : BitVec 12} {l : List (Need × Word)} {f : State → State}
    (hf : ∀ u, u.mem.wf = true → (f u).mem.wf = true) (hs : s.mem.wf = true) : (queueWalks s q c l f).mem.wf = true := by
  unfold queueWalks
  split
  · rename_i u h; exact walkWaits_wf _ _ _ _ _ _ hs _ h
  · exact hf _ (walkMet_wf _ _ _ hs)

theorem keepRingLine_wf (s : State) (a0 : Option Nat) (w_s : s.mem.wf = true) :
    (keepRingLine s a0).mem.wf = true := by
  unfold keepRingLine
  grind -ring -linarith -lia -order -ac [ownHostLine_wf, l2Touch_wf]

theorem readHeader_wf (q : Nat) (x : Queue) (s : State) (w_s : s.mem.wf = true) :
    (readHeader q x s).mem.wf = true := by
  unfold readHeader
  grind -ring -linarith -lia -order -ac [ringWalk_wf, queueError_wf, keepRingLine_wf, takeHeader_wf, dropPeer_wf, → readRing_wf]

theorem execHeaderRead_wf (s : State) (hs : s.mem.wf = true) : ∀ r, execHeaderRead s = .next r → r.mem.wf = true := by
  intro r hr
  unfold execHeaderRead at hr
  split at hr
  · dsimp only at hr
    split at hr
    · split at hr
      · cases hr; exact takeHeader_wf _ _ _ _ _ hs
      · cases hr; exact takeHeader_wf _ _ _ _ _ hs
      · cases hr; exact queueWalks_wf (readHeader_wf _ _) hs
    · cases hr; exact hs
  · cases hr; exact hs

theorem buildRecord_wf (s : State) (q : Nat) (x : Queue) (ws : List Word) (pa : Nat) (w_s : s.mem.wf = true) :
    (buildRecord s q x ws pa).mem.wf = true := by
  unfold buildRecord
  grind -ring -linarith -lia -order -ac [writeWords_wf, makeReady_wf]

theorem launchKernel_wf (s : State) (q : Nat) (x : Queue) (ws : List Word) (w_s : s.mem.wf = true) :
    ∀ rr, (launchKernel s q x ws) = .ok rr → rr.mem.wf = true := by
  unfold launchKernel
  grind -ring -linarith -lia -order -ac [→ kernelInfo_wf, buildRecord_wf, → engineTranslate_wf]

theorem launchWalk_wf (s : State) (q : Nat) (x : Queue) (ws : List Word) (w_s : s.mem.wf = true) :
    (launchWalk s q x ws).mem.wf = true := by
  unfold launchWalk
  grind -ring -linarith -lia -order -ac [walked_wf, kernelWalk_wf, → kernelInfo_wf]

theorem slotPieces_wf (s : State) (q : Nat) (x : Queue) (w_s : s.mem.wf = true) :
    ∀ rr, (slotPieces s q x) = .ok rr → rr.1.mem.wf = true := by
  unfold slotPieces
  grind -ring -linarith -lia -order -ac [→ enginePieces_wf]

theorem packetDone_wf (s : State) (q : Nat) (x : Queue) (entry : Option RecEntry) (w_s : s.mem.wf = true) :
    (packetDone s q x entry).mem.wf = true := by
  unfold packetDone
  grind -ring -linarith -lia -order -ac [putQueue_wf, serveEntry_wf, → slotPieces_wf, writePieces_wf]

theorem consumePacket_wf (s : State) (q : Nat) (x : Queue) (ws : List Word) (entry : Option RecEntry) (w_s : s.mem.wf = true) :
    (consumePacket s q x ws entry).mem.wf = true := by
  unfold consumePacket
  grind -ring -linarith -lia -order -ac [walked_wf, packetDone_wf, queueMessage_wf, queueError_wf, launchWalk_wf, → launchKernel_wf]

theorem awaitRecord_wf (s : State) (q : Nat) (x : Queue) (w_s : s.mem.wf = true) :
    (awaitRecord s q x).mem.wf = true := by
  unfold awaitRecord
  grind -ring -linarith -lia -order -ac [askDrain_wf, putQueue_wf]

theorem readBody_wf (q : Nat) (x : Queue) (s : State) (w_s : s.mem.wf = true) : (readBody q x s).mem.wf = true := by
  unfold readBody
  grind -ring -linarith -lia -order -ac [awaitRecord_wf, ringWalk_wf, consumePacket_wf, queueError_wf, recordEntry_wf, queueWalks_wf, → readRing_wf]

theorem execPacketConsume_wf (s : State) (hs : s.mem.wf = true) : ∀ r, execPacketConsume s = .next r → r.mem.wf = true := by
  intro r hr
  unfold execPacketConsume at hr
  split at hr
  · dsimp only at hr
    split at hr
    · split at hr
      · cases hr; exact queueWalks_wf (fun _ hu => consumePacket_wf _ _ _ _ _ hu) hs
      · cases hr; exact hs
      · cases hr; exact queueWalks_wf (readBody_wf _ _) hs
    · cases hr; exact hs
  · cases hr; exact hs

/-! ### Loader -/

theorem writeObreq_wf (s : State) (v : Word) (w_s : s.mem.wf = true) : (writeObreq s v).mem.wf = true := by
  unfold writeObreq
  grind -ring -linarith -lia -order -ac

theorem writeResult_wf (s : State) (pa code step secver : Nat) (w_s : s.mem.wf = true) :
    (writeResult s pa code step secver).mem.wf = true := by
  unfold writeResult
  grind -ring -linarith -lia -order -ac [engineWrite_wf]

theorem endRequest_wf (s : State) (pa : Nat) (digest : Nat) (code step secver : Nat) (w_s : s.mem.wf = true) :
    (endRequest s pa digest code step secver).mem.wf = true := by
  unfold endRequest
  grind -ring -linarith -lia -order -ac [writeResult_wf, engineWrite_wf]

theorem execObreqWrite_wf (s : State) (w_s : s.mem.wf = true) :
    ∀ rr, (execObreqWrite s) = .next rr → rr.mem.wf = true := by
  unfold execObreqWrite
  grind -ring -linarith -lia -order -ac [writeObreq_wf]

theorem execLoadBusy_wf (s : State) (w_s : s.mem.wf = true) :
    ∀ rr, (execLoadBusy s) = .next rr → rr.mem.wf = true := by
  unfold execLoadBusy
  grind -ring -linarith -lia -order -ac [writeResult_wf]

theorem dropCache_wf (s : State) (e : CacheEntry) (w_s : s.mem.wf = true) : (dropCache s e).mem.wf = true := by
  unfold dropCache
  grind -ring -linarith -lia -order -ac

theorem freshTranslation_wf (s : State) (c : BitVec 12) (o version : Nat) (noCache : Bool) (v : List Nat) (w_s : s.mem.wf = true) :
    ∀ rr, (freshTranslation s c o version noCache v) = .ok rr → rr.1.mem.wf = true := by
  unfold freshTranslation
  grind -ring -linarith -lia -order -ac

theorem dropStale_wf (s : State) (o version : Nat) (noTrans : Bool) (err : Nat) (w_s : s.mem.wf = true) :
    (dropStale s o version noTrans err).mem.wf = true := by
  unfold dropStale
  grind -ring -linarith -lia -order -ac [dropCache_wf]

theorem selectFull_wf (s : State) (c : BitVec 12) (o version : Nat) (noTrans noCache : Bool) (v : List Nat) (w_s : s.mem.wf = true) :
    ∀ rr, (selectFull s c o version noTrans noCache v) = .ok rr → rr.1.mem.wf = true := by
  unfold selectFull
  grind -ring -linarith -lia -order -ac [→ freshTranslation_wf]

theorem discardCopies_wf (s : State) (c : BitVec 12) (kobj : Word) (p : Nat) (w_s : s.mem.wf = true) :
    (discardCopies s c kobj p).mem.wf = true := by
  unfold discardCopies
  (try dsimp only)
  (repeat' (first | with_reducible assumption | (with_reducible refine foldl_wf (fun _ _ _ => ?_) _ _ ?_) | split | with_reducible apply modBlocks_wf | with_reducible apply freeTile_wf)) <;> grind -ring -linarith -lia -order -ac [modBlocks_wf, freeTile_wf]

theorem discardObject_wf (s : State) (c : BitVec 12) (kobj : Word) (w_s : s.mem.wf = true) :
    (discardObject s c kobj).mem.wf = true := by
  unfold discardObject
  (try dsimp only)
  (repeat' (first | with_reducible assumption | (with_reducible refine foldl_wf (fun _ _ _ => ?_) _ _ ?_) | split | with_reducible apply discardCopies_wf | with_reducible apply modCtx_wf)) <;> grind -ring -linarith -lia -order -ac [discardCopies_wf, modCtx_wf]

theorem writeImage_wf (s : State) (c : BitVec 12) (kobj : Word) (x : Selected) (src : Option Nat) (hs : s.mem.wf = true) :
    (writeImage s c kobj x src).1.mem.wf = true := by
  have hw := fun k a n v => virtualWriteFrom_wf .area k s 32 c a n v hs
  unfold writeImage
  dsimp only
  split
  · rename_i n _
    cases h : virtualWriteFrom .area (n / 4096 + 2) s 32 c (kobj + 4) (n - 4) (loadImage x / 256 ^ 4) with
    | error e => exact hs
    | ok t => exact hw _ _ _ _ _ h
  · split
    · exact hs
    · rename_i t ht
      have h1 := hw _ _ _ _ _ ht
      split
      · rename_i u hu; exact virtualWriteFrom_wf _ _ _ _ _ _ _ _ h1 _ hu
      · exact h1

theorem placeObject_wf (s0 s : State) (pa : Nat) (c : BitVec 12) (kobj : Word) (area digest step secver : Nat) (x : Selected) (src : Option Nat) (w_s0 : s0.mem.wf = true) (w_s : s.mem.wf = true) :
    (placeObject s0 s pa c kobj area digest step secver x src).mem.wf = true := by
  unfold placeObject
  grind -ring -linarith -lia -order -ac [writeImage_wf, modCtx_wf, endRequest_wf, discardObject_wf]

theorem fullLoad_wf (s : State) (pa r : Nat) (c : BitVec 12) (version err : Nat) (v : List Nat) (w_s : s.mem.wf = true) :
    (fullLoad s pa r c version err v).mem.wf = true := by
  unfold fullLoad
  grind -ring -linarith -lia -order -ac [dropStale_wf, → selectFull_wf, endRequest_wf, placeObject_wf]

theorem serveLoad_wf {s : State} {pa r : Nat} {f : BitVec 12 → State} (hf : ∀ c, (f c).mem.wf = true) (hs : s.mem.wf = true) :
    (serveLoad s pa r f).mem.wf = true := by
  unfold serveLoad
  dsimp only
  split
  · exact endRequest_wf _ _ _ _ _ _ hs
  · split
    · exact hs
    · exact endRequest_wf _ _ _ _ _ _ hs
    · exact hf _

theorem execFullLoad_wf (s : State) (w_s : s.mem.wf = true) :
    ∀ rr, (execFullLoad s) = .next rr → rr.mem.wf = true := by
  unfold execFullLoad
  grind -ring -linarith -lia -order -ac [fullLoad_wf, serveLoad_wf, endRequest_wf]

theorem cachedLoad_wf (s : State) (pa r : Nat) (c : BitVec 12) (version err : Nat) (w_s : s.mem.wf = true) :
    (cachedLoad s pa r c version err).mem.wf = true := by
  unfold cachedLoad
  grind -ring -linarith -lia -order -ac [dropCache_wf, endRequest_wf, placeObject_wf]

theorem execCachedLoad_wf (s : State) (w_s : s.mem.wf = true) :
    ∀ rr, (execCachedLoad s) = .next rr → rr.mem.wf = true := by
  unfold execCachedLoad
  grind -ring -linarith -lia -order -ac [serveLoad_wf, cachedLoad_wf]

theorem floorRaise_wf (s : State) (pa r : Nat) (w_s : s.mem.wf = true) : (floorRaise s pa r).mem.wf = true := by
  unfold floorRaise
  grind -ring -linarith -lia -order -ac [endRequest_wf]

theorem execFloorRaise_wf (s : State) (w_s : s.mem.wf = true) :
    ∀ rr, (execFloorRaise s) = .next rr → rr.mem.wf = true := by
  unfold execFloorRaise
  grind -ring -linarith -lia -order -ac [floorRaise_wf]

/-! ### Harvest -/

theorem saveTile_wf (s : State) (p : Nat) (b : BlockId) (t : Nat) (w_s : s.mem.wf = true) :
    (saveTile s p b t).mem.wf = true := by
  unfold saveTile
  grind -ring -linarith -lia -order -ac [modPlot_wf]

theorem offTile_wf (s : State) (p : Nat) (k : Copy) (w_s : s.mem.wf = true) : (offTile s p k).mem.wf = true := by
  unfold offTile
  grind -ring -linarith -lia -order -ac [freeTile_wf, modCopy_wf, saveTile_wf]

theorem unfire_wf (s : State) (p : Nat) (h : Held) (w_s : s.mem.wf = true) : (unfire s p h).mem.wf = true := by
  unfold unfire
  grind -ring -linarith -lia -order -ac [modCopy_wf, modCount_wf]

theorem saveCopies_wf (s : State) (p : Nat) (c : BitVec 12) (w_s : s.mem.wf = true) :
    (saveCopies s p c).mem.wf = true := by
  unfold saveCopies
  grind -ring -linarith -lia -order -ac [modPlot_wf]

theorem withdrawWaiters_wf (s : State) (p : Nat) (c : BitVec 12) (w_s : s.mem.wf = true) :
    (withdrawWaiters s p c).mem.wf = true := by
  unfold withdrawWaiters
  (try dsimp only)
  (repeat' (first | with_reducible assumption | (with_reducible refine foldl_wf (fun _ _ _ => ?_) _ _ ?_) | split | with_reducible apply modUnit_wf | with_reducible apply unfire_wf)) <;> grind -ring -linarith -lia -order -ac [modUnit_wf, unfire_wf]

theorem withdrawPermits_wf (s : State) (p : Nat) (c : BitVec 12) (w_s : s.mem.wf = true) :
    (withdrawPermits s p c).mem.wf = true := by
  unfold withdrawPermits
  (try dsimp only)
  (repeat' (first | with_reducible assumption | (with_reducible refine foldl_wf (fun _ _ _ => ?_) _ _ ?_) | split | with_reducible apply setPermitWaiters_wf | with_reducible apply unfire_wf)) <;> grind -ring -linarith -lia -order -ac [setPermitWaiters_wf, unfire_wf]

theorem stopAccesses_wf (s : State) (p : Nat) (c : BitVec 12) (streams : Bool) (w_s : s.mem.wf = true) :
    (stopAccesses s p c streams).mem.wf = true := by
  unfold stopAccesses
  grind -ring -linarith -lia -order -ac [modAccesses_wf]

theorem withdrawHome_wf (s : State) (h : Nat) (c : BitVec 12) (w_s : s.mem.wf = true) :
    (withdrawHome s h c).mem.wf = true := by
  unfold withdrawHome
  (try dsimp only)
  (repeat' (first | with_reducible assumption | (with_reducible refine foldl_wf (fun _ _ _ => ?_) _ _ ?_) | split | with_reducible apply modPart_wf)) <;> grind -ring -linarith -lia -order -ac [modPart_wf]

theorem clearWalker_wf (s : State) (p : Nat) (c : BitVec 12) (w_s : s.mem.wf = true) :
    (clearWalker s p c).mem.wf = true := by
  unfold clearWalker
  grind -ring -linarith -lia -order -ac [modWalker_wf]

theorem clearStations_wf (s : State) (p : Nat) (c : BitVec 12) (w_s : s.mem.wf = true) :
    (clearStations s p c).mem.wf = true := by
  unfold clearStations
  grind -ring -linarith -lia -order -ac [modWalker_wf]

theorem requeueGroup_wf (s : State) (p : Nat) (g : BitVec 3) (x : Group) (w_s : s.mem.wf = true) :
    (requeueGroup s p g x).mem.wf = true := by
  unfold requeueGroup
  grind -ring -linarith -lia -order -ac [modLevel_wf, modUnit_wf, dropFlights_wf, modPlot_wf]

theorem retireQuiet_wf (s : State) (p : Nat) (c : BitVec 12) (w_s : s.mem.wf = true) :
    (retireQuiet s p c).mem.wf = true := by
  unfold retireQuiet
  (try dsimp only)
  (repeat' (first | with_reducible assumption | (with_reducible refine foldl_wf (fun _ _ _ => ?_) _ _ ?_) | split | with_reducible apply modGroup_wf)) <;> grind -ring -linarith -lia -order -ac [modGroup_wf]

theorem saveGroup_wf (s : State) (p : Nat) (c : BitVec 12) (n : Nat) (w_s : s.mem.wf = true) :
    (saveGroup s p c n).mem.wf = true := by
  unfold saveGroup
  grind -ring -linarith -lia -order -ac [requeueGroup_wf, modGroup_wf]

theorem stopBlocks_wf (s : State) (p : Nat) (c : BitVec 12) (w_s : s.mem.wf = true) :
    (stopBlocks s p c).mem.wf = true := by
  unfold stopBlocks
  (try dsimp only)
  (repeat' (first | with_reducible assumption | (with_reducible refine foldl_wf (fun _ _ _ => ?_) _ _ ?_) | split | with_reducible apply modBlocks_wf | with_reducible apply offTile_wf)) <;> grind -ring -linarith -lia -order -ac [modBlocks_wf, offTile_wf]

theorem stopClass_wf (s : State) (p : Nat) (c : BitVec 12) (k : EngineClass) (w_s : s.mem.wf = true) :
    (stopClass s p c k).mem.wf = true := by
  unfold stopClass
  (try dsimp only)
  (repeat' (first | with_reducible assumption | (with_reducible refine foldl_wf (fun _ _ _ => ?_) _ _ ?_) | split | with_reducible apply stopBlocks_wf | with_reducible apply clearWalker_wf | with_reducible apply saveCopies_wf | with_reducible apply stopAccesses_wf | with_reducible apply withdrawWaiters_wf | with_reducible apply withdrawPermits_wf | with_reducible apply saveGroup_wf | with_reducible apply clearStations_wf)) <;> grind -ring -linarith -lia -order -ac [stopBlocks_wf, clearWalker_wf, saveCopies_wf, stopAccesses_wf, withdrawWaiters_wf, withdrawPermits_wf, saveGroup_wf, clearStations_wf]

theorem writeRegs_wf (s : State) (c : BitVec 12) (w_s : s.mem.wf = true) : (writeRegs s c).mem.wf = true := by
  unfold writeRegs
  grind -ring -linarith -lia -order -ac [writeWords_wf]

theorem writeBack_wf (s : State) (c : BitVec 12) (w_s : s.mem.wf = true) : (writeBack s c).mem.wf = true := by
  unfold writeBack
  grind -ring -linarith -lia -order -ac [writeWords_wf]

theorem writeHeader_wf (s : State) (c : BitVec 12) (w_s : s.mem.wf = true) : (writeHeader s c).mem.wf = true := by
  unfold writeHeader
  (try dsimp only)
  (repeat' (first | with_reducible assumption | (with_reducible refine foldl_wf (fun _ _ _ => ?_) _ _ ?_) | split | with_reducible apply writeWords_wf)) <;> grind -ring -linarith -lia -order -ac [writeWords_wf]

theorem appendSection_wf (s : State) (c : BitVec 12) (p : Nat) (heads : List RecordHead) (w_s : s.mem.wf = true) :
    (appendSection s c p heads).mem.wf = true := by
  unfold appendSection
  grind -ring -linarith -lia -order -ac [writeWords_wf, modCtx_wf, writeWord_wf]

theorem contextMessage_wf (s : State) (c : BitVec 12) (w_s : s.mem.wf = true) :
    (contextMessage s c).mem.wf = true := by
  unfold contextMessage
  grind -ring -linarith -lia -order -ac

theorem deadKernel_wf (s : State) (k : KernelRef) (w_s : s.mem.wf = true) : (deadKernel s k).mem.wf = true := by
  unfold deadKernel
  grind -ring -linarith -lia -order -ac [setRecState_wf, dropKernel_wf, tellParent_wf]

theorem forgetContext_wf (s : State) (c : BitVec 12) (w_s : s.mem.wf = true) : (forgetContext s c).mem.wf = true := by
  unfold forgetContext
  (try dsimp only)
  (repeat' (first | with_reducible assumption | (with_reducible refine foldl_wf (fun _ _ _ => ?_) _ _ ?_) | split | with_reducible apply clearStations_wf)) <;> grind -ring -linarith -lia -order -ac [clearStations_wf]

theorem enterDead_wf (s : State) (c : BitVec 12) (w_s : s.mem.wf = true) : (enterDead s c).mem.wf = true := by
  unfold enterDead
  (try dsimp only)
  (repeat' (first | with_reducible assumption | (with_reducible refine foldl_wf (fun _ _ _ => ?_) _ _ ?_) | split | with_reducible apply writeRegs_wf | with_reducible apply queueError_wf | with_reducible apply forgetContext_wf | with_reducible apply writeState_wf | with_reducible apply deadKernel_wf | with_reducible apply modCtx_wf | with_reducible apply writeBack_wf | with_reducible apply contextMessage_wf)) <;> grind -ring -linarith -lia -order -ac [writeRegs_wf, queueError_wf, forgetContext_wf, writeState_wf, deadKernel_wf, modCtx_wf, writeBack_wf, contextMessage_wf]

theorem finishStop_wf (s : State) (c : BitVec 12) (w_s : s.mem.wf = true) : (finishStop s c).mem.wf = true := by
  unfold finishStop
  grind -ring -linarith -lia -order -ac [writeRegs_wf, enterDead_wf, writeState_wf, modCtx_wf, flushWrites_wf, writeHeader_wf, contextMessage_wf]

theorem stopUnit_wf (s : State) (c : BitVec 12) (u : StopUnit) (w_s : s.mem.wf = true) :
    (stopUnit s c u).mem.wf = true := by
  unfold stopUnit
  grind -ring -linarith -lia -order -ac [appendSection_wf, stopClass_wf, withdrawHome_wf]

theorem acknowledge_wf (s : State) (c : BitVec 12) (u : StopUnit) (w_s : s.mem.wf = true) :
    (acknowledge s c u).mem.wf = true := by
  unfold acknowledge
  grind -ring -linarith -lia -order -ac [stopUnit_wf, modCtx_wf, retireQuiet_wf, finishStop_wf]

theorem execAcknowledgement_wf (s : State) (w_s : s.mem.wf = true) :
    ∀ rr, (execAcknowledgement s) = .next rr → rr.mem.wf = true := by
  unfold execAcknowledgement
  grind -ring -linarith -lia -order -ac [acknowledge_wf]

theorem settleContext_wf (s : State) (c : BitVec 12) (w_s : s.mem.wf = true) : (settleContext s c).mem.wf = true := by
  unfold settleContext
  grind -ring -linarith -lia -order -ac [writeState_wf, finishStop_wf]

theorem settleContexts_wf (s : State) (w_s : s.mem.wf = true) : (settleContexts s).mem.wf = true := by
  unfold settleContexts
  (try dsimp only)
  (repeat' (first | with_reducible assumption | (with_reducible refine foldl_wf (fun _ _ _ => ?_) _ _ ?_) | split | with_reducible apply settleContext_wf)) <;> grind -ring -linarith -lia -order -ac [settleContext_wf]

theorem settleStep_wf (x : Result) (hx : ∀ r, x = .next r → r.mem.wf = true) :
    ∀ r, settleStep x = .next r → r.mem.wf = true := by
  intro r hr
  cases x with
  | next s => cases hr; exact settleContexts_wf _ (settleKernels_wf _ (settleDoubled_wf _ (hx _ rfl)))
  | fault f => cases hr
  | refused f => cases hr

theorem sendWithdrawn_wf (s : State) (c : BitVec 12) (p : Nat) (w_s : s.mem.wf = true) :
    (sendWithdrawn s c p).mem.wf = true := by
  unfold sendWithdrawn
  (try dsimp only)
  (repeat' (first | with_reducible assumption | (with_reducible refine foldl_wf (fun _ _ _ => ?_) _ _ ?_) | split | with_reducible apply tryIssue_wf)) <;> grind -ring -linarith -lia -order -ac [tryIssue_wf]

theorem resumePlot_wf (s : State) (p : Nat) (w_s : s.mem.wf = true) : (resumePlot s p).mem.wf = true := by
  unfold resumePlot
  (try dsimp only)
  (repeat' (first | with_reducible assumption | (with_reducible refine foldl_wf (fun _ _ _ => ?_) _ _ ?_) | split | with_reducible apply pullAll_wf | with_reducible apply tryStream_wf | with_reducible apply kickUnit_wf | with_reducible apply tryLatches_wf)) <;> grind -ring -linarith -lia -order -ac [pullAll_wf, tryStream_wf, kickUnit_wf, tryLatches_wf]

theorem restoreContext_wf (s : State) (c : BitVec 12) (slot : Nat) (w_s : s.mem.wf = true) :
    (restoreContext s c slot).mem.wf = true := by
  unfold restoreContext
  (try dsimp only)
  (repeat' (first | with_reducible assumption | (with_reducible refine foldl_wf (fun _ _ _ => ?_) _ _ ?_) | split | with_reducible apply modCtx_wf | with_reducible apply kickPermits_wf | with_reducible apply resumePlot_wf | with_reducible apply sendWithdrawn_wf)) <;> grind -ring -linarith -lia -order -ac [modCtx_wf, kickPermits_wf, resumePlot_wf, sendWithdrawn_wf]

/-! ### Pages -/

theorem removeEntries_wf (s : State) (k : TlbiScope) (job : Nat) (w_s : s.mem.wf = true) :
    (removeEntries s k job).mem.wf = true := by
  unfold removeEntries
  grind -ring -linarith -lia -order -ac [dropRepAll_wf]

theorem tlbiResult_wf (mode : TlbiMode) (c : FireCtx) (m : MatchedSet) (s : State) (w_s : s.mem.wf = true) :
    ∀ rr, (tlbiResult mode c m s) = .ok rr → rr.1.mem.wf = true := by
  unfold tlbiResult
  simp only [bind, Except.bind, pure, Except.pure, require]
  grind -ring -linarith -lia -order -ac [removeEntries_wf, status_wf]

theorem execTlbi_wf (h : Head) (mode : TlbiMode) (s : State) (w_s : s.mem.wf = true) :
    ∀ rr, (execTlbi h mode s) = .next rr → rr.mem.wf = true := by
  unfold execTlbi
  refine fireHeld_wf (by assumption) (fun c m u r hu hb => ?_)
  grind -ring -linarith -lia -order -ac [→ fireHeld_wf, → tlbiResult_wf]

theorem restartParked_wf (job : Nat) (a0 : Nat) (a1 : State) (a2 : Nat) (w_a1 : a1.mem.wf = true) :
    (restartParked job a0 a1 a2).mem.wf = true := by
  induction a0 generalizing a1 a2 w_a1 with
  | zero => (unfold restartParked; grind -ring -linarith -lia -order -ac [restartWalk_wf, setWalk_wf])
  | succ n ih => (unfold restartParked; grind -ring -linarith -lia -order -ac [restartWalk_wf, setWalk_wf])

theorem markWithdrawn_wf (l : List (Nat × Nat)) (s : State) (w_s : s.mem.wf = true) :
    (markWithdrawn l s).mem.wf = true := by
  unfold markWithdrawn
  (try dsimp only)
  (repeat' (first | with_reducible assumption | (with_reducible refine foldl_wf (fun _ _ _ => ?_) _ _ ?_) | split | with_reducible apply modAccess_wf)) <;> grind -ring -linarith -lia -order -ac [modAccess_wf]

theorem execTlbiComplete_wf (s : State) (hs : s.mem.wf = true) : ∀ r, execTlbiComplete s = .next r → r.mem.wf = true := by
  intro r hr
  unfold execTlbiComplete at hr
  split at hr
  · dsimp only at hr
    split at hr
    · split at hr
      · rw [← Host.Outcome.next.inj hr]
        with_reducible refine foldl_wf (fun _ _ h => ?_) _ _ ?_
        · exact restartParked_wf _ _ _ _ h
        · exact sendHeld_wf _ _ _ _ (markWithdrawn_wf _ _ hs)
      · rw [← Host.Outcome.next.inj hr]; exact hs
    · rw [← Host.Outcome.next.inj hr]; exact hs
  · rw [← Host.Outcome.next.inj hr]; exact hs

/-! ### Contexts -/

theorem grantGrace_wf (s : State) (c : BitVec 12) (grace : Nat) (w_s : s.mem.wf = true) :
    (grantGrace s c grace).mem.wf = true := by
  unfold grantGrace
  grind -ring -linarith -lia -order -ac [modCtx_wf]

theorem setMode_wf (s : State) (c : BitVec 12) (m : RecMode) (w_s : s.mem.wf = true) :
    (setMode s c m).mem.wf = true := by
  unfold setMode
  grind -ring -linarith -lia -order -ac [modCtx_wf]

theorem killContext_wf (s : State) (c : BitVec 12) (w_s : s.mem.wf = true) : (killContext s c).mem.wf = true := by
  unfold killContext
  grind -ring -linarith -lia -order -ac [requestStop_wf, enterDead_wf]

theorem createContext_wf (s : State) (c : BitVec 12) (w_s : s.mem.wf = true) : (createContext s c).mem.wf = true := by
  unfold createContext
  grind -ring -linarith -lia -order -ac [removeEntries_wf, modCtx_wf]

theorem releaseContext_wf (s : State) (c : BitVec 12) (w_s : s.mem.wf = true) :
    (releaseContext s c).mem.wf = true := by
  unfold releaseContext
  grind -ring -linarith -lia -order -ac [modCtx_wf, writeWords_wf, writeRegs_wf]

theorem runCommand_wf (s : State) (c : BitVec 12) (grace : Nat) (a0 : Command) (w_s : s.mem.wf = true) :
    (runCommand s c grace a0).mem.wf = true := by
  unfold runCommand
  grind -ring -linarith -lia -order -ac [grantGrace_wf, setMode_wf, createContext_wf, requestStop_wf, restoreContext_wf, modCtx_wf,
        releaseContext_wf, writeBack_wf, killContext_wf, contextMessage_wf, resume_wf]

theorem noteCommand_wf (s : State) (c : BitVec 12) (k : Command) (refused : Bool) (w_s : s.mem.wf = true) :
    (noteCommand s c k refused).mem.wf = true := by
  unfold noteCommand
  grind -ring -linarith -lia -order -ac [modCtx_wf]

theorem command_wf (s : State) (c : BitVec 12) (k : Command) (grace : Nat) (w_s : s.mem.wf = true) :
    (command s c k grace).1.mem.wf = true := by
  unfold command
  grind -ring -linarith -lia -order -ac [writeState_wf, runCommand_wf, noteCommand_wf]

theorem writeCtxctl_wf (s : State) (v : Word) (w_s : s.mem.wf = true) : (writeCtxctl s v).mem.wf = true := by
  unfold writeCtxctl
  grind -ring -linarith -lia -order -ac [command_wf]

theorem commandEvent_wf (k : Command) (s : State) (w_s : s.mem.wf = true) :
    ∀ rr, (commandEvent k s) = .next rr → rr.mem.wf = true := by
  unfold commandEvent
  grind -ring -linarith -lia -order -ac [command_wf]

theorem execCreate_wf (s : State) (w_s : s.mem.wf = true) : ∀ rr, (execCreate s) = .next rr → rr.mem.wf = true := by
  unfold execCreate
  grind -ring -linarith -lia -order -ac [→ commandEvent_wf]

theorem execStart_wf (s : State) (w_s : s.mem.wf = true) : ∀ rr, (execStart s) = .next rr → rr.mem.wf = true := by
  unfold execStart
  grind -ring -linarith -lia -order -ac [→ commandEvent_wf]

theorem execResume_wf (s : State) (w_s : s.mem.wf = true) : ∀ rr, (execResume s) = .next rr → rr.mem.wf = true := by
  unfold execResume
  grind -ring -linarith -lia -order -ac [→ commandEvent_wf, resume_wf]

theorem execPreempt_wf (s : State) (w_s : s.mem.wf = true) : ∀ rr, (execPreempt s) = .next rr → rr.mem.wf = true := by
  unfold execPreempt
  grind -ring -linarith -lia -order -ac [→ commandEvent_wf]

theorem execFreeze_wf (s : State) (w_s : s.mem.wf = true) : ∀ rr, (execFreeze s) = .next rr → rr.mem.wf = true := by
  unfold execFreeze
  grind -ring -linarith -lia -order -ac [→ commandEvent_wf]

theorem execThaw_wf (s : State) (w_s : s.mem.wf = true) : ∀ rr, (execThaw s) = .next rr → rr.mem.wf = true := by
  unfold execThaw
  grind -ring -linarith -lia -order -ac [→ commandEvent_wf]

theorem execKill_wf (s : State) (w_s : s.mem.wf = true) : ∀ rr, (execKill s) = .next rr → rr.mem.wf = true := by
  unfold execKill
  grind -ring -linarith -lia -order -ac [→ commandEvent_wf]

theorem execRelease_wf (s : State) (w_s : s.mem.wf = true) : ∀ rr, (execRelease s) = .next rr → rr.mem.wf = true := by
  unfold execRelease
  grind -ring -linarith -lia -order -ac [→ commandEvent_wf]

theorem execRecord_wf (s : State) (w_s : s.mem.wf = true) : ∀ rr, (execRecord s) = .next rr → rr.mem.wf = true := by
  unfold execRecord
  grind -ring -linarith -lia -order -ac [→ commandEvent_wf]

theorem execReplay_wf (s : State) (w_s : s.mem.wf = true) : ∀ rr, (execReplay s) = .next rr → rr.mem.wf = true := by
  unfold execReplay
  grind -ring -linarith -lia -order -ac [→ commandEvent_wf]

theorem execNorecord_wf (s : State) (w_s : s.mem.wf = true) :
    ∀ rr, (execNorecord s) = .next rr → rr.mem.wf = true := by
  unfold execNorecord
  grind -ring -linarith -lia -order -ac [→ commandEvent_wf]

theorem idleContext_wf (s : State) (c : BitVec 12) (w_s : s.mem.wf = true) : (idleContext s c).mem.wf = true := by
  unfold idleContext
  (try dsimp only)
  (repeat' (first | with_reducible assumption | (with_reducible refine foldl_wf (fun _ _ _ => ?_) _ _ ?_) | split | with_reducible apply writeRegs_wf | with_reducible apply writeState_wf | with_reducible apply modCtx_wf | with_reducible apply flushWrites_wf | with_reducible apply clearStations_wf)) <;> grind -ring -linarith -lia -order -ac [writeRegs_wf, writeState_wf, modCtx_wf, flushWrites_wf, clearStations_wf]

theorem execContextIdle_wf (s : State) (w_s : s.mem.wf = true) :
    ∀ rr, (execContextIdle s) = .next rr → rr.mem.wf = true := by
  unfold execContextIdle
  grind -ring -linarith -lia -order -ac [idleContext_wf]

theorem expire_wf (s : State) (p : Nat) (c : BitVec 12) (w_s : s.mem.wf = true) : (expire s p c).mem.wf = true := by
  unfold expire
  grind -ring -linarith -lia -order -ac [writeState_wf, modCount_wf, requestStop_wf]

theorem execExpiry_wf (s : State) (w_s : s.mem.wf = true) : ∀ rr, (execExpiry s) = .next rr → rr.mem.wf = true := by
  unfold execExpiry
  grind -ring -linarith -lia -order -ac [expire_wf]

theorem execStall_wf (s : State) (w_s : s.mem.wf = true) : ∀ rr, (execStall s) = .next rr → rr.mem.wf = true := by
  unfold execStall
  grind -ring -linarith -lia -order -ac [writeState_wf, requestStop_wf]

theorem ownExpiry_wf (c : FireCtx) (s : State) (w_s : s.mem.wf = true) : (ownExpiry c s).mem.wf = true := by
  unfold ownExpiry
  grind -ring -linarith -lia -order -ac [modCount_wf]

theorem yldResult_wf (c : FireCtx) (s : State) (w_s : s.mem.wf = true) :
    ∀ rr, (yldResult c s) = .ok rr → rr.1.mem.wf = true := by
  unfold yldResult
  grind -ring -linarith -lia -order -ac [ownExpiry_wf, writeState_wf, requestStop_wf]

theorem execYld_wf (h : Head) (s : State) (w_s : s.mem.wf = true) :
    ∀ rr, (execYld h s) = .next rr → rr.mem.wf = true := by
  unfold execYld
  refine throughPort_wf ?_
  refine fireWith_wf (by assumption) (fun c u hu => ?_) (fun c u r hu hb => ?_) <;>
        (try simp only [bind, Except.bind, pure, Except.pure] at hb) <;> grind -ring -linarith -lia -order -ac [→ yldResult_wf, ownExpiry_wf,
        → fireWith_wf]

theorem execTrap_wf (h : Head) (code : BitVec 7) (s : State) (w_s : s.mem.wf = true) :
    ∀ rr, (execTrap h code s) = .next rr → rr.mem.wf = true := by
  unfold execTrap
  grind -ring -linarith -lia -order -ac [deliverFault_wf, consume_wf, takeSet_wf, faultSet_wf]

theorem setCause_wf (s : State) (c : FireCtx) (n : Nat) (x : CauseSlot) (w_s : s.mem.wf = true) :
    (setCause s c n x).mem.wf = true := by
  unfold setCause
  grind -ring -linarith -lia -order -ac [modGroup_wf]

theorem hcseResult_wf (c : FireCtx) (s : State) (w_s : s.mem.wf = true) :
    ∀ rr, (hcseResult c s) = .ok rr → rr.1.mem.wf = true := by
  unfold hcseResult
  simp only [bind, Except.bind, pure, Except.pure, require]
  grind -ring -linarith -lia -order -ac [setCause_wf]

theorem execHcse_wf (h : Head) (s : State) (w_s : s.mem.wf = true) :
    ∀ rr, (execHcse h s) = .next rr → rr.mem.wf = true := by
  unfold execHcse
  refine fireState_wf (by assumption) (fun c u r hu hb => ?_)
  grind -ring -linarith -lia -order -ac [→ fireState_wf, → hcseResult_wf]

theorem clearStation_wf (s : State) (p : Nat) (b : BlockId) (slot : BitVec 7) (w_s : s.mem.wf = true) :
    (clearStation s p b slot).mem.wf = true := by
  unfold clearStation
  grind -ring -linarith -lia -order -ac [modWalker_wf]

theorem reissue_wf (s : State) (p id : Nat) (w_s : s.mem.wf = true) : (reissue s p id).mem.wf = true := by
  unfold reissue
  grind -ring -linarith -lia -order -ac [putAccess_wf, advance_wf, tryStream_wf, clearStation_wf]

theorem dropAccess_wf (s : State) (p id : Nat) (w_s : s.mem.wf = true) : (dropAccess s p id).mem.wf = true := by
  unfold dropAccess
  grind -ring -linarith -lia -order -ac [removeAccess_wf, modAccess_wf]

theorem discardSet_wf (s : State) (p : Nat) (b : BlockId) (m : MatchedSet) (w_s : s.mem.wf = true) :
    (discardSet s p b m).mem.wf = true := by
  unfold discardSet
  grind -ring -linarith -lia -order -ac [advance_wf, addAccess_wf]

theorem completeTrap_wf (s : State) (p : Nat) (b : BlockId) (m : MatchedSet) (h : Head) (w_s : s.mem.wf = true) :
    (completeTrap s p b m h).mem.wf = true := by
  unfold completeTrap
  grind -ring -linarith -lia -order -ac [sendAll_wf, countSet_wf]

theorem resolveKept_wf (s : State) (p : Nat) (drop : Bool) (a0 : Kept) (w_s : s.mem.wf = true) :
    (resolveKept s p drop a0).mem.wf = true := by
  unfold resolveKept
  grind -ring -linarith -lia -order -ac [sendEntry_wf, modTile_wf, kickUnit_wf, modCopy_wf, reissue_wf, dropAccess_wf, discardSet_wf, modPlot_wf,
        pullPort_wf, completeTrap_wf]

theorem hresResult_wf (drop : Bool) (c : FireCtx) (s : State) (w_s : s.mem.wf = true) :
    ∀ rr, (hresResult drop c s) = .ok rr → rr.1.mem.wf = true := by
  unfold hresResult
  simp only [bind, Except.bind, pure, Except.pure, require]
  grind -ring -linarith -lia -order -ac [resolveKept_wf, settleWords_wf, status_wf, modGroup_wf, resumePlot_wf, setCause_wf]

theorem execHres_wf (h : Head) (drop : Bool) (s : State) (w_s : s.mem.wf = true) :
    ∀ rr, (execHres h drop s) = .next rr → rr.mem.wf = true := by
  unfold execHres
  refine fireState_wf (by assumption) (fun c u r hu hb => ?_)
  grind -ring -linarith -lia -order -ac [→ fireState_wf, → hresResult_wf]

theorem hkilResult_wf (c : FireCtx) (s : State) (w_s : s.mem.wf = true) :
    ∀ rr, (hkilResult c s) = .ok rr → rr.1.mem.wf = true := by
  unfold hkilResult
  simp only [bind, Except.bind, pure, Except.pure, require]
  grind -ring -linarith -lia -order -ac [killGroup_wf, dropOrphans_wf]

theorem execHkil_wf (h : Head) (s : State) (w_s : s.mem.wf = true) :
    ∀ rr, (execHkil h s) = .next rr → rr.mem.wf = true := by
  unfold execHkil
  refine fireState_wf (by assumption) (fun c u r hu hb => ?_)
  grind -ring -linarith -lia -order -ac [→ fireState_wf, → hkilResult_wf]

theorem commandFor_wf (s : State) (n : Nat) (k : Command) (grace : Nat) (w_s : s.mem.wf = true) :
    (commandFor s n k grace).1.mem.wf = true := by
  unfold commandFor
  grind -ring -linarith -lia -order -ac [command_wf]

theorem haltResult_wf (op : HaltOp) (c : FireCtx) (s : State) (w_s : s.mem.wf = true) :
    ∀ rr, (haltResult op c s) = .ok rr → rr.1.mem.wf = true := by
  unfold haltResult
  simp only [bind, Except.bind, pure, Except.pure, require]
  grind -ring -linarith -lia -order -ac [commandFor_wf, status_wf]

theorem execHalt_wf (h : Head) (op : HaltOp) (s : State) (w_s : s.mem.wf = true) :
    ∀ rr, (execHalt h op s) = .next rr → rr.mem.wf = true := by
  unfold execHalt
  refine fireState_wf (by assumption) (fun c u r hu hb => ?_)
  grind -ring -linarith -lia -order -ac [→ fireState_wf, → haltResult_wf]

theorem rrecResult_wf (op : RrecOp) (c : FireCtx) (s : State) (w_s : s.mem.wf = true) :
    ∀ rr, (rrecResult op c s) = .ok rr → rr.1.mem.wf = true := by
  unfold rrecResult
  simp only [bind, Except.bind, pure, Except.pure, require]
  grind -ring -linarith -lia -order -ac [commandFor_wf, status_wf]

theorem execRrec_wf (h : Head) (op : RrecOp) (s : State) (w_s : s.mem.wf = true) :
    ∀ rr, (execRrec h op s) = .next rr → rr.mem.wf = true := by
  unfold execRrec
  refine fireState_wf (by assumption) (fun c u r hu hb => ?_)
  grind -ring -linarith -lia -order -ac [→ fireState_wf, → rrecResult_wf]

theorem minjAcc_wf (k : InjKind) (c : FireCtx) (s : State) (w_s : s.mem.wf = true) :
    ∀ rr, (minjAcc k c s) = .ok rr → rr.1.mem.wf = true := by
  intro r hr
  unfold minjAcc at hr
  (repeat' (first | dsimp only at hr | (obtain ⟨a, ha, hr⟩ := bind_ok_wf hr) | split at hr)) <;> grind -ring -linarith -lia -order -ac [putAcc_wf,
        status_wf]

theorem minjWord_wf (uncorrectable : Bool) (c : FireCtx) (s : State) (w_s : s.mem.wf = true) :
    ∀ rr, (minjWord uncorrectable c s) = .ok rr → rr.1.mem.wf = true := by
  unfold minjWord
  simp only [bind, Except.bind, pure, Except.pure, require]
  grind -ring -linarith -lia -order -ac [→ engineTranslate_wf, status_wf, Mem.setByte_wf, Mem.write_wf, Mem.setFull_wf, Mem.addEmpty_wf,
        Mem.setEmpty_wf, Mem.marks_wf, Mem.clearMarks_wf, Mem.setLine_wf]

theorem minjResult_wf (k : InjKind) (c : FireCtx) (s : State) (w_s : s.mem.wf = true) :
    ∀ rr, (minjResult k c s) = .ok rr → rr.1.mem.wf = true := by
  unfold minjResult
  simp only [bind, Except.bind, pure, Except.pure, require]
  grind -ring -linarith -lia -order -ac [→ minjWord_wf, → minjAcc_wf]

theorem minjWalk_wf (c : FireCtx) (e : FaultInfo) (s : State) (w_s : s.mem.wf = true) :
    (minjWalk c e s).mem.wf = true := by
  unfold minjWalk
  grind -ring -linarith -lia -order -ac [walked_wf]

theorem execMinj_wf (h : Head) (kind : InjKind) (s : State) (w_s : s.mem.wf = true) :
    ∀ rr, (execMinj h kind s) = .next rr → rr.mem.wf = true := by
  unfold execMinj
  refine fireWalks_wf (by assumption) (fun c e u hu => ?_) (fun c m u r hu hb => ?_) <;> grind -ring -linarith -lia -order -ac [→ minjResult_wf,
        minjWalk_wf]

/-! ### Furrow -/

theorem modFurrow_wf (s : State) (f : Nat) (g : Furrow → Furrow) (w_s : s.mem.wf = true) :
    (modFurrow s f g).mem.wf = true := by
  unfold modFurrow
  grind -ring -linarith -lia -order -ac

theorem askMove_wf (s : State) (f : Nat) (w_s : s.mem.wf = true) : (askMove s f).mem.wf = true := by
  unfold askMove
  grind -ring -linarith -lia -order -ac [modBlocks_wf]

theorem furrowWindow_wf (s : State) (f : Nat) (v : List Nat) (w_s : s.mem.wf = true) :
    (furrowWindow s f v).mem.wf = true := by
  unfold furrowWindow
  grind -ring -linarith -lia -order -ac [modFurrow_wf, askMove_wf]

theorem execSamplingWindow_wf (s : State) (hs : s.mem.wf = true) : ∀ r, execSamplingWindow s = .next r → r.mem.wf = true := by
  intro r hr
  unfold execSamplingWindow at hr
  split at hr
  · dsimp only at hr
    split at hr
    · cases hr; exact foldl_wf (fun _ _ h => furrowWindow_wf _ _ _ h) _ _ hs
    · cases hr; exact hs
  · cases hr; exact hs

theorem grantOne_wf (a : State × List Nat × Option Nat) (r f : Nat) (hs : a.1.mem.wf = true) : (grantOne a r f).1.mem.wf = true := by
  obtain ⟨s, fs, last⟩ := a
  unfold grantOne
  dsimp only
  split
  · exact modFurrow_wf _ _ _ hs
  · exact hs

theorem grantWalk_wf (s : State) (hs : s.mem.wf = true) : (grantWalk s).1.mem.wf = true :=
  foldl_fst_wf (fun _ _ h => foldl_fst_wf (fun _ _ h => grantOne_wf _ _ _ h) _ _ h) _ _ hs

theorem boundary_wf (s : State) (mw : Nat) (w_s : s.mem.wf = true) : (boundary s mw).mem.wf = true := by
  unfold boundary
  grind -ring -linarith -lia -order -ac [grantWalk_wf]

theorem execIntervalBoundary_wf (s : State) (w_s : s.mem.wf = true) :
    ∀ rr, (execIntervalBoundary s) = .next rr → rr.mem.wf = true := by
  unfold execIntervalBoundary
  grind -ring -linarith -lia -order -ac [boundary_wf]

theorem reportGuard_wf (s : State) (p f : Nat) (b : BlockId) (g : BitVec 3) (w_s : s.mem.wf = true) :
    (reportGuard s p f b g).mem.wf = true := by
  unfold reportGuard
  grind -ring -linarith -lia -order -ac [deliverTo_wf]

theorem clearFurrow_wf (s : State) (f : Nat) (w_s : s.mem.wf = true) : (clearFurrow s f).mem.wf = true := by
  unfold clearFurrow
  (try dsimp only)
  (repeat' (first | with_reducible assumption | (with_reducible refine foldl_wf (fun _ _ _ => ?_) _ _ ?_) | split | with_reducible apply modFurrow_wf | with_reducible apply reportGuard_wf | with_reducible apply offTile_wf)) <;> grind -ring -linarith -lia -order -ac [modFurrow_wf, reportGuard_wf, offTile_wf]

theorem clearQuiet_wf (s : State) (f : Nat) (w_s : s.mem.wf = true) : (clearQuiet s f).mem.wf = true := by
  unfold clearQuiet
  grind -ring -linarith -lia -order -ac [clearFurrow_wf]

theorem execGuardTrip_wf (s : State) (w_s : s.mem.wf = true) :
    ∀ rr, (execGuardTrip s) = .next rr → rr.mem.wf = true := by
  unfold execGuardTrip
  grind -ring -linarith -lia -order -ac [modFurrow_wf, clearQuiet_wf]

theorem thermalEvent_wf (allow : Threshold → Bool) (s : State) (w_s : s.mem.wf = true) :
    ∀ rr, (thermalEvent allow s) = .next rr → rr.mem.wf = true := by
  unfold thermalEvent
  grind -ring -linarith -lia -order -ac

theorem execThresholdTrip_wf (s : State) (w_s : s.mem.wf = true) :
    ∀ rr, (execThresholdTrip s) = .next rr → rr.mem.wf = true := by
  unfold execThresholdTrip
  grind -ring -linarith -lia -order -ac [→ thermalEvent_wf]

theorem execThresholdRelease_wf (s : State) (w_s : s.mem.wf = true) :
    ∀ rr, (execThresholdRelease s) = .next rr → rr.mem.wf = true := by
  unfold execThresholdRelease
  grind -ring -linarith -lia -order -ac [→ thermalEvent_wf]

theorem execDwellEnd_wf (s : State) (w_s : s.mem.wf = true) :
    ∀ rr, (execDwellEnd s) = .next rr → rr.mem.wf = true := by
  unfold execDwellEnd
  grind -ring -linarith -lia -order -ac [→ thermalEvent_wf]

theorem execRackCapMessage_wf (s : State) (hs : s.mem.wf = true) : ∀ r, execRackCapMessage s = .next r → r.mem.wf = true := by
  intro r hr
  unfold execRackCapMessage at hr
  split at hr <;> (cases hr; exact hs)

theorem execLeaseExpiry_wf (s : State) (hs : s.mem.wf = true) : ∀ r, execLeaseExpiry s = .next r → r.mem.wf = true := by
  intro r hr
  unfold execLeaseExpiry at hr
  (repeat' split at hr) <;> (try dsimp only at hr) <;> (repeat' split at hr) <;> (cases hr; exact hs)

theorem pwrqResult_wf (can : Bool) (fmask : BitVec 4) (c : FireCtx) (s : State) (hs : s.mem.wf = true) :
    ∀ r, pwrqResult can fmask c s = .ok r → r.1.mem.wf = true := by
  intro r hr
  unfold pwrqResult at hr
  dsimp only at hr
  (try split at hr) <;> obtain ⟨_, _, hr⟩ := bind_ok_wf hr <;> cases hr <;>
    exact foldl_wf (fun _ _ h => modFurrow_wf _ _ _ h) _ _ hs

theorem execPwrq_wf (h : Head) (can : Bool) (fmask : BitVec 4) (s : State) (w_s : s.mem.wf = true) :
    ∀ rr, (execPwrq h can fmask s) = .next rr → rr.mem.wf = true := by
  unfold execPwrq
  refine fireState_wf (by assumption) (fun c u r hu hb => ?_)
  grind -ring -linarith -lia -order -ac [→ fireState_wf, → pwrqResult_wf]

theorem imtrResult_wf (op : ImtrOp) (c : FireCtx) (s : State) (w_s : s.mem.wf = true) :
    ∀ rr, (imtrResult op c s) = .ok rr → rr.1.mem.wf = true := by
  intro r hr
  unfold imtrResult at hr
  (repeat' (first | dsimp only at hr | (obtain ⟨a, ha, hr⟩ := bind_ok_wf hr) | split at hr)) <;> grind -ring -linarith -lia -order -ac [modFurrow_wf]

theorem execImtr_wf (h : Head) (op : ImtrOp) (s : State) (w_s : s.mem.wf = true) :
    ∀ rr, (execImtr h op s) = .next rr → rr.mem.wf = true := by
  unfold execImtr
  refine fireState_wf (by assumption) (fun c u r hu hb => ?_)
  grind -ring -linarith -lia -order -ac [→ fireState_wf, → imtrResult_wf]

/-! ### Links -/

theorem modLink_wf (s : State) (k : Nat) (f : LinkPort → LinkPort) (w_s : s.mem.wf = true) :
    (modLink s k f).mem.wf = true := by
  unfold modLink
  grind -ring -linarith -lia -order -ac

theorem linkEvent_wf (s : State) (k : Nat) (w_s : s.mem.wf = true) : (linkEvent s k).mem.wf = true := by
  unfold linkEvent
  grind -ring -linarith -lia -order -ac

theorem peerError_wf (s : State) (r : ReqRef) (w_s : s.mem.wf = true) : (peerError s r).mem.wf = true := by
  unfold peerError
  (try dsimp only)
  (repeat' (first | with_reducible assumption | (with_reducible refine foldl_wf (fun _ _ _ => ?_) _ _ ?_) | split | with_reducible apply skipPart_wf | with_reducible apply spoil_wf | with_reducible apply failEng_wf)) <;> grind -ring -linarith -lia -order -ac [skipPart_wf, spoil_wf, failEng_wf]

theorem loseStore_wf (s : State) (r : ReqRef) (w_s : s.mem.wf = true) : (loseStore s r).mem.wf = true := by
  unfold loseStore
  grind -ring -linarith -lia -order -ac [modAccess_wf, modUnitOf_wf, failEng_wf, modPlot_wf]

theorem setLost_wf (s : State) (peer : Nat) (w_s : s.mem.wf = true) : (setLost s peer).mem.wf = true := by
  unfold setLost
  grind -ring -linarith -lia -order -ac [writeWord_wf]

theorem abandonStream_wf (s : State) (k : Nat) (x : LinkStream) (w_s : s.mem.wf = true) :
    (abandonStream s k x).mem.wf = true := by
  unfold abandonStream
  (try dsimp only)
  (repeat' (first | with_reducible assumption | (with_reducible refine foldl_wf (fun _ _ _ => ?_) _ _ ?_) | split | with_reducible apply linkEvent_wf | with_reducible apply loseStore_wf | with_reducible apply setLost_wf | with_reducible apply ackKernels_wf | with_reducible apply peerError_wf)) <;> grind -ring -linarith -lia -order -ac [linkEvent_wf, loseStore_wf, setLost_wf, ackKernels_wf, peerError_wf]

theorem moveStream_wf (s : State) (k : Nat) (x : LinkStream) (w_s : s.mem.wf = true) :
    (moveStream s k x).mem.wf = true := by
  unfold moveStream
  grind -ring -linarith -lia -order -ac [abandonStream_wf]

theorem quarantine_wf (s : State) (k : Nat) (w_s : s.mem.wf = true) : (quarantine s k).mem.wf = true := by
  unfold quarantine
  (try dsimp only)
  (repeat' (first | with_reducible assumption | (with_reducible refine foldl_wf (fun _ _ _ => ?_) _ _ ?_) | split | with_reducible apply linkEvent_wf | with_reducible apply moveStream_wf | with_reducible apply modLink_wf)) <;> grind -ring -linarith -lia -order -ac [linkEvent_wf, moveStream_wf, modLink_wf]

theorem notePort_wf (s : State) (k : Nat) (e : PortEvent) (w_s : s.mem.wf = true) :
    (notePort s k e).mem.wf = true := by
  unfold notePort
  grind -ring -linarith -lia -order -ac [modLink_wf]

theorem portEvent_wf {f : State → Nat → State} (hf : ∀ s k, s.mem.wf = true → (f s k).mem.wf = true) (e : PortEvent) (s : State) (k : Nat)
    (hs : s.mem.wf = true) : (portEvent e f s k).mem.wf = true := by
  unfold portEvent
  split
  · exact hf _ _ (notePort_wf _ _ _ hs)
  · exact hs

theorem trainPort_wf (s : State) (k : Nat) (w_s : s.mem.wf = true) : (trainPort s k).mem.wf = true := by
  unfold trainPort
  grind -ring -linarith -lia -order -ac [modLink_wf, notePort_wf]

theorem quarantinePort_wf (s : State) (k : Nat) (w_s : s.mem.wf = true) : (quarantinePort s k).mem.wf = true := by
  unfold quarantinePort
  grind -ring -linarith -lia -order -ac [quarantine_wf, notePort_wf]

theorem releasePort_wf (s : State) (k : Nat) (w_s : s.mem.wf = true) : (releasePort s k).mem.wf = true := by
  unfold releasePort
  grind -ring -linarith -lia -order -ac [notePort_wf, modLink_wf]

theorem writeLnkctl_wf (s : State) (k : Nat) (v : Word) (w_s : s.mem.wf = true) :
    (writeLnkctl s k v).mem.wf = true := by
  unfold writeLnkctl
  grind -ring -linarith -lia -order -ac [quarantinePort_wf, releasePort_wf, modLink_wf, trainPort_wf]

theorem failLane_wf (s : State) (k : Nat) (w_s : s.mem.wf = true) : (failLane s k).mem.wf = true := by
  unfold failLane
  grind -ring -linarith -lia -order -ac [linkEvent_wf, quarantine_wf, modLink_wf]

theorem portStep_wf {f : State → Nat → State} {s : State} (hs : s.mem.wf = true)
    (hf : ∀ s p, s.mem.wf = true → (f s p).mem.wf = true) : ∀ r, portStep f s = .next r → r.mem.wf = true := by
  intro r hr
  unfold portStep at hr
  split at hr <;> cases hr
  · exact hf _ _ hs
  · exact hs

theorem execTrain_wf (s : State) (w_s : s.mem.wf = true) : ∀ rr, (execTrain s) = .next rr → rr.mem.wf = true := by
  unfold execTrain
  grind -ring -linarith -lia -order -ac [→ portStep_wf, trainPort_wf]

theorem execQuarantine_wf (s : State) (w_s : s.mem.wf = true) :
    ∀ rr, (execQuarantine s) = .next rr → rr.mem.wf = true := by
  unfold execQuarantine
  grind -ring -linarith -lia -order -ac [→ portStep_wf, quarantinePort_wf]

theorem execLinkRelease_wf (s : State) (w_s : s.mem.wf = true) :
    ∀ rr, (execLinkRelease s) = .next rr → rr.mem.wf = true := by
  unfold execLinkRelease
  grind -ring -linarith -lia -order -ac [releasePort_wf, → portStep_wf]

theorem execLaneFailure_wf (s : State) (hs : s.mem.wf = true) : ∀ r, execLaneFailure s = .next r → r.mem.wf = true :=
  portStep_wf hs (fun s k h => portEvent_wf (fun s k h => failLane_wf _ _ h) _ s k h)

theorem execTrainingComplete_wf (s : State) (w_s : s.mem.wf = true) :
    ∀ rr, (execTrainingComplete s) = .next rr → rr.mem.wf = true := by
  unfold execTrainingComplete
  grind -ring -linarith -lia -order -ac [notePort_wf, modLink_wf]

theorem execTrainingTimeout_wf (s : State) (hs : s.mem.wf = true) : ∀ r, execTrainingTimeout s = .next r → r.mem.wf = true :=
  portStep_wf hs (fun s k h => portEvent_wf (fun s k h => ite_wf (modLink_wf _ _ _ h) h) _ s k h)

theorem execRetrainComplete_wf (s : State) (w_s : s.mem.wf = true) :
    ∀ rr, (execRetrainComplete s) = .next rr → rr.mem.wf = true := by
  unfold execRetrainComplete
  grind -ring -linarith -lia -order -ac [→ portStep_wf, kickPeers_wf, modLink_wf]

theorem execCrcRetryFailure_wf (s : State) (hs : s.mem.wf = true) : ∀ r, execCrcRetryFailure s = .next r → r.mem.wf = true :=
  portStep_wf hs (fun s k h => portEvent_wf (fun s k h => ite_wf (quarantine_wf _ _ h) h) _ s k h)

theorem execFlitCrcError_wf (s : State) (w_s : s.mem.wf = true) :
    ∀ rr, (execFlitCrcError s) = .next rr → rr.mem.wf = true := by
  unfold execFlitCrcError
  grind -ring -linarith -lia -order -ac [→ portStep_wf, modLink_wf]

theorem execRequestTimeout_wf (s : State) (hs : s.mem.wf = true) : ∀ r, execRequestTimeout s = .next r → r.mem.wf = true :=
  portStep_wf hs (fun s k h => portEvent_wf (fun s k h => ite_wf (quarantine_wf _ _ h) h) _ s k h)

theorem writePrtbase_wf (s : State) (v : Word) (w_s : s.mem.wf = true) : (writePrtbase s v).mem.wf = true := by
  unfold writePrtbase
  grind -ring -linarith -lia -order -ac

theorem execPrtbaseWrite_wf (s : State) (w_s : s.mem.wf = true) :
    ∀ rr, (execPrtbaseWrite s) = .next rr → rr.mem.wf = true := by
  unfold execPrtbaseWrite
  grind -ring -linarith -lia -order -ac [writePrtbase_wf]

theorem cachePeer_wf (s : State) (c : BitVec 12) (line v : Nat) (w_s : s.mem.wf = true) :
    (cachePeer s c line v).mem.wf = true := by
  unfold cachePeer
  grind -ring -linarith -lia -order -ac [dropPeer_wf, l2Touch_wf]

theorem answerOne_wf (s : State) (r : PartRef) (v : Nat) (w_s : s.mem.wf = true) :
    (answerOne s r v).mem.wf = true := by
  unfold answerOne
  grind -ring -linarith -lia -order -ac [valueChannel_wf, finishPart_wf]

theorem answerPart_wf (s : State) (p : PartRef) (store : Bool) (v : Nat) (keep : Option (BitVec 12 × Nat)) (w_s : s.mem.wf = true) :
    (answerPart s p store v keep).mem.wf = true := by
  unfold answerPart
  (try dsimp only)
  (repeat' (first | with_reducible assumption | (with_reducible refine foldl_wf (fun _ _ _ => ?_) _ _ ?_) | split | with_reducible apply skipPart_wf | with_reducible apply modUnitOf_wf | with_reducible apply cachePeer_wf | with_reducible apply answerOne_wf)) <;> grind -ring -linarith -lia -order -ac [skipPart_wf, modUnitOf_wf, cachePeer_wf, answerOne_wf]

theorem answerEng_wf (s : State) (id : Nat) (store : Bool) (v : Nat) (w_s : s.mem.wf = true) :
    (answerEng s id store v).mem.wf = true := by
  unfold answerEng
  grind -ring -linarith -lia -order -ac [modEng_wf, dropEng_wf]

theorem answerRequest_wf (s : State) (r : OutReq) (refused : Bool) (v : Nat) (keep : Bool) (w_s : s.mem.wf = true) :
    (answerRequest s r refused v keep).mem.wf = true := by
  unfold answerRequest
  grind -ring -linarith -lia -order -ac [answerEng_wf, answerPart_wf, peerError_wf]

theorem execPeerResponse_wf (s : State) (w_s : s.mem.wf = true) :
    ∀ rr, (execPeerResponse s) = .next rr → rr.mem.wf = true := by
  unfold execPeerResponse
  grind -ring -linarith -lia -order -ac [answerRequest_wf, kickPeers_wf, ackKernels_wf]

theorem takeAsk_wf (s : State) (src port : Nat) (seq : BitVec 32) (q : PeerAsk) (w_s : s.mem.wf = true) :
    (takeAsk s src port seq q).mem.wf = true := by
  unfold takeAsk
  (try dsimp only)
  (repeat' (first | with_reducible assumption | (with_reducible refine foldl_wf (fun _ _ _ => ?_) _ _ ?_) | split | with_reducible apply keepResponse_wf | with_reducible apply newEng_wf)) <;> grind -ring -linarith -lia -order -ac [keepResponse_wf, newEng_wf]

theorem execPeerRequest_wf (s : State) (w_s : s.mem.wf = true) :
    ∀ rr, (execPeerRequest s) = .next rr → rr.mem.wf = true := by
  unfold execPeerRequest
  grind -ring -linarith -lia -order -ac [takeAsk_wf]

/-! ### Registers -/

theorem writeQtbase_wf (s : State) (d : Nat) (v : Word) (w_s : s.mem.wf = true) :
    (writeQtbase s d v).mem.wf = true := by
  unfold writeQtbase
  grind -ring -linarith -lia -order -ac

theorem writeCtxtbl_wf (s : State) (v : Word) (w_s : s.mem.wf = true) : (writeCtxtbl s v).mem.wf = true := by
  unfold writeCtxtbl
  grind -ring -linarith -lia -order -ac

theorem writeDieReg_wf (s : State) (d : Nat) (r : Nat) (v : Word) (w_s : s.mem.wf = true) :
    (writeDieReg s d r v).mem.wf = true := by
  unfold writeDieReg
  grind -ring -linarith -lia -order -ac [writeLnkctl_wf, writeObreq_wf, writeQtbase_wf, writeQcmd_wf, writeCtxtbl_wf, writeCtxctl_wf, writePrtbase_wf]

theorem writeCounter_wf (s : State) (p r : Nat) (v : Word) (w_s : s.mem.wf = true) :
    (writeCounter s p r v).mem.wf = true := by
  unfold writeCounter
  grind -ring -linarith -lia -order -ac [modBlocks_wf]

theorem writeReg_wf (s : State) (p : Nat) (c : BitVec 12) (d : Nat) (r : Nat) (v : Word) (reply : Option WriteReply) (w_s : s.mem.wf = true) :
    (writeReg s p c d r v reply).mem.wf = true := by
  unfold writeReg
  grind -ring -linarith -lia -order -ac [addWrite_wf, writeDieReg_wf, writeCounter_wf]

theorem srdResult_wf (dx : Bool) (die : BitVec 2) (reg : BitVec 12) (c : FireCtx) (s : State) (w_s : s.mem.wf = true) :
    ∀ rr, (srdResult dx die reg c s) = .ok rr → rr.1.mem.wf = true := by
  unfold srdResult
  simp only [bind, Except.bind, pure, Except.pure, require]
  grind -ring -linarith -lia -order -ac

theorem execSrd_wf (h : Head) (dx : Bool) (die : BitVec 2) (reg : BitVec 12) (s : State) (w_s : s.mem.wf = true) :
    ∀ rr, (execSrd h dx die reg s) = .next rr → rr.mem.wf = true := by
  unfold execSrd
  refine fireState_wf (by assumption) (fun c u r hu hb => ?_)
  grind -ring -linarith -lia -order -ac [→ srdResult_wf, → fireState_wf]

theorem swrResult_wf (dx : Bool) (die : BitVec 2) (reg : BitVec 12) (c : FireCtx) (m : MatchedSet) (s : State) (w_s : s.mem.wf = true) :
    ∀ rr, (swrResult dx die reg c m s) = .ok rr → rr.1.mem.wf = true := by
  unfold swrResult
  simp only [bind, Except.bind, pure, Except.pure, require]
  grind -ring -linarith -lia -order -ac [writeReg_wf]

theorem execSwr_wf (h : Head) (dx : Bool) (die : BitVec 2) (reg : BitVec 12) (s : State) (w_s : s.mem.wf = true) :
    ∀ rr, (execSwr h dx die reg s) = .next rr → rr.mem.wf = true := by
  unfold execSwr
  refine fireHeld_wf (by assumption) (fun c m u r hu hb => ?_)
  grind -ring -linarith -lia -order -ac [→ fireHeld_wf, → swrResult_wf]

theorem firmwareWrite_wf (s : State) (r : Nat) (v : Word) (w_s : s.mem.wf = true) :
    (firmwareWrite s r v).mem.wf = true := by
  unfold firmwareWrite
  grind -ring -linarith -lia -order -ac [writeState_wf, createContext_wf, modCtx_wf]

theorem execRegisterWrite_wf (s : State) (w_s : s.mem.wf = true) :
    ∀ rr, (execRegisterWrite s) = .next rr → rr.mem.wf = true := by
  unfold execRegisterWrite
  grind -ring -linarith -lia -order -ac [writeReg_wf, firmwareWrite_wf]

theorem execColdReset_wf (s : State) (hs : s.mem.wf = true) : ∀ r, execColdReset s = .next r → r.mem.wf = true := by
  intro r hr
  unfold execColdReset at hr
  split at hr <;> cases hr
  · simp only [Mem.wf, Bool.and_eq_true] at hs ⊢
    refine ⟨hs.1, ?_⟩
    rfl
  · exact hs

theorem execPlotOffline_wf (s : State) (w_s : s.mem.wf = true) :
    ∀ rr, (execPlotOffline s) = .next rr → rr.mem.wf = true := by
  unfold execPlotOffline
  grind -ring -linarith -lia -order -ac

theorem countCycle_wf (s : State) (p : Nat) (ev : BitVec 6) (cs : List (BitVec 12)) (w_s : s.mem.wf = true) :
    (countCycle s p ev cs).mem.wf = true := by
  unfold countCycle
  grind -ring -linarith -lia -order -ac [modBlocks_wf]

theorem countFree_wf (s : State) (p : Nat) (ev : BitVec 6) (b : Bool) (w_s : s.mem.wf = true) :
    (countFree s p ev b).mem.wf = true := by
  unfold countFree
  grind -ring -linarith -lia -order -ac [countEvent_wf]

theorem countCycles_wf (s : State) (p : Nat) (w_s : s.mem.wf = true) : (countCycles s p).mem.wf = true := by
  unfold countCycles
  grind -ring -linarith -lia -order -ac [countFree_wf, countCycle_wf]

theorem plotCycle_wf (s : State) (v : List Nat) (w_s : s.mem.wf = true) : (plotCycle s v).mem.wf = true := by
  unfold plotCycle
  (try dsimp only)
  (repeat' (first | with_reducible assumption | (with_reducible refine foldl_wf (fun _ _ _ => ?_) _ _ ?_) | split | with_reducible apply countCycles_wf | with_reducible apply kickUnit_wf | with_reducible apply kickPeers_wf | with_reducible apply nextWalk_wf | with_reducible apply kickPermits_wf)) <;> grind -ring -linarith -lia -order -ac [countCycles_wf, kickUnit_wf, kickPeers_wf, nextWalk_wf, kickPermits_wf]

theorem execPlotCycle_wf (s : State) (w_s : s.mem.wf = true) :
    ∀ rr, (execPlotCycle s) = .next rr → rr.mem.wf = true := by
  unfold execPlotCycle
  grind -ring -linarith -lia -order -ac [plotCycle_wf]

/-! ### Host -/

theorem barWrite_wf (s : State) (o n : Nat) (v : Word) (w_s : s.mem.wf = true) :
    (barWrite s o n v).mem.wf = true := by
  unfold barWrite
  (try dsimp only)
  (repeat' (first | with_reducible assumption | (with_reducible refine foldl_wf (fun _ _ _ => ?_) _ _ ?_) | split | with_reducible apply writeObreq_wf | with_reducible apply writeQcmd_wf | with_reducible apply kickQueue_wf | with_reducible apply writeCtxctl_wf)) <;> grind -ring -linarith -lia -order -ac [writeObreq_wf, writeQcmd_wf, kickQueue_wf, writeCtxctl_wf]

theorem execHostRead_wf (s : State) (w_s : s.mem.wf = true) :
    ∀ rr, (execHostRead s) = .next rr → rr.mem.wf = true := by
  unfold execHostRead
  grind -ring -linarith -lia -order -ac [newEng_wf]

theorem execHostWrite_wf (s : State) (w_s : s.mem.wf = true) :
    ∀ rr, (execHostWrite s) = .next rr → rr.mem.wf = true := by
  unfold execHostWrite
  grind -ring -linarith -lia -order -ac [newEng_wf, barWrite_wf]

theorem execHostSnoop_wf (s : State) (hs : s.mem.wf = true) : ∀ r, execHostSnoop s = .next r → r.mem.wf = true := by
  intro r hr
  unfold execHostSnoop at hr
  split at hr
  · dsimp only at hr
    split at hr
    · split at hr
      · rename_i p n m v hc hg x t ht
        have h1 := reaches_wf { s with cur := .idle } _ _ hs _ ht
        rw [← Host.Outcome.next.inj hr]
        have h2 :
            (l2Drop { (if t.hostLines.contains n then wakeWatch t n else t) with hostLines := (if t.hostLines.contains n then wakeWatch t n else t).hostLines.filter (fun l => l != n) } n).mem.wf = true :=
          l2Drop_wf _ _ (ite_wf (wakeWatch_wf _ _ h1) h1)
        split
        · exact h2
        · exact Mem.setLine_wf h2 _ _
      · cases hr; exact hs
    · cases hr; exact hs
  · cases hr; exact hs

end Sys2Proof.Machine
end

