-- ==== Sys2Proof/Laws/FormPlain.lean ====
section
/-! SUPPORT. The memory keeps its canonical form: the float and integer instructions and the choice of what runs.
For an operation `f`, `f_wf` says that the state it answers has a memory in canonical form when the state it was given has
one. -/
namespace Sys2Proof.Machine
-- One theorem after another: in parallel each would hold a thread and its stack.
set_option Elab.async false
set_option linter.unusedSimpArgs false
set_option linter.unusedVariables false

/-! ### Choose -/

theorem takeTurn_wf (s : State) (p t pe : Nat) (b : BlockId) (slot : BitVec 7) (i : Instr) (w_s : s.mem.wf = true) :
    (takeTurn s p t pe b slot i).mem.wf = true := by
  unfold takeTurn
  grind -ring -linarith -lia -order -ac [turnTaken_wf]

theorem takeArrival_wf (s : State) (p : Nat) (b : BlockId) (m : MatchedSet) (i : Instr) (w_s : s.mem.wf = true) :
    (takeArrival s p b m i).mem.wf = true := by
  unfold takeArrival
  grind -ring -linarith -lia -order -ac [rankTaken_wf]

theorem takeIterative_wf (s : State) (p t pe : Nat) (b : BlockId) (m : MatchedSet) (i : Instr) (w_s : s.mem.wf = true) :
    (takeIterative s p t pe b m i).mem.wf = true := by
  unfold takeIterative
  grind -ring -linarith -lia -order -ac [modPlot_wf]

theorem freeIterative_wf (s : State) (p t pe : Nat) (w_s : s.mem.wf = true) :
    (freeIterative s p t pe).mem.wf = true := by
  unfold freeIterative
  grind -ring -linarith -lia -order -ac [modPlot_wf]

theorem metStation_wf (s : State) (p : Nat) (b : BlockId) (slot : BitVec 7) (w_s : s.mem.wf = true) :
    (metStation s p b slot).mem.wf = true := by
  unfold metStation
  grind -ring -linarith -lia -order -ac [walkMet_wf]

theorem prepare_wf (s : State) (p t pe : Nat) (b : BlockId) (m : MatchedSet) (i : Instr) (w_s : s.mem.wf = true) :
    (prepare s p t pe b m i).mem.wf = true := by
  unfold prepare
  grind -ring -linarith -lia -order -ac [metStation_wf, takeArrival_wf, takeTurn_wf, takeIterative_wf]

theorem askStation_wf (s : State) (p t pe : Nat) (w_s : s.mem.wf = true) : (askStation s p t pe).mem.wf = true := by
  unfold askStation
  grind -ring -linarith -lia -order -ac [askWalker_wf]

theorem stepEngine_wf (s : State) (p n : Nat) (w_s : s.mem.wf = true) : (stepEngine s p n).mem.wf = true := by
  unfold stepEngine
  grind -ring -linarith -lia -order -ac [beginDrain_wf, stepGather_wf, stepCopy_wf]

theorem placeInstr_wf (s : State) (st : Station) (w_s : s.mem.wf = true) : (placeInstr s st).mem.wf = true := by
  unfold placeInstr
  grind -ring -linarith -lia -order -ac [modUnit_wf, modBlocks_wf, modCtx_wf, modWalker_wf, modPlot_wf]

/-! ### Float -/

theorem execFadd_wf (h : Head) (rm : Rnd) (s : State) (w_s : s.mem.wf = true) :
    ∀ rr, (execFadd h rm s) = .next rr → rr.mem.wf = true := by
  unfold execFadd
  exact fire_wf (by assumption)

theorem execFsub_wf (h : Head) (rm : Rnd) (s : State) (w_s : s.mem.wf = true) :
    ∀ rr, (execFsub h rm s) = .next rr → rr.mem.wf = true := by
  unfold execFsub
  exact fire_wf (by assumption)

theorem execFmul_wf (h : Head) (rm : Rnd) (s : State) (w_s : s.mem.wf = true) :
    ∀ rr, (execFmul h rm s) = .next rr → rr.mem.wf = true := by
  unfold execFmul
  exact fire_wf (by assumption)

theorem execFma_wf (h : Head) (rm : Rnd) (s : State) (w_s : s.mem.wf = true) :
    ∀ rr, (execFma h rm s) = .next rr → rr.mem.wf = true := by
  unfold execFma
  exact fire_wf (by assumption)

theorem execFmin_wf (h : Head) (s : State) (w_s : s.mem.wf = true) :
    ∀ rr, (execFmin h s) = .next rr → rr.mem.wf = true := by
  unfold execFmin
  exact fire_wf (by assumption)

theorem execFmax_wf (h : Head) (s : State) (w_s : s.mem.wf = true) :
    ∀ rr, (execFmax h s) = .next rr → rr.mem.wf = true := by
  unfold execFmax
  exact fire_wf (by assumption)

theorem execFcmp_wf (h : Head) (cc : FloatCond) (s : State) (w_s : s.mem.wf = true) :
    ∀ rr, (execFcmp h cc s) = .next rr → rr.mem.wf = true := by
  unfold execFcmp
  exact fire_wf (by assumption)

theorem execFabs_wf (h : Head) (s : State) (w_s : s.mem.wf = true) :
    ∀ rr, (execFabs h s) = .next rr → rr.mem.wf = true := by
  unfold execFabs
  exact fire_wf (by assumption)

theorem execFneg_wf (h : Head) (s : State) (w_s : s.mem.wf = true) :
    ∀ rr, (execFneg h s) = .next rr → rr.mem.wf = true := by
  unfold execFneg
  exact fire_wf (by assumption)

theorem execFcls_wf (h : Head) (cm : BitVec 9) (s : State) (w_s : s.mem.wf = true) :
    ∀ rr, (execFcls h cm s) = .next rr → rr.mem.wf = true := by
  unfold execFcls
  exact fire_wf (by assumption)

theorem execFrcp_wf (h : Head) (rm : Rnd) (s : State) (w_s : s.mem.wf = true) :
    ∀ rr, (execFrcp h rm s) = .next rr → rr.mem.wf = true := by
  unfold execFrcp
  exact fire_wf (by assumption)

theorem execFrsq_wf (h : Head) (rm : Rnd) (s : State) (w_s : s.mem.wf = true) :
    ∀ rr, (execFrsq h rm s) = .next rr → rr.mem.wf = true := by
  unfold execFrsq
  exact fire_wf (by assumption)

theorem execFex2_wf (h : Head) (rm : Rnd) (s : State) (w_s : s.mem.wf = true) :
    ∀ rr, (execFex2 h rm s) = .next rr → rr.mem.wf = true := by
  unfold execFex2
  exact fire_wf (by assumption)

theorem execFlg2_wf (h : Head) (rm : Rnd) (s : State) (w_s : s.mem.wf = true) :
    ∀ rr, (execFlg2 h rm s) = .next rr → rr.mem.wf = true := by
  unfold execFlg2
  exact fire_wf (by assumption)

theorem execFsin_wf (h : Head) (rm : Rnd) (s : State) (w_s : s.mem.wf = true) :
    ∀ rr, (execFsin h rm s) = .next rr → rr.mem.wf = true := by
  unfold execFsin
  exact fire_wf (by assumption)

theorem execFcos_wf (h : Head) (rm : Rnd) (s : State) (w_s : s.mem.wf = true) :
    ∀ rr, (execFcos h rm s) = .next rr → rr.mem.wf = true := by
  unfold execFcos
  exact fire_wf (by assumption)

theorem execFtanh_wf (h : Head) (rm : Rnd) (s : State) (w_s : s.mem.wf = true) :
    ∀ rr, (execFtanh h rm s) = .next rr → rr.mem.wf = true := by
  unfold execFtanh
  exact fire_wf (by assumption)

theorem execFdiv_wf (h : Head) (rm : Rnd) (s : State) (w_s : s.mem.wf = true) :
    ∀ rr, (execFdiv h rm s) = .next rr → rr.mem.wf = true := by
  unfold execFdiv
  exact fire_wf (by assumption)

theorem execFsqrt_wf (h : Head) (rm : Rnd) (s : State) (w_s : s.mem.wf = true) :
    ∀ rr, (execFsqrt h rm s) = .next rr → rr.mem.wf = true := by
  unfold execFsqrt
  exact fire_wf (by assumption)

theorem execCvt_wf (h : Head) (sty : Ty) (rm : Rnd) (s : State) (w_s : s.mem.wf = true) :
    ∀ rr, (execCvt h sty rm s) = .next rr → rr.mem.wf = true := by
  unfold execCvt
  exact fire_wf (by assumption)

theorem execFrnd_wf (h : Head) (rm : Rnd) (s : State) (w_s : s.mem.wf = true) :
    ∀ rr, (execFrnd h rm s) = .next rr → rr.mem.wf = true := by
  unfold execFrnd
  exact fire_wf (by assumption)

theorem execFscl_wf (h : Head) (rm : Rnd) (s : State) (w_s : s.mem.wf = true) :
    ∀ rr, (execFscl h rm s) = .next rr → rr.mem.wf = true := by
  unfold execFscl
  exact fire_wf (by assumption)

theorem execPlgat_wf (h : Head) (ft : BitVec 5) (s : State) (w_s : s.mem.wf = true) :
    ∀ rr, (execPlgat h ft s) = .next rr → rr.mem.wf = true := by
  unfold execPlgat
  exact fire_wf (by assumption)

theorem execPlsct_wf (h : Head) (ft : BitVec 5) (s : State) (w_s : s.mem.wf = true) :
    ∀ rr, (execPlsct h ft s) = .next rr → rr.mem.wf = true := by
  unfold execPlsct
  exact fire_wf (by assumption)

theorem execQnt_wf (h : Head) (ft : BitVec 5) (rm : Rnd) (s : State) (w_s : s.mem.wf = true) :
    ∀ rr, (execQnt h ft rm s) = .next rr → rr.mem.wf = true := by
  unfold execQnt
  exact fire_wf (by assumption)

theorem execDqnt_wf (h : Head) (sc : Bool) (rm : Rnd) (s : State) (w_s : s.mem.wf = true) :
    ∀ rr, (execDqnt h sc rm s) = .next rr → rr.mem.wf = true := by
  unfold execDqnt
  exact fire_wf (by assumption)

theorem execBsc_wf (h : Head) (sty : Ty) (s : State) (w_s : s.mem.wf = true) :
    ∀ rr, (execBsc h sty s) = .next rr → rr.mem.wf = true := by
  unfold execBsc
  exact fire_wf (by assumption)

/-! ### Integer -/

theorem execAdd_wf (h : Head) (s : State) (w_s : s.mem.wf = true) :
    ∀ rr, (execAdd h s) = .next rr → rr.mem.wf = true := by
  unfold execAdd
  exact fire_wf (by assumption)

theorem execSub_wf (h : Head) (s : State) (w_s : s.mem.wf = true) :
    ∀ rr, (execSub h s) = .next rr → rr.mem.wf = true := by
  unfold execSub
  exact fire_wf (by assumption)

theorem execMul_wf (h : Head) (s : State) (w_s : s.mem.wf = true) :
    ∀ rr, (execMul h s) = .next rr → rr.mem.wf = true := by
  unfold execMul
  exact fire_wf (by assumption)

theorem execMulh_wf (h : Head) (s : State) (w_s : s.mem.wf = true) :
    ∀ rr, (execMulh h s) = .next rr → rr.mem.wf = true := by
  unfold execMulh
  exact fire_wf (by assumption)

theorem execMad_wf (h : Head) (s : State) (w_s : s.mem.wf = true) :
    ∀ rr, (execMad h s) = .next rr → rr.mem.wf = true := by
  unfold execMad
  exact fire_wf (by assumption)

theorem execDiv_wf (h : Head) (s : State) (w_s : s.mem.wf = true) :
    ∀ rr, (execDiv h s) = .next rr → rr.mem.wf = true := by
  unfold execDiv
  exact fire_wf (by assumption)

theorem execRem_wf (h : Head) (s : State) (w_s : s.mem.wf = true) :
    ∀ rr, (execRem h s) = .next rr → rr.mem.wf = true := by
  unfold execRem
  exact fire_wf (by assumption)

theorem execNeg_wf (h : Head) (s : State) (w_s : s.mem.wf = true) :
    ∀ rr, (execNeg h s) = .next rr → rr.mem.wf = true := by
  unfold execNeg
  exact fire_wf (by assumption)

theorem execAbs_wf (h : Head) (s : State) (w_s : s.mem.wf = true) :
    ∀ rr, (execAbs h s) = .next rr → rr.mem.wf = true := by
  unfold execAbs
  exact fire_wf (by assumption)

theorem execMin_wf (h : Head) (s : State) (w_s : s.mem.wf = true) :
    ∀ rr, (execMin h s) = .next rr → rr.mem.wf = true := by
  unfold execMin
  exact fire_wf (by assumption)

theorem execMax_wf (h : Head) (s : State) (w_s : s.mem.wf = true) :
    ∀ rr, (execMax h s) = .next rr → rr.mem.wf = true := by
  unfold execMax
  exact fire_wf (by assumption)

theorem execAnd_wf (h : Head) (s : State) (w_s : s.mem.wf = true) :
    ∀ rr, (execAnd h s) = .next rr → rr.mem.wf = true := by
  unfold execAnd
  exact fire_wf (by assumption)

theorem execOr_wf (h : Head) (s : State) (w_s : s.mem.wf = true) :
    ∀ rr, (execOr h s) = .next rr → rr.mem.wf = true := by
  unfold execOr
  exact fire_wf (by assumption)

theorem execXor_wf (h : Head) (s : State) (w_s : s.mem.wf = true) :
    ∀ rr, (execXor h s) = .next rr → rr.mem.wf = true := by
  unfold execXor
  exact fire_wf (by assumption)

theorem execAndn_wf (h : Head) (s : State) (w_s : s.mem.wf = true) :
    ∀ rr, (execAndn h s) = .next rr → rr.mem.wf = true := by
  unfold execAndn
  exact fire_wf (by assumption)

theorem execShl_wf (h : Head) (s : State) (w_s : s.mem.wf = true) :
    ∀ rr, (execShl h s) = .next rr → rr.mem.wf = true := by
  unfold execShl
  exact fire_wf (by assumption)

theorem execShr_wf (h : Head) (s : State) (w_s : s.mem.wf = true) :
    ∀ rr, (execShr h s) = .next rr → rr.mem.wf = true := by
  unfold execShr
  exact fire_wf (by assumption)

theorem execSar_wf (h : Head) (s : State) (w_s : s.mem.wf = true) :
    ∀ rr, (execSar h s) = .next rr → rr.mem.wf = true := by
  unfold execSar
  exact fire_wf (by assumption)

theorem execRotl_wf (h : Head) (s : State) (w_s : s.mem.wf = true) :
    ∀ rr, (execRotl h s) = .next rr → rr.mem.wf = true := by
  unfold execRotl
  exact fire_wf (by assumption)

theorem execCmp_wf (h : Head) (cc : CmpCond) (s : State) (w_s : s.mem.wf = true) :
    ∀ rr, (execCmp h cc s) = .next rr → rr.mem.wf = true := by
  unfold execCmp
  exact fire_wf (by assumption)

theorem execClz_wf (h : Head) (s : State) (w_s : s.mem.wf = true) :
    ∀ rr, (execClz h s) = .next rr → rr.mem.wf = true := by
  unfold execClz
  exact fire_wf (by assumption)

theorem execCtz_wf (h : Head) (s : State) (w_s : s.mem.wf = true) :
    ∀ rr, (execCtz h s) = .next rr → rr.mem.wf = true := by
  unfold execCtz
  exact fire_wf (by assumption)

theorem execPopc_wf (h : Head) (s : State) (w_s : s.mem.wf = true) :
    ∀ rr, (execPopc h s) = .next rr → rr.mem.wf = true := by
  unfold execPopc
  exact fire_wf (by assumption)

theorem execBrev_wf (h : Head) (s : State) (w_s : s.mem.wf = true) :
    ∀ rr, (execBrev h s) = .next rr → rr.mem.wf = true := by
  unfold execBrev
  exact fire_wf (by assumption)

theorem execSext_wf (h : Head) (s : State) (w_s : s.mem.wf = true) :
    ∀ rr, (execSext h s) = .next rr → rr.mem.wf = true := by
  unfold execSext
  exact fire_wf (by assumption)

theorem execZext_wf (h : Head) (s : State) (w_s : s.mem.wf = true) :
    ∀ rr, (execZext h s) = .next rr → rr.mem.wf = true := by
  unfold execZext
  exact fire_wf (by assumption)

theorem execAdds_wf (h : Head) (s : State) (w_s : s.mem.wf = true) :
    ∀ rr, (execAdds h s) = .next rr → rr.mem.wf = true := by
  unfold execAdds
  exact fire_wf (by assumption)

theorem execSubs_wf (h : Head) (s : State) (w_s : s.mem.wf = true) :
    ∀ rr, (execSubs h s) = .next rr → rr.mem.wf = true := by
  unfold execSubs
  exact fire_wf (by assumption)

theorem execLea_wf (h : Head) (sc : BitVec 3) (s : State) (w_s : s.mem.wf = true) :
    ∀ rr, (execLea h sc s) = .next rr → rr.mem.wf = true := by
  unfold execLea
  exact fire_wf (by assumption)

theorem execLut4_wf (h : Head) (tt : BitVec 16) (s : State) (w_s : s.mem.wf = true) :
    ∀ rr, (execLut4 h tt s) = .next rr → rr.mem.wf = true := by
  unfold execLut4
  exact fire_wf (by assumption)

theorem execBext_wf (h : Head) (sx : Bool) (len : BitVec 7) (pos : BitVec 6) (s : State) (w_s : s.mem.wf = true) :
    ∀ rr, (execBext h sx len pos s) = .next rr → rr.mem.wf = true := by
  unfold execBext
  exact fire_wf (by assumption)

theorem execBins_wf (h : Head) (len : BitVec 7) (pos : BitVec 6) (s : State) (w_s : s.mem.wf = true) :
    ∀ rr, (execBins h len pos s) = .next rr → rr.mem.wf = true := by
  unfold execBins
  exact fire_wf (by assumption)

theorem execBsplit_wf (h : Head) (sx : Bool) (pos : BitVec 6) (s : State) (w_s : s.mem.wf = true) :
    ∀ rr, (execBsplit h sx pos s) = .next rr → rr.mem.wf = true := by
  unfold execBsplit
  exact fire_wf (by assumption)

theorem execBjoin_wf (h : Head) (pos : BitVec 6) (s : State) (w_s : s.mem.wf = true) :
    ∀ rr, (execBjoin h pos s) = .next rr → rr.mem.wf = true := by
  unfold execBjoin
  exact fire_wf (by assumption)

theorem execDec_wf (h : Head) (hi : BitVec 8) (iw : BitVec 3) (s : State) (w_s : s.mem.wf = true) :
    ∀ rr, (execDec h hi iw s) = .next rr → rr.mem.wf = true := by
  unfold execDec
  exact fire_wf (by assumption)

theorem execPext_wf (h : Head) (s : State) (w_s : s.mem.wf = true) :
    ∀ rr, (execPext h s) = .next rr → rr.mem.wf = true := by
  unfold execPext
  exact fire_wf (by assumption)

theorem execPdep_wf (h : Head) (s : State) (w_s : s.mem.wf = true) :
    ∀ rr, (execPdep h s) = .next rr → rr.mem.wf = true := by
  unfold execPdep
  exact fire_wf (by assumption)

theorem execBsel_wf (h : Head) (s : State) (w_s : s.mem.wf = true) :
    ∀ rr, (execBsel h s) = .next rr → rr.mem.wf = true := by
  unfold execBsel
  exact fire_wf (by assumption)

theorem execPkb_wf (h : Head) (lenM1 e : BitVec 3) (s : State) (w_s : s.mem.wf = true) :
    ∀ rr, (execPkb h lenM1 e s) = .next rr → rr.mem.wf = true := by
  unfold execPkb
  exact fire_wf (by assumption)

theorem execPkm_wf (h : Head) (s : State) (w_s : s.mem.wf = true) :
    ∀ rr, (execPkm h s) = .next rr → rr.mem.wf = true := by
  unfold execPkm
  exact fire_wf (by assumption)

theorem execPks_wf (h : Head) (k : BitVec 3) (s : State) (w_s : s.mem.wf = true) :
    ∀ rr, (execPks h k s) = .next rr → rr.mem.wf = true := by
  unfold execPks
  exact fire_wf (by assumption)

theorem execPkx_wf (h : Head) (s : State) (w_s : s.mem.wf = true) :
    ∀ rr, (execPkx h s) = .next rr → rr.mem.wf = true := by
  unfold execPkx
  exact fire_wf (by assumption)

theorem execPki_wf (h : Head) (s : State) (w_s : s.mem.wf = true) :
    ∀ rr, (execPki h s) = .next rr → rr.mem.wf = true := by
  unfold execPki
  exact fire_wf (by assumption)

theorem execPkr_wf (h : Head) (op : FoldOp) (s : State) (w_s : s.mem.wf = true) :
    ∀ rr, (execPkr h op s) = .next rr → rr.mem.wf = true := by
  unfold execPkr
  exact fire_wf (by assumption)

theorem execPkp_wf (h : Head) (dyn : Bool) (lenM1 : BitVec 3) (s : State) (w_s : s.mem.wf = true) :
    ∀ rr, (execPkp h dyn lenM1 s) = .next rr → rr.mem.wf = true := by
  unfold execPkp
  exact fire_wf (by assumption)

theorem execPkl_wf (h : Head) (lM1 : BitVec 3) (s : State) (w_s : s.mem.wf = true) :
    ∀ rr, (execPkl h lM1 s) = .next rr → rr.mem.wf = true := by
  unfold execPkl
  exact fire_wf (by assumption)

theorem execPkscan_wf (h : Head) (exc : Bool) (op : FoldOp) (s : State) (w_s : s.mem.wf = true) :
    ∀ rr, (execPkscan h exc op s) = .next rr → rr.mem.wf = true := by
  unfold execPkscan
  exact fire_wf (by assumption)

end Sys2Proof.Machine
end

