-- ==== Sys2Proof/Tests/Slice0.lean ====
section
/-! SUPPORT. Tests of the model. The words of the decode tests are put together from the tables of R60, R61, R73 and the
XF fields of each chapter; the other expected results are the spec's own examples or follow from its rules by hand. For
every statement of Obligations.lean with hypotheses a theorem `witness_…` shows states and operands that meet them. -/
namespace Sys2Proof.Tests
open Machine
-- One theorem after another: in parallel each would hold a thread and its stack.
set_option Elab.async false

/-! ### Encodings -/

/-- Common fields with one target: slot 9, port 1. -/
def hd (t : Ty) : Head := Head.mk t .none .always (some (Target.mk 9 1)) none none 0

/-- An op word with configuration word 0 decodes to an instruction. -/
def reads (x : Word × Instr) : Bool :=
  match decode x.1 0 with
  | .ok i => i == x.2
  | .error _ => false

theorem test_decode_token :
    [(0x0088225000000000, Instr.mov (hd .s32)),
     (0x0108225000000000, Instr.sink (hd .s32)),
     (0x01D8225000000005, Instr.steer (hd .lane) 5),
     (0x0208225000000000, Instr.select (hd .s32)),
     (0x0288225000000000, Instr.gate (hd .s32)),
     (0x0308225000000000, Instr.const (hd .s32)),
     (0x0388225000000000, Instr.exit (hd .s32)),
     (0x040022500000804D, Instr.call (hd .s64) true 77),
     (0x0488225000000000, Instr.ret (hd .s32)),
     (0x0520225000000021, Instr.lpent (hd .w64) 33),
     (0x05A0225000000021, Instr.lpnext (hd .w64) 33),
     (0x0620225000000021, Instr.lpexit (hd .w64) 33),
     (0x06A022500000050C, Instr.tagrd (hd .w64) 20 12),
     (0x0720225000003007, Instr.tagwr (hd .w64) .set 7),
     (0x0780225000000002, Instr.thrd (hd .s64) .wave),
     (0x0808225000000000, Instr.reord (hd .s32)),
     (0x08D8225000000001, Instr.join (hd .lane) true),
     (0x0908225000000000, Instr.argwr (hd .s32))].all reads = true := by decide +kernel

theorem test_decode_integer :
    [(0x1008225000000000, Instr.add (hd .s32)),
     (0x1088225000000000, Instr.sub (hd .s32)),
     (0x1108225000000000, Instr.mul (hd .s32)),
     (0x1188225000000000, Instr.mulh (hd .s32)),
     (0x1208225000000000, Instr.mad (hd .s32)),
     (0x1288225000000000, Instr.div (hd .s32)),
     (0x1308225000000000, Instr.rem (hd .s32)),
     (0x1388225000000000, Instr.neg (hd .s32)),
     (0x1408225000000000, Instr.abs (hd .s32)),
     (0x1488225000000000, Instr.min (hd .s32)),
     (0x1508225000000000, Instr.max (hd .s32)),
     (0x15B0225000000000, Instr.and (hd .w16)),
     (0x1630225000000000, Instr.or (hd .w16)),
     (0x16B0225000000000, Instr.xor (hd .w16)),
     (0x1730225000000000, Instr.andn (hd .w16)),
     (0x17B0225000000000, Instr.shl (hd .w16)),
     (0x1830225000000000, Instr.shr (hd .w16)),
     (0x1898225000000000, Instr.sar (hd .s8)),
     (0x1930225000000000, Instr.rotl (hd .w16)),
     (0x1988225000000003, Instr.cmp (hd .s32) .le),
     (0x1A30225000000000, Instr.clz (hd .w16)),
     (0x1AB0225000000000, Instr.ctz (hd .w16)),
     (0x1B30225000000000, Instr.popc (hd .w16)),
     (0x1BB0225000000000, Instr.brev (hd .w16)),
     (0x1C18225000000000, Instr.sext (hd .s8)),
     (0x1CB0225000000000, Instr.zext (hd .w16)),
     (0x1D08225000000000, Instr.adds (hd .s32)),
     (0x1D88225000000000, Instr.subs (hd .s32)),
     (0x1E20225000000006, Instr.lea (hd .w64) 6)].all reads = true := by decide +kernel

theorem test_decode_bit :
    [(0x302822500000CAFE, Instr.lut4 (hd .w32) 0xCAFE),
     (0x30A8225000002445, Instr.bext (hd .w32) true 17 5),
     (0x312822500000020C, Instr.bins (hd .w32) 8 12),
     (0x31A822500000200B, Instr.bsplit (hd .w32) true 11),
     (0x3228225000000009, Instr.bjoin (hd .w32) 9),
     (0x32A822500000A506, Instr.dec (hd .w32) 0xA5 6),
     (0x3330225000000000, Instr.pext (hd .w16)),
     (0x33B0225000000000, Instr.pdep (hd .w16)),
     (0x3430225000000000, Instr.bsel (hd .w16))].all reads = true := by decide +kernel

theorem test_decode_packet :
    [(0x401022500000002A, Instr.pkb (hd .s16) 5 2),
     (0x40B0225000000000, Instr.pkm (hd .w16)),
     (0x4110225000000003, Instr.pks (hd .s16) 3),
     (0x41B0225000000000, Instr.pkx (hd .w16)),
     (0x4230225000000000, Instr.pki (hd .w16)),
     (0x4290225000000002, Instr.pkr (hd .s16) .max),
     (0x431022500000000E, Instr.pkp (hd .s16) true 6),
     (0x4390225000000004, Instr.pkl (hd .s16) 4),
     (0x441022500000000D, Instr.pkscan (hd .s16) true .xor)].all reads = true := by decide +kernel

theorem test_decode_float :
    [(0x5048225000000000, Instr.fadd (hd .f16) .rne),
     (0x50C8225000000001, Instr.fsub (hd .f16) .rtz),
     (0x5148225000000002, Instr.fmul (hd .f16) .rup),
     (0x51C8225000000003, Instr.fma (hd .f16) .rdn),
     (0x5240225000000000, Instr.fmin (hd .f32)),
     (0x52C0225000000000, Instr.fmax (hd .f32)),
     (0x5350225000000028, Instr.fcmp (hd .bf16) .ge),
     (0x53C0225000000000, Instr.fabs (hd .f32)),
     (0x5440225000000000, Instr.fneg (hd .f32)),
     (0x54C0225000000AA8, Instr.fcls (hd .f32) 0x155),
     (0x5548225000000004, Instr.frcp (hd .f16) .rna),
     (0x55C8225000000005, Instr.frsq (hd .f16) .sr),
     (0x5648225000000000, Instr.fex2 (hd .f16) .rne),
     (0x56C8225000000001, Instr.flg2 (hd .f16) .rtz),
     (0x5748225000000002, Instr.fsin (hd .f16) .rup),
     (0x57C8225000000003, Instr.fcos (hd .f16) .rdn),
     (0x5848225000000004, Instr.ftanh (hd .f16) .rna),
     (0x58C8225000000005, Instr.fdiv (hd .f16) .sr),
     (0x5948225000000000, Instr.fsqrt (hd .f16) .rne),
     (0x59C0225000000011, Instr.cvt (hd .f32) .s16 .rtz),
     (0x5A48225000000001, Instr.frnd (hd .f16) .rtz),
     (0x5AC8225000000002, Instr.fscl (hd .f16) .rup)].all reads = true := by decide +kernel

theorem test_decode_narrow :
    [(0x7008225000000090, Instr.wad (hd .s32) 0x12),
     (0x70A0225000000088, Instr.plgat (hd .w64) 0x11),
     (0x7120225000000088, Instr.plsct (hd .w64) 0x11),
     (0x71C82250000000CC, Instr.qnt (hd .f16) 0x19 .rna),
     (0x724022500000000A, Instr.dqnt (hd .f32) true .rup),
     (0x72D8225000000050, Instr.bsc (hd .lane) .bf16)].all reads = true := by decide +kernel

theorem test_decode_memory :
    [(0x8028225000000057, Instr.ld (hd .w32) (MemXf.mk 0 false .l2keep true .device .acqrel)),
     (0x80A8225000000057, Instr.st (hd .w32) (MemXf.mk 0 false .l2keep true .device .acqrel)),
     (0x8128225000000089, Instr.lds (hd .w32) (MemXf.mk 0 true .normal false .system .acquire)),
     (0x81A8225000000057, Instr.stf (hd .w32) (MemXf.mk 0 false .l2keep true .device .acqrel)),
     (0x8228225000000057, Instr.clre (hd .w32) (MemXf.mk 0 false .l2keep true .device .acqrel)),
     (0x82A8225000000057, Instr.mnop (hd .w32) (MemXf.mk 0 false .l2keep true .device .acqrel)),
     (0x8300225000000000, Instr.wadv (hd .s64)),
     (0x83A8225000000057, Instr.fence (hd .w32) (MemXf.mk 0 false .l2keep true .device .acqrel)),
     (0x842822500000060C, Instr.atom (hd .w32) (MemXf.mk 6 false .normal false .none .plain)),
     (0x84A822500000060C, Instr.red (hd .w32) (MemXf.mk 6 false .normal false .none .plain)),
     (0x8528225000000057, Instr.pref (hd .w32) (MemXf.mk 0 false .l2keep true .device .acqrel)),
     (0x85A8225000000057, Instr.cctl (hd .w32) (MemXf.mk 0 false .l2keep true .device .acqrel)),
     (0x8628225000000057, Instr.ldg (hd .w32) (MemXf.mk 0 false .l2keep true .device .acqrel)),
     (0x86A8225000000057, Instr.sts (hd .w32) (MemXf.mk 0 false .l2keep true .device .acqrel))].all reads = true := by decide +kernel

theorem test_decode_stream :
    [(0xA000225000000190, Instr.cnt (hd .s64) true 2 16),
     (0xA080225000000190, Instr.cchn (hd .s64) true 2 16),
     (0xA100225000000000, Instr.agen (hd .s64)),
     (0xA1C822500000F534, Instr.strl (hd .f16) true 7 0x0A .stream true .device),
     (0xA248225000000078, Instr.strs (hd .f16) .l2first true .system),
     (0xA280225000000015, Instr.ctks (hd .s64) true 5),
     (0xA300225000000039, Instr.ctkw (hd .s64) 3 9),
     (0xA380225000000000, Instr.cnrd (hd .s64)),
     (0xA400225000000002, Instr.cnwr (hd .s64) .go)].all reads = true := by decide +kernel

theorem test_decode_plotstore :
    [(0xB00022500000000D, Instr.cbini (hd .s64) 13),
     (0xB080225000000016, Instr.cbres (hd .s64) true 6),
     (0xB10022500000000D, Instr.cbcom (hd .s64) 13),
     (0xB180225000000016, Instr.cbacq (hd .s64) true 6),
     (0xB20022500000000D, Instr.cbrel (hd .s64) 13),
     (0xB28022500000000D, Instr.cbst (hd .s64) 13),
     (0xB300225000000014, Instr.cpy (hd .s64) true .device),
     (0xB380225000000014, Instr.cpy2 (hd .s64) true .device),
     (0xB400225000000013, Instr.cpycb (hd .s64) true 3),
     (0xB480225000000014, Instr.cpyq (hd .s64) true .device),
     (0xB500225000000000, Instr.pmini (hd .s64)),
     (0xB580225000000000, Instr.pment (hd .s64)),
     (0xB600225000000000, Instr.pmex (hd .s64)),
     (0xB680225000000001, Instr.frq (hd .s64) true),
     (0xB700225000000000, Instr.frl (hd .s64))].all reads = true := by decide +kernel

theorem test_decode_matrix :
    [(0xC000225000000001, Instr.mwld (hd .s64) true),
     (0xC080225000000001, Instr.mwsw (hd .s64) true),
     (0xC100225000000007, Instr.mclr (hd .s64) 7),
     (0xC1802250000003F5, Instr.mma (hd .s64) 63 5),
     (0xC200225000000050, Instr.mgat (hd .s64) 0x0A),
     (0xC280225000000100, Instr.mrep (hd .s64) true),
     (0xC3002250000006F6, Instr.mdrn (hd .s64) .device true .rdn true .bf16 6),
     (0xC380225000000004, Instr.mchk (hd .s64) 4),
     (0xC400225000000000, Instr.mloc (hd .s64)),
     (0xC480225000000000, Instr.mfix (hd .s64)),
     (0xC500225000000000, Instr.mrty (hd .s64)),
     (0xC580225000000004, Instr.mrd (hd .s64) .status),
     (0xC600225000000011, Instr.mwr (hd .s64) .f16 1),
     (0xC68022500000014A, Instr.mst (hd .s64) .sr false .f16 2),
     (0xC700225000000000, Instr.mfil (hd .s64)),
     (0xC780225000000001, Instr.mtol (hd .s64) .bf16)].all reads = true := by decide +kernel

theorem test_decode_group :
    [(0xE000225000000000, Instr.sow (hd .s64)),
     (0xE080225000000000, Instr.kdep (hd .s64)),
     (0xE100225000000000, Instr.kdec (hd .s64)),
     (0xE180225000000002, Instr.grex (hd .s64) .gnum),
     (0xE20022500000000B, Instr.bari (hd .s64) 11),
     (0xE28022500000001F, Instr.bar (hd .s64) true 15),
     (0xE30022500000000B, Instr.barq (hd .s64) 11),
     (0xE380225000000007, Instr.post (hd .s64) true 3),
     (0xE400225000000012, Instr.recv (hd .s64) true 2),
     (0xE480225000000000, Instr.yld (hd .s64))].all reads = true := by decide +kernel

theorem test_decode_context :
    [(0xF000225000006304, Instr.srd (hd .s64) true 2 0x304),
     (0xF080225000006304, Instr.swr (hd .s64) true 2 0x304),
     (0xF100225000000055, Instr.trap (hd .s64) 0x55),
     (0xF180225000000000, Instr.hcse (hd .s64)),
     (0xF200225000000001, Instr.hres (hd .s64) true),
     (0xF280225000000000, Instr.hkil (hd .s64)),
     (0xF300225000000002, Instr.tlbi (hd .s64) .all),
     (0xF380225000000019, Instr.pwrq (hd .s64) true 9),
     (0xF400225000000001, Instr.imtr (hd .s64) .rd),
     (0xF480225000000004, Instr.minj (hd .s64) .ecc2),
     (0xF500225000000001, Instr.halt (hd .s64) .freeze),
     (0xF580225000000003, Instr.rrec (hd .s64) .status)].all reads = true := by decide +kernel
/-- IM, PR, the three targets and the configuration word (R60, R61): `add.w64` with a constant on port 1 that fires on a
false predicate, to 1.0, 127.2 and 64.3. -/
theorem test_decode_head : decode 0x1022_A04F_FB03_3000 0xFEDC_BA98_7654_3210 = .error (.opFields 0x3000) ∧
    decode 0x1022_A04F_FB03_0000 0xFEDC_BA98_7654_3210 = .ok (.add (Head.mk .w64 .port1 .ifFalse
      (some (Target.mk 1 0)) (some (Target.mk 127 2)) (some (Target.mk 64 3)) 0xFEDC_BA98_7654_3210)) := ⟨rfl, rfl⟩

/-- What no table assigns is refused by name (R28, R60, R63, R68, R74): the all-zero word, a reserved opcode, TY 12, IM
0b011, PR 0b11, a target that is not in use with a slot, a stray XF bit, rounding mode 6. -/
theorem test_decode_refuses :
    decode 0 0 = .error (.opcode 0) ∧ decode 0x0980_0000_0000_0000 0 = .error (.opcode 0x013) ∧
    decode 0x1060_0000_0000_0000 0 = .error (.elementType 12) ∧ decode 0x1003_0000_0000_0000 0 = .error (.immediate 3) ∧
    decode 0x1000_C000_0000_0000 0 = .error .predicate ∧ decode 0x1000_0040_0000_0000 0 = .error (.deadTarget 0) ∧
    decode 0x1000_0000_0000_0001 0 = .error (.opFields 1) ∧ decode 0x5040_0000_0000_0006 0 = .error (.opFields 6) := by
  refine ⟨?_, ?_, ?_, ?_, ?_, ?_, ?_, ?_⟩ <;> rfl

/-- A block that is loaded holds none of these (R62 to R69): each check refuses the term beside one it accepts. -/
theorem test_ill_formed :
    wellFormed (.add (hd .s32)) = true ∧ wellFormed (.add (hd .f32)) = false ∧
    wellFormed (.add { hd .s32 with im := .port1, cfg := 7 }) = true ∧ wellFormed (.add { hd .s32 with im := .port2 }) = false ∧
    wellFormed (.add { hd .s32 with cfg := 7 }) = false ∧
    wellFormed (.neg { hd .s32 with im := .port0 }) = false ∧
    wellFormed (.cnrd { hd .s64 with pr := .ifTrue }) = true ∧ wellFormed (.wad (hd .lane) 0x12) = true ∧
    wellFormed (.wad { hd .lane with pr := .ifTrue } 0x12) = false ∧
    wellFormed (.pks { hd .s32 with t2 := some (Target.mk 1 0) } 3) = false ∧ wellFormed (.pks (hd .s32) 3) = true ∧
    wellFormed (.pks (hd .s32) 0) = false ∧
    wellFormed (.ld (hd .s32) (MemXf.mk 0 false .normal true .device .plain)) = false ∧
    wellFormed (.ld { hd .w64 with cfg := 0xFEFE_FE00_0000_0000 } (MemXf.mk 0 false .normal false .none .plain)) = false ∧
    wellFormed .plotCycle = false := by decide +kernel

/-! ### Firings -/

/-- A block of context 1, and an envelope whose tag holds the nested loops of the example of R96: U = 24, 5 and 2. -/
def blk : BlockId := BlockId.mk 1 0x10000 0
def env : Envelope := Envelope.mk 0x6000_0000_0000_0502 3 2 7 []

/-- Port `n` of a matched set, with a packet of a tag. -/
def inp (n : BitVec 2) (tag : BitVec 5) (ws : List Word) : BitVec 2 × Token := (n, Token.mk env (mkPacket tag ws))

/-- The state after reset in which slot 5 of the block fires these tokens on plot 0. -/
def firing (ts : List (BitVec 2 × Token)) : State := { State.reset with cur := .firing 0 blk (MatchedSet.mk 5 ts 0 []) }

/-- The context of that firing. -/
def ctxOf (h : Head) (ts : List (BitVec 2 × Token)) : FireCtx := fireCtxOf (firing ts) 0 blk (MatchedSet.mk 5 ts 0 []) h

/-- What an instruction sends: slots and packets. -/
def sent (i : Instr) (s : State) : List (Nat × Packet) :=
  match exec i s with
  | .next t => t.flights.map (fun f => (f.dest.slot.toNat, f.tok.pkt))
  | _ => []

/-- The packets that an instruction with the common fields `hd` sends to its target for these tokens. -/
def out (i : Instr) (ts : List (BitVec 2 × Token)) : List Packet := (sent i (firing ts)).map Prod.snd

/-- The word of a signed integer. -/
def n (x : Int) : Word := BitVec.ofInt 64 x

/-- A constant on port 1. -/
def k1 (t : Ty) (v : Word) : Head := { hd t with im := .port1, cfg := v }

/-- R119, R118: `add.s32` of (1, 2, 3, 4) with #10, and with a token of length 1. -/
theorem test_add : out (.add (k1 .s32 10)) [inp 0 1 [1, 2, 3, 4]] = [mkPacket 1 [11, 12, 13, 14]] ∧
    out (.add (hd .s32)) [inp 0 1 [1, 2, 3, 4], inp 1 1 [7]] = [mkPacket 1 [8, 9, 10, 11]] := by decide +kernel
/-- R118: lengths 4 and 3 fault. -/
theorem test_add_lengths : out (.add (hd .s32)) [inp 0 1 [1, 2, 3, 4], inp 1 1 [1, 2, 3]] = [] := by decide +kernel
/-- R31: results wrap to the width of TY. -/
theorem test_sub_wraps : out (.sub (hd .s8)) [inp 0 3 [n (-128)], inp 1 3 [1]] = [mkPacket 3 [n 127]] := by decide +kernel
theorem test_mul_wraps : out (.mul (hd .s16)) [inp 0 2 [300], inp 1 2 [300]] = [mkPacket 2 [n 24464]] := by decide +kernel
theorem test_mulh : out (.mulh (hd .s32)) [inp 0 1 [n (-1)], inp 1 1 [2]] = [mkPacket 1 [n (-1)]] := by decide +kernel
theorem test_mad : out (.mad (hd .s32)) [inp 0 1 [n (-3)], inp 1 1 [4], inp 2 1 [5]] = [mkPacket 1 [n (-7)]] := by decide +kernel
/-- R122: division by zero and the overflow. -/
theorem test_div : out (.div (hd .s8)) [inp 0 3 [n (-7), n (-128), 5], inp 1 3 [2, n (-1), 0]] = [mkPacket 3 [n (-3), n (-128), n (-1)]] := by
  decide +kernel
theorem test_rem : out (.rem (hd .s8)) [inp 0 3 [n (-7), n (-128), 5], inp 1 3 [2, n (-1), 0]] = [mkPacket 3 [n (-1), 0, 5]] := by
  decide +kernel
theorem test_abs : out (.abs (hd .s8)) [inp 0 3 [n (-128), n (-5)]] = [mkPacket 3 [n (-128), 5]] := by decide +kernel
theorem test_neg : out (.neg (hd .w8)) [inp 0 7 [1]] = [mkPacket 7 [255]] := by decide +kernel
theorem test_min : out (.min (hd .s8)) [inp 0 3 [n (-1)], inp 1 3 [1]] = [mkPacket 3 [n (-1)]] := by decide +kernel
theorem test_max : out (.max (hd .w8)) [inp 0 7 [255], inp 1 7 [1]] = [mkPacket 7 [255]] := by decide +kernel
theorem test_adds : out (.adds (hd .s8)) [inp 0 3 [100], inp 1 3 [50]] = [mkPacket 3 [127]] := by decide +kernel
theorem test_subs : out (.subs (hd .w8)) [inp 0 7 [3], inp 1 7 [5]] = [mkPacket 7 [0]] := by decide +kernel
/-- R123: the shifts of 0x90 by −1 as .s8. -/
theorem test_shifts : out (.shr (hd .s8)) [inp 0 3 [n (-112)], inp 1 3 [n (-1)]] = [mkPacket 3 [1]] ∧
    out (.sar (hd .s8)) [inp 0 3 [n (-112)], inp 1 3 [n (-1)]] = [mkPacket 3 [n (-1)]] ∧
    out (.shl (hd .s8)) [inp 0 3 [n (-112)], inp 1 3 [n (-1)]] = [mkPacket 3 [0]] ∧
    out (.rotl (hd .s8)) [inp 0 3 [n (-112)], inp 1 3 [n (-1)]] = [mkPacket 3 [0x48]] := by decide +kernel
theorem test_logic : out (.and (hd .w8)) [inp 0 7 [0xC], inp 1 7 [0xA]] = [mkPacket 7 [8]] ∧
    out (.or (hd .w8)) [inp 0 7 [0xC], inp 1 7 [0xA]] = [mkPacket 7 [14]] ∧
    out (.xor (hd .w8)) [inp 0 7 [0xC], inp 1 7 [0xA]] = [mkPacket 7 [6]] ∧
    out (.andn (hd .w8)) [inp 0 7 [0xC], inp 1 7 [0xA]] = [mkPacket 7 [4]] := by decide +kernel
theorem test_cmp : out (.cmp (hd .s8) .lt) [inp 0 3 [n (-1), 1], inp 1 3 [1]] = [mkPacket 3 [1, 0]] ∧
    out (.cmp (hd .w8) .tst) [inp 0 7 [6, 8], inp 1 7 [3]] = [mkPacket 7 [1, 0]] := by decide +kernel
theorem test_counts : out (.clz (hd .w16)) [inp 0 6 [0, 0x10]] = [mkPacket 6 [16, 11]] ∧
    out (.ctz (hd .w16)) [inp 0 6 [0, 0x10]] = [mkPacket 6 [16, 4]] ∧ out (.popc (hd .w16)) [inp 0 6 [0xF0F1]] = [mkPacket 6 [9]] ∧
    out (.brev (hd .w8)) [inp 0 7 [0x16]] = [mkPacket 7 [0x68]] := by decide +kernel
/-- R126. -/
theorem test_extensions : out (.sext (hd .w16)) [inp 0 6 [0x00F3], inp 1 6 [8]] = [mkPacket 6 [0xFFF3]] ∧
    out (.zext (hd .s16)) [inp 0 2 [n (-13)], inp 1 2 [8]] = [mkPacket 2 [243]] := by decide +kernel
/-- R127. -/
theorem test_lea : out (.lea (hd .w64) 3) [inp 0 4 [0x0000_1000_0000_0000], inp 1 4 [0xFFFF_FFFF_FFFF_FFFE]] =
    [mkPacket 4 [0x0000_0FFF_FFFF_FFF0]] := by decide +kernel
/-- R130: the majority of three. -/
theorem test_lut4 : out (.lut4 (hd .w32) 0xE8E8) [inp 0 5 [0xFF00], inp 1 5 [0xF0F0], inp 2 5 [0xCCCC]] = [mkPacket 5 [0xFCC0]] := by
  decide +kernel
/-- R131, R132. -/
theorem test_fields : out (.bext (hd .s32) true 4 4) [inp 0 1 [0xF0]] = [mkPacket 1 [n (-1)]] ∧
    out (.bins (hd .w32) 8 4) [inp 0 5 [0xFFFF], inp 1 5 [0x12]] = [mkPacket 5 [0xF12F]] ∧
    out (.bjoin (hd .w32) 8) [inp 0 5 [0x134], inp 1 5 [0x12]] = [mkPacket 5 [0x1234]] ∧
    out (.bsplit (hd .w32) false 8) [inp 0 5 [0x1234]] = [mkPacket 5 [0x34]] := by decide +kernel
/-- R133: selectors 6 and 7 with the table 0xE4. -/
theorem test_dec :
    let h : Head := Head.mk .w32 .none .always (some (Target.mk 1 0)) (some (Target.mk 2 0)) (some (Target.mk 3 0)) 0xE4
    sent (.dec h 0 2) (firing [inp 0 5 [6], inp 1 5 [77]]) = [(3, mkPacket 5 [77])] ∧
    sent (.dec h 0 2) (firing [inp 0 5 [7], inp 1 5 [77]]) = [] := by decide +kernel
/-- R134. -/
theorem test_masks : out (.pext (hd .w8)) [inp 0 7 [0xB6], inp 1 7 [0xCA]] = [mkPacket 7 [9]] ∧
    out (.pdep (hd .w8)) [inp 0 7 [9], inp 1 7 [0xCA]] = [mkPacket 7 [0x82]] ∧
    out (.bsel (hd .w8)) [inp 0 7 [0xF0], inp 1 7 [0xAA], inp 2 7 [0x55]] = [mkPacket 7 [0xA5]] := by decide +kernel
/-- R142: the folds of (100, 50, −90, 20). -/
theorem test_folds : out (.pkr (hd .s8) .add) [inp 0 3 [100, 50, n (-90), 20]] = [mkPacket 3 [80]] ∧
    out (.pkr (hd .s8) .adds) [inp 0 3 [100, 50, n (-90), 20]] = [mkPacket 3 [57]] ∧
    out (.pkscan (hd .s8) false .adds) [inp 0 3 [100, 50, n (-90), 20]] = [mkPacket 3 [100, 127, 37, 57]] ∧
    out (.pkscan (hd .s8) true .adds) [inp 0 3 [100, 50, n (-90), 20]] = [mkPacket 3 [0, 100, 127, 37]] := by decide +kernel
/-- R137 to R144. -/
theorem test_packets : out (.pkp { hd .w32 with cfg := 0x53 } false 3) [inp 0 5 [10, 20, 30, 40]] = [mkPacket 5 [40, 30, 20, 10]] ∧
    out (.pkp { hd .w32 with cfg := 0x53 } false 3) [inp 0 5 [10, 20]] = [] ∧
    out (.pkb (hd .w32) 2 1) [inp 0 5 [7, 8]] = [mkPacket 5 [8, 8, 8]] ∧
    out (.pkm (hd .w32)) [inp 0 5 [1, 2], inp 1 5 [3]] = [mkPacket 5 [1, 2, 3]] ∧
    out (.pkx (hd .w32)) [inp 0 5 [7, 8, 9], inp 1 5 [2]] = [mkPacket 5 [9]] ∧
    out (.pki (hd .w32)) [inp 0 5 [7, 8, 9], inp 1 5 [1], inp 2 5 [2]] = [mkPacket 5 [7, 8, 1]] ∧
    sent (.pks { hd .w32 with t1 := some (Target.mk 8 0) } 2) (firing [inp 0 5 [1, 2, 3, 4]]) =
      [(9, mkPacket 5 [1, 2]), (8, mkPacket 5 [3, 4])] := by decide +kernel

/-- R41, R150: 1.0 + 2^-24 in f32 rounds to even, and up under RUP. -/
theorem test_fadd : out (.fadd (hd .f32) .rne) [inp 0 8 [0x3F80_0000], inp 1 8 [0x3380_0000]] = [mkPacket 8 [0x3F80_0000]] ∧
    out (.fadd (hd .f32) .rup) [inp 0 8 [0x3F80_0000], inp 1 8 [0x3380_0000]] = [mkPacket 8 [0x3F80_0001]] := by decide +kernel
theorem test_float_arithmetic :
    out (.fsub (hd .f16) .rne) [inp 0 9 [0x3C00], inp 1 9 [0x4000]] = [mkPacket 9 [0xBC00]] ∧
    out (.fmul (hd .bf16) .rne) [inp 0 10 [0x4040], inp 1 10 [0xC000]] = [mkPacket 10 [0xC0C0]] ∧
    out (.fma (hd .f32) .rne) [inp 0 8 [0x4000_0000], inp 1 8 [0x4040_0000], inp 2 8 [0x3F80_0000]] = [mkPacket 8 [0x40E0_0000]] ∧
    out (.fdiv (hd .f32) .rtz) [inp 0 8 [0x3F80_0000], inp 1 8 [0x4040_0000]] = [mkPacket 8 [0x3EAA_AAAA]] ∧
    out (.fsqrt (hd .f32) .rne) [inp 0 8 [0x4110_0000]] = [mkPacket 8 [0x4040_0000]] ∧
    out (.frcp (hd .f32) .rne) [inp 0 8 [0x4000_0000]] = [mkPacket 8 [0x3F00_0000]] := by decide +kernel
/-- R151. -/
theorem test_fmin_fmax : out (.fmin (hd .f32)) [inp 0 8 [0], inp 1 8 [0x8000_0000]] = [mkPacket 8 [0x8000_0000]] ∧
    out (.fmax (hd .bf16)) [inp 0 10 [0x7FC1], inp 1 10 [0x3F80]] = [mkPacket 10 [0x7FC0]] := by decide +kernel
theorem test_fsigns : out (.fabs (hd .f32)) [inp 0 8 [0xBF80_0000]] = [mkPacket 8 [0x3F80_0000]] ∧
    out (.fneg (hd .f32)) [inp 0 8 [0]] = [mkPacket 8 [0x8000_0000]] := by decide +kernel
/-- R152: 1.0, NaN and −0 against #0.0. -/
theorem test_fcmp : out (.fcmp (k1 .f16 0) .lt) [inp 0 9 [0x3C00, 0x7E00, 0x8000]] = [mkPacket 9 [0, 0, 0]] ∧
    out (.fcmp (k1 .f16 0) .le) [inp 0 9 [0x3C00, 0x7E00, 0x8000]] = [mkPacket 9 [0, 0, 0x3C00]] := by decide +kernel
/-- R156: the example of `cvt`, with a token tagged 0x14 for the last. -/
theorem test_cvt : out (.cvt (hd .s16) .f32 .rna) [inp 0 8 [0x4020_0000, 0xC020_0000, 0x471C_4000, 0x7FC0_0000]] =
      [mkPacket 2 [3, n (-3), 32767, 0]] ∧
    out (.cvt (hd .w8) .s32 .rne) [inp 0 1 [300, n (-4)]] = [mkPacket 7 [255, 0]] ∧
    out (.cvt (hd .f32) .lane .rne) [inp 0 0x14 [n (-17)]] = [mkPacket 8 [0xC188_0000]] := by decide +kernel
/-- R157. -/
theorem test_frnd : out (.frnd (hd .f32) .rne) [inp 0 8 [0x4020_0000]] = [mkPacket 8 [0x4000_0000]] ∧
    out (.frnd (hd .f32) .rna) [inp 0 8 [0x4020_0000]] = [mkPacket 8 [0x4040_0000]] ∧
    out (.frnd (hd .f32) .rup) [inp 0 8 [0xBECC_CCCD]] = [mkPacket 8 [0x8000_0000]] ∧
    out (.frnd (hd .f32) .rdn) [inp 0 8 [0xBECC_CCCD]] = [mkPacket 8 [0xBF80_0000]] := by decide +kernel
/-- R158. -/
theorem test_fscl : out (.fscl (hd .f16) .rne) [inp 0 9 [0x3E00], inp 1 0 [n (-25)]] = [mkPacket 9 [1]] ∧
    out (.fscl (hd .bf16) .rne) [inp 0 10 [0x3F80], inp 1 0 [200]] = [mkPacket 10 [0x7F80]] := by decide +kernel

/-! ### Tags and threads -/

/-- The tags that an instruction sends its result under. -/
def tags (i : Instr) (ts : List (BitVec 2 × Token)) : List Word :=
  match exec i (firing ts) with
  | .next t => t.flights.map (fun f => f.tok.env.tag)
  | _ => []

/-- R96, R110: the tag of the example, entered, stepped and left; a third loop of 40 bits overflows. -/
theorem test_loops : tags (.lpent (hd .s32) 16) [inp 0 1 [1]] = [0xA000_0000_0502_0000] ∧
    tags (.lpnext (hd .s32) 8) [inp 0 1 [1]] = [0x6000_0000_0000_0503] ∧
    tags (.lpexit (hd .s32) 8) [inp 0 1 [1]] = [0x4000_0000_0000_0005] ∧ tags (.lpent (hd .s32) 40) [inp 0 1 [1]] = [] := by
  decide +kernel
/-- R111, R112, R113. -/
theorem test_tag_fields : out (.tagrd (hd .w64) 8 16) [inp 0 4 [1]] = [mkPacket 4 [5]] ∧
    tags (.tagwr (hd .s32) .set 8) [inp 0 1 [1], inp 1 4 [9]] = [0x6000_0000_0000_0509] ∧
    out (.thrd (hd .s64) .thread) [inp 0 1 [1]] = [mkPacket 5 [3]] ∧ out (.thrd (hd .s64) .wave) [inp 0 1 [1]] = [mkPacket 5 [7]] := by
  decide +kernel
/-- R99 to R104. -/
theorem test_routing :
    let h : Head := Head.mk .s32 .none .always (some (Target.mk 1 0)) (some (Target.mk 2 0)) (some (Target.mk 3 0)) 0
    out (.mov (hd .w16)) [inp 0 5 [7]] = [retag 6 (mkPacket 5 [7])] ∧ out (.sink (hd .s32)) [inp 0 1 [7]] = [] ∧
    (sent (.steer h 5) (firing [inp 0 1 [7], inp 1 1 [1]])).map Prod.fst = [1, 3] ∧
    (sent (.steer h 5) (firing [inp 0 1 [7], inp 1 1 [0]])).map Prod.fst = [2] ∧
    out (.select (hd .s32)) [inp 0 1 [1, 0], inp 1 1 [5, 6], inp 2 1 [8, 9]] = [mkPacket 1 [5, 9]] ∧
    out (.gate (hd .s32)) [inp 0 1 [7], inp 1 1 [0]] = [mkPacket 1 [7]] ∧
    out (.const { hd .s32 with im := .port1, cfg := 42 }) [inp 0 1 [7]] = [mkPacket 1 [42]] := by decide +kernel

/-! ### Witnesses: elements -/

/-- A matched set of slot 5, and a state in which it fires. -/
def mset (ts : List (BitVec 2 × Token)) : MatchedSet := MatchedSet.mk 5 ts 0 []
def firingIn (s : State) (ts : List (BitVec 2 × Token)) : State := { s with cur := .firing 0 blk (mset ts) }
def ctxIn (s : State) (ts : List (BitVec 2 × Token)) (h : Head) : FireCtx := fireCtxOf (firingIn s ts) 0 blk (mset ts) h

/-- Every firing below meets the premise that the statements share. -/
theorem witness_fires (s : State) (ts : List (BitVec 2 × Token)) (h : Head) (hp : h.pr = .always) :
    Fires (firingIn s ts) 0 blk (mset ts) h := ⟨rfl, by simp [predicateOf, fireCtxOf, hp]⟩

/-- An answer that is not a fault. -/
def isOk {α : Type} (x : Except FaultInfo α) : Bool :=
  match x with
  | .ok _ => true
  | .error _ => false
def okIs {α : Type} [DecidableEq α] (x : Except FaultInfo α) (v : α) : Bool :=
  match x with
  | .ok y => decide (y = v)
  | .error _ => false

/-- Three ports of .s32: lengths 2, 2 and 1. -/
def three : List (BitVec 2 × Token) := [inp 0 1 [1, 2], inp 1 1 [0, 1], inp 2 1 [1]]
def threeC (t : Ty) : FireCtx := ctxIn State.reset three (hd t)

theorem witness_IntegerArithmeticResults : Fires (firingIn State.reset three) 0 blk (mset three) (hd .s32) ∧
    LengthsGive (threeC .s32) [0, 1] 2 ∧ LengthsGive (threeC .s32) [0] 2 ∧ LengthsGive (threeC .s32) [0, 1, 2] 2 :=
  ⟨witness_fires _ _ _ rfl, by unfold LengthsGive; decide +kernel⟩
theorem witness_IntegerBitResults : Fires (firingIn State.reset three) 0 blk (mset three) (hd .w32) ∧
    LengthsGive (threeC .w32) [0, 1] 2 ∧ LengthsGive (threeC .w32) [0] 2 :=
  ⟨witness_fires _ _ _ rfl, by unfold LengthsGive; decide +kernel⟩
/-- Fields at the ends of a word: POS 28 and LEN 4; halves at POS 1 and 31. -/
theorem witness_BitElementResults : Fires (firingIn State.reset three) 0 blk (mset three) (hd .w32) ∧
    LengthsGive (threeC .w32) [0, 1, 2] 2 ∧ LengthsGive (threeC .w32) [0] 2 ∧ LengthsGive (threeC .w32) [0, 1] 2 ∧
    (1 ≤ (4#7).toNat ∧ (28#6).toNat + (4#7).toNat ≤ tyWidth .w32) ∧ (1 ≤ (1#6).toNat ∧ (31#6).toNat < tyWidth .w32) :=
  ⟨witness_fires _ _ _ rfl, by unfold LengthsGive; decide +kernel⟩
theorem witness_PacketResults : Fires (firingIn State.reset three) 0 blk (mset three) { hd .s32 with cfg := 8 } ∧
    okIs (dataFmt (threeC .s32)) (.elem .s32) = true ∧ (1#3).toNat < lenAt (threeC .s32) 0 ∧
    lenAt (threeC .s32) 0 + lenAt (threeC .s32) 1 ≤ 8 ∧ okIs (idxAt (threeC .s32) 1) 0 = true ∧
    okIs (idxAt (threeC .s32) 2) 1 = true ∧ lenAt (ctxIn State.reset [inp 0 1 [1], inp 1 1 [1]] (hd .s32)) 1 = 1 ∧
    (∀ j ≤ 1, bitsOf (8 : Word).toNat (3 * j) 3 < lenAt (threeC .s32) 0) ∧
    okIs ((List.range (lenAt (threeC .s32) 1)).mapM (fun j => ownUnsigned (threeC .s32) 1 j)) [0, 1] = true ∧
    (hd .s32).ty ≠ .lane := ⟨witness_fires _ _ _ rfl, by decide +kernel⟩

/-- Floating operands of lengths 2, 2 and 1. -/
def floats : List (BitVec 2 × Token) := [inp 0 8 [0x3F80_0000, 0], inp 1 8 [0x4000_0000, 0], inp 2 8 [0x3F80_0000]]
def floatsC (t : Ty) : FireCtx := ctxIn State.reset floats (hd t)

theorem witness_FloatArithmeticResults : Fires (firingIn State.reset floats) 0 blk (mset floats) (hd .f32) ∧
    LengthsGive (floatsC .f32) [0, 1] 2 ∧ LengthsGive (floatsC .f32) [0, 1, 2] 2 ∧ LengthsGive (floatsC .f32) [0] 2 :=
  ⟨witness_fires _ _ _ rfl, by unfold LengthsGive; decide +kernel⟩
theorem witness_SpecialFunctionResults : Fires (firingIn State.reset floats) 0 blk (mset floats) (hd .f32) ∧
    LengthsGive (floatsC .f32) [0] 2 := ⟨witness_fires _ _ _ rfl, by unfold LengthsGive; decide +kernel⟩
theorem witness_FloatTestAndConversionResults : Fires (firingIn State.reset floats) 0 blk (mset floats) (hd .f32) ∧
    LengthsGive (floatsC .f32) [0, 1] 2 ∧ LengthsGive (floatsC .f32) [0] 2 ∧ isOk (cvtSource .f32 (floatsC .f32)) = true ∧
    intTag (packetAt (ctxIn State.reset [inp 0 8 [0], inp 1 0 [n (-25)]] (hd .f32)) 1).fmt = true ∧
    okIs (signedOperand (ctxIn State.reset [inp 0 8 [0], inp 1 0 [n (-25)]] (hd .f32)) 1 0) (-25) = true :=
  ⟨witness_fires _ _ _ rfl, by unfold LengthsGive; decide +kernel⟩
/-- Eight bytes, a scaled and an unscaled bit-plane token. -/
def bytes8 : List (BitVec 2 × Token) := [inp 0 7 [1, 2, 3, 4, 5, 6, 7, 8], inp 1 7 [0]]
theorem witness_NarrowFormatResults : Fires (firingIn State.reset bytes8) 0 blk (mset bytes8) (hd .w8) ∧
    lenAt (ctxIn State.reset bytes8 (hd .w8)) 0 = 8 ∧ (0x16#5).toNat % 8 + 2 ≤ lenAt (ctxIn State.reset bytes8 (hd .w8)) 0 ∧
    bitPlaneTag (packetAt (ctxIn State.reset [inp 0 0x1E [1, 2, 3, 4, 5, 6, 7, 8], inp 1 7 [0]] (hd .f32)) 0).fmt = true ∧
    (0x1E#5).getLsbD 3 = true ∧ (0x10#5).getLsbD 3 = false ∧ bitPlaneTag 0x10 = true :=
  ⟨witness_fires _ _ _ rfl, by decide +kernel⟩
def switched : List (BitVec 2 × Token) := [inp 0 1 [1, 0], inp 1 1 [0, 1], inp 2 1 [1]]
def switchedC : FireCtx := ctxIn State.reset switched (hd .s32)
theorem witness_RoutingResults : Fires (firingIn State.reset switched) 0 blk (mset switched) (hd .s32) ∧ (hd .s32).ty ≠ .lane ∧
    okIs (controlAt switchedC 1 0) false = true ∧ okIs (idxAt (threeC .s32) 2) 1 = true ∧ okIs (idxAt (ctxIn State.reset [inp 0 1 [3], inp 1 1 [1]] (hd .s32)) 0) 3 = true ∧
    isOk (selectFmt switchedC) = true ∧ LengthsGive switchedC [0, 1, 2] 2 ∧
    (∀ i < 2, okIs (controlAt switchedC 0 i) (decide (i = 0)) = true) :=
  ⟨witness_fires _ _ _ rfl, by unfold LengthsGive; decide +kernel⟩
/-- Field widths at both ends of 1 to 58, and on both sides of every bound. -/
theorem witness_TagResults : Fires (firingIn State.reset three) 0 blk (mset three) (hd .s32) ∧
    1 ≤ (1#6).toNat ∧ (58#6).toNat ≤ 58 ∧ tagUse env.tag = 24 ∧ tagUse env.tag + (34#6).toNat ≤ 58 ∧
    ¬ tagUse env.tag + (35#6).toNat ≤ 58 ∧ env.tag.toNat % 2 ^ 8 ≠ 2 ^ 8 - 1 ∧ okIs (idxAt (threeC .s32) 2) 1 = true ∧
    tagValid (BitVec.ofNat 64 0) = true ∧ tagValid (BitVec.ofNat 64 5) = false := ⟨witness_fires _ _ _ rfl, by decide +kernel⟩
/-- A predicate that selects firing, one that does not, one with a reserved tag. -/
theorem witness_PredicateRule :
    predicateOf (ctxIn State.reset [inp 0 1 [1], inp 3 1 [0]] { hd .s32 with pr := .ifTrue }) = some false ∧
    predicateOf (ctxIn State.reset [inp 0 1 [1], inp 3 1 [1]] { hd .s32 with pr := .ifTrue }) = some true ∧
    predicateOf (ctxIn State.reset [inp 0 1 [1], (3, Token.mk env { mkPacket 1 [1] with fmt := 0x0F })] { hd .s32 with pr := .ifFalse }) = none ∧
    (∀ i ∈ [Instr.add (hd .s32), .reord (hd .s32)], head? i = some (hd .s32) ∧ waveClass i = false) := by
  decide +kernel
theorem witness_OperandFaults : Fires (firingIn State.reset [inp 0 1 [1, 2], inp 1 1 [1, 2, 3]]) 0 blk
      (mset [inp 0 1 [1, 2], inp 1 1 [1, 2, 3]]) (hd .s32) ∧
    (let c := ctxIn State.reset [inp 0 1 [1, 2], inp 1 1 [1, 2, 3]] (hd .s32)
    lenAt c 0 ≠ 1 ∧ lenAt c 1 ≠ 1 ∧ lenAt c 0 ≠ lenAt c 1 ∧ okIs (dataFmt c) (.elem .s32) = true ∧ lenAt c 0 ≤ (2#3).toNat ∧
      isConst c 1 = false ∧ bitPlaneTag (packetAt c 0).fmt = false) ∧
    8 < lenAt (ctxIn State.reset [inp 0 7 [1, 2, 3, 4, 5, 6, 7, 8], inp 1 7 [1]] (hd .w8)) 0 + 1 ∧
    okIs (idxAt (ctxIn State.reset [inp 0 1 [1, 2], inp 1 1 [2]] (hd .s32)) 1) 2 = true ∧ fmtOfTag 0x0F = none ∧ intTag 0x08 = false :=
  ⟨witness_fires _ _ _ rfl, by decide +kernel⟩

/-! ### Witnesses: a machine with a running group -/

/-- Block 0 of context 1 on tile 0, with these stations (every other one is a `mov`). -/
def station (i : Instr) : Station :=
  match encode i with
  | some w => Station.mk w.1 w.2
  | none => Station.mk 0 0
def copyWith (xs : List (Nat × Instr)) : Copy where
  id := blk
  phase := .resident
  tile := 0
  newTile := none
  switched := false
  reserved := []
  stations := (List.range 128).map (fun k => match xs.find? (fun x => x.1 == k) with
    | some x => station x.2
    | none => station (.mov (hd .s32)))
  nent := 2
  load := 0
  buffer := []
  spilled := []
  waiting := []
  ready := []
  idle := 0
  evictFor := 0
  sinceMove := 0

/-- A running group of 4 threads in a slot, with a region of 4 KiB and a frame of two blocks. Buffer 1 has 4 slots of 64
bytes: one acquired, one filled, one reserved, one free. Barrier 1 counts 3 with 1 arrived. Port 1 holds a message. -/
def group : Group where
  ctx := 1
  obj := 0x10000
  hbid := 7
  record := 0x8000
  number := 0
  count := 1
  priority := 0
  threads := 4
  entry := 0
  argVa := 0x40001000
  phase := .running
  wasStopped := false
  regionFirst := 0
  regionBlocks := 4
  prepared := true
  nextThread := 4
  exitCode := 0
  seq := 9
  causes := List.replicate 4 CauseSlot.empty
  buffers := [cbFresh (CbShape.mk 0 4 64) 0 4 64, CircBuf.mk 256 4 64 3 2 1 0 [.acq, .comm, .resv, .free] (CbShape.mk 256 4 64)] ++ List.replicate 14 CircBuf.undeclared
  barriers := [Barrier.mk 0 0 false 0 0, Barrier.mk 3 3 false 1 0] ++ List.replicate 14 (Barrier.mk 0 0 false 0 0)
  ports := [[], [mkPacket 1 [5]], [], []]
  portSpill := [[], [], [], []]
  frames := [Frame.mk 4 2]
  killCause := 0

/-- Context 1 runs; its pages: 1 GiB of HBM at VA 1 GiB, and the 2 MiB that hold the stores of the plots at VA 2 GiB. -/
def running : Ctx := { Ctx.free with phase := .running, slot := some 0 }
def page (vpn shift pa : Nat) : Leaf := Leaf.mk 1 vpn shift (BitVec.ofNat 64 (2 ^ 63 + pa + 0x61F)) 0x5000 1
def plotWith (c : Copy) (g : Group) : Plot := { Plot.reset with
  blocks := { Plot.reset.blocks with copies := [c] }
  unit := { Plot.reset.unit with groups := (List.replicate 8 none).set 2 (some g) }
  walker := { Plot.reset.walker with leafCache := [page 0x40000 30 0, page 0x80000 21 0x100_0000_0000] } }
def stateWith (x : Plot) : State := { State.reset with plots := State.reset.plots.set 0 x, ctxs := [(1, running)] }
/-- That machine. -/
def live : State := stateWith (plotWith (copyWith []) group)

/-- Translations that the witnesses use: VA 1 GiB to HBM, VA 2 GiB to the stores of the plots. -/
def reaches (s : State) (p : Nat) (va : Word) (need : Need) (pa : Nat) : Bool :=
  match engineTranslate s p 1 va need with
  | .ok x => x.2.1 == pa && x.1.mem == s.mem
  | .error _ => false

/-! ### Witnesses: routing of rows, threads and blocks; memory and streams -/

/-- A row in a port of tile 0 of plot 0 with the precision and lane width of a tag. -/
def rowOf (tag : BitVec 5) : Row := Row.mk env tag 1 0
def withTile (x : Plot) (t : Tile) : State := stateWith { x with tiles := [(0, t)] }
def rowState (tag : BitVec 5) : State := withTile (plotWith (copyWith []) group) { Tile.fresh with ports := [RowPort.mk 12 [rowOf tag]] }
/-- A bit-plane row of FT's kind, one of the other kind, one that is no bit-plane row. -/
theorem witness_RowRepacking :
    (portRows (engineOf (rowState 0x10) 0 blk) 12).head? = some (rowOf 0x10) ∧ wadLets (rowState 0x10) 0 blk env.gslot = true ∧
    rowPathOpen (rowState 0x10) 0 blk (hd .lane) true = true ∧ bitPlaneTag 0x10 = true ∧ (0x10#5).getLsbD 3 = (0x13#5).getLsbD 3 ∧
    (0x10#5).getLsbD 3 ≠ (0x1B#5).getLsbD 3 ∧ (portRows (engineOf (rowState 0x09) 0 blk) 12).head? = some (rowOf 0x09) ∧
    bitPlaneTag 0x09 = false := by decide +kernel

def oneIn : List (BitVec 2 × Token) := [inp 0 1 [7]]
def joined : Copy := { copyWith [] with ready := (List.range 4).map (fun t =>
  MatchedSet.mk 5 [(0, Token.mk { env with thread := BitVec.ofNat 10 t } (mkPacket 1 [9]))] 1 []) }
def joinState : State := stateWith (plotWith joined group)
theorem witness_ThreadOrderResults : Fires (firingIn live oneIn) 0 blk (mset oneIn) (hd .s32) ∧
    groupAt (consume (firingIn live oneIn) 0 blk (mset oneIn)) 0 env.gslot = some group ∧
    (joinSets joinState 0 blk 5 env).length = 4 ∧
    ((joinSets joinState 0 blk 5 env).map (fun x => fireCtxOf joinState 0 blk x (hd .s32))).all (fun x => predicateOf x == some true) = true :=
  ⟨witness_fires _ _ _ rfl, by decide +kernel⟩

/-- Block 0 has two entries: entry 1 is in range and entry 2 is not. -/
def retIn : List (BitVec 2 × Token) := [inp 0 1 [7], inp 1 0 [0x6000_0000_0000_0502, 0x1_0000_0000]]
theorem witness_BlockTransferResults : Fires (firingIn live retIn) 0 blk (mset retIn) (hd .s32) ∧
    (let c := ctxIn live retIn (hd .s32)
    (copyOf (consume (firingIn live retIn) 0 blk (mset retIn)) 0 (siblingBlock c 0)).isSome = true ∧ (copyWith []).nent ≠ 0 ∧
    bitsOf 0x1_0000_0000 32 4 < (copyWith []).nent ∧ bitsOf 0x40_0000_0000 38 4 < (copyWith []).nent ∧
    (copyWith []).nent ≤ bitsOf 0x2_0000_0000 32 4 ∧ tagUse c.env.tag + 15 ≤ 58 ∧ lenAt c 1 = 2 ∧ (packetAt c 1).fmt = 0x00 ∧
    0x1_0000_0000 < 2 ^ 38 ∧ tagValid (packetSlot true 0 (packetAt c 1) 0) = true) := ⟨witness_fires _ _ _ rfl, by decide +kernel⟩

/-- Memory operands: an aligned address at the end of the canonical range, and one past it; unaligned; indexes, and counts. -/
def addressIn (a : Word) (xs : List Word) : List (BitVec 2 × Token) := [inp 0 0 [a], inp 1 1 xs, inp 2 1 [5]]
theorem witness_MemoryFirings :
    Fires (firingIn live (addressIn 0x4000_0000 [1, 2])) 0 blk (mset (addressIn 0x4000_0000 [1, 2])) (hd .s32) ∧
    (let c := ctxIn live (addressIn 0x1FF_FFFF_FFFF_FFF8 [1, 2]) (hd .s32)
    okIs (addressAt c 0) 0x1FF_FFFF_FFFF_FFF8 = true ∧ (0x1FF_FFFF_FFFF_FFF8 : Word).extractLsb' 57 7 = 0 ∧ lenAt c 0 = 1 ∧
      (∀ i < 2, (0x1FF_FFFF_FFFF_FFF8 + BitVec.ofNat 64 (i * 4) : Word).toNat % 4 = 0) ∧ lenAt c 1 = 2 ∧ lenAt c 2 = 1 ∧
      okIs ((List.range (lenAt c 1)).mapM (fun i => intOperand c 1 i)) [1, 2] = true) ∧
    (match extentOf .ld 0 0 (ctxIn live (addressIn 0x200_0000_0000_0000 [1]) (hd .s32)) with
      | .ok _ => false
      | .error e => e.cause == causeTrInvalid) = true ∧
    (match extentOf .st 0 0 (ctxIn live (addressIn 0x4000_0002 [1]) (hd .s32)) with
      | .ok _ => false
      | .error e => e.cause == causeAlign) = true ∧
    (∀ k ∈ [0, 1, 0x4000_0000_0000_0000, 0x3000_0000_0000_0000],
      okIs (natOperand (ctxIn live [inp 0 0 [0x4000_0000], inp 1 0 [BitVec.ofNat 64 k]] (hd .s64)) 1 0) k = true) := by
  refine ⟨witness_fires _ _ _ rfl, ?_⟩
  decide +kernel
theorem witness_WavePlaceKept :
    (firingIn live [inp 0 1 [1], inp 3 1 [0]]).cur = .firing 0 blk (mset [inp 0 1 [1], inp 3 1 [0]]) ∧
    predicateOf (ctxIn live [inp 0 1 [1], inp 3 1 [0]] { hd .s32 with pr := .ifTrue }) = some false ∧
    predicateOf (ctxIn live oneIn (hd .s32)) = some true := ⟨rfl, by decide +kernel⟩
def agenIn : List (BitVec 2 × Token) := [inp 0 1 [2, 3, 4], inp 1 0 [0x1000, 64, 8, 1]]
theorem witness_AddressGeneration : Fires (firingIn live agenIn) 0 blk (mset agenIn) (hd .s64) ∧
    (let c := ctxIn live agenIn (hd .s64)
    intTag (packetAt c 0).fmt = true ∧ wideTag (packetAt c 1).fmt = true ∧ lenAt c 0 ≤ 3 ∧ lenAt c 1 = lenAt c 0 + 1 ∧
    okIs ((List.range (lenAt c 0)).mapM (fun i => ownUnsigned c 0 i)) [2, 3, 4] = true) := ⟨witness_fires _ _ _ rfl, by decide +kernel⟩
/-- Chains of no point, and of 2 × 4 points in a field of 3 bits. -/
def startIn (e0 e1 : Word) : List (BitVec 2 × Token) := [inp 0 0 [0x1000, e0, 1, e1, 8]]
def levelsOf (e : Word) : List (Nat × Word) :=
  let k := packetAt (ctxIn live (startIn 2 e) (hd .s64)) 0
  (List.range 2).map (fun l => ((packetSlot true 0 k (1 + 2 * l)).toNat, packetSlot true 0 k (2 + 2 * l)))
theorem witness_ChainStart : Fires (firingIn live (startIn 2 4)) 0 blk (mset (startIn 2 4)) (hd .s64) ∧
    (let k := packetAt (ctxIn live (startIn 2 4) (hd .s64)) 0
    wideTag k.fmt = true ∧ packetLen k = 2 * (2#2).toNat + 1) ∧
    (levelsOf 4 = [(2, 1), (4, 8)] ∧ (∀ l ∈ [(2, 1), (4, 8)], l.1 < 2 ^ 32) ∧ 2 * 4 ≤ 2 ^ (3#6).toNat) ∧
    (levelsOf 0 = [(2, 1), (0, 8)] ∧ (∀ l ∈ [(2, 1), (0, 8)], l.1 < 2 ^ 32) ∧ 2 * 0 ≤ 2 ^ (3#6).toNat) ∧
    tagUse env.tag + (3#6).toNat ≤ 58 ∧
    (let u := consume (firingIn live (startIn 2 4)) 0 blk (mset (startIn 2 4))
    (copyOf u 0 blk).isSome = true ∧ (chainAt u 0 blk 5).credit + ((copyOf u 0 blk).map (fun z => z.waiting.length)).getD 0 ≤ 65535) :=
  ⟨witness_fires _ _ _ rfl, by decide +kernel⟩
def chainOf (st : ChainState) : Chain := { Chain.blank blk 20 with state := st, points := 8, p := 3 }
def chainState (st : ChainState) : State :=
  stateWith { plotWith (copyWith [(20, .cnt (hd .s64) false 2 3)]) group with chains := [chainOf st] }
def seekIn (v : Word) : List (BitVec 2 × Token) := [inp 0 0 [v]]
/-- A chain in each state, and seeks to its last point and past it. -/
theorem witness_ChainControl : Fires (firingIn live (seekIn 8)) 0 blk (mset (seekIn 8)) { hd .s64 with cfg := 20 } ∧
    (∀ st ∈ [ChainState.idle, .running, .held],
      let u := consume (firingIn (chainState st) (seekIn 8)) 0 blk (mset (seekIn 8))
      (chainAt u 0 blk ((20 : Word).extractLsb' 0 7)).state = st ∧ chainForm u 0 (chainOf st) = some (ChainForm.mk false false 3 (hd .s64))) ∧
    (∀ v ∈ [8, 9], let k := packetAt (ctxIn live (seekIn (BitVec.ofNat 64 v)) (hd .s64)) 0
      intTag k.fmt = true ∧ (packetSlot true 0 k 0).toNat = v) ∧ 8 ≤ (chainOf .held).points ∧ (chainOf .held).points < 9 :=
  ⟨witness_fires _ _ _ rfl, by decide +kernel⟩
theorem witness_ControlTokenFirings : Fires (firingIn live oneIn) 0 blk (mset oneIn) (hd .s32) := witness_fires _ _ _ rfl
/-! ### Witnesses: buffers, groups and kernels -/

theorem witness_BufferFirings :
    (∀ x ∈ [[inp 0 1 [0, 8, 64]], [inp 0 1 [1], inp 1 1 [0]], [inp 0 1 [2], inp 1 1 [1]]],
      (ctxIn live x (hd .s32)).env.gslot = 2 ∧ lenAt (ctxIn live [inp 0 1 [0, 8, 64]] (hd .s32)) 0 = 3) ∧
    -- `cbini`: 8 slots of 64 bytes at offset 0 of a region of 4 KiB, and of an idle buffer
    (let c := ctxIn live [inp 0 1 [0, 8, 64]] (hd .s32)
    okIs (natOperand c 0 0) 0 = true ∧ okIs (natOperand c 0 1) 8 = true ∧ okIs (natOperand c 0 2) 64 = true ∧
      0 + 8 * 64 ≤ ((groupAt live 0 2).map regionBytes).getD 0 ∧ lenAt (ctxIn live oneIn (hd .s32)) 0 = 1) ∧
    (cbReserved (bufferAt live 0 2 0) = 0 ∧ cbAcquired (bufferAt live 0 2 0) = 0 ∧
      ∀ a ∈ [true, false], (plotAt live 0).unit.waiters.any (inQueue a 2 0) = false) ∧
    -- buffer 1: one slot of each mark; requests of 0, 1 and 2 slots
    (let x := bufferAt live 0 2 1
    x.slots ≠ 0 ∧ 2 ≤ x.slots ∧ 1 ≤ cbFree x ∧ cbFree x < 2 ∧ 1 ≤ cbFilled x ∧ cbFilled x < 2 ∧
      ∀ a ∈ [true, false], (plotAt live 0).unit.waiters.any (inQueue a 2 1) = false) ∧
    (∀ k ∈ [0, 1, 2], okIs (natOperand (ctxIn live [inp 0 1 [1], inp 1 1 [BitVec.ofNat 64 k]] (hd .s32)) 1 0) k = true) ∧
    -- `cbcom` of slot 2, reserved, and `cbrel` of slot 0, acquired; slots with other marks
    ((bufferAt live 0 2 1).marks[2]? = some .resv ∧ (bufferAt live 0 2 1).marks[0]? = some .acq ∧ (bufferAt live 0 2 1).marks[3]? = some .free) := by
  decide +kernel
theorem witness_FrameFirings :
    okIs (natOperand (ctxIn live [inp 0 1 [1], inp 1 1 [2000]] (hd .s32)) 1 0) 2000 = true ∧ groupFrameBlocks live 0 2 = 2 ∧
    lowestRun live 0 2 = some 6 ∧ (plotAt live 0).unit.waiters.any isFrameWaiter = false ∧ 64 < groupFrameBlocks live 0 2 + 63 ∧
    -- a pool with no run of 2 blocks: a group's region takes all of it
    lowestRun (stateWith (plotWith (copyWith []) { group with regionFirst := 6, regionBlocks := 1018 })) 0 8 = none ∧
    (groupAt live 0 2).isSome = true ∧ (frameHandle (Frame.mk 4 2) = 0x8000_0404) ∧
    okIs (natOperand (ctxIn live (seekIn 0x8000_0404) (hd .s64)) 0 0) 0x8000_0404 = true ∧ frameHandle (Frame.mk 4 2) ≠ 7 := by decide +kernel

/-- Permits at the start of the frame: none, FREE, held by the firing's thread, with a waiter, and a word that is none. -/
def permitAt (v : Word) (w : List HomeWaiter) : State := { writeWord live 0x100_0000_1000 v with homeWaiters := w }
def permitWaits : List HomeWaiter := [.permit 0 0 (Held.mk blk (mset oneIn) (hd .s32)) 2 0x8000_1000 0x100_0000_1000]
theorem witness_PermitFirings : okIs (natOperand (ctxIn live (seekIn 0x8000_1000) (hd .s64)) 0 0) 0x8000_1000 = true ∧
    vaValid 0x8000_1000 = true ∧ vaValid 0x8000_1008 = true ∧ (0x8000_1008 : Word).toNat % 16 ≠ 0 ∧
    reaches live 0 0x8000_1000 .store 0x100_0000_1000 = true ∧ rangeOf 0x100_0000_1000 = .window ∧
    permitQueue live 0x100_0000_1000 = [] ∧ permitQueue (permitAt 0xA500_0000_0000_0000 permitWaits) 0x100_0000_1000 ≠ [] ∧
    permitSound (readWord live 0x100_0000_1000) = false ∧ permitSound 0xA500_0000_0000_0000 = true ∧
    isHolder 0xA500_0000_0000_0000 (ctxIn live oneIn (hd .s32)) = false ∧
    (let w := permitWord 1 1 env.gslot 0 env.thread 0
    permitSound w = true ∧ isHolder w (ctxIn live oneIn (hd .s32)) = true) := by decide +kernel
theorem witness_CopyFirings :
    (∀ b ∈ [64, 0, 0x8000_0000, 0x4000_0000, 4], okIs (natOperand (ctxIn live [inp 0 0 [BitVec.ofNat 64 b]] (hd .s64)) 0 0) b = true) ∧
    64 % 8 = 0 ∧ 4 % 8 ≠ 0 ∧ [64, 4, 12].find? (fun w => w % 8 != 0) = some 4 ∧ 2 ^ 40 - 8 < 2 ^ 40 ∧ engineFor live 0 = some 0 ∧
    (let c := ctxIn live [inp 0 0 [0x4000_0000, 256, 3], inp 1 0 [0x8000_0000, 64], inp 2 0 [64]] (hd .s64)
    wideTag (packetAt c 0).fmt = true ∧ wideTag (packetAt c 1).fmt = true ∧ lenAt c 0 = 3 ∧ lenAt c 1 = 2 ∧
      okIs (natOperand c 2 0) 64 = true ∧ 1 ≤ (packetSlot true 0 (packetAt c 0) 2).toNat ∧
      (packetSlot true 0 (packetAt c 0) 2).toNat ≤ 65536) ∧
    (∀ w ∈ [0x4000_0000, 0x8000_0000, 256, 64, 64], w % 8 = 0) ∧
    (bufferAt live 0 2 1).slots ≠ 0 ∧ 1 ≤ (bufferAt live 0 2 1).slotBytes ∧ (200 + 64 - 1) / 64 ≤ (bufferAt live 0 2 1).slots ∧ 200 % 8 = 0 := by
  decide +kernel

def posts : List (BitVec 2 × Token) := [inp 0 1 [0x8100_0009], inp 1 1 [3, 4]]
def postsLong : List (BitVec 2 × Token) := [inp 0 1 [0x8100_0009], inp 1 0 [1, 2, 3, 4, 5]]
def heldIn (ts : List (BitVec 2 × Token)) (h : Head) : Held := Held.mk blk (mset ts) h
/-- Port 1 holds a message and nobody waits at it; port 0 is empty. -/
theorem witness_GroupFirings : (groupAt live 0 2).isSome = true ∧ portHead live 0 2 1 = some (mkPacket 1 [5]) ∧
    portHead live 0 2 0 = none ∧ (plotAt live 0).unit.waiters.any (atPort 2 1) = false ∧
    okIs (natOperand (ctxIn live posts (hd .s32)) 0 0) 0x8100_0009 = true ∧ wideTag (packetAt (ctxIn live posts (hd .s32)) 1).fmt = false ∧
    postReady live 0 (heldIn posts (hd .s32)) = true ∧ wideTag (packetAt (ctxIn live postsLong (hd .s32)) 1).fmt = true ∧
    4 < lenAt (ctxIn live postsLong (hd .s32)) 1 := by decide +kernel
/-- The handle of the group (slot 2, SEQ 9), of its slot's past (SEQ 8), of an empty slot, and a word that is none. -/
theorem witness_PostDelivery : (ctxAt live 1).recMode = .off ∧ postHandle live 0 (heldIn posts (hd .s32)) = 0x8100_0009 ∧
    (0x8100_0009 : BitVec 32).getLsbD 31 = true ∧ (0x8100_0009 : BitVec 32).extractLsb' 23 3 = 2 ∧ group.seq = (0x8100_0009 : BitVec 32).extractLsb' 0 23 ∧
    group.seq ≠ (0x8100_0008 : BitVec 32).extractLsb' 0 23 ∧ group.ctx = blk.ctx ∧ group.phase ≠ .retiring ∧
    (group.ports.getD 1 []).length < 16 ∧ group.portSpill.getD 1 [] = [] ∧ groupAt live 0 3 = none ∧ (9 : BitVec 32).getLsbD 31 = false := by
  decide +kernel
/-- Barrier 1 counts 3 and has 1: weights 1 (not full), 2 (full), 4 (too many), 0; barrier 0 counts none. -/
theorem witness_BarrierFirings : (barrierAt live 0 2 0).count = 0 ∧ (barrierAt live 0 2 1).count = 3 ∧ (barrierAt live 0 2 1).arr = 1 ∧
    (∀ k ∈ [0, 1, 2, 4, 1024, 1025], okIs (natOperand (ctxIn live [inp 0 1 [0], inp 1 1 [BitVec.ofNat 64 k]] (hd .s32)) 1 0) k = true ∧
      okIs (natOperand (ctxIn live [inp 0 1 [BitVec.ofNat 64 k]] (hd .s32)) 0 0) k = true) ∧
    (barrierAt live 0 2 0).arr = 0 ∧ (barrierAt live 0 2 0).waiters = 0 := by decide +kernel

/-- The ring slot at PA 0x1000; the record of the group at 0x8000, and another at 0x8080 in each state a clause names. -/
def kernelState (st dep succ : Nat) : State :=
  let s := { live with kernels := [KernelRef.mk 0x8000 0x4000_8000 1 false [] [] false .open, KernelRef.mk 0x8080 0x4000_8080 1 false [] [] false .open] }
  let s := setRecDep (setRecState (writeWord s (0x8080 + 40) 0x5EED_0001_0000_0000) 0x8080 st) 0x8080 dep
  (List.range succ).foldl (fun s k => writeWord s (0x8080 + 8 * (8 + k)) 1) s
def launchIn : List (BitVec 2 × Token) := [inp 0 0 [0x4000_1000], inp 1 0 [1, 0, 0, 0, 0x4000_8080, 0, 0, 0]]
def namesIn (st dep succ : Nat) : Bool :=
  let s := kernelState st dep succ
  match namedRecord (ctxIn s (seekIn 0x4000_8080) (hd .s64)) s 0x4000_8080 with
  | .ok x => x.2 == 0x8080 && recState x.1 0x8080 == st && recDep x.1 0x8080 == dep &&
      (List.range 4).all (fun k => (recSucc x.1 0x8080 k != 0) == decide (k < succ))
  | .error _ => false
theorem witness_KernelFirings :
    (let c := ctxIn live launchIn (hd .s64)
    wideTag (packetAt c 0).fmt = true ∧ wideTag (packetAt c 1).fmt = true ∧ lenAt c 1 = 8 ∧
      (packetSlot true 8 (packetAt c 1) 0).extractLsb' 0 8 = 0x01 ∧ (packetSlot true 8 (packetAt c 1) 4).toNat % 128 = 0 ∧
      (match recordAddress c live 0x4000_1000 64 with
        | .ok x => x.2 == 0x1000 && readWord x.1 0x1000 == 0 && readWord (writeWord x.1 0x1000 1) 0x1000 != 0 && !x.1.mem.bad 0x1000 8
        | .error _ => false) = true ∧
      (match recordAddress c live 0x4000_8080 128 with
        | .ok x => x.2 == 0x8080
        | .error _ => false) = true) ∧
    -- states 4, 3 and 0; no, one and four successors; DEP 0, 1, 2 and 65535
    (∀ x ∈ [(4, 0, 0), (3, 0, 4), (0, 65535, 1), (0, 1, 0), (0, 2, 0)], namesIn x.1 x.2.1 x.2.2 = true) := by
  decide +kernel
/-! ### Witnesses: the matrix engine and its accumulators -/

def mgatIn : List (BitVec 2 × Token) := [inp 0 0 [0, 64], inp 1 1 [0, 1, 63]]
def repIn (k : Word) : List (BitVec 2 × Token) := [inp 0 1 [1], inp 1 1 [k, 65535]]
/-- Rows 0, 1 and 63 of 64 bytes in a region of 4 KiB; counts of 0 and of the bounds 64 and 65,535. -/
theorem witness_MatrixFirings : (engineOf live 0 blk).act = false ∧
    (let c := ctxIn live mgatIn (hd .s64)
    wideTag (packetAt c 0).fmt = true ∧ intTag (packetAt c 1).fmt = true ∧ lenAt c 0 = 2 ∧
      okIs ((List.range (lenAt c 1)).mapM (fun j => ownUnsigned c 1 j)) [0, 1, 63] = true ∧
      (packetSlot true 0 (packetAt c 0) 0).toNat % 16 = 0 ∧ (packetSlot true 0 (packetAt c 0) 1).toNat % 16 = 0 ∧
      (∀ o ∈ [0, 1, 63].map (fun x => (packetSlot true 0 (packetAt c 0) 0).toNat + x % 2 ^ 26 * (packetSlot true 0 (packetAt c 0) 1).toNat),
        o + rowBytes 0x16 ≤ (regionOf live c).2)) ∧
    (∀ k ∈ [0, 64], let c := ctxIn live (repIn (BitVec.ofNat 64 k)) (hd .s64)
      intTag (packetAt c 1).fmt = true ∧ lenAt c 1 = 2 ∧ okIs (natOperand c 1 0) k = true ∧ okIs (natOperand c 1 1) 65535 = true ∧
        okIs (natOperand (ctxIn live (seekIn (BitVec.ofNat 64 k)) (hd .s64)) 0 0) k = true) := by decide +kernel

/-- An accumulator of slot 2 in a state, of a kind. -/
def accIn (st : AccState) (k : RunKind) : Acc := { Acc.fresh with st := st, kind := k, gslot := 2 }
/-- Accumulator 3 of tile 0, weights of a format latched, a row of a format at the port of slot 12. -/
def engineWith (a : Acc) (w : BitVec 5) (row : BitVec 5) : State := withTile (plotWith (copyWith [(12, .mma (hd .lane) 5 3)]) group)
  { Tile.fresh with w0 := WeightSlot.mk true w [] 0 0 0, ports := [RowPort.mk 12 [rowOf row]], accs := [(3, a)] }
def rowFires (s : State) (row : BitVec 5) : Bool :=
  let t := engineOf s 0 blk
  (portRows t 12).head? == some (rowOf row) && mayStart s 0 blk env.gslot && admits (accOf t 3) env.gslot &&
    (weightsOf t t.act).latched && t.latches.isEmpty && t.switch.isNone && decide (t.array.length < 160) && !writesInto t 3 && mmaFirst s 0 blk 12
/-- A first row of a run, a further one, one of another kind, one of other formats, and formats that do not pair. -/
theorem witness_RowFirings :
    (rowFires (engineWith (accIn .open .none) 0x10 0x11) 0x11 = true ∧ pairKind 0x10 0x11 = some .unscaled) ∧
    (rowFires (engineWith { accIn .open .unscaled with ka := tagK 0x11, kb := tagK 0x10 } 0x10 0x11) 0x11 = true) ∧
    (let a := { accIn .open .unscaled with ka := tagK 0x11 + 1, kb := tagK 0x10 }
    rowFires (engineWith a 0x10 0x11) 0x11 = true ∧ ¬ (a.ka = 0 ∧ a.kb = 0) ∧ ¬ (a.ka = tagK 0x11 ∧ a.kb = tagK 0x10)) ∧
    (rowFires (engineWith (accIn .open .floating) 0x10 0x11) 0x11 = true ∧ RunKind.floating ≠ .unscaled ∧ RunKind.floating ≠ .none) ∧
    (rowFires (engineWith (accIn .open .none) 0x10 0x09) 0x09 = true ∧ pairKind 0x10 0x09 = none) := by decide +kernel

def mwrIn : List (BitVec 2 × Token) := [inp 0 0 [0, 256, 48, 16]]
def mstIn : List (BitVec 2 × Token) := [inp 0 0 [0, 48]]
def accState (a : Acc) : State := engineWith a 0x10 0x11
def named3 (s : State) (ts : List (BitVec 2 × Token)) (x : Option Handle) : Bool := okIs (handleAt (ctxIn s ts (hd .s32)) s) x
def mrdIn (r k : Word) : List (BitVec 2 × Token) := [inp 0 1 [3], inp 1 1 [r, k]]
/-- Rows 48 to 63 of a run that admits them and of one that does not; 64 rows of 128 bytes out of a CLEAN run; handle 3
names accumulator 3, handle 128 none; rows 32 to 63. -/
theorem witness_AccumulatorFirings :
    (let c := ctxIn live mwrIn (hd .s64)
    wideTag (packetAt c 0).fmt = true ∧ lenAt c 0 = 4 ∧ 1 ≤ 16 ∧ 48 + 16 ≤ 64 ∧
      (List.range 4).map (fun j => (packetSlot true 0 (packetAt c 0) j).toNat) = [0, 256, 48, 16] ∧
      (∀ o ∈ (List.range 16).map (fun j => 0 + j * 256), o + 256 ≤ (regionOf live c).2)) ∧
    (admits (ownAcc (accState (accIn .open .none)) (ctxIn (accState (accIn .open .none)) mwrIn (hd .s64)) 3) env.gslot = true ∧
      (accIn .open .none).kind = .none ∧ kindOfClass .f16 = .floating) ∧
    (admits (ownAcc (accState (accIn .drained .none)) (ctxIn (accState (accIn .drained .none)) mwrIn (hd .s64)) 3) env.gslot = false) ∧
    (let c := ctxIn live mstIn (hd .s64)
    wideTag (packetAt c 0).fmt = true ∧ lenAt c 0 = 2 ∧
      (List.range 2).map (fun j => (packetSlot true 0 (packetAt c 0) j).toNat) = [0, 48] ∧
      (∀ o ∈ (List.range 64).map (fun j => 0 + j * 48), o + 64 * outBytes .f16 ≤ (regionOf live c).2)) ∧
    exactKind (accIn .clean .unscaled) = true ∧ (accIn .clean .unscaled).bad = [] ∧
    named3 (accState (accIn .clean .unscaled)) (seekIn 3) (some (Handle.mk 0 3)) = true ∧
    named3 (accState (accIn .faultLoc .unscaled)) (seekIn 3) (some (Handle.mk 0 3)) = true ∧
    named3 (accState (accIn .clean .unscaled)) (seekIn 128) none = true ∧
    (let c := ctxIn live (mrdIn 32 32) (hd .s32)
    intTag (packetAt c 1).fmt = true ∧ lenAt c 1 = 2 ∧ okIs (natOperand c 1 0) 32 = true ∧ okIs (natOperand c 1 1) 32 = true ∧
      okIs (handleAt c (accState (accIn .clean .none))) (some (Handle.mk 0 3)) = true) ∧
    tagUse env.tag + 9 ≤ 58 := by decide +kernel
/-- What lets an `mclr` and an `mwr` start: each state of the accumulator, a row that has fired, an `mwr` before it, another group's
run; uncorrectable elements of the data and of the sums; and the value of a tolerance. -/
def startsOn (s : State) (i : Instr) : Bool := unitReady s (ctxIn s oneIn (hd .s64)) i
def ofTile (f : Tile → Tile) (a : Acc) : State := modTile (accState a) 0 0 f
def writeJob : TileJob := TileJob.mk (heldIn mwrIn (hd .s64)) 70 (.write 3 .f16 48 16)
theorem witness_AccumulatorFirings_starts :
    (∀ st ∈ [AccState.empty, .drained, .clean, .open, .retrying], startsOn (accState (accIn st .none)) (.mclr (hd .s64) 3) = true ∧
      startsOn (accState (accIn st .none)) (.mwr (hd .s64) .f16 3) = true) ∧
    (∀ st ∈ [AccState.swap, .checking], startsOn (accState (accIn st .none)) (.mclr (hd .s64) 3) = false ∧
      startsOn (accState (accIn st .none)) (.mwr (hd .s64) .f16 3) = false) ∧
    (∀ st ∈ [AccState.faultLoc, .faultMulti], startsOn (accState (accIn st .none)) (.mclr (hd .s64) 3) = true ∧
      startsOn (accState (accIn st .none)) (.mwr (hd .s64) .f16 3) = false) ∧
    (let s := ofTile (fun e => { e with array := [ArrayRow.mk 12 3 false (rowOf 0x11)] }) (accIn .open .unscaled)
    accInArray (engineOf s 0 blk) 3 = true ∧ startsOn s (.mclr (hd .s64) 3) = false) ∧
    (let s := ofTile (fun e => { e with jobs := [writeJob] }) (accIn .open .floating)
    writesInto (engineOf s 0 blk) 3 = true ∧ startsOn s (.mclr (hd .s64) 3) = false) ∧
    startsOn (accState { accIn .open .none with gslot := 3 }) (.mwr (hd .s64) .f16 3) = false ∧
    (let x := { accIn .clean .unscaled with bad := [64 * 63 + 63, atCc, atCr + 63, atS] }
    readsBad x .data 63 1 = true ∧ readsBad x .data 0 63 = false ∧ readsBad x .data 5 0 = false ∧
      ∀ sel ∈ [MrdSel.cc, .cr, .sum], readsBad x sel 0 0 = true ∧ readsBad (accIn .clean .unscaled) sel 0 0 = false) ∧
    okIs (natOperand (ctxIn live [inp 0 1 [1], inp 1 1 [5]] (hd .s32)) 1 0) 5 = true := by decide +kernel

def drainIn : List (BitVec 2 × Token) := [inp 0 1 [1], inp 1 0 [0x4000_0000, 256]]
def fixIn (i : Word) : List (BitVec 2 × Token) := [inp 0 1 [3], inp 1 1 [3, i, 63, n (-1)]]
def drains (s : State) : Bool :=
  match drainTranslate s 0 1 0x4000_0000 256 256 with
  | .ok _ => true
  | .error _ => false
theorem witness_CheckFirings :
    (∀ st ∈ [AccState.empty, .open, .drained, .faultLoc], (ownAcc (accState (accIn st .unscaled)) (ctxIn (accState (accIn st .unscaled)) drainIn (hd .s64)) 3) =
      accIn st .unscaled) ∧ (accIn .open .unscaled).gslot = env.gslot ∧
    (let c := ctxIn live drainIn (hd .s64)
    wideTag (packetAt c 1).fmt = true ∧ lenAt c 1 = 2 ∧ (packetSlot true 8 (packetAt c 1) 0).toNat % 64 = 0 ∧
      (packetSlot true 8 (packetAt c 1) 1).toNat % 64 = 0) ∧
    drains (accState (accIn .drained .unscaled)) = true ∧
    (∀ i ∈ [63, 64], let c := ctxIn live (fixIn (BitVec.ofNat 64 i)) (hd .s32)
      intTag (packetAt c 1).fmt = true ∧ lenAt c 1 = 4 ∧ okIs (natOperand c 1 1) i = true ∧ okIs (natOperand c 1 2) 63 = true ∧
        okIs (intOperand c 1 3) (-1) = true) ∧
    named3 (accState (accIn .faultLoc .unscaled)) (fixIn 63) (some (Handle.mk 0 3)) = true ∧
    named3 (accState (accIn .open .unscaled)) (seekIn 128) none = true ∧ blockOnTile (accState (accIn .faultLoc .unscaled)) 0 0 = some blk ∧
    (accIn .faultLoc .unscaled).rc < retryMax live 0 1 ∧ retryMax live 0 1 ≤ { accIn .faultMulti .unscaled with rc := 2 }.rc := by decide +kernel
/-- What lets a check and a retry start: no push, comparison or check of the run under way. -/
theorem witness_CheckFirings_starts :
    let drain := Instr.mdrn (hd .s64) .device false .rne false .f32 3
    (∀ st ∈ [AccState.clean, .open, .drained, .faultLoc], startsOn (accState (accIn st .unscaled)) (.mchk (hd .s64) 3) = true ∧
      startsOn (accState (accIn st .unscaled)) drain = true) ∧
    (∀ st ∈ [AccState.swap, .checking], startsOn (accState (accIn st .unscaled)) (.mchk (hd .s64) 3) = false ∧
      startsOn (accState (accIn st .unscaled)) drain = false) ∧
    (let s := accState { accIn .drained .unscaled with check := some (Check.mk (heldIn drainIn (hd .s64)) (.mdrn 0 0) none) }
    startsOn s drain = false) ∧
    (let s := ofTile (fun e => { e with jobs := [writeJob] }) (accIn .open .floating)
    startsOn s (.mchk (hd .s64) 3) = false) ∧
    unitReady (accState (accIn .faultLoc .unscaled)) (ctxIn (accState (accIn .faultLoc .unscaled)) (seekIn 3) (hd .s32)) (.mrty (hd .s32)) = true := by
  decide +kernel
/-! ### Witnesses: system instructions -/

/-- That machine before, at and past the deadline of context 1's slice on plot 0, and with a request pending. -/
def sliceAt (k : PlotCount) : State := { live with ctxs := [(1, { running with counts := running.counts.set 0 k })] }
def isLate (s : State) : Bool :=
  let k := (ctxAt s 1).counts.getD 0 (freshSlice 0)
  decide (k.dline.toNat ≤ k.icnt.toNat) || requestPending (ctxAt s 1)
theorem witness_YieldAndTrap : isLate live = false ∧ isLate (sliceAt (PlotCount.mk 100 100 none 0 0)) = true ∧
    isLate (sliceAt (PlotCount.mk 99 100 none 0 0)) = false ∧ isLate { live with ctxs := [(1, { running with phase := .preempting })] } = true ∧
    groupAt live 0 2 = some group ∧ group.phase ≠ .placed ∧ group.hbid ≠ 0xFFFF_FFFF ∧ blk.bid ≠ group.hbid ∧ freeCause group.causes = some 0 := by decide +kernel

/-- Cause slot 3 in a state, with slot 0 free or in use. -/
def causeState (a b : CauseState) : State := stateWith (plotWith (copyWith []) { group with
  phase := .stopped, causes := (group.causes.set 0 { CauseSlot.empty with state := a }).set 3 { CauseSlot.empty with state := b } })
def handlerCtx : FireCtx := ctxIn live (seekIn 3) (hd .s64)
theorem witness_HandlerFirings : okIs (natOperand handlerCtx 0 0) 3 = true ∧
    (∀ x ∈ [CauseState.free, .delivered, .read], (causeAt (causeState .free x) handlerCtx 3).state = x) ∧
    (let t := resolveKept (setCause (causeState .free .read) handlerCtx 3 CauseSlot.empty) 0 false .nothing
    ∀ k ∈ causesOf t handlerCtx, k.state = .free) ∧
    (let t := resolveKept (setCause (causeState .delivered .read) handlerCtx 3 CauseSlot.empty) 0 false .nothing
    ¬ ∀ k ∈ causesOf t handlerCtx, k.state = .free) := by decide +kernel

theorem witness_RegisterFirings : okIs (natOperand (ctxIn live (seekIn 5) (hd .s64)) 0 0) 5 = true ∧
    mayRead 1 0x201 = true ∧ mayRead 1 0x340 = false ∧ mayRead 1 0x207 = true ∧ mayWrite live 0 1 0x202 = false ∧
    mayRead 1 0x220 = true ∧ mayWrite live 0 1 0x220 = true := by decide +kernel
/-- Both ends of each range, as a user context and as the headland context. -/
theorem witness_RegisterRights : (1 : BitVec 12) ≠ headland ∧ (0 ∈ writePlots 1 ∧ 31 ∈ writePlots 1 ∧ 35 ∈ writePlots headland) ∧
    (∀ w ∈ live.regWrites, w.ctx ≠ 1) ∧ isCtxReg 0x200 = true ∧ isCtxReg 0x100 = false ∧ 0x100 ≤ 0x100 ∧ 0x100 < 0x120 ∧ 0x100 ≤ 0x11F ∧ 0x11F < 0x120 ∧
    0x341 ∈ [0x208, 0x209, 0x20A, 0x20B, 0x20C, 0x20D, 0x20E, 0x300, 0x310, 0x311, 0x320, 0x340, 0x341] := by decide
theorem witness_PrivilegeRule : Fires (firingIn live oneIn) 0 blk (mset oneIn) (hd .s32) ∧ blk.ctx ≠ headland ∧
    (ctxAt (consume (firingIn live oneIn) 0 blk (mset oneIn)) blk.ctx).regs.cfg.getLsbD 2 = false :=
  ⟨witness_fires _ _ _ rfl, by decide +kernel⟩

/-- The headland context fires a block of its own. -/
def hblk : BlockId := BlockId.mk headland 0x10000 0
def headCtx (s : State) (ts : List (BitVec 2 × Token)) : FireCtx :=
  fireCtxOf { s with cur := .firing 0 hblk (mset ts) } 0 hblk (mset ts) (hd .s64)
def operandsAre (ts : List (BitVec 2 × Token)) (xs : List Nat) : Bool :=
  lenAt (headCtx live ts) 0 == xs.length && (xs.zip (List.range xs.length)).all (fun x => okIs (natOperand (headCtx live ts) 0 x.2) x.1)
def guardedState (band : Bool) : State :=
  { live with furrows := live.furrows.set 131 { Furrow.reset with guarded := true, inBand := band } }
def injectIn (i : Word) : List (BitVec 2 × Token) := [inp 0 1 [3], inp 1 1 [i, 63, 5]]
theorem witness_PrivilegedFirings : hblk.ctx = headland ∧
    operandsAre (seekIn 4095) [4095] = true ∧ operandsAre [inp 0 0 [4095, 1000]] [4095, 1000] = true ∧ 4095 < 4096 ∧
    operandsAre [inp 0 0 [1, 0x1FF_FFFF_FFFF_F000]] [1, 0x1FF_FFFF_FFFF_F000] = true ∧ 0x1FF_FFFF_FFFF_F000 < 2 ^ 57 ∧
    operandsAre [inp 0 0 [1, 4096, 512]] [1, 4096, 512] = true ∧
    operandsAre (seekIn 131) [131] = true ∧ operandsAre [inp 0 0 [131, 7]] [131, 7] = true ∧
    ((furrowAt (guardedState true) 131).guarded = true ∧ (furrowAt (guardedState true) 131).inBand = true) ∧
    (furrowAt (guardedState false) 131).inBand = false ∧ (furrowAt live 131).guarded = false ∧
    (∀ i ∈ [63, 64], let c := ctxIn live (injectIn (BitVec.ofNat 64 i)) (hd .s32)
      lenAt c 1 = 3 ∧ okIs (natOperand c 1 0) i = true ∧ okIs (natOperand c 1 1) 63 = true ∧ okIs (natOperand c 1 2) 5 = true) ∧
    named3 (accState (accIn .open .unscaled)) (injectIn 63) (some (Handle.mk 0 3)) = true ∧ (accIn .open .unscaled).st ≠ .empty ∧
    (ctxAt { live with ctxs := [(1, { running with regs := { running.regs with cfg := 4 } })] } 1).regs.cfg.getLsbD 2 = true ∧
    okIs (natOperand (ctxIn live [inp 0 0 [0x8000_0008], inp 1 1 [1]] (hd .s64)) 0 0) 0x8000_0008 = true ∧ 0x8000_0008 % 8 = 0 ∧
    okIs (natOperand (ctxIn live [inp 0 0 [0x8000_0008], inp 1 1 [1]] (hd .s64)) 1 0) 1 = true ∧
    lenAt (ctxIn live [inp 0 0 [0x8000_0008], inp 1 1 [1]] (hd .s64)) 1 = 1 ∧
    reaches live 0 0x8000_0008 .store 0x100_0000_0008 = true ∧ reaches live 0 0x4000_0008 .store 8 = true ∧ rangeOf 8 = .hbm := by
  decide +kernel
/-! ### Witnesses: the steps of the hardware -/

/-- Plot 0 with these copies. -/
def withCopies (cs : List Copy) (f : BlockUnit → BlockUnit) : State :=
  let x := plotWith (copyWith []) group
  stateWith { x with blocks := f { x.blocks with copies := cs } }
def idleUnit (x : BlockUnit) : BlockUnit := x
/-- A block in a load image at VA 0x4001_0000: one slot, a `sink`, with its checksum or with another. -/
def iblk : BlockId := BlockId.mk 1 0x4001_0000 0
def sinkWord : Nat := 0x0100_0000_0000_0000
def goodCrc : Nat := 0xfbc05f16
def imageHeader (crc : Nat) : Nat := 2 ^ 120 + 2 ^ 106 + crc
def withImage (crc : Nat) (s : State) : State :=
  [(0, 4, 0x5A4B4F31), (68, 4, 1), (72, 8, 128), (128, 4, 16), (144, 16, imageHeader crc), (160, 16, sinkWord)].foldl
    (fun s x => fullStore s (0x10000 + x.1) x.2.1 x.2.2) s
/-- The lines of the image in the L1 of plot 0, in a state. -/
def imageLines (st : L1State) (s : State) : State :=
  modPlot s 0 (fun x => { x with l1 := (List.range 3).map (fun k => L1Line.mk (1024 + k) st (s.mem.line (1024 + k)) false []) })
/-- A token of the group. -/
def aToken : Token := Token.mk env (mkPacket 1 [7])
def anEntry : EntryToken := EntryToken.mk 0 0 aToken 0
def copyIn (b : BlockId) (ph : CopyPhase) : Copy := { copyWith [] with id := b, phase := ph, buffer := [anEntry] }
theorem test_crc : (crc32 16 sinkWord).toNat = goodCrc := by decide +kernel
def loadingState (crc : Nat) (st : L1State) : State := imageLines st (withImage crc (withCopies [copyIn iblk .loading] idleUnit))
def readsImage (crc : Nat) (ok : Bool) : Bool :=
  let s := loadingState crc .s
  (loadingCopy s 0).isSome && (match readImage s 0 iblk with
    | .ok (_, some x) => (imageFault x.header x.bytes false).isNone == ok
    | _ => false)
/-- The end of a read of an image: nothing there, a line still to come, a walk still to come, or a fault. -/
def imageEnds (s : State) (b : BlockId) : Nat :=
  match readImage s 0 b with
  | .ok (_, none) => 1
  | .error .line => 2
  | .error (.walk _) => 3
  | .error (.fault _ _) => 4
  | .ok (_, some _) => 0
/-- Every tile held by a resident copy of a block of the context, and one block waiting. -/
def fullPlot (ph : CopyPhase) (k : Nat) : State :=
  withCopies (copyIn iblk .absent :: (List.range 16).map (fun t => { copyWith [] with
    id := BlockId.mk 1 0x20000 (BitVec.ofNat 32 t), tile := t, phase := ph, evictFor := k, idle := 256, nent := 2 })) idleUnit
def moving (switched : Bool) : Copy := { copyWith [] with phase := .migrating, tile := 3, newTile := some 7, switched := switched }
/-- A token in flight to slot 5 of a resident copy, over an edge of a kind. -/
def aFlight (k : EdgeKind) (refused : Bool) : Flight := Flight.mk (Dest.mk 0 blk 5 0) aToken k false refused
def flying (f : Flight) : State := { live with flights := [f] }
/-- That machine in plot cycle 1, its first furrow at step 7: a token has passed edge port 0 of tile 0 in cycle 0. -/
def metered (f : Flight) : State :=
  { stateWith { plotWith (copyWith []) group with edges := [EdgePort.mk 0 0 [0] []] } with
    flights := [f], cycles := 1, furrows := State.reset.furrows.set 0 { Furrow.reset with pstep := 7, meter := 7 } }
def waitingCopy (ws : List Waiting) : Copy := { copyWith [(5, .add (hd .s32))] with waiting := ws }
/-- Block `iblk` rejected for its slot 3, on a plot whose group has a free cause slot or none. -/
def rejectedState (st : CauseState) : State :=
  { stateWith (plotWith (copyIn iblk .absent) { group with causes := List.replicate 4 { CauseSlot.empty with state := st } }) with
    ctxs := [(1, { running with rejected := [Rejected.mk iblk 0x83] })] }

theorem witness_BlockSteps_tokens :
    -- a flight inside the tile; at an open edge port; at a closed one, refused for the first time and again
    (flightEdge (flying (aFlight .inner false)) (aFlight .inner false) = none ∧
      flightEdge (flying (aFlight .dispatch false)) (aFlight .dispatch false) = some (0, 1) ∧
      meterOpen (flying (aFlight .dispatch false)) 0 0 1 = true ∧
      (∀ r ∈ [true, false], flightEdge (metered (aFlight .entry r)) (aFlight .entry r) = some (0, 0) ∧
        meterOpen (metered (aFlight .entry r)) 0 0 0 = false)) ∧
    -- two tokens in the overflow area, and a store with room
    (let c := waitingCopy [Waiting.mk 5 0 aToken (some 4), Waiting.mk 5 0 aToken (some 3)]
    let s := withCopies [c] idleUnit
    copyOnTile s 0 0 = some c ∧ storeUsed s 0 c 5 < 256 ∧ (overflowed s 0 c 5).min? = some 3) ∧
    -- an entry token of a live copy, of one still to be loaded, and of a rejected one whose fault is taken or waits
    (nextEntry (copyIn blk .resident).buffer = some anEntry ∧ copyLive (copyIn blk .resident) = true ∧
      copyLive (copyIn iblk .absent) = false ∧ rejectedSlot (withCopies [copyIn iblk .absent] idleUnit) iblk = none ∧
      rejectedSlot (rejectedState .free) iblk = some 0x83 ∧
      (tokenFault (rejectedState .free) 0 iblk 0 0 aToken causeBadOpcode 0x83).2 = true ∧
      (tokenFault (rejectedState .read) 0 iblk 0 0 aToken causeBadOpcode 0x83).2 = false) := by decide +kernel
theorem witness_BlockSteps_loads :
    -- a load: started, ended, rejected in its words and in its header, waiting, faulted
    (let s := withImage goodCrc (withCopies [copyIn iblk .absent] (fun x => { x with loadClock := 8 }))
    8 ≤ (plotAt s 0).blocks.loadClock ∧ loadingCopy s 0 = none ∧ (chooseLoad s 0).isSome = true ∧
      (bestTile s 0 (loadClass s 0 iblk) (freeTiles s 0)).isSome = true) ∧
    readsImage goodCrc true = true ∧ readsImage 0 false = true ∧
    imageEnds (loadingState goodCrc .s) { iblk with bid := 1 } = 1 ∧ imageEnds (loadingState goodCrc .isD) iblk = 2 ∧
    imageEnds (withCopies [copyIn blk .loading] idleUnit) blk = 3 ∧
    imageEnds (modWalker (withCopies [copyIn blk .loading] idleUnit) 0 (fun x => { x with failed := [.sched] })) blk = 4 ∧
    (byArrival (copyIn blk .loading)).head? = some anEntry := by decide +kernel
theorem witness_BlockSteps_moves :
    -- consolidation of a long-resident copy away from tile 0, and one that work prevents
    (let s := withCopies [{ copyWith [] with sinceMove := 4096 }, { copyWith [] with id := iblk, tile := 4 },
      { copyWith [] with id := hblk, tile := 5 }] (fun x => { x with freed := true })
    chooseMove s 0 = some (MoveRequest.mk blk 6) ∧ migrating s 0 = false ∧ (∀ y ∈ (plotAt s 0).blocks.copies, hasWork s y = false) ∧
      loadingCopy s 0 = none) ∧
    (let s := withCopies [copyWith [], copyIn iblk .absent] (fun x => { x with freed := true })
    ¬ ∀ y ∈ (plotAt s 0).blocks.copies, hasWork s y = false) ∧
    -- a request, a switch, a release whose drain markers are back, and one with a token still under way
    (let s := withCopies [copyWith []] (fun x => { x with request := some (MoveRequest.mk blk 7) })
    migrating s 0 = false ∧ tileFree s 0 7 = true) ∧
    ((plotAt (withCopies [moving false] idleUnit) 0).blocks.copies.find? (fun y => y.phase == .migrating && !y.switched) = some (moving false) ∧
      mayCarry (tileAt (withCopies [moving false] idleUnit) 0 3) = true) ∧
    (let s := withCopies [moving true] idleUnit
    (plotAt s 0).blocks.copies.find? (fun y => y.phase == .migrating && y.switched) = some (moving true) ∧ s.flights = [] ∧
      s.rows = [] ∧ (plotAt s 0).iterative = []) ∧
    { aFlight .inner false with before := true }.before = true := by
  decide +kernel
/-- A victim is wanted where no tile is free, and an eviction ends after 16 cycles. -/
theorem witness_BlockSteps_eviction : wantsVictim (fullPlot .resident 0) 0 = true ∧ (chooseVictim (fullPlot .resident 0) 0).isSome = true ∧
    (∀ y ∈ (plotAt (fullPlot .resident 0) 0).blocks.copies, y.phase ≠ .evicting) ∧
    ((plotAt (fullPlot .evicting 16) 0).blocks.copies.find? (fun y => y.phase == .evicting && decide (16 ≤ y.evictFor))).isSome = true := by
  decide +kernel
/-- The other port's token waits, or does not; the store has room, or its 256 entries are taken. -/
theorem witness_MatchingRule :
    (match stationInstr (waitingCopy []) 5 with
      | .ok i => hasRowPort i == false && creditPort i == none && (matchPorts i) == [0, 1]
      | .error _ => false) = true ∧
    gatherSet (waitingCopy [Waiting.mk 5 1 aToken none]) 5 (keyOf env) [1] = some [Waiting.mk 5 1 aToken none] ∧
    gatherSet (waitingCopy []) 5 (keyOf env) [1] = none ∧ storeRoom live 0 (waitingCopy []) 5 = true ∧
    (let w := List.replicate 256 (Waiting.mk 5 0 { aToken with env := { env with thread := 9 } } none)
    gatherSet (waitingCopy w) 5 (keyOf env) [1] = none ∧ storeRoom live 0 (waitingCopy w) 5 = false) := by decide +kernel
/-- An access of the block, with one part in HBM, and plot 0 with it. -/
def partIn (st : PartState) : Machine.Part := Machine.Part.mk 0x4000_0000 (some 0) 3 none 4 .coherent false false 0 0 st 0 true
def accessIn (op : MemOp) (ph : AccessPhase) (st : PartState) : Access where
  id := 40
  op := op
  block := blk
  set := mset oneIn
  head := { hd .s32 with cfg := 0xFE01_0200_0000_0000 }
  xf := plainXf .normal false .none
  ftz := false
  handler := false
  parts := [partIn st]
  code := 0
  status := 0
  phase := ph
  fault := none
  freed := false
  withdrawn := false
  again := false
  fresh := false
/-- An older access of the thread, issued before it. -/
def olderIn (op : MemOp) (ord : MemOrd) (st : PartState) : Access :=
  { accessIn op .issued st with id := 39, xf := { plainXf .normal false .none with ord := ord } }
def withAccesses (as : List Access) (g : Group) : State :=
  stateWith { plotWith (copyWith []) g with accesses := as, waves := [WaveRec.mk 1 2 3 false 7 0 0xFF] }
def withAccess (a : Access) : State := withAccesses [a] group
/-- The group with every cause slot in use. -/
def heldUp : Group := { group with causes := List.replicate 4 { CauseSlot.empty with state := .read } }
def anError : FaultInfo := causeOnly causeMemUncorrectable
def fromAccess (s : State) (a : Access) : Bool :=
  (deliverFault s 0 a.env.gslot anError (0#1 ++ a.set.slot) a.block a.env (.access a.id)).2
/-- An access that may issue with these before it, through its gates or not, with a fault or without. -/
def issues (a : Access) (older : List Access) (gates fault : Bool) : Bool :=
  let s := withAccesses (older ++ [a]) group
  accessAt s 0 40 == some a && !isStream a.op && accessLets s 0 a && accessReady s 0 a && gatesOpen s 0 a == gates && !a.again &&
    ((a.fault <|> lostFault s 0 a) <|> peerFault s a).isSome == fault && a.parts.all (fun x => x.kind != .peer)
theorem witness_AccessSteps_issue :
    accessAt (withAccess (accessIn .ld .transit .todo)) 0 40 = some (accessIn .ld .transit .todo) ∧ isStream .ld = false ∧
    -- behind an acquire; with open gates: a `mnop`, a load, a load of a value stored before it; with a fault
    issues (accessIn .ld .waiting .todo) [olderIn .ld .acquire .atHome] false false = true ∧
    issues { accessIn .mnop .waiting .todo with parts := [] } [] true false = true ∧
    issues (accessIn .ld .waiting .todo) [] true false = true ∧
    forwardSource (withAccess (accessIn .ld .waiting .todo)) 0 (accessIn .ld .waiting .todo) = none ∧
    issues (accessIn .ld .waiting .todo) [olderIn .st .plain .atHome] true false = true ∧
    forwardSource (withAccesses [olderIn .st .plain .atHome, accessIn .ld .waiting .todo] group) 0 (accessIn .ld .waiting .todo) =
      some (olderIn .st .plain .atHome) ∧
    issues { accessIn .ld .waiting .todo with fault := some anError } [] true true = true ∧
    fromAccess (withAccess (accessIn .ld .waiting .todo)) (accessIn .ld .waiting .todo) = true ∧
    fromAccess (withAccesses [accessIn .ld .waiting .todo] heldUp) (accessIn .ld .waiting .todo) = false := by decide +kernel
/-- That machine with a record buffer of 4,096 bytes, and the replay of the one message that stands in it. -/
def recording : State :=
  { live with ctxs := [(1, { running with recMode := .record, regs := { running.regs with recbase := 0x10000, recsize := 4096 } })] }
def replaying : State :=
  setMode (recordEntry recording 1 recPort (portAddr group 1) (portIdent live 0 (heldIn posts (hd .s32)) group)) 1 .replay
/-- A group that has work to do and one that is quiescent, a full port and one with a spilled message, and a context that records. -/
theorem witness_PostDelivery_ports : group.phase = .running ∧ groupLive live 0 2 group = false ∧
    (let s := withAccess (accessIn .ld .issued .atHome)
    groupLive s 0 2 group = true) ∧
    (let g := { group with ports := [List.replicate 16 (mkPacket 1 [5]), [], [], []], portSpill := [[], [mkPacket 1 [6]], [], []] }
    16 ≤ (g.ports.getD 0 []).length ∧ g.portSpill.getD 1 [] ≠ []) ∧
    (ctxAt recording blk.ctx).recMode = .record ∧ postVerdict recording 0 (heldIn posts (hd .s32)) group 1 = .free ∧
    (match postVerdict replaying 0 (heldIn posts (hd .s32)) group 1 with
      | .now _ => true
      | _ => false) = true := by decide +kernel
/-- The machine of an access in plot cycle 1, its first furrow at step 7: its tile's return port is closed. -/
def returnClosed (a : Access) : State :=
  { stateWith { plotWith (copyWith []) group with accesses := [a], edges := [EdgePort.mk 0 2 [0] []] } with
    cycles := 1, furrows := State.reset.furrows.set 0 { Furrow.reset with pstep := 7, meter := 7 } }
theorem witness_AccessSteps_performed :
    (let a := accessIn .ld .issued .done
    (∀ y ∈ a.parts, partDone y = true) ∧ a.freed = false ∧ fenceClear (withAccess a) 0 a = true ∧ dataLeaves (withAccess a) 0 a = true ∧
      returnsLocal a = true ∧ meterOpen (withAccess a) 0 (tileOf (withAccess a) 0 a.block) 2 = true ∧
      meterOpen (returnClosed a) 0 (tileOf (returnClosed a) 0 a.block) 2 = false) ∧
    isStream .strs = true ∧ returnsLocal (accessIn .strs .issued .done) = false ∧
    -- one that has met an error: of a running group, whose fault is taken or waits, and of one that is gone
    (let a := { accessIn .ld .issued .bad with fault := some anError }
    (∀ y ∈ a.parts, partDone y = true ∨ y.state = .bad) ∧ groupAt (withAccess a) 0 a.env.gslot = some group ∧
      group.phase ≠ .retiring ∧ fromAccess (withAccess a) a = true ∧ fromAccess (withAccesses [a] heldUp) a = false ∧
      (∀ y, groupAt (withAccesses [a] { group with phase := .retiring }) 0 a.env.gslot = some y → y.phase = .retiring)) := by
  refine ⟨by decide +kernel, by decide, by decide +kernel, by decide +kernel, by decide +kernel, by decide, by decide +kernel,
    by decide +kernel, ?_⟩
  intro y h
  have : some { group with phase := .retiring } = some y := h.symm ▸ (by decide +kernel)
  injection this with h
  rw [← h]
/-- Entries of a table: a pointer, and a leaf with A and D set, without them, and of a contiguous group. -/
def leafWord (n : Nat) : Word := BitVec.ofNat 64 (2 ^ 63 + n)
def aWalk (ph : WalkPhase) : Walk := Walk.mk 1 0x4000_0000 ph [WalkReq.mk (.access 40) 1 0x4000_0000 .store false 0 0] []
def walks (w : Word) (l : Nat) : State :=
  let s := modWalker live 0 (fun x => { x with walks := [aWalk (.level l 0x2000), aWalk (.update l 0x2000 w), aWalk (.group 0x2000 w)] })
  writeWord s 0x2000 w
/-- What a level's entry is: its fault, whether it is a leaf, whether it must be updated, whether it names a group. -/
def entryIs (w : Word) (l : Nat) (c : Option (BitVec 8)) (leaf update grouped : Bool) : Bool :=
  let b := readWord (walks w l) (entryAddr l 0x2000 0x4000_0000)
  entryCause l b == c && (c.isSome || (pteL b == leaf && (!leaf || permits 1 .store b) &&
    needsUpdate [WalkReq.mk (.access 40) 1 0x4000_0000 .store false 0 0] b == update && pteC b == grouped))
def aBank (w a : Bool) (c : Nat) : BankReq := BankReq.mk 0 7 w a (.part (PartRef.mk 0 40 0)) false c 0
def bankState (q : BankReq) : State := { live with banks := [q], cycles := 1 }
theorem witness_AccessSteps :
    -- an access whose page's translation the walker must be asked for, and refused operations
    (let a := accessIn .ld (.translating false) .todo
    let a := { a with parts := [{ partIn .todo with pa := none }] }
    nextPart a = some (0, { partIn .todo with pa := none }) ∧ vaValid (partIn .todo).ea = true ∧ entryCovers (withAccess a) 0 a = false ∧
      (ctxAt (withAccess a) a.block.ctx).phase = .running ∧ a.fault = none) ∧
    slotRuns live 0 env.gslot = true ∧
    ([Refused.mk (heldIn oneIn (hd .s32)) 2 (.permit 0x8000_1000)][0]?).isSome = true ∧
    -- answers of the walker: to nobody, a leaf, a fault of the part's page
    accessAt live 0 40 = none ∧
    (accessIn .ld (.translating true) .todo).parts.findIdx? (fun y => y.ea == 0x4000_0000) = some 0 ∧
    -- a level's entry: not valid, a pointer, a leaf to update, a leaf of a group at level 5, a leaf without one
    entryIs 0 1 (some causeTrInvalid) false false false = true ∧ entryIs 0x3001 1 none false true false = true ∧
    entryIs (leafWord 0x1F) 5 none true true false = true ∧ entryIs (leafWord 0xE1F) 5 none true false true = true ∧
    entryIs (leafWord 0x61F) 5 none true false false = true ∧ entryIs (leafWord 0x61F) 4 none true false false = true ∧
    -- the entry still as it was read, or changed since
    readWord (walks (leafWord 0x1F) 5) 0x2000 = leafWord 0x1F ∧ readWord (walks 0x3001 5) 0x2000 ≠ leafWord 0x1F ∧
    (∀ y ∈ [(0, 40)], accessCleared (withAccess (accessIn .ld .waiting .todo)) y = true) ∧
    -- a word's bank: a lone request, an atomic one, one of this plot cycle, and a bank that has served in it
    (∀ w ∈ [true, false], (bankState (aBank w false 0)).banks.filter (fun y => y.store == 0 && y.word % 64 == 7) = aBank w false 0 :: [] ∧
      (aBank w false 0).atomic = false ∧ (aBank w false 0).cycle < 1 ∧ (bankState (aBank w false 0)).served = []) ∧
    (aBank true true 0).atomic = true ∧ (bankState (aBank true false 1)).cycles ≤ (aBank true false 1).cycle := by
  decide +kernel
/-- A leaf that permits the store that waits for it and one that does not, a walker that has answered an access and a station, requests
of an access that its home has refused, and an operation that waits for nothing. -/
def answered2 : State := modWalker (withAccess (accessIn .ld (.translating true) .todo)) 0 (fun x => { x with
  returned := [Returned.mk (.access 40) 1 0x4000_0000 (.fault anError), Returned.mk (.station blk 5) 1 0x4000_0000 (.fault anError)] })
theorem witness_AccessSteps_walks :
    (let q := WalkReq.mk (.access 40) 1 0x4000_0000 .store false 0 0
    leafRefuses live q (mkLeaf 1 0x4000_0000 5 (entryAddr 5 0x2000 0x4000_0000) (leafWord 0x61F)) = none ∧
      leafRefuses live q (mkLeaf 1 0x4000_0000 5 (entryAddr 5 0x2000 0x4000_0000) (leafWord 0x61B)) = some causeTrPerm) ∧
    ((plotAt answered2 0).walker.returned[0]?).map (fun x => x.who) = some (.access 40) ∧
    ((plotAt answered2 0).walker.returned[1]?).map (fun x => x.who) = some (.station blk 5) ∧
    (accessAt answered2 0 40).isSome = true ∧ (ctxAt answered2 1).phase = .running ∧
    (ctxAt { answered2 with ctxs := [(1, { running with phase := .preempting })] } 1).phase ≠ .running ∧
    mayResend (withAccess (accessIn .ld .issued .refused)) (accessIn .ld .issued .refused) = true ∧
    (Refused.mk (heldIn oneIn (hd .s32)) 2 (.permit 0x8000_1000)).atUnit = false ∧
    rankOpen live 0 (arrivalRank live 0 0 (heldIn oneIn (hd .s32))) = true := by decide +kernel
/-- Line 0, whose home is slice 0; each message stands alone, with a directory entry of the line or none. -/
def homeEntry (st : DirState) (serving : Option DirReq) (queue : List DirReq) (n : Nat) : DirEntry :=
  DirEntry.mk 0 st [1, 2] 1 n serving queue false
def aPart : ReqRef := .part (PartRef.mk 0 40 0)
def toHomeState (a : Access) (m : HomeMsg) (es : List DirEntry) : State :=
  { withAccess a with toHome := [ToHome.mk 0 0 m], dir := es }
def homeLoad (m : HomeMsg) (es : List DirEntry) : State := toHomeState (accessIn .ld .issued .atHome) m es
def atHome (m : HomeMsg) (es : List DirEntry) : Bool := headHome (homeLoad m es) 0 0 == some (ToHome.mk 0 0 m)
def longQueue : List DirReq := List.replicate 512 (.gets 3)
/-- A request out of its place in its plot cycle, and in it: the message gone, a line at rest, in a transient state with a
place in the queues of its slice, and with none. -/
theorem witness_CoherenceSteps_requests :
    (∀ m ∈ [HomeMsg.gets, .getx, .upg, .pute, .putm 0, .invAck, .fwdDone 0 true, .read aPart, .op aPart], atHome m [] = true) ∧
    Machine.reaches { live with arrived := [(0, 1)] } 0 0 = none ∧ (Machine.reaches live 0 0).isSome = true ∧
    (∀ e ∈ [([] : List DirEntry), [homeEntry .s none [] 0], [homeEntry .em none [] 0]],
      dirTransient (dirAt (homeLoad .gets e) 0) = false) ∧
    (∀ st ∈ [DirState.sx, .emFs, .emFx], dirTransient (dirAt (homeLoad .gets [homeEntry st (some (.getx 3)) [] 1]) 0) = true) ∧
    queuedAt (homeLoad .gets [homeEntry .sx (some (.getx 3)) (longQueue.take 511) 1]) 0 < 512 ∧
    512 ≤ queuedAt (homeLoad .gets [homeEntry .sx (some (.getx 3)) longQueue 1]) 0 := by decide +kernel
/-- Acknowledgements, the last and an earlier one, and answered forwards, for each request that waits. -/
theorem witness_CoherenceSteps_answers :
    (∀ q ∈ [DirReq.upg 3, .getx 3, .op aPart], ∀ n ∈ [1, 2],
      (dirAt (homeLoad .invAck [homeEntry .sx (some q) [] n]) 0).st = .sx ∧
      (dirAt (homeLoad .invAck [homeEntry .sx (some q) [] n]) 0).count = n ∧
      (dirAt (homeLoad .invAck [homeEntry .sx (some q) [] n]) 0).serving = some q) ∧
    (∀ q ∈ [DirReq.gets 3, .read aPart],
      (dirAt (homeLoad (.fwdDone 5 true) [homeEntry .emFs (some q) [] 0]) 0).st = .emFs ∧
      (dirAt (homeLoad (.fwdDone 5 true) [homeEntry .emFs (some q) [] 0]) 0).serving = some q) ∧
    (∀ q ∈ [DirReq.getx 3, .upg 3, .op aPart],
      (dirAt (homeLoad (.fwdDone 5 false) [homeEntry .emFx (some q) [] 0]) 0).st = .emFx ∧
      (dirAt (homeLoad (.fwdDone 5 false) [homeEntry .emFx (some q) [] 0]) 0).serving = some q) := by decide +kernel
def kindIs (s : State) (r : PartRef) (k : PageKind) : Bool := (partAt s r).any (fun y => y.2.kind == k)
/-- Reads and operations of a part of a replicated page and of another; a line of HBM and one of the window; a replay waiter
whose turn has come; the atomic unit of a bank. -/
theorem witness_CoherenceSteps_operations :
    (let a := accessIn .ld .issued .atHome
    kindIs (toHomeState a (.read aPart) []) (PartRef.mk 0 40 0) .coherent = true ∧
      kindIs (toHomeState { a with parts := [{ partIn .atHome with kind := .replicated }] } (.read aPart) []) (PartRef.mk 0 40 0)
        .replicated = true) ∧
    rangeOf (64 * 0) = .hbm ∧ rangeOf (64 * 0x4_0000_0000) = .window ∧
    (let a := accessIn .atom .issued .atHome
    let s := { withAccess a with homeWaiters := [.replay 9 (PartRef.mk 0 40 0)] }
    replayReady s 9 = some (PartRef.mk 0 40 0) ∧ (partAt s (PartRef.mk 0 40 0)).any (fun y => y.2.pa == some 0) = true) ∧
    (let s := bankState (aBank true true 0)
    s.banks.filter (fun g => g.store == 64 - 64 && g.word % 64 == 7) = aBank true true 0 :: [] ∧ (aBank true true 0).cycle < s.cycles ∧
      s.served = []) := by decide +kernel
/-- A message to the L1 of plot 0 about line 0, from its home and from an owner, and the line there in a state. -/
def lineIn (st : L1State) : L1Line := L1Line.mk 0 st 9 false []
def toPlotState (m : PlotMsg) (st : L1State) : State := modL1 { live with toPlot := [ToPlot.mk 0 0 m] } 0 (fun _ => [lineIn st])
def ownerState (m : PlotMsg) (st : L1State) : State := modL1 { live with fromOwner := [ToPlot.mk 0 0 m] } 0 (fun _ => [lineIn st])
theorem witness_CoherenceSteps :
    (∀ x ∈ [(PlotMsg.dataS 5, L1State.isD), (.dataE 5, .isD), (.dataM 5, .imD), (.dataS 5, .isI), (.grant, .smD), (.inv, .s), (.inv, .smD),
        (.inv, .isD), (.fwd (Forward.mk .gets (some 1)), .e), (.fwd (Forward.mk .gets none), .m), (.fwd (Forward.mk .getx (some 1)), .m),
        (.fwd (Forward.mk .getx none), .e), (.fwd (Forward.mk .gets (some 1)), .imD), (.fwd (Forward.mk .getx none), .miA),
        (.putAck, .miA), (.putAck, .iiA), (.refused .gets, .isD), (.refused .upg, .smD), (.refused .upg, .imD)],
      headPlot (toPlotState x.1 x.2) 0 0 = some (ToPlot.mk 0 0 x.1) ∧
      (ownerState x.1 x.2).fromOwner.filter (fun m => m.plot == 0) = [ToPlot.mk 0 0 x.1] ∧
      l1At (toPlotState x.1 x.2) 0 0 = some (lineIn x.2) ∧ l1At (ownerState x.1 x.2) 0 0 = some (lineIn x.2)) ∧
    l1At live 0 0 = none := by decide +kernel
/-- Entries in each state, with plot 3 alone, among others, absent, or the owner. -/
theorem witness_DirectoryRule :
    (let e := DirEntry.mk 9 .s [3] 0 0 none [] false
    3 ∈ e.sharers ∧ e.sharers.filter (fun q => q != 3) = [] ∧ 4 ∉ e.sharers ∧ e.sharers.filter (fun q => q != 4) ≠ [] ∧ e.sharers ≠ []) ∧
    ([3, 4].filter (fun q => q != 3) ≠ [] ∧ 3 ∈ [3, 4]) ∧
    (let s := { live with dir := [DirEntry.mk 9 .em [] 3 0 none [] false] }
    (dirAt s 9).st = .em ∧ 3 = (dirAt s 9).owner ∧ 4 ≠ (dirAt s 9).owner) ∧ (dirAt live 9).st = .i ∧
    (dirAt { live with dir := [DirEntry.mk 9 .s [3] 0 0 none [] false] } 9).st = .s ∧
    (let s := { live with dir := [DirEntry.mk 9 .s [] 0 0 none [] false] }
    (dirAt s 9).st = .s ∧ (dirAt s 9).sharers = []) := by decide +kernel
/-- A copy request whose chunk of 64 bytes is being written. -/
def copyJob (ph : ChunkPhase) : CopyReq :=
  CopyReq.mk (heldIn oneIn (hd .s32)) 2 (.rows 0x4000_0000 0 0x4000_1000 0 1 64) 0
    (some (CopyPiece.mk (some 0x4000_0000) 0x4000_1000 false 64)) ph .none false false 41
def copyState : State := stateWith { plotWith (copyWith []) group with copyQueues := [[copyJob (.writing 64)], []] }
def repeatJob (pass pos cnt : Nat) : RepJob := RepJob.mk (heldIn oneIn (hd .lane)) 2 cnt pass pos (some [rowOf 0x11, rowOf 0x11])
def checkOf (k : CheckKind) (w : Option Nat) : Check := Check.mk (heldIn oneIn (hd .s32)) k w
def engineTile : Tile := { Tile.fresh with
  switch := some (SlotChange.mk (heldIn oneIn (hd .s32)) true)
  accs := [(3, accIn .swap .unscaled), (4, { accIn .checking .unscaled with check := some (checkOf .mchk none) }),
    (5, { accIn .drained .unscaled with check := some (checkOf (.mdrn 0 0) (some 77)), draining := true })]
  array := [ArrayRow.mk 12 6 false (rowOf 0x11)]
  gather := some (Gather.mk (heldIn oneIn (hd .lane)) 0x16 [(0, 1)] 1 none 50)
  repeats := [Repeat.mk 14 [] (some (repeatJob 0 0 1)) 1]
  fillers := [Filler.mk (heldIn oneIn (hd .s32)) 1 5, Filler.mk (heldIn oneIn (hd .s32)) 2 5] }
def engineCopy (ws : List Waiting) : Copy := { copyWith [(12, .mma (hd .lane) 5 6), (13, .cchn (hd .s64) false 2 3),
  (14, .mrep (hd .lane) true), (20, .cnt (hd .s64) false 2 3)] with waiting := ws }
def engineState : State := withTile { plotWith (engineCopy []) group with chains := [{ chainOf .running with sent := some 3, env := env }] } engineTile
/-- A credit of the group's thread at the port of a `cchn` or an `mrep`, and the chain that the `cchn` owns. -/
def aCredit (slot : BitVec 7) (port : BitVec 2) : Waiting := Waiting.mk slot port aToken none
def aRow : RowFlight := RowFlight.mk 3 (Dest.mk 0 blk 12 0) (rowOf 0x11) false
/-- A chain's point before the last, the last, and one on offer since before a SEEK (assumption 30). -/
theorem witness_EngineSteps_chains :
    (let x := { chainOf .running with sent := some 3, env := env }
    (plotAt engineState 0).chains[0]? = some x ∧ chainForm engineState 0 x = some (ChainForm.mk false false 3 (hd .s64)) ∧
      mayStart engineState 0 x.block x.env.gslot = true ∧ 3 + 1 < x.points ∧ x.points ≤ 7 + 1) ∧
    (let c := engineCopy [aCredit 13 1, aCredit 14 2]
    copyLive c = true ∧ (match stationInstr c 13, stationInstr c 14 with
      | .ok a, .ok b => decide (a = .cchn (hd .s64) false 2 3 ∧ b = .mrep (hd .lane) true)
      | _, _ => false) = true ∧
    (let y := { Chain.blank blk 13 with state := .running, owner := some (ChainOwner.mk env.thread env.gslot) }
    creditWaiting c 13 1 (chainCounts y) = some (aCredit 13 1)) ∧ creditWaiting c 14 2 (fun _ => true) = some (aCredit 14 2) ∧
      (repeatAt engineTile 14).credit < 65535) ∧
    mayStart live 0 (heldIn oneIn (hd .s32)).block (heldEnv (heldIn oneIn (hd .s32))).gslot = true ∧
    -- a chunk whose writes have all been performed
    engineRequest copyState 0 0 = some (copyJob (.writing 64)) ∧ requestsDone copyState (copyOwner 0 (copyJob (.writing 64))) = true := by
  decide +kernel
/-- A row at its port, a boundary, a push, a row's result, a gather, a repeat (the end, a row, the last of a pass and of the
last pass, paced with a credit), and filler rows. -/
theorem witness_EngineSteps_rows :
    (let s := { engineState with rows := [aRow] }
    s.rows[0]? = some aRow ∧ (copyOf s aRow.dest.plot aRow.dest.block).any copyLive = true ∧ firstOfSource s 0 aRow = true ∧
      (portRows (engineOf s 0 blk) 12).length < 16) ∧
    (copyOnTile engineState 0 (1 - 1)).isSome = true ∧ engineTile.switch = some (SlotChange.mk (heldIn oneIn (hd .s32)) true) ∧
    (accOf engineTile 3).st = .swap ∧ accInArray engineTile 3 = false ∧
    engineTile.array = ArrayRow.mk 12 6 false (rowOf 0x11) :: [] ∧
    (requestsDone engineState (rowOwner (Gather.mk (heldIn oneIn (hd .lane)) 0x16 [(0, 1)] 1 none 50) 0 0) = true ∧
      rowPathOpen engineState 0 blk (hd .lane) true = true) ∧
    ((collectRows (repeatAt engineTile 14)).job = some (repeatJob 0 0 1) ∧ (repeatJob 0 0 1).rows = some [rowOf 0x11, rowOf 0x11] ∧
      instrAt engineState 0 blk 14 = some (.mrep (hd .lane) true) ∧ (repeatJob 1 0 1).cnt ≤ (repeatJob 1 0 1).pass ∧
      (repeatJob 0 0 1).pass < (repeatJob 0 0 1).cnt ∧ [rowOf 0x11, rowOf 0x11][1]? = some (rowOf 0x11) ∧
      rowPathOpen (pullPort engineState 0 blk 14) 0 blk { hd .lane with t2 := none } false = true ∧
      0 < (repeatAt (tileAt (pullPort engineState 0 blk 14) 0 0) 14).credit ∧
      0 + 1 < [rowOf 0x11, rowOf 0x11].length ∧ [rowOf 0x11, rowOf 0x11].length ≤ 1 + 1 ∧ 1 + 1 = (repeatJob 1 1 2).cnt ∧
      0 + 1 ≠ (repeatJob 0 1 2).cnt) := by decide +kernel
/-- A comparison by its end: clean, one element, more than one; an uncorrectable element; and a drain whose rows are written. -/
def comparing (d : List AccRow) : Acc := { accIn .checking .unscaled with d := d, check := some (checkOf .mchk none) }
theorem witness_EngineSteps :
    ((accOf engineTile 4).st = .checking ∧ (accOf engineTile 4).draining = false ∧ (accOf engineTile 4).check = some (checkOf .mchk none) ∧
      comparesBad (accOf engineTile 4) = false ∧ comparesBad { accOf engineTile 4 with bad := [63] } = true) ∧
    compareAcc (comparing []) = .clean ∧
    (match compareAcc (comparing [AccRow.mk 5 7]) with
      | .located l => l.i == 5 && l.j == 0
      | _ => false) = true ∧
    compareAcc (comparing [AccRow.mk 5 7, AccRow.mk 9 7]) = .multiple ∧
    (drains (accState (accIn .checking .unscaled)) = true) ∧
    ((accOf engineTile 5).check = some (checkOf (.mdrn 0 0) (some 77)) ∧ (checkOf (.mdrn 0 0) (some 77)).writes = some 77 ∧
      requestsDone engineState (.drain 77 0) = true ∧ requestsSys engineState (.drain 77 0) = true) ∧
    (let q := EngReq.mk 60 (.drain 77 0) 0 1 2 0 0x200_0000_0000 64 (.write 5) true false none 0 none
    requestsDone { engineState with engReqs := [q] } (.drain 77 0) = true ∧
      requestsSys { engineState with engReqs := [q] } (.drain 77 0) = false) := by
  decide +kernel
/-! ### Witnesses: groups, queues and the loader -/

/-- A code object with one kernel of 4 threads and 1,024 bytes of plot store, and a native image of one block; its 384
bytes as a number. -/
def theObject : Nat :=
  0x5A4B4F31 + 2 ^ 32 + 5 * 2 ^ 48 + 384 * 2 ^ 64 + 2 ^ 96 + 2 ^ 112 + 128 * 2 ^ 224 + 2 ^ 304 + 0xFFFF_FFFF * 2 ^ 320 +
    (4 + 2 ^ 8 + 2 ^ 32 + 256 * 2 ^ 64 + 48 * 2 ^ 128) * 2 ^ 512 + (4 * 2 ^ 32 + 1024 * 2 ^ 64) * 2 ^ 1024 +
    (16 + imageHeader goodCrc * 2 ^ 128 + sinkWord * 2 ^ 256) * 2 ^ 2048
/-- The object in the store of plot 0 (VA 0x8002_0000), and a kernel record of it in the ready queue. -/
def cellsAt (a n v : Nat) : List Host.Cell :=
  (List.range n).filterMap (fun i => if v / 256 ^ i % 256 = 0 then none else some (a + i, BitVec.ofNat 8 (v / 256 ^ i)))
/-- That machine with only its first plot listed, where reading memory is short. -/
def small : State := { live with plots := live.plots.take 1 }
def objectState : State := { small with mem := { live.mem with cells := cellsAt 0x100_0002_0000 384 theObject } }
def kernelPacket : List Word := [1, 0x8002_0000, 1 <<< 32, 0, 0x4000_8000, 0, 0, 0]
def ringQueue : Queue := { Queue.blank with ctx := 1, base := 0x4000_2000, phase := .fetching, header := 1 }
def recordState : State := buildRecord objectState 0 ringQueue kernelPacket 0x8000
def atState (g : Group) : State := stateWith (plotWith (copyWith []) g)
theorem witness_GroupSteps_placement : (nextPlacing recordState).isSome = true := by decide +kernel
/-- A child's end whose parent is tracked, in state DRAINING or another, or is not. -/
def childState (st : Nat) : State :=
  { setRecState { live with kernels := [KernelRef.mk 0x8000 0x4000_8000 1 false [] [] false .open] } 0x8000 st with
    childDone := [ChildDone.mk 0x8000 true (some 3)] }
theorem witness_GroupSteps :
    (∀ k ∈ [2, 3], let g := { group with phase := .placed, nextThread := k }
      groupAt (atState g) 0 2 = some g ∧ (ctxAt (atState g) 1).phase = .running ∧ (g.nextThread + 1 < g.threads ∨ g.threads ≤ g.nextThread + 1)) ∧
    (groupAt live 0 2 = some group ∧ group.phase = .running ∧ groupLive live 0 2 group = false) ∧
    (let g := { group with phase := .retiring }
    groupAt (atState g) 0 2 = some g ∧ mayRetire (atState g) 0 2 g = true) ∧
    (let g := { group with portSpill := [[mkPacket 1 [6]], [], [], []] }
    g.portSpill.getD 0 [] = mkPacket 1 [6] :: [] ∧ (g.ports.getD 0 []).length < 16) ∧
    (∀ st ∈ [kDraining, 4], let s := childState st
    s.childDone[0]? = some (ChildDone.mk 0x8000 true (some 3)) ∧
      kernelOf { s with childDone := s.childDone.eraseIdx 0 } 0x8000 = some (KernelRef.mk 0x8000 0x4000_8000 1 false [] [] false .open) ∧
      (recState (setRecChild { s with childDone := s.childDone.eraseIdx 0 } 0x8000 0) 0x8000 = st)) ∧
    kernelOf (childState 4) 0x9000 = none ∧
    ([Signal.mk 2 1 false 0].find? (fun x => slotRuns live 0 x.gslot) = some (Signal.mk 2 1 false 0)) := by decide +kernel

/-- A kernel whose completion record is written, with a write that has not been answered, and with none. -/
def finishState (qs : List EngReq) : State :=
  { live with kernels := [KernelRef.mk 0x8000 0x4000_8000 1 false [] [] false (.written 0)], engReqs := qs }
theorem witness_GroupSteps_finish :
    (kernelOf (finishState []) 0x8000).map (fun x => x.finish) = some (.written 0) ∧ requestsOf (finishState []) (.record 0x8000) = [] ∧
    (let q := EngReq.mk 60 (.record 0x8000) 0 1 2 0 0x8000 64 (.write 5) false false none 0 none
    requestsOf (finishState [q]) (.record 0x8000) = [q] ∧ q.fault = none) ∧
    (openKernel (childState 4) 0x8000).isSome = true ∧ openKernel (finishState []) 0x8000 = none := by decide +kernel

/-- A descriptor whose queue is sound, at QTBASE 0; a ring slot that is empty, a NOP, a wrong packet, a KERNEL packet. -/
def soundDesc : Nat := 0x4000_2000 + 4 * 2 ^ 88 + 2 ^ 96
def ringState (ph : QueuePhase) (ws : List Word) : State :=
  let s := { small with mem := { live.mem with cells := cellsAt 0 64 soundDesc ++ cellsAt 0x2000 64 ((ws.getD 0 0).toNat) } }
  { s with queues := [(0, { ringQueue with phase := ph, due := some 0, expiry := 100, header := ws.getD 0 0 })] }
def ringReads (s : State) (o n v : Nat) : Bool :=
  match readRing s 0 (queueAt s 0) o n with
  | .ok x => x.2 == v
  | .error _ => false
theorem witness_QueueSteps_read :
    descValid (engineRead (ringState .disabled []) (descAddr (ringState .disabled []) 0) 64) = true ∧ descValid (2 ^ 511) = false ∧
    descValid (soundDesc + 2 ^ 195) = false ∧
    (∀ ph ∈ [QueuePhase.disabled, .idle, .armed, .fetching, .error], (queueAt (ringState ph []) 0).phase = ph) ∧
    (queueAt (ringState .armed []) 0).due.isSome = true ∧ replayPacket (ringState .armed []) 0 (queueAt (ringState .armed []) 0) = none ∧
    queueReads (ringState .armed []) 1 = true ∧ fetchingOn (ringState .armed []) 0 < 4 ∧
    (∀ y ∈ (ringState .armed []).queues, ¬ y.1 < 0) ∧
    -- the back-off has a tick to go, and none; the watch has been hit or not
    ((ringState .armed []).timers.getD 0 0 < (queueAt (ringState .armed []) 0).expiry ∧
      (queueAt (ringState .armed []) 0).expiry ≤ ({ ringState .armed [] with timers := [100, 0, 0, 0] } : State).timers.getD 0 0) ∧
    (∀ w ∈ [true, false], { ringQueue with hit := w }.hit = w) ∧
    ringReads (ringState .armed []) 0 8 0 = true ∧ ringReads (ringState .armed [2, 0, 0, 0, 0, 0, 0, 0]) 0 8 2 = true := by decide +kernel
/-- The queues of die 0 and the first of die 1; a slot whose page the walker must be asked for, and one it need not; a packet's slot
free and a record with room and without. -/
theorem witness_QueueSteps_turns : queueDie 0 = 0 % 4 ∧ queueDie 255 = 4 % 4 ∧ queueDie 256 ≠ 0 % 4 ∧
    (let s := ringState .armed []
    walkWaits s (queuePlot 0) .queue 65537 1 [(.userLoad, slotAddress (queueAt s 0))] = none ∧
      (walkWaits s (queuePlot 0) .queue 65537 1 [(.userLoad, 0x10_0000)]).isSome = true ∧ slotHeld s 0 (queueAt s 0) = false ∧
      recordFits s 1 9 = true) ∧
    recordFits { live with ctxs := [(1, { running with recMode := .record })] } 1 9 = false := by decide +kernel
theorem witness_QueueSteps :
    (packetError (packetWords 2 0) = none ∧ bitsOf ((packetWords 2 0).getD 0 0).toNat 0 8 = 2) ∧
    (packetError (packetWords 3 0) = some 0x01) ∧
    (match readRing { ringState .fetching [] with ctxs := [(1, { running with phase := .runnable })] } 0 { ringQueue with base := 0x10_0000 } 8 56 with
      | .ok _ => false
      | .error _ => true) = true ∧
    (packetError kernelPacket = none ∧ bitsOf (kernelPacket.getD 0 0).toNat 0 8 = 1 ∧ ringError objectState 0 ringQueue none = none ∧
      (match launchKernel objectState 0 ringQueue kernelPacket with
        | .ok _ => true
        | .error _ => false) = true ∧
      (match launchKernel live 0 ringQueue kernelPacket with
        | .ok _ => false
        | .error _ => true) = true) := by decide +kernel

/-- Requests of each kind, and a translation cache with one entry. -/
def loadRequest (kind ctx : Nat) : Nat := kind + ctx * 2 ^ 32 + (if kind = 2 then 0 else 0x20000) * 2 ^ 64 + 0x4002_0000 * 2 ^ 128 + 0x50000 * 2 ^ 192
def requestState (kind ctx : Nat) : State := { small with mem := { live.mem with cells := cellsAt 0x4000_0000_7000 168 (loadRequest kind ctx) }, loads := [0x4000_0000_7000] }
/-- The native image of the object, as a translation of it would be. -/
def itsImage : Selected := selectImage theObject 4 1 1 48 (bytesAt theObject 256 48)
def cached (sv : Nat) : CacheEntry := CacheEntry.mk 0 4 1 7 sv itsImage 0
/-- A Slaloth image in the object's place of its native one: the object holds no native image for this device. -/
def slalothObject : Nat := theObject - 4 * 2 ^ 512 + 5 * 2 ^ 512
theorem witness_LoaderSteps_requests :
    (∀ k ∈ [1, 2, 3, 4], headRequest (requestState k 1) = some (0x4000_0000_7000, loadRequest k 1)) ∧ requestSound (loadRequest 1 1) = true ∧
    requestSound (loadRequest 2 1) = true ∧ loadCtx live 1 = .pass ∧ loadCtx live 2 = .fail ∧
    loadCtx { live with ctxs := [(1, { running with phase := .preempting })] } 1 = .wait ∧ requestSound (loadRequest 1 2) = true ∧
    requestSound (loadRequest 1 1 + 2 ^ 18) = false ∧ flagsSound (loadRequest 3 0) = true ∧ flagsSound (loadRequest 3 0 + 2 ^ 18) = false ∧
    live.dev.floor.toNat < 1 ∧ live.dev.left ≠ 0 ∧
    bytesAt (loadRequest 3 0) 36 4 = live.dev.peerid.toNat ∧ bytesAt (loadRequest 3 0) 34 2 = 0 ∧ bytesAt (loadRequest 3 0) 40 24 = 0 := by
  decide +kernel
theorem witness_LoaderSteps :
    inHbmOrHost 0x20000 384 = true ∧ inHbmOrHost 0x100_0002_0000 64 = false ∧ bytesAt (theObject % 2 ^ 512) 0 4 = 0x5A4B4F31 ∧
    objLen (theObject % 2 ^ 512) = 384 ∧ objectSound theObject = true ∧ objectSound 0x5A4B4F31 = false ∧ objKey theObject ≠ 0 ∧
    (1 : BitVec 12) ≠ headland ∧ objSecver theObject = 5 ∧ live.dev.floor.toNat ≤ objSecver theObject ∧
    (nativeImage live theObject).isSome = true ∧ nativeImage live slalothObject = none ∧ objSlofs slalothObject = 0 ∧
    cacheEntry live 0 7 = none ∧ cacheEntry { live with cache := [cached 5] } 0 7 = some (cached 5) ∧
    cacheEntry { live with cache := [cached 5] } 0 8 = none ∧ live.dev.floor.toNat ≤ (cached 5).sv ∧
    (cached 5).sv < ({ live.dev with floor := 6 } : DevRegs).floor.toNat ∧
    translationFits live 1 itsImage = true ∧ translationFits live 1 { itsImage with nblk := 2 } = false := by
  decide +kernel
/-- An entry of the cache as it was made, and with an error in its signature. -/
theorem witness_LoaderSteps_entry (e : CacheEntry) : entryHolds (sealEntry e) 0 = true ∧ entryHolds (sealEntry e) 1 = false := by
  have h : ∀ x y : BitVec 512, y ≠ 0 → x ^^^ y ≠ x := fun x y hy h => hy (by
    have := congrArg (fun z => x ^^^ z) h
    rwa [← BitVec.xor_assoc, BitVec.xor_self, BitVec.zero_xor] at this)
  have one : BitVec.ofNat 512 1 ≠ 0 := fun h => absurd (congrArg (fun z => BitVec.getLsbD z 0) h) (by simp)
  have z : ∀ x : BitVec 512, x ^^^ BitVec.ofNat 512 0 = x := fun _ => BitVec.xor_zero
  unfold entryHolds sealEntry
  exact ⟨beq_iff_eq.2 (z _), beq_eq_false_iff_ne.2 (h _ _ one)⟩
/-- That machine with the same translations in the headland that loads. -/
def loading : State := modWalker live 32 (fun _ => (plotAt live 0).walker)
/-- An object's area, mapped: the placement is sound, and in an area of no byte it is not. -/
theorem witness_LoaderSteps_placement :
    placementSound loading 1 0x4002_0000 0x50000 itsImage = true ∧ placementSound loading 1 0x4002_0000 0 itsImage = false := by
  have h : spilledItems loading 1 = 0 := by decide +kernel
  unfold placementSound tablesFit
  simp only [h, Nat.zero_mul]
  decide +kernel
/-- Its lines are at rest, or one has a message under way; the image is written. -/
theorem witness_LoaderSteps_area :
    ((areaLines loading 1 0x4002_0000 (imageLen itsImage)).any (fun l => rangeOf (64 * l) == .hbm && !quiet loading l)) = false ∧
    (let s := { loading with toPlot := (areaLines loading 1 0x4002_0000 (imageLen itsImage)).map (fun l => ToPlot.mk 0 l .grant) }
    ((areaLines s 1 0x4002_0000 (imageLen itsImage)).any (fun l => rangeOf (64 * l) == .hbm && !quiet s l)) = true) ∧
    (writeImage (discardObject loading 1 0x4002_0000) 1 0x4002_0000 itsImage none).2 = true := by decide +kernel
/-- Whether a signature holds is an uninterpreted function of the model (assumption 9): a clause stands for each answer. -/
theorem witness_LoaderSteps_signature : objectSigned theObject = true ∨ objectSigned theObject = false := by
  cases objectSigned theObject <;> decide
/-! ### Witnesses: contexts, the device, power, links and faults -/

def ctxPhased (ph : CtxPhase) : State := { live with ctxs := [(1, { running with phase := ph })] }
theorem witness_ContextSteps : (1 : BitVec 12) ≠ headland ∧
    (∀ ph ∈ [CtxPhase.free, .loaded, .runnable, .running, .preempting, .saved, .frozen, .dead], (ctxAt (ctxPhased ph) 1).phase = ph) ∧
    areasSound (recordRegs live 1) = true ∧ bufferSound (recordRegs live 1) = true ∧ freeSlot live = some 1 ∧
    accepts (ctxPhased .free) 1 .start = false ∧
    (let s := { State.reset with ctxs := [(1, { running with idle := 4096 })] }
    4096 ≤ (ctxAt s 1).idle ∧ hasGroup s 1 = false ∧ requestPending (ctxAt s 1) = false) ∧
    (∀ y ∈ [true, false], ((ctxAt (sliceAt (PlotCount.mk 101 100 (some y) 0 0)) 1).counts.getD 0 (freshSlice 0)).late = some y) ∧
    (let s := withAccess (accessIn .ld .issued .todo)
    let s := { s with ctxs := [(1, { running with counts := running.counts.set 0 (PlotCount.mk 0 100 none 0x20_0001 0) })] }
    (ctxAt s 1).regs.stl ≠ 0 ∧ (ctxAt s 1).regs.stl.toNat < ((ctxAt s 1).counts.getD 0 (freshSlice 0)).idle ∧ liveOn s 0 1 = true) := by
  decide +kernel
/-- Units that must acknowledge a stop: an engine class of a plot in which an access of the context is on its way, the same at rest, a
queue engine and a home. -/
def stopping (us : List StopUnit) (s : State) : State := { s with ctxs := [(1, { running with phase := .preempting, unacked := us })] }
theorem witness_ContextSteps_stop :
    stopUnitOf 0 0 = .plot 0 .fabric ∧ stopUnitOf 0 12 = .plot 0 .groups ∧ stopUnitOf 3 13 = .queueEngine 3 ∧ stopUnitOf 7 14 = .home 7 ∧
    ((ctxAt (stopping [.plot 0 .storeBuffer, .home 7] live) 1).unacked.contains (stopUnitOf 0 7) = true ∧
      (ctxAt (stopping [.home 7] live) 1).unacked.contains (stopUnitOf 0 7) = false) ∧
    unitStopped (stopping [.plot 0 .storeBuffer] live) 1 (stopUnitOf 0 7) = true ∧
    unitStopped (stopping [.plot 0 .storeBuffer] (withAccess (accessIn .ld .issued .atHome))) 1 (stopUnitOf 0 7) = false ∧
    unitStopped (stopping [.home 7] live) 1 (stopUnitOf 7 14) = true ∧
    unitStopped (stopping [.queueEngine 0] live) 1 (stopUnitOf 0 13) = true ∧ 2 ^ 24 % 2 ^ 24 = 0 ∧ (2 ^ 24 + 5) % 2 ^ 24 ≠ 0 := by decide +kernel
/-- The first and the last line of HBM and of host memory, a byte at a line's end; a snoop in its place and one out of it; the
host's requests at their line. -/
def hostAsk (act : EngAct) : EngReq := EngReq.mk 70 .host 36 0 0 0 0x1000 8 act false false none 0 none
def hostState (act : EngAct) : State := { live with engReqs := [hostAsk act] }
theorem witness_DeviceSteps : mayWrite live 0 headland 0x310 = true ∧ mayWrite live 0 1 0x310 = false ∧ [5].getD 2 0 ≠ 1 ∧
    rangeOf (64 * 0) = .hbm ∧ rangeOf (64 * 0x1FF_FFFF) = .hbm ∧ wholly .hbm 63 1 = true ∧ 63 % 64 + 1 ≤ 64 ∧ 64 < 63 % 64 + 2 ∧
    rangeOf (64 * 0x100_0000_0000) = .host ∧ rangeOf (64 * 0x100_0000_0000) ≠ .hbm ∧ wholly .hbm 0x4000_0000_0000 8 = false ∧
    (Machine.reaches live 0x100_0000_0000 36).isSome = true ∧
    Machine.reaches { live with arrived := [(0x100_0000_0000, 37)] } 0x100_0000_0000 36 = none ∧
    (∀ act ∈ [EngAct.hostRead false, .hostRead true, .hostWrite 5 false, .hostWrite 5 true],
      engAt (hostState act) 70 = some (hostAsk act) ∧ rangeOf (hostAsk act).pa = .hbm) := by decide +kernel
theorem witness_PowerSteps :
    (let s := { live with cycles := 64 }
    0 < 36 ∧ (∀ f ∈ furrowsOf 0, (furrowAt s f).windows < s.cycles / 64)) ∧
    (let s := { live with timers := [10000000, 0, 0, 0], power := { live.power with lease := some 0, last := some 5 } }
    s.power.intervals < s.timers.getD 0 0 / 2500 ∧ s.power.lease = some 0 ∧ 0 + 10000000 ≤ s.timers.getD 0 0 ∧ s.power.last = some 5) ∧
    ((furrowAt live 131).guarded = false ∧ (furrowAt live 131).clearing = false ∧ 131 < 132) ∧ live.power.last = none ∧
    live.power.boundaryAt ≠ some live.cycles ∧ furrowQuiet live 131 = true ∧ furrowQuiet engineState 0 = false ∧
    (let s := modFurrow live 131 (fun x => { x with clearing := true })
    (furrowAt s 131).clearing = true ∧ furrowQuiet s 131 = true) ∧
    -- messages 5, 6, 7, 5 + 2^31 - 1, 5 + 2^31 and 4 after message 5
    ((5 : BitVec 32) + 1 = 6 ∧ 1 < ((7 : BitVec 32) - 5).toNat ∧ ((7 : BitVec 32) - 5).toNat < 2 ^ 31 ∧
      ((0x8000_0004 : BitVec 32) - 5).toNat < 2 ^ 31 ∧ 2 ^ 31 ≤ ((0x8000_0005 : BitVec 32) - 5).toNat ∧ 2 ^ 31 ≤ ((4 : BitVec 32) - 5).toNat) := by
  decide +kernel
def portIn (st : PortState) (n k : Nat) : LinkPort := { LinkPort.reset with st := st, lanes := n, failures := k, eve := true, evv := 3 }
def portState (st : PortState) (n k : Nat) : State := { live with ports := live.ports.set 11 (portIn st n k) }
def aStream : LinkStream := LinkStream.mk 7 11 9 [OutReq.mk 8 0 (.part (PartRef.mk 0 40 0)) false [11] false 11 0 none,
  OutReq.mk 6 64 (.eng 41) true [11] false 11 0 none, OutReq.mk 7 128 (.eng 42) false [11] false 11 0 none]
theorem witness_LinkSteps : wholly .hbm 0x2000 8192 = true ∧ wholly .hbm 0x7F_FFFF_F000 8192 = false ∧
    (∀ st ∈ [PortState.down, .training, .up, .degraded, .quarantined], (portAt (portState st 8 0) 11).st = st) ∧
    (portAt (portState .up 8 1) 11).st = .up ∧ (portAt (portState .degraded 8 1) 11).lanes = 8 ∧ (portAt (portState .degraded 4 1) 11).lanes ≠ 8 ∧
    (let s := { portState .up 8 0 with streams := [aStream], timers := [0, 0, 0, 100000] }
    aStream ∈ s.streams ∧ (∀ r ∈ aStream.out, r.via = 11 ∧ portHolds s r.via = false ∧ r.sentAt + 100000 ≤ s.timers.getD (11 / 3) 0) ∧
      s.streams.find? (fun x => x.peer == 7 && x.port == 11) = some aStream ∧ (∀ q ∈ [6, 7, 8], (aStream.out.find? (fun y => y.seq == BitVec.ofNat 32 q && !portHolds s y.via)).isSome = true)) ∧
    -- a port that has taken the row of a lane failure in this plot cycle, and not yet
    (portMay (portState .up 8 0) 11 .laneFailure = true ∧
      (let s := notePort (portState .up 8 0) 11 .retryFailure
      portMay s 11 .laneFailure = false ∧ portMay s 11 .quarantine = true)) ∧
    (∀ e ∈ [PortEvent.trained, .trainingTimeout], portMay (portState .training 8 0) 11 e = true) ∧
    (portCarries (portAt (portState .up 8 0) 11) = true ∧ portHolds (portState .up 8 0) 11 = false ∧
      portCarries (portAt (portState .down 8 0) 11) = false) ∧ rangeOf 0x40 ≠ .window ∧
    -- a peer's first request, the next of a stream, one that repeats it, and one that waits; an offset inside and outside its window
    (let s := { live with inStreams := [LinkIn.mk 7 11 (some 4) []] }
    let next := fun (s : State) => (((s.inStreams.find? (fun y => y.src == 7 && y.port == 11)).getD (LinkIn.mk 7 11 none [])).last.map (fun l => l + 1)).getD 0
    next live = 0 ∧ next s = 5 ∧ (4 : BitVec 32) ≠ next s ∧ askPending s 7 11 = false ∧
      askPending { s with engReqs := [EngReq.mk 70 (.peer 7 11 5) 37 0 0 0 0 8 .read false false none 0 none] } 7 11 = true) ∧
    (let s := { live with dev := { live.dev with pwin := [0x1_0001_0000, 0, 0, 0] } }
    peerAllowed s 0x3FFF_FFF8 8 = true ∧ peerAllowed s 0x3FFF_FFF8 16 = false ∧ peerAllowed s 0x100_0000_0000 8 = true ∧ peerAllowed live 0 8 = false) := by
  decide +kernel
/-- A group with a handler and a free cause slot, one with every slot in use, one whose handler faults with a record
unread, one without a handler, and no group. -/
def slotsIn (st : CauseState) : List CauseSlot := List.replicate 4 { CauseSlot.empty with state := st }
theorem witness_FaultDelivery : groupAt live 0 2 = some group ∧ group.hbid ≠ 0xFFFF_FFFF ∧
    decide (blk.bid = group.hbid ∧ blk.obj = group.obj) = false ∧ freeCause group.causes = some 0 ∧
    freeCause (slotsIn .read) = none ∧ (slotsIn .delivered).any (fun k => k.state == .delivered) = true ∧
    (let b := { blk with bid := 7 }
    decide (b.bid = group.hbid ∧ b.obj = group.obj) = true) ∧
    freeCause ((slotsIn .read).set 3 CauseSlot.empty) = some 3 ∧
    groupAt (atState { group with hbid := 0xFFFF_FFFF }) 0 2 = some { group with hbid := 0xFFFF_FFFF } ∧ groupAt live 0 5 = none ∧
    groupAt (atState { group with phase := .placed }) 0 2 = some { group with phase := .placed } := by
  decide +kernel
theorem witness_ComputationFrame : computes (.add (k1 .s32 10)) = true ∧ (firingIn live oneIn).cur = .firing 0 blk (mset oneIn) ∧
    (match exec (.add (k1 .s32 10)) (firingIn live oneIn) with
      | .next _ => true
      | _ => false) = true := ⟨by decide, rfl, by decide +kernel⟩
/-- The last byte of a line of HBM, and of the window. -/
theorem witness_StoreFrame : live.mem.wf = true ∧ rangeOf 0x7F = .hbm ∧ rangeOf 0x100_01FF_FFFF = .window ∧ 0x7F < 0x7F + 1 := by
  decide +kernel

/-! ### Witnesses: the step and the encoding -/

/-- A copy whose slot 5 holds an `add` with a complete set; slot 12 of its tile is a `mma`. -/
def stepState : State := stateWith (plotWith { copyWith [(5, .add (hd .s32))] with ready := [mset [inp 0 1 [1], inp 1 1 [2]]] } group)
/-- An `argwr` with a set behind it on its PE. -/
def rewriteState : State := stateWith (plotWith { copyWith [(5, .argwr { hd .s32 with cfg := 17 })] with
  ready := [mset [inp 0 1 [1]], { mset [inp 0 1 [2]] with slot := 17 }] } group)
theorem witness_StepRunsTheDecodedInstruction :
    (chooseBehind rewriteState 0 0 5).map (fun x => stillReady rewriteState 0 x.1 x.2.2) = some true ∧
    stillReady live 0 (copyWith []) (mset oneIn) = false ∧ chooseBehind live 0 0 5 = none ∧
    live.doubled = [] ∧ (∀ x ∈ live.kernels, x.due = false ∧ x.finish = .open) ∧
    (∀ x ∈ live.ctxs, x.2.stateDue = false ∧ (x.2.phase = .preempting → x.2.unacked ≠ [])) ∧
    ((chooseSet stepState 0 0 5).map Prod.snd = some (mset [inp 0 1 [1], inp 1 1 [2]])) ∧ chooseSet live 0 0 5 = none ∧
    (chooseRow stepState 0 0 12).isSome = true ∧ chooseRow live 1 0 12 = none ∧ (match (copyWith [(5, .add (hd .s32))]).stations[5]? with
      | some st => (match decode st.op st.cfg with
        | .ok i => decide (i = .add (hd .s32))
        | .error _ => false)
      | none => false) = true := by decide +kernel
theorem witness_DecodeUndoesEncode : wellFormed (.add (hd .s32)) = true ∧ wellFormed (.srd (hd .s64) false 0 0x207) = true ∧
    (match decode 0x302821000000E8E8 0 with
    | .ok _ => true
    | .error _ => false) = true := by decide
theorem witness_MemoryFormIsKept : stepState.mem.wf = true ∧ (match step stepState with
    | .next t => t.plots != stepState.plots
    | _ => false) = true := by decide +kernel
theorem test_written_words : (match decode 0x302821000000E8E8 0, decode 0xF380000000000001 0 with
    | .ok a, .ok b => decide (a = .lut4 (Head.mk .w32 .none .always (some (Target.mk 4 0)) none none 0) 0xE8E8 ∧
        b = .pwrq (Head.mk .s64 .none .always none none none 0) false 1)
    | _, _ => false) = true := by decide
/-- The examples of 18_object.md, R400: `fadd.f32` of the operations 1 and 3 back, and `add.s32` with the constant 5. -/
theorem test_slaloth_words : slTake [0x5040_10C0] = some (SlOp.mk 0x0A0 8 [1, 3, 0] none none, []) ∧
    (slTake [0x1008_2000, 5, 0]).map (fun x => (x.1.cfg, x.2)) = some (some 5, []) := by decide +kernel
/-- The example of 18_object.md, R397: native images (4, 1), (4, 3) and (3, 2) on devices of STEP 3, 2 and 1. -/
def threeImages (a b c : Nat) : Nat :=
  3 * 2 ^ 96 + ((a + 2 ^ 8) + (b + 3 * 2 ^ 8) * 2 ^ 256 + (c + 2 * 2 ^ 8) * 2 ^ 512) * 2 ^ 512
def onStep (k o : Nat) : Option Nat := (nativeImage { live with dev := { live.dev with step := BitVec.ofNat 8 k } } o).map (fun x => x.1.stepping)
theorem test_selection : onStep 3 (threeImages 4 4 3) = some 3 ∧ onStep 2 (threeImages 4 4 3) = some 1 ∧
    onStep 1 (threeImages 3 4 3) = none := by decide +kernel

end Sys2Proof.Tests
end

section
/-! SUPPORT. Integer elements: what an element-wise integer firing sends, and each operation of R121 as one on integers or
on N-bit patterns. -/
namespace Sys2Proof
open Machine

/-! ### Lengths (R118) -/

/-- Lengths that combine have their result's length as the largest. -/
theorem maxLen_of_lengthsGive {c : FireCtx} {ports : List Nat} {n : Nat} (h : LengthsGive c ports n) :
    maxLen (ports.map (lenAt c)) = n := by
  obtain ⟨hpos, hall, hone⟩ := h
  refine Option.some.inj (List.max?_cons'.symm.trans (List.max?_eq_some_iff.mpr ⟨?_, ?_⟩))
  · simpa [eq_comm] using hone
  · have hle : ∀ q ∈ ports, lenAt c q ≤ n := fun q hq => by have := hall q hq; omega
    simpa using ⟨hpos, hle⟩

/-- The lengths of `LengthsGive` are those that R118 lets combine. -/
theorem commonLen_of_lengthsGive {c : FireCtx} {ports : List Nat} {n : Nat} (h : LengthsGive c ports n) :
    commonLen (ports.map (lenAt c)) = .ok n := by
  have hmax := maxLen_of_lengthsGive h
  obtain ⟨-, hall, -⟩ := h
  have hcombine : (ports.map (lenAt c)).all (fun l => l == 1 || l == n) = true := by
    simpa only [List.all_map, List.all_eq_true, Function.comp_apply, Bool.or_eq_true, beq_iff_eq] using hall
  simp only [commonLen, hmax, hcombine, if_true]

/-- An element-wise firing of operands whose lengths combine sends one slot for each position. -/
theorem elementwise_of_lengthsGive {c : FireCtx} {ports : List Nat} {n : Nat} (f : Nat → List Word → Word)
    (h : LengthsGive c ports n) :
    elementwise c ports f = .ok (emit c (mkPacket (tagOfTy c.head.ty)
      ((List.range n).map (fun i => f i (ports.map (fun p => elemAt c (wideTy c.head.ty) p i)))))) := by
  simp only [elementwise, commonLen_of_lengthsGive h]
  rfl

/-! ### Results modulo 2^N (R31)

`writeInt` keeps the low N bits of a value, so two results agree in their slot as soon as they agree as N-bit patterns. -/

theorem writeInt_congr {t : Ty} {v w : Int} (h : BitVec.ofInt (tyWidth t) v = BitVec.ofInt (tyWidth t) w) :
    writeInt t v = writeInt t w := by
  have hlow : (v % (2 ^ tyWidth t : Nat)).toNat = (w % (2 ^ tyWidth t : Nat)).toNat := by
    simpa only [BitVec.toNat_ofInt] using congrArg BitVec.toNat h
  simp only [writeInt, hlow]

/-- The packets of two families of results that agree as N-bit patterns are the same. -/
theorem emit_writeInt_congr {c : FireCtx} {n : Nat} {f g : Nat → Int}
    (h : ∀ i, BitVec.ofInt (tyWidth c.head.ty) (f i) = BitVec.ofInt (tyWidth c.head.ty) (g i)) :
    emit c (mkPacket (tagOfTy c.head.ty) ((List.range n).map (fun i => writeInt c.head.ty (f i)))) = emitInts c n g := by
  simp only [emitInts, intPacket, fun i => writeInt_congr (h i)]

section
variable {s : State} {p n : Nat} {b : BlockId} {m : MatchedSet} {h : Head} {i : Instr} {g : Nat → Int}

/-- A firing of `int1 f` sends `g` where `f` of the operand's elements agrees with `g` as N-bit patterns. -/
theorem exec_int1 {f : Ty → Int → Int} (hf : Fires s p b m h) (hi : exec i s = fire h (int1 f) s)
    (hl : LengthsGive (fireCtxOf s p b m h) [0] n)
    (hg : ∀ j, BitVec.ofInt (tyWidth h.ty) (f h.ty (intAt (fireCtxOf s p b m h) 0 j)) = BitVec.ofInt (tyWidth h.ty) (g j)) :
    exec i s = .next (sentFrom s p b m (emitInts (fireCtxOf s p b m h) n g)) :=
  hi.trans (fire_ok hf ((elementwise_of_lengthsGive _ hl).trans (congrArg Except.ok (emit_writeInt_congr hg))))

/-- The same for `int2 f` and the elements of two operands. -/
theorem exec_int2 {f : Ty → Int → Int → Int} (hf : Fires s p b m h) (hi : exec i s = fire h (int2 f) s)
    (hl : LengthsGive (fireCtxOf s p b m h) [0, 1] n)
    (hg : ∀ j, BitVec.ofInt (tyWidth h.ty)
        (f h.ty (intAt (fireCtxOf s p b m h) 0 j) (intAt (fireCtxOf s p b m h) 1 j)) = BitVec.ofInt (tyWidth h.ty) (g j)) :
    exec i s = .next (sentFrom s p b m (emitInts (fireCtxOf s p b m h) n g)) :=
  hi.trans (fire_ok hf ((elementwise_of_lengthsGive _ hl).trans (congrArg Except.ok (emit_writeInt_congr hg))))

/-- The same for `int3 f` and the elements of three operands. -/
theorem exec_int3 {f : Ty → Int → Int → Int → Int} (hf : Fires s p b m h) (hi : exec i s = fire h (int3 f) s)
    (hl : LengthsGive (fireCtxOf s p b m h) [0, 1, 2] n)
    (hg : ∀ j, BitVec.ofInt (tyWidth h.ty) (f h.ty (intAt (fireCtxOf s p b m h) 0 j) (intAt (fireCtxOf s p b m h) 1 j)
        (intAt (fireCtxOf s p b m h) 2 j)) = BitVec.ofInt (tyWidth h.ty) (g j)) :
    exec i s = .next (sentFrom s p b m (emitInts (fireCtxOf s p b m h) n g)) :=
  hi.trans (fire_ok hf ((elementwise_of_lengthsGive _ hl).trans (congrArg Except.ok (emit_writeInt_congr hg))))
end

/-! ### Integer operations (R32, R33, R126) -/

/-- The pattern of a value (R119) is its residue as an N-bit word. -/
theorem pat_eq_toNat (t : Ty) (a : Int) : pat t a = (BitVec.ofInt (tyWidth t) a).toNat := rfl

/-- The smallest value of a type and its negation have the same pattern (R31). -/
theorem ofInt_neg_minOf (t : Ty) : BitVec.ofInt (tyWidth t) (-minOf t) = BitVec.ofInt (tyWidth t) (minOf t) := by
  cases t <;> rfl

/-- `int_div` truncates, and its overflow case is the exact quotient wrapped (R33). -/
theorem ofInt_intDiv (t : Ty) (a d : Int) :
    BitVec.ofInt (tyWidth t) (intDiv t a d) = BitVec.ofInt (tyWidth t) (if d = 0 then -1 else a.tdiv d) := by
  unfold intDiv
  split
  · rfl
  · split
    · next h =>
      obtain ⟨-, rfl, rfl⟩ := h
      rw [Int.tdiv_neg, Int.tdiv_one, ofInt_neg_minOf]
    · rfl

/-- `int_rem` is the remainder of truncation, in the overflow case too (R33). -/
theorem intRem_eq_tmod (t : Ty) (a d : Int) : intRem t a d = if d = 0 then a else a.tmod d := by
  unfold intRem
  split
  · rfl
  · next hd =>
    split
    · next h => rw [h.2.2, Int.tmod_neg, Int.tmod_one]
    · next h => rw [intDiv, if_neg hd, if_neg h, Int.tmod_def]

theorem ite_ge_eq_max (a d : Int) : (if a ≥ d then a else d) = max a d := by
  split <;> omega

theorem minOf_le_maxOf (t : Ty) : minOf t ≤ maxOf t := by
  cases t <;> decide

theorem satInt_eq_max_min (t : Ty) (v : Int) : satInt t v = max (minOf t) (min (maxOf t) v) := by
  have hrange := minOf_le_maxOf t
  unfold satInt clampInt
  split
  · omega
  · split <;> omega

/-- `sext(v, k)` reads the low k bits as a two's complement number. -/
theorem signedOf_eq_toInt (k x : Nat) : signedOf k x = (BitVec.ofNat k x).toInt := by
  simp only [signedOf, BitVec.toInt_eq_toNat_cond, BitVec.toNat_ofNat]

/-- `sext` and `zext` cut the pattern at bit k and extend it (R126). -/
theorem extendField_eq (sx : Bool) (t : Ty) (a : Int) (k : Nat) :
    extendField sx t a k = if k = 0 then 0 else if tyWidth t ≤ k then a else
      if sx then ((BitVec.ofInt (tyWidth t) a).setWidth k).toInt
      else (((BitVec.ofInt (tyWidth t) a).setWidth k).toNat : Int) := by
  simp only [extendField, pat_eq_toNat, signedOf_eq_toInt, BitVec.ofNat_toNat, BitVec.toNat_setWidth]

/-- Settles O5: each operation of R121 is the integer operation of its row, up to a multiple of 2^N. -/
theorem integerArithmeticResults : Obligations.IntegerArithmeticResults := by
  intro s p n b m h sc c t x y z k gives hf
  refine ⟨fun hl => ⟨?add, ?sub, ?mul, ?mulh, ?div, ?rem, ?min, ?max, ?adds, ?subs, ?lea, ?sext, ?zext⟩,
    fun hl => ⟨?neg, ?abs⟩, fun hl => exec_int3 hf rfl hl fun _ => rfl⟩
  case add | sub | mul => exact exec_int2 hf rfl hl fun _ => rfl
  case mulh => exact exec_int2 hf rfl hl fun _ => congrArg _ (Int.fdiv_eq_ediv_of_nonneg _ (Int.natCast_nonneg _))
  case div => exact exec_int2 hf rfl hl fun _ => ofInt_intDiv _ _ _
  case rem => exact exec_int2 hf rfl hl fun _ => congrArg _ (intRem_eq_tmod _ _ _)
  case min => exact exec_int2 hf rfl hl fun _ => congrArg _ (Int.min_def _ _).symm
  case max => exact exec_int2 hf rfl hl fun _ => congrArg _ (ite_ge_eq_max _ _)
  case adds | subs => exact exec_int2 hf rfl hl fun _ => congrArg _ (satInt_eq_max_min _ _)
  case lea => exact exec_int2 hf rfl hl fun _ => by rw [pat_eq_toNat, Int.natCast_mul, Int.natCast_pow]; rfl
  case sext | zext => exact exec_int2 hf rfl hl fun _ => by rw [pat_eq_toNat, extendField_eq]; rfl
  case neg | abs => exact exec_int1 hf rfl hl fun _ => rfl

/-! ### Operations on patterns (R34, R121, R123, R124) -/

theorem ofInt_natCast_toNat {w : Nat} (u : BitVec w) : BitVec.ofInt w (u.toNat : Int) = u := by
  rw [BitVec.ofInt_natCast, BitVec.ofNat_toNat, BitVec.setWidth_eq]

theorem ofInt_andn {w : Nat} (u v : BitVec w) :
    BitVec.ofInt w ((u.toNat &&& (2 ^ w - 1 - v.toNat) : Nat) : Int) = u &&& ~~~ v := by
  rw [← BitVec.toNat_not, ← BitVec.toNat_and, ofInt_natCast_toNat]

theorem ofInt_shiftLeft {w : Nat} (u : BitVec w) (r : Nat) : BitVec.ofInt w ((u.toNat <<< r : Nat) : Int) = u <<< r := by
  apply BitVec.eq_of_toNat_eq
  rw [BitVec.ofInt_natCast, BitVec.toNat_ofNat, BitVec.toNat_shiftLeft]

/-- `sar` is an arithmetic shift, whatever the signedness of the type (R123). -/
theorem ofInt_sar {w : Nat} (u : BitVec w) (r : Nat) :
    BitVec.ofInt w ((signedOf w u.toNat).fdiv ((2 ^ r : Nat) : Int)) = u.sshiftRight r := by
  rw [BitVec.sshiftRight_eq, Int.shiftRight_eq_div_pow, Int.fdiv_eq_ediv_of_nonneg _ (Int.natCast_nonneg _), signedOf_eq_toInt,
    BitVec.ofNat_toNat, BitVec.setWidth_eq]

/-- `rotl` by a count modulo N, which is how `shamt` reads it (R34). -/
theorem ofInt_rotlOf {w : Nat} (u : BitVec w) (r : Nat) :
    BitVec.ofInt w (rotlOf w u.toNat (r % w) : Int) = u.rotateLeft (r % w) := by
  have hlow : u.toNat >>> (w - r % w) < 2 ^ w := Nat.lt_of_le_of_lt (Nat.shiftRight_le _ _) u.isLt
  apply BitVec.eq_of_toNat_eq
  rw [BitVec.ofInt_natCast, BitVec.toNat_ofNat, BitVec.toNat_rotateLeft, rotlOf, Nat.mod_mod, Nat.mod_mod,
    Nat.or_mod_two_pow, Nat.mod_eq_of_lt hlow]

/-- A truth value as an N-bit pattern (R124). -/
theorem ofInt_natOfBool (w : Nat) (P : Prop) [Decidable P] :
    BitVec.ofInt w (natOfBool (decide P) : Int) = if P then 1 else 0 := by
  by_cases h : P <;> simp [h, natOfBool]

/-- The test of `cmp.tst` on patterns (R124). -/
theorem pat_and_ne_zero (t : Ty) (a d : Int) :
    pat t a &&& pat t d ≠ 0 ↔ BitVec.ofInt (tyWidth t) a &&& BitVec.ofInt (tyWidth t) d ≠ 0 := by
  rw [pat_eq_toNat, pat_eq_toNat, ← BitVec.toNat_and, ne_eq, ne_eq, BitVec.toNat_eq, BitVec.ofNat_eq_ofNat, BitVec.toNat_zero]

/-! ### Lists of bits (R121) -/

/-- The low `n` bits of a number, put together again. -/
theorem natOfBits_bitList (n x : Nat) : natOfBits (bitList n x) = x % 2 ^ n := by
  induction n generalizing x with
  | zero => rw [Nat.pow_zero, Nat.mod_one]; rfl
  | succ n ih =>
    have hcons : bitList (n + 1) x = x.testBit 0 :: bitList n (x / 2) := by
      simp [bitList, List.range_succ_eq_map, Nat.testBit_succ]
    have hbit : natOfBool (x.testBit 0) = x % 2 := by
      rcases Nat.mod_two_eq_zero_or_one x with h | h <;> simp [natOfBool, h]
    rw [hcons, natOfBits, ih, hbit, Nat.pow_succ', Nat.mod_mul]

/-- The bits of a pattern, low bit first. -/
theorem bitList_toNat {w : Nat} (u : BitVec w) : bitList w u.toNat = (List.range w).map u.getLsbD := rfl

/-- The bits of a pattern, high bit first. -/
theorem reverse_bitList_toNat {w : Nat} (u : BitVec w) : (bitList w u.toNat).reverse = (List.range w).map u.getMsbD := by
  rw [bitList_toNat, ← List.map_reverse, List.range_eq_range', List.reverse_range', List.map_map, List.range_eq_range']
  refine List.map_congr_left fun j hj => ?_
  have hj : j < w := by simpa using hj
  simp [BitVec.getMsbD, hj]

theorem ofInt_reverse_bitList {w : Nat} (u : BitVec w) : BitVec.ofInt w (ofBits (bitList w u.toNat).reverse) = u.reverse := by
  have hrev : (bitList w u.toNat).reverse = bitList w u.reverse.toNat := by
    rw [reverse_bitList_toNat, bitList_toNat]
    exact List.map_congr_left fun j _ => BitVec.getLsbD_reverse.symm
  rw [ofBits, hrev, natOfBits_bitList, Nat.mod_eq_of_lt u.reverse.isLt, ofInt_natCast_toNat]

theorem ofInt_count_bitList {w : Nat} (u : BitVec w) :
    BitVec.ofInt w ((bitList w u.toNat).count true : Nat) =
      BitVec.ofNat w ((List.range w).countP (fun j => u.getLsbD j)) := by
  rw [BitVec.ofInt_natCast, bitList_toNat, List.count_eq_countP, List.countP_map]
  exact congrArg _ (List.countP_congr fun j _ => by simp)

/-- The number of leading entries that pass a test is the place of the first that fails it. -/
theorem leadingWhile_eq_findIdx (q : Bool → Bool) (l : List Bool) : leadingWhile q l = l.findIdx (fun v => !q v) := by
  induction l with
  | nil => rfl
  | cons v l ih => cases hv : q v <;> simp [leadingWhile, List.findIdx_cons, hv, ih]

/-- `k` is the place of the first of the bits 0 to `w - 1` that is set, or `w` where none is. -/
def FirstSet (w : Nat) (bit : Nat → Bool) (k : Nat) : Prop :=
  k ≤ w ∧ (∀ j < k, bit j = false) ∧ (k < w → bit k = true)

/-- Counting the zeros before the first one finds its place. -/
theorem firstSet_leadingWhile_not (w : Nat) (bit : Nat → Bool) :
    FirstSet w bit (leadingWhile not ((List.range w).map bit)) := by
  rw [leadingWhile_eq_findIdx]
  have hle := List.findIdx_le_length (p := fun v => !!v) (xs := (List.range w).map bit)
  refine ⟨by simpa using hle, fun j hj => ?_, fun hk => ?_⟩
  · simpa using List.not_of_lt_findIdx hj
  · have hset := List.findIdx_getElem (p := fun v => !!v) (xs := (List.range w).map bit) (w := by simpa using hk)
    simpa using hset

theorem firstSet_clzOf {w : Nat} (u : BitVec w) : FirstSet w u.getMsbD (clzOf w u.toNat) := by
  rw [clzOf, reverse_bitList_toNat]
  exact firstSet_leadingWhile_not w u.getMsbD

theorem firstSet_ctzOf {w : Nat} (u : BitVec w) : FirstSet w u.getLsbD (ctzOf w u.toNat) :=
  firstSet_leadingWhile_not w u.getLsbD

/-! ### Bit results -/

section
variable {s : State} {p n : Nat} {b : BlockId} {m : MatchedSet} {h : Head} {i : Instr} {g : Nat → BitVec (tyWidth h.ty)}

/-- A firing of `int1 f` sends the patterns `g` where they are those of `f` of the operand's elements. -/
theorem exec_bits1 {f : Ty → Int → Int} (hf : Fires s p b m h) (hi : exec i s = fire h (int1 f) s)
    (hl : LengthsGive (fireCtxOf s p b m h) [0] n)
    (hg : ∀ j, BitVec.ofInt (tyWidth h.ty) (f h.ty (intAt (fireCtxOf s p b m h) 0 j)) = g j) :
    exec i s = .next (sentFrom s p b m (emitInts (fireCtxOf s p b m h) n (fun j => ((g j).toNat : Int)))) :=
  exec_int1 hf hi hl fun j => (hg j).trans (ofInt_natCast_toNat _).symm

/-- The same for `int2 f` and the elements of two operands. -/
theorem exec_bits2 {f : Ty → Int → Int → Int} (hf : Fires s p b m h) (hi : exec i s = fire h (int2 f) s)
    (hl : LengthsGive (fireCtxOf s p b m h) [0, 1] n)
    (hg : ∀ j, BitVec.ofInt (tyWidth h.ty)
      (f h.ty (intAt (fireCtxOf s p b m h) 0 j) (intAt (fireCtxOf s p b m h) 1 j)) = g j) :
    exec i s = .next (sentFrom s p b m (emitInts (fireCtxOf s p b m h) n (fun j => ((g j).toNat : Int)))) :=
  exec_int2 hf hi hl fun j => (hg j).trans (ofInt_natCast_toNat _).symm
end

/-- Settles O6: each operation of R121 to R124 on bits is that of its row on N-bit patterns. -/
theorem integerBitResults : Obligations.IntegerBitResults := by
  intro s p n b m h c w x y r gives hf
  refine ⟨fun hl => ⟨?and, ?or, ?xor, ?andn, ?shl, ?shr, ?sar, ?rotl, ?eq, ?ne, ?lt, ?le, ?gt, ?ge, ?tst⟩,
    fun hl => ⟨?brev, ?popc, ⟨fun j => clzOf w (x j).toNat, ?clz, fun j _ => firstSet_clzOf (x j)⟩,
      ⟨fun j => ctzOf w (x j).toNat, ?ctz, fun j _ => firstSet_ctzOf (x j)⟩⟩⟩
  case and => exact exec_bits2 hf rfl hl fun j => ofInt_natCast_toNat (x j &&& y j)
  case or => exact exec_bits2 hf rfl hl fun j => ofInt_natCast_toNat (x j ||| y j)
  case xor => exact exec_bits2 hf rfl hl fun j => ofInt_natCast_toNat (x j ^^^ y j)
  case andn => exact exec_bits2 hf rfl hl fun j => ofInt_andn (x j) (y j)
  case shl => exact exec_bits2 hf rfl hl fun j => ofInt_shiftLeft (x j) (r j)
  case shr => exact exec_bits2 hf rfl hl fun j => ofInt_natCast_toNat (x j >>> r j)
  case sar => exact exec_bits2 hf rfl hl fun j => ofInt_sar (x j) (r j)
  case rotl => exact exec_bits2 hf rfl hl fun j => ofInt_rotlOf (x j) (y j).toNat
  case eq | ne | lt | le | gt | ge => exact exec_bits2 hf rfl hl fun _ => ofInt_natOfBool _ _
  case tst => exact exec_bits2 hf rfl hl fun _ => (ofInt_natOfBool _ _).trans (ite_congr (propext (pat_and_ne_zero _ _ _)) (fun _ => rfl) (fun _ => rfl))
  case brev => exact exec_bits1 hf rfl hl fun j => ofInt_reverse_bitList (x j)
  case popc => exact exec_bits1 hf rfl hl fun j => ofInt_count_bitList (x j)
  case clz | ctz => exact exec_bits1 hf rfl hl fun _ => BitVec.ofInt_natCast _ _

end Sys2Proof
end

section
/-! SUPPORT. Privilege (R72, R75): outside the headland context a privileged firing answers PRIVILEGE before anything else
that its body does. -/
namespace Sys2Proof
open Machine

/-! ### Firings that fault -/

section
variable {s : State} {p : Nat} {b : BlockId} {m : MatchedSet} {h : Head} {e : FaultInfo}
  {body : FireCtx → MatchedSet → State → Except FaultInfo (State × List Send)}

/-- A firing that holds its set faults as one that consumes it. -/
theorem fireHeld_error (hf : Fires s p b m h) (hb : body (fireCtxOf s p b m h) m (consume s p b m) = .error e) :
    fireHeld h body s = .next (faultedFrom s p b m h e) := by
  have hset : curSet s = m := by simp only [curSet, hf.1]
  exact fireState_error hf (by rw [hset]; exact hb)

/-- A fault that no walk stands behind leaves only what every fault leaves. -/
theorem fireWalks_error_of_walks_eq {walks : FireCtx → FaultInfo → State → State} (hf : Fires s p b m h)
    (hb : body (fireCtxOf s p b m h) m (consume s p b m) = .error e) (hw : walks (fireCtxOf s p b m h) e s = s) :
    fireWalks h walks body s = .next (faultedFrom s p b m h e) := by
  rw [fireWalks_error hf hb, hw, faultedFrom]
end

/-! ### The check of privilege (R72) -/

/-- A check that fails answers its fault, whatever was to follow. -/
theorem require_false_bind {α : Type} {x : Bool} (hx : x = false) (cause : BitVec 8) (f : Unit → Except FaultInfo α) :
    (require x cause >>= f) = .error (causeOnly cause) := by
  rw [require_bind, hx, if_neg Bool.false_ne_true]

section
variable {c : FireCtx} (hc : c.block.ctx ≠ headland)
include hc

theorem privileged_bind_of_ne_headland {α : Type} (f : Unit → Except FaultInfo α) :
    (privileged c >>= f) = .error (causeOnly causePrivilege) :=
  require_false_bind (beq_false_of_ne hc) causePrivilege f

/-! ### Bodies that check it first -/

theorem haltResult_of_ne_headland (op : HaltOp) (s : State) : haltResult op c s = .error (causeOnly causePrivilege) :=
  privileged_bind_of_ne_headland hc _

theorem rrecResult_of_ne_headland (op : RrecOp) (s : State) : rrecResult op c s = .error (causeOnly causePrivilege) :=
  privileged_bind_of_ne_headland hc _

theorem tlbiResult_of_ne_headland (mode : TlbiMode) (m : MatchedSet) (s : State) :
    tlbiResult mode c m s = .error (causeOnly causePrivilege) :=
  privileged_bind_of_ne_headland hc _

theorem imtrResult_of_ne_headland (op : ImtrOp) (s : State) : imtrResult op c s = .error (causeOnly causePrivilege) :=
  privileged_bind_of_ne_headland hc _

/-- `minj` is privileged where CTXCFG.INJ, bit 2, is clear (R436). -/
theorem minjResult_of_ne_headland {s : State} (hinj : (regsOn s c.block.ctx c.plot).cfg.getLsbD 2 = false) (kind : InjKind) :
    minjResult kind c s = .error (causeOnly causePrivilege) :=
  require_false_bind (by rw [beq_false_of_ne hc, hinj, Bool.or_self]) causePrivilege _
end

/-- PRIVILEGE is no cause of a translation, so no walk of a `minj` stands. -/
theorem minjWalk_privilege (c : FireCtx) (s : State) : minjWalk c (causeOnly causePrivilege) s = s :=
  if_neg (by decide)

/-- Settles O42: each privileged body answers PRIVILEGE before it reads an operand, and a firing whose body faults is the
fault alone. -/
theorem privilegeRule : Obligations.PrivilegeRule := by
  intro s p b m h op rop mode iop kind denied hf hctx
  have hc : (fireCtxOf s p b m h).block.ctx ≠ headland := hctx
  refine ⟨?halt, ?rrec, ?tlbi, ?imtr, ?minj⟩
  case halt => exact fireState_error hf (haltResult_of_ne_headland hc op _)
  case rrec => exact fireState_error hf (rrecResult_of_ne_headland hc rop _)
  case tlbi => exact fireHeld_error hf (tlbiResult_of_ne_headland hc mode m _)
  case imtr => exact fireState_error hf (imtrResult_of_ne_headland hc iop _)
  case minj =>
    intro hinj
    exact fireWalks_error_of_walks_eq (body := fun c _ => minjResult kind c) hf (minjResult_of_ne_headland hc hinj kind)
      (minjWalk_privilege _ s)

end Sys2Proof
end

section
/-! SUPPORT. Tags (R97): each tag operation as its bound and the tag inside it, and the firing of an instruction that sends
its token on under a tag of such an operation. -/
namespace Sys2Proof
open Machine

/-! ### The tag operations (R97) -/

theorem tagPush_eq_ite (t : Word) (w v : Nat) :
    tagPush t w v = if tagUse t + w ≤ 58 then .ok (mkTag (tagUse t + w) (tagFields t * 2 ^ w + v % 2 ^ w))
      else .error (causeOnly causeTagOverflow) := by
  simp only [tagPush, ← Nat.not_le, ite_not]

theorem tagPop_eq_ite (t : Word) (w : Nat) :
    tagPop t w = if w ≤ tagUse t then .ok (mkTag (tagUse t - w) (tagFields t / 2 ^ w))
      else .error (causeOnly causeTagOverflow) := by
  simp only [tagPop, ← Nat.not_le, ite_not]

theorem tagSet_eq_ite (t : Word) (w v : Nat) :
    tagSet t w v = if w ≤ tagUse t then .ok (BitVec.ofNat 64 (t.toNat - t.toNat % 2 ^ w + v % 2 ^ w))
      else .error (causeOnly causeTagOverflow) := by
  simp only [tagSet, ← Nat.not_le, ite_not]

/-- A tag is counted on while its low w bits are in use and are not all ones. -/
theorem tagInc_eq_ite (t : Word) (w : Nat) :
    tagInc t w = if w ≤ tagUse t ∧ t.toNat % 2 ^ w ≠ 2 ^ w - 1 then .ok (t + 1)
      else .error (causeOnly causeTagOverflow) := by
  have hbound : (tagUse t < w || t.toNat % 2 ^ w == 2 ^ w - 1) = true ↔
      ¬ (w ≤ tagUse t ∧ t.toNat % 2 ^ w ≠ 2 ^ w - 1) := by
    simp only [Bool.or_eq_true, decide_eq_true_eq, beq_iff_eq, Decidable.not_and_iff_not_or_not, Nat.not_le, Decidable.not_not]
  simp only [tagInc, hbound, ite_not]

/-! ### The token under a new tag (R110, R112) -/

/-- A push of zero widens the tag with zero bits. -/
theorem tagPush_zero (t : Word) (w : Nat) :
    tagPush t w 0 = if tagUse t + w ≤ 58 then .ok (mkTag (tagUse t + w) (tagFields t * 2 ^ w))
      else .error (causeOnly causeTagOverflow) := by
  rw [tagPush_eq_ite, Nat.zero_mod, Nat.add_zero]

/-- A pop reads no value (R112). -/
theorem tagwrResult_pop (w : BitVec 6) (c : FireCtx) :
    tagwrResult .pop w c = (tagPop c.env.tag w.toNat).map (emitTagged c) := rfl

theorem tagwrResult_push {c : FireCtx} {v : Nat} (hv : idxAt c 1 = .ok v) (w : BitVec 6) :
    tagwrResult .push w c = (tagPush c.env.tag w.toNat v).map (emitTagged c) := by
  simp only [tagwrResult, hv, bind_ok]
  rfl

theorem tagwrResult_set {c : FireCtx} {v : Nat} (hv : idxAt c 1 = .ok v) (w : BitVec 6) :
    tagwrResult .set w c = (tagSet c.env.tag w.toNat v).map (emitTagged c) := by
  simp only [tagwrResult, hv, bind_ok]
  rfl

/-- A tag that replaces the token's own must be valid (R96, R112). -/
theorem tagwrResult_repl {c : FireCtx} {v : Nat} (hv : idxAt c 1 = .ok v) (w : BitVec 6) :
    tagwrResult .repl w c = (if tagValid (BitVec.ofNat 64 v) = true then Except.ok (BitVec.ofNat 64 v)
      else .error (causeOnly causeTagOverflow)).map (emitTagged c) := by
  simp only [tagwrResult, hv, bind_ok]
  split
  · rfl
  · rfl

section
variable {s : State} {p : Nat} {b : BlockId} {m : MatchedSet} {h : Head} {i : Instr} {t : Word} {P : Prop} [Decidable P]

/-- An instruction that sends its token on under the tag of an operation with the bound `P` sends it inside the bound, and
outside it faults with TAG_OVERFLOW. -/
theorem exec_emitTagged_ite {body : FireCtx → Except FaultInfo (List Send)} {newTag : Except FaultInfo Word}
    (hf : Fires s p b m h) (hi : exec i s = fire h body s)
    (hb : body (fireCtxOf s p b m h) = newTag.map (emitTagged (fireCtxOf s p b m h)))
    (ht : newTag = if P then .ok t else .error (causeOnly causeTagOverflow)) :
    if P then exec i s = .next (sentFrom s p b m (emitTagged (fireCtxOf s p b m h) t))
      else exec i s = .next (faultedFrom s p b m h (causeOnly causeTagOverflow)) := by
  split
  case isTrue hP => exact hi.trans (fire_ok hf (by rw [hb, ht, if_pos hP]; rfl))
  case isFalse hP => exact hi.trans (fire_error hf (by rw [hb, ht, if_neg hP]; rfl))
end

/-! ### Reading a tag (R111) -/

theorem tagrdResult_zero (pos : BitVec 6) (c : FireCtx) :
    tagrdResult pos 0 c = .ok (emit c (word64Packet c.env.tag)) := by
  simp only [tagrdResult, if_true]

theorem tagrdResult_of_pos {w : BitVec 6} (hw : 1 ≤ w.toNat) (pos : BitVec 6) (c : FireCtx) :
    tagrdResult pos w c =
      .ok (emit c (word64Packet (BitVec.ofNat 64 (tagFields c.env.tag / 2 ^ pos.toNat % 2 ^ w.toNat)))) := by
  have hne : w ≠ 0 := by rintro rfl; exact absurd hw (by decide)
  simp only [tagrdResult, if_neg hne, bitsOf, Nat.shiftRight_eq_div_pow]

/-- Settles O15: each instruction fires with the tag of its operation, whose bound decides between the token sent on and the
fault; a `tagrd` has no bound. -/
theorem tagResults : Obligations.TagResults := by
  intro s p v b m h pos w c tag u f sends faults hf hw _
  refine ⟨?lpent, ?lpnext, ?lpexit, ?pop, fun hv => ⟨?push, ?set, ?repl⟩, ?field, ?whole⟩
  case lpent => exact exec_emitTagged_ite hf rfl rfl (tagPush_zero _ _)
  case lpnext => exact exec_emitTagged_ite hf rfl rfl (tagInc_eq_ite _ _)
  case lpexit => exact exec_emitTagged_ite hf rfl rfl (tagPop_eq_ite _ _)
  case pop => exact exec_emitTagged_ite hf rfl (tagwrResult_pop w _) (tagPop_eq_ite _ _)
  case push => exact exec_emitTagged_ite hf rfl (tagwrResult_push hv w) (tagPush_eq_ite _ _ _)
  case set => exact exec_emitTagged_ite hf rfl (tagwrResult_set hv w) (tagSet_eq_ite _ _ _)
  case repl => exact exec_emitTagged_ite hf rfl (tagwrResult_repl hv 0) rfl
  case field => exact fire_ok hf (tagrdResult_of_pos hw pos _)
  case whole => exact fire_ok hf (tagrdResult_zero 0 _)

end Sys2Proof
end

section
/-! SUPPORT. Barriers (R351 to R356): an arrival by whether it completes its phase, and a firing of a memory PE by what its
body answers. A `bar` that is held sends nothing, so it leaves nothing to its return port. -/
namespace Sys2Proof
open Machine

/-! ### A memory PE's firing (R471) -/

section
variable {s t : State} {p : Nat} {b : BlockId} {m : MatchedSet} {h : Head} {e : FaultInfo}

/-- A firing that holds its set is one whose body is given that set. -/
theorem fireHeld_eq_fireState (body : FireCtx → MatchedSet → State → Except FaultInfo (State × List Send))
    (hf : Fires s p b m h) : fireHeld h body s = fireState h (fun c u => body c m u) s := by
  have hset : curSet s = m := by simp only [curSet, hf.1]
  simp only [fireHeld, hset]

section
variable {body : FireCtx → State → Except FaultInfo (State × List Send)}

theorem throughPort_fireState_answered {k : Packet} (hf : Fires s p b m h)
    (hb : body (fireCtxOf s p b m h) (consume s p b m) = .ok (t, emit (fireCtxOf s p b m h) k)) :
    throughPort s (fireState h body s) = throughPort s (answered (fireCtxOf s p b m h) t k) :=
  congrArg (throughPort s) (fireState_ok hf hb)

theorem throughPort_fireState_error (hf : Fires s p b m h)
    (hb : body (fireCtxOf s p b m h) (consume s p b m) = .error e) :
    throughPort s (fireState h body s) = .next (faultedFrom s p b m h e) := by
  rw [fireState_error hf hb, throughPort_faulted]

/-- A firing that sends nothing and puts nothing into flight leaves its return port alone. -/
theorem throughPort_fireState_silent (hf : Fires s p b m h)
    (hb : body (fireCtxOf s p b m h) (consume s p b m) = .ok (t, [])) (ht : t.flights = s.flights) :
    throughPort s (fireState h body s) = .next t := by
  rw [fireState_ok hf hb, sendAll_nil]
  exact congrArg Host.Outcome.next ((congrArg (fun l => markReturns l.length t) ht.symm).trans (markReturns_id t))
end

/-! ### Bodies that check a bound first -/

theorem require_le_bind {α : Type} {k n : Nat} (hle : k ≤ n) (cause : BitVec 8) (f : Unit → Except FaultInfo α) :
    (require (decide (k ≤ n)) cause >>= f) = f () := by
  rw [require_bind, if_pos (decide_eq_true hle)]

theorem require_le_bind_of_lt {α : Type} {k n : Nat} (hlt : n < k) (cause : BitVec 8) (f : Unit → Except FaultInfo α) :
    (require (decide (k ≤ n)) cause >>= f) = .error (causeOnly cause) :=
  require_false_bind (decide_eq_false (Nat.not_le.mpr hlt)) cause f
end

/-! ### Tokens in flight -/

theorem afterSpill_flights (s : State) (c : BitVec 12) : (afterSpill s c).flights = s.flights := by
  unfold afterSpill
  dsimp only
  split
  · rfl
  · rfl

/-- A `bar` that is held puts no token into flight, and neither does the spill of its set. -/
theorem holdBar_flights (s : State) (p : Nat) (h : Held) (g : BitVec 3) (b : Nat) (phase : Bool) :
    (holdBar s p h g b phase).flights = s.flights := by
  unfold holdBar
  dsimp only
  split
  · rfl
  · exact afterSpill_flights _ _

/-! ### An arrival (R352) -/

section
variable {x : Barrier} {k : Nat}

/-- An arrival that fills its phase opens the next with what is left of its weight. -/
theorem arriveBarrier_of_full (hfull : x.arr + min k (x.count - x.arr) = x.count) :
    arriveBarrier x k = ({ x with phase := !x.phase, arr := k - min k (x.count - x.arr) }, true) :=
  if_pos hfull

theorem arriveBarrier_of_not_full (hpart : x.arr + min k (x.count - x.arr) ≠ x.count) :
    arriveBarrier x k = ({ x with arr := x.arr + min k (x.count - x.arr) }, false) :=
  if_neg hpart
end

/-! ### `bar` (R354) -/

section
variable {c : FireCtx} {m : MatchedSet} {u : State} {n : BitVec 4} {wait : Bool} {k : Nat} {x : Barrier}
  (hk : natOperand c 1 0 = .ok k) (hx : barrierAt u c.plot c.env.gslot n.toNat = x)
include hk hx

theorem barResult_unconfigured (hcount : x.count = 0) :
    barResult wait n c m u = .ok (u, emit c (barPacket 0 false)) := by
  simp only [barResult, hk, bind_ok, hx, hcount, if_true]

theorem barResult_overweight (hcount : x.count ≠ 0) (hlt : x.count < k) :
    barResult wait n c m u = .error (causeOnly causePacketLength) := by
  simp only [barResult, hk, bind_ok, hx, if_neg hcount, require_le_bind_of_lt hlt]

/-- A `bar` of a configured barrier makes its arrival. -/
theorem barResult_arrives (hcount : x.count ≠ 0) (hle : k ≤ x.count) {y : Barrier} {full : Bool}
    (ha : arriveBarrier x k = (y, full)) :
    barResult wait n c m u =
      (let s := setBarrier u c.plot c.env.gslot n.toNat y
      let s := if full then sendSignal s c.plot c.env.gslot n.toNat x.phase else s
      if wait && !full && k != 0 then .ok (holdBar s c.plot (heldOf c m) c.env.gslot n.toNat x.phase, [])
      else .ok (s, emit c (barPacket 1 x.phase))) := by
  simp only [barResult, hk, bind_ok, hx, if_neg hcount, require_le_bind hle, ha]

theorem barResult_full (hcount : x.count ≠ 0) (hle : k ≤ x.count)
    (hfull : x.arr + min k (x.count - x.arr) = x.count) :
    barResult wait n c m u = .ok (sendSignal (setBarrier u c.plot c.env.gslot n.toNat
      { x with phase := !x.phase, arr := k - min k (x.count - x.arr) }) c.plot c.env.gslot n.toNat x.phase,
      emit c (barPacket 1 x.phase)) := by
  rw [barResult_arrives hk hx hcount hle (arriveBarrier_of_full hfull)]
  simp only [if_true, Bool.not_true, Bool.and_false, Bool.false_and, Bool.false_eq_true, if_false]

/-- In a phase that is not full, a `bar` without WAIT and one that counts nothing are answered at once. -/
theorem barResult_counted (hcount : x.count ≠ 0) (hle : k ≤ x.count)
    (hpart : x.arr + min k (x.count - x.arr) ≠ x.count) (hnow : wait = false ∨ k = 0) :
    barResult wait n c m u = .ok (setBarrier u c.plot c.env.gslot n.toNat
      { x with arr := x.arr + min k (x.count - x.arr) }, emit c (barPacket 1 x.phase)) := by
  have hsent : ¬ (wait && !false && k != 0) = true := by
    obtain rfl | rfl := hnow
    · simp
    · simp
  rw [barResult_arrives hk hx hcount hle (arriveBarrier_of_not_full hpart)]
  exact if_neg hsent

theorem barResult_held (hcount : x.count ≠ 0) (hle : k ≤ x.count)
    (hpart : x.arr + min k (x.count - x.arr) ≠ x.count) (hpos : k ≠ 0) :
    barResult true n c m u = .ok (holdBar (setBarrier u c.plot c.env.gslot n.toNat
      { x with arr := x.arr + min k (x.count - x.arr) }) c.plot (heldOf c m) c.env.gslot n.toNat x.phase, []) := by
  have hheld : (true && !false && k != 0) = true := by simpa using hpos
  rw [barResult_arrives hk hx hcount hle (arriveBarrier_of_not_full hpart)]
  exact if_pos hheld
end

/-! ### `bari` (R355) -/

section
variable {c : FireCtx} {u : State} {n : BitVec 4} {k : Nat} {x : Barrier}
  (hk : natOperand c 0 0 = .ok k) (hx : barrierAt u c.plot c.env.gslot n.toNat = x)
include hk

theorem bariResult_too_large (hlt : 1024 < k) : bariResult n c u = .error (causeOnly causePacketLength) := by
  simp only [bariResult, hk, bind_ok, require_le_bind_of_lt hlt]

include hx

theorem bariResult_idle (hle : k ≤ 1024) (harr : x.arr = 0) (hwaiters : x.waiters = 0) :
    bariResult n c u = .ok (setBarrier u c.plot c.env.gslot n.toNat
      { x with count := if k = 0 then x.declared else k, phase := false }, emit c (statusPacket 0)) := by
  simp only [bariResult, hk, bind_ok, require_le_bind hle, hx, if_pos (And.intro harr hwaiters)]

theorem bariResult_busy (hle : k ≤ 1024) (hbusy : x.arr ≠ 0 ∨ x.waiters ≠ 0) :
    bariResult n c u = .ok (u, emit c (statusPacket 1)) := by
  simp only [bariResult, hk, bind_ok, require_le_bind hle, hx, if_neg (Decidable.not_and_iff_not_or_not.mpr hbusy)]
end

/-! ### Firings of a `bar` -/

theorem exec_bar {s : State} {p : Nat} {b : BlockId} {m : MatchedSet} {h : Head} (hf : Fires s p b m h) (wait : Bool)
    (n : BitVec 4) :
    exec (.bar h wait n) s = throughPort s (fireState h (fun c u => barResult wait n c m u) s) :=
  congrArg (throughPort s) (fireHeld_eq_fireState (barResult wait n) hf)

/-- Settles O32: each instruction fires with what its body answers in the case that the clause names; the set that a `bar`
with WAIT holds is the one that sends nothing. -/
theorem barrierFirings : Obligations.BarrierFirings := by
  intro s p k b m h wait n c u g x a part full result back hf
  refine ⟨?barq, fun hk => ⟨?unconfigured, ?overweight, ?full, ?counted, ?held⟩, fun hk => ⟨?tooLarge, ?idle, ?busy⟩⟩
  case barq => exact throughPort_fireState_answered hf rfl
  case unconfigured =>
    intro hcount
    exact (exec_bar hf wait n).trans (throughPort_fireState_answered hf (barResult_unconfigured hk rfl hcount))
  case overweight =>
    intro hcount hlt
    exact (exec_bar hf wait n).trans (throughPort_fireState_error hf (barResult_overweight hk rfl hcount hlt))
  case full =>
    intro hcount hle hfull
    exact (exec_bar hf wait n).trans (throughPort_fireState_answered hf (barResult_full hk rfl hcount hle hfull))
  case counted =>
    intro hcount hle hpart hnow
    exact (exec_bar hf wait n).trans
      (throughPort_fireState_answered hf (barResult_counted hk rfl hcount hle hpart hnow))
  case held =>
    intro hcount hle hpart hpos
    exact (exec_bar hf true n).trans
      (throughPort_fireState_silent hf (barResult_held hk rfl hcount hle hpart hpos) (holdBar_flights _ _ _ _ _ _))
  case tooLarge =>
    intro hlt
    exact throughPort_fireState_error hf (bariResult_too_large hk hlt)
  case idle =>
    intro hle harr hwaiters
    exact throughPort_fireState_answered hf (bariResult_idle hk rfl hle harr hwaiters)
  case busy =>
    intro hle hbusy
    exact throughPort_fireState_answered hf (bariResult_busy hk rfl hle hbusy)

end Sys2Proof
end

section
/-! SUPPORT. The handler's instructions (R432 to R434): what the body of each answers in a state of the cause slot that its
operand names. -/
namespace Sys2Proof
open Machine

/-- A firing that sends nothing leaves what its body leaves. -/
theorem fireState_silent {s t : State} {p : Nat} {b : BlockId} {m : MatchedSet} {h : Head}
    {body : FireCtx → State → Except FaultInfo (State × List Send)} (hf : Fires s p b m h)
    (hb : body (fireCtxOf s p b m h) (consume s p b m) = .ok (t, [])) : fireState h body s = .next t := by
  rw [fireState_ok hf hb, sendAll_nil]

theorem all_causesOf_free_iff {s : State} {c : FireCtx} :
    (causesOf s c).all (fun k => k.state == .free) = true ↔ ∀ k ∈ causesOf s c, k.state = .free := by
  simp only [List.all_eq_true, beq_iff_eq]

section
variable {c : FireCtx} {u t : State} {n : Nat} {drop : Bool} {x : CauseSlot}
  (hn : natOperand c 0 0 = .ok n) (hx : causeAt u c n = x)
include hn hx

/-! ### `hcse` (R432) -/

theorem hcseResult_free (hfree : x.state = .free) :
    hcseResult c u = .ok (u, emit c (mkPacket 0x04 [0, 0, 0, 0])) := by
  simp only [hcseResult, hn, bind_ok, hx, if_pos hfree]

/-- A slot with a record is READ once it has been sent, whether or not it was before. -/
theorem hcseResult_of_ne_free (hfull : x.state ≠ .free) :
    hcseResult c u = .ok (setCause u c n { x with state := .read },
      emit c (mkPacket 0x04 [x.record.w0, x.record.w1, x.record.w2, x.record.w3])) := by
  simp only [hcseResult, hn, bind_ok, hx, if_neg hfull]

/-! ### `hres` (R433) -/

theorem hresResult_of_ne_read (hunread : x.state ≠ .read) :
    hresResult drop c u = .ok (u, emit c (statusPacket 1)) := by
  simp only [hresResult, hn, bind_ok, hx, if_pos hunread, status]

section
variable (hread : x.state = .read)
  (ht : settleWords (resolveKept (setCause u c n CauseSlot.empty) c.plot drop x.kept) c.plot = t)
include hread ht

/-- A slot that is released leaves its group stopped while another of its slots is in use. -/
theorem hresResult_in_use (huse : ¬ ∀ k ∈ causesOf t c, k.state = .free) :
    hresResult drop c u = .ok (t, emit c (statusPacket 0)) := by
  simp only [hresResult, hn, bind_ok, hx, if_neg (not_not_intro hread), ht, if_neg (mt all_causesOf_free_iff.mp huse), status]

/-- The release of the last slot in use lets its group run (R343). -/
theorem hresResult_all_free (hfree : ∀ k ∈ causesOf t c, k.state = .free) :
    hresResult drop c u = .ok (resumePlot (modGroup t c.plot c.env.gslot
      (fun g => if g.phase = .stopped then { g with phase := .running } else g)) c.plot, emit c (statusPacket 0)) := by
  simp only [hresResult, hn, bind_ok, hx, if_neg (not_not_intro hread), ht, if_pos (all_causesOf_free_iff.mpr hfree), status]
end

/-! ### `hkil` (R434) -/

theorem hkilResult_of_ne_read (hunread : x.state ≠ .read) : hkilResult c u = .ok (u, []) := by
  simp only [hkilResult, hn, bind_ok, hx, if_neg hunread]

theorem hkilResult_read (hread : x.state = .read) :
    hkilResult c u = .ok (dropOrphans (killGroup u c.plot c.env.gslot (x.record.w0.extractLsb' 0 8)), []) := by
  simp only [hkilResult, hn, bind_ok, hx, if_pos hread]
end

/-- Settles O39: each instruction fires with what its body answers for the state of the cause slot, and after the release of
a READ slot the slots of the group decide whether it runs. -/
theorem handlerFirings : Obligations.HandlerFirings := by
  intro s p n b m h drop c u x t free hf hn
  refine ⟨?emptyRecord, ?record, ?unread, ?inUse, ?allFree, ?killed⟩
  case emptyRecord =>
    intro hfree
    exact fireState_ok hf (hcseResult_free hn rfl hfree)
  case record =>
    intro hfull
    exact fireState_ok hf (hcseResult_of_ne_free hn rfl hfull)
  case unread =>
    intro hunread
    exact ⟨fireState_ok hf (hresResult_of_ne_read hn rfl hunread),
      fireState_silent hf (hkilResult_of_ne_read hn rfl hunread)⟩
  case inUse =>
    intro hread huse
    exact fireState_ok hf (hresResult_in_use hn rfl hread rfl huse)
  case allFree =>
    intro hread hfree
    exact fireState_ok hf (hresResult_all_free hn rfl hread rfl hfree)
  case killed =>
    intro hread
    exact fireState_silent hf (hkilResult_read hn rfl hread)

end Sys2Proof
end

section
/-! SUPPORT. Facts about lists and conditions that the library of the package does not name. -/
namespace Sys2Proof

theorem getD_of_lt {α : Type} {l : List α} {i : Nat} (d : α) (h : i < l.length) : l.getD i d = l[i] := by
  rw [List.getD_eq_getElem?_getD, List.getElem?_eq_getElem h, Option.getD_some]

theorem getD_of_length_le {α : Type} {l : List α} {i : Nat} (d : α) (h : l.length ≤ i) : l.getD i d = d := by
  rw [List.getD_eq_getElem?_getD, List.getElem?_eq_none h, Option.getD_none]

theorem modify_length_append {α : Type} (l : List α) (x : α) (f : α → α) : (l ++ [x]).modify l.length f = l ++ [f x] := by
  induction l with
  | nil => rfl
  | cons y l ih => exact congrArg (y :: ·) ih

theorem ite_congr_of_iff {α : Type} {p q : Prop} [Decidable p] [Decidable q] {x y u v : α} (h : p ↔ q) (hx : x = u) (hy : y = v) :
    (if p then x else y) = if q then u else v :=
  ite_congr (propext h) (fun _ => hx) (fun _ => hy)

end Sys2Proof
end

section
/-! SUPPORT. The encoding (R55, R60 to R68): every coded field and its code, the fields of an op word put together from its
parts, and the parts of an instruction read back from XF. -/
namespace Sys2Proof
open Machine

/-! ### Coded fields (R7) -/

/-- A value found by its code has that code. -/
theorem code_of_find {α : Type} {n : Nat} {code : α → BitVec n} {l : List α} {c : BitVec n} {a : α}
    (h : l.find? (fun x => code x == c) = some a) : code a = c := by
  simpa only [beq_iff_eq] using List.find?_some h

@[simp] theorem rndOfCode_rndCode (x : Rnd) : rndOfCode (rndCode x) = some x := by cases x <;> rfl
@[simp] theorem tagModeOfCode_tagModeCode (x : TagMode) : tagModeOfCode (tagModeCode x) = some x := by cases x <;> rfl
@[simp] theorem thrdSelOfCode_thrdSelCode (x : ThrdSel) : thrdSelOfCode (thrdSelCode x) = some x := by cases x <;> rfl
@[simp] theorem cmpCondOfCode_cmpCondCode (x : CmpCond) : cmpCondOfCode (cmpCondCode x) = some x := by cases x <;> rfl
@[simp] theorem floatCondOfCode_floatCondCode (x : FloatCond) : floatCondOfCode (floatCondCode x) = some x := by cases x <;> rfl
@[simp] theorem foldOpOfCode_foldOpCode (x : FoldOp) : foldOpOfCode (foldOpCode x) = some x := by cases x <;> rfl
@[simp] theorem tyOfCode_tyCode (x : Ty) : tyOfCode (tyCode x) = some x := by cases x <;> rfl
@[simp] theorem cachePolOfCode_cachePolCode (x : CachePol) : cachePolOfCode (cachePolCode x) = some x := by cases x <;> rfl
@[simp] theorem scopeOfCode_scopeCode (x : Scope) : scopeOfCode (scopeCode x) = some x := by cases x <;> rfl
@[simp] theorem memOrdOfCode_memOrdCode (x : MemOrd) : memOrdOfCode (memOrdCode x) = some x := by cases x <;> rfl
@[simp] theorem cnwrOpOfCode_cnwrOpCode (x : CnwrOp) : cnwrOpOfCode (cnwrOpCode x) = some x := by cases x <;> rfl
@[simp] theorem runClsOfCode_runClsCode (x : RunCls) : runClsOfCode (runClsCode x) = some x := by cases x <;> rfl
@[simp] theorem tolClsOfCode_tolClsCode (x : TolCls) : tolClsOfCode (tolClsCode x) = some x := by cases x <;> rfl
@[simp] theorem outFmtOfCode_outFmtCode (x : OutFmt) : outFmtOfCode (outFmtCode x) = some x := by cases x <;> rfl
@[simp] theorem mrdSelOfCode_mrdSelCode (x : MrdSel) : mrdSelOfCode (mrdSelCode x) = some x := by cases x <;> rfl
@[simp] theorem grexOpOfCode_grexOpCode (x : GrexOp) : grexOpOfCode (grexOpCode x) = some x := by cases x <;> rfl
@[simp] theorem haltOpOfCode_haltOpCode (x : HaltOp) : haltOpOfCode (haltOpCode x) = some x := by cases x <;> rfl
@[simp] theorem rrecOpOfCode_rrecOpCode (x : RrecOp) : rrecOpOfCode (rrecOpCode x) = some x := by cases x <;> rfl
@[simp] theorem injKindOfCode_injKindCode (x : InjKind) : injKindOfCode (injKindCode x) = some x := by cases x <;> rfl
@[simp] theorem tlbiModeOfCode_tlbiModeCode (x : TlbiMode) : tlbiModeOfCode (tlbiModeCode x) = some x := by cases x <;> rfl
@[simp] theorem imtrOpOfCode_imtrOpCode (x : ImtrOp) : imtrOpOfCode (imtrOpCode x) = some x := by cases x <;> rfl
@[simp] theorem predicateOfCode_predicateCode (x : Predicate) : predicateOfCode (predicateCode x) = some x := by cases x <;> rfl
@[simp] theorem immOfCode_immCode (x : Imm) : immOfCode (immCode x) = some x := by cases x <;> rfl

theorem mem_allOpcs (x : Opc) : x ∈ allOpcs := by cases x <;> decide

/-- No two opcodes share a code (R73). -/
theorem opcOfCode_of_mem : ∀ x ∈ allOpcs, opcOfCode (opcCode x) = some x := by decide +kernel

@[simp] theorem opcOfCode_opcCode (x : Opc) : opcOfCode (opcCode x) = some x := opcOfCode_of_mem x (mem_allOpcs x)

/-! ### Fields of a word

A word is read with its widths as the sums that `++` makes of them, so `Nat.reduceAdd` stays out of these proofs. -/

@[simp] theorem getLsbD_ofBool_zero (b : Bool) : (BitVec.ofBool b).getLsbD 0 = b := by cases b <;> rfl

/-- The fields of the memory class stand apart in XF (R67). -/
@[simp] theorem memXfOf_memXfBits (m : MemXf) : memXfOf (memXfBits m) = some m := by
  simp [-Nat.reduceAdd, -BitVec.getLsbD_eq_getElem, memXfOf, memXfBits, BitVec.extractLsb'_append_eq_of_le,
    BitVec.extractLsb'_append_eq_of_add_le, BitVec.extractLsb'_eq_self, BitVec.getLsbD_append]

/-- An instruction is read back from its own parts: no field of XF hides another (R68). -/
theorem readFields_of_parts {i : Instr} {o : Opc} {h : Head} {xf : BitVec 16} (hp : parts i = some (o, h, xf)) :
    readFields o h xf = some i := by
  cases i <;> cases hp <;>
    simp [-Nat.reduceAdd, -BitVec.getLsbD_eq_getElem, readFields, BitVec.extractLsb'_append_eq_of_le,
      BitVec.extractLsb'_append_eq_of_add_le, BitVec.extractLsb'_eq_self, BitVec.getLsbD_append]

theorem instrOf_of_parts {i : Instr} {o : Opc} {h : Head} {xf : BitVec 16} (hp : parts i = some (o, h, xf)) :
    instrOf o h xf = .ok i := by
  simp only [instrOf, readFields_of_parts hp, hp, if_true]

/-- The decoder takes only the parts that the instruction encodes to. -/
theorem parts_of_instrOf {i : Instr} {o : Opc} {h : Head} {xf : BitVec 16} (hi : instrOf o h xf = .ok i) :
    parts i = some (o, h, xf) := by
  unfold instrOf at hi
  split at hi
  · cases hi
  · split at hi
    · cases hi; assumption
    · cases hi

/-! ### Targets (R61, R63) -/

@[simp] theorem targetOf_targetBits (n : Nat) (t : Option Target) : targetOf n (targetBits t) = .ok t := by
  cases t with
  | none => rfl
  | some t =>
    simp [-Nat.reduceAdd, -BitVec.getLsbD_eq_getElem, targetOf, targetBits, BitVec.getLsbD_append,
      BitVec.extractLsb'_append_eq_of_le, BitVec.extractLsb'_append_eq_of_add_le, BitVec.extractLsb'_eq_self]

/-- Three fields that follow each other in a word of 10 bits, the first of one bit that is set. -/
theorem targetBits_of_targetOf {n : Nat} {b : BitVec 10} {t : Option Target} (ht : targetOf n b = .ok t) :
    targetBits t = b := by
  unfold targetOf at ht
  split at ht
  · next hv =>
    cases ht
    refine BitVec.eq_of_getLsbD_eq fun j hj => ?_
    simp only [targetBits, BitVec.getLsbD_append, BitVec.getLsbD_extractLsb']
    split
    · next hlow => simp only [hlow, decide_true, Bool.true_and, Nat.zero_add]
    · next hlow =>
      split
      · next hmid => simp only [hmid, decide_true, Bool.true_and, show 2 + (j - 2) = j by omega]
      · next hmid =>
        obtain rfl : j = 9 := by omega
        exact hv.symm
  · split at ht
    · next hb => cases ht; exact hb.symm
    · cases ht

/-! ### Words (R60) -/

section
variable (o : Opc) (h : Head) (xf : BitVec 16)

/-- The fields of an op word are its parts. -/
theorem opWordOf_fields :
    (opWordOf o h xf).extractLsb' 55 9 = opcCode o ∧ (opWordOf o h xf).extractLsb' 51 4 = tyCode h.ty ∧
    (opWordOf o h xf).extractLsb' 48 3 = immCode h.im ∧ (opWordOf o h xf).extractLsb' 46 2 = predicateCode h.pr ∧
    (opWordOf o h xf).extractLsb' 36 10 = targetBits h.t0 ∧ (opWordOf o h xf).extractLsb' 26 10 = targetBits h.t1 ∧
    (opWordOf o h xf).extractLsb' 16 10 = targetBits h.t2 ∧ (opWordOf o h xf).extractLsb' 0 16 = xf := by
  simp [-Nat.reduceAdd, opWordOf, BitVec.extractLsb'_append_eq_of_le, BitVec.extractLsb'_append_eq_of_add_le,
    BitVec.extractLsb'_eq_self]

end

/-- A word is its eight fields (R60). -/
theorem append_fields (op : Word) :
    op.extractLsb' 55 9 ++ op.extractLsb' 51 4 ++ op.extractLsb' 48 3 ++ op.extractLsb' 46 2 ++ op.extractLsb' 36 10 ++
      op.extractLsb' 26 10 ++ op.extractLsb' 16 10 ++ op.extractLsb' 0 16 = op := by
  refine BitVec.eq_of_getLsbD_eq fun j hj => ?_
  simp only [BitVec.getLsbD_append, BitVec.getLsbD_extractLsb']
  grind

theorem need_some {α : Type} (a : α) (e : DecodeError) : need (some a) e = .ok a := rfl

theorem need_eq_ok {α : Type} {o : Option α} {e : DecodeError} {a : α} (h : need o e = .ok a) : o = some a := by
  cases o with
  | none => cases h
  | some b => cases h; rfl

/-- What a chain of decoding steps answers comes from an answer of the first. -/
theorem decode_bind_eq_ok {α β : Type} {x : Except DecodeError α} {f : α → Except DecodeError β} {b : β}
    (h : (x >>= f) = .ok b) : ∃ a, x = .ok a ∧ f a = .ok b := by
  cases x with
  | error e => cases h
  | ok a => exact ⟨a, rfl, h⟩

theorem headOf_opWordOf (o : Opc) (h : Head) (xf : BitVec 16) : headOf (opWordOf o h xf) h.cfg = .ok h := by
  obtain ⟨-, hty, him, hpr, ht0, ht1, ht2, -⟩ := opWordOf_fields o h xf
  simp only [headOf, hty, him, hpr, ht0, ht1, ht2, tyOfCode_tyCode, immOfCode_immCode, predicateOfCode_predicateCode,
    targetOf_targetBits, need_some]
  rfl

/-- The common fields that a word gives have the word's bits (R60, R63). -/
theorem fields_of_headOf {op cfg : Word} {h : Head} (hh : headOf op cfg = .ok h) :
    tyCode h.ty = op.extractLsb' 51 4 ∧ immCode h.im = op.extractLsb' 48 3 ∧ predicateCode h.pr = op.extractLsb' 46 2 ∧
    targetBits h.t0 = op.extractLsb' 36 10 ∧ targetBits h.t1 = op.extractLsb' 26 10 ∧
    targetBits h.t2 = op.extractLsb' 16 10 ∧ h.cfg = cfg := by
  obtain ⟨ty, hty, hh⟩ := decode_bind_eq_ok hh
  obtain ⟨im, him, hh⟩ := decode_bind_eq_ok hh
  obtain ⟨pr, hpr, hh⟩ := decode_bind_eq_ok hh
  obtain ⟨t0, ht0, hh⟩ := decode_bind_eq_ok hh
  obtain ⟨t1, ht1, hh⟩ := decode_bind_eq_ok hh
  obtain ⟨t2, ht2, hh⟩ := decode_bind_eq_ok hh
  cases hh
  exact ⟨code_of_find (need_eq_ok hty), code_of_find (need_eq_ok him), code_of_find (need_eq_ok hpr),
    targetBits_of_targetOf ht0, targetBits_of_targetOf ht1, targetBits_of_targetOf ht2, rfl⟩

/-! ### The two directions -/

theorem encode_of_parts {i : Instr} {o : Opc} {h : Head} {xf : BitVec 16} (hp : parts i = some (o, h, xf)) :
    encode i = some (opWordOf o h xf, h.cfg) := by
  simp only [encode, hp, Option.map_some]

theorem decode_opWordOf {i : Instr} {o : Opc} {h : Head} {xf : BitVec 16} (hp : parts i = some (o, h, xf)) :
    decode (opWordOf o h xf) h.cfg = .ok i := by
  obtain ⟨ho, -, -, -, -, -, -, hxf⟩ := opWordOf_fields o h xf
  simp only [decode, ho, hxf, opcOfCode_opcCode, need_some, headOf_opWordOf]
  exact instrOf_of_parts hp

theorem encode_of_decode {i : Instr} {op cfg : Word} (hd : decode op cfg = .ok i) : encode i = some (op, cfg) := by
  obtain ⟨o, ho, hd⟩ := decode_bind_eq_ok hd
  obtain ⟨h, hh, hi⟩ := decode_bind_eq_ok hd
  have hcode : opcCode o = op.extractLsb' 55 9 := code_of_find (need_eq_ok ho)
  obtain ⟨hty, him, hpr, ht0, ht1, ht2, hcfg⟩ := fields_of_headOf hh
  rw [encode_of_parts (parts_of_instrOf hi), opWordOf, hcode, hty, him, hpr, ht0, ht1, ht2, hcfg, append_fields]

/-- An instruction that a block can hold has parts: a step of the hardware has no common fields (R55, R73). -/
theorem exists_parts_of_wellFormed {i : Instr} (hw : wellFormed i = true) : ∃ o h xf, parts i = some (o, h, xf) := by
  cases hp : parts i with
  | some q => exact ⟨q.1, q.2.1, q.2.2, rfl⟩
  | none =>
    have hnone : head? i = none := by cases i <;> cases hp <;> rfl
    simp [wellFormed, hnone] at hw

/-- Settles O3: an instruction with parts decodes from the word put together from them, and a word that decodes is put
together from the parts of what it decodes to. -/
theorem decodeUndoesEncode : Obligations.DecodeUndoesEncode := by
  refine ⟨fun i hw => ?_, fun i op cfg => encode_of_decode, rfl, rfl, rfl, rfl⟩
  obtain ⟨o, h, xf, hp⟩ := exists_parts_of_wellFormed hw
  exact ⟨opWordOf o h xf, h.cfg, encode_of_parts hp, decode_opWordOf hp⟩

end Sys2Proof
end

section
/-! SUPPORT. The memory keeps its canonical form: an instruction and a step of the hardware by the law of its meaning, the
start of a set and the work of a schedule entry by what each can be. -/
namespace Sys2Proof
open Machine

/-- Every row of the opcode table keeps the form, each by the law of its meaning. -/
theorem exec_wf (i : Instr) (s : State) (hs : s.mem.wf = true) : ∀ t, exec i s = .next t → t.mem.wf = true :=
  match i with
  | .mov h => execMov_wf h s hs
  | .sink h => execSink_wf h s hs
  | .steer h tm => execSteer_wf h tm s hs
  | .select h => execSelect_wf h s hs
  | .gate h => execGate_wf h s hs
  | .const h => execConst_wf h s hs
  | .exit h => execExit_wf h s hs
  | .call h ind site => execCall_wf h ind site s hs
  | .ret h => execRet_wf h s hs
  | .lpent h w => execLpent_wf h w s hs
  | .lpnext h w => execLpnext_wf h w s hs
  | .lpexit h w => execLpexit_wf h w s hs
  | .tagrd h pos w => execTagrd_wf h pos w s hs
  | .tagwr h mode w => execTagwr_wf h mode w s hs
  | .thrd h sel => execThrd_wf h sel s hs
  | .reord h => execReord_wf h s hs
  | .join h all => execJoin_wf h all s hs
  | .argwr h => execArgwr_wf h s hs
  | .add h => execAdd_wf h s hs
  | .sub h => execSub_wf h s hs
  | .mul h => execMul_wf h s hs
  | .mulh h => execMulh_wf h s hs
  | .mad h => execMad_wf h s hs
  | .div h => execDiv_wf h s hs
  | .rem h => execRem_wf h s hs
  | .neg h => execNeg_wf h s hs
  | .abs h => execAbs_wf h s hs
  | .min h => execMin_wf h s hs
  | .max h => execMax_wf h s hs
  | .and h => execAnd_wf h s hs
  | .or h => execOr_wf h s hs
  | .xor h => execXor_wf h s hs
  | .andn h => execAndn_wf h s hs
  | .shl h => execShl_wf h s hs
  | .shr h => execShr_wf h s hs
  | .sar h => execSar_wf h s hs
  | .rotl h => execRotl_wf h s hs
  | .cmp h cc => execCmp_wf h cc s hs
  | .clz h => execClz_wf h s hs
  | .ctz h => execCtz_wf h s hs
  | .popc h => execPopc_wf h s hs
  | .brev h => execBrev_wf h s hs
  | .sext h => execSext_wf h s hs
  | .zext h => execZext_wf h s hs
  | .adds h => execAdds_wf h s hs
  | .subs h => execSubs_wf h s hs
  | .lea h sc => execLea_wf h sc s hs
  | .lut4 h tt => execLut4_wf h tt s hs
  | .bext h sx len pos => execBext_wf h sx len pos s hs
  | .bins h len pos => execBins_wf h len pos s hs
  | .bsplit h sx pos => execBsplit_wf h sx pos s hs
  | .bjoin h pos => execBjoin_wf h pos s hs
  | .dec h hi iw => execDec_wf h hi iw s hs
  | .pext h => execPext_wf h s hs
  | .pdep h => execPdep_wf h s hs
  | .bsel h => execBsel_wf h s hs
  | .pkb h lenM1 e => execPkb_wf h lenM1 e s hs
  | .pkm h => execPkm_wf h s hs
  | .pks h k => execPks_wf h k s hs
  | .pkx h => execPkx_wf h s hs
  | .pki h => execPki_wf h s hs
  | .pkr h op => execPkr_wf h op s hs
  | .pkp h dyn lenM1 => execPkp_wf h dyn lenM1 s hs
  | .pkl h lM1 => execPkl_wf h lM1 s hs
  | .pkscan h exc op => execPkscan_wf h exc op s hs
  | .fadd h rm => execFadd_wf h rm s hs
  | .fsub h rm => execFsub_wf h rm s hs
  | .fmul h rm => execFmul_wf h rm s hs
  | .fma h rm => execFma_wf h rm s hs
  | .fmin h => execFmin_wf h s hs
  | .fmax h => execFmax_wf h s hs
  | .fcmp h cc => execFcmp_wf h cc s hs
  | .fabs h => execFabs_wf h s hs
  | .fneg h => execFneg_wf h s hs
  | .fcls h cm => execFcls_wf h cm s hs
  | .frcp h rm => execFrcp_wf h rm s hs
  | .frsq h rm => execFrsq_wf h rm s hs
  | .fex2 h rm => execFex2_wf h rm s hs
  | .flg2 h rm => execFlg2_wf h rm s hs
  | .fsin h rm => execFsin_wf h rm s hs
  | .fcos h rm => execFcos_wf h rm s hs
  | .ftanh h rm => execFtanh_wf h rm s hs
  | .fdiv h rm => execFdiv_wf h rm s hs
  | .fsqrt h rm => execFsqrt_wf h rm s hs
  | .cvt h sty rm => execCvt_wf h sty rm s hs
  | .frnd h rm => execFrnd_wf h rm s hs
  | .fscl h rm => execFscl_wf h rm s hs
  | .wad h ft => execWad_wf h ft s hs
  | .plgat h ft => execPlgat_wf h ft s hs
  | .plsct h ft => execPlsct_wf h ft s hs
  | .qnt h ft rm => execQnt_wf h ft rm s hs
  | .dqnt h sc rm => execDqnt_wf h sc rm s hs
  | .bsc h sty => execBsc_wf h sty s hs
  | .ld h m => execLd_wf h m s hs
  | .st h m => execSt_wf h m s hs
  | .lds h m => execLds_wf h m s hs
  | .stf h m => execStf_wf h m s hs
  | .clre h m => execClre_wf h m s hs
  | .mnop h m => execMnop_wf h m s hs
  | .wadv h => execWadv_wf h s hs
  | .fence h m => execFence_wf h m s hs
  | .atom h m => execAtom_wf h m s hs
  | .red h m => execRed_wf h m s hs
  | .pref h m => execPref_wf h m s hs
  | .cctl h m => execCctl_wf h m s hs
  | .ldg h m => execLdg_wf h m s hs
  | .sts h m => execSts_wf h m s hs
  | .cnt h idx d w => execCnt_wf h idx d w s hs
  | .cchn h idx d w => execCchn_wf h idx d w s hs
  | .agen h => execAgen_wf h s hs
  | .strl h row lenM1 ft cp done scope => execStrl_wf h row lenM1 ft cp done scope s hs
  | .strs h cp done scope => execStrs_wf h cp done scope s hs
  | .ctks h one ch => execCtks_wf h one ch s hs
  | .ctkw h mM1 ch => execCtkw_wf h mM1 ch s hs
  | .cnrd h => execCnrd_wf h s hs
  | .cnwr h op => execCnwr_wf h op s hs
  | .cbini h cb => execCbini_wf h cb s hs
  | .cbres h wait cb => execCbres_wf h wait cb s hs
  | .cbcom h cb => execCbcom_wf h cb s hs
  | .cbacq h wait cb => execCbacq_wf h wait cb s hs
  | .cbrel h cb => execCbrel_wf h cb s hs
  | .cbst h cb => execCbst_wf h cb s hs
  | .cpy h done scope => execCpy_wf h done scope s hs
  | .cpy2 h done scope => execCpy2_wf h done scope s hs
  | .cpycb h done cb => execCpycb_wf h done cb s hs
  | .cpyq h done scope => execCpyq_wf h done scope s hs
  | .pmini h => execPmini_wf h s hs
  | .pment h => execPment_wf h s hs
  | .pmex h => execPmex_wf h s hs
  | .frq h wait => execFrq_wf h wait s hs
  | .frl h => execFrl_wf h s hs
  | .mwld h ws => execMwld_wf h ws s hs
  | .mwsw h ws => execMwsw_wf h ws s hs
  | .mma h nrM1 a => execMma_wf h nrM1 a s hs
  | .mgat h ft => execMgat_wf h ft s hs
  | .mrep h pace => execMrep_wf h pace s hs
  | .mfil h => execMfil_wf h s hs
  | .mclr h a => execMclr_wf h a s hs
  | .mwr h cls a => execMwr_wf h cls a s hs
  | .mchk h a => execMchk_wf h a s hs
  | .mdrn h scope done rm sh outf a => execMdrn_wf h scope done rm sh outf a s hs
  | .mst h rm sh outf a => execMst_wf h rm sh outf a s hs
  | .mloc h => execMloc_wf h s hs
  | .mfix h => execMfix_wf h s hs
  | .mrty h => execMrty_wf h s hs
  | .mrd h sel => execMrd_wf h sel s hs
  | .mtol h cls => execMtol_wf h cls s hs
  | .grex h op => execGrex_wf h op s hs
  | .post h done ipt => execPost_wf h done ipt s hs
  | .recv h wait ipt => execRecv_wf h wait ipt s hs
  | .bari h b => execBari_wf h b s hs
  | .bar h wait b => execBar_wf h wait b s hs
  | .barq h b => execBarq_wf h b s hs
  | .sow h => execSow_wf h s hs
  | .kdep h => execKdep_wf h s hs
  | .kdec h => execKdec_wf h s hs
  | .yld h => execYld_wf h s hs
  | .srd h dx die reg => execSrd_wf h dx die reg s hs
  | .swr h dx die reg => execSwr_wf h dx die reg s hs
  | .trap h code => execTrap_wf h code s hs
  | .hcse h => execHcse_wf h s hs
  | .hres h drop => execHres_wf h drop s hs
  | .hkil h => execHkil_wf h s hs
  | .halt h op => execHalt_wf h op s hs
  | .rrec h op => execRrec_wf h op s hs
  | .minj h kind => execMinj_wf h kind s hs
  | .tlbi h mode => execTlbi_wf h mode s hs
  | .pwrq h can fmask => execPwrq_wf h can fmask s hs
  | .imtr h op => execImtr_wf h op s hs
  | .coldReset => execColdReset_wf s hs
  | .registerWrite => execRegisterWrite_wf s hs
  | .tokenArrival => execTokenArrival_wf s hs
  | .overflowReturn => execOverflowReturn_wf s hs
  | .accessArrival => execAccessArrival_wf s hs
  | .storeBufferIssue => execStoreBufferIssue_wf s hs
  | .accessPerformed => execAccessPerformed_wf s hs
  | .waiterRefusalRetry => execWaiterRefusalRetry_wf s hs
  | .gets => execGets_wf s hs
  | .getx => execGetx_wf s hs
  | .upg => execUpg_wf s hs
  | .pute => execPute_wf s hs
  | .putm => execPutm_wf s hs
  | .invAck => execInvAck_wf s hs
  | .fwdDone => execFwdDone_wf s hs
  | .dataS => execDataS_wf s hs
  | .dataE => execDataE_wf s hs
  | .dataM => execDataM_wf s hs
  | .grant => execGrant_wf s hs
  | .inv => execInv_wf s hs
  | .fwdGets => execFwdGets_wf s hs
  | .fwdGetx => execFwdGetx_wf s hs
  | .putAck => execPutAck_wf s hs
  | .requestReissue => execRequestReissue_wf s hs
  | .backInvalidation => execBackInvalidation_wf s hs
  | .creditArrival => execCreditArrival_wf s hs
  | .pointAccepted => execPointAccepted_wf s hs
  | .streamAccessPerformed => execStreamAccessPerformed_wf s hs
  | .counterAdd => execCounterAdd_wf s hs
  | .ctkwJoin => execCtkwJoin_wf s hs
  | .walkReturn => execWalkReturn_wf s hs
  | .wordServe => execWordServe_wf s hs
  | .chunkDone => execChunkDone_wf s hs
  | .rowArrival => execRowArrival_wf s hs
  | .rowBoundarySwitch => execRowBoundarySwitch_wf s hs
  | .pushWritten => execPushWritten_wf s hs
  | .rowResultWritten => execRowResultWritten_wf s hs
  | .gatherRowSent => execGatherRowSent_wf s hs
  | .mrepPass => execMrepPass_wf s hs
  | .fillerRow => execFillerRow_wf s hs
  | .comparisonEnd => execComparisonEnd_wf s hs
  | .drainPerformed => execDrainPerformed_wf s hs
  | .groupPlacement => execGroupPlacement_wf s hs
  | .dispatchToken => execDispatchToken_wf s hs
  | .quiescence => execQuiescence_wf s hs
  | .groupRetired => execGroupRetired_wf s hs
  | .childCompletion => execChildCompletion_wf s hs
  | .portSpillReturn => execPortSpillReturn_wf s hs
  | .completionSignal => execCompletionSignal_wf s hs
  | .enable => execEnable_wf s hs
  | .disable => execDisable_wf s hs
  | .clear => execClear_wf s hs
  | .kick => execKick_wf s hs
  | .watchWake => execWatchWake_wf s hs
  | .backoffExpiry => execBackoffExpiry_wf s hs
  | .headerRead => execHeaderRead_wf s hs
  | .packetConsume => execPacketConsume_wf s hs
  | .fullLoad => execFullLoad_wf s hs
  | .cachedLoad => execCachedLoad_wf s hs
  | .floorRaise => execFloorRaise_wf s hs
  | .loadBusy => execLoadBusy_wf s hs
  | .create => execCreate_wf s hs
  | .start => execStart_wf s hs
  | .resume => execResume_wf s hs
  | .preempt => execPreempt_wf s hs
  | .freeze => execFreeze_wf s hs
  | .thaw => execThaw_wf s hs
  | .kill => execKill_wf s hs
  | .release => execRelease_wf s hs
  | .record => execRecord_wf s hs
  | .replay => execReplay_wf s hs
  | .norecord => execNorecord_wf s hs
  | .contextIdle => execContextIdle_wf s hs
  | .expiry => execExpiry_wf s hs
  | .stall => execStall_wf s hs
  | .acknowledgement => execAcknowledgement_wf s hs
  | .walkLevelRead => execWalkLevelRead_wf s hs
  | .adUpdate => execAdUpdate_wf s hs
  | .contiguousCheck => execContiguousCheck_wf s hs
  | .walkerQueueRetry => execWalkerQueueRetry_wf s hs
  | .tlbiComplete => execTlbiComplete_wf s hs
  | .blockLoadStarted => execBlockLoadStarted_wf s hs
  | .blockLoadComplete => execBlockLoadComplete_wf s hs
  | .imageTranslationFault => execImageTranslationFault_wf s hs
  | .entryTokenDelivery => execEntryTokenDelivery_wf s hs
  | .eviction => execEviction_wf s hs
  | .evictionEnd => execEvictionEnd_wf s hs
  | .consolidation => execConsolidation_wf s hs
  | .migrationRequest => execMigrationRequest_wf s hs
  | .migrationSwitch => execMigrationSwitch_wf s hs
  | .migrationRelease => execMigrationRelease_wf s hs
  | .samplingWindow => execSamplingWindow_wf s hs
  | .intervalBoundary => execIntervalBoundary_wf s hs
  | .guardTrip => execGuardTrip_wf s hs
  | .thresholdTrip => execThresholdTrip_wf s hs
  | .thresholdRelease => execThresholdRelease_wf s hs
  | .dwellEnd => execDwellEnd_wf s hs
  | .rackCapMessage => execRackCapMessage_wf s hs
  | .leaseExpiry => execLeaseExpiry_wf s hs
  | .prtbaseWrite => execPrtbaseWrite_wf s hs
  | .train => execTrain_wf s hs
  | .quarantine => execQuarantine_wf s hs
  | .linkRelease => execLinkRelease_wf s hs
  | .trainingComplete => execTrainingComplete_wf s hs
  | .trainingTimeout => execTrainingTimeout_wf s hs
  | .laneFailure => execLaneFailure_wf s hs
  | .retrainComplete => execRetrainComplete_wf s hs
  | .crcRetryFailure => execCrcRetryFailure_wf s hs
  | .requestTimeout => execRequestTimeout_wf s hs
  | .peerRequest => execPeerRequest_wf s hs
  | .peerResponse => execPeerResponse_wf s hs
  | .hostRead => execHostRead_wf s hs
  | .hostWrite => execHostWrite_wf s hs
  | .hostSnoop => execHostSnoop_wf s hs
  | .homeOperation => execHomeOperation_wf s hs
  | .homeRead => execHomeRead_wf s hs
  | .obreqWrite => execObreqWrite_wf s hs
  | .plotCycle => execPlotCycle_wf s hs
  | .flitCrcError => execFlitCrcError_wf s hs
  | .plotOffline => execPlotOffline_wf s hs

/-- The start of a set keeps the form: what is taken before its instruction runs is no memory. -/
theorem runSet_wf (u : State) (p t pe : Nat) (c : Copy) (m : MatchedSet) (hu : u.mem.wf = true) :
    ∀ v, runSet u p t pe c m = .next v → v.mem.wf = true := by
  intro v hv
  obtain ⟨i, -, hrun⟩ | ⟨w, -, hrun⟩ := runSet_cases u p t pe c m
  · have hprep : ({ prepare u p t pe c.id m i with cur := .firing p c.id m } : State).mem.wf = true :=
      prepare_wf u p t pe c.id m i hu
    exact exec_wf i _ hprep v (hrun.symm.trans hv)
  · exact nomatch hrun.symm.trans hv

theorem runBehind_wf (u : State) (p t pe : Nat) (o : Option (Copy × MatchedSet × MatchedSet)) (hu : u.mem.wf = true) :
    ∀ v, runBehind u p t pe o = .next v → v.mem.wf = true := by
  intro v hv
  obtain hnone | ⟨c, x, m, -, hfirst | ⟨w, hw, hboth⟩⟩ := runBehind_cases u p t pe o
  · obtain rfl := Host.Outcome.next.inj (hnone.symm.trans hv)
    exact hu
  · exact runSet_wf u p t pe c x hu v (hfirst.symm.trans hv)
  · exact runSet_wf w p t pe c m (runSet_wf u p t pe c x hu w hw) v (hboth.symm.trans hv)

/-- The work of a schedule entry keeps the form, whatever the entry names. -/
theorem entryStep_wf (s : State) (hs : s.mem.wf = true) : ∀ v, entryStep s = .next v → v.mem.wf = true := by
  intro v hv
  have hu : ({ s with sched := s.sched.tail } : State).mem.wf = true := hs
  obtain ⟨i, c, hi⟩ | ⟨p, t, pe, c, m, hi⟩ | ⟨p, t, pe, o, hi⟩ | ⟨w, hw, hsmall⟩ | ⟨op, cfg, hi⟩ := entryStep_cases s
  · have hcur : ({ s with sched := s.sched.tail, cur := c } : State).mem.wf = true := hs
    exact exec_wf i _ hcur v (hi.symm.trans hv)
  · exact runSet_wf _ p t pe c m hu v (hi.symm.trans hv)
  · exact runBehind_wf _ p t pe o hu v (hi.symm.trans hv)
  · obtain rfl := Host.Outcome.next.inj (hw.symm.trans hv)
    obtain rfl | ⟨p, t, pe, rfl⟩ | ⟨p, t, pe, rfl⟩ | ⟨q, rfl⟩ | ⟨p, n, rfl⟩ | ⟨p, t, n, rfl⟩ | ⟨p, t, n, rfl⟩ | ⟨p, c, rfl⟩ := hsmall
    · exact hu
    · exact freeIterative_wf _ p t pe hu
    · exact askStation_wf _ p t pe hu
    · exact nextSlot_wf _ _ hu
    · exact stepEngine_wf _ p n hu
    · exact endJob_wf _ p t n hu
    · exact accError_wf _ p t n hu
    · exact takeWrite_wf _ p c hu
  · exact nomatch hi.symm.trans hv

/-- Settles O4: the work of the entry keeps the form, and so does what settles after it. -/
theorem memoryFormIsKept : Obligations.MemoryFormIsKept := fun s t hs ht =>
  settleStep_wf (entryStep s) (entryStep_wf s hs) t ht

end Sys2Proof
end

section
/-! SUPPORT. Floating-point and narrow-format elements: an element-wise firing as the packet of its results, and the bit
planes of a packet put together from lists of bits. -/
namespace Sys2Proof
open Machine

/-! ### Element-wise firings (R118, R119, R150) -/

/-- The elements that a floating firing reads. -/
def floatAt (c : FireCtx) (q i : Nat) : FVal := floatIn c c.head.ty (elemAt c (wideTy c.head.ty) q i)

/-- The packet of a floating firing's n result slots. -/
def emitFloats (c : FireCtx) (n : Nat) (g : Nat → Word) : List Send :=
  emit c (mkPacket (tagOfTy c.head.ty) ((List.range n).map g))

section
variable {s : State} {p n : Nat} {b : BlockId} {m : MatchedSet} {h : Head} {i : Instr} {rm : Rnd}

/-- A firing of `elementwise` on one operand sends the slots that its function gives. -/
theorem exec_elementwise1 (f : FireCtx → Nat → Word → Word) (hf : Fires s p b m h)
    (hi : exec i s = fire h (fun c => elementwise c [0] (fun j xs => f c j (xs.getD 0 0))) s)
    (hl : LengthsGive (fireCtxOf s p b m h) [0] n) :
    exec i s = .next (sentFrom s p b m (emitFloats (fireCtxOf s p b m h) n (fun j =>
      f (fireCtxOf s p b m h) j (elemAt (fireCtxOf s p b m h) (wideTy h.ty) 0 j)))) := by
  refine hi.trans (fire_ok hf ((elementwise_of_lengthsGive _ hl).trans ?_))
  simp only [List.map_cons, List.map_nil, List.getD_cons_zero]
  rfl

/-- The same on two operands. -/
theorem exec_elementwise2 (f : FireCtx → Nat → Word → Word → Word) (hf : Fires s p b m h)
    (hi : exec i s = fire h (fun c => elementwise c [0, 1] (fun j xs => f c j (xs.getD 0 0) (xs.getD 1 0))) s)
    (hl : LengthsGive (fireCtxOf s p b m h) [0, 1] n) :
    exec i s = .next (sentFrom s p b m (emitFloats (fireCtxOf s p b m h) n (fun j =>
      f (fireCtxOf s p b m h) j (elemAt (fireCtxOf s p b m h) (wideTy h.ty) 0 j)
        (elemAt (fireCtxOf s p b m h) (wideTy h.ty) 1 j)))) := by
  refine hi.trans (fire_ok hf ((elementwise_of_lengthsGive _ hl).trans ?_))
  simp only [List.map_cons, List.map_nil, List.getD_cons_zero, List.getD_cons_succ]
  rfl

/-- The same on three operands. -/
theorem exec_elementwise3 (f : FireCtx → Nat → Word → Word → Word → Word) (hf : Fires s p b m h)
    (hi : exec i s =
      fire h (fun c => elementwise c [0, 1, 2] (fun j xs => f c j (xs.getD 0 0) (xs.getD 1 0) (xs.getD 2 0))) s)
    (hl : LengthsGive (fireCtxOf s p b m h) [0, 1, 2] n) :
    exec i s = .next (sentFrom s p b m (emitFloats (fireCtxOf s p b m h) n (fun j =>
      f (fireCtxOf s p b m h) j (elemAt (fireCtxOf s p b m h) (wideTy h.ty) 0 j)
        (elemAt (fireCtxOf s p b m h) (wideTy h.ty) 1 j) (elemAt (fireCtxOf s p b m h) (wideTy h.ty) 2 j)))) := by
  refine hi.trans (fire_ok hf ((elementwise_of_lengthsGive _ hl).trans ?_))
  simp only [List.map_cons, List.map_nil, List.getD_cons_zero, List.getD_cons_succ]
  rfl

theorem exec_float1 (f : FVal → FVal) (hf : Fires s p b m h) (hi : exec i s = fire h (float1 rm f) s)
    (hl : LengthsGive (fireCtxOf s p b m h) [0] n) :
    exec i s = .next (sentFrom s p b m (emitFloats (fireCtxOf s p b m h) n (fun j =>
      floatOut (fireCtxOf s p b m h) h.ty rm j (f (floatAt (fireCtxOf s p b m h) 0 j))))) :=
  exec_elementwise1 (fun c j x => floatOut c c.head.ty rm j (f (floatIn c c.head.ty x))) hf hi hl

theorem exec_float2 (f : FVal → FVal → FVal) (hf : Fires s p b m h) (hi : exec i s = fire h (float2 rm f) s)
    (hl : LengthsGive (fireCtxOf s p b m h) [0, 1] n) :
    exec i s = .next (sentFrom s p b m (emitFloats (fireCtxOf s p b m h) n (fun j =>
      floatOut (fireCtxOf s p b m h) h.ty rm j
        (f (floatAt (fireCtxOf s p b m h) 0 j) (floatAt (fireCtxOf s p b m h) 1 j))))) :=
  exec_elementwise2 (fun c j x y => floatOut c c.head.ty rm j (f (floatIn c c.head.ty x) (floatIn c c.head.ty y))) hf hi hl

theorem exec_float3 (f : FVal → FVal → FVal → FVal) (hf : Fires s p b m h) (hi : exec i s = fire h (float3 rm f) s)
    (hl : LengthsGive (fireCtxOf s p b m h) [0, 1, 2] n) :
    exec i s = .next (sentFrom s p b m (emitFloats (fireCtxOf s p b m h) n (fun j =>
      floatOut (fireCtxOf s p b m h) h.ty rm j (f (floatAt (fireCtxOf s p b m h) 0 j)
        (floatAt (fireCtxOf s p b m h) 1 j) (floatAt (fireCtxOf s p b m h) 2 j))))) :=
  exec_elementwise3 (fun c j x y z => floatOut c c.head.ty rm j
    (f (floatIn c c.head.ty x) (floatIn c c.head.ty y) (floatIn c c.head.ty z))) hf hi hl
end

/-- Settles O9: each operation of R150 to R158 is element-wise with the exact function of its row. -/
theorem floatArithmeticResults : Obligations.FloatArithmeticResults := by
  intro s p n b m h rm c v gives hf
  refine ⟨fun hl => ⟨?fadd, ?fsub, ?fmul, ?fdiv, ?fmin, ?fmax⟩, fun hl => ?fma, fun hl => ⟨?fsqrt, ?fabs, ?fneg, ?frnd⟩⟩
  case fadd => exact exec_float2 (addReal rm) hf rfl hl
  case fsub => exact exec_float2 (fun x y => addReal rm x (negReal y)) hf rfl hl
  case fmul => exact exec_float2 mulReal hf rfl hl
  case fdiv => exact exec_float2 divReal hf rfl hl
  case fmin => exact exec_float2 (minReal false) hf rfl hl
  case fmax => exact exec_float2 (minReal true) hf rfl hl
  case fma => exact exec_float3 (fun x y z => addReal rm (mulReal x y) z) hf rfl hl
  case fsqrt => exact exec_float1 sqrtReal hf rfl hl
  case fabs => exact exec_float1 absReal hf rfl hl
  case fneg => exact exec_float1 negReal hf rfl hl
  case frnd =>
    exact exec_elementwise1 (fun c j x => floatOut c c.head.ty .rne j
      (roundIntegral rm (drawAt c j) (floatIn c c.head.ty x))) hf rfl hl

/-- Settles O10: each special function is element-wise with its value, rounded once by `floatOut`. -/
theorem specialFunctionResults : Obligations.SpecialFunctionResults := by
  intro s p n b m h rm c v gives hf hl
  exact ⟨exec_float1 recipVal hf rfl hl, exec_float1 rsqrtVal hf rfl hl, exec_float1 exp2Val hf rfl hl,
    exec_float1 log2Val hf rfl hl, exec_float1 sinVal hf rfl hl, exec_float1 cosVal hf rfl hl,
    exec_float1 tanhVal hf rfl hl⟩

/-! ### Conversion and scaling (R156, R158) -/

theorem cvtResult_of_source {c : FireCtx} {sty : Ty} {f : Fmt} (hs : cvtSource sty c = .ok f) (rm : Rnd) :
    cvtResult sty rm c = .ok (emit c (mkPacket (tagOfTy c.head.ty)
      ((List.range (lenAt c 0)).map (fun i => cvtElem rm c f i (slotAt c (fmtWide f) 0 i))))) := by
  simp only [cvtResult, hs, bind_ok]

theorem fsclResult_of_exponents {c : FireCtx} {n : Nat} {es : List Int} (hl : LengthsGive c [0, 1] n)
    (htag : isConst c 1 = true ∨ intTag (packetAt c 1).fmt = true)
    (hes : (List.range n).mapM (fun i => signedOperand c 1 (if lenAt c 1 = 1 then 0 else i)) = .ok es) (rm : Rnd) :
    fsclResult rm c = .ok (emit c (mkPacket (tagOfTy c.head.ty) ((List.range n).map (fun i =>
      floatOut c c.head.ty rm i (scaleReal (es.getD i 0) (floatIn c c.head.ty (elemAt c false 0 i))))))) := by
  have hlen : commonLen [lenAt c 0, lenAt c 1] = .ok n := commonLen_of_lengthsGive hl
  simp only [fsclResult, require_bind, Bool.or_eq_true, if_pos htag, hlen, bind_ok, hes]

/-- Settles O11: comparison and class are element-wise; a conversion and a scaling first read a source format and
exponents. -/
theorem floatTestAndConversionResults : Obligations.FloatTestAndConversionResults := by
  intro s p n b m h cc cm sty rm f es c v sends hf
  refine ⟨fun hl => ?fcmp, fun hl => ?fcls, fun hs => ?cvt, fun hl htag hes => ?fscl⟩
  case fcmp =>
    exact exec_elementwise2 (fun c _ x y => floatTruth c.head.ty
      (floatCond cc (floatIn c c.head.ty x) (floatIn c c.head.ty y))) hf rfl hl
  case fcls =>
    exact exec_elementwise1 (fun c _ x => floatTruth c.head.ty
      (cm.getLsbD (classBit c.head.ty (floatIn c c.head.ty x)))) hf rfl hl
  case cvt => exact fire_ok hf (cvtResult_of_source hs rm)
  case fscl => exact fire_ok hf (fsclResult_of_exponents hl htag hes rm)

/-! ### Bits from lists (R160) -/

/-- Bit j of a number put together from bits is entry j. -/
theorem testBit_natOfBits (l : List Bool) (j : Nat) : (natOfBits l).testBit j = l.getD j false := by
  induction l generalizing j with
  | nil => simp [natOfBits]
  | cons v l ih =>
    cases j with
    | zero => cases v <;> simp [natOfBits, natOfBool, Nat.testBit_zero]
    | succ j =>
      have hhalf : (natOfBool v + 2 * natOfBits l) / 2 = natOfBits l := by unfold natOfBool; split <;> omega
      rw [natOfBits, Nat.testBit_succ, hhalf, ih, List.getD_cons_succ]

theorem natOfBits_lt (l : List Bool) : natOfBits l < 2 ^ l.length := by
  induction l with
  | nil => simp [natOfBits]
  | cons v l ih => cases v <;> simp [natOfBits, natOfBool, Nat.pow_succ] <;> omega

/-- A pattern put together from n bits has them as its bits. -/
theorem getLsbD_ofNat_natOfBits {k : Nat} (f : Nat → Bool) {j : Nat} (hj : j < k) :
    (BitVec.ofNat k (natOfBits ((List.range k).map f))).getLsbD j = f j := by
  rw [BitVec.getLsbD_ofNat, testBit_natOfBits]
  simp [hj]

/-- `sext(v, k)` of R54 is the sign extension of the low k bits. -/
theorem sextWord_eq_signExtend (k x : Nat) : sextWord k x = (BitVec.ofNat k x).signExtend 64 := by
  rw [sextWord, signedOf_eq_toInt, BitVec.signExtend]

/-! ### Narrow formats (R160 to R166) -/

/-- Element e of a gathered packet: bit e of each plane byte, the sign first (R162). -/
def gatheredElem (k : Nat) (byte : Nat → Nat) (e : Nat) : BitVec k :=
  BitVec.ofNat k (natOfBits ((List.range k).reverse.map (fun j => (byte j).testBit e)))

theorem getLsbD_gatheredElem (k : Nat) (byte : Nat → Nat) (e : Nat) {j : Nat} (hj : j < k) :
    (gatheredElem k byte e).getLsbD (k - 1 - j) = (byte j).testBit e := by
  have hrev : (List.range k).reverse.map (fun j => (byte j).testBit e) =
      (List.range k).map (fun j => (byte (k - 1 - j)).testBit e) := by
    simp [List.range_eq_range', List.reverse_range', Function.comp_def]
  rw [gatheredElem, hrev, getLsbD_ofNat_natOfBits _ (by omega), show k - 1 - (k - 1 - j) = j by omega]

/-- Plane byte j of a scattered packet: bit k − 1 − j of each element (R163). -/
def scatteredPlane (k : Nat) (byte : Nat → Nat) (j : Nat) : BitVec 8 :=
  BitVec.ofNat 8 (natOfBits ((List.range 8).map (fun e => (byte e).testBit (k - 1 - j))))

theorem setWidth_scatteredPlane (k : Nat) (byte : Nat → Nat) (j : Nat) : (scatteredPlane k byte j).setWidth 64 =
    BitVec.ofNat 64 (natOfBits ((List.range 8).map (fun e => (byte e).testBit (k - 1 - j)))) := by
  have hlt := natOfBits_lt ((List.range 8).map (fun e => (byte e).testBit (k - 1 - j)))
  rw [List.length_map, List.length_range] at hlt
  rw [scatteredPlane, BitVec.setWidth_ofNat_of_le_of_lt (by omega) hlt]

section
variable {c : FireCtx}

theorem plgatResult_of_le {ft : BitVec 5} (hle : ftK ft ≤ lenAt c 0) :
    plgatResult ft c = .ok (emit c (mkPacket ft ((List.range 8).map (fun e =>
      (gatheredElem (ftK ft) (fun i => patternOf .w8 (slotAt c false 0 i)) e).signExtend 64)))) := by
  simp only [plgatResult, require_le_bind hle, sextWord_eq_signExtend]
  rfl

theorem plsctResult_of_eight (hlen : lenAt c 0 = 8) (ft : BitVec 5) :
    plsctResult ft c = .ok (emit c (mkPacket 0x07 ((List.range (ftK ft)).map (fun j =>
      (scatteredPlane (ftK ft) (fun i => patternOf .w8 (slotAt c false 0 i)) j).setWidth 64)))) := by
  simp only [plsctResult, require_bind, hlen, decide_true, if_true, setWidth_scatteredPlane]

theorem bscResult_of_eight (hlen : lenAt c 0 = 8) (sty : Ty) :
    bscResult sty c = .ok (emit c (mkPacket 0x03
      [BitVec.ofInt 64 (blockScale ((List.range 8).map (fun i => floatIn c sty (slotAt c false 0 i))))])) := by
  simp only [bscResult, require_bind, hlen, decide_true, if_true]

theorem qntResult_of_length {ft : BitVec 5} (hlen : ft.getLsbD 3 = true → lenAt c 0 = 8) (rm : Rnd) :
    qntResult ft rm c = .ok (emit c (mkPacket ft ((List.range (lenAt c 0)).map (fun i =>
      BitVec.ofInt 64 (qntElem ft rm c (if ft.getLsbD 3 then scaleAt c else 0) i))))) := by
  have hok : (!ft.getLsbD 3 || decide (lenAt c 0 = 8)) = true := by
    cases hft : ft.getLsbD 3 with
    | false => rfl
    | true => simp [hlen hft]
  simp only [qntResult, require_bind, if_pos hok]

theorem dqntResult_of_plane {sc : Bool} (hplane : bitPlaneTag (packetAt c 0).fmt = true)
    (hscale : (packetAt c 0).fmt.getLsbD 3 = sc) (rm : Rnd) :
    dqntResult sc rm c = .ok (emit c (mkPacket (tagOfTy c.head.ty) ((List.range (lenAt c 0)).map (fun i =>
      floatOut c c.head.ty rm i (if sc then planeReal (ftK (packetAt c 0).fmt) (scaleAt c)
          (signedOf (ftK (packetAt c 0).fmt) (slotAt c false 0 i).toNat)
        else realOfInt (signedOf (ftK (packetAt c 0).fmt) (slotAt c false 0 i).toNat)))))) := by
  have hok : (bitPlaneTag (packetAt c 0).fmt && (packetAt c 0).fmt.getLsbD 3 == sc) = true := by
    rw [hplane, hscale, Bool.true_and, beq_self_eq_true]
  simp only [dqntResult, require_bind, if_pos hok]
  cases sc <;> rfl
end

/-- Settles O12: each instruction sends what its body answers, and the planes are read bit by bit. -/
theorem narrowFormatResults : Obligations.NarrowFormatResults := by
  intro s p b m h ft sty rm sc c k byte sends hf
  refine ⟨fun hle => ⟨gatheredElem k byte, ?plgat, fun e _ j hj => getLsbD_gatheredElem k byte e hj⟩,
    fun hlen => ⟨scatteredPlane k byte, ?plsct, fun j _ e he => getLsbD_ofNat_natOfBits _ he⟩,
    fun hlen => ?bsc, fun hlen => ?qnt, fun hplane hscale => ?dqnt⟩
  case plgat => exact fire_ok hf (plgatResult_of_le hle)
  case plsct => exact fire_ok hf (plsctResult_of_eight hlen ft)
  case bsc => exact fire_ok hf (bscResult_of_eight hlen sty)
  case qnt => exact fire_ok hf (qntResult_of_length hlen rm)
  case dqnt => exact fire_ok hf (dqntResult_of_plane hplane hscale rm)

end Sys2Proof
end

section
/-! SUPPORT. Bit fields, tables and decoders (R130 to R135): each result as a pattern whose bits are named one by one. -/
namespace Sys2Proof
open Machine

/-- The pattern of an element is the low N bits of its slot (R30, R119). -/
theorem toNat_ofInt_readInt (t : Ty) (x : Word) : (BitVec.ofInt (tyWidth t) (readInt t x)).toNat = patternOf t x := by
  unfold readInt
  split
  · rw [signedOf_eq_toInt, BitVec.ofInt_toInt, BitVec.toNat_ofNat, patternOf]
  · rw [BitVec.ofInt_natCast, BitVec.toNat_ofNat, patternOf, Nat.mod_mod]

theorem natOfBool_eq_toNat (v : Bool) : natOfBool v = v.toNat := by cases v <;> rfl

/-- A field of a pattern (R131). -/
theorem bitsOf_toNat {w : Nat} (u : BitVec w) (pos len : Nat) : bitsOf u.toNat pos len = (u.extractLsb' pos len).toNat :=
  (BitVec.extractLsb'_toNat ..).symm

theorem signedOf_toNat {w : Nat} (u : BitVec w) : signedOf w u.toNat = u.toInt := by
  rw [signedOf_eq_toInt, BitVec.ofNat_toNat, BitVec.setWidth_eq]

/-! ### Inserting and joining (R131, R132) -/

/-- `x` with `len` bits of `y` in the place of its bits from `pos` on. -/
def insertField (x y pos len : Nat) : Nat := (x - bitsOf x pos len * 2 ^ pos) + (y % 2 ^ len) * 2 ^ pos

/-- Without its field a number is what stands above it and below it. -/
theorem insertField_eq (x y pos len : Nat) :
    insertField x y pos len = 2 ^ pos * (2 ^ len * (x / 2 ^ pos / 2 ^ len) + y % 2 ^ len) + x % 2 ^ pos := by
  have hx : x = 2 ^ pos * (x / 2 ^ pos) + x % 2 ^ pos := (Nat.div_add_mod ..).symm
  have hq : x / 2 ^ pos = 2 ^ len * (x / 2 ^ pos / 2 ^ len) + x / 2 ^ pos % 2 ^ len := (Nat.div_add_mod ..).symm
  have hsplit : x = 2 ^ pos * (2 ^ len * (x / 2 ^ pos / 2 ^ len)) + x % 2 ^ pos + x / 2 ^ pos % 2 ^ len * 2 ^ pos := by
    calc x = 2 ^ pos * (x / 2 ^ pos) + x % 2 ^ pos := hx
      _ = 2 ^ pos * (2 ^ len * (x / 2 ^ pos / 2 ^ len) + x / 2 ^ pos % 2 ^ len) + x % 2 ^ pos := by rw [← hq]
      _ = _ := by rw [Nat.mul_add, Nat.mul_comm (2 ^ pos) (_ % _), Nat.add_right_comm]
  rw [insertField, bitsOf, Nat.shiftRight_eq_div_pow, Nat.sub_eq_of_eq_add hsplit, Nat.mul_add, Nat.mul_comm (2 ^ pos) (y % _),
    Nat.add_right_comm]

theorem testBit_insertField (x y pos len j : Nat) : (insertField x y pos len).testBit j =
    if pos ≤ j ∧ j < pos + len then y.testBit (j - pos) else x.testBit j := by
  rw [insertField_eq, Nat.testBit_two_pow_mul_add _ (Nat.mod_lt _ (Nat.two_pow_pos _)),
    Nat.testBit_two_pow_mul_add _ (Nat.mod_lt _ (Nat.two_pow_pos _)), Nat.testBit_mod_two_pow, Nat.testBit_mod_two_pow]
  by_cases hlow : j < pos
  · rw [if_pos hlow, if_neg (by omega), decide_eq_true hlow, Bool.true_and]
  · rw [if_neg hlow]
    by_cases hmid : j - pos < len
    · rw [if_pos hmid, if_pos (by omega), decide_eq_true hmid, Bool.true_and]
    · rw [if_neg hmid, if_neg (by omega), Nat.testBit_div_two_pow, Nat.testBit_div_two_pow]
      congr 1
      omega

theorem getLsbD_ofNat_insertField {w : Nat} (u v : BitVec w) (pos len : Nat) {j : Nat} (hj : j < w) :
    (BitVec.ofNat w (insertField u.toNat v.toNat pos len)).getLsbD j =
      if pos ≤ j ∧ j < pos + len then v.getLsbD (j - pos) else u.getLsbD j := by
  rw [BitVec.getLsbD_ofNat, decide_eq_true hj, Bool.true_and, testBit_insertField, BitVec.getLsbD, BitVec.getLsbD]

theorem getLsbD_ofNat_join {w : Nat} (u v : BitVec w) (pos : Nat) {j : Nat} (hj : j < w) :
    (BitVec.ofNat w (v.toNat <<< pos ||| u.toNat % 2 ^ pos)).getLsbD j =
      if j < pos then u.getLsbD j else v.getLsbD (j - pos) := by
  rw [BitVec.getLsbD_ofNat, decide_eq_true hj, Bool.true_and, Nat.testBit_or, Nat.testBit_shiftLeft,
    Nat.testBit_mod_two_pow, BitVec.getLsbD, BitVec.getLsbD]
  by_cases hlow : j < pos
  · rw [if_pos hlow, decide_eq_false (by omega), decide_eq_true hlow, Bool.false_and, Bool.false_or, Bool.true_and]
  · rw [if_neg hlow, decide_eq_true (by omega), decide_eq_false hlow, Bool.true_and, Bool.false_and, Bool.or_false]

/-! ### Bits under a mask (R134) -/

/-- The bits of `r` are those of a list, low bit first. -/
def HasBits {w : Nat} (r : BitVec w) (l : List Bool) : Prop := ∀ i < w, r.getLsbD i = l.getD i false

theorem HasBits.eq_ofInt {w : Nat} {r : BitVec w} {l : List Bool} (h : HasBits r l) : BitVec.ofInt w (ofBits l) = r := by
  refine BitVec.eq_of_getLsbD_eq fun i hi => ?_
  rw [ofBits, BitVec.ofInt_natCast, BitVec.getLsbD_ofNat, decide_eq_true hi, Bool.true_and, testBit_natOfBits, h i hi]

/-- A bit set behind the last entry of the list. -/
theorem HasBits.snoc {w : Nat} {r : BitVec w} {l : List Bool} (h : HasBits r l) (v : Bool) :
    HasBits (if v then r ||| (1#w <<< l.length) else r) (l ++ [v]) := by
  intro i hi
  have hlist : (l ++ [v]).getD i false = (l.getD i false || (v && decide (i = l.length))) := by
    rw [List.getD_eq_getElem?_getD, List.getD_eq_getElem?_getD, List.getElem?_append]
    grind
  rw [hlist, ← h i hi]
  cases v with
  | false => simp
  | true =>
    have hone : (1#w <<< l.length).getLsbD i = decide (i = l.length) := by
      simp [BitVec.getLsbD_shiftLeft, BitVec.getLsbD_one]
      grind
    simp [hone]

theorem gatherBits_snoc (as ms : List Bool) (a m : Bool) (hlen : as.length = ms.length) :
    gatherBits (as ++ [a]) (ms ++ [m]) = gatherBits as ms ++ if m then [a] else [] := by
  induction as generalizing ms with
  | nil => obtain rfl := List.length_eq_zero_iff.mp hlen.symm; cases m <;> rfl
  | cons x as ih =>
    obtain ⟨y, ms, rfl⟩ := List.exists_cons_of_length_eq_add_one hlen.symm
    have hrest := ih ms (by simpa using hlen)
    cases y <;> simp [gatherBits, hrest]

theorem bitList_succ (n x : Nat) : bitList (n + 1) x = bitList n x ++ [x.testBit n] := by
  rw [bitList, List.range_succ, List.map_append]
  rfl

/-- One turn of the loop of `pext`. -/
def pextTurn {w : Nat} (a b : BitVec w) (x : Nat × BitVec w) (j : Nat) : Nat × BitVec w :=
  if b.getLsbD j then (x.1 + 1, if a.getLsbD j then x.2 ||| (1#w <<< x.1) else x.2) else x

/-- After j turns the loop of `pext` has gathered the bits under the low j bits of the mask. -/
theorem pextTurns {w : Nat} (a b : BitVec w) (j : Nat) :
    let x := (List.range j).foldl (pextTurn a b) (0, 0#w)
    let l := gatherBits (bitList j a.toNat) (bitList j b.toNat)
    x.1 = l.length ∧ HasBits x.2 l := by
  induction j with
  | zero => exact ⟨rfl, fun i _ => by simp [bitList, gatherBits]⟩
  | succ j ih =>
    obtain ⟨hlen, hbits⟩ := ih
    rw [List.range_succ, List.foldl_append, bitList_succ, bitList_succ, gatherBits_snoc _ _ _ _ (by simp [bitList])]
    simp only [List.foldl_cons, List.foldl_nil, pextTurn, ← BitVec.getLsbD.eq_1]
    cases b.getLsbD j with
    | false => simpa using ⟨hlen, hbits⟩
    | true => exact ⟨by simp [hlen], by simpa only [hlen, if_true] using hbits.snoc (a.getLsbD j)⟩

theorem ofInt_gatherBits {w : Nat} (a b : BitVec w) :
    BitVec.ofInt w (ofBits (gatherBits (bitList w a.toNat) (bitList w b.toNat))) = pextLoop a b :=
  (pextTurns a b w).2.eq_ofInt

theorem scatterBits_snoc (as ms : List Bool) (m : Bool) :
    scatterBits as (ms ++ [m]) = scatterBits as ms ++ [m && as.getD (ms.count true) false] := by
  induction ms generalizing as with
  | nil => cases m <;> cases as <;> simp [scatterBits]
  | cons y ms ih => cases y <;> cases as <;> simp [scatterBits, ih]

theorem length_scatterBits (as ms : List Bool) : (scatterBits as ms).length = ms.length := by
  induction ms generalizing as with
  | nil => cases as <;> rfl
  | cons y ms ih => cases y <;> simp [scatterBits, ih]

/-- One turn of the loop of `pdep`. -/
def pdepTurn {w : Nat} (a b : BitVec w) (x : Nat × BitVec w) (j : Nat) : Nat × BitVec w :=
  if b.getLsbD j then (x.1 + 1, if a.getLsbD x.1 then x.2 ||| (1#w <<< j) else x.2) else x

/-- After j turns the loop of `pdep` has put bits of `a` under the low j bits of the mask. -/
theorem pdepTurns {w : Nat} (a b : BitVec w) (j : Nat) (hj : j ≤ w) :
    let x := (List.range j).foldl (pdepTurn a b) (0, 0#w)
    x.1 = (bitList j b.toNat).count true ∧ HasBits x.2 (scatterBits (bitList w a.toNat) (bitList j b.toNat)) := by
  induction j with
  | zero => exact ⟨rfl, fun i _ => by simp [bitList, scatterBits]⟩
  | succ j ih =>
    obtain ⟨hcount, hbits⟩ := ih (by omega)
    have hsmall : (bitList j b.toNat).count true < w := by
      have := List.count_le_length (a := true) (l := bitList j b.toNat)
      simp [bitList] at this ⊢
      omega
    have hbit : (bitList w a.toNat).getD ((bitList j b.toNat).count true) false =
        a.getLsbD ((bitList j b.toNat).count true) := by
      rw [bitList_toNat a, getD_of_lt _ (by simpa using hsmall)]
      simp
    have hnext := hbits.snoc (b.getLsbD j && a.getLsbD ((bitList j b.toNat).count true))
    rw [length_scatterBits, show (bitList j b.toNat).length = j by simp [bitList]] at hnext
    rw [List.range_succ, List.foldl_append, bitList_succ, scatterBits_snoc, hbit]
    simp only [List.foldl_cons, List.foldl_nil, pdepTurn, hcount, ← BitVec.getLsbD.eq_1]
    cases hm : b.getLsbD j with
    | false => exact ⟨by simpa using hcount, by simpa [hm] using hnext⟩
    | true => exact ⟨by simp, by simpa [hm] using hnext⟩

theorem ofInt_scatterBits {w : Nat} (a b : BitVec w) :
    BitVec.ofInt w (ofBits (scatterBits (bitList w a.toNat) (bitList w b.toNat))) = pdepLoop a b :=
  (pdepTurns a b w (Nat.le_refl w)).2.eq_ofInt

/-! ### Firings -/

section
variable {s : State} {p n : Nat} {b : BlockId} {m : MatchedSet} {h : Head} {i : Instr} {g : Nat → BitVec (tyWidth h.ty)}

/-- A firing of `int3 f` sends the patterns `g` where they are those of `f` of the operands' elements. -/
theorem exec_bits3 {f : Ty → Int → Int → Int → Int} (hf : Fires s p b m h)
    (hi : exec i s = fire h (int3 f) s)
    (hl : LengthsGive (fireCtxOf s p b m h) [0, 1, 2] n)
    (hg : ∀ j, BitVec.ofInt (tyWidth h.ty) (f h.ty (intAt (fireCtxOf s p b m h) 0 j) (intAt (fireCtxOf s p b m h) 1 j)
      (intAt (fireCtxOf s p b m h) 2 j)) = g j) :
    exec i s = .next (sentFrom s p b m (emitInts (fireCtxOf s p b m h) n (fun j => ((g j).toNat : Int)))) :=
  exec_int3 hf hi hl fun j => (hg j).trans (ofInt_natCast_toNat _).symm
end

/-- The pattern that `lut4` makes of three patterns and the configuration word (R130). -/
def lut4Pattern (tt : BitVec 16) (cfg : Word) {w : Nat} (x y z : BitVec w) : BitVec w :=
  BitVec.ofNat w (natOfBits ((List.range w).map (fun j => tt.getLsbD
    (natOfBool (x.getLsbD j) + 2 * natOfBool (y.getLsbD j) + 4 * natOfBool (z.getLsbD j) + 8 * natOfBool (cfg.getLsbD j)))))

theorem getLsbD_lut4Pattern (tt : BitVec 16) (cfg : Word) {w : Nat} (x y z : BitVec w) {j : Nat} (hj : j < w) :
    (lut4Pattern tt cfg x y z).getLsbD j = tt.getLsbD ((x.getLsbD j).toNat + 2 * (y.getLsbD j).toNat +
      4 * (z.getLsbD j).toNat + 8 * (cfg.getLsbD j).toNat) := by
  rw [lut4Pattern, getLsbD_ofNat_natOfBits _ hj]
  simp only [natOfBool_eq_toNat]

/-- `lut4` reads the configuration word beside its three operands. -/
theorem lut4Result_of_lengthsGive {c : FireCtx} {n : Nat} (hl : LengthsGive c [0, 1, 2] n) (tt : BitVec 16) :
    lut4Result tt c = .ok (emitInts c n (fun i =>
      ((lut4Pattern tt c.head.cfg (bitsAt c 0 i) (bitsAt c 1 i) (bitsAt c 2 i)).toNat : Int))) := by
  rw [lut4Result, int3, elementwise_of_lengthsGive _ hl]
  simp only [List.map_cons, List.map_nil, List.getD_cons_zero, List.getD_cons_succ]
  exact congrArg Except.ok (emit_writeInt_congr fun i =>
    (BitVec.ofInt_natCast _ _).trans (ofInt_natCast_toNat _).symm)

/-- The bits of `x` where `u` has ones, those of `y` elsewhere (R135). -/
theorem ofInt_select_bits {w : Nat} (u x y : BitVec w) :
    BitVec.ofInt w (((x.toNat &&& u.toNat) ||| (y.toNat &&& (2 ^ w - 1 - u.toNat)) : Nat) : Int) =
      (x &&& u) ||| (y &&& ~~~ u) := by
  rw [← BitVec.toNat_not, ← BitVec.toNat_and, ← BitVec.toNat_and, ← BitVec.toNat_or, ofInt_natCast_toNat]

/-- The low parts of `bsplit` (R132). -/
theorem splitPart_low (c : FireCtx) (sx : Bool) (pos : BitVec 6) : splitPart c false sx pos =
    intPacket c.head.ty (lenAt c 0) (fun i => ((bitsAt c 0 i).toNat % 2 ^ pos.toNat : Nat)) := by
  simp only [splitPart, intPacket, bitsAt, intAt, toNat_ofInt_readInt]
  rfl

/-- The high parts of `bsplit` (R132). -/
theorem splitPart_high (c : FireCtx) (sx : Bool) (pos : BitVec 6) : splitPart c true sx pos =
    intPacket c.head.ty (lenAt c 0) (fun i => if sx then (bitsAt c 0 i).toInt / (2 ^ pos.toNat : Nat)
      else (((bitsAt c 0 i).toNat / 2 ^ pos.toNat : Nat) : Int)) := by
  have hsigned : ∀ (t : Ty) (x : Word), signedOf (tyWidth t) (patternOf t x) = (BitVec.ofInt (tyWidth t) (readInt t x)).toInt := by
    intro t x
    rw [← toNat_ofInt_readInt, signedOf_toNat]
  simp only [splitPart, intPacket, hsigned, bitsAt, intAt, toNat_ofInt_readInt, Nat.shiftRight_eq_div_pow,
    Int.fdiv_eq_ediv_of_nonneg _ (Int.natCast_nonneg _), if_true]

theorem bsplitResult_eq (c : FireCtx) (sx : Bool) (pos : BitVec 6) : bsplitResult sx pos c = .ok (
    sendTo c.head.t0 (Token.mk c.env (intPacket c.head.ty (lenAt c 0) (fun i => ((bitsAt c 0 i).toNat % 2 ^ pos.toNat : Nat)))) ++
    sendTo c.head.t1 (Token.mk c.env (intPacket c.head.ty (lenAt c 0) (fun i =>
      if sx then (bitsAt c 0 i).toInt / (2 ^ pos.toNat : Nat) else (((bitsAt c 0 i).toNat / 2 ^ pos.toNat : Nat) : Int))))) := by
  rw [bsplitResult, splitPart_low, splitPart_high]

/-- Settles O7: each result of R130 to R135 is the pattern that its bits are named by. -/
theorem bitElementResults : Obligations.BitElementResults := by
  intro s p n b m h tt sx len pos c w x y z bit gives hf
  refine ⟨fun hl => ⟨⟨fun i => lut4Pattern tt h.cfg (x i) (y i) (z i), ?lut4, fun i _ j hj => getLsbD_lut4Pattern _ _ _ _ _ hj⟩, ?bsel⟩,
    fun hl _ _ => ?bext,
    fun hl _ _ => ⟨fun i => BitVec.ofNat w (insertField (x i).toNat (y i).toNat pos.toNat len.toNat), ?bins,
      fun i _ j hj => getLsbD_ofNat_insertField (x i) (y i) _ _ hj⟩,
    fun hl _ _ => ⟨fun i => BitVec.ofNat w ((y i).toNat <<< pos.toNat ||| (x i).toNat % 2 ^ pos.toNat), ?bjoin,
      fun i _ j hj => getLsbD_ofNat_join (x i) (y i) _ hj⟩,
    fun _ _ => ?bsplit, fun hl => ⟨?pext, ?pdep⟩⟩
  case lut4 => exact fire_ok hf (lut4Result_of_lengthsGive hl tt)
  case bsel => exact exec_bits3 hf rfl hl fun i => ofInt_select_bits (x i) (y i) (z i)
  case bext =>
    refine exec_int1 hf rfl hl fun i => congrArg _ ?_
    simp only [pat_eq_toNat, bitsOf_toNat, signedOf_toNat]
    rfl
  case bins | bjoin => exact exec_bits2 hf rfl hl fun _ => BitVec.ofInt_natCast _ _
  case bsplit => exact fire_ok hf (bsplitResult_eq _ sx pos)
  case pext => exact exec_bits2 hf rfl hl fun i => ofInt_gatherBits (x i) (y i)
  case pdep => exact exec_bits2 hf rfl hl fun i => ofInt_scatterBits (x i) (y i)

end Sys2Proof
end

section
/-! SUPPORT. Packet elements and routing: the checks that a body makes on formats, lengths and indexes, and what it sends
where they hold. -/
namespace Sys2Proof
open Machine

/-! ### Checks (R29, R46, R118) -/

theorem require_of_true {x : Bool} (hx : x = true) (cause : BitVec 8) : require x cause = .ok () := by
  rw [require, if_pos hx]

theorem require_of_prop {P : Prop} [Decidable P] (hP : P) (cause : BitVec 8) : require (decide P) cause = .ok () :=
  require_of_true (decide_eq_true hP) cause

theorem require_of_not {P : Prop} [Decidable P] (hP : ¬ P) (cause : BitVec 8) :
    require (decide P) cause = .error (causeOnly cause) := by
  rw [require, decide_eq_false hP, if_neg Bool.false_ne_true]

section
variable {c : FireCtx} {f : Fmt}

/-- Two operands of one tag pass the check of a `.lane` firing, and with another TY there is none. -/
theorem laneCheck_of_alike (hf : dataFmt c = .ok f)
    (halike : c.head.ty = .lane → (packetAt c 1).fmt = (packetAt c 0).fmt) : laneCheck c [0, 1] = .ok () := by
  unfold laneCheck
  split
  case isTrue hlane =>
    have hfmt : formatAt c 0 = .ok f := by rwa [dataFmt, if_pos hlane] at hf
    rw [hfmt, bind_ok]
    exact require_of_true (by simp [halike hlane]) _
  case isFalse => rfl

theorem laneCheck_of_ty_ne (ports : List Nat) (hty : c.head.ty ≠ .lane) : laneCheck c ports = .ok () :=
  if_neg hty

theorem resultTag_of_ne_lane (hty : c.head.ty ≠ .lane) : resultTag c = tagOfTy c.head.ty := if_neg hty

/-! ### Packet elements (R136 to R144) -/

section
variable (hf : dataFmt c = .ok f)
include hf

theorem pkbResult_of_lt {e : BitVec 3} (he : e.toNat < lenAt c 0) (k : BitVec 3) :
    pkbResult k e c = .ok (emitData c (List.replicate (k.toNat + 1) ((elemsAt c f 0).getD e.toNat 0))) := by
  simp only [pkbResult, hf, bind_ok, require_of_prop he]

theorem pkmResult_of_le (halike : c.head.ty = .lane → (packetAt c 1).fmt = (packetAt c 0).fmt)
    (hlen : lenAt c 0 + lenAt c 1 ≤ 8) : pkmResult c = .ok (emitData c (elemsAt c f 0 ++ elemsAt c f 1)) := by
  simp only [pkmResult, hf, bind_ok, laneCheck_of_alike hf halike, require_of_prop hlen]

theorem pksResult_of_lt {k : BitVec 3} (hk : k.toNat < lenAt c 0) : pksResult k c = .ok (
    sendTo c.head.t0 (Token.mk c.env (mkPacket (resultTag c) ((elemsAt c f 0).take k.toNat))) ++
      sendTo c.head.t1 (Token.mk c.env (mkPacket (resultTag c) ((elemsAt c f 0).drop k.toNat)))) := by
  simp only [pksResult, hf, bind_ok, require_of_prop hk]

theorem pkxResult_of_lt {i : Nat} (hi : idxAt c 1 = .ok i) (hlt : i < lenAt c 0) :
    pkxResult c = .ok (emitData c [(elemsAt c f 0).getD i 0]) := by
  simp only [pkxResult, hf, hi, bind_ok, require_of_prop hlt]

theorem pkiResult_of_lt {i : Nat} (halike : c.head.ty = .lane → (packetAt c 1).fmt = (packetAt c 0).fmt)
    (hi : idxAt c 2 = .ok i) (hone : lenAt c 1 = 1) (hlt : i < lenAt c 0) :
    pkiResult c = .ok (emitData c ((elemsAt c f 0).set i ((elemsAt c f 1).getD 0 0))) := by
  have hok : (decide (lenAt c 1 = 1) && decide (i < lenAt c 0)) = true := by simp [hone, hlt]
  simp only [pkiResult, hf, hi, bind_ok, laneCheck_of_alike hf halike, require_of_true hok]

/-- The elements of a `pkp` whose sources are all elements of its operand (R143). -/
theorem pkpResult_of_sources {dyn : Bool} {k : BitVec 3} {src : List Nat} (hsrc : pkpSources dyn k c = .ok src)
    (hall : ∀ j ∈ src, j < lenAt c 0) :
    pkpResult dyn k c = .ok (emitData c (src.map (fun j => (elemsAt c f 0).getD j 0))) := by
  have hok : src.all (fun e => decide (e < lenAt c 0)) = true := by simpa using hall
  simp only [pkpResult, hf, hsrc, bind_ok, require_of_true hok]

theorem pklResult_of_fmt (k : BitVec 3) :
    pklResult k c = .ok (emitData c ((List.range (k.toNat + 1)).map (fun j => (elemsAt c f 0).getD j 0))) := by
  simp only [pklResult, hf, bind_ok]
end

theorem pkrResult_eq (op : FoldOp) (c : FireCtx) : pkrResult op c = .ok (emit c (mkPacket (tagOfTy c.head.ty)
    [writeInt c.head.ty ((intElems c).tail.foldl (fun x y => wrapInt c.head.ty (foldStep op c.head.ty x y))
      ((intElems c).headD 0))])) := by
  unfold pkrResult
  cases intElems c with
  | nil => rfl
  | cons x xs => rfl

/-- Entry j of a scan folds the first j elements, or with its own the first j + 1 (R142). -/
theorem scanList_eq_map (exc : Bool) (g : Int → Int → Int) (acc : Int) (xs : List Int) :
    scanList exc g acc xs =
      (List.range xs.length).map (fun j => (xs.take (if exc then j else j + 1)).foldl g acc) := by
  induction xs generalizing acc with
  | nil => rfl
  | cons x xs ih =>
    rw [scanList, ih, List.length_cons, List.range_succ_eq_map, List.map_cons, List.map_map]
    cases exc <;> simp [Function.comp_def]

theorem pkscanResult_eq (exc : Bool) (op : FoldOp) (c : FireCtx) : pkscanResult exc op c = .ok (emit c (mkPacket
    (tagOfTy c.head.ty) ((List.range (lenAt c 0)).map (fun j => writeInt c.head.ty
      (((intElems c).take (if exc then j else j + 1)).foldl (fun x y => wrapInt c.head.ty (foldStep op c.head.ty x y))
        (foldIdentity op c.head.ty)))))) := by
  have hlen : (intElems c).length = lenAt c 0 := by simp [intElems]
  rw [pkscanResult, scanList_eq_map, hlen, List.map_map]
  rfl
end

/-- Settles O8: each body passes its checks and sends the elements of its row in the firing's data format. -/
theorem packetResults : Obligations.PacketResults := by
  intro s p b m h f lenM1 e k i src op c xs ys alike gives part fold hf hfmt
  refine ⟨fun he => ?pkb, fun halike hlen => ?pkm, fun hk => ?pks, fun hi hlt => ?pkx, fun halike hi hone hlt => ?pki,
    fun hall => ?pkpStatic, fun hsrc hall => ?pkpDynamic, ?pkl, fun hty => ?pkr, fun hty => ⟨?inclusive, ?exclusive⟩⟩
  case pkb => exact fire_ok hf (pkbResult_of_lt hfmt he lenM1)
  case pkm => exact fire_ok hf (pkmResult_of_le hfmt halike hlen)
  case pks => exact fire_ok hf (pksResult_of_lt hfmt hk)
  case pkx => exact fire_ok hf (pkxResult_of_lt hfmt hi hlt)
  case pki => exact fire_ok hf (pkiResult_of_lt hfmt halike hi hone hlt)
  case pkpStatic =>
    have hsources : ∀ j ∈ (List.range (lenM1.toNat + 1)).map (fun j => bitsOf h.cfg.toNat (3 * j) 3), j < lenAt c 0 := by
      intro j hj
      obtain ⟨l, hl, rfl⟩ := List.mem_map.mp hj
      exact hall l (Nat.le_of_lt_succ (List.mem_range.mp hl))
    have hmap := fire_ok hf (pkpResult_of_sources (dyn := false) (k := lenM1) hfmt rfl hsources)
    rwa [List.map_map] at hmap
  case pkpDynamic => exact fire_ok hf (pkpResult_of_sources (dyn := true) hfmt hsrc hall)
  case pkl => exact fire_ok hf (pklResult_of_fmt hfmt lenM1)
  case pkr =>
    simp only [gives, resultTag_of_ne_lane (c := c) hty]
    exact fire_ok hf (pkrResult_eq op c)
  case inclusive =>
    simp only [gives, resultTag_of_ne_lane (c := c) hty]
    exact fire_ok hf (pkscanResult_eq false op c)
  case exclusive =>
    simp only [gives, resultTag_of_ne_lane (c := c) hty]
    exact fire_ok hf (pkscanResult_eq true op c)

/-! ### Routing (R99 to R104, R133) -/

section
variable {c : FireCtx}

/-- Each target in use whose bit of TM is the control value gets the token. -/
theorem steerResult_of_control {v : Bool} (hv : controlAt c 1 0 = .ok v) (tm : BitVec 3) : steerResult tm c = .ok (
    (if tm.getLsbD 0 = v then sendTo c.head.t0 (Token.mk c.env (passed c 0)) else []) ++
      (if tm.getLsbD 1 = v then sendTo c.head.t1 (Token.mk c.env (passed c 0)) else []) ++
      (if tm.getLsbD 2 = v then sendTo c.head.t2 (Token.mk c.env (passed c 0)) else [])) := by
  simp only [steerResult, hv, bind_ok, beq_iff_eq]

/-- The token goes to the target that its route names, and route 3 names none (R133). -/
theorem decResult_of_selector {e : Nat} (he : idxAt c 0 = .ok e) (hi : BitVec 8) (iw : BitVec 3) :
    decResult hi iw c = .ok (
      if decRoute hi iw c.head.cfg (e % 2 ^ iw.toNat) = 0 then sendTo c.head.t0 (Token.mk c.env (passed c 1))
      else if decRoute hi iw c.head.cfg (e % 2 ^ iw.toNat) = 1 then sendTo c.head.t1 (Token.mk c.env (passed c 1))
      else if decRoute hi iw c.head.cfg (e % 2 ^ iw.toNat) = 2 then sendTo c.head.t2 (Token.mk c.env (passed c 1))
      else []) := by
  simp only [decResult, he, bind_ok]
  split <;> simp_all

theorem mapM_eq_ok {α β : Type} {f : α → Except FaultInfo β} {g : α → β} {l : List α} (hf : ∀ x ∈ l, f x = .ok (g x)) :
    l.mapM f = .ok (l.map g) := by
  induction l with
  | nil => rfl
  | cons x l ih =>
    rw [List.mapM_cons, hf x (by simp), bind_ok, ih fun y hy => hf y (by simp [hy])]
    rfl

/-- Element by element, the operand that the control value names (R104). -/
theorem selectResult_of_controls {n : Nat} {f : Fmt} {tag : BitVec 5} {vs : Nat → Bool} (hf : selectFmt c = .ok (f, tag))
    (hl : LengthsGive c [0, 1, 2] n)
    (hvs : ∀ i < n, controlAt c 0 (if lenAt c 0 = 1 then 0 else i) = .ok (vs i)) :
    selectResult c = .ok (emit c (mkPacket tag ((List.range n).map (fun i =>
      if isConst c (if vs i then 1 else 2) then normSlot f c.head.cfg
      else elemAt c (wideTag tag) (if vs i then 1 else 2) i)))) := by
  have hlen : commonLen [lenAt c 0, lenAt c 1, lenAt c 2] = .ok n := commonLen_of_lengthsGive hl
  simp only [selectResult, hf, bind_ok, hlen]
  rw [mapM_eq_ok (g := fun i => if isConst c (if vs i then 1 else 2) then normSlot f c.head.cfg
      else elemAt c (wideTag tag) (if vs i then 1 else 2) i)
    (fun i hi => by rw [hvs i (List.mem_range.mp hi), bind_ok])]
  rfl
end

/-- Settles O14: each body sends its data token on; `steer`, `dec` and `select` first read what selects. -/
theorem routingResults : Obligations.RoutingResults := by
  intro s p n e b m h tm iw v vs f tag hi c sends data hf
  refine ⟨?mov, ?gate, ?sink, fun _ => ?const, fun hv => ?steer, fun he => ?dec, fun hfmt hl hvs => ?select⟩
  case mov => exact fire_ok (body := movResult) hf rfl
  case gate => exact fire_ok (body := gateResult) hf rfl
  case sink => exact fire_ok (body := sinkResult) hf rfl
  case const => exact fire_ok (body := constResult) hf rfl
  case steer => exact fire_ok hf (steerResult_of_control hv tm)
  case dec =>
    have hsent := fire_ok hf (decResult_of_selector he hi iw)
    rwa [decRoute, Nat.shiftRight_eq_div_pow] at hsent
  case select => exact fire_ok hf (selectResult_of_controls hfmt hl hvs)

/-! ### Operands that fault (R9, R46, R118, R137 to R140, R158, R166) -/

section
variable {c : FireCtx}

/-- Two lengths that differ and are both not 1 do not combine (R118). -/
theorem commonLen_of_unequal {k l : Nat} (hk : k ≠ 1) (hl : l ≠ 1) (hne : k ≠ l) :
    commonLen [k, l] = .error (causeOnly causePacketLength) := by
  refine if_neg fun hall => ?_
  simp only [List.all_cons, List.all_nil, Bool.and_true, Bool.and_eq_true, Bool.or_eq_true, beq_iff_eq] at hall
  omega

theorem elementwise_of_unequal (hk : lenAt c 0 ≠ 1) (hl : lenAt c 1 ≠ 1) (hne : lenAt c 0 ≠ lenAt c 1)
    (f : Nat → List Word → Word) : elementwise c [0, 1] f = .error (causeOnly causePacketLength) := by
  simp only [elementwise, List.map_cons, List.map_nil, commonLen_of_unequal hk hl hne, bind_error]

theorem int2_of_unequal (hk : lenAt c 0 ≠ 1) (hl : lenAt c 1 ≠ 1) (hne : lenAt c 0 ≠ lenAt c 1) (f : Ty → Int → Int → Int) :
    int2 f c = .error (causeOnly causePacketLength) :=
  elementwise_of_unequal hk hl hne _

theorem float2_of_unequal (hk : lenAt c 0 ≠ 1) (hl : lenAt c 1 ≠ 1) (hne : lenAt c 0 ≠ lenAt c 1) (rm : Rnd)
    (f : FVal → FVal → FVal) : float2 rm f c = .error (causeOnly causePacketLength) :=
  elementwise_of_unequal hk hl hne _

theorem controlAt_of_reserved {q : Nat} (hfmt : fmtOfTag (packetAt c q).fmt = none) (i : Nat) :
    controlAt c q i = .error (causeOnly causeFormat) := by
  simp only [Machine.controlAt, truthOf, hfmt, Option.map_none]

theorem steerResult_of_reserved (hfmt : fmtOfTag (packetAt c 1).fmt = none) (tm : BitVec 3) :
    steerResult tm c = .error (causeOnly causeFormat) := by
  simp only [steerResult, controlAt_of_reserved hfmt, bind_error]

theorem fsclResult_of_tag (hconst : isConst c 1 = false) (htag : intTag (packetAt c 1).fmt = false) (rm : Rnd) :
    fsclResult rm c = .error (causeOnly causeFormat) :=
  require_false_bind (by rw [hconst, htag, Bool.or_self]) causeFormat _

theorem dqntResult_of_tag (htag : bitPlaneTag (packetAt c 0).fmt = false) (sc : Bool) (rm : Rnd) :
    dqntResult sc rm c = .error (causeOnly causeFormat) :=
  require_false_bind (by rw [htag, Bool.false_and]) causeFormat _

variable {f : Fmt}

theorem pkbResult_of_le (hf : dataFmt c = .ok f) {e : BitVec 3} (he : lenAt c 0 ≤ e.toNat) (k : BitVec 3) :
    pkbResult k e c = .error (causeOnly causePacketLength) := by
  simp only [pkbResult, hf, bind_ok, require_of_not (Nat.not_lt.mpr he), bind_error]

theorem pkmResult_of_lt (hf : dataFmt c = .ok f) (hty : c.head.ty ≠ .lane) (hlen : 8 < lenAt c 0 + lenAt c 1) :
    pkmResult c = .error (causeOnly causePacketLength) := by
  simp only [pkmResult, hf, bind_ok, laneCheck_of_ty_ne _ hty, require_of_not (Nat.not_le.mpr hlen), bind_error]

theorem pkxResult_of_le (hf : dataFmt c = .ok f) {i : Nat} (hi : idxAt c 1 = .ok i) (hle : lenAt c 0 ≤ i) :
    pkxResult c = .error (causeOnly causePacketLength) := by
  simp only [pkxResult, hf, hi, bind_ok, require_of_not (Nat.not_lt.mpr hle), bind_error]
end

/-- Settles O19: each body meets the check that fails before it sends anything. -/
theorem operandFaults : Obligations.OperandFaults := by
  intro s p i b m h rm k e tm f c faults hf
  refine ⟨fun h0 h1 hne => ⟨?add, ?and, ?fadd⟩, fun hfmt hle => ?pkb, fun hfmt hty hlt => ?pkm, fun hfmt hi hle => ?pkx,
    fun hfmt => ?steer, fun hconst htag => ?fscl, fun htag => ⟨?scaled, ?unscaled⟩⟩
  case add => exact fire_error (body := addResult) hf (int2_of_unequal h0 h1 hne _)
  case and => exact fire_error (body := andResult) hf (int2_of_unequal h0 h1 hne _)
  case fadd => exact fire_error (body := faddResult rm) hf (float2_of_unequal h0 h1 hne rm (addReal rm))
  case pkb => exact fire_error hf (pkbResult_of_le hfmt hle k)
  case pkm => exact fire_error hf (pkmResult_of_lt hfmt hty hlt)
  case pkx => exact fire_error hf (pkxResult_of_le hfmt hi hle)
  case steer => exact fire_error hf (steerResult_of_reserved hfmt tm)
  case fscl => exact fire_error hf (fsclResult_of_tag hconst htag rm)
  case scaled | unscaled => exact fire_error hf (dqntResult_of_tag htag _ rm)

end Sys2Proof
end

section
/-! SUPPORT. Firings whose predicate does not select them (R64): one lemma for each shape of a firing, and the instructions by
their shape. -/
namespace Sys2Proof
open Machine

/-! ### Firings that their predicate leaves out -/

/-- `r` leaves `t` where the predicate is false, and the FORMAT fault of the predicate where its tag is reserved. -/
def PassesBy (s : State) (p : Nat) (b : BlockId) (m : MatchedSet) (h : Head) (t : State) (r : Result) : Prop :=
  (predicateOf (fireCtxOf s p b m h) = some false → r = .next t) ∧
  (predicateOf (fireCtxOf s p b m h) = none → r = .next (faultedFrom s p b m h (causeOnly causeFormat)))

section
variable {s : State} {p : Nat} {b : BlockId} {m : MatchedSet} {h : Head} (hc : s.cur = .firing p b m)
include hc

theorem passesBy_fireWith (skip : FireCtx → State → State)
    (body : FireCtx → State → Except FaultInfo (State × List Send)) :
    PassesBy s p b m h (skip (fireCtxOf s p b m h) (consume s p b m)) (fireWith h skip body s) :=
  ⟨fun hp => by simp only [fireWith, hc, hp], fun hp => by simp only [fireWith, hc, hp, faultedFrom]⟩

theorem passesBy_fire (body : FireCtx → Except FaultInfo (List Send)) :
    PassesBy s p b m h (consume s p b m) (fire h body s) :=
  passesBy_fireWith hc _ _

theorem passesBy_fireState (body : FireCtx → State → Except FaultInfo (State × List Send)) :
    PassesBy s p b m h (consume s p b m) (fireState h body s) :=
  passesBy_fireWith hc _ _

theorem passesBy_fireHeld (body : FireCtx → MatchedSet → State → Except FaultInfo (State × List Send)) :
    PassesBy s p b m h (consume s p b m) (fireHeld h body s) :=
  passesBy_fireState hc _

theorem passesBy_fireWalks (walks : FireCtx → FaultInfo → State → State)
    (body : FireCtx → MatchedSet → State → Except FaultInfo (State × List Send)) :
    PassesBy s p b m h (consume s p b m) (fireWalks h walks body s) := by
  obtain ⟨hfalse, hnone⟩ := passesBy_fireState (h := h) hc (fun c s => body c m s)
  exact ⟨fun hp => by simpa only [fireWalks, hc, hp] using hfalse hp,
    fun hp => by simpa only [fireWalks, hc, hp] using hnone hp⟩

theorem passesBy_fireReads (body : FireCtx → State → Reads (State × List Send)) :
    PassesBy s p b m h (consume s p b m) (fireReads h body s) :=
  passesBy_fireWalks hc _ _

/-- A stream access that its predicate leaves out is none; a wave access stands in the wave order as an `mnop` (R201). -/
theorem passesBy_fireAccess (op : MemOp) (ft : BitVec 5) (xf : MemXf) :
    PassesBy s p b m h (if isStream op then consume s p b m else
      advance (addAccess (consume s p b m) p (accessOf (consume s p b m) (fireCtxOf s p b m h) m .mnop 0 (plainXf .normal false .none)))
        p s.nextId) (fireAccess h op ft xf s) := by
  have hfire := passesBy_fireWith (h := h) hc
    (fun c s => if isStream op then s else
      let a := accessOf s c m .mnop 0 (plainXf .normal false .none)
      advance (addAccess s c.plot a) c.plot a.id)
    (fun c s =>
      let a := accessOf s c m op ft xf
      .ok (advance (addAccess s c.plot a) c.plot a.id, []))
  simp only [fireAccess, hc]
  exact hfire

theorem passesBy_stream {op : MemOp} (hop : isStream op = true) (ft : BitVec 5) (xf : MemXf) :
    PassesBy s p b m h (consume s p b m) (fireAccess h op ft xf s) := by
  have hpass := passesBy_fireAccess (h := h) hc op ft xf
  rwa [if_pos hop] at hpass

theorem passesBy_trap (code : BitVec 7) : PassesBy s p b m h (consume s p b m) (execTrap h code s) :=
  ⟨fun hp => by simp only [execTrap, hc, hp], fun hp => by simp only [execTrap, hc, hp, faultedFrom]⟩
end

/-- What a memory PE's instruction leaves out leaves its return port alone (R471). -/
theorem PassesBy.throughPort {s : State} {p : Nat} {b : BlockId} {m : MatchedSet} {h : Head} {r : Result}
    (hr : PassesBy s p b m h (consume s p b m) r) : PassesBy s p b m h (consume s p b m) (throughPort s r) :=
  ⟨fun hp => by rw [hr.1 hp, throughPort_consume], fun hp => by rw [hr.2 hp, throughPort_faulted]⟩

/-- Each instruction by the shape of its firing. -/
theorem exec_passesBy {s : State} {p : Nat} {b : BlockId} {m : MatchedSet} {h : Head} {i : Instr} (hh : head? i = some h)
    (hwave : waveClass i = false) (hjoin : ∀ all, i ≠ .join h all) (hyld : i ≠ .yld h) (hwad : ∀ ft, i ≠ .wad h ft)
    (hmma : ∀ n a, i ≠ .mma h n a) (hreord : i ≠ .reord h) (hc : s.cur = .firing p b m) :
    PassesBy s p b m h (consume s p b m) (exec i s) := by
  cases i <;> cases hh
  case mov => exact passesBy_fire hc movResult
  case sink => exact passesBy_fire hc sinkResult
  case gate => exact passesBy_fire hc gateResult
  case const => exact passesBy_fire hc constResult
  case tagrd pos w => exact passesBy_fire hc (tagrdResult pos w)
  case bsplit sx pos => exact passesBy_fire hc (bsplitResult sx pos)
  case pkr op => exact passesBy_fire hc (pkrResult op)
  case pkscan exc op => exact passesBy_fire hc (pkscanResult exc op)
  case thrd sel => exact passesBy_fireState hc (thrdResult sel)
  case argwr => exact passesBy_fireState hc argwrResult
  case cnrd => exact passesBy_fireState hc cnrdResult
  case ctks one ch => exact passesBy_fireHeld hc (ctksResult one ch)
  case ctkw mM1 ch => exact passesBy_fireHeld hc (ctkwResult mM1 ch)
  case mwld w => exact passesBy_fireHeld hc (mwldResult w)
  case mclr a => exact passesBy_fireHeld hc (mclrResult a)
  case minj kind => exact passesBy_fireWalks hc minjWalk fun c _ s => minjResult kind c s
  case steer | select | lpent | lpnext | lpexit | tagwr | add | sub | mul |
      mulh | mad | div | rem | neg | abs | min | max | and | or | xor | andn | shl | shr | sar | rotl | cmp | clz |
      ctz | popc | brev | sext | zext | adds | subs | lea | lut4 | bext | bins | bjoin | dec | pext | pdep |
      bsel | pkb | pkm | pks | pkx | pki | pkp | pkl | fadd | fsub | fmul | fma | fmin | fmax | fcmp |
      fabs | fneg | fcls | frcp | frsq | fex2 | flg2 | fsin | fcos | ftanh | fdiv | fsqrt | cvt | frnd | fscl |
      plgat | plsct | qnt | dqnt | bsc | agen => exact passesBy_fire hc _
  case exit | call | ret => exact passesBy_fireReads hc _
  case cnt | cchn | cnwr | mloc | mrty | mrd | mtol | srd | hcse | hres | hkil | halt | rrec | pwrq | imtr =>
    exact passesBy_fireState hc _
  case cbres | cbacq | cpy | cpy2 | cpycb | cpyq | frq | mwsw | mgat | mrep | mfil | mwr | mchk |
      mst | mfix | post | swr | tlbi =>
    exact passesBy_fireHeld hc _
  case cbini | cbcom | cbrel | cbst | frl | grex | bari | barq => exact (passesBy_fireState hc _).throughPort
  case pmini | pmex | sow | kdep | kdec => exact (passesBy_fireWalks hc _ _).throughPort
  case recv | bar => exact (passesBy_fireHeld hc _).throughPort
  case pment | mdrn => exact passesBy_fireWalks hc _ _
  case wadv => exact (passesBy_fire hc _).throughPort
  case strs => exact passesBy_stream hc rfl _ _
  case strl row _ _ _ _ _ =>
    cases row
    · exact passesBy_stream hc rfl _ _
    · exact passesBy_stream hc rfl _ _
  case trap => exact passesBy_trap hc _
  case ld | st | lds | stf | clre | mnop | fence | atom | red | pref | cctl | ldg | sts => cases hwave
  case join all => exact absurd rfl (hjoin all)
  case yld => exact absurd rfl hyld
  case wad ft => exact absurd rfl (hwad ft)
  case mma n a => exact absurd rfl (hmma n a)
  case reord => exact absurd rfl hreord

/-- Settles O18: a `reord` passes its turn on, and every other instruction has one of the shapes of a firing. -/
theorem predicateRule : Obligations.PredicateRule := by
  intro s p b m h i hh hwave hjoin hyld hwad hmma hc
  by_cases hreord : i = .reord h
  · subst hreord
    rw [if_pos rfl]
    exact passesBy_fireWith hc (fun c s => passTurn s c.plot c.block c.slot c.env) reordResult
  · rw [if_neg hreord]
    exact exec_passesBy hh hwave hjoin hyld hwad hmma hreord hc

/-- Settles O21: the `mnop` of a wave access stands under the next number, and `wadv` counts the wave of its token on. -/
theorem wavePlaceKept : Obligations.WavePlaceKept := by
  intro s p b m h x c u stands hc
  refine ⟨fun hp => ?_, fun hp => ?wadv⟩
  case wadv => exact congrArg (throughPort s) (fire_ok (body := wadvResult) ⟨hc, hp⟩ rfl)
  have hstands : ∀ op, isStream op = false → fireAccess h op 0 x s =
      .next (advance (addAccess u p (accessOf u c m .mnop 0 (plainXf .normal false .none))) p s.nextId) := by
    intro op hop
    have hpass := (passesBy_fireAccess (h := h) hc op 0 x).1 hp
    rwa [hop, if_neg Bool.false_ne_true] at hpass
  exact ⟨hstands .ld rfl, hstands .st rfl, hstands .lds rfl, hstands .stf rfl, hstands .clre rfl, hstands .mnop rfl,
    hstands .fence rfl, hstands .atom rfl, hstands .red rfl, hstands .pref rfl, hstands .cctl rfl, hstands .ldg rfl,
    hstands .sts rfl⟩

end Sys2Proof
end

section
/-! SUPPORT. Streams: `agen` (R227), the start and the state table of a counter chain (R220 to R226), and the control-token network
(R233 to R235). -/
namespace Sys2Proof
open Machine

/-! ### agen (R227) -/

/-- A fold over a list and its positions is one over the positions. -/
theorem foldl_zip_range {α β : Type} (f : α → β → Nat → α) (d : β) (l : List β) (a : α) :
    (l.zip (List.range l.length)).foldl (fun a x => f a x.1 x.2) a =
      (List.range l.length).foldl (fun a i => f a (l.getD i d) i) a := by
  have hzip : l.zip (List.range l.length) = (List.range l.length).map (fun i => (l.getD i d, i)) := by
    apply List.ext_getElem
    · simp
    · intro i hl hr
      simp at hl
      simp [hl]
  rw [hzip, List.foldl_map]

theorem mapM_ok_length {α β : Type} {f : α → Except FaultInfo β} {l : List α} {r : List β} (h : l.mapM f = .ok r) :
    r.length = l.length := by
  induction l generalizing r with
  | nil => cases h; rfl
  | cons x l ih =>
    rw [List.mapM_cons] at h
    obtain ⟨y, -, h⟩ := bind_eq_ok h
    obtain ⟨ys, hys, h⟩ := bind_eq_ok h
    cases h
    rw [List.length_cons, List.length_cons, ih hys]

/-- Settles O22: the indexes and the strides meet position by position. -/
theorem addressGeneration : Obligations.AddressGeneration := by
  intro s p b m h is c d hf hint hwide hle hlen his
  have hn : is.length = lenAt c 0 := by simpa using mapM_ok_length his
  have hsum := foldl_zip_range (fun (a : Word) x i => a + BitVec.ofNat 64 x * d (i + 1)) 0 is (d 0)
  rw [hn] at hsum
  refine fire_ok (body := agenResult) hf ?_
  simp only [agenResult]
  rw [require_of_true (by rw [hint, hwide]; rfl), bind_ok,
    require_of_true (by rw [hlen, decide_eq_true hle, beq_self_eq_true]; rfl), bind_ok, his, bind_ok, hsum]

/-! ### The start of a chain (R220, R223) -/

/-- With room for all of them, the credits that the new owner of a chain finds waiting are all counted (R223). -/
theorem takeCredits_of_room (slot : BitVec 7) (x : Chain) (mine : Waiting → Bool) (ws : List Waiting)
    (hmine : ∀ w, (w.slot == slot && w.port == 1 && x.owner.any (fun o => w.tok.env.thread == o.thread && w.tok.env.gslot == o.gslot)) =
      mine w)
    (hroom : x.credit + ws.countP mine ≤ 65535) :
    takeCredits slot x ws = (ws.filter (fun w => !mine w), { x with credit := x.credit + ws.countP mine }) := by
  have hfold : ∀ (ws kept : List Waiting) (n : Nat), x.credit + n + ws.countP mine ≤ 65535 →
      ws.foldl (fun (a : List Waiting × Chain) w =>
        if w.slot == slot && w.port == 1 && chainCounts a.2 w.tok.env then (a.1, { a.2 with credit := a.2.credit + 1 })
        else (a.1 ++ [w], a.2)) (kept, { x with credit := x.credit + n }) =
      (kept ++ ws.filter (fun w => !mine w), { x with credit := x.credit + n + ws.countP mine }) := by
    intro ws
    induction ws with
    | nil => simp
    | cons w ws ih =>
      intro kept n hn
      rw [List.foldl_cons]
      cases hw : mine w
      case false =>
        have hskip : (w.slot == slot && w.port == 1 && chainCounts { x with credit := x.credit + n } w.tok.env) = false := by
          rw [chainCounts, ← Bool.and_assoc, hmine w, hw, Bool.false_and]
        rw [hskip, if_neg Bool.false_ne_true, ih _ _ (by simpa [hw] using hn)]
        simp [hw]
      case true =>
        have hn' : x.credit + (n + 1) + ws.countP mine ≤ 65535 := by simp [hw] at hn; omega
        have htake : (w.slot == slot && w.port == 1 && chainCounts { x with credit := x.credit + n } w.tok.env) = true := by
          rw [chainCounts, ← Bool.and_assoc, hmine w, hw, Bool.true_and]
          exact decide_eq_true (show x.credit + n < 65535 by omega)
        rw [htake, if_pos rfl]
        refine (ih kept (n + 1) hn').trans ?_
        simp [hw]
        omega
  exact (hfold ws [] 0 hroom).trans (by simp)

/-- Settles O23: the record of the start, and for `cchn` the credits that wait for its new owner. -/
theorem chainStart : Obligations.ChainStart := by
  intro s p b m h idx d w z c u k e levels points x mine counted taken hf hwide hlen hlevels hpoints htag
  have hrecord : startRecord d w c (chainAt u p b m.slot) = .ok x := by
    simp only [startRecord]
    rw [require_of_true hwide, bind_ok, require_of_true (by rw [hlen, beq_self_eq_true]), bind_ok,
      require_of_true, bind_ok]
    · rfl
    · rw [Bool.and_eq_true, Bool.and_eq_true, decide_eq_true_eq, decide_eq_true_eq, List.all_eq_true]
      exact ⟨⟨fun l hl => decide_eq_true (hlevels l hl), hpoints⟩, htag⟩
  refine ⟨?cnt, fun hz hroom => ?cchn⟩
  case cnt =>
    refine fireState_silent (body := startChain false idx d w) hf ?_
    exact congrArg (fun r => r >>= _) hrecord
  case cchn =>
    have hcredits := takeCredits_of_room m.slot x (fun y => decide (mine y)) z.waiting
      (fun y => by simp [mine, x, Bool.and_assoc, c, Bool.decide_and]; rfl) hroom
    refine fireState_silent (body := startChain true idx d w) hf ?_
    refine (congrArg (fun r => r >>= _) hrecord).trans ?_
    rw [bind_ok, if_pos rfl]
    have hwaiting : ((copyOf u p b).map (fun k => k.waiting)).getD [] = z.waiting := by rw [hz]; rfl
    exact congrArg (fun ws => Except.ok (runChain (modCopy u p b (fun k => { k with waiting := (takeCredits m.slot x ws).1 })) p
      (takeCredits m.slot x ws).2 (ChainForm.mk true idx w.toNat h), [])) hwaiting |>.trans (by rw [hcredits])

/-! ### The state table of a chain (R224 to R226) -/

section
variable {op : CnwrOp} {c : FireCtx} {u : State} {y : Chain} {n : Nat}

theorem cnwrResult_of_idle (hidle : (chainAt u c.plot c.block (c.head.cfg.extractLsb' 0 7)).state = .idle)
    (hint : op = .seek → intTag (packetAt c 0).fmt = true) : cnwrResult op c u = .ok (u, emit c (statusPacket 1)) := by
  have hreq : (op != .seek || intTag (packetAt c 0).fmt) = true := by
    cases op with
    | seek => exact hint rfl
    | hold | go | snap => rfl
  have hrecord : ∀ v, cnwrRecord op v (chainAt u c.plot c.block (c.head.cfg.extractLsb' 0 7)) =
      (chainAt u c.plot c.block (c.head.cfg.extractLsb' 0 7), 1) := by
    intro v
    unfold cnwrRecord
    rw [hidle]
  simp only [cnwrResult, require_of_true hreq, bind_ok, hrecord, hidle, if_true]
  split <;> rfl

/-- A `cnwr` that leaves its chain running or held writes the record and lets the chain go on (R224). -/
theorem cnwrResult_of_record {f : ChainForm} (hint : op = .seek → intTag (packetAt c 0).fmt = true)
    (hform : chainForm u c.plot (chainAt u c.plot c.block (c.head.cfg.extractLsb' 0 7)) = some f)
    (hrecord : cnwrRecord op (packetSlot true c.fresh (packetAt c 0) 0).toNat (chainAt u c.plot c.block (c.head.cfg.extractLsb' 0 7)) =
      (y, n)) (hy : y.state ≠ .idle) : cnwrResult op c u = .ok (runChain u c.plot y f, emit c (statusPacket n)) := by
  have hreq : (op != .seek || intTag (packetAt c 0).fmt) = true := by
    cases op with
    | seek => exact hint rfl
    | hold | go | snap => rfl
  simp only [cnwrResult, require_of_true hreq, bind_ok, hrecord, hform, if_neg hy]
end

/-- Settles O24: the rows of the state table, each by what `cnwrRecord` writes in its state. -/
theorem chainControl : Obligations.ChainControl := by
  intro s p b m h op f c u x v status runs hf
  refine ⟨fireState_ok (body := cnrdResult) hf rfl, fun hidle hint => ?idle, fun hform => ?rows⟩
  case idle => exact fireState_ok (body := cnwrResult op) hf (cnwrResult_of_idle hidle hint)
  case rows =>
    have hrow : ∀ (op : CnwrOp) (y : Chain) (n : Nat), (op = .seek → intTag (packetAt c 0).fmt = true) →
        cnwrRecord op v x = (y, n) → y.state ≠ .idle → exec (.cnwr h op) s = status (runs y) n :=
      fun op y n hint hrecord hy =>
        fireState_ok (body := cnwrResult op) hf (cnwrResult_of_record hint hform hrecord hy)
    have hnot : ∀ op : CnwrOp, op ≠ .seek → op = .seek → intTag (packetAt c 0).fmt = true := fun op hne he => absurd he hne
    refine ⟨fun hx => ?hold, fun hx => ?snap, fun hx => ?go, fun hx => ?goRunning, fun hint => ⟨fun hx => ?seekRunning,
      fun hx hv => ?seek, fun hx hv => ?seekBeyond⟩⟩
    case hold =>
      refine hrow .hold _ 0 (hnot _ (by decide)) ?_ (by simp)
      cases hst : x.state <;> simp_all [cnwrRecord]
    case snap =>
      refine hrow .snap _ 0 (hnot _ (by decide)) ?_ (by simpa using hx)
      cases hst : x.state <;> simp_all [cnwrRecord]
    case go => exact hrow .go _ 0 (hnot _ (by decide)) (by simp only [cnwrRecord, hx]) (by simp)
    case goRunning => exact hrow .go x 1 (hnot _ (by decide)) (by simp only [cnwrRecord, hx]) (by simp [hx])
    case seekRunning => exact hrow .seek x 1 (fun _ => hint) (by simp only [cnwrRecord, hx]) (by simp [hx])
    case seek => exact hrow .seek _ 0 (fun _ => hint) (by simp only [cnwrRecord, hx, if_pos hv]) (by simp [hx])
    case seekBeyond =>
      exact hrow .seek x 1 (fun _ => hint) (by simp only [cnwrRecord, hx, if_neg (Nat.not_le.mpr hv)]) (by simp [hx])

/-! ### The control-token network (R234, R235) -/

/-- Settles O25: the add is the pattern of the element, its low N bits. -/
theorem controlTokenFirings : Obligations.ControlTokenFirings := by
  intro s p b m h one mM1 ch c u hf
  refine ⟨?_, ?_⟩
  · refine (fireHeld_eq_fireState (ctksResult one ch) hf).trans (fireState_silent hf ?_)
    have hadd : (bitsAt c 0 0).toNat = patternOf c.head.ty (slotAt c (wideTy c.head.ty) 0 0) := by
      rw [bitsAt, intAt, toNat_ofInt_readInt, elemAt, ite_self]
    rw [hadd]
    rfl
  · exact (fireHeld_eq_fireState (ctkwResult mM1 ch) hf).trans (fireState_silent hf rfl)

end Sys2Proof
end

section
/-! SUPPORT. A `join` of two threads whose tokens have passed different barriers (R115, R357), and the entries of `exit`, `call` and
`ret` (R105 to R109). -/
namespace Sys2Proof
open Machine

/-! ### A join whose threads have passed different barriers (R115, R357) -/

/-- The set of a thread whose token carries one barrier. -/
def edgedSet (thread : BitVec 10) : MatchedSet :=
  MatchedSet.mk 0 [(0, { blankToken with env := { noEnv with thread := thread, edges := [thread.toNat] } })] 0 []

def edgedHead : Head := Head.mk .w64 .none .always (some (Target.mk 0 0)) none none 0

/-- A group of two threads that have both sent to a `join`. -/
def edgedJoin : State := { State.reset with
  cur := .firing 0 oneInstrBlock (edgedSet 0)
  plots := [{ Plot.reset with
    blocks := { Plot.reset.blocks with copies := [{ newCopy oneInstrBlock with ready := [edgedSet 0, edgedSet 1] }] }
    unit := { Plot.reset.unit with groups := [some { oneInstrGroup oneInstrBlock with threads := 2 }] } }] }

/-- What the tokens carry that a result puts into flight. -/
def flightEdges : Result → List (List Nat)
  | .next t => t.flights.map (fun f => f.tok.env.edges)
  | _ => []

/-- What the tokens of the two sets carry where each keeps its own barriers. -/
def edgedApart : Result :=
  let sets := joinSets edgedJoin 0 oneInstrBlock 0 (envOf (edgedSet 0).toks)
  .next (sendAll (sets.foldl (fun t y => consume t 0 oneInstrBlock y) { edgedJoin with cur := .idle }) 0 oneInstrBlock
    ((sets.map (fun y => fireCtxOf edgedJoin 0 oneInstrBlock y edgedHead)).flatMap (fun y => emit y (passed y 0))))

theorem edgedJoin_edges : flightEdges (exec (.join edgedHead true) edgedJoin) = [[0, 1], [0, 1]] := by decide +kernel
theorem edgedApart_edges : flightEdges edgedApart = [[0], [1]] := by decide +kernel

theorem edgedJoin_group : (groupAt (consume edgedJoin 0 oneInstrBlock (edgedSet 0)) 0 0).isSome = true := by decide +kernel

/-- Refutes O16: each token that a `join` sends carries the barriers of all the threads (R357), where the statement lets it carry
those of its own thread only. -/
theorem not_threadOrderResults : ¬ Obligations.ThreadOrderResults := by
  intro hO
  obtain ⟨x, hx⟩ := Option.isSome_iff_exists.mp edgedJoin_group
  obtain ⟨-, -, -, -, -, hjoin, -⟩ := hO edgedJoin 0 oneInstrBlock (edgedSet 0) edgedHead true x ⟨rfl, rfl⟩ hx
  have hall : ∀ y ∈ (joinSets edgedJoin 0 oneInstrBlock 0 (envOf (edgedSet 0).toks)).map
      (fun y => fireCtxOf edgedJoin 0 oneInstrBlock y edgedHead), predicateOf y = some true := by
    intro y hy
    obtain ⟨z, -, rfl⟩ := List.mem_map.mp hy
    rfl
  have hedges : flightEdges (exec (.join edgedHead true) edgedJoin) = flightEdges edgedApart := congrArg flightEdges (hjoin hall)
  rw [edgedJoin_edges, edgedApart_edges] at hedges
  exact absurd hedges (by decide)

/-! ### The entries of exit, call and ret (R105 to R109) -/

/-- A set that is consumed leaves every copy of its plot where it was, but for the set itself. -/
theorem copyOf_consume (s : State) (p : Nat) (b b' : BlockId) (m : MatchedSet) :
    copyOf (consume s p b m) p b' =
      (copyOf s p b').map (fun c => if c.id = b then { c with ready := c.ready.erase m } else c) := by
  have hplots : (consume s p b m).plots = (modCopy s p b (fun c => { c with ready := c.ready.erase m })).plots := rfl
  unfold copyOf plotAt
  rw [hplots, modCopy, modBlocks, modPlot]
  dsimp only
  by_cases hp : p < s.plots.length
  case neg => 
    rw [getD_of_length_le _ (by simpa using hp), getD_of_length_le _ (by simpa using hp)]
    rfl
  case pos =>
    rw [getD_of_lt _ (by simpa using hp), List.getElem_modify_eq, getD_of_lt _ hp, List.find?_map]
    have hid : ((fun c : Copy => c.id == b') ∘ fun c => if c.id = b then { c with ready := c.ready.erase m } else c) =
        fun c => c.id == b' := by
      funext c
      dsimp only [Function.comp_apply]
      split <;> rfl
    rw [hid]

section
variable {c : FireCtx} {s u : State} {p : Nat} {b : BlockId} {m : MatchedSet} {bid : BitVec 32} {k : Copy} {es : List Nat}

theorem checkEntry_of_entries (hk : copyOf s c.plot (siblingBlock c bid) = some k) (hn : k.nent ≠ 0) (hes : ∀ e ∈ es, e < k.nent) :
    checkEntry c s bid es = .ok s := by
  have hall : es.all (fun e => decide (e < k.nent)) = true := List.all_eq_true.mpr fun e he => decide_eq_true (hes e he)
  have hfilter : (some k : Option Copy).filter (fun k => k.nent != 0) = some k := by
    simp [Option.filter, hn]
  simp only [checkEntry, hk, hfilter, if_pos hall]

theorem checkEntry_of_no_entry {e : Nat} (hk : copyOf s c.plot (siblingBlock c bid) = some k) (hn : k.nent ≠ 0) (he : k.nent ≤ e) :
    checkEntry c s bid [e] = .error (s, causeOnly causeBadTarget) := by
  have hall : ¬ [e].all (fun e => decide (e < k.nent)) = true := by simpa using he
  have hfilter : (some k : Option Copy).filter (fun k => k.nent != 0) = some k := by
    simp [Option.filter, hn]
  simp only [checkEntry, hk, hfilter, if_neg hall]
end

theorem reads_bind_ok {α β : Type} (a : α) (f : α → Reads β) : (Except.ok a >>= f : Reads β) = f a := rfl

theorem readsOr_ok {α : Type} (s : State) (a : α) : readsOr s (.ok a) = .ok a := rfl

theorem callResult_of_entries {c : FireCtx} {u : State} {site : BitVec 15}
    (hcheck : checkEntry c u (c.head.cfg.setWidth 32) [bitsOf c.head.cfg.toNat 32 4, bitsOf c.head.cfg.toNat 38 4] = .ok u)
    (htag : tagUse c.env.tag + 15 ≤ 58) :
    callResult false site c u =
      let w := c.head.cfg.toNat
      let bid := c.head.cfg.setWidth 32
      let ntag := mkTag (tagUse c.env.tag + 15) (tagFields c.env.tag * 2 ^ 15 + site.toNat)
      .ok (sendInto (sendInto u c bid (bitsOf w 32 4) (bitsOf w 36 2) ntag (passed c 0)) c bid (bitsOf w 38 4) (bitsOf w 42 2) ntag
        (mkPacket 0x00 [c.env.tag, BitVec.ofNat 64 (bitsOf w 48 2 * 2 ^ 36 + bitsOf w 44 4 * 2 ^ 32 + c.block.bid.toNat)]), []) := by
  have hcallee : calleeOf false c u = .ok (u, c.head.cfg.setWidth 32) := rfl
  have hpush : tagPush c.env.tag 15 site.toNat = .ok (mkTag (tagUse c.env.tag + 15) (tagFields c.env.tag * 2 ^ 15 + site.toNat)) := by
    rw [tagPush_eq_ite, if_pos htag, Nat.mod_eq_of_lt site.isLt]
  simp only [callResult, hcallee, reads_bind_ok, hcheck, hpush]
  rfl

theorem retResult_of_entries {c : FireCtx} {u : State} (hlen : lenAt c 1 = 2) (hfmt : (packetAt c 1).fmt = 0x00)
    (hd : (packetSlot true c.fresh (packetAt c 1) 1).toNat < 2 ^ 38)
    (hcheck : checkEntry c u (BitVec.ofNat 32 (packetSlot true c.fresh (packetAt c 1) 1).toNat)
      [bitsOf (packetSlot true c.fresh (packetAt c 1) 1).toNat 32 4] = .ok u)
    (htag : tagValid (packetSlot true c.fresh (packetAt c 1) 0) = true) :
    retResult c u =
      let d := (packetSlot true c.fresh (packetAt c 1) 1).toNat
      .ok (sendInto u c (BitVec.ofNat 32 d) (bitsOf d 32 4) (bitsOf d 36 2) (packetSlot true c.fresh (packetAt c 1) 0) (passed c 0), []) := by
  simp only [retResult]
  rw [require_of_true (by rw [hlen, beq_self_eq_true]), require_of_true (by rw [hfmt]; rfl),
    require_of_true (by rw [Nat.div_eq_of_lt hd, beq_self_eq_true]), readsOr_ok, reads_bind_ok, reads_bind_ok, reads_bind_ok, hcheck,
    reads_bind_ok, require_of_true htag, readsOr_ok, reads_bind_ok]

theorem fireReads_ok {s u : State} {p : Nat} {b : BlockId} {m : MatchedSet} {h : Head} {body : FireCtx → State → Reads (State × List Send)}
    {xs : List Send} (hf : Fires s p b m h) (hb : body (fireCtxOf s p b m h) (consume s p b m) = .ok (u, xs)) :
    fireReads h body s = .next (sendAll u p b xs) :=
  fireWalks_ok (body := fun c _ s => (body c s).mapError (fun e : State × FaultInfo => e.2)) hf
    (congrArg (Except.mapError (fun e : State × FaultInfo => e.2)) hb)

/-- A firing that faults before it has read anything leaves no more than the fault. -/
theorem fireReads_error_unread {s : State} {p : Nat} {b : BlockId} {m : MatchedSet} {h : Head}
    {body : FireCtx → State → Reads (State × List Send)} {e : FaultInfo} (hf : Fires s p b m h)
    (hb : ∀ t, t = s ∨ t = consume s p b m → body (fireCtxOf s p b m h) t = .error (t, e)) :
    fireReads h body s = .next (faultedFrom s p b m h e) :=
  fireWalks_error_of_walks_eq (walks := fun c _ s => readsLeft s (body c s))
    (body := fun c _ s => (body c s).mapError (fun e : State × FaultInfo => e.2)) hf
    (congrArg (Except.mapError (fun e : State × FaultInfo => e.2)) (hb _ (.inr rfl))) (congrArg (readsLeft s) (hb s (.inl rfl)))

/-- Settles O17: the entry is checked against the header of the copy that the plot tracks. -/
theorem blockTransferResults : Obligations.BlockTransferResults := by
  intro s p b m h site k c u w bid tag d bad hf
  refine ⟨fun hk hn => ⟨fun he => ?exit, fun he => ?badExit, fun he he' htag => ?call⟩, fun hlen hfmt hd hk he htag => ?ret⟩
  case exit =>
    refine (fireReads_ok (body := exitResult) hf (u := sendInto u c bid (bitsOf w 32 4) (bitsOf w 36 2) c.env.tag (passed c 0))
      (xs := []) ?_).trans (by rw [sendAll_nil])
    have hcheck := checkEntry_of_entries (c := c) (es := [bitsOf w 32 4]) hk hn (by simpa using he)
    exact congrArg (fun r => r >>= _) hcheck
  case badExit =>
    refine fireReads_error_unread (body := exitResult) hf fun t ht => ?_
    obtain ⟨y, hy, hny⟩ : ∃ y, copyOf t p (siblingBlock c bid) = some y ∧ y.nent = k.nent := by
      rcases ht with rfl | rfl
      · rw [copyOf_consume] at hk
        obtain ⟨y, hy, rfl⟩ := Option.map_eq_some_iff.mp hk
        exact ⟨y, hy, by split <;> rfl⟩
      · exact ⟨k, hk, rfl⟩
    exact congrArg (fun r => r >>= _) (checkEntry_of_no_entry (c := c) hy (hny ▸ hn) (hny ▸ he))
  case call =>
    have hbid : bid = h.cfg.setWidth 32 := BitVec.ofNat_toNat ..
    have hcheck := checkEntry_of_entries (c := c) (es := [bitsOf w 32 4, bitsOf w 38 4]) hk hn (by simpa using ⟨he, he'⟩)
    rw [hbid] at hcheck ⊢
    exact (fireReads_ok (body := callResult false site) hf (callResult_of_entries (c := c) hcheck htag)).trans (by rw [sendAll_nil]; rfl)
  case ret =>
    have hcheck := checkEntry_of_entries (c := c) (es := [bitsOf d 32 4]) hk (by omega) (by simpa using he)
    exact (fireReads_ok (body := retResult) hf (retResult_of_entries (c := c) hlen hfmt hd hcheck htag)).trans (by rw [sendAll_nil]; rfl)

end Sys2Proof
end

section
/-! SUPPORT. The row path and the matrix engine: `wad` (R167, R168), the stations of the engine (R302, R303, R309 to R311) and the
firing of a row (R299, R304 to R306). -/
namespace Sys2Proof
open Machine

/-! ### wad (R167, R168) -/

theorem execWad_of_open {s u : State} {p : Nat} {b : BlockId} {slot : BitVec 7} {h : Head} {ft : BitVec 5} {x : Row}
    (hc : s.cur = .row p b slot) (hu : u = { s with cur := .idle }) (hx : (portRows (engineOf u p b) slot).head? = some x)
    (hlets : wadLets u p b x.env.gslot = true) (hpath : rowPathOpen u p b h true = true) :
    exec (.wad h ft) s = if bitPlaneTag x.fmt && x.fmt.getLsbD 3 == ft.getLsbD 3 then
      .next (sendRow (takeRow u p b slot) p b slot h (repackRow ft x)) else .next (rowFault u p b slot x (causeOnly causeFormat)) := by
  subst hu
  change execWad h ft s = _
  simp only [execWad, hc, hx, hlets, hpath, Bool.and_self, if_true]

/-- Settles O13: the head row of an open port meets the test of its format alone. -/
theorem rowRepacking : Obligations.RowRepacking := by
  intro s p b slot h ft x u hc hx hlets hpath
  have hwad := execWad_of_open (ft := ft) hc (u := u) rfl hx hlets hpath
  refine ⟨fun hbit hkind => ?repacked, fun hother => ?fault⟩
  case repacked => rw [hwad, if_pos (by rw [hbit, hkind, beq_self_eq_true]; rfl)]
  case fault =>
    rw [hwad, if_neg]
    rw [Bool.and_eq_true, beq_iff_eq]
    rintro ⟨hbit, hkind⟩
    exact hother.elim (fun hb => by rw [hb] at hbit; cases hbit) fun hk => hk hkind

/-! ### The stations of the engine (R302, R303, R309 to R311) -/

section
variable {c : FireCtx} {m : MatchedSet} {u : State}

theorem descriptor_ok {n : Nat} (hwide : wideTag (packetAt c 0).fmt = true) (hlen : lenAt c 0 = n) :
    descriptor c n = .ok ((List.range n).map (fun i => (packetSlot true c.fresh (packetAt c 0) i).toNat)) := by
  rw [descriptor, require_of_true hwide, bind_ok, require_of_true (by rw [hlen, beq_self_eq_true]), bind_ok]

theorem pitchAligned_ok {base pitch k : Nat} (hbase : base % k = 0) (hpitch : pitch % k = 0) : pitchAligned u c base pitch k = .ok () := by
  rw [pitchAligned, if_neg (not_not_intro hbase), if_neg (not_not_intro hpitch)]

theorem rowsInside_ok {offs : List Nat} {n : Nat} (hoffs : ∀ o ∈ offs, o + n ≤ (regionOf u c).2) : rowsInside u c offs n = .ok () := by
  have hnone : offs.find? (fun o => decide ((regionOf u c).2 < o + n)) = none :=
    List.find?_eq_none.mpr fun o ho => by simpa using hoffs o ho
  rw [rowsInside, hnone]

/-- What `mgat` leaves where every check passes (R309). -/
theorem mgatResult_ok {ft : BitVec 5} {es : List Nat} (hwide : wideTag (packetAt c 0).fmt = true)
    (hint : intTag (packetAt c 1).fmt = true) (hlen : lenAt c 0 = 2) (hbase : (packetSlot true c.fresh (packetAt c 0) 0).toNat % 16 = 0)
    (hpitch : (packetSlot true c.fresh (packetAt c 0) 1).toNat % 16 = 0)
    (hes : (List.range (lenAt c 1)).mapM (fun j => ownUnsigned c 1 j) = .ok es)
    (hinside : ∀ o ∈ es.map (fun e => (packetSlot true c.fresh (packetAt c 0) 0).toNat +
      e % 2 ^ 26 * (packetSlot true c.fresh (packetAt c 0) 1).toNat), o + rowBytes ft ≤ (regionOf u c).2) :
    mgatResult ft c m u = .ok (modTile { u with nextId := u.nextId + 9 } c.plot (tileOf u c.plot c.block) (fun t =>
      { t with gather := some (Gather.mk (heldOf c m) ft (((es.map (fun e => (packetSlot true c.fresh (packetAt c 0) 0).toNat +
        e % 2 ^ 26 * (packetSlot true c.fresh (packetAt c 0) 1).toNat)).map (fun o => storeAddr c.plot ((regionOf u c).1 + o))).zip
        (es.map (fun e => BitVec.ofNat 6 (e / 2 ^ 26)))) 0 none u.nextId) }), []) := by
  have hd : descriptor c 2 = .ok [(packetSlot true c.fresh (packetAt c 0) 0).toNat, (packetSlot true c.fresh (packetAt c 0) 1).toNat] :=
    descriptor_ok hwide hlen
  simp only [mgatResult, require_of_true (show (wideTag (packetAt c 0).fmt && intTag (packetAt c 1).fmt) = true by rw [hwide, hint]; rfl),
    bind_ok, hd, List.getD_cons_zero, List.getD_cons_succ, pitchAligned_ok hbase hpitch, hes, rowsInside_ok hinside]

/-- The count token of an `mrep` (R310). -/
theorem mrepResult_eq {n k : Nat} (hint : intTag (packetAt c 1).fmt = true) (hlen : lenAt c 1 = 2) (hn : natOperand c 1 0 = .ok n)
    (hk : natOperand c 1 1 = .ok k) (hn64 : n ≤ 64) (hk16 : k ≤ 65535) :
    mrepResult c m u = let j := RepJob.mk (heldOf c m) n k 0 0 none
      if n = 0 then .ok (sendPasses u c.plot j, [])
      else .ok (modTile u c.plot (tileOf u c.plot c.block) (fun t => setRepeat t { repeatAt t c.slot with job := some j }), []) := by
  rw [mrepResult, require_of_true hint, bind_ok, require_of_true (by rw [hlen, beq_self_eq_true]), bind_ok, hn, bind_ok, hk, bind_ok,
    require_of_true (by rw [decide_eq_true hn64, decide_eq_true hk16]; rfl), bind_ok]

theorem mfilResult_eq {n : Nat} (hn : natOperand c 0 0 = .ok n) :
    mfilResult c m u = if n = 0 then .ok (sendFilled u c.plot (Filler.mk (heldOf c m) n n), [])
      else .ok (modTile u c.plot (tileOf u c.plot c.block)
        (fun t => { t with fillers := t.fillers ++ [Filler.mk (heldOf c m) n n] }), []) := by
  rw [mfilResult, hn, bind_ok]
end

/-- A held set whose body sends nothing itself. -/
theorem fireHeld_silent {s t : State} {p : Nat} {b : BlockId} {m : MatchedSet} {h : Head}
    {body : FireCtx → MatchedSet → State → Except FaultInfo (State × List Send)} (hf : Fires s p b m h)
    (hb : body (fireCtxOf s p b m h) m (consume s p b m) = .ok (t, [])) : fireHeld h body s = .next t :=
  (fireHeld_eq_fireState body hf).trans (fireState_silent hf hb)

theorem fireHeld_ok {s t : State} {p : Nat} {b : BlockId} {m : MatchedSet} {h : Head} {xs : List Send}
    {body : FireCtx → MatchedSet → State → Except FaultInfo (State × List Send)} (hf : Fires s p b m h)
    (hb : body (fireCtxOf s p b m h) m (consume s p b m) = .ok (t, xs)) : fireHeld h body s = .next (sendAll t p b xs) :=
  (fireHeld_eq_fireState body hf).trans (fireState_ok hf hb)

/-- Settles O34: each station by the result of its body. -/
theorem matrixFirings : Obligations.MatrixFirings := by
  intro s p n k b m h w pace ft es c u i e held base pitch offs start job hf
  refine ⟨?mwld, fun hact => ?same, fun hact => ?other, fun hwide hint hlen hbase hpitch hes hinside => ?mgat,
    fun hint hlen hn hk hn64 hk16 => ⟨fun h0 => ?mrepNone, fun h0 => ?mrep⟩, fun hn => ⟨fun h0 => ?mfilNone, fun h0 => ?mfil⟩⟩
  case mwld => exact fireHeld_silent (body := mwldResult w) hf rfl
  case same => exact fireHeld_silent (body := mwswResult w) hf (if_pos hact)
  case other => exact fireHeld_silent (body := mwswResult w) hf (if_neg hact)
  case mgat => exact fireHeld_silent (body := mgatResult ft) hf (mgatResult_ok (c := c) hwide hint hlen hbase hpitch hes hinside)
  case mrepNone =>
    refine (fireHeld_silent (body := mrepResult) hf ((mrepResult_eq (c := c) hint hlen hn hk hn64 hk16).trans (if_pos h0))).trans ?_
    subst h0
    simp only [sendPasses, Nat.zero_mul]
    rfl
  case mrep => exact fireHeld_silent (body := mrepResult) hf ((mrepResult_eq (c := c) hint hlen hn hk hn64 hk16).trans (if_neg h0))
  case mfilNone =>
    subst h0
    exact fireHeld_silent (body := mfilResult) hf ((mfilResult_eq (c := c) hn).trans (if_pos rfl))
  case mfil => exact fireHeld_silent (body := mfilResult) hf ((mfilResult_eq (c := c) hn).trans (if_neg h0))

/-! ### mma (R299, R304 to R306) -/

section
variable {s u : State} {p : Nat} {b : BlockId} {slot : BitVec 7} {h : Head} {nr : BitVec 6} {a : BitVec 3} {x : Row}
  (hc : s.cur = .row p b slot) (hu : u = { s with cur := .idle }) (hready : mmaReady u p b slot a.toNat = some x)
  (hfirst : mmaFirst u p b slot = true)
include hc hu hready hfirst

theorem execMma_of_latchRun_error {e : FaultInfo}
    (hrun : latchRun u p b.ctx (accOf (engineOf u p b) a.toNat) x (engineOf u p b) = .error e) :
    exec (.mma h nr a) s = .next (rowFault u p b slot x e) := by
  subst hu
  change execMma h nr a s = _
  simp only [execMma, hc, hready, hfirst, if_true, hrun]

theorem execMma_of_latchRun_ok {y : Acc}
    (hrun : latchRun u p b.ctx (accOf (engineOf u p b) a.toNat) x (engineOf u p b) = .ok y) :
    exec (.mma h nr a) s = .next (countRow (modTile (takeRow u p b slot) p (tileOf u p b) (fun t => { setAcc t a.toNat y with
      array := t.array ++ [ArrayRow.mk slot a.toNat t.act x], lastRow := some x
      fired := slot :: t.fired.filter (fun z => z != slot) })) p b slot) := by
  subst hu
  change execMma h nr a s = _
  simp only [execMma, hc, hready, hfirst, if_true, hrun]
end

section
variable {u : State} {p : Nat} {x : Row} {y : Acc} {t : Tile} {ctx : BitVec 12} {k : RunKind}

theorem latchRun_of_unpaired (hpair : pairKind (weightsOf t t.act).fmt x.fmt = none) :
    latchRun u p ctx y x t = .error (causeOnly causeFormat) := by
  simp only [latchRun, hpair, bind_error]

theorem latchRun_of_other_kind (hpair : pairKind (weightsOf t t.act).fmt x.fmt = some k) (hnone : y.kind ≠ .none) (hkind : y.kind ≠ k) :
    latchRun u p ctx y x t = .error (causeOnly causeFormat) := by
  have hreq : (y.kind == .none || y.kind == k) = false := by simp [hnone, hkind]
  simp only [latchRun, hpair, bind_ok, require_false_bind hreq]

theorem latchRun_of_other_bits (hpair : pairKind (weightsOf t t.act).fmt x.fmt = some .unscaled) (hkind : y.kind = .none ∨ y.kind = .unscaled)
    (hzero : ¬ (y.ka = 0 ∧ y.kb = 0)) (hks : ¬ (y.ka = tagK x.fmt ∧ y.kb = tagK (weightsOf t t.act).fmt)) :
    latchRun u p ctx y x t = .error (causeOnly causeFormat) := by
  have hreq : (y.kind == .none || y.kind == .unscaled) = true := by simpa using hkind
  have hreq' : ((RunKind.unscaled != .unscaled) || (y.ka == 0 && y.kb == 0) ||
      (y.ka == tagK x.fmt && y.kb == tagK (weightsOf t t.act).fmt)) = false := by
    simpa using ⟨not_and.mp hzero, not_and.mp hks⟩
  simp only [latchRun, hpair, bind_ok, require_of_true hreq, if_true, require_false_bind hreq']

/-- What a row latches (R299, R304, R306, R318). -/
theorem latchRun_ok (hpair : pairKind (weightsOf t t.act).fmt x.fmt = some k) (hkind : y.kind = .none ∨ y.kind = k)
    (hks : k = .unscaled → (y.ka = 0 ∧ y.kb = 0) ∨ (y.ka = tagK x.fmt ∧ y.kb = tagK (weightsOf t t.act).fmt)) :
    latchRun u p ctx y x t = .ok
      { (if y.kind = .none then { y with kind := k, tol := toleranceOf u p ctx (rowClass x.fmt) } else y) with
        ka := if k = .unscaled then tagK x.fmt else 0, kb := if k = .unscaled then tagK (weightsOf t t.act).fmt else 0
        ps := true, bound := if y.ps then y.bound else t.act, st := if y.st = .clean then .open else y.st } := by
  have hreq : (y.kind == .none || y.kind == k) = true := by simpa using hkind
  have hreq' : (k != .unscaled || (y.ka == 0 && y.kb == 0) || (y.ka == (if k = .unscaled then tagK x.fmt else 0) &&
      y.kb == (if k = .unscaled then tagK (weightsOf t t.act).fmt else 0))) = true := by
    by_cases hk : k = .unscaled
    · have h2 := hks hk
      subst hk
      simpa using h2
    · simp [hk]
  simp only [latchRun, hpair, bind_ok, require_of_true hreq, require_of_true hreq']
  by_cases hnone : y.kind = .none
  · simp only [if_pos hnone]
  · simp only [if_neg hnone]
end

/-- Settles O35: a row that fires first at its accumulator meets the cases of `latchRun`. -/
theorem rowFirings : Obligations.RowFirings := by
  intro s p b slot h nr a x k u t y fires ka kb z hc ⟨hhead, hmay, hadmits, hlatched, hlatches, hswitch, hroom, hwrites, hfirst⟩
  have hready : mmaReady u p b slot a.toNat = some x := by
    have hadmitted : mmaAdmitted u p b slot a.toNat = some x := by
      rw [mmaAdmitted, hhead, Option.filter, if_pos]
      simp only [Bool.and_eq_true, List.all_eq_true]
      exact ⟨⟨⟨⟨⟨hmay, hadmits⟩, by rw [hwrites]; rfl⟩, hlatched⟩, fun l hl => bne_iff_ne.mpr (hlatches l hl)⟩, by rw [hswitch]; rfl⟩
    rw [mmaReady, arrayRoom, if_pos (decide_eq_true hroom), hadmitted]
  have hfault : latchRun u p b.ctx y x t = .error (causeOnly causeFormat) →
      exec (.mma h nr a) s = .next (rowFault u p b slot x (causeOnly causeFormat)) :=
    execMma_of_latchRun_error (u := u) hc rfl hready hfirst
  refine ⟨fun hpair => ?unpaired, fun hpair => ⟨fun hnone hkind => ?kind, fun hkind hk hzero hks => ?ks, fun hkind hks => ?fires⟩⟩
  case unpaired => exact hfault (latchRun_of_unpaired hpair)
  case kind => exact hfault (latchRun_of_other_kind hpair hnone hkind)
  case ks =>
    subst hk
    exact hfault (latchRun_of_other_bits hpair hkind hzero hks)
  case fires =>
    exact execMma_of_latchRun_ok (u := u) hc rfl hready hfirst
      (latchRun_ok hpair hkind fun hk => by simpa only [ka, kb, if_pos hk] using hks hk)

end Sys2Proof
end

section
/-! SUPPORT. Accumulators: when a set of one may start, and what the instructions of an accumulator do outside a check (R316 to R335). -/
namespace Sys2Proof
open Machine

/-! ### When a set may start (R319, R326) -/

section
variable {t : Tile} {a : Nat} {g : BitVec 3}

theorem admits_iff (x : Acc) (g : BitVec 3) : admits x g = true ↔ (x.st = .open ∨ x.st = .retrying ∨ x.st = .clean) ∧ x.gslot = g := by
  simp only [admits, Bool.and_eq_true, Bool.or_eq_true, beq_iff_eq, or_assoc]

theorem accBusy_iff (x : Acc) : accBusy x = true ↔ x.st = .swap ∨ x.st = .checking ∨ x.draining = true := by
  simp only [accBusy, Bool.or_eq_true, beq_iff_eq, or_assoc]

theorem mwrStarts_iff : mwrStarts t a g = true ↔ (accOf t a).st = .empty ∨ (accOf t a).st = .drained ∨
    (admits (accOf t a) g = true ∧ accInArray t a = false ∧ writesInto t a = false) := by
  simp only [mwrStarts, Bool.or_eq_true, Bool.and_eq_true, beq_iff_eq, Bool.not_eq_true', or_assoc, and_assoc]
end

section
variable {s : State} {c : FireCtx} {h : Head} {a : BitVec 3} {cls : RunCls}

theorem unitReady_mclr_iff : unitReady s c (.mclr h a) = true ↔
    accBusy (accOf (engineOf s c.plot c.block) a.toNat) = false ∧ accInArray (engineOf s c.plot c.block) a.toNat = false ∧
      writesInto (engineOf s c.plot c.block) a.toNat = false := by
  simp only [unitReady, Bool.and_eq_true, Bool.not_eq_true', and_assoc]

theorem unitReady_mwr : unitReady s c (.mwr h cls a) = mwrStarts (engineOf s c.plot c.block) a.toNat c.env.gslot := rfl
end

/-- The states in which an `mwr` starts (R319, R326). -/
theorem mwrStarts_state {t : Tile} {a : Nat} {g : BitVec 3} {x : Acc} (hx : accOf t a = x) (hs : mwrStarts t a g = true) :
    x.st = .empty ∨ x.st = .drained ∨ ((x.st = .open ∨ x.st = .retrying ∨ x.st = .clean) ∧ x.gslot = g) :=
  hx ▸ (mwrStarts_iff.mp hs).imp_right (Or.imp_right fun ⟨hadm, _⟩ => (admits_iff _ _).mp hadm)

/-! ### mwr and mst (R326, R329) -/

section
variable {c : FireCtx} {m : MatchedSet} {u : State} {a : BitVec 3} {n : Nat}

/-- The number on place `i` of the descriptor token (R309). -/
def descriptorNat (c : FireCtx) (i : Nat) : Nat := (packetSlot true c.fresh (packetAt c 0) i).toNat

/-- The offsets of `n` rows that a descriptor names. -/
def rowOffsets (c : FireCtx) (n : Nat) : List Nat := (List.range n).map (fun i => descriptorNat c 0 + i * descriptorNat c 1)

/-- The requests of rows of `bytes` bytes of the group's region. -/
def rowRequests (u : State) (c : FireCtx) (offs : List Nat) (bytes : Nat) : List (Word × Nat × Nat) :=
  offs.flatMap (fun i => cutPhysical (regionVa u c i) (storeAddr c.plot ((regionOf u c).1 + i)) bytes)

/-- The rows of a descriptor are aligned and lie in the group's region. -/
structure RowsFit (u : State) (c : FireCtx) (n bytes : Nat) : Prop where
  base : descriptorNat c 0 % 16 = 0
  pitch : descriptorNat c 1 % 16 = 0
  inside : ∀ o ∈ rowOffsets c n, o + bytes ≤ (regionOf u c).2

/-- An accumulator as an `mwr` of a class that it admits leaves it (R326). -/
def latchClass (u : State) (p : Nat) (ctx : BitVec 12) (cls : RunCls) (y : Acc) : Acc :=
  { (if y.kind = .none then { y with kind := kindOfClass cls, tol := toleranceOf u p ctx cls } else y) with
    st := if y.st = .clean then .open else y.st }

section
variable {cls : RunCls} (hwide : wideTag (packetAt c 0).fmt = true) (hlen : lenAt c 0 = 4) (hone : 1 ≤ descriptorNat c 3)
  (hrows : descriptorNat c 2 + descriptorNat c 3 ≤ 64) (hfit : RowsFit u c (descriptorNat c 3) 256)
  (hkind : (ownAcc u c a).kind = .none ∨ (ownAcc u c a).kind = kindOfClass cls)
include hwide hlen hone hrows hfit hkind

theorem mwrResult_of_admits (hadmits : admits (ownAcc u c a) c.env.gslot = true) :
    mwrResult cls a c m u = .ok (modTile (requestReads
      (putOwn { u with nextId := u.nextId + 1 } c a (latchClass u c.plot c.block.ctx cls (ownAcc u c a)))
      (.gather u.nextId (tileOf u c.plot c.block)) c.plot c.block.ctx c.env.gslot
      (rowRequests u c (rowOffsets c (descriptorNat c 3)) 256)) c.plot (tileOf u c.plot c.block) (fun t =>
        { t with jobs := t.jobs ++ [TileJob.mk (heldOf c m) u.nextId (.write a cls (descriptorNat c 2) (descriptorNat c 3))] }), []) := by
  have hd : descriptor c 4 = .ok [descriptorNat c 0, descriptorNat c 1, descriptorNat c 2, descriptorNat c 3] := descriptor_ok hwide hlen
  have hreq : ((ownAcc u c a).kind == .none || (ownAcc u c a).kind == kindOfClass cls) = true := by simpa using hkind
  have hreq' : (decide (1 ≤ descriptorNat c 3) && decide (descriptorNat c 2 + descriptorNat c 3 ≤ 64)) = true := by simp [hone, hrows]
  have hins : rowsInside u c ((List.range (descriptorNat c 3)).map (fun i => descriptorNat c 0 + i * descriptorNat c 1)) 256 = .ok () :=
    rowsInside_ok hfit.inside
  simp only [mwrResult, hd, bind_ok, List.getD_cons_zero, List.getD_cons_succ, require_of_true hreq', pitchAligned_ok hfit.base hfit.pitch,
    hins, require_of_true hreq, hadmits, if_true]
  by_cases hnone : (ownAcc u c a).kind = .none
  · simp only [if_pos hnone, latchClass, rowRequests, rowOffsets]
  · simp only [if_neg hnone, latchClass, rowRequests, rowOffsets]

theorem mwrResult_of_refuses (hrefuses : admits (ownAcc u c a) c.env.gslot = false) : mwrResult cls a c m u = .ok (status c u 1) := by
  have hd : descriptor c 4 = .ok [descriptorNat c 0, descriptorNat c 1, descriptorNat c 2, descriptorNat c 3] := descriptor_ok hwide hlen
  have hreq : ((ownAcc u c a).kind == .none || (ownAcc u c a).kind == kindOfClass cls) = true := by simpa using hkind
  have hreq' : (decide (1 ≤ descriptorNat c 3) && decide (descriptorNat c 2 + descriptorNat c 3 ≤ 64)) = true := by simp [hone, hrows]
  have hins : rowsInside u c ((List.range (descriptorNat c 3)).map (fun i => descriptorNat c 0 + i * descriptorNat c 1)) 256 = .ok () :=
    rowsInside_ok hfit.inside
  simp only [mwrResult, hd, bind_ok, List.getD_cons_zero, List.getD_cons_succ, require_of_true hreq', pitchAligned_ok hfit.base hfit.pitch,
    hins, require_of_true hreq, hrefuses, Bool.false_eq_true, if_false]
end

section
variable {rm : Rnd} {sh : Bool} {outf : OutFmt} (hwide : wideTag (packetAt c 0).fmt = true) (hlen : lenAt c 0 = 2)
  (hfit : RowsFit u c 64 (64 * outBytes outf))
include hwide hlen hfit

theorem mstResult_of_live (hlive : (ownAcc u c a).st = .clean ∨ (ownAcc u c a).st = .drained)
    (hsh : sh = false ∨ exactKind (ownAcc u c a) = true) :
    mstResult rm sh outf a c m u = .ok (storeRows u c m (ownAcc u c a) rm sh outf (rowOffsets c 64), []) := by
  have hd : descriptor c 2 = .ok [descriptorNat c 0, descriptorNat c 1] := descriptor_ok hwide hlen
  have hl : ((ownAcc u c a).st == .clean || (ownAcc u c a).st == .drained) = true := by simpa using hlive
  have hreq : (!sh || exactKind (ownAcc u c a)) = true := by simpa using hsh
  have hins : rowsInside u c ((List.range 64).map (fun r => descriptorNat c 0 + r * descriptorNat c 1)) (64 * outBytes outf) = .ok () :=
    rowsInside_ok hfit.inside
  simp only [mstResult, hl, hwide, Bool.not_true, Bool.false_or, hreq, Bool.and_self, require_of_true, bind_ok, hd, List.getD_cons_zero,
    List.getD_cons_succ, pitchAligned_ok hfit.base hfit.pitch, hins, if_true, rowOffsets]

theorem mstResult_of_dead (hclean : (ownAcc u c a).st ≠ .clean) (hdrained : (ownAcc u c a).st ≠ .drained) :
    mstResult rm sh outf a c m u = .ok (status c u 1) := by
  have hd : descriptor c 2 = .ok [descriptorNat c 0, descriptorNat c 1] := descriptor_ok hwide hlen
  have hl : ((ownAcc u c a).st == .clean || (ownAcc u c a).st == .drained) = false := by simp [hclean, hdrained]
  have hins : rowsInside u c ((List.range 64).map (fun r => descriptorNat c 0 + r * descriptorNat c 1)) (64 * outBytes outf) = .ok () :=
    rowsInside_ok hfit.inside
  simp only [mstResult, hl, hwide, Bool.not_false, Bool.true_or, Bool.and_self, require_of_true, bind_ok, hd, List.getD_cons_zero,
    List.getD_cons_succ, pitchAligned_ok hfit.base hfit.pitch, hins, Bool.false_eq_true, if_false]
end
end

/-! ### mloc and mrd (R330, R334) -/

section
variable {c : FireCtx} {u : State} {x : Handle} {sel : MrdSel}

theorem mlocResult_of_located {l : Located} (hx : handleAt c u = .ok (some x)) (hst : (handleAcc u c.plot x).st = .faultLoc)
    (hl : (handleAcc u c.plot x).located = some l) : mlocResult c u =
      .ok (u, emit c (mkPacket 0x05 [1, BitVec.ofNat 64 l.i, BitVec.ofNat 64 l.j, l.delta.setWidth 64])) := by
  simp only [mlocResult, hx, bind_ok, Option.bind_some, located, hst, if_true, hl]

theorem mlocResult_of_not_located (hx : handleAt c u = .ok (some x)) (hst : (handleAcc u c.plot x).st ≠ .faultLoc) :
    mlocResult c u = .ok (u, emit c (mkPacket 0x05 [0, 0, 0, 0])) := by
  simp only [mlocResult, hx, bind_ok, Option.bind_some, located, if_neg hst]

theorem mlocResult_of_refused (hx : handleAt c u = .ok none) : mlocResult c u = .ok (u, emit c (mkPacket 0x05 [0, 0, 0, 0])) := by
  simp only [mlocResult, hx, bind_ok, Option.bind_none]

theorem mrdRange_of_not_data (hsel : sel ≠ .data) : mrdRange sel c = .ok (0, 0) := if_neg hsel

theorem mrdRange_data {r n : Nat} (hint : intTag (packetAt c 1).fmt = true) (hlen : lenAt c 1 = 2) (hr : natOperand c 1 0 = .ok r)
    (hn : natOperand c 1 1 = .ok n) (hrows : r + n ≤ 64) : mrdRange .data c = .ok (r, n) := by
  simp only [mrdRange, if_true, require_of_true hint, bind_ok, hlen, beq_self_eq_true, require_of_true, hr, hn, require_of_prop hrows]

/-- Packets under fields that fit are sent under the tag with the field pushed (R97). -/
theorem sendTagged_ok {w : Nat} {xs : List (Nat × Packet)} (htag : tagUse c.env.tag + w ≤ 58) (hxs : ∀ x ∈ xs, x.1 < 2 ^ w) :
    sendTagged c w xs = .ok (xs.flatMap (fun x => sendEach c.head (Token.mk
      { c.env with tag := mkTag (tagUse c.env.tag + w) (tagFields c.env.tag * 2 ^ w + x.1) } x.2))) := by
  have hmap := mapM_eq_ok (f := fun (x : Nat × Packet) => do
      let t ← tagPush c.env.tag w x.1
      .ok (sendEach c.head (Token.mk { c.env with tag := t } x.2)))
    (g := fun x => sendEach c.head (Token.mk { c.env with tag := mkTag (tagUse c.env.tag + w) (tagFields c.env.tag * 2 ^ w + x.1) } x.2))
    (l := xs) (fun x hx => by
      rw [tagPush_eq_ite, if_pos htag, bind_ok, Nat.mod_eq_of_lt (hxs x hx)])
  rw [sendTagged, hmap, bind_ok, List.flatMap_def]

/-- What `mrd` sends of a vector (R334). -/
theorem sendVector_ok {y : Acc} {v : Vec32} (htag : tagUse c.env.tag + 3 ≤ 58) : sendVector c y v = .ok
    ((List.range 8).flatMap (fun g => sendEach c.head (Token.mk
      { c.env with tag := mkTag (tagUse c.env.tag + 3) (tagFields c.env.tag * 8 + g) } (vecPacket y v g)))) := by
  rw [sendVector, sendTagged_ok htag (by simp), List.flatMap_map] <;> rfl

/-- What `mrd` sends of rows (R334). -/
theorem sendRows_ok {y : Acc} {r n : Nat} (htag : tagUse c.env.tag + 9 ≤ 58) (hrows : r + n ≤ 64) :
    sendTagged c 9 ((List.range n).flatMap (fun i => (List.range 8).map (fun g => (8 * (r + i) + g, vecPacket y (accData y (r + i)) g)))) =
      .ok ((List.range n).flatMap (fun i => (List.range 8).flatMap (fun g => sendEach c.head (Token.mk
        { c.env with tag := mkTag (tagUse c.env.tag + 9) (tagFields c.env.tag * 512 + 8 * (r + i) + g) }
        (vecPacket y (accData y (r + i)) g))))) := by
  rw [sendTagged_ok htag, List.flatMap_assoc]
  · simp only [List.flatMap_map, Nat.add_assoc] <;> rfl
  · intro x hx
    simp only [List.mem_flatMap, List.mem_map, List.mem_range] at hx
    obtain ⟨i, hi, g, hg, rfl⟩ := hx
    change 8 * (r + i) + g < 512
    omega

theorem mrdResult_of_bad {r n : Nat} (hx : handleAt c u = .ok (some x)) (hrange : mrdRange sel c = .ok (r, n))
    (hbad : readsBad (handleAcc u c.plot x) sel r n = true) :
    mrdResult sel c u = .error (FaultInfo.mk causeMemUncorrectable 0 (Config.freeWord u.fresh)) := by
  simp only [mrdResult, hx, bind_ok, hrange, hbad, if_true]

theorem mrdResult_of_refused (hx : handleAt c u = .ok none) (hsel : sel ≠ .data) :
    mrdResult sel c u = .ok (u, sendTo c.head.t0 (Token.mk c.env (statusPacket 1))) := by
  simp only [mrdResult, hx, bind_ok, mrdRange_of_not_data hsel]

theorem mrdResult_status (hx : handleAt c u = .ok (some x)) : mrdResult .status c u =
    .ok (u, emit c (mkPacket 0x04 [accStatus (handleAcc u c.plot x), (handleAcc u c.plot x).origin])) := by
  simp only [mrdResult, hx, bind_ok, mrdRange_of_not_data (show MrdSel.status ≠ .data by decide), readsBad, Bool.false_eq_true, if_false]

/-- The vector of an accumulator that a selector names (R334). -/
def mrdVector (y : Acc) : MrdSel → Vec32
  | .cc => y.cc
  | .cr => y.cr
  | _ => y.s

theorem mrdResult_vector (hx : handleAt c u = .ok (some x)) (hsel : sel ∈ [MrdSel.cc, .cr, .sum])
    (hgood : readsBad (handleAcc u c.plot x) sel 0 0 = false) (htag : tagUse c.env.tag + 3 ≤ 58) :
    mrdResult sel c u = .ok (u, (List.range 8).flatMap (fun g => sendEach c.head (Token.mk
      { c.env with tag := mkTag (tagUse c.env.tag + 3) (tagFields c.env.tag * 8 + g) }
      (vecPacket (handleAcc u c.plot x) (mrdVector (handleAcc u c.plot x) sel) g)))) := by
  have hrange : mrdRange sel c = .ok (0, 0) := mrdRange_of_not_data (by rintro rfl; simp at hsel)
  simp only [List.mem_cons, List.not_mem_nil, or_false] at hsel
  rcases hsel with rfl | rfl | rfl
  all_goals simp only [mrdResult, hx, bind_ok, hrange, hgood, Bool.false_eq_true, if_false, sendVector_ok htag, mrdVector]

theorem mrdResult_data {r n : Nat} (hx : handleAt c u = .ok (some x)) (hrange : mrdRange .data c = .ok (r, n)) (hrows : r + n ≤ 64)
    (hgood : readsBad (handleAcc u c.plot x) .data r n = false) (htag : tagUse c.env.tag + 9 ≤ 58) :
    mrdResult .data c u = .ok (u, (List.range n).flatMap (fun i => (List.range 8).flatMap (fun g => sendEach c.head (Token.mk
      { c.env with tag := mkTag (tagUse c.env.tag + 9) (tagFields c.env.tag * 512 + 8 * (r + i) + g) }
      (vecPacket (handleAcc u c.plot x) (accData (handleAcc u c.plot x) (r + i)) g))))) := by
  simp only [mrdResult, hx, bind_ok, hrange, hgood, Bool.false_eq_true, if_false, sendRows_ok htag hrows]
end

/-- Settles O36: `unitReady` by the state of the accumulator, and each instruction by the result of its body. -/
theorem accumulatorFirings : Obligations.AccumulatorFirings := by
  intro s p r n v b m h a cls rm sh outf k x l c u y d kind inside offs z tile start w asks working named x0 starts g uncorrectable vec hf
  refine ⟨⟨fun hbusy => ⟨?clrBusy, ?wrBusy⟩, fun hrows => ?clrRows, fun hfault => ?wrFault, fun he hd hg => ?wrOther, fun hed => ?wrRefused,
    fun harr hwr => ⟨fun hsw hch hdr => ?clrStarts, fun hst hg => ?wrStarts⟩⟩, fun _ => ?mclr,
    fun hwide hlen hone hrows ⟨hbase, hpitch, hins⟩ hkind => ⟨fun _ hadm => ?mwr, fun hed => ?mwrNo⟩,
    fun hwide hlen ⟨hbase, hpitch, hins⟩ => ⟨fun hlive hsh => ?mst, fun hcl hdr => ?mstNo⟩,
    fun hx => ⟨fun hst hl => ?mloc, fun hst => ?mlocNone, ?status, fun sel hsel hgood htag => ?vector, fun sel hsel hbad => ?vectorBad,
      fun hint hlen hr hn hrows hbad => ?dataBad, fun hgood hint hlen hr hn hrows htag => ?data⟩,
    fun hx => ⟨?mlocRefused, ?mrdRefused⟩, fun hv => ?mtol⟩
  case clrBusy =>
    refine Bool.eq_false_iff.mpr fun hs => ?_
    obtain ⟨hnot, -, -⟩ := unitReady_mclr_iff.mp hs
    exact Bool.eq_false_iff.mp hnot ((accBusy_iff _).mpr (hbusy.imp_right .inl))
  case wrBusy =>
    refine Bool.eq_false_iff.mpr fun hs => ?_
    have hst := mwrStarts_state (x := x0) rfl hs
    rcases hbusy with hb | hb <;> simp [hb] at hst
  case clrRows =>
    refine Bool.eq_false_iff.mpr fun hs => ?_
    obtain ⟨-, harr, hwr⟩ := unitReady_mclr_iff.mp hs
    exact hrows.elim (Bool.eq_false_iff.mp harr) (Bool.eq_false_iff.mp hwr)
  case wrFault =>
    refine Bool.eq_false_iff.mpr fun hs => ?_
    have hst := mwrStarts_state (x := x0) rfl hs
    rcases hfault with hb | hb <;> simp [hb] at hst
  case wrOther =>
    refine Bool.eq_false_iff.mpr fun hs => ?_
    rcases mwrStarts_state (x := x0) rfl hs with h | h | ⟨-, h⟩
    · exact he h
    · exact hd h
    · exact hg h
  case wrRefused => exact mwrStarts_iff.mpr (hed.imp_right .inl)
  case clrStarts =>
    refine unitReady_mclr_iff.mpr ⟨Bool.eq_false_iff.mpr fun hbusy => ?_, harr, hwr⟩
    rcases (accBusy_iff _).mp hbusy with h | h | h
    · exact hsw h
    · exact hch h
    · exact Bool.eq_false_iff.mp hdr h
  case wrStarts =>
    refine mwrStarts_iff.mpr (.inr (.inr ⟨(admits_iff _ _).mpr ⟨?_, hg⟩, harr, hwr⟩))
    exact hst.elim (fun h => .inr (.inr h)) (fun h => h.elim .inl fun h => .inr (.inl h))
  case mclr => exact fireHeld_silent (body := mclrResult a) hf rfl
  case mwr =>
    exact fireHeld_silent (body := mwrResult cls a) hf (mwrResult_of_admits (c := c) hwide hlen hone hrows ⟨hbase, hpitch, hins⟩ hkind hadm)
  case mwrNo =>
    refine fireHeld_ok (body := mwrResult cls a) hf
      (mwrResult_of_refuses (c := c) hwide hlen hone hrows ⟨hbase, hpitch, hins⟩ hkind (Bool.eq_false_iff.mpr fun hadm => ?_))
    obtain ⟨hst, -⟩ := (admits_iff y _).mp hadm
    rcases hed with he | he <;> simp [he] at hst
  case mst =>
    exact fireHeld_silent (body := mstResult rm sh outf a) hf (mstResult_of_live (c := c) hwide hlen ⟨hbase, hpitch, hins⟩ hlive hsh)
  case mstNo =>
    exact fireHeld_ok (body := mstResult rm sh outf a) hf (mstResult_of_dead (c := c) hwide hlen ⟨hbase, hpitch, hins⟩ hcl hdr)
  case mloc => exact fireState_ok (body := mlocResult) hf (mlocResult_of_located (c := c) hx hst hl)
  case mlocNone => exact fireState_ok (body := mlocResult) hf (mlocResult_of_not_located (c := c) hx hst)
  case status => exact fireState_ok (body := mrdResult .status) hf (mrdResult_status (c := c) hx)
  case vector => exact fireState_ok (body := mrdResult sel) hf (mrdResult_vector (c := c) hx hsel hgood htag)
  case vectorBad =>
    exact fireState_error (body := mrdResult sel) hf
      (mrdResult_of_bad (c := c) hx (mrdRange_of_not_data (by rintro rfl; simp at hsel)) hbad)
  case dataBad =>
    exact fireState_error (body := mrdResult .data) hf (mrdResult_of_bad (c := c) hx (mrdRange_data hint hlen hr hn hrows) hbad)
  case data =>
    exact fireState_ok (body := mrdResult .data) hf
      (mrdResult_data (c := c) hx (mrdRange_data hint hlen hr hn hrows) hrows hgood htag)
  case mlocRefused => exact fireState_ok (body := mlocResult) hf (mlocResult_of_refused (c := c) hx)
  case mrdRefused =>
    exact fireState_ok (body := mrdResult .status) hf (mrdResult_of_refused (c := c) hx (by decide))
  case mtol => exact fireState_ok (body := mtolResult k) hf (congrArg (fun r => r >>= _) (show natOperand c 1 0 = .ok v from hv))

end Sys2Proof
end

section
/-! SUPPORT. Checks, drains and retries of an accumulator (R319, R327, R328, R331, R332). -/
namespace Sys2Proof
open Machine

/-! ### When a check is refused, and when it starts (R319, R327) -/

theorem checkRefused_iff (x : Acc) (g : BitVec 3) (drain : Bool) :
    checkRefused x g drain = true ↔ x.st = .empty ∨ x.gslot ≠ g ∨ (x.st = .drained ∧ drain = false) := by
  simp only [checkRefused, Bool.or_eq_true, Bool.and_eq_true, beq_iff_eq, bne_iff_ne, Bool.not_eq_true', or_assoc]

theorem checkRefused_eq_false {x : Acc} {g : BitVec 3} {drain : Bool} (he : x.st ≠ .empty) (hg : x.gslot = g)
    (hd : drain = false → x.st ≠ .drained) : checkRefused x g drain = false := by
  refine Bool.eq_false_iff.mpr fun h => ?_
  rcases (checkRefused_iff x g drain).mp h with h | h | ⟨h, hdrain⟩
  · exact he h
  · exact h hg
  · exact hd hdrain h

/-- A check that is not refused starts once no other and no row of an `mwr` stands before it (R319). -/
theorem checkStarts_iff {t : Tile} {a : Nat} {g : BitVec 3} {drain : Bool} {x : Acc} (hx : accOf t a = x)
    (hno : checkRefused x g drain = false) :
    checkStarts t a g drain = true ↔ accBusy x = false ∧ x.check = none ∧ writesInto t a = false := by
  subst hx
  simp only [checkStarts, hno, Bool.false_or, Bool.and_eq_true, Bool.not_eq_true', Option.isNone_iff_eq_none, and_assoc]

theorem checkStarts_of_idle {t : Tile} {a : Nat} {g : BitVec 3} {drain : Bool} {x : Acc} (hx : accOf t a = x)
    (hbusy : accBusy x = false) (hcheck : x.check = none) (hwr : writesInto t a = false) : checkStarts t a g drain = true := by
  subst hx
  simp only [checkStarts, hbusy, hcheck, hwr, Option.isNone_none, Bool.not_false, Bool.and_self, Bool.or_true]

theorem accBusy_eq_false {x : Acc} (hsw : x.st ≠ .swap) (hch : x.st ≠ .checking) (hdr : x.draining = false) : accBusy x = false := by
  refine Bool.eq_false_iff.mpr fun h => ?_
  rcases (accBusy_iff x).mp h with h | h | h
  · exact hsw h
  · exact hch h
  · exact Bool.eq_false_iff.mp hdr h

/-- No check starts while a push, a comparison or another check of the run stands (R319). -/
theorem not_checkStarts {t : Tile} {a : Nat} {g : BitVec 3} {drain : Bool} {x : Acc} (hx : accOf t a = x)
    (hno : checkRefused x g drain = false) (hbusy : x.st = .swap ∨ x.st = .checking ∨ x.check.isSome = true) :
    ¬ checkStarts t a g drain = true := by
  intro hs
  obtain ⟨hidle, hcheck, -⟩ := (checkStarts_iff hx hno).mp hs
  rcases hbusy with h | h | h
  · exact Bool.eq_false_iff.mp hidle ((accBusy_iff x).mpr (.inl h))
  · exact Bool.eq_false_iff.mp hidle ((accBusy_iff x).mpr (.inr (.inl h)))
  · rw [hcheck] at h
    cases h

/-! ### mchk, mdrn and mfix (R327, R328, R331) -/

section
variable {c : FireCtx} {m : MatchedSet} {u : State} {a : BitVec 3}

theorem mchkResult_of_refused (hno : checkRefused (ownAcc u c a) c.env.gslot false = true) : mchkResult a c m u = .ok (status c u 1) :=
  if_pos hno

theorem mchkResult_of_run (hno : checkRefused (ownAcc u c a) c.env.gslot false = false) :
    mchkResult a c m u = .ok (putOwn u c a (beginCheck (ownAcc u c a) (Check.mk (heldOf c m) .mchk none)), []) :=
  if_neg (Bool.eq_false_iff.mp hno)

section
variable {done sh : Bool} {outf : OutFmt} (hwide : wideTag (packetAt c 1).fmt = true) (hlen : lenAt c 1 = 2)
  (haddr : (packetSlot true (c.fresh + 8) (packetAt c 1) 0).toNat % 64 = 0)
  (hpitch : (packetSlot true (c.fresh + 8) (packetAt c 1) 1).toNat % 64 = 0)
include hwide hlen haddr hpitch

theorem mdrnResult_of_refused (hno : checkRefused (ownAcc u c a) c.env.gslot true = true) :
    mdrnResult done sh outf a c m u = .ok (u, drainStatus done (heldOf c m) 1) := by
  simp only [mdrnResult, hno, hwide, Bool.true_or, Bool.and_self, require_of_true, bind_ok, hlen, beq_self_eq_true, haddr, hpitch,
    ne_eq, not_true_eq_false, if_false, if_true]

section
variable (hno : checkRefused (ownAcc u c a) c.env.gslot true = false) (hsh : sh = false ∨ exactKind (ownAcc u c a) = true)
include hno hsh

theorem mdrnResult_of_run (hst : (ownAcc u c a).st ≠ .drained) :
    mdrnResult done sh outf a c m u = .ok (putOwn u c a (beginCheck (ownAcc u c a) (Check.mk (heldOf c m)
      (.mdrn (packetSlot true (c.fresh + 8) (packetAt c 1) 0) (packetSlot true (c.fresh + 8) (packetAt c 1) 1)) none)), []) := by
  have hreq : (!sh || exactKind (ownAcc u c a)) = true := by simpa using hsh
  simp only [mdrnResult, hno, hwide, Bool.false_or, Bool.true_and, hreq, require_of_true, bind_ok, hlen, beq_self_eq_true, haddr, hpitch,
    ne_eq, not_true_eq_false, if_false, Bool.false_eq_true, hst]

theorem mdrnResult_of_drained {t : State} (hst : (ownAcc u c a).st = .drained)
    (ht : drainTranslate u c.plot c.block.ctx (packetSlot true (c.fresh + 8) (packetAt c 1) 0)
      (packetSlot true (c.fresh + 8) (packetAt c 1) 1) (64 * outBytes outf) = .ok t) :
    mdrnResult done sh outf a c m u = .ok (putOwn t c a { ownAcc u c a with check := some (Check.mk (heldOf c m)
      (.mdrn (packetSlot true (c.fresh + 8) (packetAt c 1) 0) (packetSlot true (c.fresh + 8) (packetAt c 1) 1)) none), draining := true }, []) := by
  have hreq : (!sh || exactKind (ownAcc u c a)) = true := by simpa using hsh
  simp only [mdrnResult, hno, hwide, Bool.false_or, Bool.true_and, hreq, require_of_true, bind_ok, hlen, beq_self_eq_true, haddr, hpitch,
    ne_eq, not_true_eq_false, if_false, Bool.false_eq_true, hst, if_true, ht]
end
end

section
variable {i j : Nat} {d : Int} (hint : intTag (packetAt c 1).fmt = true) (hlen : lenAt c 1 = 4) (hi : natOperand c 1 1 = .ok i)
  (hj : natOperand c 1 2 = .ok j) (hd : intOperand c 1 3 = .ok d)
include hint hlen hi hj hd

theorem mfixResult_of_no_handle (hx : handleAt c u = .ok none) : mfixResult c m u = .ok (status c u 1) := by
  simp only [mfixResult, hx, bind_ok, hint, require_of_true, hlen, beq_self_eq_true, hi, hj, hd]

theorem mfixResult_of_handle {x : Handle} (hx : handleAt c u = .ok (some x)) : mfixResult c m u =
    if (handleAcc u c.plot x).st = .faultLoc ∧ i < 64 ∧ j < 64 then .ok (putAcc u c.plot x.tile x.acc (beginCheck
      (correctElement (handleAcc u c.plot x) i j (BitVec.ofInt 32 d)) (Check.mk (heldOf c m) .mfix none)), [])
    else .ok (status c u 1) := by
  simp only [mfixResult, hx, bind_ok, hint, require_of_true, hlen, beq_self_eq_true, hi, hj, hd]
end

/-! ### mrty (R332) -/

section
variable {x : Handle} {bb : BlockId}

theorem mrtyResult_of_no_handle (hx : handleAt c u = .ok none) : mrtyResult c u = .ok (status c u 1) := by
  simp only [mrtyResult, hx, bind_ok]

variable (hx : handleAt c u = .ok (some x)) (hb : blockOnTile u c.plot x.tile = some bb)
include hx hb

theorem mrtyResult_of_sound (hloc : (handleAcc u c.plot x).st ≠ .faultLoc) (hmulti : (handleAcc u c.plot x).st ≠ .faultMulti) :
    mrtyResult c u = .ok (status c u 1) := by
  simp only [mrtyResult, hx, bind_ok, hb]
  rw [if_pos ⟨hloc, hmulti⟩]

variable (hst : (handleAcc u c.plot x).st = .faultLoc ∨ (handleAcc u c.plot x).st = .faultMulti)
include hst

theorem mrtyResult_of_faulty (hrc : (handleAcc u c.plot x).rc < retryMax u c.plot c.block.ctx) :
    mrtyResult c u = .ok (status c (retryRun u c.plot bb x (handleAcc u c.plot x)) 0) := by
  simp only [mrtyResult, hx, bind_ok, hb]
  rw [if_neg (fun h => hst.elim h.1 h.2), if_neg (Nat.not_le.mpr hrc)]

theorem mrtyResult_of_exhausted (hrc : retryMax u c.plot c.block.ctx ≤ (handleAcc u c.plot x).rc) :
    mrtyResult c u = .error (FaultInfo.mk causeRetryExhausted 0 (BitVec.ofNat 64 (x.tile * 8 + x.acc))) := by
  simp only [mrtyResult, hx, bind_ok, hb]
  rw [if_neg (fun h => hst.elim h.1 h.2), if_pos hrc]
  rfl
end
end

/-- A firing that walks and sends nothing itself. -/
theorem fireWalks_silent {s t : State} {p : Nat} {b : BlockId} {m : MatchedSet} {h : Head}
    {walks : FireCtx → FaultInfo → State → State} {body : FireCtx → MatchedSet → State → Except FaultInfo (State × List Send)}
    (hf : Fires s p b m h) (hb : body (fireCtxOf s p b m h) m (consume s p b m) = .ok (t, [])) : fireWalks h walks body s = .next t :=
  (fireWalks_ok hf hb).trans (by rw [sendAll_nil])

/-- Settles O37: `checkStarts` by the state of the accumulator, and each instruction by the result of its body. -/
theorem checkFirings : Obligations.CheckFirings := by
  intro s t p i j d b bb m h a sc done sh rm outf x c u y held addr pitch begins drain named x0 starts hf
  refine ⟨fun he hg hbusy => ⟨?drnBusy, fun hd => ?chkBusy⟩, fun hsw hch hdr hck hwr => ⟨?chkStarts, ?drnStarts⟩,
    fun _ he hg hd => ?mchk, fun hno => ?mchkNo,
    fun hwide hlen haddr hpitch => ⟨fun hno => ?mdrnNo, fun _ he hg hsh => ⟨fun hd => ?mdrn, fun hd ht => ?mdrnAgain⟩⟩,
    fun hint hlen hi hj hd => ⟨fun hx => ?mfixNone, fun hx hst hi64 hj64 => ?mfix, fun hx hno => ?mfixNo⟩, fun hx => ?mrtyNone,
    fun hx hb => ⟨fun hloc hmulti => ?mrtySound, fun _ hst => ⟨fun hrc => ?mrty, fun hrc => ?mrtyOut⟩⟩⟩
  case drnBusy => exact not_checkStarts (x := x0) rfl (checkRefused_eq_false he hg fun h => by cases h) hbusy
  case chkBusy => exact not_checkStarts (x := x0) rfl (checkRefused_eq_false he hg fun _ => hd) hbusy
  case chkStarts => exact checkStarts_of_idle (x := x0) rfl (accBusy_eq_false hsw hch hdr) hck hwr
  case drnStarts => exact checkStarts_of_idle (x := x0) rfl (accBusy_eq_false hsw hch hdr) hck hwr
  case mchk => exact fireHeld_silent (body := mchkResult a) hf (mchkResult_of_run (c := c) (checkRefused_eq_false he hg fun _ => hd))
  case mchkNo =>
    refine fireHeld_ok (body := mchkResult a) hf (mchkResult_of_refused (c := c) ((checkRefused_iff _ _ _).mpr ?_))
    exact hno.imp_right (Or.imp_right fun h => ⟨h, rfl⟩)
  case mdrnNo =>
    exact fireWalks_ok (body := mdrnResult done sh outf a) hf
      (mdrnResult_of_refused (c := c) hwide hlen haddr hpitch ((checkRefused_iff _ _ _).mpr (hno.imp_right .inl)))
  case mdrn =>
    exact fireWalks_silent (body := mdrnResult done sh outf a) hf (mdrnResult_of_run (c := c) hwide hlen haddr hpitch
      (checkRefused_eq_false he hg fun h => by cases h) hsh hd)
  case mdrnAgain =>
    exact fireWalks_silent (body := mdrnResult done sh outf a) hf (mdrnResult_of_drained (c := c) hwide hlen haddr hpitch
      (checkRefused_eq_false he hg fun h => by cases h) hsh hd ht)
  case mfixNone => exact fireHeld_ok (body := mfixResult) hf (mfixResult_of_no_handle (c := c) hint hlen hi hj hd hx)
  case mfix =>
    exact fireHeld_silent (body := mfixResult) hf
      ((mfixResult_of_handle (c := c) hint hlen hi hj hd hx).trans (if_pos ⟨hst, hi64, hj64⟩))
  case mfixNo =>
    exact fireHeld_ok (body := mfixResult) hf
      ((mfixResult_of_handle (c := c) hint hlen hi hj hd hx).trans (if_neg fun ⟨hst, hi64, hj64⟩ =>
        hno.elim (fun h => h hst) fun h => h.elim (Nat.not_le.mpr hi64) (Nat.not_le.mpr hj64)))
  case mrtyNone => exact fireState_ok (body := mrtyResult) hf (mrtyResult_of_no_handle (c := c) hx)
  case mrtySound => exact fireState_ok (body := mrtyResult) hf (mrtyResult_of_sound (c := c) hx hb hloc hmulti)
  case mrty => exact fireState_ok (body := mrtyResult) hf (mrtyResult_of_faulty (c := c) hx hb hst hrc)
  case mrtyOut => exact fireState_error (body := mrtyResult) hf (mrtyResult_of_exhausted (c := c) hx hb hst hrc)

end Sys2Proof
end

section
/-! SUPPORT. The control unit's circular buffers, frames and permits (R277 to R292) and the firing of a copy (R283, R284). -/
namespace Sys2Proof
open Machine

/-! ### Circular buffers (R277 to R280) -/

section
variable {c : FireCtx} {m : MatchedSet} {u : State} {cb : BitVec 4}

/-- A buffer is idle: nothing of it is reserved or acquired, and nobody waits for it (R277). -/
def bufferIdle (u : State) (p : Nat) (g : BitVec 3) (cb : Nat) : Prop :=
  cbReserved (bufferAt u p g cb) = 0 ∧ cbAcquired (bufferAt u p g cb) = 0 ∧
    (plotAt u p).unit.waiters.any (inQueue false g cb) = false ∧ (plotAt u p).unit.waiters.any (inQueue true g cb) = false

theorem any_or_eq_false_iff {α : Type} (f g : α → Bool) (l : List α) :
    l.any (fun x => f x || g x) = false ↔ l.any f = false ∧ l.any g = false := by
  simp only [List.any_eq_false, Bool.or_eq_true, not_or, forall_and]

/-- The test of `cbini` is that its buffer is idle. -/
theorem bufferIdle_iff (u : State) (p : Nat) (g : BitVec 3) (cb : Nat) : bufferIdle u p g cb ↔
    (cbReserved (bufferAt u p g cb) == 0 && cbAcquired (bufferAt u p g cb) == 0 &&
      !(plotAt u p).unit.waiters.any (fun w => inQueue false g cb w || inQueue true g cb w)) = true := by
  rw [Bool.and_eq_true, Bool.and_eq_true, beq_iff_eq, beq_iff_eq, Bool.not_eq_true', any_or_eq_false_iff, and_assoc]
  rfl

/-- What a `cbini` leaves whose operands give a geometry. -/
def cbiniAnswer (u : State) (c : FireCtx) (cb : BitVec 4) (fresh : CircBuf) (idle : Bool) : State × List Send :=
  (if idle then setBuffer u c.plot c.env.gslot cb.toNat fresh else u, emit c (statusPacket (natOfBool (!idle))))

/-- The buffer that a `cbini` of length 1 makes (R277). -/
def declaredFresh (u : State) (c : FireCtx) (cb : BitVec 4) : CircBuf :=
  let x := bufferAt u c.plot c.env.gslot cb.toNat
  cbFresh x.declared x.declared.ofs x.declared.slots x.declared.slotBytes

theorem cbiniResult_of_declared {idle : Bool} (hlen : lenAt c 0 = 1)
    (hidle : bufferIdle u c.plot c.env.gslot cb.toNat ↔ idle = true) :
    cbiniResult cb c u = .ok (cbiniAnswer u c cb (declaredFresh u c cb) idle) := by
  have htest := Bool.eq_iff_iff.mpr ((bufferIdle_iff ..).symm.trans hidle)
  simp only [cbiniResult, hlen, beq_self_eq_true, Bool.true_or, require_of_true, bind_ok, if_true, htest]
  rfl

theorem cbiniResult_of_geometry {ofs n bytes : Nat} (hlen : lenAt c 0 = 3) (hofs : natOperand c 0 0 = .ok ofs)
    (hn : natOperand c 0 1 = .ok n) (hbytes : natOperand c 0 2 = .ok bytes) (ho : ofs % 16 = 0) (hb : bytes % 16 = 0)
    (hfit : 1 ≤ n ∧ n ≤ 256 ∧ 16 ≤ bytes ∧ bytes ≤ 65536 ∧ ofs + n * bytes ≤ ((groupAt u c.plot c.env.gslot).map regionBytes).getD 0)
    (hidle : bufferIdle u c.plot c.env.gslot cb.toNat) :
    cbiniResult cb c u = .ok (cbiniAnswer u c cb (cbFresh (bufferAt u c.plot c.env.gslot cb.toNat).declared ofs n bytes) true) := by
  have htest := (bufferIdle_iff ..).mp hidle
  have hne : ¬ (3 : Nat) = 1 := by decide
  simp only [cbiniResult, hlen]
  rw [require_of_true (by decide), bind_ok, if_neg hne, hofs, bind_ok, hn, bind_ok, hbytes, bind_ok,
    require_of_true (by rw [ho, hb]; rfl), bind_ok,
    require_of_prop (by revert hfit; cases groupAt u c.plot c.env.gslot <;> exact id), bind_ok, bind_ok, htest]
  rfl

section
variable {acquire : Bool} {k : Nat} {g : BitVec 3} {x : CircBuf} (hg : g = c.env.gslot) (hx : x = bufferAt u c.plot g cb.toNat)
  (hk : natOperand c 1 0 = .ok k) (hslots : x.slots ≠ 0) (hle : k ≤ x.slots)
include hg hx hk hslots hle

/-- The slots that a `cbres` or `cbacq` finds free, and the pointer that it moves (R278). -/
theorem takeResult_eq (wait : Bool) : takeResult acquire wait cb c m u =
    if k = 0 then .ok (sendSlot u c.plot (heldOf c m) (slotVa u c.plot g x (cbSlot x (if acquire then x.ap else x.rp))) 1
      (cbSlot x (if acquire then x.ap else x.rp)), [])
    else if wait then
      .ok (requestSlots u c.plot g (heldOf c m) (if acquire then .acquire cb.toNat k else .reserve cb.toNat k), [])
    else if (plotAt u c.plot).unit.waiters.any (inQueue acquire g cb.toNat) ∨ (if acquire then cbFilled x else cbFree x) < k then
      .ok (sendSlot u c.plot (heldOf c m) 0 0 0, [])
    else .ok (takeSlots acquire u c.plot g cb.toNat k (heldOf c m), []) := by
  subst hg hx
  have hreq : ((bufferAt u c.plot c.env.gslot cb.toNat).slots != 0 &&
      decide (k ≤ (bufferAt u c.plot c.env.gslot cb.toNat).slots)) = true := by
    rw [Bool.and_eq_true]
    exact ⟨bne_iff_ne.mpr hslots, decide_eq_true hle⟩
  simp only [takeResult, hk, bind_ok, require_of_true hreq]

variable (hk0 : k ≠ 0)
include hk0

theorem takeResult_waiting : takeResult acquire true cb c m u =
    .ok (requestSlots u c.plot g (heldOf c m) (if acquire then .acquire cb.toNat k else .reserve cb.toNat k), []) :=
  (takeResult_eq hg hx hk hslots hle true).trans ((if_neg hk0).trans (if_pos rfl))

theorem takeResult_of_room (hq : (plotAt u c.plot).unit.waiters.any (inQueue acquire g cb.toNat) = false)
    (hroom : k ≤ if acquire then cbFilled x else cbFree x) :
    takeResult acquire false cb c m u = .ok (takeSlots acquire u c.plot g cb.toNat k (heldOf c m), []) := by
  have hno : ¬ ((plotAt u c.plot).unit.waiters.any (inQueue acquire g cb.toNat) = true ∨ (if acquire then cbFilled x else cbFree x) < k) :=
    fun h => h.elim (Bool.eq_false_iff.mp hq) (Nat.not_lt.mpr hroom)
  exact (takeResult_eq hg hx hk hslots hle false).trans ((if_neg hk0).trans ((if_neg Bool.false_ne_true).trans (if_neg hno)))

theorem takeResult_of_no_room (hno : (plotAt u c.plot).unit.waiters.any (inQueue acquire g cb.toNat) = true ∨
      (if acquire then cbFilled x else cbFree x) < k) :
    takeResult acquire false cb c m u = .ok (sendSlot u c.plot (heldOf c m) 0 0 0, []) :=
  (takeResult_eq hg hx hk hslots hle false).trans ((if_neg hk0).trans ((if_neg Bool.false_ne_true).trans (if_pos hno)))
end

/-- Slots of a buffer that stand marked (R279). -/
theorem cbRun_all_iff (x : CircBuf) (i k : Nat) (mark : SlotMark) :
    (cbRun x i k).all (fun j => x.marks[j]? == some mark) = true ↔ ∀ j < k, x.marks[(i + j) % x.slots]? = some mark := by
  simp only [cbRun, List.all_map, List.all_eq_true, List.mem_range, Function.comp_apply, beq_iff_eq]

section
variable {release : Bool} {i k : Nat} (hi : natOperand c 0 0 = .ok i) (hk : natOperand c 1 0 = .ok k)
include hi hk

/-- The slots that a `cbcom` or `cbrel` gives back: the mark that they must have (R279). -/
def givenMark (release : Bool) : SlotMark := if release then .acq else .resv

/-- The buffer with them given back. -/
def givenBuffer (release : Bool) (x : CircBuf) (i k : Nat) : CircBuf :=
  if release then advanceRelease (cbAcquired x) (cbMark x i k .reld) else advanceCommit (cbReserved x) (cbMark x i k .comm)

theorem giveResult_of_marked (hgiven : i < (bufferAt u c.plot c.env.gslot cb.toNat).slots ∧ 1 ≤ k ∧
      k ≤ (bufferAt u c.plot c.env.gslot cb.toNat).slots ∧ ∀ j < k, (bufferAt u c.plot c.env.gslot cb.toNat).marks[(i + j) %
        (bufferAt u c.plot c.env.gslot cb.toNat).slots]? = some (givenMark release)) :
    giveResult release cb c u = .ok (kickUnit (setBuffer u c.plot c.env.gslot cb.toNat
      (givenBuffer release (bufferAt u c.plot c.env.gslot cb.toNat) i k)) c.plot, emit c (statusPacket 0)) := by
  simp only [giveResult, hi, hk, bind_ok, cbRun_all_iff]
  exact if_pos hgiven

theorem giveResult_of_unmarked (hgiven : ¬ (i < (bufferAt u c.plot c.env.gslot cb.toNat).slots ∧ 1 ≤ k ∧
      k ≤ (bufferAt u c.plot c.env.gslot cb.toNat).slots ∧ ∀ j < k, (bufferAt u c.plot c.env.gslot cb.toNat).marks[(i + j) %
        (bufferAt u c.plot c.env.gslot cb.toNat).slots]? = some (givenMark release))) :
    giveResult release cb c u = .ok (u, emit c (statusPacket 1)) := by
  simp only [giveResult, hi, hk, bind_ok, cbRun_all_iff]
  exact if_neg hgiven
end
end

/-- Settles O26: each instruction by what its body answers in the buffer's state. -/
theorem bufferFirings : Obligations.BufferFirings := by
  intro s p i k ofs n bytes b m h cb wait c u g x held queued room put back took hf
  refine ⟨?cbst, fun hlen => ?declared, fun hlen hofs hn hbytes ho hb hn1 hn256 hb16 hb64k hroom hr ha hq hq' => ?geometry,
    fun hk hslots hle => ?take, fun hi hk => ⟨?com, ?rel⟩⟩
  case cbst => exact throughPort_fireState_answered (body := cbstResult cb) hf rfl
  case declared =>
    split
    case isTrue hidle =>
      exact throughPort_fireState_answered (body := cbiniResult cb) hf
        (cbiniResult_of_declared (c := c) (idle := true) hlen ⟨fun _ => rfl, fun _ => hidle⟩)
    case isFalse hidle =>
      exact throughPort_fireState_answered (body := cbiniResult cb) hf
        (cbiniResult_of_declared (c := c) (idle := false) hlen ⟨fun h => absurd h hidle, fun h => by cases h⟩)
  case geometry =>
    exact throughPort_fireState_answered (body := cbiniResult cb) hf (cbiniResult_of_geometry (c := c) hlen hofs hn hbytes ho hb
      ⟨hn1, hn256, hb16, hb64k, hroom⟩ ⟨hr, ha, hq, hq'⟩)
  case take =>
    have hx : x = bufferAt u p g cb.toNat := rfl
    have hheld : ∀ {body : FireCtx → MatchedSet → State → Except FaultInfo (State × List Send)} {t : State},
        body c m u = .ok (t, []) → fireHeld h body s = .next t := fun hb => fireHeld_silent hf hb
    refine ⟨fun h0 => ⟨?resNone, ?acqNone⟩, fun h1 hq hroom => ?res, fun h1 hq hroom => ?acq, fun h1 hq hroom => ?acqWait,
      fun h1 hno => ⟨?resNo, ?resJoin⟩, fun h1 hno => ⟨?acqNo, ?acqJoin⟩⟩
    case resNone => exact hheld (body := takeResult false wait cb) ((takeResult_eq rfl hx hk hslots hle wait).trans (if_pos h0))
    case acqNone => exact hheld (body := takeResult true wait cb) ((takeResult_eq rfl hx hk hslots hle wait).trans (if_pos h0))
    case res =>
      cases wait
      case false =>
        exact hheld (body := takeResult false false cb) (takeResult_of_room rfl hx hk hslots hle (by omega) hq hroom)
      case true =>
        refine (hheld (body := takeResult false true cb) (takeResult_waiting rfl hx hk hslots hle (by omega))).trans ?_
        exact congrArg _ (if_neg fun hno => hno.elim (Bool.eq_false_iff.mp hq) (Nat.not_lt.mpr hroom))
    case acq => exact hheld (body := takeResult true false cb) (takeResult_of_room rfl hx hk hslots hle (by omega) hq hroom)
    case acqWait =>
      refine (hheld (body := takeResult true true cb) (takeResult_waiting rfl hx hk hslots hle (by omega))).trans ?_
      exact congrArg _ (if_neg fun hno => hno.elim (Bool.eq_false_iff.mp hq) (Nat.not_lt.mpr hroom))
    case resNo => exact hheld (body := takeResult false false cb) (takeResult_of_no_room rfl hx hk hslots hle (by omega) hno)
    case acqNo => exact hheld (body := takeResult true false cb) (takeResult_of_no_room rfl hx hk hslots hle (by omega) hno)
    case resJoin =>
      exact (hheld (body := takeResult false true cb) (takeResult_waiting rfl hx hk hslots hle (by omega))).trans
        (congrArg _ (if_pos hno))
    case acqJoin =>
      exact (hheld (body := takeResult true true cb) (takeResult_waiting rfl hx hk hslots hle (by omega))).trans
        (congrArg _ (if_pos hno))
  case com =>
    split
    case isTrue hgiven => exact throughPort_fireState_answered (body := giveResult false cb) hf (giveResult_of_marked (c := c) hi hk hgiven)
    case isFalse hgiven =>
      exact throughPort_fireState_answered (body := giveResult false cb) hf (giveResult_of_unmarked (c := c) hi hk hgiven)
  case rel =>
    split
    case isTrue hgiven => exact throughPort_fireState_answered (body := giveResult true cb) hf (giveResult_of_marked (c := c) hi hk hgiven)
    case isFalse hgiven =>
      exact throughPort_fireState_answered (body := giveResult true cb) hf (giveResult_of_unmarked (c := c) hi hk hgiven)

end Sys2Proof
end

section
/-! SUPPORT. The frame pool (R292), permits (R288, R289) and the firing of a copy (R283, R284). -/
namespace Sys2Proof
open Machine

/-! ### Frames (R292) -/

section
variable {c : FireCtx} {m : MatchedSet} {u : State} {k : Nat} {wait : Bool}

/-- A size that the pool never gives (R292). -/
def frameNever (u : State) (c : FireCtx) (k : Nat) : Prop :=
  k = 0 ∨ 16384 < k ∨ 64 < groupFrameBlocks u c.plot c.env.gslot + (k + 1023) / 1024

theorem frqResult_of_never (hk : natOperand c 1 0 = .ok k) (hnever : frameNever u c k) :
    frqResult wait c m u = .ok (sendFrame u c.plot (heldOf c m) 0 0, []) := by
  rw [frqResult, hk, bind_ok]
  exact if_pos hnever

theorem frqResult_of_run {i : Nat} (hk : natOperand c 1 0 = .ok k) (hnever : ¬ frameNever u c k)
    (hi : lowestRun u c.plot ((k + 1023) / 1024) = some i) :
    frqResult wait c m u = .ok (giveFrame u c.plot c.env.gslot (heldOf c m) i ((k + 1023) / 1024), []) := by
  rw [frqResult, hk, bind_ok]
  exact (if_neg hnever).trans (by rw [hi])

theorem frqResult_of_no_run (hk : natOperand c 1 0 = .ok k) (hnever : ¬ frameNever u c k)
    (hi : lowestRun u c.plot ((k + 1023) / 1024) = none) :
    frqResult wait c m u = if wait then .ok (modWaiters u c.plot (fun l => l ++ [Waiter.mk (heldOf c m) c.env.gslot
      (.frame ((k + 1023) / 1024))]), []) else .ok (sendFrame u c.plot (heldOf c m) 0 0, []) := by
  rw [frqResult, hk, bind_ok]
  exact (if_neg hnever).trans (by rw [hi])

theorem frlResult_of_frame {v : Nat} {x : Group} {f : Frame} (hv : natOperand c 0 0 = .ok v) (hx : groupAt u c.plot c.env.gslot = some x)
    (hf : x.frames.find? (fun y => frameHandle y == v) = some f) : frlResult c u = .ok (kickUnit (modGroup u c.plot c.env.gslot
      (fun y => { y with frames := y.frames.erase f })) c.plot, emit c (statusPacket 0)) := by
  simp only [frlResult, hv, bind_ok, hx, Option.bind_some, hf]

theorem frlResult_of_no_frame {v : Nat} {x : Group} (hv : natOperand c 0 0 = .ok v) (hx : groupAt u c.plot c.env.gslot = some x)
    (hf : ∀ y ∈ x.frames, frameHandle y ≠ v) : frlResult c u = .ok (u, emit c (statusPacket 1)) := by
  have hnone : x.frames.find? (fun y => frameHandle y == v) = none := List.find?_eq_none.mpr fun y hy => by simpa using hf y hy
  simp only [frlResult, hv, bind_ok, hx, Option.bind_some, hnone]
end

/-- Settles O27: each instruction by what its body finds in the pool. -/
theorem frameFirings : Obligations.FrameFirings := by
  intro s p k v i b m h wait x f c u g n never given t hf
  refine ⟨fun hk => ⟨fun hnever => ?never, fun hnever hi => ?given, fun hnever hi => ⟨?none, ?waits⟩⟩,
    fun hv hx => ⟨fun hfr => ?frees, fun hfr => ?unknown⟩⟩
  case never => exact fireHeld_silent (body := frqResult wait) hf (frqResult_of_never (c := c) hk hnever)
  case given => exact fireHeld_silent (body := frqResult wait) hf (frqResult_of_run (c := c) hk hnever hi)
  case none => exact fireHeld_silent (body := frqResult false) hf (frqResult_of_no_run (c := c) hk hnever hi)
  case waits => exact fireHeld_silent (body := frqResult true) hf (frqResult_of_no_run (c := c) hk hnever hi)
  case frees => exact throughPort_fireState_answered (body := frlResult) hf (frlResult_of_frame (c := c) hv hx hfr)
  case unknown => exact throughPort_fireState_answered (body := frlResult) hf (frlResult_of_no_frame (c := c) hv hx hfr)

/-! ### Permits (R288, R289) -/

section
variable {c : FireCtx} {m : MatchedSet} {u : State} {v : Nat}

theorem permitAddress_of_unaligned (hv : natOperand c 0 0 = .ok v) (hvalid : vaValid (BitVec.ofNat 64 v) = true)
    (halign : (BitVec.ofNat 64 v).toNat % 16 ≠ 0) : permitAddress c u = .error (faultAt causeAlign 0 (BitVec.ofNat 64 v)) := by
  simp only [permitAddress, hv, bind_ok, hvalid, Bool.not_true, Bool.false_eq_true, if_false, if_pos halign]

theorem permitAddress_of_window {t : State} {pa : Nat} {l : Leaf} (hv : natOperand c 0 0 = .ok v)
    (hvalid : vaValid (BitVec.ofNat 64 v) = true) (halign : (BitVec.ofNat 64 v).toNat % 16 = 0)
    (ht : stationTranslate u c.plot c.block c.slot (BitVec.ofNat 64 v) .store = .ok (t, pa, l)) (hpa : rangeOf pa = .window) :
    permitAddress c u = .ok (t, BitVec.ofNat 64 v, pa) := by
  simp only [permitAddress, hv, bind_ok, hvalid, Bool.not_true, Bool.false_eq_true, if_false, if_neg (not_not_intro halign), ht, if_pos hpa]

theorem toNat_mod_16 (v : Nat) : (BitVec.ofNat 64 v).toNat % 16 = v % 16 := by
  rw [BitVec.toNat_ofNat, Nat.mod_mod_of_dvd v (by decide : 16 ∣ 2 ^ 64)]

theorem permitWalk_of_unaligned {e : FaultInfo} (hv : natOperand c 0 0 = .ok v) (halign : (BitVec.ofNat 64 v).toNat % 16 ≠ 0) :
    permitWalk c e u = u := by
  rw [toNat_mod_16] at halign
  simp only [permitWalk, hv, if_neg halign]

theorem permitWalk_of_aligned {e : FaultInfo} (hv : natOperand c 0 0 = .ok v) (halign : (BitVec.ofNat 64 v).toNat % 16 = 0) :
    permitWalk c e u = walked u c.plot c.block.ctx .store [BitVec.ofNat 64 v] := by
  rw [toNat_mod_16] at halign
  simp only [permitWalk, hv, if_pos halign]

section
variable {e : FaultInfo} (hp : permitAddress c u = .error e)
include hp

theorem pminiResult_of_error : pminiResult c u = .error e := by rw [pminiResult, hp, bind_error]
theorem pmentResult_of_error : pmentResult c m u = .error e := by rw [pmentResult, hp, bind_error]
theorem pmexResult_of_error : pmexResult c u = .error e := by rw [pmexResult, hp, bind_error]
end

section
variable {t : State} {va : Word} {pa : Nat} (hp : permitAddress c u = .ok (t, va, pa))
include hp

theorem pminiResult_of_idle (hq : permitQueue t pa = []) :
    pminiResult c u = .ok (writeWord (writeWord t pa 0xA500_0000_0000_0000) (pa + 8) 0, emit c (statusPacket 0)) := by
  simp only [pminiResult, hp, bind_ok, hq, List.isEmpty_nil, if_true]
  rfl

theorem pminiResult_of_waiters (hq : permitQueue t pa ≠ []) : pminiResult c u = .ok (t, emit c (statusPacket 1)) := by
  have hne : (permitQueue t pa).isEmpty = false := List.isEmpty_eq_false_iff.mpr hq
  simp only [pminiResult, hp, bind_ok, hne, Bool.false_eq_true, if_false]

theorem pmentResult_of_unsound (hw : permitSound (readWord t pa) = false) : pmentResult c m u = .error (causeOnly causeFormat) := by
  simp only [pmentResult, hp, bind_ok, require_false_bind hw]

theorem pmexResult_of_unsound (hw : permitSound (readWord t pa) = false) : pmexResult c u = .error (causeOnly causeFormat) := by
  simp only [pmexResult, hp, bind_ok, require_false_bind hw]

theorem pmentResult_of_sound (hw : permitSound (readWord t pa) = true) :
    pmentResult c m u = .ok (joinPermit t c.plot (heldOf c m) va pa, []) := by
  simp only [pmentResult, hp, bind_ok, require_of_true hw]

theorem pmexResult_of_sound (hw : permitSound (readWord t pa) = true) : pmexResult c u =
    if isHolder (readWord t pa) c then .ok (kickPermit (freePermit t pa (readWord t pa)) pa, emit c (statusPacket 0))
    else .ok (t, emit c (statusPacket 1)) := by
  simp only [pmexResult, hp, bind_ok, require_of_true hw]
end
end

/-- What a firing that walks answers through its return port. -/
theorem throughPort_fireWalks_answered {s t : State} {p : Nat} {b : BlockId} {m : MatchedSet} {h : Head} {k : Packet}
    {walks : FireCtx → FaultInfo → State → State} {body : FireCtx → MatchedSet → State → Except FaultInfo (State × List Send)}
    (hf : Fires s p b m h) (hb : body (fireCtxOf s p b m h) m (consume s p b m) = .ok (t, emit (fireCtxOf s p b m h) k)) :
    throughPort s (fireWalks h walks body s) = throughPort s (answered (fireCtxOf s p b m h) t k) :=
  congrArg (throughPort s) (fireWalks_ok hf hb)

/-- Settles O28: `permitAddress` gives the fault, or the record that each instruction then reads. -/
theorem permitFirings : Obligations.PermitFirings := by
  intro s t p v pa l b m h c u va w back faults hf hv hvalid
  refine ⟨fun halign => ?unaligned, fun halign ht hpa => ?window⟩
  case unaligned =>
    have hp : permitAddress c u = .error (faultAt causeAlign 0 va) := permitAddress_of_unaligned hv hvalid halign
    have hw : permitWalk c (faultAt causeAlign 0 va) s = s := permitWalk_of_unaligned hv halign
    have hfault : ∀ body, body c m u = .error (faultAt causeAlign 0 va) →
        fireWalks h permitWalk body s = .next (faultedFrom s p b m h (faultAt causeAlign 0 va)) :=
      fun body hb => fireWalks_error_of_walks_eq (walks := permitWalk) hf hb hw
    refine ⟨?_, hfault pmentResult (pmentResult_of_error hp), ?_⟩
    · exact (congrArg (throughPort s) (hfault (fun c _ s => pminiResult c s) (pminiResult_of_error hp))).trans (throughPort_faulted ..)
    · exact (congrArg (throughPort s) (hfault (fun c _ s => pmexResult c s) (pmexResult_of_error hp))).trans (throughPort_faulted ..)
  case window =>
    have hp : permitAddress c u = .ok (t, va, pa) := permitAddress_of_window (c := c) hv hvalid halign ht hpa
    refine ⟨fun hq => ?idle, fun hq => ?waiters, fun hw => ?unsound, fun hw => ?joins, fun hw hmine => ?frees, fun hw hmine => ?other⟩
    case idle => exact throughPort_fireWalks_answered (body := fun c _ s => pminiResult c s) hf (pminiResult_of_idle hp hq)
    case waiters => exact throughPort_fireWalks_answered (body := fun c _ s => pminiResult c s) hf (pminiResult_of_waiters hp hq)
    case unsound =>
      have hwalk : permitWalk c (causeOnly causeFormat) s = walked s p b.ctx .store [va] := permitWalk_of_aligned hv halign
      have hfault : ∀ body, body c m u = .error (causeOnly causeFormat) → fireWalks h permitWalk body s =
          .next (faultSet (walked s p b.ctx .store [va]) c m (causeOnly causeFormat)) :=
        fun body hb => (fireWalks_error (walks := permitWalk) hf hb).trans (by rw [hwalk])
      exact ⟨hfault pmentResult (pmentResult_of_unsound hp hw),
        congrArg (throughPort s) (hfault (fun c _ s => pmexResult c s) (pmexResult_of_unsound hp hw))⟩
    case joins => exact fireWalks_silent (body := pmentResult) hf (pmentResult_of_sound hp hw)
    case frees =>
      exact throughPort_fireWalks_answered (body := fun c _ s => pmexResult c s) hf
        ((pmexResult_of_sound hp hw).trans (if_pos hmine))
    case other =>
      exact throughPort_fireWalks_answered (body := fun c _ s => pmexResult c s) hf
        ((pmexResult_of_sound hp hw).trans (if_neg (Bool.eq_false_iff.mp hmine)))

/-! ### Copies (R283, R284) -/

theorem copyAligned_of_find {l : List Nat} {w : Nat} (hw : l.find? (fun w => w % 8 != 0) = some w) :
    copyAligned l = .error (faultAt causeAlign 0 (BitVec.ofNat 64 w)) := by
  rw [copyAligned, hw]

theorem copyAligned_of_aligned {l : List Nat} (hl : ∀ v ∈ l, v % 8 = 0) : copyAligned l = .ok () := by
  have hnone : l.find? (fun w => w % 8 != 0) = none := List.find?_eq_none.mpr fun v hv => by simpa using hl v hv
  rw [copyAligned, hnone]

theorem startCopy_none {s : State} {p : Nat} {h : Held} {f : CopyForm} {sc : Scope} {done : Bool} {n : Nat} (hn : n = 0) :
    startCopy s p h f sc done (n == 0) = copyDone s p h := if_pos (beq_iff_eq.mpr hn)

theorem startCopy_some {s : State} {p e : Nat} {h : Held} {f : CopyForm} {sc : Scope} {done empty : Bool} (hn : empty = false)
    (he : engineFor s p = some e) :
    startCopy s p h f sc done empty = queueCopy s p e (CopyReq.mk h (heldEnv h).gslot f 0 none .idle sc done false s.nextId) := by
  simp only [startCopy, hn, Bool.false_eq_true, if_false, he]

section
variable {c : FireCtx} {m : MatchedSet} {u : State} {src dst n : Nat} {done : Bool} {sc : Scope} {cb : BitVec 4}

theorem cpyResult_eq (hsrc : natOperand c 0 0 = .ok src) (hdst : natOperand c 1 0 = .ok dst) (hn : natOperand c 2 0 = .ok n)
    (hlt : n < 2 ^ 40) : cpyResult done sc c m u = (copyAligned [src, dst, n] >>= fun _ => .ok (startCopy u c.plot (heldOf c m)
      (.rows (BitVec.ofNat 64 src) 0 (BitVec.ofNat 64 dst) 0 1 n) sc done (n == 0), [])) := by
  simp only [cpyResult, hsrc, hdst, hn, bind_ok, require_of_prop hlt]

theorem cpy2Result_eq (hx : wideTag (packetAt c 0).fmt = true) (hy : wideTag (packetAt c 1).fmt = true) (hlx : lenAt c 0 = 3)
    (hly : lenAt c 1 = 2) (hn : natOperand c 2 0 = .ok n) (hone : 1 ≤ (packetSlot true c.fresh (packetAt c 0) 2).toNat)
    (hle : (packetSlot true c.fresh (packetAt c 0) 2).toNat ≤ 65536) :
    cpy2Result done sc c m u =
      let x := fun i => packetSlot true c.fresh (packetAt c 0) i
      let y := fun i => packetSlot true (c.fresh + 8) (packetAt c 1) i
      copyAligned [(x 0).toNat, (y 0).toNat, (x 1).toNat, (y 1).toNat, n] >>= fun _ =>
        .ok (startCopy u c.plot (heldOf c m) (.rows (x 0) (x 1) (y 0) (y 1) (x 2).toNat n) sc done (n == 0), []) := by
  simp only [cpy2Result, hx, hy, hlx, hly, hn, bind_ok, Bool.and_self, beq_self_eq_true, hone, hle, and_self, decide_true, require_of_true]

theorem cpyqResult_eq (hsrc : natOperand c 0 0 = .ok src) : cpyqResult done sc c m u = (copyAligned [src] >>= fun _ =>
    .ok (startCopy u c.plot (heldOf c m) (.list (BitVec.ofNat 64 src) 0) sc done false, [])) := by
  simp only [cpyqResult, hsrc, bind_ok]

theorem cpycbResult_eq {q : CircBuf} {k : Nat} (hq : q = bufferAt u c.plot c.env.gslot cb.toNat) (hk : k = (n + q.slotBytes - 1) / q.slotBytes)
    (hsrc : natOperand c 0 0 = .ok src) (hn : natOperand c 1 0 = .ok n) (hslots : q.slots ≠ 0) (hbytes : 1 ≤ q.slotBytes) (hle : k ≤ q.slots) :
    cpycbResult cb c m u = (copyAligned [src, n] >>= fun _ => if n = 0 then .ok (copyDone u c.plot (heldOf c m), [])
      else .ok (requestSlots u c.plot c.env.gslot (heldOf c m) (.copyReserve cb.toNat k), [])) := by
  subst hk hq
  have hreq : ((bufferAt u c.plot c.env.gslot cb.toNat).slots != 0 && decide ((n + (bufferAt u c.plot c.env.gslot cb.toNat).slotBytes - 1) /
      (bufferAt u c.plot c.env.gslot cb.toNat).slotBytes ≤ (bufferAt u c.plot c.env.gslot cb.toNat).slots)) = true := by
    rw [Bool.and_eq_true]
    exact ⟨bne_iff_ne.mpr hslots, decide_eq_true hle⟩
  simp only [cpycbResult, hsrc, hn, bind_ok, if_neg (show ¬ (bufferAt u c.plot c.env.gslot cb.toNat).slotBytes = 0 by omega),
    require_of_true hreq]
end

/-- Settles O29: each copy by the alignment of its values. -/
theorem copyFirings : Obligations.CopyFirings := by
  intro s p src dst n e w b m h done sc cb c u held x y q k starts doneAtOnce first misaligned hf
  have hmis : ∀ {body : FireCtx → MatchedSet → State → Except FaultInfo (State × List Send)} {l : List Nat} {f : Unit → _} {w : Nat},
      body c m u = (copyAligned l >>= f) → first l = some w →
      fireHeld h body s = .next (faultedFrom s p b m h (faultAt causeAlign 0 (BitVec.ofNat 64 w))) :=
    fun hb hw => fireHeld_error hf (hb.trans (by rw [copyAligned_of_find hw, bind_error]))
  have hok : ∀ {body : FireCtx → MatchedSet → State → Except FaultInfo (State × List Send)} {l : List Nat} {t t' : State},
      body c m u = (copyAligned l >>= fun _ => .ok (t, [])) → (∀ v ∈ l, v % 8 = 0) → t = t' → fireHeld h body s = .next t' :=
    fun hb hl ht => ht ▸ fireHeld_silent hf (hb.trans (by rw [copyAligned_of_aligned hl, bind_ok]))
  refine ⟨fun hsrc hdst hn hlt => ?cpy, fun hx hy hlx hly hn hone hle => ?cpy2, fun hsrc => ?cpyq, fun hsrc hn hslots hbytes hle => ?cpycb⟩
  case cpy =>
    have hb := cpyResult_eq (c := c) (m := m) (u := u) (done := done) (sc := sc) hsrc hdst hn hlt
    refine ⟨fun hs hd h8 => ⟨fun h0 => ?_, fun h0 he => ?_⟩, fun hw => hmis (body := cpyResult done sc) hb hw⟩
    · exact hok (body := cpyResult done sc) hb (by simp [hs, hd, h8]) (startCopy_none h0)
    · exact hok (body := cpyResult done sc) hb (by simp [hs, hd, h8]) (startCopy_some (by simpa using h0) he)
  case cpy2 =>
    have hb := cpy2Result_eq (c := c) (m := m) (u := u) (done := done) (sc := sc) hx hy hlx hly hn hone hle
    refine ⟨fun hl => ⟨fun h0 => ?_, fun h0 he => ?_⟩, fun hw => hmis (body := cpy2Result done sc) hb hw⟩
    · exact hok (body := cpy2Result done sc) hb hl (startCopy_none h0)
    · exact hok (body := cpy2Result done sc) hb hl (startCopy_some (by simpa using h0) he)
  case cpyq =>
    have hb := cpyqResult_eq (c := c) (m := m) (u := u) (done := done) (sc := sc) hsrc
    refine ⟨fun hs he => ?_, fun hs => hmis (body := cpyqResult done sc) hb ?_⟩
    · exact hok (body := cpyqResult done sc) hb (by simp [hs]) (startCopy_some rfl he)
    · exact List.find?_cons_of_pos (by simpa using hs)
  case cpycb =>
    have hb := cpycbResult_eq (c := c) (m := m) (u := u) (cb := cb) (q := q) rfl rfl hsrc hn hslots hbytes hle
    refine ⟨fun hs h8 => ⟨fun h0 => ?_, fun h0 => ?_⟩, fun hw => hmis (body := cpycbResult cb) hb hw⟩
    · rw [if_pos h0] at hb
      exact hok (body := cpycbResult cb) hb (by simp [hs, h8]) rfl
    · rw [if_neg h0] at hb
      exact hok (body := cpycbResult cb) hb (by simp [hs, h8]) rfl

end Sys2Proof
end

section
/-! SUPPORT. Groups and their messages (R344 to R348), and `sow`, `kdep` and `kdec` on kernel records (R384 to R387). -/
namespace Sys2Proof
open Machine

/-! ### A return port that is passed twice (R471) -/

/-- Tokens that have come back through a return port come back no further. -/
theorem markReturns_sendBack (s : State) (p : Nat) (b : BlockId) (xs : List Send) :
    markReturns s.flights.length (sendBack s p b xs) = sendBack s p b xs := by
  refine markReturns_of fun f hf => ?_
  simp only [sendBack, markReturns, sendAll, List.take_left, List.drop_left, List.map_map, List.mem_map] at hf
  obtain ⟨x, -, rfl⟩ := hf
  simp

theorem throughPort_sendBack {s t : State} (ht : t.flights = s.flights) (p : Nat) (b : BlockId) (xs : List Send) :
    throughPort s (.next (sendBack t p b xs)) = .next (sendBack t p b xs) :=
  congrArg Host.Outcome.next (ht ▸ markReturns_sendBack t p b xs)

theorem throughPort_sendAll {s t : State} (ht : t.flights = s.flights) (p : Nat) (b : BlockId) (xs : List Send) :
    throughPort s (.next (sendAll t p b xs)) = .next (sendBack t p b xs) :=
  congrArg Host.Outcome.next (congrArg (fun l => markReturns l.length (sendAll t p b xs)) ht.symm)

/-! ### grex, post and recv (R346 to R348) -/

section
variable {c : FireCtx} {m : MatchedSet} {u : State} {x : Group} {v : Nat}

theorem grexResult_hnd (hx : groupAt u c.plot c.env.gslot = some x) (hp : c.plot < 32) :
    grexResult .hnd c u = .ok ({ u with fresh := u.fresh + 1 },
      emit c (statusPacket (2 ^ 31 + c.plot * 2 ^ 26 + c.env.gslot.toNat * 2 ^ 23 + x.seq.toNat))) := by
  simp only [grexResult, hx, groupHandle, if_pos hp]

theorem grexResult_gnum (hx : groupAt u c.plot c.env.gslot = some x) :
    grexResult .gnum c u = .ok (u, emit c (mkPacket 0x05 [x.number.setWidth 64, x.count.setWidth 64])) := by
  simp only [grexResult, hx]

theorem grexResult_exit (hx : groupAt u c.plot c.env.gslot = some x) (hv : natOperand c 0 0 = .ok v) : grexResult .exit c u =
    .ok (modGroup u c.plot c.env.gslot (fun y => { y with exitCode := y.exitCode ||| BitVec.ofNat 32 v }), []) := by
  simp only [grexResult, hx, hv, bind_ok]

theorem postResult_of_long (hv : natOperand c 0 0 = .ok v) (hwide : wideTag (packetAt c 1).fmt = true) (hlen : 4 < lenAt c 1) :
    postResult c m u = .error (causeOnly causePacketLength) := by
  have hreq : (!(wideTag (packetAt c 1).fmt && decide (4 < lenAt c 1))) = false := by rw [hwide, decide_eq_true hlen]; rfl
  simp only [postResult, hv, bind_ok, require_false_bind hreq]

theorem postResult_eq (hv : natOperand c 0 0 = .ok v) (hfit : wideTag (packetAt c 1).fmt = false ∨ lenAt c 1 ≤ 4) :
    postResult c m u = if postReady u c.plot (heldOf c m) then
        .ok (kickUnit (performPost u c.plot (heldOf c m)) ((postHandle u c.plot (heldOf c m)).extractLsb' 26 5).toNat, [])
      else .ok (modWaiters (awaitTurn u c.block.ctx (postTurn u c.plot (heldOf c m))) c.plot
        (fun l => l ++ [Waiter.mk (heldOf c m) c.env.gslot .post]), []) := by
  have hreq : (!(wideTag (packetAt c 1).fmt && decide (4 < lenAt c 1))) = true := by
    rcases hfit with h | h
    · rw [h]; rfl
    · rw [decide_eq_false (Nat.not_lt.mpr h), Bool.and_false]; rfl
  simp only [postResult, hv, bind_ok, require_of_true hreq]

section
variable {wait : Bool} {ipt : BitVec 2}

theorem recvResult_of_message {k : Packet} (hk : portHead u c.plot c.env.gslot ipt.toNat = some k)
    (hq : wait = false ∨ (plotAt u c.plot).unit.waiters.any (atPort c.env.gslot ipt.toNat) = false) :
    recvResult wait ipt c m u = .ok (takeMessage u c.plot c.env.gslot ipt.toNat (heldOf c m), []) := by
  have hfree : (wait && (plotAt u c.plot).unit.waiters.any (atPort c.env.gslot ipt.toNat)) = false := by
    rcases hq with h | h
    · rw [h, Bool.false_and]
    · rw [h, Bool.and_false]
  simp only [recvResult, hfree, hk, Option.isSome_some, and_self, if_true]

theorem recvResult_of_none (hk : portHead u c.plot c.env.gslot ipt.toNat = none) :
    recvResult false ipt c m u = .ok (u, sendTo c.head.t1 (Token.mk c.env (statusPacket 0))) := by
  simp only [recvResult, hk, Option.isSome_none, Bool.false_eq_true, false_and, if_false]

theorem recvResult_of_wait (hno : portHead u c.plot c.env.gslot ipt.toNat = none ∨
      (plotAt u c.plot).unit.waiters.any (atPort c.env.gslot ipt.toNat) = true) :
    recvResult true ipt c m u = .ok (joinWaiters u c.plot c.env.gslot (heldOf c m) (.receive ipt.toNat), []) := by
  have hnot : ¬ ((portHead u c.plot c.env.gslot ipt.toNat).isSome = true ∧
      (true && (plotAt u c.plot).unit.waiters.any (atPort c.env.gslot ipt.toNat)) = false) := by
    rintro ⟨hsome, hfree⟩
    rcases hno with h | h
    · rw [h] at hsome; cases hsome
    · rw [h] at hfree; cases hfree
  simp only [recvResult, if_neg hnot, if_true]
end
end

theorem joinWaiters_flights (s : State) (p : Nat) (g : BitVec 3) (h : Held) (k : WaitKind) :
    (joinWaiters s p g h k).flights = s.flights := by
  unfold joinWaiters
  split <;> rfl

theorem takeMessage_of_head {s : State} {p port : Nat} {g : BitVec 3} {h : Held} {k : Packet} (hk : portHead s p g port = some k) :
    takeMessage s p g port h = sendBack (modGroup s p g (fun y => { y with ports := y.ports.modify port (fun l => l.drop 1) })) p h.block
      (sendTo h.head.t0 (Token.mk (heldEnv h) k) ++ sendTo h.head.t1 (Token.mk (heldEnv h) (statusPacket 1))) := by
  simp only [takeMessage, hk]

/-- Settles O30: each instruction by what its body finds of the group and its port. -/
theorem groupFirings : Obligations.GroupFirings := by
  intro s p v b m h done wait ipt x k c u g held back queued hf
  refine ⟨fun hx hp => ?hnd, fun hx => ?gnum, fun hx hv => ?exit, fun hv hfit => ⟨fun hready => ?made, fun hready => ?waits⟩,
    fun hv hwide hlen => ?long, fun hk hq => ?message, fun hk => ?empty, fun hno => ?joins⟩
  case hnd => exact throughPort_fireState_answered (body := grexResult .hnd) hf (grexResult_hnd (c := c) hx hp)
  case gnum => exact throughPort_fireState_answered (body := grexResult .gnum) hf (grexResult_gnum (c := c) hx)
  case exit => exact throughPort_fireState_silent (body := grexResult .exit) hf (grexResult_exit (c := c) hx hv) rfl
  case made => exact fireHeld_silent (body := postResult) hf ((postResult_eq (c := c) hv hfit).trans (if_pos hready))
  case waits =>
    exact fireHeld_silent (body := postResult) hf ((postResult_eq (c := c) hv hfit).trans (if_neg (Bool.eq_false_iff.mp hready)))
  case long => exact fireHeld_error (body := postResult) hf (postResult_of_long (c := c) hv hwide hlen)
  case message =>
    refine (congrArg (throughPort s) (fireHeld_silent (body := recvResult wait ipt) hf (recvResult_of_message (c := c) hk hq))).trans ?_
    exact (congrArg (fun t => throughPort s (.next t)) (takeMessage_of_head (h := held) hk)).trans (throughPort_sendBack rfl _ _ _)
  case empty =>
    exact (congrArg (throughPort s) (fireHeld_ok (body := recvResult false ipt) hf (recvResult_of_none (c := c) hk))).trans
      (throughPort_sendAll rfl _ _ _)
  case joins =>
    exact (congrArg (throughPort s) (fireHeld_eq_fireState (recvResult true ipt) hf)).trans
      (throughPort_fireState_silent hf (recvResult_of_wait (c := c) hno) (joinWaiters_flights ..))

/-! ### What a post does (R344, R347) -/

section
variable {s : State} {ctx : BitVec 12} {v : BitVec 32} {g : Group}

theorem postTarget_of_group (hg : groupAt s (v.extractLsb' 26 5).toNat (v.extractLsb' 23 3) = some g) :
    postTarget s ctx v = if v.getLsbD 31 && g.seq == v.extractLsb' 0 23 && g.ctx == ctx &&
      !groupEnds s (v.extractLsb' 26 5).toNat (v.extractLsb' 23 3) g then some g else none := by
  simp only [postTarget, hg]

theorem postTarget_of_no_group (hg : groupAt s (v.extractLsb' 26 5).toNat (v.extractLsb' 23 3) = none) : postTarget s ctx v = none := by
  simp only [postTarget, hg]

theorem postTarget_of_no_handle (hv : v.getLsbD 31 = false) : postTarget s ctx v = none := by
  cases hg : groupAt s (v.extractLsb' 26 5).toNat (v.extractLsb' 23 3) with
  | none => exact postTarget_of_no_group hg
  | some g => rw [postTarget_of_group hg, hv, Bool.false_and, Bool.false_and, Bool.false_and, if_neg Bool.false_ne_true]

theorem groupEnds_iff {p : Nat} {n : BitVec 3} :
    groupEnds s p n g = true ↔ g.phase = .retiring ∨ (g.phase = .running ∧ groupLive s p n g = false) := by
  simp only [groupEnds, Bool.or_eq_true, Bool.and_eq_true, beq_iff_eq, Bool.not_eq_true']

/-- A message is delivered to the group of its number and context, while it lives (R342, R343, R347). -/
theorem postTarget_eq_some (hv : v.getLsbD 31 = true) (hg : groupAt s (v.extractLsb' 26 5).toNat (v.extractLsb' 23 3) = some g)
    (hseq : g.seq = v.extractLsb' 0 23) (hctx : g.ctx = ctx) (hret : g.phase ≠ .retiring)
    (hlive : g.phase = .running → groupLive s (v.extractLsb' 26 5).toNat (v.extractLsb' 23 3) g = true) : postTarget s ctx v = some g := by
  have hends : groupEnds s (v.extractLsb' 26 5).toNat (v.extractLsb' 23 3) g = false := by
    refine Bool.eq_false_iff.mpr fun h => ?_
    rcases groupEnds_iff.mp h with h | ⟨hrun, h⟩
    · exact hret h
    · exact Bool.eq_false_iff.mp h (hlive hrun)
  rw [postTarget_of_group hg, hv, hseq, hctx, hends, beq_self_eq_true, beq_self_eq_true]
  rfl

theorem postTarget_eq_none (hg : groupAt s (v.extractLsb' 26 5).toNat (v.extractLsb' 23 3) = some g)
    (hno : g.seq ≠ v.extractLsb' 0 23 ∨ g.ctx ≠ ctx ∨ g.phase = .retiring ∨
      (g.phase = .running ∧ groupLive s (v.extractLsb' 26 5).toNat (v.extractLsb' 23 3) g = false)) : postTarget s ctx v = none := by
  rw [postTarget_of_group hg]
  refine if_neg fun h => ?_
  simp only [Bool.and_eq_true, beq_iff_eq, Bool.not_eq_true'] at h
  obtain ⟨⟨⟨-, hseq⟩, hctx⟩, hends⟩ := h
  rcases hno with h | h | h
  · exact h hseq
  · exact h hctx
  · exact Bool.eq_false_iff.mp hends (groupEnds_iff.mpr h)
end

/-- Outside a replay no event waits for its turn in the record. -/
theorem verdictIn_ne_now {s : State} {c : BitVec 12} (hmode : (ctxAt s c).recMode ≠ .replay) (mine : RecEntry → Bool) (kind : Nat)
    (ident : List Word) (e : RecEntry) : verdictIn s c mine kind ident ≠ .now e := by
  unfold verdictIn
  rw [if_neg hmode]
  split
  · exact nofun
  · exact nofun

theorem recordEntry_of_off {s : State} {c : BitVec 12} (hmode : (ctxAt s c).recMode = .off) (kind addr : Nat) (words : List Word) :
    recordEntry s c kind addr words = s := by
  rw [recordEntry, hmode]
  rfl

section
variable {s : State} {p : Nat} {h : Held} {g : Group}

/-- The status of a `post` that is answered (R347). -/
def postAnswer (p : Nat) (h : Held) (t : State) (n : Nat) : State :=
  sendBack t p h.block (sendTo h.head.t2 (Token.mk (heldEnv h) (statusPacket n)))

theorem performPost_of_none (hn : postTarget s h.block.ctx (postHandle s p h) = none) : performPost s p h =
    postAnswer p h (countEvent s (if (postHandle s p h).getLsbD 31 then ((postHandle s p h).extractLsb' 26 5).toNat else p) 0x1B
      (some h.block.ctx) 1) 1 := by
  simp only [performPost, hn]
  rfl

/-- A message delivered, in the state that its entry in the record leaves. -/
def delivers (s : State) (p : Nat) (h : Held) (t : State) : State :=
  postAnswer p h (appendMessage t ((postHandle s p h).extractLsb' 26 5).toNat ((postHandle s p h).extractLsb' 23 3) (postPort s p h)
    (postMessage h)) 0

section
variable (hg : postTarget s h.block.ctx (postHandle s p h) = some g)
include hg

theorem performPost_of_now {e : RecEntry} (hnow : postVerdict s p h g (postPort s p h) = .now e) :
    performPost s p h = delivers s p h (serveEntry s h.block.ctx e) := by
  simp only [performPost, hg, hnow]
  rfl

theorem performPost_of_not_now (hnow : ∀ e, postVerdict s p h g (postPort s p h) ≠ .now e) : performPost s p h =
    delivers s p h (recordEntry s h.block.ctx recPort (portAddr g (postPort s p h)) (portIdent s p h g)) := by
  cases hv : postVerdict s p h g (postPort s p h) with
  | now e => exact absurd hv (hnow e)
  | free | wait | full =>
    simp only [performPost, hg, hv]
    rfl
end
end

/-- Settles O31: whom the handle names, then what the record says to the message. -/
theorem postDelivery : Obligations.PostDelivery := by
  intro s u p q' ipt h g x e n' k v q n port ctx answer delivered
  refine ⟨fun hv => ?noHandle, fun hv hg => ?noGroup, fun hv hg => ⟨fun hno => ?ended, fun hseq hctx hret hlive => ?live⟩,
    fun hx => ⟨fun hlen hspill => ?port, fun hfull => ?spill⟩⟩
  case noHandle =>
    refine (performPost_of_none (postTarget_of_no_handle hv)).trans ?_
    rw [show (postHandle s p h).getLsbD 31 = false from hv, if_neg Bool.false_ne_true]
    rfl
  case noGroup =>
    refine (performPost_of_none (postTarget_of_no_group hg)).trans ?_
    rw [show (postHandle s p h).getLsbD 31 = true from hv, if_pos rfl]
    rfl
  case ended =>
    refine (performPost_of_none (postTarget_eq_none hg hno)).trans ?_
    rw [show (postHandle s p h).getLsbD 31 = true from hv, if_pos rfl]
    rfl
  case live =>
    have htarget : postTarget s ctx v = some g := postTarget_eq_some hv hg hseq hctx hret hlive
    refine ⟨fun hmode => ?off, fun hmode => ?record, fun hnow => ?now⟩
    case off =>
      have hnot := performPost_of_not_now htarget (verdictIn_ne_now (by rw [show (ctxAt s h.block.ctx).recMode = .off from hmode]; decide) _ _ _)
      rw [recordEntry_of_off hmode] at hnot
      exact hnot
    case record =>
      exact performPost_of_not_now htarget (verdictIn_ne_now (by rw [show (ctxAt s h.block.ctx).recMode = .record from hmode]; decide) _ _ _)
    case now => exact performPost_of_now htarget hnow
  case port =>
    have hroom : (x.ports.getD ipt []).length < 16 ∧ (x.portSpill.getD ipt []).isEmpty = true :=
      ⟨hlen, List.isEmpty_iff.mpr hspill⟩
    simp only [appendMessage, hx, if_pos hroom]
  case spill =>
    have hno : ¬ ((x.ports.getD ipt []).length < 16 ∧ (x.portSpill.getD ipt []).isEmpty = true) := by
      rintro ⟨hlen, hspill⟩
      exact hfull.elim (Nat.not_le.mpr hlen) fun h => h (List.isEmpty_iff.mp hspill)
    simp only [appendMessage, hx, if_neg hno]

/-! ### sow, kdep and kdec (R384 to R387) -/

section
variable {c : FireCtx} {u t w : State} {pa ra : Nat}

theorem recordOperand_ok {q : Nat} (hwide : wideTag (packetAt c q).fmt = true) :
    recordOperand c q = .ok (packetSlot true (c.fresh + 8 * q) (packetAt c q) 0) := by
  rw [recordOperand, require_of_true hwide, bind_ok]

theorem sowSlot_ok (h0 : wideTag (packetAt c 0).fmt = true) (h1 : wideTag (packetAt c 1).fmt = true) (hlen : lenAt c 1 = 8)
    (hkind : (sownWord c 0).extractLsb' 0 8 = 0x01) (halign : (sownWord c 4).toNat % 128 = 0) :
    sowSlot c = .ok (packetSlot true (c.fresh + 8 * 0) (packetAt c 0) 0) := by
  simp only [sowSlot, recordOperand_ok h0, bind_ok, require_of_true h1, hlen, hkind, beq_self_eq_true, require_of_true, halign, ne_eq,
    not_true_eq_false, if_false]

theorem recordEnded_iff : recordEnded w pa = true ↔ recState w pa = 4 ∨ recState w pa = 5 := by
  simp only [recordEnded, Bool.or_eq_true, beq_iff_eq, kComplete, kFaulted]

theorem recordSound_ok {va : Word} {n : Nat} (hgood : w.mem.bad pa n = false) : recordSound w va pa n = .ok () := by
  rw [recordSound, hgood, if_neg Bool.false_ne_true]

theorem parentSound_ok (h : recordEnded w pa = true ∨ w.mem.bad (pa + 56) 8 = false) : parentSound w pa = .ok () := by
  unfold parentSound
  split
  case isTrue => rfl
  case isFalse hnot => exact recordSound_ok (h.resolve_left hnot)

section
variable {slot : Word} (hslot : sowSlot c = .ok slot) (ht : recordAddress c u slot 64 = .ok (t, pa))
  (hw : recordAddress c t (sownWord c 4) 128 = .ok (w, ra)) (hgood : w.mem.bad pa 8 = false)
include hslot ht hw hgood

theorem sowResult_of_full (hfull : readWord w pa ≠ 0) : sowResult c u = .ok (w, emit c (statusPacket 1)) := by
  simp only [sowResult, hslot, bind_ok, ht, hw, recordSound_ok hgood, if_pos hfull]

theorem sowResult_of_empty {x : Group} (hempty : readWord w pa = 0) (hx : groupAt w c.plot c.env.gslot = some x)
    (hparent : parentSound w x.record = .ok ()) : sowResult c u =
      .ok (engineWrite (writeWords (addChild w x.record) (ra + 32) [BitVec.ofNat 64 x.record, BitVec.ofNat 64 (sownMark * 2 ^ 32)]) pa 64
        (sownPacket c), emit c (statusPacket 0)) := by
  simp only [sowResult, hslot, bind_ok, ht, hw, recordSound_ok hgood, if_neg (not_not_intro hempty), hx, hparent]
end

section
variable {a b' : Word} {pred succ : Nat} (ha : recordOperand c 0 = .ok a) (hb : recordOperand c 1 = .ok b')
  (ht : namedRecord c u a = .ok (t, pred)) (hw : namedRecord c t b' = .ok (w, succ))
include ha hb ht hw

theorem kdepResult_of_ended (hended : recState w pred = 4 ∨ recState w pred = 5) : kdepResult c u = .ok (w, emit c (statusPacket 1)) := by
  simp only [kdepResult, ha, hb, bind_ok, ht, hw, kComplete, kFaulted, if_pos hended]

variable (hopen : ¬ (recState w pred = 4 ∨ recState w pred = 5))
include hopen

theorem kdepResult_of_no_room (hfull : ∀ j < 4, recSucc w pred j ≠ 0) : kdepResult c u = .ok (w, emit c (statusPacket 2)) := by
  have hnone : (List.range 4).find? (fun i => recSucc w pred i == 0) = none :=
    List.find?_eq_none.mpr fun j hj => by simpa using hfull j (List.mem_range.mp hj)
  simp only [kdepResult, ha, hb, bind_ok, ht, hw, kComplete, kFaulted, if_neg hopen, hnone]

theorem kdepResult_of_room {i : Nat} (hi : i < 4) (hzero : recSucc w pred i = 0) (hfirst : ∀ j < i, recSucc w pred j ≠ 0) :
    kdepResult c u = if recState w succ ≠ kPending ∨ recDep w succ = 65535 then .ok (w, emit c (statusPacket 3))
      else .ok (writeWord (setRecDep w succ (recDep w succ + 1)) (pred + 8 * (8 + i)) (BitVec.ofNat 64 succ), emit c (statusPacket 0)) := by
  have hsome : (List.range 4).find? (fun i => recSucc w pred i == 0) = some i :=
    List.find?_range_eq_some.mpr ⟨by simpa using hzero, List.mem_range.mpr hi, fun j hj => by simpa using hfirst j hj⟩
  simp only [kdepResult, ha, hb, bind_ok, ht, hw, kComplete, kFaulted, if_neg hopen, hsome]
end

theorem kdecResult_eq {a : Word} (ha : recordOperand c 0 = .ok a) (ht : namedRecord c u a = .ok (t, pa)) :
    kdecResult c u = .ok ((decrementDep t pa).1, emit c (statusPacket (decrementDep t pa).2)) := by
  simp only [kdecResult, ha, bind_ok, ht]

theorem decrementDep_refused (hno : recState t pa ≠ 0 ∨ recDep t pa = 0) : decrementDep t pa = (t, 2) := if_pos hno

theorem decrementDep_last (hst : recState t pa = 0) (hdep : recDep t pa = 1) :
    decrementDep t pa = (makeReady (setRecDep t pa 0) pa, 1) := by
  simp only [decrementDep, hst, kPending, hdep, ne_eq, not_true_eq_false, Nat.one_ne_zero, or_self, if_false, if_true, Nat.sub_self]

theorem decrementDep_more (hst : recState t pa = 0) (hdep : 1 < recDep t pa) :
    decrementDep t pa = (setRecDep t pa (recDep t pa - 1), 0) := by
  simp only [decrementDep, hst, kPending, ne_eq, not_true_eq_false, false_or, if_neg (show ¬ recDep t pa = 0 by omega),
    if_neg (show ¬ recDep t pa - 1 = 0 by omega)]
end

/-- Settles O33: the operands give the records, and what the instruction reads there decides its answer. -/
theorem kernelFirings : Obligations.KernelFirings := by
  intro s t w p pa ra pred succ i b m h x c u op e packet ended back hf h0
  refine ⟨fun h1 hlen hkind halign ht hw hgood => ?sow, fun h1 ht hw => ?kdep, fun ht => ?kdec⟩
  case sow =>
    have hslot := sowSlot_ok (c := c) h0 h1 hlen hkind halign
    refine ⟨fun hfull => ?full, fun hempty hx hparent => ?empty⟩
    case full =>
      exact throughPort_fireWalks_answered (body := fun c _ s => sowResult c s) hf (sowResult_of_full (c := c) hslot ht hw hgood hfull)
    case empty =>
      have hsound : parentSound w x.record = .ok () := parentSound_ok (hparent.imp_left recordEnded_iff.mpr)
      refine (throughPort_fireWalks_answered (body := fun c _ s => sowResult c s) hf
        (sowResult_of_empty (c := c) hslot ht hw hgood hempty hx hsound)).trans ?_
      have hchild : addChild w x.record = if ended x then w else setRecChild w x.record (recChild w x.record + 1) := by
        by_cases hend : ended x
        · rw [addChild, if_pos (recordEnded_iff.mpr hend), if_pos hend]
        · rw [addChild, if_neg (mt recordEnded_iff.mp hend), if_neg hend]
      rw [hchild]
      rfl
  case kdep =>
    have hkdep : ∀ {n : Nat} {v : State}, kdepResult c u = .ok (v, emit c (statusPacket n)) → exec (.kdep h) s = back (replied c v n) :=
      fun hb => throughPort_fireWalks_answered (body := fun c _ s => kdepResult c s) hf hb
    have ha := recordOperand_ok (c := c) h0
    have hb := recordOperand_ok (c := c) h1
    refine ⟨fun hend => ?ended, fun hopen hfull => ?full, fun hopen hi hzero hfirst => ⟨fun hno => ?refused, fun hst hdep => ?linked⟩⟩
    case ended => exact hkdep (kdepResult_of_ended ha hb ht hw hend)
    case full => exact hkdep (kdepResult_of_no_room ha hb ht hw (by omega) hfull)
    case refused => exact hkdep ((kdepResult_of_room ha hb ht hw (by omega) hi hzero hfirst).trans (if_pos hno))
    case linked =>
      exact hkdep ((kdepResult_of_room ha hb ht hw (by omega) hi hzero hfirst).trans (if_neg fun hno => hno.elim (fun h => h hst) hdep))
  case kdec =>
    have hkdec : ∀ {n : Nat} {v : State}, decrementDep t pa = (v, n) → exec (.kdec h) s = back (replied c v n) := fun hd =>
      throughPort_fireWalks_answered (body := fun c _ s => kdecResult c s) hf
        ((kdecResult_eq (c := c) (recordOperand_ok h0) ht).trans (by rw [hd]))
    exact ⟨fun hno => hkdec (decrementDep_refused hno), fun hst hdep => hkdec (decrementDep_last hst hdep),
      fun hst hdep => hkdec (decrementDep_more hst hdep)⟩

end Sys2Proof
end

section
/-! SUPPORT. Faults, traps and yields: the words of a cause record (R426), the delivery of a fault (R425, R429, R430), `yld` (R418) and
`trap` (R431). -/
namespace Sys2Proof
open Machine

/-! ### The words of a cause record (R426) -/

section
variable (e : FaultInfo) (slot : BitVec 8) (h : Bool) (bid : BitVec 32) (env : Envelope)

/-- The fields of the low half of word 0. -/
theorem causeFields (cause level : BitVec 8) :
    let w : BitVec (7 + 1 + 8 + 8 + 8) := 0#7 ++ BitVec.ofBool h ++ slot ++ level ++ cause
    w.extractLsb' 0 8 = cause ∧ w.extractLsb' 8 8 = level ∧ w.extractLsb' 16 8 = slot ∧ w.extractLsb' 24 1 = BitVec.ofBool h ∧
      w.extractLsb' 25 7 = 0 := by
  refine ⟨BitVec.extractLsb'_append_eq_right, ?_, ?_, ?_, ?_⟩
  · exact (BitVec.extractLsb'_append_eq_of_le (by decide)).trans BitVec.extractLsb'_append_eq_right
  · exact (BitVec.extractLsb'_append_eq_of_le (by decide)).trans
      ((BitVec.extractLsb'_append_eq_of_le (by decide)).trans BitVec.extractLsb'_append_eq_right)
  · exact (BitVec.extractLsb'_append_eq_of_le (by decide)).trans ((BitVec.extractLsb'_append_eq_of_le (by decide)).trans
      ((BitVec.extractLsb'_append_eq_of_le (by decide)).trans BitVec.extractLsb'_append_eq_right))
  · exact (BitVec.extractLsb'_append_eq_of_le (by decide)).trans ((BitVec.extractLsb'_append_eq_of_le (by decide)).trans
      ((BitVec.extractLsb'_append_eq_of_le (by decide)).trans BitVec.extractLsb'_append_eq_left))

/-- The fields of word 3, from the lowest. -/
theorem causeRecord_w3 :
    let w := (causeRecord e slot h bid env).w3
    w.extractLsb' 0 10 = env.thread ∧ w.extractLsb' 10 3 = env.gslot ∧ w.extractLsb' 13 3 = 0 ∧ w.extractLsb' 16 24 = env.wave ∧
      w.extractLsb' 40 24 = 0 := by
  refine ⟨BitVec.extractLsb'_append_eq_right (a := 0#24 ++ env.wave ++ 0#3 ++ env.gslot), ?_, ?_, ?_, ?_⟩
  · exact (BitVec.extractLsb'_append_eq_of_le (xlo := env.thread) (by decide)).trans BitVec.extractLsb'_append_eq_right
  · exact (BitVec.extractLsb'_append_eq_of_le (xlo := env.thread) (by decide)).trans
      ((BitVec.extractLsb'_append_eq_of_le (by decide)).trans BitVec.extractLsb'_append_eq_right)
  · exact (BitVec.extractLsb'_append_eq_of_le (xlo := env.thread) (by decide)).trans ((BitVec.extractLsb'_append_eq_of_le (by decide)).trans
      ((BitVec.extractLsb'_append_eq_of_le (by decide)).trans BitVec.extractLsb'_append_eq_right))
  · exact (BitVec.extractLsb'_append_eq_of_le (xlo := env.thread) (by decide)).trans ((BitVec.extractLsb'_append_eq_of_le (by decide)).trans
      ((BitVec.extractLsb'_append_eq_of_le (by decide)).trans BitVec.extractLsb'_append_eq_left))

theorem causeRecord_w0_low {start len : Nat} (hle : start + len ≤ 32) : (causeRecord e slot h bid env).w0.extractLsb' start len =
    (0#7 ++ BitVec.ofBool h ++ slot ++ e.level ++ e.cause).extractLsb' start len :=
  BitVec.extractLsb'_append_eq_of_add_le (xhi := bid) hle

theorem causeRecord_w0_bid : (causeRecord e slot h bid env).w0.extractLsb' 32 32 = bid :=
  BitVec.extractLsb'_append_eq_left (b := 0#7 ++ BitVec.ofBool h ++ slot ++ e.level ++ e.cause)

theorem getLsbD_of_extractLsb' {w : Nat} (x : BitVec w) (i : Nat) (h : Bool) (hx : x.extractLsb' i 1 = BitVec.ofBool h) :
    x.getLsbD i = h := by
  have h0 := congrArg (fun y => y.getLsbD 0) hx
  simpa using h0
end

/-! ### Delivery (R425, R429, R430) -/

section
variable {s : State} {p : Nat} {g : BitVec 3} {x : Group} {e : FaultInfo} {slot : BitVec 8} {b : BlockId} {env : Envelope} {kept : Kept}

/-- A firing stands in the handler block of its group (R425). -/
def inHandlerOf (x : Group) (b : BlockId) : Bool := decide (b.bid = x.hbid ∧ b.obj = x.obj)

theorem deliverFault_of_no_group (hg : groupAt s p g = none) : deliverFault s p g e slot b env kept = (s, false) := by
  simp only [deliverFault, hg]

theorem deliverFault_of_group (hg : groupAt s p g = some x) (hh : x.hbid ≠ 0xFFFF_FFFF) :
    deliverFault s p g e slot b env kept = deliverTo s p g x (inHandlerOf x b) e slot b env kept := by
  have htest : (x.hbid != 0xFFFF_FFFF && b.bid == x.hbid && b.obj == x.obj) = inHandlerOf x b := by
    rw [bne_iff_ne.mpr hh, Bool.true_and, inHandlerOf]
    exact Bool.eq_iff_iff.mpr (by simp)
  simp only [deliverFault, hg, htest]

theorem deliverFault_of_placed (hg : groupAt s p g = some x) (hph : x.phase = .placed) :
    deliverFault s p g e slot b env kept = (s, false) := by
  simp only [deliverFault, hg, deliverTo, if_pos hph]

theorem deliverFault_of_no_handler (hg : groupAt s p g = some x) (hph : x.phase ≠ .placed) (hh : x.hbid = 0xFFFF_FFFF) :
    deliverFault s p g e slot b env kept = (killGroup s p g e.cause, true) := by
  simp only [deliverFault, hg, deliverTo, if_neg hph, if_pos hh]

section
variable (hg : groupAt s p g = some x) (hph : x.phase ≠ .placed) (hh : x.hbid ≠ 0xFFFF_FFFF)
include hg hph hh

/-- A second fault in the handler (R429). -/
theorem deliverFault_doubled (hin : inHandlerOf x b = true)
    (hfull : x.causes.any (fun k => k.state == .delivered) = true ∨ freeCause x.causes = none) :
    deliverFault s p g e slot b env kept =
      (doubleFault s x.ctx x.record (causeRecord e slot (inHandlerOf x b) b.bid env), false) := by
  have htest : (inHandlerOf x b && (x.causes.any (fun k => k.state == .delivered) || (freeCause x.causes).isNone)) = true := by
    rw [hin, Bool.true_and, Bool.or_eq_true]
    exact hfull.imp_right Option.isNone_iff_eq_none.mpr
  rw [deliverFault_of_group hg hh]
  simp only [deliverTo, if_neg hph, if_neg hh, htest, if_true]

theorem deliverFault_of_no_cause (hin : inHandlerOf x b = false) (hn : freeCause x.causes = none) :
    deliverFault s p g e slot b env kept = (s, false) := by
  rw [deliverFault_of_group hg hh]
  simp only [deliverTo, if_neg hph, if_neg hh, hin, Bool.false_and, Bool.false_eq_true, if_false, hn]

/-- The lowest free cause slot takes the record (R425). -/
theorem deliverFault_delivered {n : Nat} (hin : inHandlerOf x b = false ∨ x.causes.any (fun k => k.state == .delivered) = false)
    (hn : freeCause x.causes = some n) :
    deliverFault s p g e slot b env kept = (sendEntry (freshHandlerWave (modGroup s p g (fun y => { y with
        causes := y.causes.set n (CauseSlot.mk .delivered (causeRecord e slot (inHandlerOf x b) b.bid env) kept)
        phase := if y.phase = .running then .stopped else y.phase })) p x.ctx g env.thread) .entry p
      (BlockId.mk x.ctx x.obj x.hbid) 0 0 (handlerToken env.thread g n), true) := by
  have htest : (inHandlerOf x b && (x.causes.any (fun k => k.state == .delivered) || (some n).isNone)) = false := by
    rw [Option.isNone_some, Bool.or_false]
    rcases hin with h | h
    · rw [h, Bool.false_and]
    · rw [h, Bool.and_false]
  rw [deliverFault_of_group hg hh]
  simp only [deliverTo, if_neg hph, if_neg hh, hn, htest, Bool.false_eq_true, if_false]
end
end

/-- The slot that a fault takes is the lowest that is FREE (R425). -/
theorem freeCause_spec {cs : List CauseSlot} {n : Nat} (hn : freeCause cs = some n) :
    n < cs.length ∧ (cs.getD n CauseSlot.empty).state = .free ∧ ∀ k < n, (cs.getD k CauseSlot.empty).state ≠ .free := by
  obtain ⟨hlt, hfree, hbelow⟩ := List.findIdx?_eq_some_iff_getElem.mp hn
  refine ⟨hlt, ?_, fun k hk => ?_⟩
  · rw [getD_of_lt _ hlt]
    exact beq_iff_eq.mp hfree
  · rw [getD_of_lt _ (Nat.lt_trans hk hlt)]
    exact fun h => hbelow k hk (beq_iff_eq.mpr h)

/-- Settles O57: the words of the record, and the delivery by the state of the group and its cause slots. -/
theorem faultDelivery : Obligations.FaultDelivery := by
  intro s p n g x e slot b env kept h a inHandler r any unread
  obtain ⟨hcause, hlevel, hslot, hbit, hzero⟩ := causeFields slot h e.cause e.level
  obtain ⟨hthread, hgslot, hpad, hwave, htop⟩ := causeRecord_w3 e slot h b.bid env
  have hlow : ∀ {start len : Nat}, start + len ≤ 32 → any.w0.extractLsb' start len = _ := fun hle => causeRecord_w0_low e slot h b.bid env hle
  refine ⟨⟨(hlow (by decide)).trans hcause, (hlow (by decide)).trans hlevel, (hlow (by decide)).trans hslot,
      getLsbD_of_extractLsb' _ _ _ ((hlow (by decide)).trans hbit), (hlow (by decide)).trans hzero, causeRecord_w0_bid e slot h b.bid env,
      rfl, rfl, hthread, hgslot, hpad, hwave, htop⟩, deliverFault_of_no_group, deliverFault_of_placed, fun hg hph => ⟨fun hh => ?kills, fun hh =>
      ⟨fun hin hfull => ?doubles, fun hin hn => ?nothing, fun hin hn => ?delivers, freeCause_spec⟩⟩⟩
  case kills => exact deliverFault_of_no_handler hg hph hh
  case doubles => exact deliverFault_doubled hg hph hh hin hfull
  case nothing => exact deliverFault_of_no_cause hg hph hh hin hn
  case delivers => exact deliverFault_delivered hg hph hh hin hn

/-! ### yld and trap (R418, R431) -/

section
variable {c : FireCtx} {u : State}

/-- A `yld` that yields (R418). -/
def yldYields (u : State) (c : FireCtx) : Prop :=
  ((ctxAt u c.block.ctx).counts.getD c.plot (freshSlice 0)).dline.toNat ≤ ((ctxAt u c.block.ctx).counts.getD c.plot (freshSlice 0)).icnt.toNat ∨
    requestPending (ctxAt u c.block.ctx) = true

theorem yldResult_of_late (hlate : yldYields u c) : yldResult c u =
    .ok (writeState (requestStop (ownExpiry c u) c.block.ctx flagYield 0 false false) c.block.ctx, emit c (statusPacket 1)) := if_pos hlate

theorem yldResult_of_early (hearly : ¬ yldYields u c) : yldResult c u = .ok (u, emit c (statusPacket 0)) := if_neg hearly
end

/-- What a firing with a step for a set left out sends where its predicate selects it. -/
theorem fireWith_ok {s u : State} {p : Nat} {b : BlockId} {m : MatchedSet} {h : Head} {skip : FireCtx → State → State} {xs : List Send}
    {body : FireCtx → State → Except FaultInfo (State × List Send)} (hf : Fires s p b m h)
    (hb : body (fireCtxOf s p b m h) (consume s p b m) = .ok (u, xs)) : fireWith h skip body s = .next (sendAll u p b xs) := by
  obtain ⟨hc, hp⟩ := hf
  simp only [fireWith, hc, hp, hb]

/-- A `trap` delivers its fault, and its set is taken where the fault is (R431). -/
theorem execTrap_of_delivered {s t : State} {p : Nat} {b : BlockId} {m : MatchedSet} {h : Head} {code : BitVec 7} (hf : Fires s p b m h)
    (ht : deliverFault { s with cur := .idle, fresh := s.fresh + 64 } p (fireCtxOf s p b m h).env.gslot
      (trapFault (fireCtxOf s p b m h) code) (0#1 ++ m.slot) b (fireCtxOf s p b m h).env (.trap b m h) = (t, true)) :
    exec (.trap h code) s = .next (takeSet t p b m) := by
  obtain ⟨hc, hp⟩ := hf
  change execTrap h code s = _
  simp only [execTrap, hc, hp, ht, if_true]

/-- Settles O38: `yld` by its deadline, and `trap` by the delivery of its fault. -/
theorem yieldAndTrap : Obligations.YieldAndTrap := by
  intro s p n b m h code x c u k late g r w hf
  refine ⟨fun hlate => ?late, fun hearly => ?early, fun hg hph hh hblock hn => ?trap⟩
  case late => exact congrArg (throughPort s) (fireWith_ok (skip := ownExpiry) (body := yldResult) hf (yldResult_of_late (c := c) hlate))
  case early => exact congrArg (throughPort s) (fireWith_ok (skip := ownExpiry) (body := yldResult) hf (yldResult_of_early (c := c) hearly))
  case trap =>
    have hin : inHandlerOf x b = false := decide_eq_false fun ⟨hb, ho⟩ => hblock.elim (fun h => h hb) fun h => h ho
    have hd := deliverFault_delivered (s := w) (e := trapFault c code) (slot := 0#1 ++ m.slot) (env := c.env) (kept := .trap b m h)
      hg hph hh (.inl hin) hn
    rw [hin] at hd
    exact execTrap_of_delivered hf hd

end Sys2Proof
end

section
/-! SUPPORT. The privileged instructions where they may run (R435, R436, R440, R459, R460, R478, R479). -/
namespace Sys2Proof
open Machine

section
variable {c : FireCtx} {m : MatchedSet} {u : State}

/-! ### pwrq (R478) -/

theorem pwrqResult_can (fmask : BitVec 4) : pwrqResult true fmask c u =
    let fs := (maskFurrows c.plot fmask).filter (fun y => !(furrowAt u y.1).guarded)
    let t := fs.foldl (fun t y => modFurrow t y.1 (fun z => { z with req := min 0 65535 })) u
    .ok (t, emit c (mkPacket 0x05 [BitVec.ofNat 64 (fs.foldl (fun t y => t + 2 ^ y.2) 0), BitVec.ofNat 64 t.power.free])) := rfl

theorem pwrqResult_asked {n : Nat} (fmask : BitVec 4) (hn : natOperand c 0 0 = .ok n) : pwrqResult false fmask c u =
    let fs := (maskFurrows c.plot fmask).filter (fun y => !(furrowAt u y.1).guarded)
    let t := fs.foldl (fun t y => modFurrow t y.1 (fun z => { z with req := min n 65535 })) u
    .ok (t, emit c (mkPacket 0x05 [BitVec.ofNat 64 (fs.foldl (fun t y => t + 2 ^ y.2) 0), BitVec.ofNat 64 t.power.free])) := by
  simp only [pwrqResult, Bool.false_eq_true, if_false, hn, bind_ok]

/-! ### halt, rrec, tlbi and imtr in the headland context -/

theorem commandFor_of_lt {n : Nat} (hn : n < 4096) (k : Command) (grace : Nat) : commandFor u n k grace =
    ((command u (BitVec.ofNat 12 n) k grace).1, if (command u (BitVec.ofNat 12 n) k grace).2 then 0 else 1) :=
  if_pos hn

section
variable (hc : c.block.ctx = headland)
include hc

theorem privileged_ok : privileged c = .ok () := require_of_true (beq_iff_eq.mpr hc) _

section
variable {n : Nat} (hv : natOperand c 0 0 = .ok n)
include hv

/-- A `preempt` has its grace as second element (R435). -/
theorem haltResult_preempt {k : Nat} (hlen : lenAt c 0 = 2) (hk : natOperand c 0 1 = .ok k) (hn : n < 4096) :
    haltResult .preempt c u = .ok (status c (command u (BitVec.ofNat 12 n) .preempt k).1
      (if (command u (BitVec.ofNat 12 n) .preempt k).2 then 0 else 1)) := by
  simp only [haltResult, privileged_ok hc, bind_ok, hv, if_true, hlen, beq_self_eq_true, require_of_true, hk, commandFor_of_lt hn]

theorem haltResult_freeze (hlen : lenAt c 0 = 1) (hn : n < 4096) : haltResult .freeze c u =
    .ok (status c (command u (BitVec.ofNat 12 n) .freeze 0).1 (if (command u (BitVec.ofNat 12 n) .freeze 0).2 then 0 else 1)) := by
  simp only [haltResult, privileged_ok hc, bind_ok, hv, reduceCtorEq, if_false, hlen, beq_self_eq_true, require_of_true,
    commandFor_of_lt hn]

theorem haltResult_kill (hlen : lenAt c 0 = 1) (hn : n < 4096) : haltResult .kill c u =
    .ok (status c (command u (BitVec.ofNat 12 n) .kill 0).1 (if (command u (BitVec.ofNat 12 n) .kill 0).2 then 0 else 1)) := by
  simp only [haltResult, privileged_ok hc, bind_ok, hv, reduceCtorEq, if_false, hlen, beq_self_eq_true, require_of_true,
    commandFor_of_lt hn]

/-- The command that an operation of `rrec` gives (R440); `status` gives none. -/
def recordCommand : RrecOp → Option Command
  | .norecord => some .norecord
  | .record => some .record
  | .replay => some .replay
  | .status => none

theorem rrecResult_command {op : RrecOp} {k : Command} (hk : recordCommand op = some k) (hn : n < 4096) : rrecResult op c u =
    .ok (status c (command u (BitVec.ofNat 12 n) k 0).1 (if (command u (BitVec.ofNat 12 n) k 0).2 then 0 else 1)) := by
  cases op with
  | status => cases hk
  | norecord | record | replay =>
    obtain rfl := Option.some.inj hk
    simp only [rrecResult, privileged_ok hc, bind_ok, hv, commandFor_of_lt hn]

theorem rrecResult_status (hn : n < 4096) : rrecResult .status c u = .ok ({ u with fresh := u.fresh + 2 }, emit c (mkPacket 0x04
    [BitVec.ofNat 64 (modeCode (ctxAt u (BitVec.ofNat 12 n)).recMode), (heldRegs u (BitVec.ofNat 12 n)).recpos])) := by
  simp only [rrecResult, privileged_ok hc, bind_ok, hv, recordStatus, if_pos hn]

/-! ### The scope of a tlbi (R459) -/

omit hc in
theorem tlbiScope_all (hlen : lenAt c 0 = 1) : tlbiScope .all c = .ok (some .all) := by
  simp only [tlbiScope, hv, bind_ok, hlen, beq_self_eq_true, require_of_true]

omit hc in
theorem tlbiScope_ctx (hlen : lenAt c 0 = 1) (hn : n ≤ 4095) : tlbiScope .ctx c = .ok (some (.ctx (BitVec.ofNat 12 n))) := by
  simp only [tlbiScope, hv, bind_ok, hlen, decide_eq_true hn, require_of_true (show ((1 == 1) && true) = true from rfl)]

omit hc in
theorem tlbiScope_page {v : Nat} (hlen : lenAt c 0 = 2) (hn : n ≤ 4095) (hva : natOperand c 0 1 = .ok v) (hv57 : v < 2 ^ 57) :
    tlbiScope .va c = .ok (some (.va (BitVec.ofNat 12 n) (v / 4096) 1)) := by
  simp only [tlbiScope, hv, bind_ok, hlen, require_of_true (show ((2 == 2) || (2 == 3)) = true from rfl), hva,
    if_neg (show ¬ 2 = 3 by decide), decide_eq_true hn,
    require_of_true (show (true && decide (1 ≤ 1) && decide (1 ≤ 512)) = true by decide), if_pos hv57]

omit hc in
theorem tlbiScope_pages {v k : Nat} (hlen : lenAt c 0 = 3) (hn : n ≤ 4095) (hva : natOperand c 0 1 = .ok v)
    (hk : natOperand c 0 2 = .ok k) (h1 : 1 ≤ k) (h512 : k ≤ 512) (hv57 : v < 2 ^ 57) :
    tlbiScope .va c = .ok (some (.va (BitVec.ofNat 12 n) (v / 4096) k)) := by
  simp only [tlbiScope, hv, bind_ok, hlen, require_of_true (show ((3 == 2) || (3 == 3)) = true from rfl), hva, if_true, hk,
    decide_eq_true hn, decide_eq_true h1, decide_eq_true h512, require_of_true (show (true && true && true) = true from rfl), if_pos hv57]

omit hv in
theorem tlbiResult_ok {mode : TlbiMode} {k : TlbiScope} (hk : tlbiScope mode c = .ok (some k)) : tlbiResult mode c m u =
    .ok ({ removeEntries u k u.nextId with
      nextId := (removeEntries u k u.nextId).nextId + 1
      tlbis := (removeEntries u k u.nextId).tlbis ++ [TlbiJob.mk u.nextId c.plot (heldOf c m) (affectedAccesses u k)] }, []) := by
  simp only [tlbiResult, privileged_ok hc, bind_ok, hk]

/-! ### imtr (R479) -/

section
variable (hn : n ≤ 131)
include hn

theorem imtrResult_set {k : Nat} (hlen : lenAt c 0 = 2) (hk : natOperand c 0 1 = .ok k) (hk7 : k ≤ 7) : imtrResult .set c u =
    .ok (modFurrow u n (fun y => { y with pstep := k }), emit c (word64Packet (BitVec.ofNat 64 (furrowAt u n).pstep))) := by
  simp only [imtrResult, privileged_ok hc, bind_ok, hv, if_true, hlen, beq_self_eq_true, require_of_true, hk, decide_eq_true hn,
    decide_eq_true hk7, Bool.and_self]

theorem imtrResult_rd (hlen : lenAt c 0 = 1) : imtrResult .rd c u = .ok (u, emit c (word64Packet (fimb u n))) := by
  simp only [imtrResult, privileged_ok hc, bind_ok, hv, reduceCtorEq, if_false, hlen, beq_self_eq_true, require_of_true,
    decide_eq_true hn, require_of_true (show (true && decide (0 ≤ 7)) = true by decide)]

theorem imtrResult_clr (hlen : lenAt c 0 = 1) : imtrResult .clr c u =
    if (furrowAt u n).guarded && (furrowAt u n).inBand then
      .ok (modFurrow u n (fun y => { y with guarded := false }), emit c (word64Packet 0))
    else .ok (u, emit c (word64Packet 1)) := by
  simp only [imtrResult, privileged_ok hc, bind_ok, hv, reduceCtorEq, if_false, hlen, beq_self_eq_true, require_of_true,
    decide_eq_true hn, require_of_true (show (true && decide (0 ≤ 7)) = true by decide)]
end
end
end

/-! ### minj (R436) -/

section
variable (hright : c.block.ctx = headland ∨ (regsOn u c.block.ctx c.plot).cfg.getLsbD 2 = true)
include hright

theorem injection_allowed : require (c.block.ctx == headland || (regsOn u c.block.ctx c.plot).cfg.getLsbD 2) causePrivilege = .ok () :=
  require_of_true (Bool.or_eq_true_iff.mpr (hright.imp_left beq_iff_eq.mpr)) _

theorem minjResult_acc {kind : InjKind} (hkind : kind ∈ [InjKind.dat, .ccol, .crow]) : minjResult kind c u = minjAcc kind c u := by
  cases kind with
  | dat | ccol | crow => simp only [minjResult, injection_allowed hright, bind_ok]
  | ecc1 | ecc2 => exact absurd hkind (by decide)

theorem minjResult_word {kind : InjKind} (hkind : kind ∈ [InjKind.ecc1, .ecc2]) :
    minjResult kind c u = minjWord (kind == .ecc2) c u := by
  cases kind with
  | dat | ccol | crow => exact absurd hkind (by decide)
  | ecc1 | ecc2 => simp only [minjResult, injection_allowed hright, bind_ok]; rfl
end

theorem minjAcc_eq {kind : InjKind} {x : Handle} {i j k : Nat} (hx : handleAt c u = .ok (some x)) (hlen : lenAt c 1 = 3)
    (hi : natOperand c 1 0 = .ok i) (hj : natOperand c 1 1 = .ok j) (hk : natOperand c 1 2 = .ok k) : minjAcc kind c u =
    if 64 ≤ i ∨ 64 ≤ j ∨ (handleAcc u c.plot x).st = .empty then .ok (status c u 1)
    else .ok (status c (putAcc u c.plot x.tile x.acc (injectAcc kind (handleAcc u c.plot x) i j k)) 0) := by
  simp only [minjAcc, hx, bind_ok, hlen, beq_self_eq_true, require_of_true, hi, hj, hk]

theorem vaValid_ofNat {n : Nat} (hn : n < 2 ^ 57) : vaValid (BitVec.ofNat 64 n) = true := by
  refine beq_iff_eq.mpr (BitVec.eq_of_toNat_eq ?_)
  rw [BitVec.extractLsb'_toNat, BitVec.toNat_ofNat, Nat.mod_eq_of_lt (show n < 2 ^ 64 by omega), Nat.shiftRight_eq_div_pow, Nat.div_eq_of_lt hn]
  rfl

theorem minjWord_ok {uncorrectable : Bool} {t : State} {n k pa : Nat} {l : Leaf} (hn : natOperand c 0 0 = .ok n) (hk : natOperand c 1 0 = .ok k)
    (hlen : lenAt c 1 = 1) (halign : n % 8 = 0) (hvalid : n < 2 ^ 57)
    (ht : engineTranslate u c.plot c.block.ctx (BitVec.ofNat 64 n) .store = .ok (t, pa, l)) (hpa : rangeOf pa = .hbm ∨ rangeOf pa = .window) :
    minjWord uncorrectable c u = .ok (status c { t with mem := { t.mem with
      marks := EccMark.mk (pa / 8) uncorrectable :: t.mem.marks.filter (fun q => q.word != pa / 8) } } 0) := by
  have hva : vaValid (BitVec.ofNat 64 n) = true := vaValid_ofNat hvalid
  simp only [minjWord, hn, hk, bind_ok, hlen, beq_self_eq_true, require_of_true, hva, Bool.true_eq_false, if_false, halign, ne_eq,
    not_true_eq_false, ht, if_pos hpa]
end

/-- Settles O43: each instruction by the answer of its body. -/
theorem privilegedFirings : Obligations.PrivilegedFirings := by
  intro s t p n k i j v pa b m h kind x l fmask c u ctx gives gone job acc f fs asked power hf
  refine ⟨fireState_ok (body := pwrqResult true fmask) hf (pwrqResult_can (c := c) fmask), fun hv =>
    fireState_ok (body := pwrqResult false fmask) hf (pwrqResult_asked (c := c) fmask hv), fun hc hv => ⟨fun hlen hk hn => ?preempt, fun hlen hn =>
      ⟨?freeze, ?kill⟩, fun hn => ⟨?norecord, ?record, ?replay, ?status⟩, fun hlen => ?all, fun hlen hn => ?ctx, fun hlen hn hva h57 => ?page,
      fun hlen hn hva hk h1 h512 h57 => ?pages, fun hn => ⟨fun hlen hk hk7 => ?set, fun hlen => ?rd, fun hlen hg hb => ?clears,
        fun hlen hg => ?keeps⟩⟩, fun hright => ⟨fun hkind hx hlen hi hj hk => ⟨fun hi64 hj64 hst => ?injects, fun hout => ?refuses⟩,
      fun hkind hn hk hlen halign h57 ht hpa => ?marks⟩⟩
  case preempt => exact fireState_ok (body := haltResult .preempt) hf (haltResult_preempt (c := c) hc hv hlen hk hn)
  case freeze => exact fireState_ok (body := haltResult .freeze) hf (haltResult_freeze (c := c) hc hv hlen hn)
  case kill => exact fireState_ok (body := haltResult .kill) hf (haltResult_kill (c := c) hc hv hlen hn)
  case norecord => exact fireState_ok (body := rrecResult .norecord) hf (rrecResult_command (c := c) hc hv rfl hn)
  case record => exact fireState_ok (body := rrecResult .record) hf (rrecResult_command (c := c) hc hv rfl hn)
  case replay => exact fireState_ok (body := rrecResult .replay) hf (rrecResult_command (c := c) hc hv rfl hn)
  case status => exact fireState_ok (body := rrecResult .status) hf (rrecResult_status (c := c) hc hv hn)
  case all => exact fireHeld_silent (body := tlbiResult .all) hf (tlbiResult_ok (c := c) hc (tlbiScope_all hv hlen))
  case ctx => exact fireHeld_silent (body := tlbiResult .ctx) hf (tlbiResult_ok (c := c) hc (tlbiScope_ctx hv hlen hn))
  case page => exact fireHeld_silent (body := tlbiResult .va) hf (tlbiResult_ok (c := c) hc (tlbiScope_page hv hlen hn hva h57))
  case pages =>
    exact fireHeld_silent (body := tlbiResult .va) hf (tlbiResult_ok (c := c) hc (tlbiScope_pages hv hlen hn hva hk h1 h512 h57))
  case set => exact fireState_ok (body := imtrResult .set) hf (imtrResult_set (c := c) hc hv hn hlen hk hk7)
  case rd => exact fireState_ok (body := imtrResult .rd) hf (imtrResult_rd (c := c) hc hv hn hlen)
  case clears =>
    exact fireState_ok (body := imtrResult .clr) hf ((imtrResult_clr (c := c) hc hv hn hlen).trans (if_pos (Bool.and_eq_true_iff.mpr ⟨hg, hb⟩)))
  case keeps =>
    refine fireState_ok (body := imtrResult .clr) hf ((imtrResult_clr (c := c) hc hv hn hlen).trans (if_neg ?_))
    rw [Bool.and_eq_true_iff]
    rintro ⟨hguard, hband⟩
    exact hg.elim (fun hg => Bool.noConfusion (hguard.symm.trans hg)) fun hg => Bool.noConfusion (hband.symm.trans hg)
  case injects =>
    refine fireWalks_ok (walks := minjWalk) (body := fun c _ s => minjResult kind c s) hf
      (((minjResult_acc (c := c) hright hkind).trans (minjAcc_eq hx hlen hi hj hk)).trans (if_neg ?_))
    rintro (hout | hout | hout)
    · exact Nat.not_le.mpr hi64 hout
    · exact Nat.not_le.mpr hj64 hout
    · exact hst hout
  case refuses =>
    exact fireWalks_ok (walks := minjWalk) (body := fun c _ s => minjResult kind c s) hf
      (((minjResult_acc (c := c) hright hkind).trans (minjAcc_eq hx hlen hi hj hk)).trans (if_pos hout))
  case marks =>
    exact fireWalks_ok (walks := minjWalk) (body := fun c _ s => minjResult kind c s) hf
      ((minjResult_word (c := c) hright hkind).trans (minjWord_ok hn hk hlen halign h57 ht hpa))

end Sys2Proof
end

section
/-! SUPPORT. System registers: who may reach which (R410, R411), how a write to a register of a context reaches the plots (R412), and
`srd` and `swr` (R413, R414). -/
namespace Sys2Proof
open Machine

/-! ### A write to a register of a context under way (R412) -/

/-- The state with one more write under way. -/
def underWay (s : State) (w : RegWrite) : State := { s with regWrites := s.regWrites ++ [w] }

/-- No write to a register of the context is under way. -/
def NoWrites (s : State) (c : BitVec 12) : Prop := ∀ w ∈ s.regWrites, w.ctx ≠ c

section
variable {s : State} {p d r : Nat} {c : BitVec 12} {v : Word} {reply : Option WriteReply}

theorem findWrite_underWay {w : RegWrite} (hno : NoWrites s w.ctx) :
    (underWay s w).regWrites.find? (fun x => x.ctx == w.ctx) = some w := by
  rw [underWay, List.find?_append, List.find?_eq_none.mpr fun x hx => by simp [hno x hx], Option.none_or, List.find?_cons_of_pos (by simp)]

/-- A write that some plot has still to take does not end. -/
theorem endWrites_underWay {w : RegWrite} (hno : NoWrites s w.ctx) (hleft : w.left ≠ []) (n : Nat) :
    endWrites w.ctx n (underWay s w) = underWay s w := by
  cases n with
  | zero => rfl
  | succ n => simp only [endWrites, findWrite_underWay hno, List.isEmpty_eq_false_iff.mpr hleft, Bool.false_eq_true, if_false]

theorem endWrites_of_noWrites (hno : NoWrites s c) (n : Nat) : endWrites c n s = s := by
  cases n with
  | zero => rfl
  | succ n =>
    have hnone : s.regWrites.find? (fun x => x.ctx == c) = none := List.find?_eq_none.mpr fun x hx => by simp [hno x hx]
    simp only [endWrites, hnone]

theorem addWrite_eq {w : RegWrite} (hno : NoWrites s w.ctx) (hleft : w.left ≠ []) : addWrite s w = underWay s w :=
  endWrites_underWay hno hleft _

theorem erase_underWay {w : RegWrite} (hno : NoWrites s w.ctx) : (underWay s w).regWrites.erase w = s.regWrites := by
  have hnot : w ∉ s.regWrites := fun hmem => hno w hmem rfl
  rw [underWay, List.erase_append_right _ hnot, List.erase_cons_head, List.append_nil]

/-- The last plot that takes a write ends it: the context holds the value. -/
theorem endWrites_taken {n : Nat} (hno : NoWrites s c) :
    endWrites c (n + 1) (underWay s (RegWrite.mk c r v [] none)) =
      modCtx s c (fun x => { x with regs := writeCtxRegs (c != headland) x.regs r v }) := by
  have hfind := findWrite_underWay (w := RegWrite.mk c r v [] none) hno
  have herase := erase_underWay (w := RegWrite.mk c r v [] none) hno
  simp only [endWrites, hfind, List.isEmpty_nil, if_true, herase]
  exact endWrites_of_noWrites (s := modCtx s c fun x => { x with regs := writeCtxRegs (c != headland) x.regs r v }) hno n

theorem findIdx_underWay {w : RegWrite} (hno : NoWrites s w.ctx) (hp : p ∈ w.left) :
    (underWay s w).regWrites.findIdx? (fun x => x.ctx == w.ctx && x.left.contains p) = some s.regWrites.length := by
  have hnone : s.regWrites.findIdx? (fun x => x.ctx == w.ctx && x.left.contains p) = none :=
    List.findIdx?_eq_none_iff.mpr fun x hx => by simp [hno x hx]
  change (s.regWrites ++ [w]).findIdx? _ = _
  rw [List.findIdx?_append, hnone]
  simp [hp]

/-- The next plot takes the one write under way. -/
theorem takeWrite_underWay {w : RegWrite} (hno : NoWrites s w.ctx) (hp : p ∈ w.left) : takeWrite (underWay s w) p w.ctx =
    endWrites w.ctx (s.regWrites.length + 1) (underWay s { w with left := w.left.erase p }) := by
  have hmod : (underWay s w).regWrites.modify s.regWrites.length (fun x => { x with left := x.left.erase p }) =
      (underWay s { w with left := w.left.erase p }).regWrites := by
    exact modify_length_append _ _ _
  simp only [takeWrite, findIdx_underWay hno hp]
  rw [hmod]
  simp [underWay]

theorem takeWrite_of_noWrites (hno : NoWrites s c) : takeWrite s p c = s := by
  have hnone : s.regWrites.findIdx? (fun x => x.ctx == c && x.left.contains p) = none :=
    List.findIdx?_eq_none_iff.mpr fun x hx => by simp [hno x hx]
  simp only [takeWrite, hnone]

/-- Every plot of a list takes the write in its turn. -/
theorem takeWrites_underWay (hno : NoWrites s c) : ∀ (q : Nat) (l : List Nat),
    (q :: l).foldl (fun t q => takeWrite t q c) (underWay s (RegWrite.mk c r v (q :: l) none)) =
      modCtx s c (fun x => { x with regs := writeCtxRegs (c != headland) x.regs r v })
  | q, [] => by
    rw [List.foldl_cons, takeWrite_underWay (w := RegWrite.mk c r v [q] none) hno (List.mem_singleton.mpr rfl)]
    simpa using endWrites_taken hno
  | q, q' :: l => by
    have hne : (RegWrite.mk c r v (q' :: l) none).left ≠ [] := List.cons_ne_nil q' l
    rw [List.foldl_cons, takeWrite_underWay (w := RegWrite.mk c r v (q :: q' :: l) none) hno List.mem_cons_self]
    rw [List.erase_cons_head, endWrites_underWay (w := RegWrite.mk c r v (q' :: l) none) hno hne]
    exact takeWrites_underWay hno q' l

/-! ### What a plot reads while a write is under way -/

theorem regsOn_of_noWrites (hno : NoWrites s c) : regsOn s c p = (ctxAt s c).regs := by
  have hnil : s.regWrites.filter (fun w => w.ctx == c && !w.left.contains p) = [] :=
    List.filter_eq_nil_iff.mpr fun w hw => by simp [hno w hw]
  simp only [regsOn, hnil, List.foldl_nil]

/-- A plot that has still to take the write reads as before; one that has taken it reads its value. -/
theorem regsOn_underWay {w : RegWrite} (hno : NoWrites s w.ctx) : regsOn (underWay s w) w.ctx p =
    if p ∈ w.left then regsOn s w.ctx p else writeCtxRegs (w.ctx != headland) (regsOn s w.ctx p) w.reg w.value := by
  have hnil : s.regWrites.filter (fun x => x.ctx == w.ctx && !x.left.contains p) = [] :=
    List.filter_eq_nil_iff.mpr fun w hw => by simp [hno w hw]
  rw [regsOn_of_noWrites hno, regsOn, underWay, List.filter_append, hnil, List.nil_append]
  split
  · next hp => simp [hp, ctxAt]
  · next hp => simp [hp, ctxAt]

/-- A register of a context is read through the registers of the context as the plot has them and what it counts. -/
theorem readReg_of_ctxReg (hr : isCtxReg r = true) : readReg s p c d r = readCtxReg s p c r := by
  simp only [isCtxReg, Bool.or_eq_true, Bool.and_eq_true, decide_eq_true_eq] at hr
  have hrange : 0x200 ≤ r ∧ r < 0x300 := by omega
  simp only [readReg, if_neg (show ¬ r = 0 by omega), if_neg (show ¬ (0x100 ≤ r ∧ r < 0x110) by omega),
    if_neg (show ¬ (0x110 ≤ r ∧ r < 0x120) by omega), if_neg (show ¬ (0x120 ≤ r ∧ r < 0x124) by omega),
    if_neg (show ¬ (0x124 ≤ r ∧ r < 0x128) by omega), if_pos hrange]

/-- What a plot counts is no part of a write. -/
theorem readCtxReg_of_regsOn {t : State} (hctx : ctxAt t c = ctxAt s c) (hregs : regsOn t c p = regsOn s c p) :
    readCtxReg t p c r = readCtxReg s p c r := by
  simp only [readCtxReg, hctx, hregs]
end

/-! ### Writes and their read-back -/

section
variable {s : State} {p d r : Nat} {c : BitVec 12} {v : Word}

theorem writeReg_of_ctxReg (hr : isCtxReg r = true) (hno : NoWrites s c) (reply : Option WriteReply) :
    writeReg s p c d r v reply = underWay s (RegWrite.mk c r v (writePlots c) reply) := by
  have hrange : ¬ (0x100 ≤ r ∧ r < 0x120) := by
    simp only [isCtxReg, Bool.or_eq_true, Bool.and_eq_true, decide_eq_true_eq] at hr
    omega
  have hleft : writePlots c ≠ [] := by
    unfold writePlots
    split <;> decide
  rw [writeReg, if_neg hrange, if_pos hr, addWrite_eq (w := RegWrite.mk c r v (writePlots c) reply) hno hleft]

theorem nodup_writePlots : (writePlots c).Nodup := List.nodup_range

theorem erase_writePlots_ne_nil : (writePlots c).erase p ≠ [] := by
  intro h
  have hlen : 32 ≤ (writePlots c).length := by
    unfold writePlots
    split <;> simp
  have hrest := List.length_erase (a := p) (l := writePlots c)
  rw [h, List.length_nil] at hrest
  split at hrest <;> omega

/-- A register of a context after a plot has taken a write of it. -/
theorem readReg_taken (hr : isCtxReg r = true) (hno : NoWrites s c) (hp : p ∈ writePlots c) :
    readReg (takeWrite (writeReg s p c d r v none) p c) p c d r =
      readCtxReg (underWay s (RegWrite.mk c r v ((writePlots c).erase p) none)) p c r := by
  rw [readReg_of_ctxReg hr, writeReg_of_ctxReg hr hno,
    takeWrite_underWay (w := RegWrite.mk c r v (writePlots c) none) hno hp,
    endWrites_underWay (w := RegWrite.mk c r v ((writePlots c).erase p) none) hno erase_writePlots_ne_nil]

theorem regsOn_taken (hno : NoWrites s c) : regsOn (underWay s (RegWrite.mk c r v ((writePlots c).erase p) none)) c p =
    writeCtxRegs (c != headland) (regsOn s c p) r v := by
  have hnot : p ∉ (writePlots c).erase p := fun hmem => ((nodup_writePlots (c := c)).mem_erase_iff.mp hmem).1 rfl
  exact (regsOn_underWay (w := RegWrite.mk c r v ((writePlots c).erase p) none) hno).trans (if_neg hnot)
end

/-! ### What each register holds after a write (R322, R410, R411) -/

section
variable {user : Bool} {x : CtxRegs} {r : Nat} {v : Word}

theorem writeCtxRegs_of_ignored (hr : r ∈ [0x205, 0x206, 0x207, 0x210, 0x211, 0x212, 0x213, 0x223]) : writeCtxRegs user x r v = x := by
  simp only [List.mem_cons, List.not_mem_nil, or_false] at hr
  rcases hr with rfl | rfl | rfl | rfl | rfl | rfl | rfl | rfl <;> rfl

theorem readCtxRegs_writeCtxRegs_whole (hr : r ∈ [0x201, 0x202, 0x203, 0x204, 0x208, 0x209, 0x20A, 0x20B, 0x20C, 0x20D, 0x20E]) :
    readCtxRegs (writeCtxRegs user x r v) r = v := by
  simp only [List.mem_cons, List.not_mem_nil, or_false] at hr
  rcases hr with rfl | rfl | rfl | rfl | rfl | rfl | rfl | rfl | rfl | rfl | rfl <;> rfl

theorem readCtxRegs_writeCtxRegs_tolerance (hr : r ∈ [0x220, 0x221, 0x222]) :
    readCtxRegs (writeCtxRegs user x r v) r = clampTolerance v := by
  simp only [List.mem_cons, List.not_mem_nil, or_false] at hr
  rcases hr with rfl | rfl | rfl <;> rfl

theorem clampTolerance_toNat (v : Word) :
    (clampTolerance v).toNat = min 149 (v.extractLsb' 8 8).toNat * 256 + min 24 (v.extractLsb' 0 5).toNat := by
  rw [clampTolerance, BitVec.toNat_ofNat]
  exact Nat.mod_eq_of_lt (by omega)

/-- The fields of a tolerance register (R322). -/
theorem clampTolerance_fields (v : Word) : let w := clampTolerance v
    (w.extractLsb' 8 8).toNat = min 149 (v.extractLsb' 8 8).toNat ∧ (w.extractLsb' 0 5).toNat = min 24 (v.extractLsb' 0 5).toNat ∧
      w.extractLsb' 16 48 = 0 ∧ w.extractLsb' 5 3 = 0 := by
  intro w
  have hw : ∀ start len, (w.extractLsb' start len).toNat =
      (min 149 (v.extractLsb' 8 8).toNat * 256 + min 24 (v.extractLsb' 0 5).toNat) / 2 ^ start % 2 ^ len := by
    intro start len
    rw [BitVec.extractLsb'_toNat, clampTolerance_toNat, Nat.shiftRight_eq_div_pow]
  refine ⟨?_, ?_, BitVec.eq_of_toNat_eq ?_, BitVec.eq_of_toNat_eq ?_⟩
  · rw [hw]
    omega
  · rw [hw]
    omega
  · rw [hw]
    change _ = 0
    omega
  · rw [hw]
    change _ = 0
    omega

theorem readCtxReg_of_stored {s : State} {p : Nat} {c : BitVec 12} (hr : r ∉ [0x205, 0x206, 0x207]) :
    readCtxReg s p c r = readCtxRegs (regsOn s c p) r := by
  simp only [List.mem_cons, List.not_mem_nil, or_false, not_or] at hr
  obtain ⟨h5, h6, h7⟩ := hr
  unfold readCtxReg
  split
  · exact absurd rfl h5
  · exact absurd rfl h6
  · exact absurd rfl h7
  · rfl
end

/-- The headland context may reach every register. -/
theorem mayRead_headland (r : Nat) : mayRead headland r = true := by
  unfold mayRead
  split <;> rfl

theorem mayWrite_headland (s : State) (p r : Nat) : mayWrite s p headland r = true := by
  unfold mayWrite
  split <;> rfl

/-- The registers that only the headland context reaches. -/
theorem rightsOf_headOnly {r : Nat}
    (hr : r ∈ [0x208, 0x209, 0x20A, 0x20B, 0x20C, 0x20D, 0x20E, 0x300, 0x310, 0x311, 0x320, 0x340, 0x341]) : rightsOf r = .headOnly := by
  simp only [List.mem_cons, List.not_mem_nil, or_false] at hr
  rcases hr with rfl | rfl | rfl | rfl | rfl | rfl | rfl | rfl | rfl | rfl | rfl | rfl | rfl <;> rfl

theorem rightsOf_headWrite {r : Nat} (hr : r ∈ [0x202, 0x203, 0x204]) : rightsOf r = .headWrite := by
  simp only [List.mem_cons, List.not_mem_nil, or_false] at hr
  rcases hr with rfl | rfl | rfl <;> rfl

theorem rightsOf_counters {r : Nat} (hlo : 0x100 ≤ r) (hhi : r < 0x120) : rightsOf r = .counters := by
  rw [rightsOf, if_neg (Nat.not_lt.mpr hlo), if_pos hhi]

section
variable {s : State} {p d r : Nat} {c : BitVec 12} {v : Word} (hno : NoWrites s c) (hp : p ∈ writePlots c)
include hno

/-- A write that a register ignores leaves what was read. -/
theorem readReg_taken_ignored (hp : p ∈ writePlots c)
    (hr : r ∈ [0x000, 0x205, 0x206, 0x207, 0x210, 0x211, 0x212, 0x213, 0x223, 0x330]) :
    readReg (takeWrite (writeReg s p c d r v none) p c) p c d r = readReg s p c d r := by
  have hcases : (r = 0x000 ∨ r = 0x330) ∨ r ∈ [0x205, 0x206, 0x207, 0x210, 0x211, 0x212, 0x213, 0x223] := by
    simp only [List.mem_cons, List.not_mem_nil, or_false] at hr ⊢
    omega
  rcases hcases with (rfl | rfl) | hr
  · exact congrArg (readReg · p c d 0x000) (takeWrite_of_noWrites hno)
  · exact congrArg (readReg · p c d 0x330) (takeWrite_of_noWrites hno)
  · have hctx : isCtxReg r = true := by
      simp only [List.mem_cons, List.not_mem_nil, or_false] at hr
      rcases hr with rfl | rfl | rfl | rfl | rfl | rfl | rfl | rfl <;> rfl
    rw [readReg_taken hctx hno hp, readReg_of_ctxReg hctx]
    exact readCtxReg_of_regsOn rfl ((regsOn_taken hno).trans (writeCtxRegs_of_ignored hr))

/-- A register that keeps what is written, after a plot has taken it. -/
theorem readReg_taken_stored (hp : p ∈ writePlots c) (hr : isCtxReg r = true) (hstored : r ∉ [0x205, 0x206, 0x207]) :
    readReg (takeWrite (writeReg s p c d r v none) p c) p c d r = readCtxRegs (writeCtxRegs (c != headland) (regsOn s c p) r v) r := by
  rw [readReg_taken hr hno hp, readCtxReg_of_stored hstored, regsOn_taken hno]

theorem readReg_began (hp : p ∈ writePlots c) (hr : isCtxReg r = true) :
    readReg (writeReg s p c d r v none) p c d r = readReg s p c d r := by
  rw [readReg_of_ctxReg hr, readReg_of_ctxReg hr, writeReg_of_ctxReg hr hno]
  exact readCtxReg_of_regsOn rfl ((regsOn_underWay (w := RegWrite.mk c r v (writePlots c) none) hno).trans (if_pos hp))

theorem allTaken (hr : isCtxReg r = true) : (writePlots c).foldl (fun t q => takeWrite t q c) (writeReg s p c d r v none) =
    modCtx s c (fun x => { x with regs := writeCtxRegs (c != headland) x.regs r v }) := by
  rw [writeReg_of_ctxReg hr hno]
  have hcons : ∃ q l, writePlots c = q :: l := by
    unfold writePlots
    split
    · exact ⟨0, (List.range 35).map Nat.succ, rfl⟩
    · exact ⟨0, (List.range 31).map Nat.succ, rfl⟩
  obtain ⟨q, l, hl⟩ := hcons
  rw [hl]
  exact takeWrites_underWay hno q l
end

/-- Settles O41: the rights by the class of the register, the read-back by what `writeCtxRegs` leaves of it. -/
theorem registerRights : Obligations.RegisterRights := by
  intro s p d r c v user began wrote all cfg
  refine ⟨fun hu hr => ?headOnly, fun hu hr => ?headWrite, fun hu hlo hhi => ?counters, ⟨mayRead_headland r, mayWrite_headland s p r⟩,
    fun hp hno => ⟨readReg_taken_ignored hno hp, fun hr => ?whole, fun hr hu => ?userCfg, fun hr hc => ?headCfg, fun hr => ?tolerance,
      fun hr => ⟨readReg_began hno hp hr, ?regs, ?writes⟩⟩, rfl, rfl⟩
  case headOnly =>
    have hfalse : (c == headland) = false := beq_eq_false_iff_ne.mpr hu
    simp only [mayRead, mayWrite, rightsOf_headOnly hr, hfalse, and_self]
  case headWrite =>
    have hfalse : (c == headland) = false := beq_eq_false_iff_ne.mpr hu
    simp only [mayRead, mayWrite, rightsOf_headWrite hr, hfalse, and_self]
  case counters =>
    have hfalse : (c == headland) = false := beq_eq_false_iff_ne.mpr hu
    simp only [mayRead, mayWrite, rightsOf_counters hlo hhi, hfalse, Bool.false_or, true_and]
    rfl
  case whole =>
    have hctx : isCtxReg r = true ∧ r ∉ [0x205, 0x206, 0x207] := by
      simp only [List.mem_cons, List.not_mem_nil, or_false] at hr
      rcases hr with rfl | rfl | rfl | rfl | rfl | rfl | rfl | rfl | rfl | rfl | rfl <;> decide
    exact (readReg_taken_stored hno hp hctx.1 hctx.2).trans (readCtxRegs_writeCtxRegs_whole hr)
  case userCfg =>
    subst hr
    have hne : (c != headland) = true := bne_iff_ne.mpr hu
    refine (readReg_taken_stored hno hp rfl (by decide)).trans ?_
    rw [hne]
    rfl
  case headCfg =>
    subst hr hc
    exact readReg_taken_stored hno hp rfl (by decide)
  case tolerance =>
    have hctx : isCtxReg r = true ∧ r ∉ [0x205, 0x206, 0x207] := by
      simp only [List.mem_cons, List.not_mem_nil, or_false] at hr
      rcases hr with rfl | rfl | rfl <;> decide
    have hwrote : wrote = clampTolerance v :=
      (readReg_taken_stored hno hp hctx.1 hctx.2).trans (readCtxRegs_writeCtxRegs_tolerance hr)
    rw [hwrote]
    exact clampTolerance_fields v
  case regs =>
    have hall : all = _ := allTaken hno hr
    rw [hall, ctxAt_modCtx]
  case writes =>
    have hall : all = _ := allTaken hno hr
    rw [hall]
    rfl

/-! ### srd and swr (R413, R414) -/

section
variable {c : FireCtx} {m : MatchedSet} {u : State} {v : Nat} {dx : Bool} {die : BitVec 2} {reg : BitVec 12}

theorem srdResult_ok (hr : mayRead c.block.ctx reg.toNat = true) : srdResult dx die reg c u =
    .ok (u, emit c (word64Packet (readReg u c.plot c.block.ctx (dieFor c.plot dx die) reg.toNat))) := by
  simp only [srdResult, require_of_true hr, bind_ok]

theorem srdResult_denied (hr : mayRead c.block.ctx reg.toNat = false) :
    srdResult dx die reg c u = .error (causeOnly causePrivilege) := by
  simp only [srdResult, require_false_bind hr]

theorem swrResult_ok (hr : mayRead c.block.ctx reg.toNat = true) (hw : mayWrite u c.plot c.block.ctx reg.toNat = true)
    (hv : natOperand c 0 0 = .ok v) : swrResult dx die reg c m u =
    let d := dieFor c.plot dx die
    let old := readReg u c.plot c.block.ctx d reg.toNat
    .ok (writeReg u c.plot c.block.ctx d reg.toNat (BitVec.ofNat 64 v) (some (WriteReply.mk c.plot (heldOf c m) old)),
      if isCtxReg reg.toNat then [] else emit c (word64Packet old)) := by
  simp only [swrResult, hr, hw, Bool.and_self, require_of_true, bind_ok, hv]

theorem swrResult_denied (hr : mayWrite u c.plot c.block.ctx reg.toNat = false ∨ mayRead c.block.ctx reg.toNat = false) :
    swrResult dx die reg c m u = .error (causeOnly causePrivilege) := by
  have hfalse : (mayWrite u c.plot c.block.ctx reg.toNat && mayRead c.block.ctx reg.toNat) = false := Bool.and_eq_false_iff.mpr hr
  simp only [swrResult, require_false_bind hfalse]
end

/-- Settles O40: `srd` and `swr` by the rights of the register, and the reply of a `swr` by whether a context holds it. -/
theorem registerFirings : Obligations.RegisterFirings := by
  intro s p v b m h dx die reg c u d r old wrote denied hf
  refine ⟨fun hr => fireState_ok (body := srdResult dx die reg) hf (srdResult_ok (c := c) hr), fun hr =>
    ⟨fireState_error (body := srdResult dx die reg) hf (srdResult_denied (c := c) hr), ?unreadable⟩,
    fun hr hw hv => ⟨fun hctx => ?now, fun hctx => ?later⟩,
    fun hw => ?unwritable⟩
  case unreadable => exact fireHeld_error (body := swrResult dx die reg) hf (swrResult_denied (c := c) (.inr hr))
  case unwritable => exact fireHeld_error (body := swrResult dx die reg) hf (swrResult_denied (c := c) (.inl hw))
  case now =>
    refine fireHeld_ok (body := swrResult dx die reg) hf ((swrResult_ok (c := c) hr hw hv).trans ?_)
    exact congrArg (fun xs => Except.ok (wrote, xs)) (if_neg (Bool.eq_false_iff.mp hctx))
  case later =>
    refine fireHeld_silent (body := swrResult dx die reg) hf ((swrResult_ok (c := c) hr hw hv).trans ?_)
    exact congrArg (fun xs => Except.ok (wrote, xs)) (if_pos hctx)

end Sys2Proof
end

section
/-! SUPPORT. The firings of the memory and stream instructions (R194 to R197, R203, R228): the parts of an access, the access that a firing
adds, and its translation by the entry of its station. -/
namespace Sys2Proof
open Machine

/-! ### The parts of an access (R194 to R196, R228) -/

theorem foldl_pick_eq_none {α : Type} {f : Option α → α → Option α} (hf : ∀ m x, (f m x).isSome = true) {l : List α} {m : Option α}
    (h : l.foldl f m = none) : l = [] := by
  induction l generalizing m with
  | nil => rfl
  | cons x l ih =>
    obtain rfl := ih h
    have hx : f m x = none := h
    rw [← Option.isNone_iff_eq_none, Option.isNone_eq_false_iff.mpr (hf m x)] at hx
    cases hx

theorem checkAddresses_ok {ea : Word} {as : List Word} {k : Nat} (hvalid : vaValid ea = true) (halign : ∀ a ∈ as, a.toNat % k = 0) :
    checkAddresses ea as k = .ok () := by
  have hnil : as.filter (fun a => !(a.toNat % k == 0)) = [] :=
    List.filter_eq_nil_iff.mpr fun a ha => by simp [halign a ha]
  simp only [checkAddresses, hvalid, Bool.not_true, Bool.false_eq_true, if_false, lowestFailing, hnil, List.foldl_nil]

theorem checkAddresses_bytes {ea : Word} (hvalid : vaValid ea = true) : checkAddresses ea [ea] 1 = .ok () :=
  checkAddresses_ok hvalid fun _ _ => Nat.mod_one _

theorem elementParts_map_range (g : Nat → Word) (n bytes : Nat) (val : Nat → Word) :
    elementParts ((List.range n).map g) bytes val = (List.range n).map (fun i => mkPart (g i) bytes (val i) 0) := by
  rw [elementParts, List.length_map, List.length_range]
  refine List.ext_getElem (by simp) fun i h _ => ?_
  simp

theorem checkRun_ok {g : Nat → Word} {ea : Word} {n k : Nat} (hvalid : vaValid ea = true) (halign : ∀ i < n, (g i).toNat % k = 0) :
    checkAddresses ea ((List.range n).map g) k = .ok () := by
  refine checkAddresses_ok hvalid fun a ha => ?_
  obtain ⟨i, hi, rfl⟩ := List.mem_map.mp ha
  exact halign i (List.mem_range.mp hi)

theorem mapM_map_ok {α β γ : Type} {f : α → Except FaultInfo β} (g : β → γ) {l : List α} {r : List β} (h : l.mapM f = .ok r) :
    l.mapM (fun a => do let x ← f a; .ok (g x)) = .ok (r.map g) := by
  induction l generalizing r with
  | nil =>
    obtain rfl : [] = r := Except.ok.inj h
    rfl
  | cons a l ih =>
    rw [List.mapM_cons] at h ⊢
    obtain ⟨x, hx, h⟩ := bind_eq_ok h
    obtain ⟨xs, hxs, h⟩ := bind_eq_ok h
    obtain rfl : x :: xs = r := Except.ok.inj h
    simp only [hx, bind_ok, ih hxs]
    rfl

/-- The effective address of a firing whose address operand is `va` (R194). -/
def eaOf (c : FireCtx) (va : Word) : Word := va + waveOffset c.head

/-- Element addresses one after another. -/
def runAt (ea : Word) (k i : Nat) : Word := ea + BitVec.ofNat 64 (i * k)

theorem runAddresses_eq (ea : Word) (n k : Nat) : runAddresses ea n k = (List.range n).map (runAt ea k) := rfl

/-- The parts at addresses given by number, with the value that each writes. -/
def cellsAt (n bytes : Nat) (g : Nat → Word) (val : Nat → Word) : List Machine.Part := (List.range n).map (fun i => mkPart (g i) bytes (val i) 0)

section
variable {c : FireCtx} {va : Word} {ft : BitVec 5} {aop : BitVec 4} {n : Nat} (hva : addressAt c 0 = .ok va)

include hva

theorem effectiveAddress_ok : effectiveAddress c = .ok (eaOf c va) := by
  simp only [effectiveAddress, hva, bind_ok, eaOf]

section
variable (hvalid : vaValid (eaOf c va) = true)
include hvalid

theorem extentOf_ld (halign : ∀ i < lenAt c 0, (runAt (eaOf c va) (tyBytes c.head.ty) i).toNat % tyBytes c.head.ty = 0) :
    extentOf .ld ft aop c = .ok ⟨cellsAt (lenAt c 0) (tyBytes c.head.ty) (runAt (eaOf c va) (tyBytes c.head.ty)) (fun _ => 0), 0⟩ := by
  simp only [extentOf, effectiveAddress_ok hva, bind_ok, reduceCtorEq, if_false, runAddresses_eq]
  rw [checkRun_ok hvalid halign, bind_ok, elementParts_map_range]
  rfl

theorem extentOf_strl (hn : ft.toNat % 8 + 1 = n)
    (halign : ∀ i < n, (runAt (eaOf c va) (tyBytes c.head.ty) i).toNat % tyBytes c.head.ty = 0) :
    extentOf .strl ft aop c = .ok ⟨cellsAt n (tyBytes c.head.ty) (runAt (eaOf c va) (tyBytes c.head.ty)) (fun _ => 0), 0⟩ := by
  simp only [extentOf, effectiveAddress_ok hva, bind_ok, if_true, hn, runAddresses_eq]
  rw [checkRun_ok hvalid halign, bind_ok, elementParts_map_range]
  rfl

theorem extentOf_strlRow (halign : ∀ i < rowBytes ft / 8, (runAt (eaOf c va) 8 i).toNat % 8 = 0) :
    extentOf .strlRow ft aop c = .ok ⟨cellsAt (rowBytes ft / 8) 8 (runAt (eaOf c va) 8) (fun _ => 0), 0⟩ := by
  simp only [extentOf, effectiveAddress_ok hva, bind_ok, runAddresses_eq]
  rw [checkRun_ok hvalid halign, bind_ok, elementParts_map_range]
  rfl

section
variable (hlen : lenAt c 0 = 1)
include hlen

/-- A store of every element of a packet. -/
theorem extentOf_store {op : MemOp} (hop : op ∈ [MemOp.st, .strs, .red])
    (halign : ∀ i < lenAt c 1, (runAt (eaOf c va) (tyBytes c.head.ty) i).toNat % tyBytes c.head.ty = 0) :
    extentOf op ft aop c = .ok ⟨cellsAt (lenAt c 1) (tyBytes c.head.ty) (runAt (eaOf c va) (tyBytes c.head.ty))
      (elemAt c (wideTy c.head.ty) 1), 0⟩ := by
  simp only [List.mem_cons, List.not_mem_nil, or_false] at hop
  rcases hop with rfl | rfl | rfl <;>
  · simp only [extentOf, effectiveAddress_ok hva, bind_ok, hlen, beq_self_eq_true, require_of_true, runAddresses_eq]
    rw [checkRun_ok hvalid halign, bind_ok, elementParts_map_range]
    rfl

section
variable (halign : (eaOf c va).toNat % tyBytes c.head.ty = 0)
include halign

omit hva hlen in
theorem checkOne_ok : checkAddresses (eaOf c va) [eaOf c va] (tyBytes c.head.ty) = .ok () :=
  checkAddresses_ok hvalid fun _ ha => (List.mem_singleton.mp ha) ▸ halign

theorem extentOf_lds : extentOf .lds ft aop c = .ok ⟨[mkPart (eaOf c va) (tyBytes c.head.ty) 0 0], 0⟩ := by
  simp only [extentOf, effectiveAddress_ok hva, bind_ok, hlen, beq_self_eq_true, require_of_true, checkOne_ok hvalid halign]

theorem extentOf_stf (hlen1 : lenAt c 1 = 1) :
    extentOf .stf ft aop c = .ok ⟨[mkPart (eaOf c va) (tyBytes c.head.ty) (elemAt c (wideTy c.head.ty) 1 0) 0], 0⟩ := by
  simp only [extentOf, effectiveAddress_ok hva, bind_ok, hlen, hlen1, beq_self_eq_true, Bool.and_self, require_of_true,
    checkOne_ok hvalid halign]

theorem extentOf_atom (hlen1 : lenAt c 1 = 1) (hlen2 : aop = 9 → lenAt c 2 = 1) : extentOf .atom ft aop c =
    .ok ⟨[mkPart (eaOf c va) (tyBytes c.head.ty) (elemAt c (wideTy c.head.ty) 1 0) (elemAt c (wideTy c.head.ty) 2 0)], 0⟩ := by
  have hreq : (lenAt c 0 == 1 && lenAt c 1 == 1 && (aop != 9 || lenAt c 2 == 1)) = true := by
    rw [hlen, hlen1]
    by_cases h9 : aop = 9
    · simp [hlen2 h9]
    · rw [bne_iff_ne.mpr h9]
      rfl
  simp only [extentOf, effectiveAddress_ok hva, bind_ok, require_of_true hreq, checkOne_ok hvalid halign]
end

section
variable {is : List Int} (his : (List.range (lenAt c 1)).mapM (fun i => intOperand c 1 i) = .ok is)

/-- The address of an element by its index (R195). -/
def indexedAt (ea : Word) (k : Nat) (is : List Int) (i : Nat) : Word := ea + BitVec.ofInt 64 (is.getD i 0 * (k : Int))

include his

omit hva hvalid hlen in
theorem indexAddresses_ok (ea : Word) (k : Nat) : indexAddresses c ea k = .ok ((List.range (lenAt c 1)).map (indexedAt ea k is)) := by
  have hlength : is.length = lenAt c 1 := (mapM_ok_length his).trans List.length_range
  refine (mapM_map_ok (fun x => ea + BitVec.ofInt 64 (x * (k : Int))) his).trans (congrArg Except.ok ?_)
  refine List.ext_getElem (by simp [hlength]) fun i hi hi' => ?_
  have hlt : i < is.length := by simpa using hi
  simp [indexedAt, hlt]

variable (halign : ∀ i < lenAt c 1, (indexedAt (eaOf c va) (tyBytes c.head.ty) is i).toNat % tyBytes c.head.ty = 0)
include halign

theorem extentOf_ldg : extentOf .ldg ft aop c = .ok ⟨cellsAt (lenAt c 1) (tyBytes c.head.ty)
    (indexedAt (eaOf c va) (tyBytes c.head.ty) is) (fun _ => 0), 0⟩ := by
  simp only [extentOf, effectiveAddress_ok hva, bind_ok, hlen, beq_self_eq_true, require_of_true, indexAddresses_ok his]
  rw [checkRun_ok hvalid halign, bind_ok, elementParts_map_range]
  rfl

theorem extentOf_sts (hlen2 : lenAt c 2 = 1 ∨ lenAt c 2 = lenAt c 1) : extentOf .sts ft aop c = .ok ⟨cellsAt (lenAt c 1)
    (tyBytes c.head.ty) (indexedAt (eaOf c va) (tyBytes c.head.ty) is) (elemAt c (wideTy c.head.ty) 2), 0⟩ := by
  have hreq : (lenAt c 0 == 1 && (lenAt c 2 == 1 || lenAt c 2 == lenAt c 1)) = true := by
    rw [hlen]
    simpa using hlen2
  simp only [extentOf, effectiveAddress_ok hva, bind_ok, require_of_true hreq, indexAddresses_ok his]
  rw [checkRun_ok hvalid halign, bind_ok, elementParts_map_range]
  rfl
end
end

section
variable (hn : natOperand c 1 0 = .ok n)
include hn

theorem extentOf_clre (halign : (eaOf c va).toNat % 8 = 0)
    (hpage : n = 0 ∨ (eaOf c va).toNat / 2 ^ 21 = ((eaOf c va).toNat + 8 * n - 1) / 2 ^ 21) :
    extentOf .clre ft aop c = .ok ⟨clreParts (eaOf c va) n, 0⟩ := by
  have hcheck : checkAddresses (eaOf c va) [eaOf c va] 8 = .ok () :=
    checkAddresses_ok hvalid fun _ ha => (List.mem_singleton.mp ha) ▸ halign
  simp only [extentOf, effectiveAddress_ok hva, bind_ok, hn, hcheck, if_pos hpage]

theorem extentOf_pref : extentOf .pref ft aop c = .ok ⟨lineParts (eaOf c va) (min n 65536), 0⟩ := by
  simp only [extentOf, effectiveAddress_ok hva, bind_ok, hn, checkAddresses_bytes hvalid]

theorem extentOf_cctl : extentOf .cctl ft aop c = .ok
    ⟨if n / 2 ^ 60 % 16 < 4 then lineParts (eaOf c va) (64 * (n % 2 ^ 20)) else [], n / 2 ^ 60 % 16⟩ := by
  simp only [extentOf, effectiveAddress_ok hva, bind_ok, hn, checkAddresses_bytes hvalid]
end
end
end

/-! ### The access that a firing adds (R203) -/

section
variable {s : State} {p : Nat} {b : BlockId} {m : MatchedSet} {h : Head} {op : MemOp} {ft : BitVec 5} {x : MemXf}

theorem fireAccess_selected (hf : Fires s p b m h) : fireAccess h op ft x s =
    .next (advance (addAccess (consume s p b m) p (accessOf (consume s p b m) (fireCtxOf s p b m h) m op ft x)) p
      (consume s p b m).nextId) := by
  simp only [fireAccess, fireWith, hf.1, hf.2, sendAll_nil]
  rfl

/-- The access of a set whose operands name the parts `y`. -/
def openedAccess (u : State) (c : FireCtx) (m : MatchedSet) (op : MemOp) (x : MemXf) (y : Extent) : Access where
  id := u.nextId
  op := op
  block := c.block
  set := m
  head := c.head
  xf := x
  ftz := c.ftz
  handler := inHandlerBlock u c.plot c.env.gslot c.block
  parts := y.parts
  code := y.code
  status := if op = .cctl ∧ 4 ≤ y.code then 1 else 0
  phase := .translating false
  fault := none
  freed := false
  withdrawn := false
  again := false
  fresh := false

theorem accessOf_ok {u : State} {c : FireCtx} {y : Extent} (hy : extentOf op ft x.aop c = .ok y) :
    accessOf u c m op ft x = openedAccess u c m op x y := by
  simp only [accessOf, hy, openedAccess, Option.isSome_none, Bool.false_eq_true, if_false]

theorem accessOf_error {u : State} {c : FireCtx} {e : FaultInfo} (he : extentOf op ft x.aop c = .error e) :
    accessOf u c m op ft x = { openedAccess u c m op x ⟨[], 0⟩ with status := 0, phase := .transit, fault := some e } := by
  simp only [accessOf, he, openedAccess, Option.isSome_some, if_true]
  rw [if_neg (by omega)]

theorem fireAccess_ok {y : Extent} (hf : Fires s p b m h) (hy : extentOf op ft x.aop (fireCtxOf s p b m h) = .ok y) :
    fireAccess h op ft x s = .next (advance (addAccess (consume s p b m) p
      (openedAccess (consume s p b m) (fireCtxOf s p b m h) m op x y)) p (consume s p b m).nextId) := by
  rw [fireAccess_selected hf, accessOf_ok hy]

theorem fireAccess_error {e : FaultInfo} (hf : Fires s p b m h) (he : extentOf op ft x.aop (fireCtxOf s p b m h) = .error e) :
    fireAccess h op ft x s = .next (advance (addAccess (consume s p b m) p
      { openedAccess (consume s p b m) (fireCtxOf s p b m h) m op x ⟨[], 0⟩ with
        status := 0, phase := .transit, fault := some e }) p (consume s p b m).nextId) := by
  rw [fireAccess_selected hf, accessOf_error he]
end

/-! ### Translation by the entry of the station (R197, R230) -/

/-- A part with the page that a leaf gives it (R446, R447). -/
def placedPart (p : Nat) (l : Leaf) (y : Machine.Part) : Machine.Part := { y with
  pa := some (leafPa l y.ea), level := leafLevel l, leaf := some l, kind := pageKind p l.pte (leafPa l y.ea)
  seq := pteSequential l.pte, sysAtomic := pteSa l.pte }

/-- The parts of which those at some positions have their page. -/
def placedAmong (p : Nat) (l : Leaf) (d : List Nat) (ys : List Machine.Part) : List Machine.Part :=
  ys.mapIdx (fun i y => if i ∈ d then placedPart p l y else y)

/-- The positions below `m` whose parts have no page yet. -/
def unplaced (d : List Nat) (m : Nat) : List Nat := (List.range m).filter (fun i => !d.contains i)

theorem length_unplaced_le (d : List Nat) (m : Nat) : (unplaced d m).length ≤ m :=
  Nat.le_trans (List.length_filter_le ..) (Nat.le_of_eq List.length_range)

theorem mem_unplaced {d : List Nat} {m i : Nat} : i ∈ unplaced d m ↔ i < m ∧ i ∉ d := by
  rw [unplaced, List.mem_filter, List.mem_range, Bool.not_eq_true', ← Bool.not_eq_true, List.contains_iff_mem]

theorem mem_of_unplaced_nil {d : List Nat} {m i : Nat} (h : unplaced d m = []) (hi : i < m) : i ∈ d := by
  refine Decidable.byContradiction fun hnot => ?_
  have hmem := mem_unplaced.mpr ⟨hi, hnot⟩
  rw [h] at hmem
  exact List.not_mem_nil hmem

theorem unplaced_cons (d : List Nat) (m i : Nat) : unplaced (i :: d) m = (unplaced d m).filter (fun j => j != i) := by
  rw [unplaced, unplaced, List.filter_filter]
  refine List.filter_congr fun j _ => ?_
  rw [List.contains_cons, Bool.not_or]
  rfl

/-- Placing one more part leaves fewer to place. -/
theorem length_unplaced_cons {d : List Nat} {m i : Nat} (hi : i < m) (hd : i ∉ d) :
    (unplaced (i :: d) m).length < (unplaced d m).length := by
  rw [unplaced_cons, List.length_filter_lt_length_iff_exists]
  exact ⟨i, mem_unplaced.mpr ⟨hi, hd⟩, by rw [bne_self_eq_false]; exact Bool.false_ne_true⟩

/-- A part that a leaf covers, permits and has ready (R446, R450, R454). -/
structure LeafServes (l : Leaf) (a : Access) (y : Machine.Part) : Prop where
  pa : y.pa = none
  todo : y.state = .todo
  valid : vaValid y.ea = true
  covers : leafCovers a.block.ctx y.ea l = true
  permitted : permits a.block.ctx (needOf a.op a.xf.take) l.pte = true
  ready : leafReady (needOf a.op a.xf.take) y.ea l = true
  notPeer : rangeOf (leafPa l y.ea) ≠ .peer
  notHost : a.op ∈ [MemOp.lds, .stf, .clre] → rangeOf (leafPa l y.ea) ≠ .host

/-- The lower of the part chosen so far and the next. -/
def lowerPart (m : Option (Nat × Machine.Part)) (x : Nat × Machine.Part) : Option (Nat × Machine.Part) :=
  match m with
  | none => some x
  | some y => if x.2.ea.toNat < y.2.ea.toNat then some x else some y

/-- A part that has still to be translated, with its position. -/
def untranslated (a : Access) (i : Nat) : Option (Nat × Machine.Part) :=
  match a.parts[i]? with
  | some x => if x.pa.isNone && x.state == .todo then some (i, x) else none
  | none => none

theorem nextPart_eq (a : Access) : nextPart a = ((List.range a.parts.length).filterMap (untranslated a)).foldl lowerPart none := rfl

theorem lowerPart_isSome (m : Option (Nat × Machine.Part)) (x : Nat × Machine.Part) : (lowerPart m x).isSome = true := by
  unfold lowerPart
  split
  · rfl
  · split <;> rfl

theorem mem_of_foldl_lowerPart {l : List (Nat × Machine.Part)} {m : Option (Nat × Machine.Part)} {x : Nat × Machine.Part}
    (h : l.foldl lowerPart m = some x) : x ∈ l ∨ m = some x := by
  induction l generalizing m with
  | nil => exact .inr h
  | cons y l ih =>
    rcases ih h with hmem | hstep
    · exact .inl (List.mem_cons_of_mem _ hmem)
    · unfold lowerPart at hstep
      split at hstep
      · exact .inl (Option.some.inj hstep ▸ List.mem_cons_self)
      · split at hstep
        · exact .inl (Option.some.inj hstep ▸ List.mem_cons_self)
        · exact .inr hstep

theorem untranslated_eq_some {a : Access} {i : Nat} {x : Nat × Machine.Part} (h : untranslated a i = some x) :
    i = x.1 ∧ a.parts[x.1]? = some x.2 ∧ x.2.pa = none ∧ x.2.state = .todo := by
  unfold untranslated at h
  split at h
  · next y hy =>
    split at h
    · next hcond =>
      obtain rfl := Option.some.inj h
      rw [Bool.and_eq_true, Option.isNone_iff_eq_none, beq_iff_eq] at hcond
      exact ⟨rfl, hy, hcond⟩
    · cases h
  · cases h

theorem nextPart_eq_some {a : Access} {x : Nat × Machine.Part} (h : nextPart a = some x) :
    a.parts[x.1]? = some x.2 ∧ x.2.pa = none ∧ x.2.state = .todo := by
  rcases mem_of_foldl_lowerPart h with hmem | hnone
  · obtain ⟨i, -, hi⟩ := List.mem_filterMap.mp hmem
    exact (untranslated_eq_some hi).2
  · cases hnone

theorem nextPart_eq_none {a : Access} (h : nextPart a = none) {i : Nat} {y : Machine.Part} (hy : a.parts[i]? = some y)
    (hpa : y.pa = none) : y.state ≠ .todo := by
  intro htodo
  have hnil : (List.range a.parts.length).filterMap (untranslated a) = [] := foldl_pick_eq_none lowerPart_isSome h
  have hlt : i < a.parts.length := (List.getElem?_eq_some_iff.mp hy).1
  have hnone := List.filterMap_eq_nil_iff.mp hnil i (List.mem_range.mpr hlt)
  simp [untranslated, hy, hpa, htodo] at hnone

section
variable {u : State} {p : Nat} {a : Access} {l : Leaf} {ys : List Machine.Part}

theorem getElem?_placedAmong (d : List Nat) (i : Nat) :
    (placedAmong p l d ys)[i]? = ys[i]?.map (fun y => if i ∈ d then placedPart p l y else y) :=
  List.getElem?_mapIdx

theorem placedAmong_insert (d : List Nat) (i : Nat) (hi : i ∉ d) :
    (placedAmong p l d ys).modify i (placedPart p l) = placedAmong p l (i :: d) ys := by
  refine List.ext_getElem? fun j => ?_
  rw [List.getElem?_modify, getElem?_placedAmong, getElem?_placedAmong]
  by_cases hij : i = j
  · subst hij
    simp [hi]
  · simp [hij, Ne.symm hij]

theorem placedAmong_all {d : List Nat} (hd : ∀ i < ys.length, i ∈ d) : placedAmong p l d ys = ys.map (placedPart p l) := by
  refine List.ext_getElem? fun j => ?_
  rw [getElem?_placedAmong, List.getElem?_map]
  by_cases hj : j < ys.length
  · exact congrArg (fun f => Option.map f ys[j]?) (funext fun _ => if_pos (hd j hj))
  · rw [List.getElem?_eq_none (Nat.not_lt.mp hj)]
    rfl

section
variable (hp : p < u.plots.length) (hnew : ∀ o ∈ (plotAt u p).accesses, o.id ≠ u.nextId) (hid : a.id = u.nextId)
include hp

theorem plotAt_addAccess : plotAt (addAccess u p a) p = { plotAt u p with accesses := (plotAt u p).accesses ++ [a] } :=
  plotAt_modPlot u p _ hp

include hnew hid

theorem accessAt_addAccess : accessAt (addAccess u p a) p a.id = some a := by
  have hnone : (plotAt u p).accesses.find? (fun o => o.id == a.id) = none :=
    List.find?_eq_none.mpr fun o ho => by simpa [hid] using hnew o ho
  rw [accessAt, plotAt_addAccess hp, List.find?_append, hnone, Option.none_or]
  exact List.find?_cons_of_pos (beq_self_eq_true a.id)

/-- The added access written back. -/
theorem putAccess_addAccess {a' : Access} (hid' : a'.id = a.id) : putAccess (addAccess u p a) p a' = addAccess u p a' := by
  have hmap : ((plotAt u p).accesses ++ [a]).map (fun o => if o.id = a'.id then a' else o) = (plotAt u p).accesses ++ [a'] := by
    have hold : (plotAt u p).accesses.map (fun o => if o.id = a'.id then a' else o) = (plotAt u p).accesses :=
      (List.map_congr_left fun o ho => if_neg fun h => hnew o ho ((h.trans hid').trans hid)).trans (List.map_id _)
    rw [List.map_append, hold, List.map_singleton, if_pos hid'.symm]
  have hplots : (u.plots.modify p fun x => { x with accesses := x.accesses ++ [a] }).modify p
      (fun x => { x with accesses := x.accesses.map fun o => if o.id = a'.id then a' else o }) =
      u.plots.modify p fun x => { x with accesses := x.accesses ++ [a'] } := by
    refine List.ext_getElem? fun j => ?_
    rw [List.getElem?_modify, List.getElem?_modify, List.getElem?_modify]
    by_cases hj : p = j
    · subst hj
      have hplot : plotAt u p = u.plots[p] := getD_of_lt _ hp
      rw [hplot] at hmap
      simp [hp, hmap]
    · simp [hj]
  exact congrArg (fun ps => { addAccess u p a with plots := ps }) hplots

omit hnew hid in
theorem stationEntry_addAccess (b : BlockId) (slot : BitVec 7) :
    stationEntry (addAccess u p a) p b slot = stationEntry u p b slot := by
  rw [stationEntry, plotAt_addAccess hp]
  rfl

section
variable (hfault : a.fault = none) (hphase : a.phase = .translating false)
include hfault hphase

/-- With nothing left to translate the access goes to its entry (R203). -/
theorem translateParts_done (hnext : nextPart a = none) (n : Nat) :
    translateParts (n + 1) (addAccess u p a) p a.id = addAccess u p { a with phase := .transit, fresh := false } := by
  simp only [translateParts, accessAt_addAccess hp hnew hid, hfault, hphase, hnext]
  exact putAccess_addAccess hp hnew hid rfl

/-- The next part takes the page of the station's entry. -/
theorem translateParts_placed {i : Nat} {y : Machine.Part} (hnext : nextPart a = some (i, y)) (hserves : LeafServes l a y)
    (hstation : stationEntry u p a.block a.set.slot = some l) (n : Nat) :
    translateParts (n + 1) (addAccess u p a) p a.id =
      translateParts n (addAccess u p (a.modPart i (placedPart p l))) p a.id := by
  have hfilter : (stationEntry (addAccess u p a) p a.block a.set.slot).filter (leafCovers a.block.ctx y.ea) = some l := by
    rw [stationEntry_addAccess hp, hstation]
    exact Option.filter_some_pos hserves.covers
  have hpeer : peerInvalid (addAccess u p a) (leafPa l y.ea) = false := by
    simp [peerInvalid, hserves.notPeer]
  have hhost : ((a.op == .lds || a.op == .stf || a.op == .clre) && rangeOf (leafPa l y.ea) == .host) = false := by
    rw [Bool.and_eq_false_iff]
    by_cases hop : a.op ∈ [MemOp.lds, .stf, .clre]
    · exact .inr (beq_eq_false_iff_ne.mpr (hserves.notHost hop))
    · left
      simpa [and_assoc] using hop
  have hplace : placePart (addAccess u p a) p a i y l = a.modPart i (placedPart p l) := by
    simp only [placePart, hpeer, hhost, Bool.false_eq_true, if_false]
    refine congrArg (fun ps => { a with parts := ps }) (List.ext_getElem? fun j => ?_)
    rw [List.getElem?_modify, List.getElem?_modify]
    by_cases hj : i = j
    · subst hj
      rw [(nextPart_eq_some hnext).1]
      simp [placedPart]
    · simp [hj]
  simp only [translateParts, accessAt_addAccess hp hnew hid, hfault, hphase, hnext, hserves.valid, hfilter, hserves.permitted,
    hserves.ready, Bool.not_true, Bool.false_eq_true, if_false, if_true, hplace]
  rw [putAccess_addAccess (a' := a.modPart i (placedPart p l)) hp hnew hid rfl]
end
end

/-- The whole access translated by the entry of its station. -/
theorem translateParts_all (hp : p < u.plots.length) (hnew : ∀ o ∈ (plotAt u p).accesses, o.id ≠ u.nextId) (hid : a.id = u.nextId)
    (hfault : a.fault = none) (hphase : a.phase = .translating false) (hstation : stationEntry u p a.block a.set.slot = some l)
    (hserves : ∀ y ∈ a.parts, LeafServes l a y) (n : Nat) (d : List Nat) (hn : (unplaced d a.parts.length).length ≤ n) :
    translateParts (n + 1) (addAccess u p { a with parts := placedAmong p l d a.parts }) p a.id =
      addAccess u p { a with parts := a.parts.map (placedPart p l), phase := .transit, fresh := false } := by
  have hlength : (placedAmong p l d a.parts).length = a.parts.length := List.length_mapIdx
  induction n generalizing d with
  | zero =>
    have hd : ∀ i < a.parts.length, i ∈ d := by
      exact fun i hi => mem_of_unplaced_nil (List.length_eq_zero_iff.mp (Nat.le_zero.mp hn)) hi
    have hnext : nextPart { a with parts := placedAmong p l d a.parts } = none := by
      refine Option.eq_none_iff_forall_ne_some.mpr fun x hx => ?_
      obtain ⟨hy, hpa, -⟩ := nextPart_eq_some hx
      rw [placedAmong_all hd, List.getElem?_map, Option.map_eq_some_iff] at hy
      obtain ⟨y, -, hy⟩ := hy
      rw [← hy] at hpa
      cases hpa
    rw [translateParts_done (a := { a with parts := placedAmong p l d a.parts }) hp hnew hid hfault hphase hnext, placedAmong_all hd]
  | succ n ih =>
    cases hnext : nextPart { a with parts := placedAmong p l d a.parts } with
    | none =>
      have hd : ∀ i < a.parts.length, i ∈ d := by
        intro i hi
        refine Decidable.byContradiction fun hnot => ?_
        have hserve := hserves _ (List.getElem_mem hi)
        refine nextPart_eq_none hnext (i := i) (y := a.parts[i]) ?_ hserve.pa hserve.todo
        rw [getElem?_placedAmong, List.getElem?_eq_getElem hi, Option.map_some, if_neg hnot]
      rw [translateParts_done (a := { a with parts := placedAmong p l d a.parts }) hp hnew hid hfault hphase hnext, placedAmong_all hd]
    | some x =>
      obtain ⟨i, z⟩ := x
      obtain ⟨hz, hpa, -⟩ := nextPart_eq_some hnext
      rw [getElem?_placedAmong, Option.map_eq_some_iff] at hz
      obtain ⟨y, hy, hz⟩ := hz
      have hi : i ∉ d := by
        intro hmem
        rw [if_pos hmem] at hz
        subst hz
        cases hpa
      rw [if_neg hi] at hz
      subst hz
      obtain ⟨hlt, hget⟩ := List.getElem?_eq_some_iff.mp hy
      have hserve : LeafServes l { a with parts := placedAmong p l d a.parts } y := by
        obtain ⟨h1, h2, h3, h4, h5, h6, h7, h8⟩ := hserves y (hget ▸ List.getElem_mem hlt)
        exact ⟨h1, h2, h3, h4, h5, h6, h7, h8⟩
      have hcard : (unplaced (i :: d) a.parts.length).length ≤ n :=
        Nat.le_of_lt_succ (Nat.lt_of_lt_of_le (length_unplaced_cons hlt hi) hn)
      have hstep := translateParts_placed (a := { a with parts := placedAmong p l d a.parts }) hp hnew hid hfault hphase hnext hserve
        hstation (n + 1)
      rw [Access.modPart, placedAmong_insert d i hi] at hstep
      exact hstep.trans (ih (i :: d) hcard List.length_mapIdx)
end

/-! ### An access taken as far as it can be (R203, R230) -/

section
variable {u : State} {p : Nat} {a : Access} {l : Leaf}

/-- A plot that does not exist holds no access. -/
theorem addAccess_beyond (hp : u.plots.length ≤ p) (a' : Access) : addAccess u p a = addAccess u p a' := by
  have hplots : ∀ o : Access, u.plots.modify p (fun x => { x with accesses := x.accesses ++ [o] }) = u.plots :=
    fun o => List.modify_eq_self hp
  exact congrArg (fun ps => { addAccess u p a with plots := ps }) ((hplots a).trans (hplots a').symm)

theorem tryStream_of_plain {s : State} {id : Nat} (ha : accessAt s p id = some a) (hstream : isStream a.op = false) :
    tryStream s p id = s := by
  simp only [tryStream, ha, hstream, Bool.not_false, if_true]

theorem translateAccess_of_covered {s : State} {id : Nat} (ha : accessAt s p id = some a) (hcovers : entryCovers s p a = true) :
    translateAccess s p id = translateParts (a.parts.length + 1) s p id := by
  simp only [translateAccess, ha, hcovers, Bool.not_true, Bool.and_false, Bool.false_eq_true, if_false]
  split <;> rfl

theorem advance_beyond (hp : u.plots.length ≤ p) (id : Nat) : advance (addAccess u p a) p id = addAccess u p a := by
  have hlen : (addAccess u p a).plots.length ≤ p := by
    change (u.plots.modify p _).length ≤ p
    rwa [List.length_modify]
  have hnone : accessAt (addAccess u p a) p id = none := by
    rw [accessAt, plotAt_beyond hlen]
    rfl
  simp only [advance, translateAccess, hnone, tryStream]

section
variable (hnew : ∀ o ∈ (plotAt u p).accesses, o.id ≠ u.nextId) (hid : a.id = u.nextId) (hstream : isStream a.op = false)
  (hfault : a.fault = none) (hphase : a.phase = .translating false)
include hnew hid hstream hfault hphase

/-- An access of no parts goes to its entry at once. -/
theorem advance_of_no_parts (hparts : a.parts = []) :
    advance (addAccess u p a) p a.id = addAccess u p { a with phase := .transit, fresh := false } := by
  by_cases hp : p < u.plots.length
  · have hnext : nextPart a = none := by rw [nextPart_eq, hparts]; rfl
    have htranslated : translateAccess (addAccess u p a) p a.id = addAccess u p { a with phase := .transit, fresh := false } := by
      exact (translateAccess_of_covered (accessAt_addAccess hp hnew hid) (by rw [entryCovers, hparts]; rfl)).trans
        (translateParts_done hp hnew hid hfault hphase hnext _)
    rw [advance, htranslated]
    exact tryStream_of_plain (accessAt_addAccess (a := { a with phase := .transit, fresh := false }) hp hnew hid) hstream
  · rw [advance_beyond (Nat.not_lt.mp hp)]
    exact addAccess_beyond (Nat.not_lt.mp hp) _

/-- An access that its station's entry serves goes to its entry at once, with the addresses of that leaf. -/
theorem advance_of_served (hstation : stationEntry u p a.block a.set.slot = some l) (hserves : ∀ y ∈ a.parts, LeafServes l a y) :
    advance (addAccess u p a) p a.id =
      addAccess u p { a with parts := a.parts.map (placedPart p l), phase := .transit, fresh := false } := by
  by_cases hp : p < u.plots.length
  · have hcovers : entryCovers (addAccess u p a) p a = true := by
      refine List.all_eq_true.mpr fun y hy => ?_
      rw [stationEntry_addAccess hp, hstation, Option.any_some, (hserves y hy).covers, Bool.or_true]
    have hempty : placedAmong p l [] a.parts = a.parts := by
      refine List.ext_getElem? fun j => ?_
      rw [getElem?_placedAmong]
      simp
    have hall := translateParts_all hp hnew hid hfault hphase hstation hserves a.parts.length [] (length_unplaced_le _ _)
    rw [hempty] at hall
    have htranslated : translateAccess (addAccess u p a) p a.id =
        addAccess u p { a with parts := a.parts.map (placedPart p l), phase := .transit, fresh := false } :=
      (translateAccess_of_covered (accessAt_addAccess hp hnew hid) hcovers).trans hall
    rw [advance, htranslated]
    exact tryStream_of_plain
      (accessAt_addAccess (a := { a with parts := a.parts.map (placedPart p l), phase := .transit, fresh := false }) hp hnew hid) hstream
  · rw [advance_beyond (Nat.not_lt.mp hp)]
    exact addAccess_beyond (Nat.not_lt.mp hp) _
end
end

/-- Settles O20: the access of each instruction by its extent, and its translation by the entry of its station. -/
theorem memoryFirings : Obligations.MemoryFirings := by
  intro s p n b m h x done lenM1 ft cp sc va is e c u added access opens row faulty ea k elem at_ indexed cells aligned zero hf
  have opened := fun {op : MemOp} {ft : BitVec 5} {y : Extent} (hy : extentOf op ft x.aop c = .ok y) => fireAccess_ok (x := x) hf hy
  refine ⟨(opened (op := .mnop) (ft := 0) (y := ⟨[], 0⟩) rfl :),
    (opened (op := .fence) (ft := 0) (y := ⟨[], 0⟩) rfl :),
        fun hva hvalid => ?opened, fireAccess_error hf, fireAccess_error hf, fireAccess_error hf, fireAccess_error hf,
        fireAccess_error hf, fireAccess_error hf,
    fireAccess_error hf, fireAccess_error hf, fireAccess_error hf, fireAccess_error hf, fireAccess_error hf, fireAccess_error hf,
    fireAccess_error hf, fireAccess_error hf, ?advances⟩
  case opened =>
    have hv : vaValid (eaOf c va) = true := beq_iff_eq.mpr hvalid
    have hn : (lenM1.setWidth 5).toNat % 8 + 1 = lenM1.toNat + 1 := by
      rw [BitVec.toNat_setWidth]
      omega
    refine ⟨fun hal => (opened (extentOf_ld (ft := 0) hva hv hal) :),
      fun hal => (fireAccess_ok (x := plainXf cp done sc) hf (extentOf_strl hva hv hn hal) :),
      fun hal => (fireAccess_ok (x := row) hf (extentOf_strlRow hva hv hal) :),
        fun hlen => ⟨fun hal => ?stores, fun hal => ?singles,
        fun his hal => ?indexed⟩,
      fun hn => ⟨fun hal hpage => (opened (extentOf_clre (ft := 0) hva hv hn hal hpage) :),
        (opened (extentOf_pref (ft := 0) hva hv hn) :),
        fun hcode => ?lines, fun hcode => ?none⟩⟩
    case stores =>
      exact ⟨(opened (extentOf_store (op := .st) (ft := 0) hva hv hlen (by decide) hal) :),
        (opened (extentOf_store (op := .red) (ft := 0) hva hv hlen (by decide) hal) :),
        (fireAccess_ok (x := plainXf cp done sc) hf (extentOf_store (op := .strs) (ft := 0) hva hv hlen (by decide) hal) :)⟩
    case singles =>
      exact ⟨(opened (extentOf_lds (ft := 0) hva hv hlen hal) :),
        fun hlen1 => (opened (extentOf_stf (ft := 0) hva hv hlen hal hlen1) :),
        fun hlen1 hlen2 => (opened (extentOf_atom (ft := 0) hva hv hlen hal hlen1 hlen2) :)⟩
    case indexed =>
      exact ⟨(opened (extentOf_ldg (ft := 0) hva hv hlen his hal) :),
        fun hlen2 => (opened (extentOf_sts (ft := 0) hva hv hlen his hal hlen2) :)⟩
    case lines =>
      have hext := extentOf_cctl (ft := 0) (aop := x.aop) hva hv hn
      rw [if_pos hcode] at hext
      exact (opened hext :)
    case none =>
      have hext := extentOf_cctl (ft := 0) (aop := x.aop) hva hv hn
      rw [if_neg (Nat.not_lt.mpr hcode)] at hext
      exact (opened hext :)
  case advances =>
    intro a l hid hnew hstream hfault hphase
    refine ⟨advance_of_no_parts hnew hid hstream hfault hphase, fun hstation hparts => ?_⟩
    refine advance_of_served hnew hid hstream hfault hphase hstation fun y hy => ?_
    obtain ⟨h1, h2, h3, h4, h5, h6, h7, h8⟩ := hparts y hy
    exact ⟨h1, h2, h3, h4, h5, h6, h7, h8⟩

end Sys2Proof
end

section
/-! SUPPORT. Tokens and block copies: matching (R89 to R92), arrival at an edge port (R471), the return from the overflow area (R92), and
the steps of the block scheduler (R174 to R186). -/
namespace Sys2Proof
open Machine

/-! ### Matching (R89 to R92) -/

section
variable {s : State} {p : Nat} {c : Copy} {slot : BitVec 7} {port : BitVec 2} {t : Token} {i : Instr} {ws : List Waiting}

theorem earliest_spec {q : Nat} {k : Key} {w : Waiting} (h : earliest c slot q k = some w) :
    w ∈ c.waiting ∧ w.slot = slot ∧ keyOf w.tok.env = k := by
  have hmatch := List.find?_some h
  simp only [Bool.and_eq_true, beq_iff_eq] at hmatch
  obtain ⟨⟨hslot, -⟩, hkey⟩ := hmatch
  exact ⟨List.mem_of_find?_eq_some h, hslot, hkey⟩

/-- The tokens that a set gathers wait at its station under its key (R90). -/
theorem gatherSet_spec {k : Key} {qs : List Nat} (h : gatherSet c slot k qs = some ws) :
    ∀ w ∈ ws, w ∈ c.waiting ∧ w.slot = slot ∧ keyOf w.tok.env = k := by
  induction qs generalizing ws with
  | nil =>
    obtain rfl : [] = ws := Option.some.inj h
    exact fun _ hw => absurd hw List.not_mem_nil
  | cons q qs ih =>
    unfold gatherSet at h
    split at h
    · next w xs hw hxs =>
      obtain rfl := Option.some.inj h
      intro y hy
      rcases List.mem_cons.mp hy with rfl | hy
      · exact earliest_spec hw
      · exact ih hxs y hy
    · cases h

/-- The state in which a token looks for its set: its copy is no longer idle, and event 0x09 is counted where tokens of the station
stand in the overflow area. -/
def arrivedAt (s : State) (p : Nat) (c : Copy) (slot : BitVec 7) : State :=
  let touched := modCopy s p c.id (fun x => { x with idle := 0 })
  if hasOverflow touched p c slot then countEvent touched p 0x09 (some c.id.ctx) 1 else touched

section
variable (hi : stationInstr c slot = .ok i) (hrow : hasRowPort i = false ∨ port ≠ 0) (hcredit : creditPort i ≠ some port.toNat)
  (hport : port.toNat ∈ matchPorts i)
include hi hrow hcredit hport

theorem arriveAt_gathered (hset : gatherSet c slot (keyOf t.env) ((matchPorts i).filter (fun q => q != port.toNat)) = some ws) :
    arriveAt s p c slot port t = completeAt (arrivedAt s p c slot) p c slot port t ws i := by
  have hnot : (hasRowPort i && port == 0) = false := Bool.and_eq_false_iff.mpr (hrow.imp_right beq_eq_false_iff_ne.mpr)
  simp only [arriveAt, hi, hnot, hcredit, List.contains_iff_mem.mpr hport, not_true_eq_false, Bool.false_eq_true, if_false, hset]
  rfl

theorem arriveAt_missing (hset : gatherSet c slot (keyOf t.env) ((matchPorts i).filter (fun q => q != port.toNat)) = none) :
    arriveAt s p c slot port t = waitAt (arrivedAt s p c slot) p c slot port t := by
  have hnot : (hasRowPort i && port == 0) = false := Bool.and_eq_false_iff.mpr (hrow.imp_right beq_eq_false_iff_ne.mpr)
  simp only [arriveAt, hi, hnot, hcredit, List.contains_iff_mem.mpr hport, not_true_eq_false, Bool.false_eq_true, if_false, hset]
  rfl
end

theorem waitAt_room (hroom : storeRoom s p c slot = true) :
    waitAt s p c slot port t = modCopy s p c.id (fun x => { x with waiting := x.waiting ++ [Waiting.mk slot port t none] }) :=
  if_pos hroom

theorem waitAt_full (hroom : storeRoom s p c slot = false) : waitAt s p c slot port t =
    overflowAt { modCopy s p c.id (fun x => { x with waiting := x.waiting ++ [Waiting.mk slot port t (some s.nextId)] }) with
      nextId := s.nextId + 1 } p c :=
  if_neg (Bool.eq_false_iff.mp hroom)
end

/-- Settles O45: a token finds its set or waits, in the store or in the overflow area. -/
theorem matchingRule : Obligations.MatchingRule := by
  intro s p c slot port t i ws touched u others a waits hi hrow hcredit hport
  refine ⟨fun hset => arriveAt_gathered hi hrow hcredit hport hset, fun hset hroom => ?store, fun hset hroom => ?overflow,
    fun w hw hset => gatherSet_spec hset w hw⟩
  case store => exact (arriveAt_missing hi hrow hcredit hport hset).trans (waitAt_room hroom)
  case overflow => exact (arriveAt_missing hi hrow hcredit hport hset).trans (waitAt_full hroom)

/-! ### Arrival and return (R92, R94, R471) -/

section
variable {u : State} {p n t j : Nat} {f : Flight} {c d : Copy}

theorem landFlight_inner (he : flightEdge u f = none) : landFlight u n f = arrive { u with flights := u.flights.eraseIdx n } f := by
  simp only [landFlight, he]

theorem landFlight_open (he : flightEdge u f = some (t, j)) (hm : meterOpen u f.dest.plot t j = true) : landFlight u n f =
    arrive { passEdge u f.dest.plot t j with flights := (passEdge u f.dest.plot t j).flights.eraseIdx n } f := by
  simp only [landFlight, he, hm, if_true]

theorem landFlight_refused (he : flightEdge u f = some (t, j)) (hm : meterOpen u f.dest.plot t j = false) :
    landFlight u n f = refuseFlight u n f := by
  simp only [landFlight, he, hm, Bool.false_eq_true, if_false]

theorem returnSpilled_of_min (hj : (overflowed u p c n).min? = some j) : returnSpilled u p c n =
    modUnit (modCopy u p c.id (fun y => { y with
        reserved := y.reserved.erase j
        waiting := y.waiting.map (fun z => if z.spilled = some j then { z with spilled := none } else z)
        ready := y.ready.map (fun z => if z.spills.contains j then { z with entries := z.entries + 1, spills := z.spills.erase j } else z) }))
      p (fun y => { y with barWaiters := y.barWaiters.map (fun z => if z.spilled = some j then { z with spilled := none } else z) }) := by
  simp only [returnSpilled, hj]
end

/-! ### Entry tokens (R176, R179) -/

/-- Where the next entry token of a copy comes from: the buffer, or where that is empty the spill area. -/
def buffered (c : Copy) : List EntryToken := if c.buffer.isEmpty then c.spilled else c.buffer

/-- An entry token taken from where it waited. -/
def dropBuffered (p : Nat) (c : Copy) (q : EntryToken) (t : State) : State := modCopy t p c.id (fun y =>
  if c.buffer.isEmpty then { y with spilled := y.spilled.erase q } else { y with buffer := y.buffer.erase q })

section
variable {u w : State} {p : Nat} {c d : Copy} {q : EntryToken} {slot : BitVec 8} (hq : nextEntry (buffered c) = some q)
include hq

theorem deliverEntry_open (hlive : copyLive c = true) (hm : meterOpen u p (firingTile c) 0 = true)
    (hd : copyOf (dropBuffered p c q (admitAt u p (firingTile c) 0 q.seq)) p c.id = some d) :
    deliverEntry u p c = arriveAt (dropBuffered p c q (admitAt u p (firingTile c) 0 q.seq)) p d q.slot q.port q.tok := by
  rw [buffered] at hq
  rw [dropBuffered] at hd
  simp only [deliverEntry, hq, hlive, hm, if_true, hd]
  rfl

theorem deliverEntry_metered (hlive : copyLive c = true) (hm : meterOpen u p (firingTile c) 0 = false) :
    deliverEntry u p c = refuseAt u p (firingTile c) 0 c.id.ctx q.seq := by
  rw [buffered] at hq
  simp only [deliverEntry, hq, hlive, hm, if_true, Bool.false_eq_true, if_false]

theorem deliverEntry_waits (hlive : copyLive c = false) (hr : rejectedSlot u c.id = none) : deliverEntry u p c = u := by
  rw [buffered] at hq
  simp only [deliverEntry, hq, hlive, hr, Bool.false_eq_true, if_false]

theorem deliverEntry_rejected {taken : Bool} (hlive : copyLive c = false) (hr : rejectedSlot u c.id = some slot)
    (hw : tokenFault u p c.id q.slot q.port q.tok causeBadOpcode slot = (w, taken)) :
    deliverEntry u p c = if taken then dropBuffered p c q w else w := by
  rw [buffered] at hq
  simp only [deliverEntry, hq, hlive, hr, rejectEntry, hw, Bool.false_eq_true, if_false]
  rfl
end

/-! ### Loads (R174 to R177, R180) -/

section
variable {u w : State} {p t : Nat} {c : Copy} {x : ImageBytes} {slot : BitVec 8} {e : FaultInfo} {q : EntryToken}

theorem startLoad_chosen (hclock : 8 ≤ (plotAt u p).blocks.loadClock) (hidle : loadingCopy u p = none)
    (hc : chooseLoad u p = some c) (ht : bestTile u p (loadClass u p c.id) (freeTiles u p) = some t) :
    startLoad u p = modCopy (countEvent (modBlocks u p (fun y => { y with loadClock := 0 })) p 0x02 (some c.id.ctx) 1)
      p c.id (fun y => { y with phase := .loading, tile := t, newTile := none, switched := false }) := by
  have hnot : ¬ ((plotAt u p).blocks.loadClock < 8 ∨ (loadingCopy u p).isSome = true) := by
    rw [hidle]
    rintro (hlt | hsome)
    · exact Nat.not_le.mpr hlt hclock
    · cases hsome
  simp only [startLoad, if_neg hnot, hc, ht]

section
variable (hc : loadingCopy u p = some c)
include hc

theorem finishLoad_sound (hr : readImage u p c.id = .ok (w, some x)) (hx : imageFault x.header x.bytes (decide (32 ≤ p)) = none) :
    finishLoad u p = becomeResident (walkMet w p .sched) p c x := by
  simp only [finishLoad, hc, hr, hx]

theorem finishLoad_unsound (hr : readImage u p c.id = .ok (w, some x))
    (hx : imageFault x.header x.bytes (decide (32 ≤ p)) = some slot) :
    finishLoad u p = rejectBlock (walkMet w p .sched) p c slot := by
  simp only [finishLoad, hc, hr, hx]

theorem finishLoad_absent (hr : readImage u p c.id = .ok (w, none)) :
    finishLoad u p = rejectBlock (walkMet w p .sched) p c 0x80 := by
  simp only [finishLoad, hc, hr]

theorem loads_wait_line (hr : readImage u p c.id = .error .line) : finishLoad u p = u ∧ faultLoad u p = u := by
  simp only [finishLoad, faultLoad, hc, hr, and_self]

theorem loads_wait_walk {va : Word} (hr : readImage u p c.id = .error (.walk va)) :
    finishLoad u p = askLoad u p c.id.ctx va ∧ faultLoad u p = askLoad u p c.id.ctx va := by
  simp only [finishLoad, faultLoad, hc, hr, and_self]

theorem faultLoad_faulted (hr : readImage u p c.id = .error (.fault w e)) (hq : (byArrival c).head? = some q) : faultLoad u p =
    (deliverFault (tileFreed (countEvent (modCopy (walkMet w p .sched) p c.id (fun y => { y with phase := .absent })) p 0x04
      (some c.id.ctx) 1) p) p q.tok.env.gslot e 0x80 c.id q.tok.env .nothing).1 := by
  simp only [faultLoad, hc, hr, hq]
end
end

/-! ### Eviction and migration (R174, R182 to R186) -/

section
variable {u : State} {p t : Nat} {c : Copy} {r : MoveRequest}

theorem evict_chosen (hwants : wantsVictim u p = true) (hnone : ∀ y ∈ (plotAt u p).blocks.copies, y.phase ≠ .evicting)
    (hc : chooseVictim u p = some c) : evict u p =
      countEvent (modCopy u p c.id (fun y => { y with phase := .evicting, evictFor := 0 })) p 0x0B (some c.id.ctx) 1 := by
  have hall : (plotAt u p).blocks.copies.all (fun c => c.phase != .evicting) = true :=
    List.all_eq_true.mpr fun y hy => bne_iff_ne.mpr (hnone y hy)
  simp only [evict, hwants, hall, Bool.true_or, Bool.and_self, if_true, hc]

/-- What a plot's scheduler is changed to depends on what it holds only. -/
theorem modBlocks_congr {f g : BlockUnit → BlockUnit} (h : f (plotAt u p).blocks = g (plotAt u p).blocks) :
    modBlocks u p f = modBlocks u p g := by
  refine congrArg (fun ps => { u with plots := ps }) (List.ext_getElem? fun j => ?_)
  rw [List.getElem?_modify, List.getElem?_modify]
  by_cases hj : p = j
  · subst hj
    by_cases hp : p < u.plots.length
    · have hplot : plotAt u p = u.plots[p] := getD_of_lt _ hp
      rw [hplot] at h
      simp [hp, h]
    · rw [List.getElem?_eq_none (Nat.not_lt.mp hp)]
      rfl
  · simp [hj]

/-- A plot may consolidate (R186). -/
theorem mayConsolidate_iff : mayConsolidate u p = true ↔
    migrating u p = false ∧ (∀ y ∈ (plotAt u p).blocks.copies, hasWork u y = false) ∧ loadingCopy u p = none := by
  simp [mayConsolidate, and_assoc]

theorem consolidate_chosen (hfreed : (plotAt u p).blocks.freed = true) (hmay : mayConsolidate u p = true)
    (hr : chooseMove u p = some r) : consolidate u p = modBlocks u p (fun y => { y with freed := false, request := some r }) := by
  refine modBlocks_congr ?_
  simp only [hfreed, hmay, Bool.and_self, if_true, hr]
  rfl

theorem consolidate_in_vain (hmay : mayConsolidate u p = false) :
    consolidate u p = modBlocks u p (fun y => { y with freed := false }) := by
  refine modBlocks_congr ?_
  simp only [hmay, Bool.and_false, Bool.false_eq_true, if_false]

theorem beginMove_asked (hr : (plotAt u p).blocks.request = some r)
    (hm : migrating (modBlocks u p (fun y => { y with request := none })) p = false)
    (ht : tileFree (modBlocks u p (fun y => { y with request := none })) p r.tile = true) :
    beginMove u p = modCopy (modBlocks u p (fun y => { y with request := none })) p r.block (fun y =>
      if y.phase = .resident then { y with phase := .migrating, newTile := some r.tile, switched := false } else y) := by
  simp only [beginMove, hr, hm, ht, Bool.not_true, Bool.or_self, Bool.false_eq_true, if_false]

theorem switchMove_carried (hc : (plotAt u p).blocks.copies.find? (fun y => y.phase == .migrating && !y.switched) = some c)
    (ht : c.newTile = some t) (hcarry : mayCarry (tileAt u p c.tile) = true) :
    switchMove u p =
      let carried := modTile (modTile u p t (fun _ => tileAt u p c.tile)) p c.tile (fun _ => Tile.fresh)
      let moved := c.waiting.countP (fun y => y.spilled.isNone) + (c.ready.map inStore).sum +
        u.flights.countP (fun y => y.dest.plot == p && y.dest.block == c.id)
      let arrived := c.waiting.any (fun y => y.spilled.isNone) || c.ready.any (fun y => decide (0 < inStore y))
      countEvent (modCopy { carried with
          flights := u.flights.map (fun y => if y.dest.plot = p then { y with before := true } else y)
          rows := u.rows.map (fun y => if y.dest.plot = p then { y with before := true } else y) }
        p c.id (fun y => { y with switched := true, idle := if arrived then 0 else y.idle })) p 0x0D (some c.id.ctx) moved := by
  simp only [switchMove, hc, ht, hcarry, if_true]
  rfl

theorem releaseMove_switched (hc : (plotAt u p).blocks.copies.find? (fun y => y.phase == .migrating && y.switched) = some c) :
    releaseMove u p =
      if markersBack u p && !((plotAt u p).iterative.any (fun y => y.block == c.id && y.tile == c.tile)) then
        dropObject (tileFreed (countEvent (modCopy u p c.id (fun y => { y with
          phase := .resident, tile := y.newTile.getD y.tile, newTile := none, switched := false, sinceMove := 0 }))
          p 0x0C (some c.id.ctx) 1) p) p c.id.ctx c.id.obj
      else u := by
  simp only [releaseMove, hc]

/-- The drain markers of a move are back and no firing is left on the old tile (R183). -/
theorem markersBack_iff : (markersBack u p && !((plotAt u p).iterative.any (fun y => y.block == c.id && y.tile == c.tile))) = true ↔
    (∀ y ∈ u.flights, y.dest.plot = p → y.before = false) ∧ (∀ y ∈ u.rows, y.dest.plot = p → y.before = false) ∧
      ∀ y ∈ (plotAt u p).iterative, ¬ (y.block = c.id ∧ y.tile = c.tile) := by
  simp [markersBack, and_assoc]
end

/-! ### The steps -/

section
variable {s : State} {p n k : Nat} {v : List Nat} {f : Flight} {c : Copy} (hs : s.cur = .at p n k v)
include hs

theorem execTokenArrival_at (hf : s.flights[n]? = some f) :
    execTokenArrival s = .next (landFlight { s with cur := .idle } n f) := by
  simp only [execTokenArrival, hs, hf]

theorem execOverflowReturn_at (hc : copyOnTile { s with cur := .idle } p n = some c) (hroom : storeUsed { s with cur := .idle } p c k < 256) :
    execOverflowReturn s = .next (returnSpilled { s with cur := .idle } p c k) := by
  simp only [execOverflowReturn, hs, hc, if_pos hroom]

theorem execEntryTokenDelivery_at (hc : (plotAt { s with cur := .idle } p).blocks.copies[n]? = some c) :
    execEntryTokenDelivery s = .next (deliverEntry { s with cur := .idle } p c) := by
  simp only [execEntryTokenDelivery, hs, hc]

theorem execBlockLoadStarted_at : execBlockLoadStarted s = .next (startLoad { s with cur := .idle } p) := by
  simp only [execBlockLoadStarted, hs]

theorem execBlockLoadComplete_at : execBlockLoadComplete s = .next (finishLoad { s with cur := .idle } p) := by
  simp only [execBlockLoadComplete, hs]

theorem execImageTranslationFault_at : execImageTranslationFault s = .next (faultLoad { s with cur := .idle } p) := by
  simp only [execImageTranslationFault, hs]

theorem execEviction_at : execEviction s = .next (evict { s with cur := .idle } p) := by
  simp only [execEviction, hs]

theorem execEvictionEnd_at
    (hc : (plotAt { s with cur := .idle } p).blocks.copies.find? (fun y => y.phase == .evicting && decide (16 ≤ y.evictFor)) = some c) :
    execEvictionEnd s =
      .next (freeTile (modCopy { s with cur := .idle } p c.id (fun y => { y with phase := .absent, stations := [] })) p c.tile) := by
  simp only [execEvictionEnd, hs, hc]

theorem execConsolidation_at : execConsolidation s = .next (consolidate { s with cur := .idle } p) := by
  simp only [execConsolidation, hs]

theorem execMigrationRequest_at : execMigrationRequest s = .next (beginMove { s with cur := .idle } p) := by
  simp only [execMigrationRequest, hs]

theorem execMigrationSwitch_at : execMigrationSwitch s = .next (switchMove { s with cur := .idle } p) := by
  simp only [execMigrationSwitch, hs]

theorem execMigrationRelease_at : execMigrationRelease s = .next (releaseMove { s with cur := .idle } p) := by
  simp only [execMigrationRelease, hs]
end

/-- Settles O44: each step by what its operation does in each case. -/
theorem blockSteps : Obligations.BlockSteps := by
  intro s w p n k t j v f c d x slot e r q u does buffered drop absent consolidates hs
  refine ⟨fun hf => ⟨fun he => ?inner, fun he hm => ?passes, fun he hm => ⟨fun href => ?stays, fun href => ?refused⟩⟩, fun hc hroom hj => ?returns,
    fun hc hq => ⟨fun hlive hm hd => ?delivers, fun hlive hm => ?metered, fun hlive hr => ?waits,
    fun hlive hr => ⟨fun hw => ?faults, fun hw => ?faultWaits⟩⟩,
    fun hclock hidle hc ht => ?starts, fun hc => ⟨fun hr hx => ?resident, fun hr hx => ?rejected, fun hr => ?absent, fun hr => ?line,
      fun va hr => ?walk, fun hr hq => ?fault⟩, fun hwants hnone hc => ?evicts, fun hc => ?evicted,
      fun hfreed => ⟨fun hmay hr => ?moves, fun hmay => ?vain⟩,
    fun hr => ?begins, fun hc ht hcarry => ?switches, fun hc => ?releases⟩
  case inner => exact (execTokenArrival_at hs hf).trans (congrArg _ (landFlight_inner he))
  case passes => exact (execTokenArrival_at hs hf).trans (congrArg _ (landFlight_open he hm))
  case stays =>
    refine (execTokenArrival_at hs hf).trans (congrArg _ ((landFlight_refused he hm).trans ?_))
    exact if_pos href
  case refused =>
    refine (execTokenArrival_at hs hf).trans (congrArg _ ((landFlight_refused he hm).trans ?_))
    exact if_neg (Bool.eq_false_iff.mp href)
  case returns => exact (execOverflowReturn_at hs hc hroom).trans (congrArg _ (returnSpilled_of_min hj))
  case delivers => exact (execEntryTokenDelivery_at hs hc).trans (congrArg _ (deliverEntry_open hq hlive hm hd))
  case metered => exact (execEntryTokenDelivery_at hs hc).trans (congrArg _ (deliverEntry_metered hq hlive hm))
  case waits => exact (execEntryTokenDelivery_at hs hc).trans (congrArg _ (deliverEntry_waits hq hlive hr))
  case faults => exact (execEntryTokenDelivery_at hs hc).trans (congrArg _ (deliverEntry_rejected hq hlive hr hw))
  case faultWaits => exact (execEntryTokenDelivery_at hs hc).trans (congrArg _ (deliverEntry_rejected hq hlive hr hw))
  case starts => exact (execBlockLoadStarted_at hs).trans (congrArg _ (startLoad_chosen hclock hidle hc ht))
  case resident => exact (execBlockLoadComplete_at hs).trans (congrArg _ (finishLoad_sound hc hr hx))
  case rejected => exact (execBlockLoadComplete_at hs).trans (congrArg _ (finishLoad_unsound hc hr hx))
  case absent => exact (execBlockLoadComplete_at hs).trans (congrArg _ (finishLoad_absent hc hr))
  case line =>
    obtain ⟨hfinish, hfault⟩ := loads_wait_line hc hr
    exact ⟨(execBlockLoadComplete_at hs).trans (congrArg _ hfinish), (execImageTranslationFault_at hs).trans (congrArg _ hfault)⟩
  case walk =>
    obtain ⟨hfinish, hfault⟩ := loads_wait_walk hc hr
    exact ⟨(execBlockLoadComplete_at hs).trans (congrArg _ hfinish), (execImageTranslationFault_at hs).trans (congrArg _ hfault)⟩
  case fault => exact (execImageTranslationFault_at hs).trans (congrArg _ (faultLoad_faulted hc hr hq))
  case evicts => exact (execEviction_at hs).trans (congrArg _ (evict_chosen hwants hnone hc))
  case evicted => exact execEvictionEnd_at hs hc
  case moves => exact (execConsolidation_at hs).trans (congrArg _ (consolidate_chosen hfreed (mayConsolidate_iff.mpr hmay) hr))
  case vain =>
    exact (execConsolidation_at hs).trans
      (congrArg _ (consolidate_in_vain (Bool.eq_false_iff.mpr fun h => hmay (mayConsolidate_iff.mp h))))
  case begins =>
    intro w hm ht
    exact (execMigrationRequest_at hs).trans (congrArg _ (beginMove_asked hr hm ht))
  case switches =>
    intro carried moved arrived
    exact (execMigrationSwitch_at hs).trans (congrArg _ (switchMove_carried hc ht hcarry))
  case releases =>
    intro back
    refine ⟨fun hback => ?_, fun hback => ?_⟩
    · exact (execMigrationRelease_at hs).trans (congrArg _ ((releaseMove_switched hc).trans (if_pos (markersBack_iff.mpr hback))))
    · exact (execMigrationRelease_at hs).trans
        (congrArg _ ((releaseMove_switched hc).trans (if_neg fun h => hback (markersBack_iff.mp h))))

end Sys2Proof
end

section
/-! SUPPORT. The steps of memory accesses, walks, the walker's answers, `tlbi`, banks and refused operations (R203 to R207, R215, R266 to
R268, R443 to R456, R460, R471). -/
namespace Sys2Proof
open Machine

/-! ### The access of a step -/

section
variable {s : State} {p n k : Nat} {v : List Nat} {a : Access}

theorem accessAt_id (ha : accessAt s p n = some a) : a.id = n :=
  beq_iff_eq.mp (List.find?_some ha :)

theorem accessAt_self (ha : accessAt s p n = some a) : accessAt s p a.id = some a := (accessAt_id ha).symm ▸ ha

theorem accessStep_at {f : State → Nat → Access → State} (hs : s.cur = .at p n k v) (ha : accessAt { s with cur := .idle } p n = some a) :
    accessStep f s = .next (f { s with cur := .idle } p a) := by
  simp only [accessStep, hs, ha]

/-- A plot that holds an access exists. -/
theorem plot_of_accessAt (ha : accessAt s p n = some a) : p < s.plots.length := by
  refine Nat.lt_of_not_le fun hp => ?_
  rw [accessAt, plotAt_beyond hp] at ha
  cases ha

theorem abandonLines_of_other (hop : a.op ≠ .pref) : abandonLines s p a = s :=
  if_neg fun h => hop h.1

/-- What is written back under a number is what stands under it. -/
theorem eq_of_accessAt_putAccess {a' y : Access} (h : accessAt (putAccess s p a') p a'.id = some y) : y = a' := by
  have hp : p < s.plots.length := by
    have hlen := plot_of_accessAt h
    change p < (s.plots.modify p _).length at hlen
    rwa [List.length_modify] at hlen
  have hid : y.id = a'.id := accessAt_id h
  have hmem : y ∈ (plotAt (putAccess s p a') p).accesses := List.mem_of_find?_eq_some h
  have hlist : (plotAt (putAccess s p a') p).accesses = (plotAt s p).accesses.map (fun o => if o.id = a'.id then a' else o) :=
    congrArg Plot.accesses (plotAt_modPlot s p _ hp)
  rw [hlist] at hmem
  obtain ⟨o, -, ho⟩ := List.mem_map.mp hmem
  split at ho
  · exact ho.symm
  · next hne => exact absurd (ho ▸ hid) hne
end

/-! ### Issue (R199, R204, R207, R215) -/

section
variable {u z : State} {p n : Nat} {a f : Access} {e : FaultInfo}

/-- The fault that an access about to issue meets. -/
def issueFault (u : State) (p : Nat) (a : Access) : Option FaultInfo := (a.fault <|> lostFault u p a) <|> peerFault u a

/-- The wave record of an access's thread after its issue (R199). -/
def issuedWave (u : State) (p : Nat) (a : Access) : State := setWave u p (onIssue a.head (waveRec u p a.block.ctx a.env a.handler))

/-- The access as it issues. -/
def issued (a : Access) : Access := { a with phase := .issued, withdrawn := false }

section
variable (hphase : a.phase = .waiting) (hstream : isStream a.op = false) (hlets : accessLets u p a = true)
  (hready : accessReady u p a = true) (hagain : a.again = false)
include hphase hstream hlets hready hagain

theorem tryIssue_closed (hgates : gatesOpen u p a = false) : tryIssue u p a = putAccess u p a := by
  simp only [tryIssue, hphase, hstream, hlets, hready, hagain, hgates, and_self, if_true, Bool.false_eq_true, if_false]

theorem tryIssue_open (hgates : gatesOpen u p a = true) (hmark : issueFault u p a = none)
    (hpeers : ∀ y ∈ a.parts, y.kind = .peer → y.state = .todo → peerReady u (y.pa.getD 0) = true) :
    tryIssue u p a = issueAccess u p a := by
  have hall : a.parts.all (fun x => x.kind != .peer || x.state != .todo || peerReady u (x.pa.getD 0)) = true := by
    refine List.all_eq_true.mpr fun y hy => ?_
    have := hpeers y hy
    simp only [Bool.or_eq_true, bne_iff_ne, ne_eq]
    by_cases hk : y.kind = .peer
    · by_cases hst : y.state = .todo
      · exact .inr (this hk hst)
      · exact .inl (.inr hst)
    · exact .inl (.inl hk)
  rw [issueFault] at hmark
  simp only [tryIssue, hphase, hstream, hlets, hready, hagain, hgates, and_self, if_true, Bool.false_eq_true, if_false, hmark, hall]

theorem tryIssue_faulty (hgates : gatesOpen u p a = true) (hmark : issueFault u p a = some e) :
    tryIssue u p a = takeFault (putAccess u p a) p a e := by
  rw [issueFault] at hmark
  simp only [tryIssue, hphase, hstream, hlets, hready, hagain, hgates, and_self, if_true, Bool.false_eq_true, if_false, hmark]
end

section
variable (hwithdrawn : a.withdrawn = false)
include hwithdrawn

theorem issueAccess_mnop (hop : a.op = .mnop) : issueAccess u p a = removeAccess (issuedWave u p a) p a.id := by
  simp only [issueAccess, hwithdrawn, Bool.false_eq_true, if_false, hop, if_true, issuedWave]

theorem issueAccess_forwarded (hop : a.op ≠ .mnop) (hf : forwardSource (issuedWave u p a) p a = some f) :
    issueAccess u p a = moveLast (issuedWave u p a) p (forwardFrom f (issued a)) := by
  rw [issuedWave] at hf
  simp only [issueAccess, hwithdrawn, Bool.false_eq_true, if_false, hop, hf]
  rfl

theorem issueAccess_sent (hop : a.op ≠ .mnop) (hf : forwardSource (issuedWave u p a) p a = none) :
    issueAccess u p a = sendParts (moveLast (issuedWave u p a) p (issued a)) p (issued a) := by
  rw [issuedWave] at hf
  simp only [issueAccess, hwithdrawn, Bool.false_eq_true, if_false, hop, hf]
  rfl
end

theorem takeFault_eq {taken : Bool}
    (hd : deliverFault u p a.env.gslot e (0#1 ++ a.set.slot) a.block a.env (.access a.id) = (z, taken)) :
    takeFault u p a e = if taken then modAccess z p a.id (fun x => { x with phase := .faulted, fault := some e })
      else modAccess z p a.id (fun x => { x with phase := .waiting, fault := some e }) := by
  simp only [takeFault, hd]
end

/-! ### Performance (R205, R206, R216, R471) -/

section
variable {u z : State} {p : Nat} {a : Access} {e : FaultInfo}

theorem sendData_plots : (sendData u p a).plots = u.plots := by
  unfold sendData
  split
  all_goals try rfl
  split <;> rfl

theorem sendDone_plots : (sendDone u p a).plots = u.plots := by
  unfold sendDone
  split <;> rfl

/-- An access performed at plot and device scope is freed; of the plots nothing else changes. -/
theorem performLocal_plots : ∃ w : State, w.plots = u.plots ∧ performLocal u p a = modAccess w p a.id (fun x => { x with freed := true }) := by
  have hdrop : (if isAcquire a && a.xf.scope == .system then dropPeer u a.block.ctx (fun _ => true) else u).plots = u.plots := by
    split <;> rfl
  refine ⟨_, ?_, rfl⟩
  split
  · exact sendData_plots.trans hdrop
  · exact sendDone_plots.trans (sendData_plots.trans hdrop)

theorem plotAt_congr {w : State} (h : w.plots = u.plots) (q : Nat) : plotAt w q = plotAt u q := congrArg (fun l => l.getD q Plot.reset) h

/-- A metered port that admits a token changes the edge ports of its plot only. -/
theorem setEdge_rest (hp : p < u.plots.length) (x : EdgePort) :
    (plotAt (setEdge u p x) p).accesses = (plotAt u p).accesses ∧ (plotAt (setEdge u p x) p).blocks = (plotAt u p).blocks ∧
      (setEdge u p x).plots.length = u.plots.length := by
  rw [setEdge, plotAt_modPlot u p _ hp]
  exact ⟨rfl, rfl, List.length_modify _ _ _⟩

theorem passEdge_rest (hp : p < u.plots.length) (t k : Nat) :
    (plotAt (passEdge u p t k) p).accesses = (plotAt u p).accesses ∧ (plotAt (passEdge u p t k) p).blocks = (plotAt u p).blocks ∧
      (passEdge u p t k).plots.length = u.plots.length := by
  unfold passEdge
  split
  · exact ⟨rfl, rfl, rfl⟩
  · exact setEdge_rest hp _

theorem admitAt_rest (hp : p < u.plots.length) (t k id : Nat) :
    (plotAt (admitAt u p t k id) p).accesses = (plotAt u p).accesses ∧ (plotAt (admitAt u p t k id) p).blocks = (plotAt u p).blocks ∧
      (admitAt u p t k id).plots.length = u.plots.length := by
  obtain ⟨ha, hb, hl⟩ := passEdge_rest hp t k
  unfold admitAt
  simp only
  split
  · obtain ⟨ha', hb', hl'⟩ := setEdge_rest (u := passEdge u p t k) (hl ▸ hp)
      { edgeAt (passEdge u p t k) p t k with refused := (edgeAt (passEdge u p t k) p t k).refused.erase id }
    exact ⟨ha'.trans ha, hb'.trans hb, hl'.trans hl⟩
  · exact ⟨ha, hb, hl⟩

theorem refuseAt_accesses (hp : p < u.plots.length) (t k id : Nat) (c : BitVec 12) :
    (plotAt (refuseAt u p t k c id) p).accesses = (plotAt u p).accesses := by
  unfold refuseAt
  simp only
  split
  · rfl
  · obtain ⟨ha, -, hl⟩ := setEdge_rest hp { edgeAt u p t k with refused := id :: (edgeAt u p t k).refused }
    rw [countEvent, modBlocks, plotAt_modPlot _ p _ (hl ▸ hp)]
    exact ha

/-- The state in which an access has been performed at plot and device scope, its return admitted. -/
def performedLocal (u : State) (p : Nat) (a : Access) : State :=
  performLocal (if returnsLocal a then admitAt u p (tileOf u p a.block) 2 a.id else u) p a

theorem admitted_rest (hp : p < u.plots.length) (r : Bool) (t : Nat) :
    (plotAt (if r then admitAt u p t 2 a.id else u) p).accesses = (plotAt u p).accesses ∧
      (plotAt (if r then admitAt u p t 2 a.id else u) p).blocks = (plotAt u p).blocks ∧
      (if r then admitAt u p t 2 a.id else u).plots.length = u.plots.length := by
  split
  · exact admitAt_rest hp t 2 a.id
  · exact ⟨rfl, rfl, rfl⟩

/-- What an access's performance leaves of its plot: its tile, and the access, freed. -/
theorem performedLocal_rest (ha : accessAt u p a.id = some a) :
    tileOf (performedLocal u p a) p a.block = tileOf u p a.block ∧
      (accessAt (performedLocal u p a) p a.id).any (fun x => x.freed) = true := by
  have hp := plot_of_accessAt ha
  obtain ⟨hacc, hblocks, hlen⟩ := admitted_rest (a := a) hp (returnsLocal a) (tileOf u p a.block)
  obtain ⟨w, hw, hlocal⟩ := performLocal_plots (u := if returnsLocal a then admitAt u p (tileOf u p a.block) 2 a.id else u) (p := p) (a := a)
  have hplot := plotAt_modPlot w p (fun x => { x with accesses := x.accesses.map (fun o => if o.id = a.id then { o with freed := true } else o) })
    (hw ▸ hlen ▸ hp)
  have hperf : plotAt (performedLocal u p a) p = { plotAt w p with
      accesses := (plotAt w p).accesses.map (fun o => if o.id = a.id then { o with freed := true } else o) } := by
    rw [performedLocal, hlocal]
    exact hplot
  rw [plotAt_congr hw] at hperf
  constructor
  · rw [tileOf, tileOf, copyOf, copyOf, hperf, ← hblocks]
  · rw [accessAt, hperf, hacc, List.find?_map]
    have hfun : ((fun o : Access => o.id == a.id) ∘ fun o => if o.id = a.id then { o with freed := true } else o) = fun o => o.id == a.id := by
      funext o
      simp only [Function.comp]
      split <;> rfl
    rw [hfun]
    have hfind : (plotAt u p).accesses.find? (fun o => o.id == a.id) = some a := ha
    rw [hfind]
    simp

section
variable (hphase : a.phase = .issued) (hfault : a.fault = none) (hdone : ∀ y ∈ a.parts, partDone y = true) (hfreed : a.freed = false)
  (hclear : fenceClear u p a = true) (hleaves : dataLeaves u p a = true)
include hphase hfault hdone hfreed hclear hleaves

/-- Where the return port refuses it, the access waits there (R471). -/
theorem performAccess_refused (ha : accessAt u p a.id = some a) (hret : returnsLocal a = true)
    (hm : meterOpen u p (tileOf u p a.block) 2 = false) :
    performAccess u p a = refuseAt u p (tileOf u p a.block) 2 a.block.ctx a.id := by
  have hall : a.parts.all (fun x => partDone x || x.state == .bad) = true :=
    List.all_eq_true.mpr fun y hy => by rw [hdone y hy, Bool.true_or]
  have hlocal : throughReturn u p a (returnsLocal a) (fun s => performLocal s p a) =
      refuseAt u p (tileOf u p a.block) 2 a.block.ctx a.id := by
    simp only [throughReturn, hret, Bool.not_true, Bool.false_eq_true, if_false, hm]
  have hkept : (accessAt (refuseAt u p (tileOf u p a.block) 2 a.block.ctx a.id) p a.id).any (fun x => x.freed) = false := by
    rw [accessAt, refuseAt_accesses (plot_of_accessAt ha), show (plotAt u p).accesses.find? (fun o => o.id == a.id) = some a from ha,
      Option.any_some, hfreed]
  simp only [performAccess, hphase, hall, and_self, if_true, hfault, hclear, hleaves, Bool.and_self, hfreed, Bool.false_eq_true, if_false,
    hlocal, hkept, Bool.false_and]

theorem performAccess_finished (ha : accessAt u p a.id = some a) (hm : returnsLocal a = true → meterOpen u p (tileOf u p a.block) 2 = true) :
    performAccess u p a =
      if a.parts.all partSys then throughReturn (performedLocal u p a) p a (returnsSystem a) (fun s => performSystem s p a)
      else performedLocal u p a := by
  have hall : a.parts.all (fun x => partDone x || x.state == .bad) = true :=
    List.all_eq_true.mpr fun y hy => by rw [hdone y hy, Bool.true_or]
  have hlocal : throughReturn u p a (returnsLocal a) (fun s => performLocal s p a) = performedLocal u p a := by
    cases hret : returnsLocal a with
    | false => simp only [throughReturn, performedLocal, hret, Bool.not_false, if_true, Bool.false_eq_true, if_false]
    | true => simp only [throughReturn, performedLocal, hret, Bool.not_true, Bool.false_eq_true, if_false, hm hret, if_true]
  simp only [performAccess, hphase, hall, and_self, if_true, hfault, hclear, hleaves, Bool.and_self, hfreed, Bool.false_eq_true, if_false,
    hlocal, (performedLocal_rest ha).2, Bool.true_and]
end

/-- What an access sends at system scope leaves through the port that its data left through. -/
theorem throughReturn_system (ha : accessAt u p a.id = some a) :
    throughReturn (performedLocal u p a) p a (returnsSystem a) (fun s => performSystem s p a) =
      if returnsSystem a then
        if meterOpen (performedLocal u p a) p (tileOf u p a.block) 2 then
          performSystem (admitAt (performedLocal u p a) p (tileOf u p a.block) 2 a.id) p a
        else refuseAt (performedLocal u p a) p (tileOf u p a.block) 2 a.block.ctx a.id
      else performSystem (performedLocal u p a) p a := by
  rw [throughReturn, (performedLocal_rest ha).1]
  cases returnsSystem a <;> rfl

/-- What becomes of an access that has been performed. -/
theorem performAccess_finishes (hphase : a.phase = .issued) (hfault : a.fault = none) (hdone : ∀ y ∈ a.parts, partDone y = true)
    (hfreed : a.freed = false) (hclear : fenceClear u p a = true) (hleaves : dataLeaves u p a = true) (ha : accessAt u p a.id = some a)
    (hm : returnsLocal a = true → meterOpen u p (tileOf u p a.block) 2 = true) : performAccess u p a =
      if a.parts.all partSys then
        if returnsSystem a then
          if meterOpen (performedLocal u p a) p (tileOf u p a.block) 2 then
            performSystem (admitAt (performedLocal u p a) p (tileOf u p a.block) 2 a.id) p a
          else refuseAt (performedLocal u p a) p (tileOf u p a.block) 2 a.block.ctx a.id
        else performSystem (performedLocal u p a) p a
      else performedLocal u p a := by
  rw [performAccess_finished hphase hfault hdone hfreed hclear hleaves ha hm, throughReturn_system ha]

section
variable (hphase : a.phase = .issued) (hfault : a.fault = some e) (htried : ∀ y ∈ a.parts, partDone y = true ∨ y.state = .bad)
include hphase hfault htried

omit hphase hfault in
theorem tried_all : a.parts.all (fun x => partDone x || x.state == .bad) = true :=
  List.all_eq_true.mpr fun y hy => Bool.or_eq_true_iff.mpr ((htried y hy).imp_right beq_iff_eq.mpr)

/-- A faulty access of a killed group is gone with its fault (assumption 50). -/
theorem performAccess_killed (hg : ∀ y, groupAt u p a.env.gslot = some y → y.phase = .retiring) : performAccess u p a = removeAccess u p a.id := by
  have hall : (groupAt u p a.env.gslot).all (fun x => x.phase == .retiring) = true := by
    cases h : groupAt u p a.env.gslot with
    | none => rfl
    | some y => exact beq_iff_eq.mpr (hg y h)
  simp only [performAccess, hphase, tried_all htried, and_self, if_true, hfault, hall]

theorem performAccess_faulted {y : Group} {taken : Bool} (hy : groupAt u p a.env.gslot = some y) (hne : y.phase ≠ .retiring)
    (hd : deliverFault u p a.env.gslot e (0#1 ++ a.set.slot) a.block a.env (.access a.id) = (z, taken)) : performAccess u p a =
      if taken then modAccess z p a.id (fun x => { x with phase := .faulted, withdrawn := !isStream x.op }) else z := by
  have hall : (groupAt u p a.env.gslot).all (fun x => x.phase == .retiring) = false := by
    rw [hy, Option.all_some]
    exact beq_eq_false_iff_ne.mpr hne
  simp only [performAccess, hphase, tried_all htried, and_self, if_true, hfault, hall, Bool.false_eq_true, if_false, hd]
end

/-- A station that asks the walker again (R455). -/
theorem advance_asked {part : Machine.Part} {i : Nat} {ok : Bool} (ha : accessAt u p a.id = some a) (hphase : a.phase = .translating false)
    (hfault : a.fault = none) (hstream : isStream a.op = false) (hnext : nextPart a = some (i, part)) (hvalid : vaValid part.ea = true)
    (hcovers : entryCovers u p a = false)
    (hask : askWalker u p (WalkReq.mk (.access a.id) a.block.ctx part.ea (needOf a.op a.xf.take) a.fresh u.cycles
      (walkRank u p (isStream a.op) a.block a.set.slot)) = (z, ok)) :
    advance u p a.id = putAccess z p { a with phase := .translating ok } := by
  have htranslated : translateAccess u p a.id = putAccess z p { a with phase := .translating ok } := by
    simp only [translateAccess, ha, hphase, hnext, hfault, Option.isNone_none, hvalid, hcovers, Bool.not_false, Bool.and_self, if_true,
      askPart, hask]
  rw [advance, htranslated]
  unfold tryStream
  split
  · rfl
  · next y hy =>
    obtain rfl := eq_of_accessAt_putAccess (a' := { a with phase := .translating ok }) hy
    simp only [hstream, Bool.not_false, if_true]
end

/-! ### The walker's answers (R230, R454) -/

section
variable {u : State} {p : Nat} {x : Returned} {a : Access} {e : FaultInfo}

/-- A plot without one of the walker's answers. -/
def answerTaken (u : State) (p : Nat) (x : Returned) : State := modWalker u p (fun y => { y with returned := y.returned.erase x })

section
variable {id : Nat} (hwho : x.who = .access id)
include hwho

theorem walkReturn_gone (ha : accessAt (answerTaken u p x) p id = none) : walkReturn u p x = answerTaken u p x := by
  rw [answerTaken] at ha
  simp only [walkReturn, hwho, returnAccess, ha, answerTaken]

theorem walkReturn_stopped (ha : accessAt (answerTaken u p x) p id = some a) (hctx : (ctxAt (answerTaken u p x) a.block.ctx).phase ≠ .running) :
    walkReturn u p x = putAccess (answerTaken u p x) p a.unask := by
  rw [answerTaken] at ha hctx
  simp only [walkReturn, hwho, returnAccess, ha, if_pos hctx, answerTaken]

theorem walkReturn_leaf {m : Leaf} (ha : accessAt (answerTaken u p x) p id = some a)
    (hctx : (ctxAt (answerTaken u p x) a.block.ctx).phase = .running) (hm : x.result = .leaf m) :
    walkReturn u p x = resume (setStationEntry (answerTaken u p x) p a.block a.set.slot m) p a.id := by
  rw [answerTaken] at ha hctx
  simp only [walkReturn, hwho, returnAccess, ha, hctx, ne_eq, not_true_eq_false, if_false, hm, answerTaken]

theorem walkReturn_fault {i : Nat} (ha : accessAt (answerTaken u p x) p id = some a)
    (hctx : (ctxAt (answerTaken u p x) a.block.ctx).phase = .running) (he : x.result = .fault e)
    (hi : a.parts.findIdx? (fun y => y.ea == x.va) = some i) :
    walkReturn u p x = resume (putAccess (answerTaken u p x) p (failPart a i e)) p a.id := by
  rw [answerTaken] at ha hctx
  simp only [walkReturn, hwho, returnAccess, ha, hctx, ne_eq, not_true_eq_false, if_false, he, hi, answerTaken]
end

section
variable {b : BlockId} {y : BitVec 7} (hwho : x.who = .station b y) (hctx : (ctxAt (answerTaken u p x) x.ctx).phase = .running)
include hwho hctx

theorem walkReturn_station_leaf {m : Leaf} (hm : x.result = .leaf m) : walkReturn u p x = setStationEntry (answerTaken u p x) p b y m := by
  rw [answerTaken] at hctx
  simp only [walkReturn, hwho, hctx, ne_eq, not_true_eq_false, false_and, if_false, hm, answerTaken]

theorem walkReturn_station_fault (he : x.result = .fault e) : walkReturn u p x =
    modWalker (answerTaken u p x) p (fun y => { y with failed := x.who :: y.failed.filter (fun o => o != x.who) }) := by
  rw [answerTaken] at hctx
  simp only [walkReturn, hwho, hctx, ne_eq, not_true_eq_false, false_and, if_false, he, answerTaken]
end
end

/-! ### Walks (R443, R449, R452, R453) -/

section
variable {u : State} {p n l t : Nat} {w : Walk} {c : BitVec 8} {pte : Word}

theorem levelRead_fault (hc : entryCause l (readWord u (entryAddr l t w.va)) = some c) :
    levelRead u p n w l t = nextWalk (failWalk (setWalk u p n none) p w.reqs c l) p := by
  simp only [levelRead, hc]

section
variable (hc : entryCause l (readWord u (entryAddr l t w.va)) = none)
include hc

theorem levelRead_table (hl : pteL (readWord u (entryAddr l t w.va)) = false) : levelRead u p n w l t = setWalk u p n (some { w with
    phase := .level (l + 1) (ptePa (readWord u (entryAddr l t w.va)))
    passed := w.passed ++ [WalkEntry.mk w.ctx l (w.va.toNat / 2 ^ levelShift l) (ptePa (readWord u (entryAddr l t w.va)))] }) := by
  simp only [levelRead, hc, hl, Bool.false_eq_true, if_false]

theorem levelRead_leaf (hl : pteL (readWord u (entryAddr l t w.va)) = true) :
    levelRead u p n w l t = leafRead u p n w l (entryAddr l t w.va) (readWord u (entryAddr l t w.va)) := by
  simp only [levelRead, hc, hl, if_true]
end

theorem foldl_of_fixed {α β : Type} {f : α → β → α} {a : α} {ys : List β} (h : ∀ y ∈ ys, f a y = a) : ys.foldl f a = a := by
  induction ys with
  | nil => rfl
  | cons y ys ih =>
    rw [List.foldl_cons, h y List.mem_cons_self]
    exact ih fun z hz => h z (List.mem_cons_of_mem _ hz)

/-- A leaf that refuses the one request of its walk (R449). -/
theorem leafRead_refused {y : WalkReq} (hreqs : w.reqs = [y]) (hr : leafRefuses u y (mkLeaf w.ctx w.va l t pte) = some c) :
    leafRead u p n w l t pte = nextWalk (setWalk (failWalk u p [y] c l) p n none) p := by
  have hgood : [y].filter (fun q => (leafRefuses u q (mkLeaf w.ctx w.va l t pte)).isNone) = [] := by
    rw [List.filter_cons_of_neg (by rw [hr]; exact Bool.false_ne_true), List.filter_nil]
  simp only [leafRead, hreqs, hgood, List.foldl_cons, List.foldl_nil, hr, List.isEmpty_nil, if_true]

section
variable (haccepts : ∀ y ∈ w.reqs, leafRefuses u y (mkLeaf w.ctx w.va l t pte) = none) (hreqs : w.reqs ≠ [])
include haccepts

theorem accepted_all : w.reqs.filter (fun q => (leafRefuses u q (mkLeaf w.ctx w.va l t pte)).isNone) = w.reqs :=
  List.filter_eq_self.mpr fun y hy => Option.isNone_iff_eq_none.mpr (haccepts y hy)

include hreqs

theorem leafRead_accepted : leafRead u p n w l t pte =
    if needsUpdate w.reqs pte then setWalk u p n (some { w with phase := .update l t pte }) else leafKnown u p n w l t pte := by
  simp only [leafRead, accepted_all haccepts, List.isEmpty_eq_false_iff.mpr hreqs, Bool.false_eq_true, if_false]
  rw [foldl_of_fixed fun y hy => by simp only [haccepts y hy]]

theorem adUpdate_unchanged (hsame : readWord u t = pte) : adUpdate u p n w l t pte =
    leafKnown (writeWord u t (updatedEntry w.reqs pte)) p n w l t (updatedEntry w.reqs pte) := by
  simp only [adUpdate, if_pos hsame, accepted_all haccepts, List.isEmpty_eq_false_iff.mpr hreqs, Bool.false_eq_true, if_false]
end

theorem adUpdate_changed (hother : readWord u t ≠ pte) : adUpdate u p n w l t pte = restartWalk u p n w := if_neg hother
end

/-! ### Banks (R267) -/

section
variable {u : State} {p n : Nat} {q : BankReq} {qs : List BankReq}
  (hq : u.banks.filter (fun y => y.store == p && y.word % 64 == n) = q :: qs)
include hq

theorem serveBank_served (hatomic : q.atomic = false) (hcycle : q.cycle < u.cycles) (hfree : (p, n) ∉ u.served) :
    serveBank u p n = serveWords u p n q.word
      (if q.write then [q] else broadcast q.word ((q :: qs).filter (fun x => decide (x.cycle < u.cycles)))) := by
  have hmay : (q.atomic || !bankMay u p n q) = false := by
    simp [hatomic, bankMay, hcycle, hfree]
  have hqueue : bankQueue u p n = q :: qs := hq
  simp only [serveBank, hqueue, hmay, Bool.false_eq_true, if_false]

theorem serveBank_waits (h : q.atomic = true ∨ u.cycles ≤ q.cycle ∨ (p, n) ∈ u.served) : serveBank u p n = u := by
  have hmay : (q.atomic || !bankMay u p n q) = true := by
    rcases h with h | h | h
    · simp [h]
    · simp [bankMay, h]
    · simp [bankMay, h]
  have hqueue : bankQueue u p n = q :: qs := hq
  simp only [serveBank, hqueue, hmay, if_true]
end

/-! ### The steps -/

section
variable {s : State} {p n k l t : Nat} {v : List Nat} {a : Access} {x : Returned} {w : Walk} {j : TlbiJob} {r : Refused} {pte : Word}
  (hs : s.cur = .at p n k v)
include hs

theorem execAccessPerformed_at (ha : accessAt { s with cur := .idle } p n = some a) (hstream : isStream a.op = false) (hop : a.op ≠ .pref) :
    execAccessPerformed s = .next (performAccess { s with cur := .idle } p a) := by
  refine (accessStep_at hs ha).trans ?_
  simp only [hstream, Bool.false_eq_true, if_false, abandonLines_of_other hop, accessAt_self ha]

theorem execAccessArrival_at (ha : accessAt { s with cur := .idle } p n = some a) (hphase : a.phase = .transit) (hstream : isStream a.op = false) :
    execAccessArrival s = .next (putAccess { s with cur := .idle } p { a with phase := .waiting }) :=
  (accessStep_at hs ha).trans (congrArg Host.Outcome.next (if_pos ⟨hphase, hstream⟩))

theorem execStreamAccessPerformed_at (ha : accessAt { s with cur := .idle } p n = some a) (hstream : isStream a.op = true) :
    execStreamAccessPerformed s = .next (kickStreams (performAccess { s with cur := .idle } p a) p) :=
  (accessStep_at hs ha).trans (congrArg Host.Outcome.next (if_pos hstream))

theorem execWalkerQueueRetry_at (ha : accessAt { s with cur := .idle } p n = some a) (hphase : a.phase = .translating false)
    (hctx : (ctxAt { s with cur := .idle } a.block.ctx).phase = .running) :
    execWalkerQueueRetry s = .next (advance { s with cur := .idle } p a.id) :=
  (accessStep_at hs ha).trans (congrArg Host.Outcome.next (if_pos ⟨hphase, hctx⟩))

theorem execWaiterRefusalRetry_access (ha : accessAt { s with cur := .idle } p n = some a) (hk : k = 0)
    (hmay : mayResend { s with cur := .idle } a = true) :
    execWaiterRefusalRetry s = .next (resendRefused { s with cur := .idle } p a) := by
  simp only [execWaiterRefusalRetry, hs, hk, if_true, ha, hmay]

theorem execWaiterRefusalRetry_unit (hr : (plotAt { s with cur := .idle } p).unit.refused[n]? = some r) (hk : k ≠ 0)
    (hruns : slotRuns { s with cur := .idle } p r.gslot = true)
    (hrank : r.atUnit = true → rankOpen { s with cur := .idle } p (arrivalRank { s with cur := .idle } p p r.held) = true) :
    execWaiterRefusalRetry s =
      let o := modUnit { s with cur := .idle } p (fun y => { y with refused := y.refused.eraseIdx n })
      .next (resendUnit (if r.atUnit then rankTaken o p (arrivalRank o p p r.held) else o) p r) := by
  simp only [execWaiterRefusalRetry, hs, if_neg hk, hr, if_pos (And.intro hruns hrank)]

theorem execWalkReturn_at (hx : (plotAt { s with cur := .idle } p).walker.returned[n]? = some x) :
    execWalkReturn s = .next (walkReturn { s with cur := .idle } p x) := by
  simp only [execWalkReturn, hs, hx]

section
variable (hw : (plotAt { s with cur := .idle } p).walker.walks[n]? = some w)
include hw

theorem execWalkLevelRead_at (hphase : w.phase = .level l t) :
    execWalkLevelRead s = .next (levelRead { s with cur := .idle } p n w l t) := by
  simp only [execWalkLevelRead, hs, hw, hphase]

theorem execAdUpdate_at (hphase : w.phase = .update l t pte) :
    execAdUpdate s = .next (adUpdate { s with cur := .idle } p n w l t pte) := by
  simp only [execAdUpdate, hs, hw, hphase]

theorem execContiguousCheck_at (hphase : w.phase = .group t pte) : execContiguousCheck s =
    .next (finishWalk (groupLeaf { s with cur := .idle } p w.ctx w.va t pte).1 p n w (groupLeaf { s with cur := .idle } p w.ctx w.va t pte).2) := by
  simp only [execContiguousCheck, hs, hw, hphase]
end

theorem execTlbiComplete_at (hj : s.tlbis[n]? = some j) (hall : ∀ y ∈ j.accesses, accessCleared { s with cur := .idle } y = true) :
    execTlbiComplete s = .next ((List.range 36).foldl (fun o p => restartParked j.id 8 o p)
      (sendHeld (markWithdrawn j.accesses { { s with cur := .idle } with tlbis := s.tlbis.eraseIdx n }) j.plot j.held (statusPacket 0))) := by
  have hcleared : j.accesses.all (accessCleared { s with cur := .idle }) = true := List.all_eq_true.mpr hall
  simp only [execTlbiComplete, hs, hj, hcleared, if_true]

theorem execWordServe_at : execWordServe s = .next (serveBank { s with cur := .idle } p n) := by
  simp only [execWordServe, hs]
end

/-- Settles O46: each step by what its operation does in each case. -/
theorem accessSteps : Obligations.AccessSteps := by
  intro s z p n k l t v a e x w pte j q qs r f c ok part u does walker rec_ waved flying marked delivered port local_ gone finished hs
  refine ⟨fun ha => ⟨fun hphase hstream => ?arrives, fun hphase hstream hlets hready hagain => ⟨fun hgates => ?closed,
      fun hgates hmark hwith hpeers => ⟨fun hop => ?mnop, fun hop hf => ?forwards, fun hop hf => ?sends⟩, fun hgates hmark =>
      ⟨fun hd => ?issueFaults, fun hd => ?issueWaits⟩⟩, fun hphase hfault hdone hfreed hop hclear hleaves => ⟨fun hret hm hstream => ?refused,
      fun hm => ⟨fun hstream => ?performed, fun hstream => ?streamed⟩⟩, fun hphase hfault htried hstream hop => ⟨fun hg => ?killed,
      fun y hy hne => ⟨fun hd => ?faulted, fun hd => ?faultWaits⟩⟩, fun hphase hctx hfault hstream i hnext hvalid hcovers hask => ?asks,
      fun hmay hk => ?resent⟩, fun hr hruns hk hrank => ?unitRetry, fun hx => ?answers, fun hw => ⟨fun hphase => ?level,
      fun hphase hsame haccepts hreqs => ?updates, fun hphase hother => ?restarts, fun hphase => ?group⟩, fun hj hall => ?tlbi,
    fun hq => ?banks⟩
  case arrives => exact execAccessArrival_at hs ha hphase hstream
  case closed => exact (accessStep_at hs ha).trans (congrArg _ (tryIssue_closed hphase hstream hlets hready hagain hgates))
  case mnop =>
    refine (accessStep_at hs ha).trans (congrArg _ ((tryIssue_open hphase hstream hlets hready hagain hgates hmark hpeers).trans ?_))
    exact issueAccess_mnop hwith hop
  case forwards =>
    refine (accessStep_at hs ha).trans (congrArg _ ((tryIssue_open hphase hstream hlets hready hagain hgates hmark hpeers).trans ?_))
    exact issueAccess_forwarded hwith hop hf
  case sends =>
    refine (accessStep_at hs ha).trans (congrArg _ ((tryIssue_open hphase hstream hlets hready hagain hgates hmark hpeers).trans ?_))
    exact issueAccess_sent hwith hop hf
  case issueFaults =>
    refine (accessStep_at hs ha).trans (congrArg _ ((tryIssue_faulty hphase hstream hlets hready hagain hgates hmark).trans ?_))
    exact takeFault_eq hd
  case issueWaits =>
    refine (accessStep_at hs ha).trans (congrArg _ ((tryIssue_faulty hphase hstream hlets hready hagain hgates hmark).trans ?_))
    exact takeFault_eq hd
  case refused =>
    exact (execAccessPerformed_at hs ha hstream hop).trans
      (congrArg _ (performAccess_refused hphase hfault hdone hfreed hclear hleaves (accessAt_self ha) hret hm))
  case performed =>
    exact (execAccessPerformed_at hs ha hstream hop).trans
      (congrArg _ (performAccess_finishes hphase hfault hdone hfreed hclear hleaves (accessAt_self ha) hm))
  case streamed =>
    refine (execStreamAccessPerformed_at hs ha hstream).trans (congrArg (fun t => Host.Outcome.next (kickStreams t p)) ?_)
    exact performAccess_finishes hphase hfault hdone hfreed hclear hleaves (accessAt_self ha) hm
  case killed => exact (execAccessPerformed_at hs ha hstream hop).trans (congrArg _ (performAccess_killed hphase hfault htried hg))
  case faulted => exact (execAccessPerformed_at hs ha hstream hop).trans (congrArg _ (performAccess_faulted hphase hfault htried hy hne hd))
  case faultWaits => exact (execAccessPerformed_at hs ha hstream hop).trans (congrArg _ (performAccess_faulted hphase hfault htried hy hne hd))
  case asks =>
    refine (execWalkerQueueRetry_at hs ha hphase hctx).trans (congrArg _ ?_)
    exact advance_asked (accessAt_self ha) hphase hfault hstream hnext hvalid hcovers hask
  case resent => exact execWaiterRefusalRetry_access hs ha hk hmay
  case unitRetry => exact execWaiterRefusalRetry_unit hs hr hk hruns hrank
  case answers =>
    intro read
    have hstep := execWalkReturn_at hs hx
    refine ⟨fun id hwho => ⟨fun ha => ?_, fun ha hctx => ?_, fun ha hctx => ⟨fun m hm => ?_, fun i he hi => ?_⟩⟩,
      fun b y hwho hctx => ⟨fun m hm => ?_, fun he => ?_⟩⟩
    · exact hstep.trans (congrArg _ (walkReturn_gone hwho ha))
    · exact hstep.trans (congrArg _ (walkReturn_stopped hwho ha hctx))
    · exact hstep.trans (congrArg _ (walkReturn_leaf hwho ha hctx hm))
    · exact hstep.trans (congrArg _ (walkReturn_fault hwho ha hctx he hi))
    · exact hstep.trans (congrArg _ (walkReturn_station_leaf hwho hctx hm))
    · exact hstep.trans (congrArg _ (walkReturn_station_fault hwho hctx he))
  case level =>
    intro b
    have hstep := execWalkLevelRead_at hs hw hphase
    refine ⟨fun hc => ?_, fun hc hl => ?_, fun y hc hl hreqs hr => ?_, fun hc hl haccepts hreqs => ⟨fun hup => ?_,
      fun hup h5 hcont => ?_, fun hup h5 => ?_⟩⟩
    · exact hstep.trans (congrArg _ (levelRead_fault hc))
    · exact hstep.trans (congrArg _ (levelRead_table hc hl))
    · exact hstep.trans (congrArg _ ((levelRead_leaf hc hl).trans (leafRead_refused hreqs hr)))
    · exact hstep.trans (congrArg _ (((levelRead_leaf hc hl).trans (leafRead_accepted haccepts hreqs)).trans (if_pos hup)))
    · refine hstep.trans (congrArg _ (((levelRead_leaf hc hl).trans (leafRead_accepted haccepts hreqs)).trans ?_))
      exact (if_neg (Bool.eq_false_iff.mp hup)).trans (if_pos ⟨h5, hcont⟩)
    · refine hstep.trans (congrArg _ (((levelRead_leaf hc hl).trans (leafRead_accepted haccepts hreqs)).trans ?_))
      refine (if_neg (Bool.eq_false_iff.mp hup)).trans (if_neg fun hgroup => ?_)
      exact h5.elim (fun h => h hgroup.1) fun h => Bool.noConfusion (h.symm.trans hgroup.2)
  case updates => exact (execAdUpdate_at hs hw hphase).trans (congrArg _ (adUpdate_unchanged haccepts hreqs hsame))
  case restarts => exact (execAdUpdate_at hs hw hphase).trans (congrArg _ (adUpdate_changed hother))
  case group => exact execContiguousCheck_at hs hw hphase
  case tlbi => exact execTlbiComplete_at hs hj hall
  case banks =>
    intro served
    exact ⟨fun hatomic hcycle hfree => (execWordServe_at hs).trans (congrArg _ (serveBank_served hq hatomic hcycle hfree)),
      fun hwait => (execWordServe_at hs).trans (congrArg _ (serveBank_waits hq hwait))⟩

end Sys2Proof
end

section
/-! SUPPORT. The coherence protocol: what each message does where it arrives (R249 to R257), and the directory (R252). -/
namespace Sys2Proof
open Machine

/-! ### The directory entry of a line (R252, R257) -/

theorem endWatch_rest (s : State) (line : Nat) : (endWatch s line).dir = s.dir ∧ (endWatch s line).mem = s.mem := by
  unfold endWatch
  split <;> exact ⟨rfl, rfl⟩

theorem l2Leave_rest (s : State) (x : L2Line) : (l2Leave s x).dir = s.dir ∧ (l2Leave s x).mem = s.mem := by
  unfold l2Leave
  simp only
  split
  · exact endWatch_rest _ _
  · exact ⟨rfl, rfl⟩

theorem l2Mark_rest (s : State) (x : L2Line) : (l2Mark s x).dir = s.dir ∧ (l2Mark s x).mem = s.mem := by
  unfold l2Mark
  simp only
  split
  · split <;> exact ⟨rfl, rfl⟩
  · exact ⟨rfl, rfl⟩

/-- The state of an L2 set that has a way for a line. -/
theorem l2Room_rest (s : State) (line : Nat) :
    let t := if (l2Rivals s line).length < 16 then s else match l2Victim (l2Rivals s line) with
      | some v => l2Leave s v
      | none => s
    t.dir = s.dir ∧ t.mem = s.mem := by
  simp only
  split
  · exact ⟨rfl, rfl⟩
  · split
    · exact l2Leave_rest s _
    · exact ⟨rfl, rfl⟩

/-- An access through its L2 leaves the directory and memory alone. -/
theorem l2Touch_rest (s : State) (cp : CachePol) (c : Option (BitVec 12)) (line : Nat) :
    (l2Touch s cp c line).dir = s.dir ∧ (l2Touch s cp c line).mem = s.mem := by
  have hroom := l2Room_rest s line
  unfold l2Touch
  split
  · cases cp with
    | normal | stream | l2first => exact ⟨rfl, rfl⟩
    | l2keep => exact l2Mark_rest s _
  · cases cp with
    | normal | stream | l2first => exact hroom
    | l2keep =>
      obtain ⟨hdir, hmem⟩ := l2Mark_rest _ (L2Line.mk line c none)
      exact ⟨hdir.trans hroom.1, hmem.trans hroom.2⟩

/-- The way of a request through the slice's L2 leaves the directory and memory alone. -/
theorem l2Request_rest (s : State) (line : Nat) (q : DirReq) : (l2Request s line q).dir = s.dir ∧ (l2Request s line q).mem = s.mem := by
  cases q with
  | gets _ | getx _ | upg _ => exact l2Touch_rest _ _ _ _
  | pute _ | op _ | read _ => exact ⟨rfl, rfl⟩
  | putm _ _ =>
    unfold l2Request
    simp only
    split
    · exact ⟨rfl, rfl⟩
    · exact l2Touch_rest _ _ _ _

theorem dirAt_l2Request (s : State) (line : Nat) (q : DirReq) : dirAt (l2Request s line q) line = dirAt s line :=
  congrArg (fun l => (l.find? (fun e => e.line == line)).getD (DirEntry.none line)) (l2Request_rest s line q).1

theorem mem_l2Request (s : State) (line : Nat) (q : DirReq) : (l2Request s line q).mem = s.mem := (l2Request_rest s line q).2

theorem dirAt_line (s : State) (line : Nat) : (dirAt s line).line = line := by
  unfold dirAt
  cases h : s.dir.find? (fun e => e.line == line) with
  | none => rfl
  | some e => exact beq_iff_eq.mp (List.find?_some h :)

theorem dirAt_setDir (s : State) (e : DirEntry) : dirAt (setDir s e) e.line = e := by
  unfold dirAt setDir
  simp only
  split
  · next hnone =>
    have hgone : (s.dir.filter (fun x => x.line != e.line)).find? (fun x => x.line == e.line) = none := by
      refine List.find?_eq_none.mpr fun x hx => ?_
      have hne := (List.mem_filter.mp hx).2
      simpa using hne
    rw [hgone]
    exact hnone.symm
  · exact congrArg (fun o : Option DirEntry => o.getD (DirEntry.none e.line)) (List.find?_cons_of_pos (beq_self_eq_true e.line))

theorem hostFlag_setHostFlag (s : State) (line : Nat) (b : Bool) : hostFlag (setHostFlag s line b) line = b := by
  have h := dirAt_setDir s { dirAt s line with hostFlag := b }
  rw [show (DirEntry.line { dirAt s line with hostFlag := b }) = line from dirAt_line s line] at h
  rw [hostFlag, setHostFlag, h]

/-! ### What the home of a line at rest does (R252) -/

section
variable {s : State} {line p : Nat} {d : LineData} {r : ReqRef}

/-- The line given to a plot. -/
def giveLine (s t : State) (line p : Nat) (m : PlotMsg) : State :=
  sendPlot (setDir t { dirAt s line with st := .em, owner := p, sharers := [], serving := none, count := 0 }) p line m

/-- The owner of a line asked to forward it. -/
def askOwner (s t : State) (line : Nat) (st : DirState) (q : DirReq) (k : FwdKind) (o : Option Nat) : State :=
  sendPlot (setDir t { dirAt s line with st := st, serving := some q }) (dirAt s line).owner line (.fwd (Forward.mk k o))

theorem serveReq_put (hst : (dirAt s line).st = .i ∨ (dirAt s line).st = .s) : serveReq s line (.pute p) = sendPlot s p line .putAck ∧
    serveReq s line (.putm p d) = sendPlot (l2Request s line (.putm p d)) p line .putAck ∧ serveReq s line (.read r) = performRef s r := by
  rcases hst with h | h
  · simp only [serveReq, dirAt_l2Request, h, true_and]
    exact ⟨rfl, rfl⟩
  · simp only [serveReq, dirAt_l2Request, h, true_and]
    exact ⟨rfl, rfl⟩

theorem serveReq_idle (h : (dirAt s line).st = .i) :
    serveReq s line (.gets p) = giveLine s (l2Request s line (.gets p)) line p (.dataE (s.mem.line line)) ∧
      serveReq s line (.getx p) = giveLine s (l2Request s line (.getx p)) line p (.dataM (s.mem.line line)) ∧
      serveReq s line (.upg p) = giveLine s (l2Request s line (.upg p)) line p (.dataM (s.mem.line line)) ∧
      serveReq s line (.op r) = performRef s r := by
  simp only [serveReq, dirAt_l2Request, mem_l2Request, h, giveLine, true_and]
  rfl

section
variable (h : (dirAt s line).st = .s)
include h

theorem serveReq_reader (hp : p ∉ (dirAt s line).sharers) : serveReq s line (.gets p) =
    sendPlot (setDir (l2Request s line (.gets p)) { dirAt s line with sharers := p :: (dirAt s line).sharers }) p line
      (.dataS (s.mem.line line)) := by
  have hnot : (dirAt s line).sharers.contains p = false := by simpa using hp
  simp only [serveReq, dirAt_l2Request, mem_l2Request, h, hnot, Bool.false_eq_true, if_false]

theorem serveReq_writer_alone (hothers : (dirAt s line).sharers.filter (fun q => q != p) = []) :
    serveReq s line (.getx p) = giveLine s (l2Request s line (.getx p)) line p (.dataM (s.mem.line line)) ∧
      (p ∈ (dirAt s line).sharers → serveReq s line (.upg p) = giveLine s (l2Request s line (.upg p)) line p .grant) := by
  refine ⟨?_, fun hp => ?_⟩
  · simp only [serveReq, dirAt_l2Request, mem_l2Request, h, hothers, List.isEmpty_nil, if_true, giveLine]
  · have hin : (dirAt s line).sharers.contains p = true := by simpa using hp
    simp only [serveReq, dirAt_l2Request, mem_l2Request, h, hothers, List.isEmpty_nil, if_true, giveLine, hin]

theorem serveReq_writer_shared (hothers : (dirAt s line).sharers.filter (fun q => q != p) ≠ []) :
    serveReq s line (.getx p) =
        invalidate (l2Request s line (.getx p)) (dirAt s line) ((dirAt s line).sharers.filter (fun q => q != p)) (.getx p) ∧
      (p ∈ (dirAt s line).sharers → serveReq s line (.upg p) =
        invalidate (l2Request s line (.upg p)) (dirAt s line) ((dirAt s line).sharers.filter (fun q => q != p)) (.upg p)) ∧
      (p ∉ (dirAt s line).sharers → serveReq s line (.upg p) =
        invalidate (l2Request s line (.upg p)) (dirAt s line) ((dirAt s line).sharers.filter (fun q => q != p)) (.getx p)) := by
  have hne := List.isEmpty_eq_false_iff.mpr hothers
  refine ⟨?_, fun hp => ?_, fun hp => ?_⟩
  · simp only [serveReq, dirAt_l2Request, h, hne, Bool.false_eq_true, if_false]
  · have hin : (dirAt s line).sharers.contains p = true := by simpa using hp
    simp only [serveReq, dirAt_l2Request, h, hne, Bool.false_eq_true, if_false, hin, if_true]
  · have hnot : (dirAt s line).sharers.contains p = false := by simpa using hp
    simp only [serveReq, dirAt_l2Request, h, hne, Bool.false_eq_true, if_false, hnot]

theorem serveReq_operation_shared :
    ((dirAt s line).sharers = [] → serveReq s line (.op r) = performRef (setDir s { dirAt s line with st := .i }) r) ∧
      ((dirAt s line).sharers ≠ [] → serveReq s line (.op r) = invalidate s (dirAt s line) (dirAt s line).sharers (.op r)) := by
  refine ⟨fun hnil => ?_, fun hne => ?_⟩
  · simp only [serveReq, dirAt_l2Request, h, hnil, List.isEmpty_nil, if_true]
    rfl
  · simp only [serveReq, dirAt_l2Request, h, List.isEmpty_eq_false_iff.mpr hne, Bool.false_eq_true, if_false]
    rfl
end

section
variable (h : (dirAt s line).st = .em)
include h

theorem serveReq_owned (hp : p ≠ (dirAt s line).owner) :
    serveReq s line (.gets p) = askOwner s (l2Request s line (.gets p)) line .emFs (.gets p) .gets (some p) ∧
      serveReq s line (.getx p) = askOwner s (l2Request s line (.getx p)) line .emFx (.getx p) .getx (some p) ∧
      serveReq s line (.upg p) = askOwner s (l2Request s line (.upg p)) line .emFx (.upg p) .getx (some p) ∧
      serveReq s line (.putm p d) = sendPlot (l2Request s line (.putm p d)) p line .putAck ∧
      serveReq s line (.pute p) = sendPlot s p line .putAck := by
  simp only [serveReq, dirAt_l2Request, h, if_neg hp, askOwner, true_and]
  rfl

theorem serveReq_owned_home : serveReq s line (.op r) = askOwner s s line .emFx (.op r) .getx none ∧
    serveReq s line (.read r) = askOwner s s line .emFs (.read r) .gets none := by
  simp only [serveReq, dirAt_l2Request, h, askOwner]
  exact ⟨rfl, rfl⟩

theorem serveReq_write_back (hp : p = (dirAt s line).owner) :
    serveReq s line (.pute p) = sendPlot (setDir s { dirAt s line with st := .i, owner := 0 }) p line .putAck ∧
      (∃ t, serveReq s line (.putm p d) = sendPlot { t with mem := t.mem.setLine line d } p line .putAck ∧
        t = setDir (l2Request s line (.putm p d)) { dirAt s line with st := .i, owner := 0 }) := by
  refine ⟨?_, _, ?_, rfl⟩
  · simp only [serveReq, dirAt_l2Request, h, if_pos hp]
    rfl
  · simp only [serveReq, dirAt_l2Request, h, if_pos hp]
end
end

/-- Settles O48: `serveReq` by the state of the line. -/
theorem directoryRule : Obligations.DirectoryRule := by
  intro s line p d r z e others owned home waits asks
  exact ⟨serveReq_idle, serveReq_reader, serveReq_writer_alone, serveReq_writer_shared, serveReq_operation_shared, serveReq_owned,
    serveReq_owned_home, serveReq_write_back, serveReq_put⟩

/-! ### Messages to a home (R250, R252, R253) -/

section
variable {s w : State} {p n k : Nat} {v : List Nat} {x : ToHome} {want : HomeMsg → Bool} {f : State → ToHome → State}
  (hs : s.cur = .at p n k v) (hx : headHome { s with cur := .idle } p n = some x) (hwant : want x.msg = true)
include hs hx hwant

theorem homeStep_at : homeStep want f s = .next (f { { s with cur := .idle } with toHome := s.toHome.erase x } x) := by
  simp only [homeStep, hs, takeHome, hx, hwant, if_true]

theorem requestStep_at (hw : reaches { { s with cur := .idle } with toHome := s.toHome.erase x } x.line p = some w) :
    requestStep want f s = .next (f w x) := by
  simp only [requestStep, hs, takeRequest, takeHome, hx, hwant, if_true, hw, Option.map_some]

theorem requestStep_later (hw : reaches { { s with cur := .idle } with toHome := s.toHome.erase x } x.line p = none) :
    requestStep want f s = .next { s with cur := .idle } := by
  simp only [requestStep, hs, takeRequest, takeHome, hx, hwant, if_true, hw, Option.map_none]
end

section
variable {s w : State} {p line : Nat} {d : LineData} {req : DirReq} {r : ReqRef}

/-- A request that reaches its home changes the order of its plot cycle only. -/
theorem dirAt_reaches (hw : reaches s line p = some w) (l : Nat) : dirAt w l = dirAt s l := by
  unfold reaches at hw
  split at hw
  · split at hw
    · cases hw
    · exact (Option.some.inj hw) ▸ rfl
  · exact (Option.some.inj hw) ▸ rfl

theorem arriveReq_served (ht : dirTransient (dirAt s line) = false) : arriveReq s line req = serveLine (serveReq s line req) line := by
  simp only [arriveReq, ht, Bool.false_eq_true, if_false]

theorem arriveReq_queued (ht : dirTransient (dirAt s line) = true) (hroom : queuedAt s (lineSlice line) < 512) :
    arriveReq s line req = setDir s { dirAt s line with queue := (dirAt s line).queue ++ [req] } := by
  simp only [arriveReq, ht, if_true, if_neg (Nat.not_le.mpr hroom)]

theorem arriveReq_refused (ht : dirTransient (dirAt s line) = true) (hfull : 512 ≤ queuedAt s (lineSlice line)) :
    arriveReq s line req = refuseReq s line req := by
  simp only [arriveReq, ht, if_true, if_pos hfull]

/-- The three outcomes of a request in its place (R252, R253), the entry as it stood before the request was taken. -/
theorem arriveReq_cases {e : DirEntry} (he : dirAt s line = e) :
    (dirTransient e = false → arriveReq s line req = serveLine (serveReq s line req) line) ∧
      (dirTransient e = true → queuedAt s (lineSlice line) < 512 → arriveReq s line req = setDir s { e with queue := e.queue ++ [req] }) ∧
      (dirTransient e = true → 512 ≤ queuedAt s (lineSlice line) → arriveReq s line req = refuseReq s line req) := by
  subst he
  exact ⟨arriveReq_served, arriveReq_queued, arriveReq_refused⟩

theorem arriveHome_hbm (h : rangeOf (64 * line) = .hbm) : arriveHome s line req r = arriveReq s line req := if_pos h

theorem arriveHome_host (h : rangeOf (64 * line) ≠ .hbm) : arriveHome s line req r = performRef s r := if_neg h

/-- The last acknowledgement, and those before it (R252). -/
theorem arriveInvAck_waits (hst : (dirAt s line).st = .sx) (hcount : 1 < (dirAt s line).count) :
    arriveInvAck s line = setDir s { dirAt s line with count := (dirAt s line).count - 1 } := by
  simp only [arriveInvAck, hst, ne_eq, not_true_eq_false, if_false, if_pos hcount]

section
variable (hst : (dirAt s line).st = .sx) (hcount : (dirAt s line).count ≤ 1)
include hst hcount

theorem arriveInvAck_upg {b : Nat} (hserving : (dirAt s line).serving = some (.upg b)) :
    arriveInvAck s line = serveLine (giveLine s s line b .grant) line := by
  simp only [arriveInvAck, hst, ne_eq, not_true_eq_false, if_false, if_neg (Nat.not_lt.mpr hcount), hserving, giveLine]

theorem arriveInvAck_getx {b : Nat} (hserving : (dirAt s line).serving = some (.getx b)) :
    arriveInvAck s line = serveLine (giveLine s s line b (.dataM (s.mem.line line))) line := by
  simp only [arriveInvAck, hst, ne_eq, not_true_eq_false, if_false, if_neg (Nat.not_lt.mpr hcount), hserving, giveLine]

theorem arriveInvAck_op (hserving : (dirAt s line).serving = some (.op r)) : arriveInvAck s line =
    serveLine (performRef (setDir s { dirAt s line with serving := none, count := 0, st := .i, sharers := [] }) r) line := by
  simp only [arriveInvAck, hst, ne_eq, not_true_eq_false, if_false, if_neg (Nat.not_lt.mpr hcount), hserving]
end

/-- A line written at its home with its new entry. -/
def lineWritten (s : State) (line : Nat) (d : LineData) (g : DirEntry) : State :=
  { setDir s g with mem := (setDir s g).mem.setLine line d }

/-- The plot that keeps a copy of a forwarded line. -/
def keptBy (keep : Bool) (e : DirEntry) : List Nat := if keep then [e.owner] else []

section
variable {keep : Bool} {b : Nat}

theorem arriveFwdDone_gets (hst : (dirAt s line).st = .emFs) (hserving : (dirAt s line).serving = some (.gets b)) :
    arriveFwdDone s line d keep = serveLine (lineWritten s line d { dirAt s line with
      serving := none, count := 0, st := .s, owner := 0, sharers := b :: keptBy keep (dirAt s line) }) line := by
  simp only [arriveFwdDone, hst, hserving]
  rfl

theorem arriveFwdDone_read (hst : (dirAt s line).st = .emFs) (hserving : (dirAt s line).serving = some (.read r)) :
    arriveFwdDone s line d keep = serveLine (performRef (lineWritten s line d { dirAt s line with
      serving := none, count := 0, st := if keep then .s else .i, owner := 0, sharers := keptBy keep (dirAt s line) }) r) line := by
  simp only [arriveFwdDone, hst, hserving]
  rfl

theorem arriveFwdDone_owner (hst : (dirAt s line).st = .emFx)
    (hserving : (dirAt s line).serving = some (.getx b) ∨ (dirAt s line).serving = some (.upg b)) :
    arriveFwdDone s line d keep = serveLine (setDir s { dirAt s line with
      serving := none, count := 0, st := .em, owner := b, sharers := [] }) line := by
  rcases hserving with h | h
  · simp only [arriveFwdDone, hst, h]
  · simp only [arriveFwdDone, hst, h]

theorem arriveFwdDone_op (hst : (dirAt s line).st = .emFx) (hserving : (dirAt s line).serving = some (.op r)) :
    arriveFwdDone s line d keep = serveLine (performRef (lineWritten s line d { dirAt s line with
      serving := none, count := 0, st := .i, owner := 0, sharers := [] }) r) line := by
  simp only [arriveFwdDone, hst, hserving]
  rfl
end

section
variable {q : PartRef} {a : Access} {z : Machine.Part}

theorem arriveRead_replicated (hq : partAt s q = some (a, z)) (hz : z.kind = .replicated) :
    arriveRead s line (.part q) = repRead s q line := by
  simp only [arriveRead, hq, hz, if_true]

theorem arriveRead_home (hr : ∀ q, r = .part q → ∃ b, partAt s q = some b ∧ b.2.kind ≠ .replicated) :
    arriveRead s line r = arriveHome s line (.read r) r := by
  cases r with
  | part q =>
    obtain ⟨⟨a, z⟩, hq, hz⟩ := hr q rfl
    simp only [arriveRead, hq, if_neg hz]
  | eng id => rfl

theorem resumeReplay_eq {home b : Nat} (hq : partAt s q = some (a, z)) (hb : z.pa = some b) : resumeReplay s home q =
    arriveHome { s with homeWaiters := s.homeWaiters.erase (.replay home q) } (b / 64) (.op (.part q)) (.part q) := by
  have hq' : partAt { s with homeWaiters := s.homeWaiters.erase (.replay home q) } q = some (a, z) := hq
  simp only [resumeReplay, hq', hb]

theorem storeAtomic_served {store bank : Nat} {b : BankReq} {bs : List BankReq}
    (hb : s.banks.filter (fun g => g.store == store && g.word % 64 == bank) = b :: bs) (hatomic : b.atomic = true)
    (hcycle : b.cycle < s.cycles) (hfree : (store, bank) ∉ s.served) : storeAtomic s store bank =
      performRef { countConflicts s store bank b.word [b] with
        served := (store, bank) :: (countConflicts s store bank b.word [b]).served } b.ref := by
  have hmay : (b.atomic && bankMay s store bank b) = true := by simp [hatomic, bankMay, hcycle, hfree]
  have hqueue : bankQueue s store bank = b :: bs := hb
  simp only [storeAtomic, hqueue, hmay, if_true]
  rfl
end
end

/-! ### Messages to an L1 (R250, R251) -/

section
variable {s : State} {p n k : Nat} {v : List Nat} {y : ToPlot} {want : PlotMsg → Bool} {f : State → ToPlot → State}

/-- A plot without a message that was on its way to it. -/
def messageTaken (u : State) (k : Nat) (y : ToPlot) : State :=
  if k = 0 then { u with toPlot := u.toPlot.erase y } else { u with fromOwner := u.fromOwner.erase y }

theorem plotStep_at (hs : s.cur = .at p n k v)
    (hy : (k = 0 ∧ headPlot { s with cur := .idle } p n = some y) ∨ (1 ≤ k ∧ (s.fromOwner.filter (fun m => m.plot == p))[k - 1]? = some y))
    (hwant : want y.msg = true) : plotStep want f s = .next (f (messageTaken { s with cur := .idle } k y) y) := by
  rcases hy with ⟨rfl, hy⟩ | ⟨hk, hy⟩
  · simp only [plotStep, hs, takePlot, hy, hwant, if_true, messageTaken]
  · obtain ⟨i, rfl⟩ : ∃ i, k = i + 1 := ⟨k - 1, by omega⟩
    simp only [Nat.add_sub_cancel] at hy
    simp only [plotStep, hs, takePlot, hy, hwant, if_true, messageTaken, if_neg (Nat.succ_ne_zero i)]
end

section
variable {l : State} {p line : Nat} {d : LineData} {c : L1Line} {f : Forward} {g : L1State} (hc : l1At l p line = some c)
include hc

/-- Data that a line in IS_D waits for. -/
theorem arriveData_shared (hst : c.st = .isD) :
    arriveData l p line d g = kickL1 (setLineState l p line (fun o => { o with st := g, data := d })) p := by
  simp only [arriveData, hc, hst]

theorem arriveData_owned (hst : c.st = .imD) :
    arriveData l p line d g = answerHeld (kickL1 (setLineState l p line (fun o => { o with st := g, data := d })) p) p line := by
  simp only [arriveData, hc, hst]

theorem arriveData_invalidated (hst : c.st = .isI) :
    arriveData l p line d g = kickL1 (dropLine (bindWaiting l p line d) p line) p := by
  simp only [arriveData, hc, hst]

theorem arriveGrant_upgraded (hst : c.st = .smD) :
    arriveGrant l p line = kickL1 (setLineState l p line (fun o => { o with st := .m })) p := by
  simp only [arriveGrant, hc, hst, if_true]

/-- An invalidation is acknowledged, and takes the copy as its state says. -/
theorem arriveInv_cases : let acked := sendHome l p line .invAck
    (c.st = .s → arriveInv l p line = kickL1 (dropLine acked p line) p) ∧
      (c.st = .smD → arriveInv l p line = setLineState acked p line (fun o => { o with st := .imD })) ∧
      (c.st = .isD → arriveInv l p line = markWaiting (setLineState acked p line (fun o => { o with st := .isI })) p line) := by
  have hacked : l1At (sendHome l p line .invAck) p line = some c := hc
  refine ⟨fun hst => ?_, fun hst => ?_, fun hst => ?_⟩
  · simp only [arriveInv, hacked, hst]
  · simp only [arriveInv, hacked, hst]
  · simp only [arriveInv, hacked, hst]

section
variable (hst : c.st = .e ∨ c.st = .m)
include hst

/-- The owner of a line answers a forward. -/
theorem arriveForward_owner : arriveForward l p line f = answerForward l p line f := by
  rcases hst with h | h
  · simp only [arriveForward, hc, h]
  · simp only [arriveForward, hc, h]

omit hc in
theorem owner_is_no_leaver : c.st ≠ .miA := by
  rcases hst with h | h
  · rw [h]; decide
  · rw [h]; decide

theorem forward_gets_plot (b : Nat) : arriveForward l p line (Forward.mk .gets (some b)) =
    sendHome (sendOwner (setLineState l p line (fun o => { o with st := .s })) b line (.dataS c.data)) p line (.fwdDone c.data true) := by
  rw [arriveForward_owner hc hst]
  simp only [answerForward, hc, if_neg (owner_is_no_leaver hst)]

theorem forward_gets_home : arriveForward l p line (Forward.mk .gets none) =
    sendHome (setLineState l p line (fun o => { o with st := .s })) p line (.fwdDone c.data true) := by
  rw [arriveForward_owner hc hst]
  simp only [answerForward, hc, if_neg (owner_is_no_leaver hst)]

theorem forward_getx_plot (b : Nat) : arriveForward l p line (Forward.mk .getx (some b)) =
    sendHome (sendOwner (dropLine l p line) b line (.dataM c.data)) p line (.fwdDone c.data false) := by
  rw [arriveForward_owner hc hst]
  simp only [answerForward, hc, if_neg (owner_is_no_leaver hst)]

theorem forward_getx_home : arriveForward l p line (Forward.mk .getx none) =
    sendHome (dropLine l p line) p line (.fwdDone c.data false) := by
  rw [arriveForward_owner hc hst]
  simp only [answerForward, hc, if_neg (owner_is_no_leaver hst)]
end

theorem arriveForward_held (hst : c.st = .imD) :
    arriveForward l p line f = setLineState l p line (fun o => { o with held := o.held ++ [f] }) := by
  simp only [arriveForward, hc, hst]

theorem arriveForward_leaving (hst : c.st = .miA) : arriveForward l p line f = answerForward l p line f := by
  simp only [arriveForward, hc, hst]

theorem arrivePutAck_freed (hst : c.st = .miA ∨ c.st = .iiA) : arrivePutAck l p line = kickL1 (dropLine l p line) p := by
  simp only [arrivePutAck, hc, if_pos hst]
end

theorem arriveInv_absent {l : State} {p line : Nat} (hc : l1At l p line = none) : arriveInv l p line = sendHome l p line .invAck := by
  have hacked : l1At (sendHome l p line .invAck) p line = none := hc
  simp only [arriveInv, hacked]

/-! ### A refused request sent again (R251, R253) -/

section
variable {l : State} {p line : Nat} {c : L1Line} {b : HomeMsg}

theorem reissueRequest_other (hb : b ≠ .upg) : reissueRequest l p line b = sendHome l p line b := by
  cases b with
  | upg => exact absurd rfl hb
  | _ => rfl

theorem reissueRequest_upg (hc : l1At l p line = some c) : reissueRequest l p line .upg =
    sendHome l p line (if c.st = .imD then .getx else .upg) := by
  cases hst : c.st with
  | imD => simp only [reissueRequest, hc, Option.map_some, hst, if_true]
  | _ => simp only [reissueRequest, hc, Option.map_some, hst, reduceCtorEq, if_false]

/-- Counting an event leaves the L1s alone. -/
theorem l1At_countEvent (q : Nat) (ev : BitVec 6) (ctx : Option (BitVec 12)) (k : Nat) : l1At (countEvent l q ev ctx k) p line = l1At l p line := by
  rw [l1At, l1At]
  by_cases hq : p = q
  · subst hq
    by_cases hp : p < l.plots.length
    · rw [countEvent, modBlocks, plotAt_modPlot l p _ hp]
    · have hlen : (countEvent l p ev ctx k).plots.length ≤ p := by
        change (l.plots.modify p _).length ≤ p
        rw [List.length_modify]
        exact Nat.not_lt.mp hp
      rw [plotAt_beyond hlen, plotAt_beyond (Nat.not_lt.mp hp)]
  · rw [countEvent, modBlocks, plotAt_modPlot_other l q p _ hq]
end

/-! ### The steps -/

section
variable {s w : State} {p n k : Nat} {v : List Nat} {x : ToHome} {d : LineData} {i : Instr} {req : DirReq} {r : ReqRef}

/-- A request and the step that takes it. -/
def RequestOf (x : ToHome) (d : LineData) (i : Instr) (req : DirReq) : Prop :=
  (i = .gets ∧ x.msg = .gets ∧ req = .gets x.plot) ∨ (i = .getx ∧ x.msg = .getx ∧ req = .getx x.plot) ∨
    (i = .upg ∧ x.msg = .upg ∧ req = .upg x.plot) ∨ (i = .pute ∧ x.msg = .pute ∧ req = .pute x.plot) ∨
    (i = .putm ∧ x.msg = .putm d ∧ req = .putm x.plot d)

theorem refuseReq_of_request (hi : RequestOf x d i req) (t : State) :
    refuseReq t x.line req = sendPlot t x.plot x.line (.refused x.msg) := by
  rcases hi with ⟨-, hm, rfl⟩ | ⟨-, hm, rfl⟩ | ⟨-, hm, rfl⟩ | ⟨-, hm, rfl⟩ | ⟨-, hm, rfl⟩ <;> rw [hm] <;> rfl

section
variable (hs : s.cur = .at p n k v) (hx : headHome { s with cur := .idle } p n = some x)
include hs hx

/-- A request out of its place stays; one in its place arrives at its home (R253). -/
theorem exec_request (hi : RequestOf x d i req) :
    (reaches { { s with cur := .idle } with toHome := s.toHome.erase x } x.line p = none → exec i s = .next { s with cur := .idle }) ∧
      (reaches { { s with cur := .idle } with toHome := s.toHome.erase x } x.line p = some w → exec i s = .next (arriveReq w x.line req)) := by
  rcases hi with ⟨rfl, hm, rfl⟩ | ⟨rfl, hm, rfl⟩ | ⟨rfl, hm, rfl⟩ | ⟨rfl, hm, rfl⟩ | ⟨rfl, hm, rfl⟩
  · exact ⟨requestStep_later hs hx (beq_iff_eq.mpr hm), requestStep_at hs hx (beq_iff_eq.mpr hm)⟩
  · exact ⟨requestStep_later hs hx (beq_iff_eq.mpr hm), requestStep_at hs hx (beq_iff_eq.mpr hm)⟩
  · exact ⟨requestStep_later hs hx (beq_iff_eq.mpr hm), requestStep_at hs hx (beq_iff_eq.mpr hm)⟩
  · exact ⟨requestStep_later hs hx (beq_iff_eq.mpr hm), requestStep_at hs hx (beq_iff_eq.mpr hm)⟩
  · refine ⟨requestStep_later hs hx (by rw [hm]), fun hw => (requestStep_at hs hx (by rw [hm]) hw).trans ?_⟩
    simp only [hm]

theorem execInvAck_at (hm : x.msg = .invAck) :
    execInvAck s = .next (arriveInvAck { { s with cur := .idle } with toHome := s.toHome.erase x } x.line) :=
  homeStep_at hs hx (beq_iff_eq.mpr hm)

theorem execFwdDone_at {keep : Bool} (hm : x.msg = .fwdDone d keep) :
    execFwdDone s = .next (arriveFwdDone { { s with cur := .idle } with toHome := s.toHome.erase x } x.line d keep) := by
  refine (homeStep_at hs hx (by rw [hm])).trans ?_
  simp only [hm]

section
variable (hw : reaches { { s with cur := .idle } with toHome := s.toHome.erase x } x.line p = some w)
include hw

theorem execHomeRead_at (hm : x.msg = .read r) : execHomeRead s = .next (arriveRead w x.line r) := by
  refine (requestStep_at hs hx (by rw [hm]) hw).trans ?_
  simp only [hm]

theorem execHomeOperation_message (hm : x.msg = .op r) (hk : k ≠ 1) (hn : n < 64) :
    execHomeOperation s = .next (arriveHome w x.line (.op r) r) := by
  simp only [execHomeOperation, hs, if_neg hk, if_neg (Nat.not_le.mpr hn), takeRequest, takeHome, hx, hm, if_true, hw, Option.map_some]
end
end

section
variable (hs : s.cur = .at p n k v)
include hs

theorem execHomeOperation_replay {q : PartRef} (hk : k = 1) (hq : replayReady { s with cur := .idle } n = some q) :
    execHomeOperation s = .next (resumeReplay { s with cur := .idle } n q) := by
  simp only [execHomeOperation, hs, hk, if_true, hq]

theorem execHomeOperation_store (hk : k ≠ 1) (hn : 64 ≤ n) :
    execHomeOperation s = .next (storeAtomic { s with cur := .idle } (n - 64) p) := by
  simp only [execHomeOperation, hs, if_neg hk, if_pos hn]

theorem execBackInvalidation_other (hn : rangeOf (64 * n) ≠ .hbm) : execBackInvalidation s = .next { s with cur := .idle } := by
  simp only [execBackInvalidation, hs, ne_eq, hn, not_false_eq_true, if_true]

/-- A back-invalidation clears the host flag of its line (R257). -/
theorem execBackInvalidation_hbm (hn : rangeOf (64 * n) = .hbm) : ∃ t, execBackInvalidation s = .next t ∧ hostFlag t n = false ∧
    t.mem = s.mem ∧ t.dir = (setHostFlag s n false).dir ∧ t.toHome = s.toHome ∧ t.toPlot = s.toPlot ∧ t.fromOwner = s.fromOwner := by
  have hflag := hostFlag_setHostFlag s n false
  simp only [execBackInvalidation, hs, hn, ne_eq, not_true_eq_false, if_false]
  exact ⟨_, rfl, hflag, rfl, rfl, rfl, rfl, rfl⟩
end
end

section
variable {s : State} {p n k : Nat} {v : List Nat} {y : ToPlot} {d : LineData} {f : Forward} {b : HomeMsg} (hs : s.cur = .at p n k v)
  (hy : (k = 0 ∧ headPlot { s with cur := .idle } p n = some y) ∨ (1 ≤ k ∧ (s.fromOwner.filter (fun m => m.plot == p))[k - 1]? = some y))
include hs hy

theorem execDataS_at (hm : y.msg = .dataS d) :
    execDataS s = .next (arriveData (messageTaken { s with cur := .idle } k y) y.plot y.line d .s) := by
  refine (plotStep_at hs hy (by rw [hm])).trans ?_
  simp only [hm]

theorem execDataE_at (hm : y.msg = .dataE d) :
    execDataE s = .next (arriveData (messageTaken { s with cur := .idle } k y) y.plot y.line d .e) := by
  refine (plotStep_at hs hy (by rw [hm])).trans ?_
  simp only [hm]

theorem execDataM_at (hm : y.msg = .dataM d) :
    execDataM s = .next (arriveData (messageTaken { s with cur := .idle } k y) y.plot y.line d .m) := by
  refine (plotStep_at hs hy (by rw [hm])).trans ?_
  simp only [hm]

theorem execGrant_at (hm : y.msg = .grant) :
    execGrant s = .next (arriveGrant (messageTaken { s with cur := .idle } k y) y.plot y.line) :=
  plotStep_at hs hy (beq_iff_eq.mpr hm)

theorem execInv_at (hm : y.msg = .inv) : execInv s = .next (arriveInv (messageTaken { s with cur := .idle } k y) y.plot y.line) :=
  plotStep_at hs hy (beq_iff_eq.mpr hm)

theorem execFwdGets_at (hm : y.msg = .fwd f) (hf : f.kind = .gets) :
    execFwdGets s = .next (arriveForward (messageTaken { s with cur := .idle } k y) y.plot y.line f) := by
  refine (plotStep_at hs hy (by rw [hm]; exact beq_iff_eq.mpr hf)).trans ?_
  simp only [hm]

theorem execFwdGetx_at (hm : y.msg = .fwd f) (hf : f.kind = .getx) :
    execFwdGetx s = .next (arriveForward (messageTaken { s with cur := .idle } k y) y.plot y.line f) := by
  refine (plotStep_at hs hy (by rw [hm]; exact beq_iff_eq.mpr hf)).trans ?_
  simp only [hm]

/-- A forward and the step that takes it. -/
theorem exec_forward {i : Instr} (hi : (i = .fwdGets ∧ f.kind = .gets) ∨ (i = .fwdGetx ∧ f.kind = .getx)) (hm : y.msg = .fwd f) :
    exec i s = .next (arriveForward (messageTaken { s with cur := .idle } k y) y.plot y.line f) := by
  rcases hi with ⟨rfl, hf⟩ | ⟨rfl, hf⟩
  · exact execFwdGets_at hs hy hm hf
  · exact execFwdGetx_at hs hy hm hf

theorem execPutAck_at (hm : y.msg = .putAck) :
    execPutAck s = .next (arrivePutAck (messageTaken { s with cur := .idle } k y) y.plot y.line) :=
  plotStep_at hs hy (beq_iff_eq.mpr hm)

theorem execRequestReissue_at (hm : y.msg = .refused b) : execRequestReissue s = .next (reissueRequest
    (countEvent (messageTaken { s with cur := .idle } k y) y.plot 0x15
      (waitingCtx (messageTaken { s with cur := .idle } k y) y.plot y.line) 1) y.plot y.line b) := by
  refine (plotStep_at hs hy (by rw [hm])).trans ?_
  simp only [hm]
end

/-- Settles O47: each message by what it meets where it arrives. -/
theorem coherenceSteps : Obligations.CoherenceSteps := by
  intro s w p n k v x y d keep f r q a z c req i u does h e free given wrote l toState filled acked hs
  refine ⟨fun hx => ⟨fun hi => ?requests, fun hm hst => ?invAcks, fun hm => ?forwarded, fun hm hw => ?reads, fun hm hk hn hw => ?operations⟩,
    fun hk hq ha b hb => ?replays, fun hk hn b bs hbs hatomic hcycle hfree => ?atomics, fun hy => ?plots, execBackInvalidation_other hs,
    execBackInvalidation_hbm hs⟩
  case requests =>
    obtain ⟨hlater, hnow⟩ := exec_request (w := w) hs hx hi
    refine ⟨hlater, fun hw => ?_⟩
    obtain ⟨hserved, hqueued, hrefused⟩ := arriveReq_cases (req := req) (dirAt_reaches hw x.line)
    exact ⟨fun ht => (hnow hw).trans (congrArg _ (hserved ht)), fun ht hroom => (hnow hw).trans (congrArg _ (hqueued ht hroom)),
      fun ht hfull => (hnow hw).trans (congrArg _ ((hrefused ht hfull).trans (refuseReq_of_request hi w)))⟩
  case invAcks =>
    have hstep := execInvAck_at hs hx hm
    exact ⟨fun hcount => hstep.trans (congrArg _ (arriveInvAck_waits hst hcount)), fun hcount =>
      ⟨fun b hb => hstep.trans (congrArg _ (arriveInvAck_upg hst hcount hb)), fun b hb => hstep.trans (congrArg _ (arriveInvAck_getx hst hcount hb)),
        fun hb => hstep.trans (congrArg _ (arriveInvAck_op hst hcount hb))⟩⟩
  case forwarded =>
    intro kept
    have hstep := execFwdDone_at hs hx hm
    exact ⟨fun b hst hb => hstep.trans (congrArg _ (arriveFwdDone_gets hst hb)), fun hst hb => hstep.trans (congrArg _ (arriveFwdDone_read hst hb)),
      fun b hst hb => hstep.trans (congrArg _ (arriveFwdDone_owner hst hb)), fun hst hb => hstep.trans (congrArg _ (arriveFwdDone_op hst hb))⟩
  case reads =>
    have hstep := execHomeRead_at hs hx hw hm
    obtain ⟨hserved, hqueued, hrefused⟩ := arriveReq_cases (req := .read r) (dirAt_reaches hw x.line)
    refine ⟨fun q hr hq hz => ?_, fun hr => ⟨fun hhost => ?_, fun hhbm ht => ?_, fun hhbm ht hroom => ?_, fun hhbm ht hfull => ?_⟩⟩
    · subst hr
      exact hstep.trans (congrArg _ (arriveRead_replicated hq hz))
    · exact hstep.trans (congrArg _ ((arriveRead_home hr).trans (arriveHome_host hhost)))
    · exact hstep.trans (congrArg _ ((arriveRead_home hr).trans ((arriveHome_hbm hhbm).trans (hserved ht))))
    · exact hstep.trans (congrArg _ ((arriveRead_home hr).trans ((arriveHome_hbm hhbm).trans (hqueued ht hroom))))
    · exact hstep.trans (congrArg _ ((arriveRead_home hr).trans ((arriveHome_hbm hhbm).trans (hrefused ht hfull))))
  case operations =>
    have hstep := execHomeOperation_message hs hx hw hm hk hn
    obtain ⟨hserved, hqueued, hrefused⟩ := arriveReq_cases (req := .op r) (dirAt_reaches hw x.line)
    exact ⟨fun hhost => hstep.trans (congrArg _ (arriveHome_host hhost)),
      fun hhbm ht => hstep.trans (congrArg _ ((arriveHome_hbm hhbm).trans (hserved ht))),
      fun hhbm ht hroom => hstep.trans (congrArg _ ((arriveHome_hbm hhbm).trans (hqueued ht hroom))),
      fun hhbm ht hfull => hstep.trans (congrArg _ ((arriveHome_hbm hhbm).trans (hrefused ht hfull)))⟩
  case replays =>
    intro t
    have hstep := (execHomeOperation_replay hs hk hq).trans (congrArg _ (resumeReplay_eq ha hb))
    exact ⟨fun hhbm => hstep.trans (congrArg _ (arriveHome_hbm hhbm)), fun hhost => hstep.trans (congrArg _ (arriveHome_host hhost))⟩
  case atomics => exact (execHomeOperation_store hs hk hn).trans (congrArg _ (storeAtomic_served hbs hatomic hcycle hfree))
  case plots =>
    refine ⟨fun hc => ⟨⟨?dataS, ?dataE, ?dataM, ?dataI⟩, fun hm hst => ?grant, fun hm => ?inv, fun b hm hst => ?getsPlot, fun hm hst => ?getsHome,
      fun b hm hst => ?getxPlot, fun hm hst => ?getxHome, fun hi hm => ?forwards, fun hm hst => ?putAck⟩, fun hc hm => ?invAbsent,
      fun b hm => ?refused⟩
    case dataS =>
      rintro ⟨rfl, hm, hst⟩
      exact (execDataS_at hs hy hm).trans (congrArg _ (arriveData_shared hc hst))
    case dataE =>
      rintro ⟨rfl, hm, hst⟩
      exact (execDataE_at hs hy hm).trans (congrArg _ (arriveData_shared hc hst))
    case dataM =>
      rintro ⟨rfl, hm, hst⟩
      exact (execDataM_at hs hy hm).trans (congrArg _ (arriveData_owned hc hst))
    case dataI =>
      rintro ⟨rfl, hm, hst⟩
      exact (execDataS_at hs hy hm).trans (congrArg _ (arriveData_invalidated hc hst))
    case grant => exact (execGrant_at hs hy hm).trans (congrArg _ (arriveGrant_upgraded hc hst))
    case inv =>
      obtain ⟨hshared, hupgrading, hreading⟩ := arriveInv_cases hc
      exact ⟨fun hst => (execInv_at hs hy hm).trans (congrArg _ (hshared hst)), fun hst => (execInv_at hs hy hm).trans (congrArg _ (hupgrading hst)),
        fun hst => (execInv_at hs hy hm).trans (congrArg _ (hreading hst))⟩
    case getsPlot => exact (execFwdGets_at hs hy hm rfl).trans (congrArg _ (forward_gets_plot hc hst b))
    case getsHome => exact (execFwdGets_at hs hy hm rfl).trans (congrArg _ (forward_gets_home hc hst))
    case getxPlot => exact (execFwdGetx_at hs hy hm rfl).trans (congrArg _ (forward_getx_plot hc hst b))
    case getxHome => exact (execFwdGetx_at hs hy hm rfl).trans (congrArg _ (forward_getx_home hc hst))
    case forwards =>
      exact ⟨fun hst => (exec_forward hs hy hi hm).trans (congrArg _ (arriveForward_held hc hst)),
        fun hst => (exec_forward hs hy hi hm).trans (congrArg _ (arriveForward_leaving hc hst))⟩
    case putAck => exact (execPutAck_at hs hy hm).trans (congrArg _ (arrivePutAck_freed hc hst))
    case invAbsent => exact (execInv_at hs hy hm).trans (congrArg _ (arriveInv_absent hc))
    case refused =>
      intro counted
      have hstep := execRequestReissue_at hs hy hm
      refine ⟨fun hb => hstep.trans (congrArg _ (reissueRequest_other hb)), fun hb hc => ?_⟩
      subst hb
      have hupg := hstep.trans (congrArg _ (reissueRequest_upg ((l1At_countEvent _ _ _ _).trans hc)))
      refine ⟨fun hst => ?_, fun hst => ?_⟩
      · rw [if_neg hst] at hupg
        exact hupg
      · rw [if_pos hst] at hupg
        exact hupg

end Sys2Proof
end

section
/-! SUPPORT. The steps of streams (R220 to R235), copy engines (R282) and the matrix engine (R295 to R312, R319 to R329). -/
namespace Sys2Proof
open Machine

/-! ### Chains and their credits (R221 to R224) -/

section
variable {s : State} {p : Nat} {x : Chain} {f : ChainForm} {q : Nat}

/-- The state after the token of the point on offer has been sent. -/
def pointSent (s : State) (p : Nat) (x : Chain) (f : ChainForm) (q : Nat) : State :=
  sendAll s p x.block (sendTo f.head.t0 (Token.mk { x.env with tag := pointTag x f.w q } (pointPacket x f.idx q)))

theorem acceptPoint_stands (hq : x.sent = some q) (hm : x.moves = false) :
    acceptPoint s p x f = runChain (pointSent s p x f q) p { x with sent := none } f := by
  simp only [acceptPoint, hq, hm, if_true, pointSent]

theorem acceptPoint_last (hq : x.sent = some q) (hm : x.moves = true) (hrun : x.state = .running) (hlast : x.points ≤ q + 1) :
    acceptPoint s p x f = endChain (pointSent s p x f q) p { x with sent := none } f := by
  simp only [acceptPoint, hq, hm, Bool.true_eq_false, if_false, hrun, hlast, and_self, if_true, pointSent]

theorem acceptPoint_moves (hq : x.sent = some q) (hm : x.moves = true) (hmore : x.state ≠ .running ∨ q + 1 < x.points) :
    acceptPoint s p x f = runChain (pointSent s p x f q) p { x with sent := none, p := q + 1 } f := by
  have hnot : ¬ (x.state = .running ∧ x.points ≤ q + 1) := fun ⟨hr, hl⟩ => hmore.elim (· hr) (fun h => absurd hl (by omega))
  simp only [acceptPoint, hq, hm, Bool.true_eq_false, if_false, hnot, pointSent]

variable {c : Copy} {slot : BitVec 7} {w : Waiting}

theorem countCredit_waiting (hw : creditWaiting c slot 1 (chainCounts (chainAt s p c.id slot)) = some w) :
    countCredit s p c slot f = setChain (dropWaiting s p c.id w) p
      (offerPoint f.paced { chainAt s p c.id slot with credit := (chainAt s p c.id slot).credit + 1 }) := by
  simp only [countCredit, hw]

theorem countPace_waiting (hw : creditWaiting c slot 2 (fun _ => true) = some w)
    (hroom : (repeatAt (tileAt s p (firingTile c)) slot).credit < 65535) :
    countPace s p c slot = modTile (dropWaiting s p c.id w) p (firingTile c) (fun y => setRepeat y
      { repeatAt (tileAt s p (firingTile c)) slot with credit := (repeatAt (tileAt s p (firingTile c)) slot).credit + 1 }) := by
  simp only [countPace, hw, hroom, if_true]
end

/-! ### A chunk of a copy (R282) -/

theorem endChunk_written {s : State} {p n q : Nat} {req : CopyReq} (hr : engineRequest s p n = some req) (hq : req.phase = .writing q)
    (hdone : requestsDone s (copyOwner n req) = true) :
    endChunk s p n = putCopy s p n { req with phase := .idle, piece := req.piece.bind (fun y => afterChunk y q) } := by
  simp only [endChunk, hr, hq, hdone, if_true]

/-! ### The passes of a repeat (R310) -/

section
variable {s : State} {p n : Nat} {r : Repeat} {j : RepJob} {rows : List Row} {pace : Bool} {y : Row}

theorem passRows_over (h : j.cnt ≤ j.pass) :
    passRows s p n r j rows pace = sendPasses (modTile s p n (fun t => setRepeat t { r with job := none })) p j := by
  simp only [passRows, Nat.not_lt.mpr h, if_false]

/-- The state after the row at the job's place has been sent. -/
def passSent (s : State) (p : Nat) (r : Repeat) (j : RepJob) (y : Row) : State :=
  sendRow s p j.held.block r.slot { j.held.head with t2 := none } y

/-- The station after a row of a pass: the first row of a later pass is paid for with a credit where PACE is set. -/
def passPaid (r : Repeat) (j : RepJob) (pace : Bool) : Repeat :=
  { r with credit := if (pace && decide (1 ≤ j.pass) && j.pos == 0) = true then r.credit - 1 else r.credit }

section
variable (hpass : j.pass < j.cnt) (hy : rows[j.pos]? = some y)
  (hopen : rowPathOpen s p j.held.block { j.held.head with t2 := none } false = true)
  (hpaid : (pace && decide (1 ≤ j.pass) && j.pos == 0) = true → 0 < r.credit)
include hpass hy hopen hpaid

theorem passRows_sends : passRows s p n r j rows pace =
    if j.pos + 1 < rows.length then
      modTile (passSent s p r j y) p n (fun t => setRepeat t { passPaid r j pace with job := some { j with pos := j.pos + 1 } })
    else if j.pass + 1 = j.cnt then
      sendPasses (modTile (passSent s p r j y) p n (fun t => setRepeat t { passPaid r j pace with job := none })) p j
    else
      modTile (passSent s p r j y) p n (fun t => setRepeat t
        { passPaid r j pace with job := some { j with pass := j.pass + 1, pos := 0 } }) := by
  have hgo : (rowPathOpen s p j.held.block { j.held.head with t2 := none } false &&
      (!(pace && decide (1 ≤ j.pass) && j.pos == 0) || decide (0 < r.credit))) = true := by
    rw [hopen, Bool.true_and, Bool.or_eq_true, Bool.not_eq_true', decide_eq_true_iff]
    exact (Bool.eq_false_or_eq_true _).symm.imp_right hpaid
  simp only [passRows, hpass, if_true, hy, hgo]
  rfl

theorem passRows_within (hmore : j.pos + 1 < rows.length) : passRows s p n r j rows pace =
    modTile (passSent s p r j y) p n (fun t => setRepeat t { passPaid r j pace with job := some { j with pos := j.pos + 1 } }) :=
  (passRows_sends hpass hy hopen hpaid).trans (if_pos hmore)

theorem passRows_last (hend : rows.length ≤ j.pos + 1) (hlast : j.pass + 1 = j.cnt) : passRows s p n r j rows pace =
    sendPasses (modTile (passSent s p r j y) p n (fun t => setRepeat t { passPaid r j pace with job := none })) p j :=
  (passRows_sends hpass hy hopen hpaid).trans ((if_neg (Nat.not_lt.mpr hend)).trans (if_pos hlast))

theorem passRows_again (hend : rows.length ≤ j.pos + 1) (hmore : j.pass + 1 ≠ j.cnt) : passRows s p n r j rows pace =
    modTile (passSent s p r j y) p n (fun t => setRepeat t
      { passPaid r j pace with job := some { j with pass := j.pass + 1, pos := 0 } }) :=
  (passRows_sends hpass hy hopen hpaid).trans ((if_neg (Nat.not_lt.mpr hend)).trans (if_neg hmore))
end
end

/-! ### The end of a comparison and of a drain (R319, R320, R323, R327, R328) -/

section
variable {s t : State} {p n m : Nat} {x : Acc} {k : Check} {l : Located}

theorem endFaulty_eq (st : AccState) (w : Option Located) (e : FaultInfo) (code : Nat) :
    endFaulty s p n m x k st w e code =
      if k.kind = .mfix then
        sendHeld (putAcc s p n m { x with st := st, located := w, check := none, failed := failedSet k <|> x.failed }) p k.held
          (statusPacket code)
      else failCheck (putAcc s p n m { x with st := st, located := w, check := none, failed := failedSet k <|> x.failed }) p k.held e := by
  unfold endFaulty
  cases k.kind with
  | mfix => simp only [if_true]
  | mchk => simp only [reduceCtorEq, if_false]
  | mdrn a b => simp only [reduceCtorEq, if_false]

theorem endComparison_bad : endComparison s p n m x k true =
    endFaulty { s with fresh := s.fresh + 1 } p n m { x with located := none } k .faultMulti none
      (FaultInfo.mk causeMemUncorrectable 0 (Config.freeWord s.fresh)) 3 := by
  simp only [endComparison, if_true]

theorem endComparison_located (h : compareAcc { x with located := none } = .located l) : endComparison s p n m x k false =
    endFaulty s p n m { x with located := none } k .faultLoc (some l)
      (FaultInfo.mk causeChkLocated 0 (BitVec.ofNat 64 (handleNat n m))) 2 := by
  simp only [endComparison, Bool.false_eq_true, if_false, h]

theorem endComparison_multiple (h : compareAcc { x with located := none } = .multiple) : endComparison s p n m x k false =
    endFaulty s p n m { x with located := none } k .faultMulti none
      (FaultInfo.mk causeChkMulti 0 (BitVec.ofNat 64 (handleNat n m))) 3 := by
  simp only [endComparison, Bool.false_eq_true, if_false, h]

theorem endComparison_clean (h : compareAcc { x with located := none } = .clean) :
    endComparison s p n m x k false = endClean s p n m { x with located := none } k := by
  simp only [endComparison, Bool.false_eq_true, if_false, h]

theorem endClean_answers (h : k.kind = .mchk ∨ k.kind = .mfix) :
    endClean s p n m x k = sendHeld (putAcc s p n m { x with st := .clean, check := none }) p k.held (statusPacket 0) := by
  rcases h with h | h <;> simp only [endClean, h]

theorem endClean_drains {a b : Word} (h : k.kind = .mdrn a b)
    (ht : drainTranslate s p k.held.block.ctx a b (64 * outBytes (drainForm s p k.held).outf) = .ok t) :
    endClean s p n m x k = putAcc t p n m { x with draining := true } := by
  simp only [endClean, h, ht]

variable {q : Nat}

/-- The state in which the rows of a drain have been performed and its status has been sent. -/
def drainedAt (s : State) (p n m : Nat) (x : Acc) (k : Check) : State :=
  sendAll (putAcc s p n m { x with st := .drained, check := none, draining := false }) p k.held.block
    (drainStatus (drainForm s p k.held).done k.held 0)

theorem endDrain_silent (h : (drainForm s p k.held).done = false) : endDrain s p n m x k q = drainedAt s p n m x k := by
  simp only [endDrain, h, Bool.false_eq_true, if_false, drainedAt]

theorem endDrain_done (h : (drainForm s p k.held).done = true)
    (hsys : (drainForm s p k.held).scope ≠ .system ∨ requestsSys (drainedAt s p n m x k) (.drain q n) = true) :
    endDrain s p n m x k q = copyDone (drainedAt s p n m x k) p k.held := by
  have hnot : ¬ ((drainForm s p k.held).scope = .system ∧ requestsSys (drainedAt s p n m x k) (.drain q n) = false) :=
    fun ⟨hs, hr⟩ => hsys.elim (· hs) (fun ht => Bool.noConfusion (ht.symm.trans hr))
  exact (if_pos h).trans (if_neg hnot)

theorem endDrain_waits (h : (drainForm s p k.held).done = true) (hscope : (drainForm s p k.held).scope = .system)
    (hsys : requestsSys (drainedAt s p n m x k) (.drain q n) = false) :
    endDrain s p n m x k q =
      modTile (drainedAt s p n m x k) p n (fun y => { y with jobs := y.jobs ++ [TileJob.mk k.held q .drain] }) :=
  (if_pos h).trans (if_pos ⟨hscope, hsys⟩)
end

/-! ### The jobs of a tile (R326, R329) -/

section
variable {s : State} {p n m : Nat} {j : TileJob} (hj : (tileAt s p n).jobs[m]? = some j)
include hj

theorem endJob_store (hk : j.kind = .store) (hdone : requestsDone s (.drain j.id n) = true) :
    endJob s p n m = sendHeld (modTile s p n (fun t => { t with jobs := t.jobs.eraseIdx m })) p j.held (statusPacket 0) := by
  simp only [endJob, hj, hk, hdone, if_true]

theorem endJob_write {a : BitVec 3} {cls : RunCls} {f r : Nat} (hk : j.kind = .write a cls f r)
    (hdone : requestsDone s (.gather j.id n) = true) : endJob s p n m = endWrite s p n m j a f r := by
  simp only [endJob, hj, hk, hdone, if_true]
end

theorem takesRows_iff {x : Acc} {g : BitVec 3} : takesRows x g = true ↔ admits x g = true ∨ (x.st = .swap ∧ x.gslot = g) := by
  simp only [takesRows, Bool.or_eq_true, Bool.and_eq_true, beq_iff_eq]

theorem takesRows_closed {x : Acc} {g : BitVec 3} (h : x.st = .empty ∨ x.st = .drained) : takesRows x g = false := by
  rcases h with h | h <;> simp only [takesRows, admits, h] <;> rfl

section
variable {s : State} {p n m : Nat} {j : TileJob} {a : BitVec 3} {f r : Nat}

theorem endWrite_adds (h : takesRows (accOf (tileAt s p n) a.toNat) (heldEnv j.held).gslot = true) :
    endWrite s p n m j a f r = sendHeld (putAcc
      (modTile (dropReads { s with fresh := s.fresh + 4096 } (.gather j.id n)) p n (fun t => { t with jobs := t.jobs.eraseIdx m })) p n a.toNat
      (writeRows s j { accOf (tileAt s p n) a.toNat with
        st := if (accOf (tileAt s p n) a.toNat).st = .clean then .open else (accOf (tileAt s p n) a.toNat).st } f r n))
      p j.held (statusPacket 0) := by
  simp only [endWrite, h, if_true]

theorem endWrite_gone (h : (accOf (tileAt s p n) a.toNat).st = .empty ∨ (accOf (tileAt s p n) a.toNat).st = .drained) :
    endWrite s p n m j a f r = sendHeld
      (modTile (dropReads s (.gather j.id n)) p n (fun t => { t with jobs := t.jobs.eraseIdx m })) p j.held (statusPacket 1) := by
  simp only [endWrite, takesRows_closed h, Bool.false_eq_true, if_false, h, if_true]
end

/-! ### The steps -/

section
variable {s : State} {p n k : Nat} {v : List Nat} {hd : Head} (hs : s.cur = .at p n k v)
include hs

theorem execPointAccepted_at {x : Chain} {f : ChainForm} (hx : (plotAt { s with cur := .idle } p).chains[n]? = some x)
    (hf : chainForm { s with cur := .idle } p x = some f) (hm : mayStart { s with cur := .idle } p x.block x.env.gslot = true) :
    execPointAccepted s = .next (acceptPoint { s with cur := .idle } p x f) := by
  simp only [execPointAccepted, hs, hx, hf, hm, if_true]

theorem execCreditArrival_chain {c : Copy} {idx : Bool} {d : BitVec 2} {w : BitVec 6}
    (hc : (plotAt { s with cur := .idle } p).blocks.copies[n]? = some c) (hlive : copyLive c = true)
    (hi : stationInstr c (BitVec.ofNat 7 k) = .ok (.cchn hd idx d w)) :
    execCreditArrival s =
      .next (countCredit { s with cur := .idle } p c (BitVec.ofNat 7 k) (ChainForm.mk true idx w.toNat hd)) := by
  simp only [execCreditArrival, hs, hc, hlive, if_true, hi]

theorem execCreditArrival_repeat {c : Copy} (hc : (plotAt { s with cur := .idle } p).blocks.copies[n]? = some c)
    (hlive : copyLive c = true) (hi : stationInstr c (BitVec.ofNat 7 k) = .ok (.mrep hd true)) :
    execCreditArrival s = .next (countPace { s with cur := .idle } p c (BitVec.ofNat 7 k)) := by
  simp only [execCreditArrival, hs, hc, hlive, if_true, hi]

theorem execCounterAdd_at {a : ChannelAdd} (ha : (plotAt { s with cur := .idle } p).unit.adds[n]? = some a)
    (hm : mayStart { s with cur := .idle } p a.held.block (heldEnv a.held).gslot = true) :
    execCounterAdd s = .next (sendHeld (workChannel
      (openChannel (modUnit { s with cur := .idle } p (fun y => { y with adds := y.adds.eraseIdx n })) p a.held.block.ctx a.ch (heldEnv a.held))
      p a.held.block.ctx a.ch (heldEnv a.held) (fun y => { y with value := y.value + BitVec.ofNat 48 a.add })) p a.held (heldPassed a.held)) := by
  simp only [execCounterAdd, hs, ha, hm, if_true]

theorem execCtkwJoin_at {a : ChannelJoin} (ha : (plotAt { s with cur := .idle } p).unit.joins[n]? = some a)
    (hm : mayStart { s with cur := .idle } p a.held.block (heldEnv a.held).gslot = true) :
    execCtkwJoin s = .next (workChannel
      (openChannel (modUnit { s with cur := .idle } p (fun y => { y with joins := y.joins.eraseIdx n })) p a.held.block.ctx a.ch
        (heldEnv a.held))
      p a.held.block.ctx a.ch (heldEnv a.held) (fun y => { y with waiters := y.waiters ++ [ChannelWaiter.mk a.held a.m] })) := by
  simp only [execCtkwJoin, hs, ha, hm, if_true]

theorem execChunkDone_at : execChunkDone s = .next (endChunk { s with cur := .idle } p n) := by
  simp only [execChunkDone, hs]

theorem execRowArrival_lands {f : RowFlight} (hk : k = 0) (hf : s.rows[n]? = some f)
    (hlands : rowLands { s with cur := .idle } f = true) (hfirst : firstOfSource { s with cur := .idle } n f = true) :
    execRowArrival s = .next (tryLatches (pullPort (modTile { s with cur := .idle, rows := s.rows.eraseIdx n } f.dest.plot
        (tileOf { s with cur := .idle, rows := s.rows.eraseIdx n } f.dest.plot f.dest.block)
        (fun t => setPort t f.dest.slot (portRows t f.dest.slot ++ [f.row]))) f.dest.plot f.dest.block f.dest.slot)
      f.dest.plot f.dest.block) := by
  simp only [execRowArrival, hs, hk, hf, hlands, hfirst, Bool.and_self, if_true]

theorem execRowArrival_port {c : Copy} (hk : k ≠ 0) (hc : copyOnTile { s with cur := .idle } p (k - 1) = some c) :
    execRowArrival s = .next (tryLatches (pullPort { s with cur := .idle } p c.id (BitVec.ofNat 7 n)) p c.id) := by
  simp only [execRowArrival, hs, hk, if_false, hc]

theorem execRowBoundarySwitch_at {w : SlotChange} (hw : (tileAt { s with cur := .idle } p n).switch = some w) :
    execRowBoundarySwitch s = .next (tryLatches (passTrigger (modTile { s with cur := .idle } p n
      (fun y => { weightChange y y.act with act := w.weights, switch := none })) p w.held 0) p w.held.block) := by
  simp only [execRowBoundarySwitch, hs, hw]

theorem execRowResultWritten_at {x : ArrayRow} {rest : List ArrayRow} {c : Copy}
    (ha : (tileAt { s with cur := .idle } p n).array = x :: rest) (hc : copyOnTile { s with cur := .idle } p n = some c) :
    let a := reportRow { s with cur := .idle } p c.id x (writeRow (accOf (tileAt { s with cur := .idle } p n) x.acc) x.row
      (weightsOf (tileAt { s with cur := .idle } p n) x.weights))
    execRowResultWritten s = .next (tryLatches (sendAll (modTile { s with cur := .idle } p n
      (fun y => { setAcc y x.acc a.1 with array := rest })) p c.id a.2) p c.id) := by
  intro a
  simp only [execRowResultWritten, hs, ha, hc]
  rfl

theorem execGatherRowSent_at {g : Gather} {src : Nat × BitVec 6} {rest : List (Nat × BitVec 6)}
    (hg : (tileAt { s with cur := .idle } p n).gather = some g) (hleft : g.left = src :: rest) (hasked : 1 ≤ g.asked)
    (hdone : requestsDone { s with cur := .idle } (rowOwner g 0 n) = true)
    (hmay : mayStart { s with cur := .idle } p g.held.block (heldEnv g.held).gslot = true)
    (hopen : rowPathOpen { s with cur := .idle } p g.held.block g.held.head true = true) :
    execGatherRowSent s = .next (modTile (sendRow { dropReads { s with cur := .idle } (rowOwner g 0 n) with fresh := s.fresh + 32 } p
        g.held.block g.held.set.slot g.held.head (Row.mk (heldEnv g.held) g.ft src.2
          (BitVec.ofNat 1088 (readOrFree { s with cur := .idle } (rowOwner g 0 n) (rowBytes g.ft)))))
      p n (fun y => { y with gather := if rest.isEmpty then none else some { g with left := rest, asked := g.asked - 1 } })) := by
  have hgo : (decide (1 ≤ g.asked) && requestsDone { s with cur := .idle } (rowOwner g 0 n) &&
      mayStart { s with cur := .idle } p g.held.block (heldEnv g.held).gslot &&
      rowPathOpen { s with cur := .idle } p g.held.block g.held.head true) = true := by
    rw [hdone, hmay, hopen, decide_eq_true hasked]; rfl
  simp only [execGatherRowSent, hs, hg]
  rw [hleft]
  exact if_pos hgo

theorem execMrepPass_at {j : RepJob} {rows : List Row} {pace : Bool}
    (hj : (collectRows (repeatAt (tileAt { s with cur := .idle } p n) (BitVec.ofNat 7 k))).job = some j)
    (hmay : mayStart { s with cur := .idle } p j.held.block (heldEnv j.held).gslot = true) (hrows : j.rows = some rows)
    (hi : instrAt (pullPort (modTile { s with cur := .idle } p n
      (fun y => setRepeat y (collectRows (repeatAt (tileAt { s with cur := .idle } p n) (BitVec.ofNat 7 k))))) p j.held.block (BitVec.ofNat 7 k))
      p j.held.block (BitVec.ofNat 7 k) = some (.mrep hd pace)) :
    let o := pullPort (modTile { s with cur := .idle } p n
      (fun y => setRepeat y (collectRows (repeatAt (tileAt { s with cur := .idle } p n) (BitVec.ofNat 7 k))))) p j.held.block (BitVec.ofNat 7 k)
    execMrepPass s = .next (passRows o p n (repeatAt (tileAt o p n) (BitVec.ofNat 7 k)) j rows pace) := by
  intro o
  simp only [execMrepPass, hs, hj, hmay, if_true, hrows, hi]
  rfl

theorem execFillerRow_last {x : Filler} {rest : List Filler} (hx : (tileAt { s with cur := .idle } p n).fillers = x :: rest)
    (hmay : mayStart { s with cur := .idle } p x.held.block (heldEnv x.held).gslot = true) (hleft : x.left ≤ 1) :
    execFillerRow s = .next (sendFilled (modTile { s with cur := .idle } p n (fun y => { y with fillers := rest })) p x) := by
  simp only [execFillerRow, hs, hx, hmay, if_true, hleft]

theorem execFillerRow_more {x : Filler} {rest : List Filler} (hx : (tileAt { s with cur := .idle } p n).fillers = x :: rest)
    (hmay : mayStart { s with cur := .idle } p x.held.block (heldEnv x.held).gslot = true) (hleft : 1 < x.left) :
    execFillerRow s =
      .next (modTile { s with cur := .idle } p n (fun y => { y with fillers := { x with left := x.left - 1 } :: rest })) := by
  simp only [execFillerRow, hs, hx, hmay, if_true, Nat.not_le.mpr hleft, if_false]

theorem execPushWritten_at {c : Copy} (hst : (accOf (tileAt { s with cur := .idle } p n) k).st = .swap)
    (harray : accInArray (tileAt { s with cur := .idle } p n) k = false) (hjobs : writesInto (tileAt { s with cur := .idle } p n) k = false) :
    let o := modTile { s with cur := .idle } p n (fun y => setAcc y k
      { pushAcc (accOf (tileAt { s with cur := .idle } p n) k)
          (weightsOf (tileAt { s with cur := .idle } p n) (accOf (tileAt { s with cur := .idle } p n) k).bound) with
        st := pushLeaves (accOf (tileAt { s with cur := .idle } p n) k) })
    copyOnTile o p n = some c → execPushWritten s = .next (tryLatches o p c.id) := by
  intro o hc
  simp only [execPushWritten, hs, hst, harray, hjobs, and_self, if_true]
  split
  · next y hy =>
    cases hy.symm.trans hc
    rfl
  · next hnone => cases hnone.symm.trans hc

section
variable {x : Check} (hx : (accOf (tileAt { s with cur := .idle } p n) k).check = some x)
include hx

theorem execComparisonEnd_at (hst : (accOf (tileAt { s with cur := .idle } p n) k).st = .checking)
    (hdrain : (accOf (tileAt { s with cur := .idle } p n) k).draining = false) :
    execComparisonEnd s = .next (endComparison { s with cur := .idle } p n k (accOf (tileAt { s with cur := .idle } p n) k) x
      (comparesBad (accOf (tileAt { s with cur := .idle } p n) k))) := by
  simp only [execComparisonEnd, hs, hx, hst, hdrain, and_self, if_true]

theorem execDrainPerformed_at {q : Nat} (hq : x.writes = some q) (hdone : requestsDone { s with cur := .idle } (.drain q n) = true) :
    execDrainPerformed s = .next (endDrain { s with cur := .idle } p n k (accOf (tileAt { s with cur := .idle } p n) k) x q) := by
  simp only [execDrainPerformed, hs, hx, hq, hdone, if_true]
end
end

theorem rowLands_of {s : State} {f : RowFlight} (hc : (copyOf s f.dest.plot f.dest.block).any copyLive = true)
    (hroom : (portRows (engineOf s f.dest.plot f.dest.block) f.dest.slot).length < 16) : rowLands s f = true := by
  simp only [rowLands, hc, hroom, decide_true, Bool.and_self]

/-- Settles O49: each step by what its operation does in each case. -/
theorem engineSteps : Obligations.EngineSteps := by
  intro s p n k q v x cf add join req wt f sw row rows c g src rest fill fills chk l jb hd idx dd ww job rrows pace u does tile acc slot rep
    offered cleared faulty hs
  refine ⟨fun hx hf hm hq => ⟨fun hmv => ?pointStands, fun hmv hrun hlast => ?pointLast, fun hmv hmore => ?pointMoves⟩,
    fun hc hlive => ⟨fun hi hw => ?credit, fun hi hw hroom => ?pace⟩, fun ha hm => ?counterAdd, fun ha hm => ?counterJoin,
    fun hr hq hd => ?chunk, fun hk hf hc hfirst hroom => ?rowLands, fun hk hc => ?portAgain, fun hw => ?switch,
    fun hst ha hj => ?push, fun ha hc => ?rowWritten, fun hg hl ha hd hm ho => ?gather, fun hj hm => ?repeats,
    fun hf hm => ⟨fun hl => ?filled, fun hl => ?filler⟩,
    fun hc hst hd => ⟨fun hb => ?bad, fun hb => ⟨fun hl => ?located, fun hl => ?multiple, fun hl hk => ?clean, fun a b t hl hk ht => ?drains⟩⟩,
    fun hj => ?jobs, fun hc hq hd => ?drained⟩
  case pointStands => exact (execPointAccepted_at hs hx hf hm).trans (congrArg _ (acceptPoint_stands hq hmv))
  case pointLast => exact (execPointAccepted_at hs hx hf hm).trans (congrArg _ (acceptPoint_last hq hmv hrun hlast))
  case pointMoves => exact (execPointAccepted_at hs hx hf hm).trans (congrArg _ (acceptPoint_moves hq hmv hmore))
  case credit => exact (execCreditArrival_chain hs hc hlive hi).trans (congrArg _ (countCredit_waiting hw))
  case pace => exact (execCreditArrival_repeat hs hc hlive hi).trans (congrArg _ (countPace_waiting hw hroom))
  case counterAdd => exact execCounterAdd_at hs ha hm
  case counterJoin => exact execCtkwJoin_at hs ha hm
  case chunk => exact (execChunkDone_at hs).trans (congrArg _ (endChunk_written hr hq hd))
  case rowLands => exact execRowArrival_lands hs hk hf (rowLands_of hc hroom) hfirst
  case portAgain => exact execRowArrival_port hs hk hc
  case switch => exact execRowBoundarySwitch_at hs hw
  case push =>
    intro o hc
    exact execPushWritten_at hs hst ha hj hc
  case rowWritten => exact execRowResultWritten_at hs ha hc
  case gather => exact execGatherRowSent_at hs hg hl ha hd hm ho
  case repeats =>
    intro o r paid hrows hi
    refine ⟨fun hover => ?_, fun y hpass hy hopen hpaid => ⟨fun hmore => ?_, fun hend hlast => ?_, fun hend hmore => ?_⟩⟩
    · exact (execMrepPass_at hs hj hm hrows hi).trans (congrArg _ (passRows_over hover))
    · exact (execMrepPass_at hs hj hm hrows hi).trans (congrArg _ (passRows_within hpass hy hopen hpaid hmore))
    · exact (execMrepPass_at hs hj hm hrows hi).trans (congrArg _ (passRows_last hpass hy hopen hpaid hend hlast))
    · exact (execMrepPass_at hs hj hm hrows hi).trans (congrArg _ (passRows_again hpass hy hopen hpaid hend hmore))
  case filled => exact execFillerRow_last hs hf hm hl
  case filler => exact execFillerRow_more hs hf hm hl
  case bad =>
    refine (execComparisonEnd_at hs hc hst hd).trans (congrArg _ ?_)
    rw [hb]
    exact endComparison_bad.trans (endFaulty_eq ..)
  case located =>
    refine (execComparisonEnd_at hs hc hst hd).trans (congrArg _ ?_)
    rw [hb]
    exact (endComparison_located hl).trans (endFaulty_eq ..)
  case multiple =>
    refine (execComparisonEnd_at hs hc hst hd).trans (congrArg _ ?_)
    rw [hb]
    exact (endComparison_multiple hl).trans (endFaulty_eq ..)
  case clean =>
    refine (execComparisonEnd_at hs hc hst hd).trans (congrArg _ ?_)
    rw [hb]
    exact (endComparison_clean hl).trans (endClean_answers hk)
  case drains =>
    refine (execComparisonEnd_at hs hc hst hd).trans (congrArg _ ?_)
    rw [hb]
    exact (endComparison_clean hl).trans (endClean_drains hk ht)
  case jobs =>
    intro drop
    refine ⟨fun hk hd => endJob_store hj hk hd, fun a cls f m hk hd => ?_⟩
    intro o g read
    refine ⟨fun ht => ?_, fun hgone => ?_⟩
    · exact (endJob_write hj hk hd).trans (endWrite_adds (takesRows_iff.mpr ht))
    · exact (endJob_write hj hk hd).trans (endWrite_gone hgone)
  case drained =>
    intro form t
    refine ⟨fun hf => ?_, fun hf hsys => ?_, fun hf hscope hsys => ?_⟩
    · exact (execDrainPerformed_at hs hc hq hd).trans (congrArg _ (endDrain_silent hf))
    · exact (execDrainPerformed_at hs hc hq hd).trans (congrArg _ (endDrain_done hf hsys))
    · exact (execDrainPerformed_at hs hc hq hd).trans (congrArg _ (endDrain_waits hf hscope hsys))

end Sys2Proof
end

section
/-! SUPPORT. The steps of groups: placement and dispatch (R339), retirement (R342, R344), completion at the parent and the end of a
kernel (R380, R381), the return of a spilled message (R344) and a barrier's completion signal (R354). -/
namespace Sys2Proof
open Machine

section
variable {s : State} {p n k : Nat} {v : List Nat} (hs : s.cur = .at p n k v)
include hs

theorem execGroupPlacement_at {x : Placing} (hx : nextPlacing { s with cur := .idle } = some x) :
    execGroupPlacement s = .next (placeGroup { s with cur := .idle } x) := by
  simp only [execGroupPlacement, hs, hx]

section
variable {x : Group} (hg : groupAt { s with cur := .idle } p (BitVec.ofNat 3 n) = some x)
include hg

/-- The state after the next dispatch token of a group has been sent. -/
def dispatched (s : State) (p : Nat) (g : BitVec 3) (x : Group) : State :=
  sendEntry s .dispatch p (BlockId.mk x.ctx x.obj x.entry) 0 0 (dispatchToken g x)

theorem execDispatchToken_more (hp : x.phase = .placed) (hc : (ctxAt { s with cur := .idle } x.ctx).phase = .running)
    (hmore : x.nextThread + 1 < x.threads) :
    execDispatchToken s = .next (modGroup (dispatched { s with cur := .idle } p (BitVec.ofNat 3 n) x) p (BitVec.ofNat 3 n)
      (fun y => { y with nextThread := y.nextThread + 1 })) := by
  simp only [execDispatchToken, hs, hg, hp, hc, and_self, if_true, Nat.not_le.mpr hmore, if_false, dispatched]

theorem execDispatchToken_last (hp : x.phase = .placed) (hc : (ctxAt { s with cur := .idle } x.ctx).phase = .running)
    (hlast : x.threads ≤ x.nextThread + 1) :
    execDispatchToken s = .next (countEvent (modGroup (dispatched { s with cur := .idle } p (BitVec.ofNat 3 n) x) p (BitVec.ofNat 3 n)
      (fun y => { y with nextThread := y.nextThread + 1, phase := .running })) p 0x1C (some x.ctx) 1) := by
  simp only [execDispatchToken, hs, hg, hp, hc, and_self, if_true, hlast, dispatched]

theorem execQuiescence_at (hp : x.phase = .running) (hl : groupLive { s with cur := .idle } p (BitVec.ofNat 3 n) x = false) :
    execQuiescence s = .next (modGroup { s with cur := .idle } p (BitVec.ofNat 3 n) (fun y => { y with phase := .retiring })) := by
  simp only [execQuiescence, hs, hg, hp, hl, and_self, if_true]

theorem execGroupRetired_at (hm : mayRetire { s with cur := .idle } p (BitVec.ofNat 3 n) x = true) :
    execGroupRetired s = .next (retireGroup (dropOrphans { s with cur := .idle }) p (BitVec.ofNat 3 n) x) := by
  simp only [execGroupRetired, hs, hg, hm, if_true]

theorem execPortSpillReturn_at {m : Packet} {rest : List Packet} (hspill : x.portSpill.getD k [] = m :: rest)
    (hroom : (x.ports.getD k []).length < 16) :
    execPortSpillReturn s = .next (kickUnit (modGroup { s with cur := .idle } p (BitVec.ofNat 3 n)
      (fun y => { y with ports := y.ports.modify k (fun l => l ++ [m]), portSpill := y.portSpill.set k rest })) p) := by
  simp only [execPortSpillReturn, hs, hg, hspill, hroom, if_true]
end

section
variable {d : ChildDone} (hd : s.childDone[n]? = some d)
include hd

theorem execChildCompletion_closed (hk : openKernel { s with cur := .idle, childDone := s.childDone.eraseIdx n } d.parent = none) :
    execChildCompletion s = .next (sendMessage { s with cur := .idle, childDone := s.childDone.eraseIdx n } d.message) := by
  simp only [execChildCompletion, hs, hd, hk]

/-- A child's end counted at its parent's record, and the child's message sent (R380). -/
def childCounted (s : State) (d : ChildDone) (pa : Nat) : State :=
  sendMessage { setRecChild s pa (recChild s pa - 1) with kernels := (setRecChild s pa (recChild s pa - 1)).kernels.map (fun y =>
    if y.pa = pa then { y with childFaulted := y.childFaulted || d.faulted } else y) } d.message

theorem execChildCompletion_open {r : KernelRef}
    (hk : openKernel { s with cur := .idle, childDone := s.childDone.eraseIdx n } d.parent = some r) :
    let w := childCounted { s with cur := .idle, childDone := s.childDone.eraseIdx n } d r.pa
    execChildCompletion s = .next (if recState w r.pa = kDraining then checkKernel w r.pa else w) := by
  intro w
  simp only [execChildCompletion, hs, hd, hk]
  rfl
end

theorem execCompletionSignal_at {x : Signal}
    (hx : (plotAt { s with cur := .idle } p).unit.signals.find? (fun y => slotRuns { s with cur := .idle } p y.gslot) = some x) :
    let ws := (plotAt { s with cur := .idle } p).unit.barWaiters.filter (released x)
    let w := modUnit { s with cur := .idle } p (fun y => { y with
      signals := (plotAt { s with cur := .idle } p).unit.signals.erase x, barWaiters := y.barWaiters.filter (fun w => !released x w) })
    let b := barrierAt w p x.gslot x.bar
    execCompletionSignal s = .next (ws.foldl (fun w y => sendHeldBack w p y.held (barPacket 1 y.phase))
      (setBarrier w p x.gslot x.bar { b with waiters := b.waiters - ws.length })) := by
  intro ws w b
  simp only [execCompletionSignal, hs, hx]
  rfl
end

theorem retireGroup_eq {s : State} {p : Nat} {g : BitVec 3} {x : Group} :
    retireGroup s p g x =
      let held := ((x.ports ++ x.portSpill).map List.length).sum
      let d := countEvent (if held = 0 then s else countEvent s p 0x1B (some x.ctx) held) p 0x1D (some x.ctx) 1
      let d := handStores d p g x.record
      let d := modPlot { d with engReqs := d.engReqs.filter (fun q => !(groupEng p g q && q.fault.isSome)) } p (freeGroupState g)
      kickUnit (countRetired (dropObject d p x.ctx x.obj) x) p := rfl

section
variable {s : State} {n k : Nat} {r : KernelRef} (hr : kernelOf s n = some r) (hk : r.finish = .written k)
include hr hk

theorem advanceFinish_written : advanceFinish s n =
    if (requestsOf s (.record n)).any (fun q => q.fault.isNone) = true then s else endKernel s r k := by
  simp only [advanceFinish, hr, hk]

theorem advanceFinish_waits (h : ∃ q ∈ requestsOf s (.record n), q.fault = none) : advanceFinish s n = s := by
  obtain ⟨q, hq, hf⟩ := h
  exact (advanceFinish_written hr hk).trans (if_pos (List.any_eq_true.mpr ⟨q, hq, Option.isNone_iff_eq_none.mpr hf⟩))

theorem advanceFinish_ends (h : ¬ ∃ q ∈ requestsOf s (.record n), q.fault = none) : advanceFinish s n = endKernel s r k := by
  refine (advanceFinish_written hr hk).trans (if_neg fun hany => h ?_)
  obtain ⟨q, hq, hf⟩ := List.any_eq_true.mp hany
  exact ⟨q, hq, Option.isNone_iff_eq_none.mp hf⟩
end

/-- Settles O50: each step by what its operation does in each case. -/
theorem groupSteps : Obligations.GroupSteps := by
  intro s p n k v pl x cd kr pk rest sg u does g hs
  refine ⟨fun hpl => execGroupPlacement_at hs hpl, fun hg => ⟨fun hp hc => ?dispatch, fun hp hl => execQuiescence_at hs hg hp hl, ?retires,
      fun hspill hroom => execPortSpillReturn_at hs hg hspill hroom⟩, ?child, fun hk hf => ?kernel, fun hsg => execCompletionSignal_at hs hsg⟩
  case dispatch =>
    exact ⟨fun hmore => execDispatchToken_more hs hg hp hc hmore, fun hlast => execDispatchToken_last hs hg hp hc hlast⟩
  case retires =>
    intro hm
    exact (execGroupRetired_at hs hg hm).trans (congrArg _ retireGroup_eq)
  case child =>
    intro hd
    refine ⟨fun hk => execChildCompletion_closed hs hd hk, fun hk => ⟨fun hst => ?_, fun hst => ?_⟩⟩
    · exact (execChildCompletion_open hs hd hk).trans (congrArg _ (if_pos hst))
    · exact (execChildCompletion_open hs hd hk).trans (congrArg _ (if_neg hst))
  case kernel => exact ⟨fun ho => advanceFinish_waits hk hf ho, fun ho => advanceFinish_ends hk hf ho⟩

end Sys2Proof
end

section
/-! SUPPORT. Queues (R362 to R376): the commands of QCMD, what wakes an engine, the reads of header and body, and a packet consumed. -/
namespace Sys2Proof
open Machine

/-! ### Commands (R365, R367, R372) -/

section
variable {s : State} {q : Nat}

theorem qcmdWord_queue {op n : Nat} : ((qcmdWord op n).extractLsb' 0 10).toNat = n % 1024 := by
  rw [qcmdWord, BitVec.extractLsb'_toNat, BitVec.toNat_ofNat, Nat.shiftRight_zero]
  omega

theorem qcmdWord_op {op n : Nat} : (qcmdWord op n).extractLsb' 16 2 = BitVec.ofNat 2 op := by
  refine BitVec.eq_of_toNat_eq ?_
  rw [qcmdWord, BitVec.extractLsb'_toNat, BitVec.toNat_ofNat, BitVec.toNat_ofNat, Nat.shiftRight_eq_div_pow]
  omega

theorem armQueue_valid (h : descValid (engineRead s (descAddr s q) 64) = true) :
    armQueue s q = putQueue s q { queueOfDesc (engineRead s (descAddr s q) 64) with phase := .armed, due := some s.cycles } := if_pos h

theorem armQueue_invalid (h : descValid (engineRead s (descAddr s q) 64) = false) :
    armQueue s q = queueError (setQueue s q (queueOfDesc (engineRead s (descAddr s q) 64))) q 0x02 := if_neg (Bool.eq_false_iff.mp h)

theorem disableQueue_disabled (h : (queueAt s q).phase = .disabled) : disableQueue s q = s := by
  simp only [disableQueue, h]

theorem disableQueue_fetching (h : (queueAt s q).phase = .fetching) :
    disableQueue s q = setQueue s q { queueAt s q with stopping := true } := by
  simp only [disableQueue, h]

theorem disableQueue_waiting (hf : (queueAt s q).phase ≠ .fetching) (hd : (queueAt s q).phase ≠ .disabled) :
    disableQueue s q = putQueue s q { queueAt s q with phase := .disabled, due := none, watch := none, hit := false } := by
  simp only [disableQueue]
  cases hp : (queueAt s q).phase with
  | disabled => exact absurd hp hd
  | fetching => exact absurd hp hf
  | idle | armed | error => rfl

section
variable {p n k : Nat} {v : List Nat} (hs : s.cur = .at p n k v)
include hs

theorem qcmdEvent_at (op : Nat) : qcmdEvent op s = .next (writeQcmd { s with cur := .idle } (p % 4) (qcmdWord op n)) := by
  simp only [qcmdEvent, hs]

theorem qcmdEvent_foreign {op : Nat} (hdie : queueDie (n % 1024) ≠ p % 4) :
    qcmdEvent op s = .next { s with cur := .idle } := by
  rw [qcmdEvent_at hs, writeQcmd, qcmdWord_queue]
  exact congrArg _ (if_pos hdie)

variable (hdie : queueDie (n % 1024) = p % 4)
include hdie

theorem execEnable_own : execEnable s = .next (enableQueue { s with cur := .idle } (n % 1024)) := by
  rw [execEnable, qcmdEvent_at hs, writeQcmd, qcmdWord_queue, qcmdWord_op, if_neg (not_not_intro hdie)]
  rfl

theorem execDisable_own : execDisable s = .next (disableQueue { s with cur := .idle } (n % 1024)) := by
  rw [execDisable, qcmdEvent_at hs, writeQcmd, qcmdWord_queue, qcmdWord_op, if_neg (not_not_intro hdie)]
  rfl

theorem execClear_own : execClear s = .next (clearQueue { s with cur := .idle } (n % 1024)) := by
  rw [execClear, qcmdEvent_at hs, writeQcmd, qcmdWord_queue, qcmdWord_op, if_neg (not_not_intro hdie)]
  rfl
end
end

/-! ### Waking (R370, R371) -/

section
variable {s : State} {q : Nat} (hp : (queueAt s q).phase = .armed)
include hp

theorem kickQueue_armed :
    kickQueue s q = setQueue s q { queueAt s q with due := (queueAt s q).due.or (some s.cycles), interval := 100 } := if_pos hp

theorem watchQueue_hit (hh : (queueAt s q).hit = true) :
    watchQueue s q = setQueue s q { queueAt s q with due := (queueAt s q).due.or (some s.cycles), hit := false } := if_pos ⟨hp, hh⟩

theorem backoffQueue_ended (he : (queueAt s q).expiry ≤ s.timers.getD (queueDie q) 0) :
    backoffQueue s q = setQueue s q { queueAt s q with due := (queueAt s q).due.or (some s.cycles) } := if_pos ⟨hp, he⟩
end

theorem watchQueue_unmet {s : State} {q : Nat} (hh : (queueAt s q).hit = false) : watchQueue s q = s :=
  if_neg fun ⟨_, h⟩ => Bool.noConfusion (h.symm.trans hh)

theorem backoffQueue_running {s : State} {q : Nat} (he : s.timers.getD (queueDie q) 0 < (queueAt s q).expiry) : backoffQueue s q = s :=
  if_neg fun ⟨_, h⟩ => absurd he (Nat.not_lt.mpr h)

/-! ### The header (R369, R370, R372, R373) -/

section
variable {s t : State} {q : Nat} {x : Queue} {code : BitVec 8} {h : Nat} {c : BitVec 12} {l : List (Need × Word)} {f : State → State}

theorem headerTurn_of (hp : x.phase = .armed) (hdue : x.due.isSome = true) (hreads : queueReads s x.ctx = true)
    (hfetching : fetchingOn s (queueDie q) < 4)
    (hlower : ∀ y ∈ s.queues, y.1 < q → queueDie y.1 = queueDie q → y.2.phase = .armed → y.2.due = x.due → queueReads s y.2.ctx = false) :
    headerTurn s q x = true := by
  have hnone : s.queues.any (fun y => decide (y.1 < q) && queueDie y.1 == queueDie q && y.2.phase == .armed && y.2.due == x.due &&
      queueReads s y.2.ctx) = false := by
    refine List.any_eq_false.mpr fun y hy hany => ?_
    simp only [Bool.and_eq_true, decide_eq_true_iff, beq_iff_eq] at hany
    obtain ⟨⟨⟨⟨hlt, hdie⟩, harmed⟩, hsame⟩, hr⟩ := hany
    exact Bool.noConfusion (hr.symm.trans (hlower y hy hlt hdie harmed hsame))
  simp only [headerTurn, hp, hdue, hreads, hfetching, hnone, beq_self_eq_true, decide_true, Bool.not_false, Bool.and_self]

theorem queueWalks_wait (hw : walkWaits s (queuePlot q) .queue 65537 c l = some t) : queueWalks s q c l f = t := by
  simp only [queueWalks, hw]

theorem queueWalks_met (hw : walkWaits s (queuePlot q) .queue 65537 c l = none) : queueWalks s q c l f = f (walkMet s (queuePlot q) .queue) := by
  simp only [queueWalks, hw]

theorem header_empty_iff : (BitVec.ofNat 64 h).extractLsb' 0 8 = 0 ↔ h % 256 = 0 := by
  rw [← BitVec.toNat_inj, BitVec.extractLsb'_toNat, BitVec.toNat_ofNat, Nat.shiftRight_zero, Nat.mod_mod_of_dvd h (by decide)]
  rfl

/-- The state after a header has been read: an acquire at system scope, with a line of host memory kept. -/
def headerKept (t : State) (q : Nat) (x : Queue) : State := keepRingLine (dropPeer t x.ctx (fun _ => true)) (slotLine t q x)

theorem readHeader_error (hr : readRing s q x 0 8 = .error code) :
    readHeader q x s = queueError (ringWalk s q x 0 8) q code := by
  simp only [readHeader, hr]

theorem readHeader_empty (hr : readRing s q x 0 8 = .ok (t, h)) (hz : h % 256 = 0) :
    readHeader q x s = putQueue (headerKept t q x) q { x with
      phase := .armed, due := none, watch := slotLine t q x, hit := false
      expiry := (headerKept t q x).timers.getD (queueDie q) 0 + x.interval, interval := min 6400 (2 * x.interval) } := by
  simp only [readHeader, hr, takeHeader, header_empty_iff.mpr hz, if_true, headerKept]

theorem readHeader_packet (hr : readRing s q x 0 8 = .ok (t, h)) (hz : h % 256 ≠ 0) :
    readHeader q x s = putQueue (headerKept t q x) q
      { x with phase := .fetching, due := none, watch := none, hit := false, header := BitVec.ofNat 64 h } := by
  simp only [readHeader, hr, takeHeader, mt header_empty_iff.mp hz, if_false, headerKept]
end

/-! ### The body, and the packet consumed (R369, R374) -/

section
variable {s t : State} {q : Nat} {x : Queue} {code : BitVec 8} {ws : List Word} {e : Option RecEntry}

theorem packetError_kind (h : packetError ws = none) : bitsOf (ws.getD 0 0).toNat 0 8 = 1 ∨ bitsOf (ws.getD 0 0).toNat 0 8 = 2 := by
  refine Decidable.byContradiction fun hnot => ?_
  have hbad : bitsOf (ws.getD 0 0).toNat 0 8 ≠ 1 ∧ bitsOf (ws.getD 0 0).toNat 0 8 ≠ 2 := not_or.mp hnot
  simp only [packetError, hbad.1, hbad.2, ne_eq, not_false_eq_true, and_self, if_true, reduceCtorEq] at h

theorem consumePacket_malformed (h : packetError ws = some code) : consumePacket s q x ws e = queueError s q code := by
  simp only [consumePacket, h]

theorem consumePacket_ringFault (h : packetError ws = none) (hr : ringError s q x e = some code) :
    consumePacket s q x ws e = queueError (walked s (queuePlot q) x.ctx .userStore [slotAddress x]) q code := by
  simp only [consumePacket, h, hr]

section
variable (h : packetError ws = none) (hr : ringError s q x e = none)
include h hr

theorem consumePacket_nop (hk : bitsOf (ws.getD 0 0).toNat 0 8 = 2) :
    consumePacket s q x ws e = packetDone (if (ws.getD 0 0).getLsbD 10 then queueMessage s q else s) q x e := by
  simp only [consumePacket, h, hr, hk, if_true]

theorem consumePacket_launches (hk : bitsOf (ws.getD 0 0).toNat 0 8 = 1) (hl : launchKernel s q x ws = .ok t) :
    consumePacket s q x ws e = packetDone t q x e := by
  simp only [consumePacket, h, hr, hk, Nat.reduceEqDiff, if_false, hl]

theorem consumePacket_rejects (hk : bitsOf (ws.getD 0 0).toNat 0 8 = 1) (hl : launchKernel s q x ws = .error code) :
    consumePacket s q x ws e = queueError (launchWalk s q x ws) q code := by
  simp only [consumePacket, h, hr, hk, Nat.reduceEqDiff, if_false, hl]
end

theorem ringError_of_fault {f : FaultInfo} (h : slotPieces s q x = .error f) : ringError s q x none = some f.cause := by
  simp only [ringError, h]

theorem readBody_error (hr : readRing s q x 8 56 = .error code) : readBody q x s = queueError (ringWalk s q x 8 56) q code := by
  simp only [readBody, hr]

section
variable {body : Nat} (hr : readRing s q x 8 56 = .ok (t, body))
include hr

theorem readBody_waits {u : State}
    (hw : walkWaits t (queuePlot q) .queue 65537 x.ctx (packetPages t q x (packetWords x.header body) true) = some u) : readBody q x s = u := by
  simp only [readBody, hr]
  exact queueWalks_wait hw

variable (hw : walkWaits t (queuePlot q) .queue 65537 x.ctx (packetPages t q x (packetWords x.header body) true) = none)
include hw

theorem readBody_held (hh : slotHeld (walkMet t (queuePlot q) .queue) q x = true) : readBody q x s = walkMet t (queuePlot q) .queue := by
  simp only [readBody, hr]
  exact (queueWalks_met hw).trans (if_pos hh)

variable (hh : slotHeld (walkMet t (queuePlot q) .queue) q x = false)
include hh

theorem readBody_full (hf : recordFits (walkMet t (queuePlot q) .queue) x.ctx 9 = false) :
    readBody q x s = awaitRecord (walkMet t (queuePlot q) .queue) q x := by
  simp only [readBody, hr]
  exact (queueWalks_met hw).trans ((if_neg (Bool.eq_false_iff.mp hh)).trans (if_neg (Bool.eq_false_iff.mp hf)))

theorem readBody_consumes (hf : recordFits (walkMet t (queuePlot q) .queue) x.ctx 9 = true) :
    readBody q x s = consumePacket
      (recordEntry (walkMet t (queuePlot q) .queue) x.ctx recQueue q (x.rp.setWidth 64 :: packetWords x.header body)) q x
      (packetWords x.header body) none := by
  simp only [readBody, hr]
  exact (queueWalks_met hw).trans ((if_neg (Bool.eq_false_iff.mp hh)).trans (if_pos hf))
end
end

/-! ### The steps -/

section
variable {s : State} {p n k : Nat} {v : List Nat} (hs : s.cur = .at p n k v)
include hs

theorem execKick_at : execKick s = .next (kickQueue { s with cur := .idle } (n % 1024)) := by simp only [execKick, hs]

theorem execWatchWake_at : execWatchWake s = .next (watchQueue { s with cur := .idle } (n % 1024)) := by simp only [execWatchWake, hs]

theorem execBackoffExpiry_at : execBackoffExpiry s = .next (backoffQueue { s with cur := .idle } (n % 1024)) := by
  simp only [execBackoffExpiry, hs]

variable {x : Queue} (hx : queueAt { s with cur := .idle } n = x) (hreplay : replayPacket { s with cur := .idle } n x = none)
include hx hreplay

theorem execHeaderRead_at (hturn : headerTurn { s with cur := .idle } n x = true) : execHeaderRead s =
    .next (queueWalks { s with cur := .idle } n x.ctx [(.userLoad, slotAddress x)] (readHeader n x)) := by
  simp only [execHeaderRead, hs, hx, hturn, if_true, hreplay]

theorem execPacketConsume_at (hp : x.phase = .fetching) : execPacketConsume s =
    .next (queueWalks { s with cur := .idle } n x.ctx [(.userLoad, slotAddress x)] (readBody n x)) := by
  simp only [execPacketConsume, hs, hx, hp, if_true, hreplay]
end

theorem nextSlot_idle {s : State} {q : Nat} (h : (queueAt s q).phase = .idle) :
    nextSlot s q = putQueue s q { queueAt s q with phase := .armed, due := some s.cycles } := if_pos h

theorem step_slot {s : State} {n : Nat} {rest : List Sched} (hs : s.sched = .slot n :: rest) :
    step s = settleStep (.next (nextSlot { s with sched := rest } (n % 1024))) := by
  simp only [step, entryStep, hs]

/-- Settles O51: each command, wake-up and read by what its operation does in each case. -/
theorem queueSteps : Obligations.QueueSteps := by
  intro s w w' w'' p n k h v code e rest u does q x d armed woken met kept empty hs
  refine ⟨fun hdie => ?foreign, fun hdie => ?commands, fun hp => ?wakes, fun hn hreplay => ⟨?header, fun hp hw => ?bodyWaits, fun hp hw => ?body⟩,
    fun hf => ringError_of_fault hf, ?slot⟩
  case foreign =>
    exact ⟨qcmdEvent_foreign hs hdie, qcmdEvent_foreign hs hdie, qcmdEvent_foreign hs hdie⟩
  case commands =>
    have enable : exec .enable s = .next (enableQueue u q) := execEnable_own hs hdie
    have disable : exec .disable s = .next (disableQueue u q) := execDisable_own hs hdie
    have clear : exec .clear s = .next (clearQueue u q) := execClear_own hs hdie
    refine ⟨fun hp hd => ?_, fun hp hd => ?_, fun hp => ?_, fun hp hd => ?_, fun hp hd => ?_, fun hp => ?_, fun hp => ?_, fun hp => ?_,
      fun hf hd => ?_⟩
    · exact enable.trans (congrArg _ ((if_pos hp).trans (armQueue_valid hd)))
    · exact enable.trans (congrArg _ ((if_pos hp).trans (armQueue_invalid hd)))
    · exact enable.trans (congrArg _ (if_neg hp))
    · exact clear.trans (congrArg _ ((if_pos hp).trans (armQueue_valid hd)))
    · exact clear.trans (congrArg _ ((if_pos hp).trans (armQueue_invalid hd)))
    · exact clear.trans (congrArg _ (if_neg hp))
    · exact disable.trans (congrArg _ (disableQueue_fetching hp))
    · exact disable.trans (congrArg _ (disableQueue_disabled hp))
    · exact disable.trans (congrArg _ (disableQueue_waiting hf hd))
  case wakes =>
    refine ⟨?_, fun hh => ?_, fun hh => ?_, fun he => ?_, fun he => ?_⟩
    · exact (execKick_at hs).trans (congrArg _ (kickQueue_armed hp))
    · exact (execWatchWake_at hs).trans (congrArg _ (watchQueue_hit hp hh))
    · exact (execWatchWake_at hs).trans (congrArg _ (watchQueue_unmet hh))
    · exact (execBackoffExpiry_at hs).trans (congrArg _ (backoffQueue_ended hp he))
    · exact (execBackoffExpiry_at hs).trans (congrArg _ (backoffQueue_running he))
  case header =>
    intro hp hdue hreads hfetching hlower
    have hx : queueAt u n = x := congrArg (queueAt u) (Nat.mod_eq_of_lt hn).symm
    have header : exec .headerRead s = .next (queueWalks u n x.ctx [(.userLoad, slotAddress x)] (readHeader n x)) :=
      execHeaderRead_at hs hx hreplay (headerTurn_of hp hdue hreads hfetching hlower)
    refine ⟨fun hw => ?_, fun hw => ⟨fun hr => ?_, fun hr hz => ?_, fun hr hz => ?_⟩⟩
    · exact header.trans (congrArg _ (queueWalks_wait hw))
    · exact header.trans (congrArg _ ((queueWalks_met hw).trans (readHeader_error hr)))
    · exact header.trans (congrArg _ ((queueWalks_met hw).trans (readHeader_empty hr hz)))
    · exact header.trans (congrArg _ ((queueWalks_met hw).trans (readHeader_packet hr hz)))
  case bodyWaits =>
    have hx : queueAt u n = x := congrArg (queueAt u) (Nat.mod_eq_of_lt hn).symm
    exact (execPacketConsume_at hs hx hreplay hp).trans (congrArg _ (queueWalks_wait hw))
  case body =>
    have hx : queueAt u n = x := congrArg (queueAt u) (Nat.mod_eq_of_lt hn).symm
    have body : exec .packetConsume s = .next (readBody n x met) :=
      (execPacketConsume_at hs hx hreplay hp).trans (congrArg _ (queueWalks_met hw))
    refine ⟨fun hr => body.trans (congrArg _ (readBody_error hr)), fun hr => ?_⟩
    intro ws read logged
    refine ⟨fun hw => body.trans (congrArg _ (readBody_waits hr hw)),
      fun hw => ⟨fun hh => body.trans (congrArg _ (readBody_held hr hw hh)), fun hh hf => body.trans (congrArg _ (readBody_full hr hw hh hf)), ?_⟩⟩
    intro hh hf
    have consumed : exec .packetConsume s = .next (consumePacket logged n x ws none) :=
      body.trans (congrArg _ (readBody_consumes hr hw hh hf))
    refine ⟨fun he => ?_, fun he hring => ?_, fun he hring => ⟨fun hk => ?_, fun hk => ⟨fun hl => ?_, fun hl => ?_⟩⟩⟩
    · exact consumed.trans (congrArg _ (consumePacket_malformed he))
    · exact consumed.trans (congrArg _ (consumePacket_ringFault he hring))
    · exact consumed.trans (congrArg _ (consumePacket_nop he hring hk))
    · exact consumed.trans (congrArg _ (consumePacket_launches he hring hk hl))
    · exact consumed.trans (congrArg _ (consumePacket_rejects he hring hk hl))
  case slot =>
    intro hs y hy hp
    rw [step_slot hs, nextSlot_idle (by rw [hy]; exact hp), hy]

end Sys2Proof
end

section
/-! SUPPORT. The loader (R392 to R399, R404): requests, the checks of a load in their order, the selection of an image, and its placement. -/
namespace Sys2Proof
open Machine

/-! ### Placement (R394, steps 7 to 9) -/

section
variable {u t : State} {pa area digest step secver : Nat} {c : BitVec 12} {kobj : Word} {x : Selected} {src : Option Nat}

theorem placeObject_unsound (h : placementSound t c kobj area x = false) :
    placeObject u t pa c kobj area digest step secver x src = endRequest t pa digest loadArea 0 0 := if_pos h

variable (h : placementSound t c kobj area x = true)
include h

theorem placeObject_waits (hb : (areaLines t c kobj (imageLen x)).any (fun l => rangeOf (64 * l) == .hbm && !quiet t l) = true) :
    placeObject u t pa c kobj area digest step secver x src = u := by
  simp only [placeObject, h, Bool.true_eq_false, if_false, hb, if_true]

variable (hb : (areaLines t c kobj (imageLen x)).any (fun l => rangeOf (64 * l) == .hbm && !quiet t l) = false)
include hb

theorem placeObject_written (hw : (writeImage (discardObject t c kobj) c kobj x src).2 = true) :
    placeObject u t pa c kobj area digest step secver x src = endRequest
      (modCtx (writeImage (discardObject t c kobj) c kobj x src).1 c
        (fun y => { y with objects := Loaded.mk kobj (tableBytes x) :: y.objects })) pa digest loadOk step secver := by
  simp only [placeObject, h, Bool.true_eq_false, if_false, hb, Bool.false_eq_true, hw, if_true]

theorem placeObject_unwritten (hw : (writeImage (discardObject t c kobj) c kobj x src).2 = false) :
    placeObject u t pa c kobj area digest step secver x src =
      endRequest (writeImage (discardObject t c kobj) c kobj x src).1 pa digest loadArea 0 0 := by
  simp only [placeObject, h, Bool.true_eq_false, if_false, hb, Bool.false_eq_true, hw]
end

/-! ### The translation cache (R397, R399) -/

section
variable {s : State} {o version err : Nat} {e : CacheEntry} {digest : BitVec 256}

theorem cacheEntry_key (h : cacheEntry s digest version = some e) : e.digest = digest ∧ e.version = version := by
  have hm := List.find?_some h
  simp only [keyMatches, Bool.and_eq_true, beq_iff_eq] at hm
  obtain ⟨⟨⟨hd, -⟩, -⟩, hv⟩ := hm
  exact ⟨hd, hv⟩

theorem dropCache_of_entry (h : cacheEntry s digest version = some e) :
    dropCache s e = { s with cache := s.cache.filter (fun y => !keyMatches s digest version y) } := by
  obtain ⟨hd, hv⟩ := cacheEntry_key h
  rw [dropCache, hd, hv]

theorem cacheEntry_dropped :
    cacheEntry { s with cache := s.cache.filter (fun y => !keyMatches s digest version y) } digest version = none := by
  refine List.find?_eq_none.mpr fun y hy hm => ?_
  have hnot := (List.mem_filter.mp hy).2
  rw [Bool.not_eq_true'] at hnot
  exact Bool.noConfusion (hm.symm.trans hnot)

theorem dropStale_absent {noTrans : Bool} (h : cacheEntry s (BitVec.ofNat 256 (objDigest o)) version = none) :
    dropStale s o version noTrans err = s := by
  simp only [dropStale, h]

theorem dropStale_unasked {noTrans : Bool} (h : asksCache s o noTrans = false) : dropStale s o version noTrans err = s := by
  unfold dropStale
  split
  · simp only [h, Bool.false_and, Bool.false_eq_true, if_false]
  · rfl

theorem asksCache_of (hn : nativeImage s o = none) (hs : objSlofs o ≠ 0) : asksCache s o false = true := by
  simp only [asksCache, hn, Option.isNone_none, Bool.not_false, Bool.true_and, bne_iff_ne]
  exact hs

theorem dropStale_good {noTrans : Bool} (h : cacheEntry s (BitVec.ofNat 256 (objDigest o)) version = some e)
    (hg : entryHolds e err = true ∧ s.dev.floor.toNat ≤ e.sv) : dropStale s o version noTrans err = s := by
  obtain ⟨hholds, hfloor⟩ := hg
  simp only [dropStale, h, hholds, decide_eq_false (Nat.not_lt.mpr hfloor), Bool.not_true, Bool.or_self, Bool.and_false,
    Bool.false_eq_true, if_false]

theorem dropStale_stale (ha : asksCache s o false = true) (h : cacheEntry s (BitVec.ofNat 256 (objDigest o)) version = some e)
    (hg : ¬ (entryHolds e err = true ∧ s.dev.floor.toNat ≤ e.sv)) :
    dropStale s o version false err = { s with cache := s.cache.filter (fun y => !keyMatches s (BitVec.ofNat 256 (objDigest o)) version y) } := by
  have hstale : (!entryHolds e err || decide (e.sv < s.dev.floor.toNat)) = true := by
    rw [Bool.or_eq_true, Bool.not_eq_true', decide_eq_true_iff, ← Nat.not_le]
    exact (Classical.em (entryHolds e err = false)).imp_right fun hh hf => hg ⟨eq_true_of_ne_false hh, hf⟩
  simp only [dropStale, h, ha, hstale, Bool.and_self, if_true]
  exact dropCache_of_entry h
end

/-! ### The selection of a full load (R397) -/

section
variable {s : State} {c : BitVec 12} {o version nblk len image n : Nat} {v : List Nat} {noCache : Bool} {d : DirImage} {e : CacheEntry}

theorem selectFull_native {noTrans : Bool} (h : nativeImage s o = some (d, n)) : selectFull s c o version noTrans noCache v =
    .ok (s, selectImage o d.gen d.stepping d.nblk d.len (bytesAt o d.ofs d.len), n) := by
  simp only [selectFull, h]

theorem selectFull_noImage {noTrans : Bool} (h : nativeImage s o = none) (hno : noTrans = true ∨ objSlofs o = 0) :
    selectFull s c o version noTrans noCache v = .error loadNoImage := by
  have hnone : (noTrans || objSlofs o == 0) = true := by rwa [Bool.or_eq_true, beq_iff_eq]
  simp only [selectFull, h, hnone, if_true]

section
variable (h : nativeImage s o = none) (hs : objSlofs o ≠ 0)
include h hs

theorem selectFull_unfit (he : cacheEntry s (BitVec.ofNat 256 (objDigest o)) version = some e)
    (hf : translationFits s c (cachedImage o e) = false) : selectFull s c o version false noCache v = .error loadVerify := by
  simp only [selectFull, h, beq_eq_false_iff_ne.mpr hs, Bool.or_self, Bool.false_eq_true, if_false, he, hf]

theorem selectFull_cached (he : cacheEntry s (BitVec.ofNat 256 (objDigest o)) version = some e)
    (hf : translationFits s c (cachedImage o e) = true) :
    selectFull s c o version false noCache v = .ok (s, cachedImage o e, 3) := by
  simp only [selectFull, h, beq_eq_false_iff_ne.mpr hs, Bool.or_self, Bool.false_eq_true, if_false, he, hf, if_true]

theorem selectFull_fresh (he : cacheEntry s (BitVec.ofNat 256 (objDigest o)) version = none) :
    selectFull s c o version false noCache v = freshTranslation s c o version noCache v := by
  simp only [selectFull, h, beq_eq_false_iff_ne.mpr hs, Bool.or_self, Bool.false_eq_true, if_false, he]
end

theorem freshTranslation_refused (h : v.length ≠ 3) : freshTranslation s c o version noCache v = .error loadTranslate := by
  unfold freshTranslation
  split
  · exact absurd rfl h
  · rfl

/-- A translation of an object's Slaloth image as the translator gives it, with the tables of the object. -/
def translated (s : State) (o nblk len image : Nat) : Selected := selectImage o devGen s.dev.step.toNat nblk len (image % 256 ^ len)

theorem freshTranslation_unsound (h : (translationFits s c (translated s o nblk len image) &&
      translationSound (bytesAt o (objSlofs o) (objSllen o)) (objSllen o) (translated s o nblk len image)) = false) :
    freshTranslation s c o version noCache [nblk, len, image] = .error loadVerify := if_neg (Bool.eq_false_iff.mp h)

theorem freshTranslation_sound (h : (translationFits s c (translated s o nblk len image) &&
      translationSound (bytesAt o (objSlofs o) (objSllen o)) (objSllen o) (translated s o nblk len image)) = true) :
    let key := sealEntry (CacheEntry.mk (BitVec.ofNat 256 (objDigest o)) devGen s.dev.step.toNat version (objSecver o)
      (translated s o nblk len image) 0)
    freshTranslation s c o version noCache [nblk, len, image] =
      .ok (if noCache then s else { s with cache := key :: s.cache.filter (fun y => !keyMatches s key.digest version y) },
        translated s o nblk len image, 4) := if_pos h
end

/-! ### A full load (R394) -/

section
variable {s : State} {pa r version err : Nat} {c : BitVec 12} {v : List Nat}

/-- The object that a request names, as the loader reads it. -/
def requestedObject (s : State) (r : Nat) : Nat := engineRead s (bytesAt r 8 8) (objLen (engineRead s (bytesAt r 8 8) 64))

theorem fullLoad_unreadable (h : inHbmOrHost (bytesAt r 8 8) 64 = false) :
    fullLoad s pa r c version err v = endRequest s pa 0 loadFormat 0 0 := by
  simp only [fullLoad, h, Bool.false_eq_true, if_false]
  exact if_pos (Or.inl (by decide))

section
variable (hread : inHbmOrHost (bytesAt r 8 8) 64 = true)
include hread

theorem fullLoad_notObject (h : bytesAt (engineRead s (bytesAt r 8 8) 64) 0 4 ≠ 0x5A4B4F31 ∨
      inHbmOrHost (bytesAt r 8 8) (objLen (engineRead s (bytesAt r 8 8) 64)) = false) :
    fullLoad s pa r c version err v = endRequest s pa 0 loadFormat 0 0 := by
  simp only [fullLoad, hread, if_true]
  exact if_pos h

variable (hmagic : bytesAt (engineRead s (bytesAt r 8 8) 64) 0 4 = 0x5A4B4F31)
  (hall : inHbmOrHost (bytesAt r 8 8) (objLen (engineRead s (bytesAt r 8 8) 64)) = true)
include hmagic hall

/-- A full load of a readable object goes through the checks of R394 in their order. -/
theorem fullLoad_readable : fullLoad s pa r c version err v =
    if objectSound (requestedObject s r) = false then endRequest s pa 0 loadFormat 0 0
    else if c = headland ∧ objKey (requestedObject s r) ≠ 0 then endRequest s pa (objDigest (requestedObject s r)) loadContext 0 0
    else if objectSigned (requestedObject s r) = false then endRequest s pa (objDigest (requestedObject s r)) loadSignature 0 0
    else if objSecver (requestedObject s r) < s.dev.floor.toNat then endRequest s pa (objDigest (requestedObject s r)) loadSecver 0 0
    else
      match selectFull (dropStale s (requestedObject s r) version (bitsOf r 16 1 == 1) err) c (requestedObject s r) version
        (bitsOf r 16 1 == 1) (bitsOf r 17 1 == 1) v with
      | .error code =>
        endRequest (dropStale s (requestedObject s r) version (bitsOf r 16 1 == 1) err) pa (objDigest (requestedObject s r)) code 0 0
      | .ok (t, x, step) =>
        placeObject s t pa c (BitVec.ofNat 64 (bytesAt r 16 8)) (bytesAt r 24 8) (objDigest (requestedObject s r)) step
          (objSecver (requestedObject s r)) x ((nativeImage s (requestedObject s r)).map (fun d => bytesAt r 8 8 + d.1.ofs)) := by
  have hgo : ¬ (bytesAt (engineRead s (bytesAt r 8 8) 64) 0 4 ≠ 0x5A4B4F31 ∨
      inHbmOrHost (bytesAt r 8 8) (objLen (engineRead s (bytesAt r 8 8) 64)) = false) :=
    fun h => h.elim (· hmagic) (fun hf => Bool.noConfusion (hall.symm.trans hf))
  simp only [fullLoad, hread, if_true]
  exact if_neg hgo

theorem fullLoad_unsound (h : objectSound (requestedObject s r) = false) :
    fullLoad s pa r c version err v = endRequest s pa 0 loadFormat 0 0 :=
  (fullLoad_readable hread hmagic hall).trans (if_pos h)

variable (hsound : objectSound (requestedObject s r) = true)
include hsound

theorem fullLoad_foreignKey (hc : c = headland) (hk : objKey (requestedObject s r) ≠ 0) :
    fullLoad s pa r c version err v = endRequest s pa (objDigest (requestedObject s r)) loadContext 0 0 :=
  (fullLoad_readable hread hmagic hall).trans ((if_neg (Bool.not_eq_false _ ▸ hsound)).trans (if_pos ⟨hc, hk⟩))

variable (hkey : c ≠ headland ∨ objKey (requestedObject s r) = 0)
include hkey

theorem fullLoad_unsigned (h : objectSigned (requestedObject s r) = false) :
    fullLoad s pa r c version err v = endRequest s pa (objDigest (requestedObject s r)) loadSignature 0 0 :=
  (fullLoad_readable hread hmagic hall).trans ((if_neg (Bool.not_eq_false _ ▸ hsound)).trans
    ((if_neg fun ⟨hc, hk⟩ => hkey.elim (· hc) hk).trans (if_pos h)))

variable (hsigned : objectSigned (requestedObject s r) = true)
include hsigned

theorem fullLoad_revoked (h : objSecver (requestedObject s r) < s.dev.floor.toNat) :
    fullLoad s pa r c version err v = endRequest s pa (objDigest (requestedObject s r)) loadSecver 0 0 :=
  (fullLoad_readable hread hmagic hall).trans ((if_neg (Bool.not_eq_false _ ▸ hsound)).trans
    ((if_neg fun ⟨hc, hk⟩ => hkey.elim (· hc) hk).trans ((if_neg (Bool.not_eq_false _ ▸ hsigned)).trans (if_pos h))))

variable (hfloor : s.dev.floor.toNat ≤ objSecver (requestedObject s r)) {u : State}
  (hdrop : dropStale s (requestedObject s r) version (bitsOf r 16 1 == 1) err = u)
include hfloor hdrop

theorem fullLoad_checked : fullLoad s pa r c version err v =
    match selectFull u c (requestedObject s r) version (bitsOf r 16 1 == 1) (bitsOf r 17 1 == 1) v with
    | .error code => endRequest u pa (objDigest (requestedObject s r)) code 0 0
    | .ok (t, x, step) =>
      placeObject s t pa c (BitVec.ofNat 64 (bytesAt r 16 8)) (bytesAt r 24 8) (objDigest (requestedObject s r)) step
        (objSecver (requestedObject s r)) x ((nativeImage s (requestedObject s r)).map (fun d => bytesAt r 8 8 + d.1.ofs)) := by
  rw [← hdrop]
  exact (fullLoad_readable hread hmagic hall).trans ((if_neg (Bool.not_eq_false _ ▸ hsound)).trans
    ((if_neg fun ⟨hc, hk⟩ => hkey.elim (· hc) hk).trans ((if_neg (Bool.not_eq_false _ ▸ hsigned)).trans (if_neg (Nat.not_lt.mpr hfloor)))))

theorem fullLoad_fails {code : Nat}
    (h : selectFull u c (requestedObject s r) version (bitsOf r 16 1 == 1) (bitsOf r 17 1 == 1) v = .error code) :
    fullLoad s pa r c version err v = endRequest u pa (objDigest (requestedObject s r)) code 0 0 := by
  rw [fullLoad_checked hread hmagic hall hsound hkey hsigned hfloor hdrop, h]

theorem fullLoad_places {t : State} {x : Selected} {step : Nat} {image : Option (DirImage × Nat)}
    (h : selectFull u c (requestedObject s r) version (bitsOf r 16 1 == 1) (bitsOf r 17 1 == 1) v = .ok (t, x, step))
    (himage : nativeImage s (requestedObject s r) = image) :
    fullLoad s pa r c version err v =
      placeObject s t pa c (BitVec.ofNat 64 (bytesAt r 16 8)) (bytesAt r 24 8) (objDigest (requestedObject s r)) step
        (objSecver (requestedObject s r)) x (image.map (fun d => bytesAt r 8 8 + d.1.ofs)) := by
  rw [fullLoad_checked hread hmagic hall hsound hkey hsigned hfloor hdrop, h, himage]
end
end

/-! ### A cached load (R394, R399) -/

section
variable {s : State} {pa r version err : Nat} {c : BitVec 12} {e : CacheEntry}

theorem cachedLoad_none (h : (bitsOf r 16 1 == 1) = true ∨ cacheEntry s (BitVec.ofNat 256 (bytesAt r 32 32)) version = none) :
    cachedLoad s pa r c version err = endRequest s pa 0 loadNoImage 0 0 := by
  have hnone : (if bitsOf r 16 1 = 1 then none else cacheEntry s (BitVec.ofNat 256 (bytesAt r 32 32)) version) = none := by
    split
    · rfl
    · next hno => exact h.resolve_left fun ht => hno (beq_iff_eq.mp ht)
  simp only [cachedLoad, hnone]

section
variable (hno : (bitsOf r 16 1 == 1) = false) (he : cacheEntry s (BitVec.ofNat 256 (bytesAt r 32 32)) version = some e)
include hno he

/-- A cached load that finds an entry goes through the checks of R394 in their order. -/
theorem cachedLoad_found : cachedLoad s pa r c version err =
    if entryHolds e err = false then endRequest (dropCache s e) pa 0 loadNoImage 0 0
    else if e.sv < s.dev.floor.toNat then endRequest (dropCache s e) pa e.digest.toNat loadRevoked 0 0
    else if c = headland ∧ objKey e.held.header ≠ 0 then endRequest s pa e.digest.toNat loadContext 0 0
    else if translationFits s c e.held = false then endRequest s pa e.digest.toNat loadVerify 0 0
    else placeObject s s pa c (BitVec.ofNat 64 (bytesAt r 16 8)) (bytesAt r 24 8) e.digest.toNat 3 e.sv e.held none := by
  simp only [cachedLoad, beq_eq_false_iff_ne.mp hno, if_false, he]

theorem cachedLoad_broken (h : entryHolds e err = false) :
    cachedLoad s pa r c version err = endRequest (dropCache s e) pa 0 loadNoImage 0 0 := (cachedLoad_found hno he).trans (if_pos h)

variable (hholds : entryHolds e err = true)
include hholds

theorem cachedLoad_revoked (h : e.sv < s.dev.floor.toNat) :
    cachedLoad s pa r c version err = endRequest (dropCache s e) pa e.digest.toNat loadRevoked 0 0 :=
  (cachedLoad_found hno he).trans ((if_neg (Bool.not_eq_false _ ▸ hholds)).trans (if_pos h))

variable (hfloor : s.dev.floor.toNat ≤ e.sv)
include hfloor

theorem cachedLoad_foreignKey (hc : c = headland) (hk : objKey e.held.header ≠ 0) :
    cachedLoad s pa r c version err = endRequest s pa e.digest.toNat loadContext 0 0 :=
  (cachedLoad_found hno he).trans
    ((if_neg (Bool.not_eq_false _ ▸ hholds)).trans ((if_neg (Nat.not_lt.mpr hfloor)).trans (if_pos ⟨hc, hk⟩)))

variable (hkey : c ≠ headland ∨ objKey e.held.header = 0)
include hkey

theorem cachedLoad_unfit (h : translationFits s c e.held = false) :
    cachedLoad s pa r c version err = endRequest s pa e.digest.toNat loadVerify 0 0 :=
  (cachedLoad_found hno he).trans ((if_neg (Bool.not_eq_false _ ▸ hholds)).trans ((if_neg (Nat.not_lt.mpr hfloor)).trans
    ((if_neg fun ⟨hc, hk⟩ => hkey.elim (· hc) hk).trans (if_pos h))))

theorem cachedLoad_places (h : translationFits s c e.held = true) : cachedLoad s pa r c version err =
    placeObject s s pa c (BitVec.ofNat 64 (bytesAt r 16 8)) (bytesAt r 24 8) e.digest.toNat 3 e.sv e.held none :=
  (cachedLoad_found hno he).trans ((if_neg (Bool.not_eq_false _ ▸ hholds)).trans ((if_neg (Nat.not_lt.mpr hfloor)).trans
    ((if_neg fun ⟨hc, hk⟩ => hkey.elim (· hc) hk).trans (if_neg (Bool.not_eq_false _ ▸ h)))))
end
end

/-! ### A floor raise (R398) -/

section
variable {s : State} {pa r : Nat}

/-- The signature of a floor raise is accepted. -/
def raiseSigned (r : Nat) : Bool :=
  slotAccepts 0 (littleBytes 32 (bytesAt r 32 32)) (swapBytes 32 (bytesAt r 104 32)) (swapBytes 32 (bytesAt r 136 32))

theorem floorRaise_reserved (h : flagsSound r = false) : floorRaise s pa r = endRequest s pa 0 loadFormat 0 0 := if_pos h

variable (hflags : flagsSound r = true)
include hflags

theorem floorRaise_unsigned (h : raiseSigned r = false) : floorRaise s pa r = endRequest s pa 0 loadSignature 0 0 :=
  (if_neg (Bool.not_eq_false _ ▸ hflags)).trans (if_pos h)

variable (hsigned : raiseSigned r = true)
include hsigned

theorem floorRaise_signed : floorRaise s pa r =
    if bytesAt r 34 2 ≠ 0 ∨ bytesAt r 36 4 ≠ s.dev.peerid.toNat ∨ bytesAt r 40 24 ≠ 0 ∨ bytesAt r 32 2 ≤ s.dev.floor.toNat ∨
        s.dev.left = 0 then endRequest s pa 0 loadFormat 0 0
    else endRequest { s with dev := { s.dev with floor := BitVec.ofNat 16 (bytesAt r 32 2), left := s.dev.left - 1 } } pa 0 loadOk 0 0 :=
  (if_neg (Bool.not_eq_false _ ▸ hflags)).trans (if_neg (Bool.not_eq_false _ ▸ hsigned))

theorem floorRaise_refused (h : bytesAt r 34 2 ≠ 0 ∨ bytesAt r 36 4 ≠ s.dev.peerid.toNat ∨ bytesAt r 40 24 ≠ 0 ∨
      bytesAt r 32 2 ≤ s.dev.floor.toNat ∨ s.dev.left = 0) : floorRaise s pa r = endRequest s pa 0 loadFormat 0 0 :=
  (floorRaise_signed hflags hsigned).trans (if_pos h)

theorem floorRaise_accepted (h34 : bytesAt r 34 2 = 0) (hid : bytesAt r 36 4 = s.dev.peerid.toNat) (h40 : bytesAt r 40 24 = 0)
    (hhigher : s.dev.floor.toNat < bytesAt r 32 2) (hleft : s.dev.left ≠ 0) : floorRaise s pa r =
      endRequest { s with dev := { s.dev with floor := BitVec.ofNat 16 (bytesAt r 32 2), left := s.dev.left - 1 } } pa 0 loadOk 0 0 := by
  refine (floorRaise_signed hflags hsigned).trans (if_neg ?_)
  rintro (h | h | h | h | h)
  · exact h h34
  · exact h hid
  · exact h h40
  · exact absurd hhigher (Nat.not_lt.mpr h)
  · exact hleft h
end

/-! ### The steps -/

section
variable {s : State} {pa r : Nat} {f : BitVec 12 → State}

theorem serveLoad_reserved (h : requestSound r = false) : serveLoad s pa r f = endRequest s pa 0 loadFormat 0 0 := if_pos h

variable (h : requestSound r = true)
include h

theorem serveLoad_fails (hc : loadCtx s (BitVec.ofNat 12 (bytesAt r 4 2)) = .fail) :
    serveLoad s pa r f = endRequest s pa 0 loadContext 0 0 := by
  simp only [serveLoad, h, Bool.true_eq_false, if_false, hc]

theorem serveLoad_waits (hc : loadCtx s (BitVec.ofNat 12 (bytesAt r 4 2)) = .wait) : serveLoad s pa r f = s := by
  simp only [serveLoad, h, Bool.true_eq_false, if_false, hc]

theorem serveLoad_passes (hc : loadCtx s (BitVec.ofNat 12 (bytesAt r 4 2)) = .pass) :
    serveLoad s pa r f = f (BitVec.ofNat 12 (bytesAt r 4 2)) := by
  simp only [serveLoad, h, Bool.true_eq_false, if_false, hc]
end

section
variable {s : State} {p n k pa r : Nat} {v : List Nat} (hs : s.cur = .at p n k v)
include hs

section
variable (hr : headRequest { s with cur := .idle } = some (pa, r))
include hr

theorem execFullLoad_unknown (h1 : bytesAt r 0 2 ≠ 1) (h2 : bytesAt r 0 2 ≠ 2) (h3 : bytesAt r 0 2 ≠ 3) :
    execFullLoad s = .next (endRequest { s with cur := .idle } pa 0 loadFormat 0 0) := by
  simp only [execFullLoad, hs, hr, h2, h3, or_self, if_false, ne_eq, h1, not_false_eq_true, if_true]

theorem execFullLoad_at (h1 : bytesAt r 0 2 = 1) : execFullLoad s =
    .next (serveLoad { s with cur := .idle } pa r (fun c => fullLoad { s with cur := .idle } pa r c n k v)) := by
  simp only [execFullLoad, hs, hr, h1, Nat.reduceEqDiff, or_self, if_false, ne_eq, not_true_eq_false]

theorem execCachedLoad_at (h2 : bytesAt r 0 2 = 2) : execCachedLoad s =
    .next (serveLoad { s with cur := .idle } pa r (fun c => cachedLoad { s with cur := .idle } pa r c n k)) := by
  simp only [execCachedLoad, hs, hr, h2, ne_eq, not_true_eq_false, if_false]

theorem execFloorRaise_at (h3 : bytesAt r 0 2 = 3) : execFloorRaise s = .next (floorRaise { s with cur := .idle } pa r) := by
  simp only [execFloorRaise, hs, hr, h3, if_true]
end

theorem execLoadBusy_at {rest : List Nat} (h : s.busyLoads = pa :: rest) :
    execLoadBusy s = .next (writeResult { s with cur := .idle, busyLoads := rest } pa loadBusyCode 0 0) := by
  simp only [execLoadBusy, hs, h]

theorem execObreqWrite_at : execObreqWrite s = .next (writeObreq { s with cur := .idle } (BitVec.ofNat 64 n)) := by
  simp only [execObreqWrite, hs]
end

/-- The bytes of the request that a write to OBREQ names. -/
def requestBytes (s : State) (b : Nat) : Nat := if inHbmOrHost b 128 && engineRead s b 2 == 3 then 168 else 128

theorem requestBytes_eq {s : State} {b : Nat} :
    requestBytes s b = if inHbmOrHost b 128 = true ∧ engineRead s b 2 = 3 then 168 else 128 :=
  ite_congr_of_iff (by rw [Bool.and_eq_true, beq_iff_eq]) rfl rfl

section
variable {s : State} {m : Nat}

/-- The address that a write of a value to OBREQ names (R392). -/
def requestAddress (m : Nat) : Nat := ((BitVec.ofNat 64 m).extractLsb' 7 45).toNat * 128

theorem writeObreq_elsewhere (h : inHbmOrHost (requestAddress m) (requestBytes s (requestAddress m)) = false) :
    writeObreq s (BitVec.ofNat 64 m) = s := if_neg (Bool.eq_false_iff.mp h)

theorem writeObreq_queued (h : inHbmOrHost (requestAddress m) (requestBytes s (requestAddress m)) = true) (hroom : s.loads.length < 16) :
    writeObreq s (BitVec.ofNat 64 m) = { s with loads := s.loads ++ [requestAddress m] } := (if_pos h).trans (if_pos hroom)

theorem writeObreq_busy (h : inHbmOrHost (requestAddress m) (requestBytes s (requestAddress m)) = true) (hfull : 16 ≤ s.loads.length) :
    writeObreq s (BitVec.ofNat 64 m) = { s with busyLoads := s.busyLoads ++ [requestAddress m] } :=
  (if_pos h).trans (if_neg (Nat.not_lt.mpr hfull))
end

/-- Settles O52: each check of a load, each selection, and the placement, by what the loader's functions do in each case. -/
theorem loaderSteps : Obligations.LoaderSteps := by
  intro s p n k pa r v bs d st nblk len image e u does c kind kobj area noTrans noCache floor fails placed hs
  have place : ∀ {i : Instr} {t : State} {x : Selected} {digest step secver : Nat} {src : Option Nat},
      exec i s = .next (placeObject u t pa c kobj area digest step secver x src) → placed i t x digest step secver src :=
    fun he => ⟨fun h => he.trans (congrArg _ (placeObject_unsound h)), fun h hb => he.trans (congrArg _ (placeObject_waits h hb)),
      fun h hb hw => he.trans (congrArg _ (placeObject_written h hb hw)),
      fun h hb hw => he.trans (congrArg _ (placeObject_unwritten h hb hw))⟩
  refine ⟨fun hr => ⟨fun h1 h2 h3 => execFullLoad_unknown hs hr h1 h2 h3, ?served, ?full, ?cached, ?raise⟩, fun hb => execLoadBusy_at hs hb, ?request⟩
  case served =>
    intro hk
    rcases hk with hk | hk
    · have load := execFullLoad_at hs hr hk
      rw [if_pos hk]
      exact ⟨fun h => load.trans (congrArg _ (serveLoad_reserved h)), fun h hc => load.trans (congrArg _ (serveLoad_fails h hc)),
        fun h hc => load.trans (congrArg _ (serveLoad_waits h hc))⟩
    · have load := execCachedLoad_at hs hr hk
      rw [if_neg (show ¬ kind = 1 from fun h1 => absurd (h1.symm.trans hk) (by decide))]
      exact ⟨fun h => load.trans (congrArg _ (serveLoad_reserved h)), fun h hc => load.trans (congrArg _ (serveLoad_fails h hc)),
        fun h hc => load.trans (congrArg _ (serveLoad_waits h hc))⟩
  case full =>
    intro hk hreq hctx a head o digest x
    have load : exec .fullLoad s = .next (fullLoad u pa r c n k v) := (execFullLoad_at hs hr hk).trans (congrArg _ (serveLoad_passes hreq hctx))
    refine ⟨fun h => load.trans (congrArg _ (fullLoad_unreadable h)), fun h hm => load.trans (congrArg _ (fullLoad_notObject h hm)),
      fun hread hmagic hall => ⟨fun h => load.trans (congrArg _ (fullLoad_unsound hread hmagic hall h)),
        fun h hc hk => load.trans (congrArg _ (fullLoad_foreignKey hread hmagic hall h hc hk)), fun hsound hkey =>
        ⟨fun h => load.trans (congrArg _ (fullLoad_unsigned hread hmagic hall hsound hkey h)),
          fun h hf => load.trans (congrArg _ (fullLoad_revoked hread hmagic hall hsound hkey h hf)), fun hsigned hfloor => ?_⟩⟩⟩
    refine ⟨fun hnative => ?native, fun hnative hno => ?noImage, ?translated⟩
    case native =>
      have hdrop : dropStale u o n noTrans k = u :=
        dropStale_unasked (by simp only [asksCache, hnative, Option.isNone_some, Bool.false_and])
      have hplaced := fullLoad_places (pa := pa) (v := v) hread hmagic hall hsound hkey hsigned hfloor hdrop (selectFull_native hnative) hnative
      exact place (load.trans (congrArg _ hplaced))
    case noImage =>
      have hdrop : dropStale u o n noTrans k = u := dropStale_unasked (by
        rcases hno with h | h
        · simp only [asksCache, h, Bool.not_true, Bool.and_false, Bool.false_and]
        · simp only [asksCache, h, bne_self_eq_false, Bool.and_false])
      exact load.trans (congrArg _
        (fullLoad_fails hread hmagic hall hsound hkey hsigned hfloor hdrop (selectFull_noImage hnative hno)))
    case translated =>
      intro hnative hnt hslofs entry good ends fresh
      have fails_of : ∀ {t : State} {code : Nat}, dropStale u o n noTrans k = t →
          selectFull t c o n noTrans noCache v = .error code → ends t code := fun hdrop h =>
        load.trans (congrArg _ (fullLoad_fails (pa := pa) (v := v) hread hmagic hall hsound hkey hsigned hfloor hdrop h))
      have placed_of : ∀ {t w : State} {y : Selected} {step : Nat}, dropStale u o n noTrans k = t →
          selectFull t c o n noTrans noCache v = .ok (w, y, step) → placed .fullLoad w y digest step (objSecver o) none := by
        intro t w y step hdrop h
        have hplaced := fullLoad_places (pa := pa) (v := v) hread hmagic hall hsound hkey hsigned hfloor hdrop h hnative
        exact place (load.trans (congrArg _ hplaced))
      have fresh_of : ∀ {t : State}, t.dev = u.dev → dropStale u o n noTrans k = t →
          cacheEntry t (BitVec.ofNat 256 digest) n = none → fresh t := by
        intro t hdev hdrop hnone
        have hnat : nativeImage t o = none := by rw [nativeImage, hdev]; exact hnative
        have hstep : t.dev.step.toNat = u.dev.step.toNat := by rw [hdev]
        have htr : translated t o nblk len image = x := by rw [translated, hdev]
        have hselect : selectFull t c o n noTrans noCache v = freshTranslation t c o n noCache v := by
          rw [hnt]; exact selectFull_fresh hnat hslofs hnone
        refine ⟨fun hl => fails_of hdrop (hselect.trans (freshTranslation_refused hl)), fun hv => ?_⟩
        intro sound key kept
        refine ⟨fun hf => fails_of hdrop (hselect.trans ?_), fun hf => placed_of hdrop (hselect.trans ?_)⟩
        · rw [hv]
          exact freshTranslation_unsound (by rw [htr]; exact hf)
        · rw [hv]
          refine (freshTranslation_sound (by rw [htr]; exact hf)).trans ?_
          rw [htr, hstep]
      refine ⟨fun he hg hf => ?_, fun he hg hf => ?_, fun he hg => ?_, fun he => ?_⟩
      · exact fails_of (dropStale_good he hg) (by rw [hnt]; exact selectFull_unfit hnative hslofs he hf)
      · exact placed_of (dropStale_good he hg) (by rw [hnt]; exact selectFull_cached hnative hslofs he hf)
      · exact fresh_of rfl (by rw [hnt]; exact dropStale_stale (asksCache_of hnative hslofs) he hg) cacheEntry_dropped
      · exact fresh_of rfl (dropStale_absent he) he
  case cached =>
    intro hk hreq hctx entry without
    have load : exec .cachedLoad s = .next (cachedLoad u pa r c n k) :=
      (execCachedLoad_at hs hr hk).trans (congrArg _ (serveLoad_passes hreq hctx))
    exact ⟨fun h => load.trans (congrArg _ (cachedLoad_none h)), fun hno he => ⟨fun h => load.trans (congrArg _ (cachedLoad_broken hno he h)),
      fun hh h => load.trans (congrArg _ (cachedLoad_revoked hno he hh h)),
      fun hh hf hc hkey => load.trans (congrArg _ (cachedLoad_foreignKey hno he hh hf hc hkey)),
      fun hh hf hkey => ⟨fun h => load.trans (congrArg _ (cachedLoad_unfit hno he hh hf hkey h)),
        fun h => place (load.trans (congrArg _ (cachedLoad_places hno he hh hf hkey h)))⟩⟩⟩
  case raise =>
    intro hk signed asked
    have raise : exec .floorRaise s = .next (floorRaise u pa r) := execFloorRaise_at hs hr hk
    exact ⟨fun h => raise.trans (congrArg _ (floorRaise_reserved h)), fun hf h => raise.trans (congrArg _ (floorRaise_unsigned hf h)),
      fun hf h h34 hid h40 hhigher hleft => raise.trans (congrArg _ (floorRaise_accepted hf h h34 hid h40 hhigher hleft)),
      fun hf h hbad => raise.trans (congrArg _ (floorRaise_refused hf h hbad))⟩
  case request =>
    intro b size
    have request : exec .obreqWrite s = .next (writeObreq u (BitVec.ofNat 64 n)) := execObreqWrite_at hs
    have hsize : size = requestBytes u (requestAddress n) := requestBytes_eq.symm
    rw [hsize]
    exact ⟨fun h => request.trans (congrArg _ (writeObreq_elsewhere h)), fun h hroom => request.trans (congrArg _ (writeObreq_queued h hroom)),
      fun h hfull => request.trans (congrArg _ (writeObreq_busy h hfull))⟩

end Sys2Proof
end

section
/-! SUPPORT. Contexts (R407 to R421, R437, R509): commands, what a slot's freedom depends on, and the events of a context. -/
namespace Sys2Proof
open Machine

/-! ### Commands (R408, R409) -/

section
variable {s : State} {c : BitVec 12} {k : Command} {grace : Nat}

theorem command_accepted (h : accepts s c k = true) :
    (command s c k grace).1 = writeState (runCommand (noteCommand s c k false) c grace k) c := by
  simp only [command, h, Bool.not_true, if_true]

theorem command_refused (h : accepts s c k = false) : (command s c k grace).1 = writeState (noteCommand s c k true) c := by
  simp only [command, h, Bool.not_false, Bool.false_eq_true, if_false]

theorem accepts_headland (h : c = headland) : accepts s c k = false := by
  simp only [accepts, h, bne_self_eq_false, Bool.false_and]

theorem commandEvent_at {p n m : Nat} {v : List Nat} (hs : s.cur = .at p n m v) :
    commandEvent k s = .next (command { s with cur := .idle } (BitVec.ofNat 12 n) k (m % 2 ^ 24)).1 := by
  simp only [commandEvent, hs]

theorem resident_iff : ((ctxAt s c).phase == .running || (ctxAt s c).phase == .preempting) = true ↔
    (ctxAt s c).phase = .running ∨ (ctxAt s c).phase = .preempting := by
  rw [Bool.or_eq_true, beq_iff_eq, beq_iff_eq]

theorem stopped_of (hp : (ctxAt s c).phase = .loaded ∨ (ctxAt s c).phase = .saved) :
    ((ctxAt s c).phase == .loaded || (ctxAt s c).phase == .saved) = true := by
  rwa [Bool.or_eq_true, beq_iff_eq, beq_iff_eq]

section
variable (hc : c ≠ headland)
include hc

theorem accepts_create (hp : (ctxAt s c).phase = .free) (ha : areasSound (recordRegs s c) = true) : accepts s c .create = true := by
  simp only [accepts, bne_iff_ne.mpr hc, hp, ha, beq_self_eq_true, Bool.and_self]

theorem accepts_start (hp : (ctxAt s c).phase = .loaded) : accepts s c .start = true := by
  simp only [accepts, bne_iff_ne.mpr hc, hp, beq_self_eq_true, Bool.and_self]

theorem accepts_resume {n : Nat} (hp : (ctxAt s c).phase = .saved) (hslot : freeSlot s = some n)
    (ha : areasSound (recordRegs s c) = true) (hr : (ctxAt s c).recMode = .off ∨ bufferSound (recordRegs s c) = true) :
    accepts s c .resume = true := by
  have hrec : ((ctxAt s c).recMode == .off || bufferSound (recordRegs s c)) = true := by rwa [Bool.or_eq_true, beq_iff_eq]
  simp only [accepts, bne_iff_ne.mpr hc, hp, hslot, ha, hrec, beq_self_eq_true, Option.isSome_some, Bool.and_self]

theorem accepts_preempt (hp : (ctxAt s c).phase = .running ∨ (ctxAt s c).phase = .preempting) : accepts s c .preempt = true := by
  simp only [accepts, bne_iff_ne.mpr hc, resident_iff.mpr hp, Bool.and_self]

theorem accepts_freeze (hp : (ctxAt s c).phase = .running ∨ (ctxAt s c).phase = .preempting) : accepts s c .freeze = true := by
  simp only [accepts, bne_iff_ne.mpr hc, resident_iff.mpr hp, Bool.and_self]

theorem accepts_thaw (hp : (ctxAt s c).phase = .frozen) : accepts s c .thaw = true := by
  simp only [accepts, bne_iff_ne.mpr hc, hp, beq_self_eq_true, Bool.and_self]

theorem accepts_kill (hf : (ctxAt s c).phase ≠ .free) (hd : (ctxAt s c).phase ≠ .dead) : accepts s c .kill = true := by
  simp only [accepts, bne_iff_ne.mpr hc, bne_iff_ne.mpr hf, bne_iff_ne.mpr hd, Bool.and_self]

theorem accepts_release (hp : (ctxAt s c).phase = .dead) : accepts s c .release = true := by
  simp only [accepts, bne_iff_ne.mpr hc, hp, beq_self_eq_true, Bool.and_self]

section
variable (hp : (ctxAt s c).phase = .loaded ∨ (ctxAt s c).phase = .saved)
include hp

theorem accepts_norecord : accepts s c .norecord = true := by
  simp only [accepts, bne_iff_ne.mpr hc, stopped_of hp, Bool.and_self]

theorem accepts_record (hb : bufferSound (recordRegs s c) = true) : accepts s c .record = true := by
  simp only [accepts, bne_iff_ne.mpr hc, stopped_of hp, hb, Bool.and_self]

theorem accepts_replay (hb : bufferSound (recordRegs s c) = true) : accepts s c .replay = true := by
  simp only [accepts, bne_iff_ne.mpr hc, stopped_of hp, hb, Bool.and_self]
end
end
end

/-! ### Hardware slots (R406) -/

theorem all_assocSet_lookup {l : List (Nat × Ctx)} {c : Nat} {f : Ctx → Ctx} {q : Option Nat → Bool}
    (hf : ∀ x, (f x).slot = x.slot) (hfree : q Ctx.free.slot = true) :
    (assocSet c (f (lookupD Ctx.free c l)) l).all (fun y => q y.2.slot) = l.all (fun y => q y.2.slot) := by
  induction l with
  | nil => simp only [assocSet, lookupD, List.all_cons, List.all_nil, hf, hfree, Bool.and_self]
  | cons y l ih =>
    obtain ⟨a, x⟩ := y
    by_cases ha : a = c
    · simp only [assocSet, lookupD, ha, if_true, List.all_cons, hf]
    · simp only [assocSet, lookupD, ha, if_false, List.all_cons, ih]

/-- A change of a context that leaves its slot leaves the free slots. -/
theorem freeSlot_modCtx {s : State} {c : BitVec 12} {f : Ctx → Ctx} (hf : ∀ x, (f x).slot = x.slot) :
    freeSlot (modCtx s c f) = freeSlot s :=
  congrArg (fun q => (List.range 64).find? q) (funext fun n => all_assocSet_lookup (q := fun o => o != some n) hf rfl)

theorem freeSlot_noteCommand {s : State} {c : BitVec 12} {k : Command} {b : Bool} : freeSlot (noteCommand s c k b) = freeSlot s :=
  freeSlot_modCtx fun _ => rfl

theorem runCommand_resume {s : State} {c : BitVec 12} {n grace : Nat} (h : freeSlot s = some n) :
    runCommand s c grace .resume = restoreContext s c n := by
  simp only [runCommand, h]

/-! ### Events (R409, R416, R417) and the acknowledgement of a stop (R419, R420) -/

section
variable {s : State} {p : Nat} {c : BitVec 12}

theorem expire_running {yielded : Bool} (hl : ((ctxAt s c).counts.getD p (freshSlice 0)).late = some yielded)
    (hp : (ctxAt s c).phase = .running) : expire s p c =
      writeState (if yielded then requestStop (modCount s c p (fun y => { y with late := none })) c flagYield 0 false false
        else requestStop (modCount s c p (fun y => { y with late := none })) c flagDeadline causeDeadline false false) c := by
  have hphase : (ctxAt (modCount s c p (fun y => { y with late := none })) c).phase = .running := by
    rw [modCount, ctxAt_modCtx]
    exact hp
  simp only [expire, hl, hphase, if_true]

variable {a : StopUnit}

/-- The state in which a unit that acknowledges a stop has its finished walks and copies retired. -/
def quietAt (s : State) (c : BitVec 12) (a : StopUnit) : State :=
  match a with
  | .plot q _ => retireQuiet s q c
  | .queueEngine _ | .home _ => s

theorem acknowledge_other (h : (ctxAt s c).phase ≠ .preempting ∨ (ctxAt s c).unacked.contains a = false) : acknowledge s c a = s :=
  if_neg fun ⟨hp, hu⟩ => h.elim (· hp) (fun hn => Bool.noConfusion (hu.symm.trans hn))

variable (hp : (ctxAt s c).phase = .preempting) (hu : (ctxAt s c).unacked.contains a = true)
include hp hu

theorem acknowledge_asked : acknowledge s c a =
    if unitStopped (quietAt s c a) c a = true then
      if (ctxAt (modCtx (stopUnit (quietAt s c a) c a) c (fun y => { y with unacked := y.unacked.erase a })) c).unacked.isEmpty = true then
        finishStop (modCtx (stopUnit (quietAt s c a) c a) c (fun y => { y with unacked := y.unacked.erase a })) c
      else modCtx (stopUnit (quietAt s c a) c a) c (fun y => { y with unacked := y.unacked.erase a })
    else quietAt s c a := if_pos ⟨hp, hu⟩

theorem acknowledge_runs (hq : unitStopped (quietAt s c a) c a = false) : acknowledge s c a = quietAt s c a :=
  (acknowledge_asked hp hu).trans (if_neg (Bool.eq_false_iff.mp hq))

theorem acknowledge_more (hq : unitStopped (quietAt s c a) c a = true)
    (hmore : (ctxAt (modCtx (stopUnit (quietAt s c a) c a) c (fun y => { y with unacked := y.unacked.erase a })) c).unacked ≠ []) :
    acknowledge s c a = modCtx (stopUnit (quietAt s c a) c a) c (fun y => { y with unacked := y.unacked.erase a }) :=
  (acknowledge_asked hp hu).trans ((if_pos hq).trans (if_neg (mt List.isEmpty_iff.mp hmore)))

theorem acknowledge_last (hq : unitStopped (quietAt s c a) c a = true)
    (hlast : (ctxAt (modCtx (stopUnit (quietAt s c a) c a) c (fun y => { y with unacked := y.unacked.erase a })) c).unacked = []) :
    acknowledge s c a = finishStop (modCtx (stopUnit (quietAt s c a) c a) c (fun y => { y with unacked := y.unacked.erase a })) c :=
  (acknowledge_asked hp hu).trans ((if_pos hq).trans (if_pos (List.isEmpty_iff.mpr hlast)))
end

section
variable {s : State} {p n k : Nat} {v : List Nat} (hs : s.cur = .at p n k v)
include hs

theorem execContextIdle_at (hp : (ctxAt { s with cur := .idle } (BitVec.ofNat 12 n)).phase = .running)
    (hi : 4096 ≤ (ctxAt { s with cur := .idle } (BitVec.ofNat 12 n)).idle)
    (hg : hasGroup { s with cur := .idle } (BitVec.ofNat 12 n) = false)
    (hr : requestPending (ctxAt { s with cur := .idle } (BitVec.ofNat 12 n)) = false) :
    execContextIdle s = .next (idleContext { s with cur := .idle } (BitVec.ofNat 12 n)) := by
  simp only [execContextIdle, hs]
  exact if_pos ⟨hp, hi, hg, hr⟩

theorem execExpiry_at : execExpiry s = .next (expire { s with cur := .idle } p (BitVec.ofNat 12 n)) := by
  simp only [execExpiry, hs]

/-- A context stalls on a plot (R417). -/
def Stalls (s : State) (p : Nat) (c : BitVec 12) : Prop :=
  (ctxAt s c).phase = .running ∧ (regsOn s c p).stl ≠ 0 ∧
    (regsOn s c p).stl.toNat < ((ctxAt s c).counts.getD p (freshSlice 0)).idle ∧ liveOn s p c = true

theorem execStall_stalls (h : Stalls { s with cur := .idle } p (BitVec.ofNat 12 n)) : execStall s =
    .next (writeState (requestStop { s with cur := .idle } (BitVec.ofNat 12 n) flagStall causeDeadline false false) (BitVec.ofNat 12 n)) := by
  simp only [execStall, hs]
  exact if_pos h

theorem execStall_goes_on (h : ¬ Stalls { s with cur := .idle } p (BitVec.ofNat 12 n)) : execStall s = .next { s with cur := .idle } := by
  simp only [execStall, hs]
  exact if_neg h

theorem execAcknowledgement_at :
    execAcknowledgement s = .next (acknowledge { s with cur := .idle } (BitVec.ofNat 12 n) (stopUnitOf p k)) := by
  simp only [execAcknowledgement, hs]
end

/-- Settles O53: each command and each event by what its operation does in each case. -/
theorem contextSteps : Obligations.ContextSteps := by
  intro s p n k v yielded u does c x r stl a noted hs
  have accepted : ∀ {cmd : Command} {t : State}, accepts u c cmd = true → runCommand (noted cmd) c (k % 2 ^ 24) cmd = t →
      commandEvent cmd s = .next (writeState t c) := fun hacc hrun =>
    (commandEvent_at hs).trans (congrArg _ ((command_accepted hacc).trans (congrArg (fun t => writeState t c) hrun)))
  refine ⟨fun hc => ⟨fun hp ha => ?create, fun hp => ?start, fun hp slot hslot ha hr => ?resume, fun hp => ?stop, fun hp => ?thaw,
      fun hf hd => ?kill, fun hp => ?release, fun hp => ?mode⟩, ?refused, fun hp hi hg hr => execContextIdle_at hs hp hi hg hr,
    fun hl hp => ?expiry, fun hp hz hi hl => execStall_stalls hs ⟨hp, hz, hi, hl⟩, fun h => ?goesOn, fun h => ?unasked, fun hp hu => ?asked⟩
  case create => exact accepted (accepts_create hc hp ha) rfl
  case start => exact accepted (accepts_start hc hp) rfl
  case resume => exact accepted (accepts_resume hc hp hslot ha hr) (runCommand_resume (freeSlot_noteCommand.trans hslot))
  case stop =>
    exact ⟨fun hk => accepted (accepts_preempt hc hp) (if_pos hk), fun hk => accepted (accepts_preempt hc hp) (if_neg hk),
      accepted (accepts_freeze hc hp) rfl⟩
  case thaw => exact accepted (accepts_thaw hc hp) rfl
  case kill => exact accepted (accepts_kill hc hf hd) rfl
  case release => exact accepted (accepts_release hc hp) rfl
  case mode =>
    exact ⟨fun hb => ⟨accepted (accepts_record hc hp hb) rfl, accepted (accepts_replay hc hp hb) rfl⟩, accepted (accepts_norecord hc hp) rfl⟩
  case refused =>
    intro cmd i hmem h
    have hrefused : accepts u c cmd = false := h.elim accepts_headland id
    have hevent : exec i s = commandEvent cmd s := by
      simp only [List.mem_cons, Prod.mk.injEq, List.not_mem_nil, or_false] at hmem
      rcases hmem with ⟨rfl, rfl⟩ | ⟨rfl, rfl⟩ | ⟨rfl, rfl⟩ | ⟨rfl, rfl⟩ | ⟨rfl, rfl⟩ | ⟨rfl, rfl⟩ | ⟨rfl, rfl⟩ | ⟨rfl, rfl⟩ |
        ⟨rfl, rfl⟩ | ⟨rfl, rfl⟩ | ⟨rfl, rfl⟩ <;> rfl
    exact hevent.trans ((commandEvent_at hs).trans (congrArg _ (command_refused hrefused)))
  case expiry => exact (execExpiry_at hs).trans (congrArg _ (expire_running hl hp))
  case goesOn =>
    refine execStall_goes_on hs fun ⟨hp, hz, hi, hl⟩ => ?_
    rcases h with h | h | h | h
    · exact h hp
    · exact hz h
    · exact absurd hi (Nat.not_lt.mpr h)
    · exact Bool.noConfusion (hl.symm.trans h)
  case unasked => exact (execAcknowledgement_at hs).trans (congrArg _ (acknowledge_other h))
  case asked =>
    intro w o
    exact ⟨fun hq => (execAcknowledgement_at hs).trans (congrArg _ (acknowledge_runs hp hu hq)),
      fun hq hmore => (execAcknowledgement_at hs).trans (congrArg _ (acknowledge_more hp hu hq hmore)),
      fun hq hlast => (execAcknowledgement_at hs).trans (congrArg _ (acknowledge_last hp hu hq hlast))⟩

end Sys2Proof
end

section
/-! SUPPORT. The device's own steps (R5, R17, R22) and the host's accesses (R257, R261, R491 to R493). -/
namespace Sys2Proof
open Machine

/-! ### BAR 2 (R493) -/

section
variable {s : State} {o n : Nat} {v : Word}

theorem barRead_devid : barRead s 0x3018 8 = (devid s).toNat := by
  rw [barRead, Nat.sub_self, Nat.pow_zero, Nat.mul_one, Nat.div_one]
  exact Nat.mod_eq_of_lt (devid s).isLt

theorem barRead_elsewhere (h : o + 8 ≤ 0x3018 ∨ 0x3020 ≤ o) : barRead s o 8 = 0 := by
  rcases h with h | h
  · obtain ⟨m, hm⟩ := Nat.exists_eq_add_of_le (show 8 ≤ 0x3018 - o by omega)
    have hsub : o - 0x3018 = 0 := by omega
    rw [barRead, hsub, Nat.pow_zero, Nat.div_one, hm, Nat.pow_add, ← Nat.mul_assoc, Nat.mul_right_comm]
    exact Nat.mul_mod_left ..
  · have hsub : 0x3018 - o = 0 := by omega
    have hlt : (devid s).toNat < 256 ^ (o - 0x3018) :=
      Nat.lt_of_lt_of_le (show (devid s).toNat < 256 ^ 8 from (devid s).isLt) (Nat.pow_le_pow_right (by decide) (by omega))
    rw [barRead, hsub, Nat.pow_zero, Nat.mul_one, Nat.div_eq_of_lt hlt, Nat.zero_mod]

/-- A write inside one kick register touches that register alone. -/
theorem kicked_one (hk : 1 ≤ n) (hin : o % 8 + n ≤ 8) (ho : o < 0x2000) :
    (List.range 1024).filter (fun q => decide (o < 8 * q + 8 ∧ 8 * q < o + n)) = [o / 8] := by
  have hq : ∀ q ∈ List.range 1024, decide (o < 8 * q + 8 ∧ 8 * q < o + n) = (q == o / 8) := fun q _ => by
    rw [decide_eq_decide.mpr (show (o < 8 * q + 8 ∧ 8 * q < o + n) ↔ q = o / 8 by omega)]
    rfl
  rw [List.filter_congr hq, List.filter_beq, List.nodup_range.count, if_pos (List.mem_range.mpr (by omega)), List.replicate_one]

theorem barWrite_kick (hk : 1 ≤ n) (hin : o % 8 + n ≤ 8) (ho : o < 0x2000) : barWrite s o n v = kickQueue s (o / 8) := by
  simp only [barWrite, ho, if_true, kicked_one hk hin ho, List.foldl_cons, List.foldl_nil]

theorem barWrite_unlisted (ho : 0x2000 ≤ o)
    (h : o % 8 ≠ 0 ∨ n ≠ 8 ∨ o ∉ [0x2000, 0x2008, 0x2010, 0x2018, 0x3000, 0x3008, 0x3010]) : barWrite s o n v = s := by
  rw [barWrite, if_neg (Nat.not_lt.mpr ho)]
  split
  · rfl
  · next hword =>
    obtain ⟨halign, hlen⟩ := not_or.mp hword
    have hout := (h.resolve_left halign).resolve_left hlen
    simp only [List.mem_cons, List.not_mem_nil, or_false, not_or] at hout
    obtain ⟨h0, h1, h2, h3, hobreq, hctl, hrack⟩ := hout
    rw [if_neg (show ¬ o < 0x2020 by omega), if_neg hobreq, if_neg hctl, if_neg hrack]

theorem barWrite_qcmd {die : Nat} (hdie : die < 4) : barWrite s (0x2000 + 8 * die) 8 v = writeQcmd s die v := by
  rw [barWrite, if_neg (show ¬ 0x2000 + 8 * die < 0x2000 by omega),
    if_neg (show ¬ ((0x2000 + 8 * die) % 8 ≠ 0 ∨ 8 ≠ 8) by omega), if_pos (show 0x2000 + 8 * die < 0x2020 by omega),
    show (0x2000 + 8 * die - 0x2000) / 8 = die by omega]

theorem barWrite_obreq : barWrite s 0x3000 8 v = writeObreq s v := rfl

theorem barWrite_ctxctl : barWrite s 0x3008 8 v = writeCtxctl s v := rfl

theorem barWrite_rack : barWrite s 0x3010 8 v = { s with power := rackMessage (s.timers.getD 0 0) s.power v } := rfl
end

/-! ### Requests of the host (R253, R257, R491) -/

/-- A request of the host for bytes of HBM joins the queue of their line at its home. -/
theorem newEng_host {s : State} {a m : Nat} {act : EngAct} (ha : rangeOf a = .hbm) (hact : engReads act = false) :
    newEng s .host 36 0 0 (0, a, m) act =
      sendHome { s with
        nextId := s.nextId + 1
        engReqs := s.engReqs ++ [EngReq.mk s.nextId .host 36 0 0 0 a m act false false none 0 (leafLookup s 36 0 0)] }
        36 (a / 64) (.op (.eng s.nextId)) := by
  simp only [newEng, routeEng, ha, hact, Bool.false_eq_true, if_false]

theorem wholly_start {r : Range} {a n : Nat} (h : wholly r a n = true) : rangeOf a = r :=
  beq_iff_eq.mp (Bool.and_eq_true_iff.mp h).1

section
variable {s : State} {q : EngReq} {id d : Nat} (hq : engAt s id = some q) (ha : rangeOf q.pa = .hbm)
include hq ha

theorem performEng_hostRead {keep : Bool} (hact : q.act = .hostRead keep) : performEng s id =
    dropEng (if keep then setHostFlag (l2Touch s .normal none (q.pa / 64)) (q.pa / 64) true else l2Touch s .normal none (q.pa / 64)) id := by
  simp only [performEng, hq, ownHostLine, ha, reduceCtorEq, false_and, if_false, true_or, if_true, hact]

theorem performEng_hostWrite {keep : Bool} (hact : q.act = .hostWrite d keep) :
    let wrote := storeAt (l2Touch s .normal none (q.pa / 64)) q.pa q.bytes d
    let full := { wrote with mem := wrote.mem.setFull q.pa q.bytes }
    performEng s id = wakeRange (dropEng (if keep then setHostFlag full (q.pa / 64) true else full) id) q.pa q.bytes := by
  intro wrote full
  simp only [performEng, hq, ownHostLine, ha, reduceCtorEq, false_and, if_false, true_or, if_true, hact]
  rfl
end

/-! ### The steps -/

section
variable {s : State} {p n k : Nat} {v : List Nat} (hs : s.cur = .at p n k v)
include hs

theorem execColdReset_at : execColdReset s = .next { State.reset with
    sched := s.sched, fresh := s.fresh, mem := { s.mem with empty := [] }
    dev := { DevRegs.reset with step := s.dev.step, left := s.dev.left, floor := s.dev.floor } } := by
  simp only [execColdReset, hs]

theorem execRegisterWrite_context (hv : v.getD 2 0 ≠ 1) : execRegisterWrite s = .next
    (if mayWrite { s with cur := .idle } p (BitVec.ofNat 12 (v.getD 1 0)) n then
      writeReg { s with cur := .idle } p (BitVec.ofNat 12 (v.getD 1 0)) (k % 4) n (BitVec.ofNat 64 (v.getD 0 0)) none
    else { s with cur := .idle }) := by
  simp only [execRegisterWrite, hs, hv, if_false]

theorem execPlotOffline_at : execPlotOffline s =
    .next { s with cur := .idle, dev := { s.dev with plots := s.dev.plots &&& ~~~((1 : BitVec 32) <<< p) } } := by
  simp only [execPlotOffline, hs]

theorem execPlotCycle_at : execPlotCycle s = .next (plotCycle { s with cur := .idle } v) := by
  simp only [execPlotCycle, hs]

theorem execHostRead_line (hp : p = 0) (hr : rangeOf (64 * n) = .hbm) : execHostRead s =
    .next (newEng { s with cur := .idle } .host 36 0 0 (0, 64 * n, 64) (.hostRead (k == 1))) := by
  simp only [execHostRead, hs, hp, ne_eq, not_true_eq_false, if_false, hr, if_true]

theorem execHostRead_elsewhere (hp : p = 0) (hr : rangeOf (64 * n) ≠ .hbm) : execHostRead s = .next { s with cur := .idle } := by
  simp only [execHostRead, hs, hp, ne_eq, not_true_eq_false, if_false, hr]

theorem execHostRead_bar (hp : p ≠ 0) : execHostRead s =
    .next { s with cur := .idle, barData := barRead { s with cur := .idle } n k } := by
  simp only [execHostRead, hs, hp, ne_eq, not_false_eq_true, if_true]

theorem execHostWrite_line (hp : p = 0) (hw : wholly .hbm n k = true) (hin : n % 64 + k ≤ 64) : execHostWrite s =
    .next (newEng { s with cur := .idle } .host 36 0 0 (0, n, k) (.hostWrite (v.getD 0 0 % 256 ^ k) (v.getD 1 0 == 1))) := by
  simp only [execHostWrite, hs, hp, ne_eq, not_true_eq_false, if_false, hw, hin, and_self, if_true]

theorem execHostWrite_elsewhere (hp : p = 0) (h : wholly .hbm n k = false ∨ 64 < n % 64 + k) :
    execHostWrite s = .next { s with cur := .idle } := by
  have hnot : ¬ (wholly .hbm n k = true ∧ n % 64 + k ≤ 64) :=
    fun ⟨hw, hin⟩ => h.elim (fun hf => Bool.noConfusion (hw.symm.trans hf)) (fun hl => absurd hin (Nat.not_le.mpr hl))
  simp only [execHostWrite, hs, hp, ne_eq, not_true_eq_false, if_false, hnot]

theorem execHostWrite_bar (hp : p ≠ 0) :
    execHostWrite s = .next (barWrite { s with cur := .idle } n k (BitVec.ofNat 64 (v.getD 0 0))) := by
  simp only [execHostWrite, hs, hp, ne_eq, not_false_eq_true, if_true]

section
variable (hr : rangeOf (64 * n) = .host)
include hr

theorem execHostSnoop_early (hn : reaches { s with cur := .idle } n 36 = none) : execHostSnoop s = .next { s with cur := .idle } := by
  simp only [execHostSnoop, hs, hr, if_true, hn]

/-- The state in which the host has taken a line of host memory back, as far as the device holds it. -/
def lineTaken (w : State) (n : Nat) : State :=
  l2Drop { if w.hostLines.contains n then wakeWatch w n else w with
    hostLines := (if w.hostLines.contains n then wakeWatch w n else w).hostLines.filter (fun l => l != n) } n

variable {w : State} (hw : reaches { s with cur := .idle } n 36 = some w)
include hw

theorem execHostSnoop_silent (hv : v = []) : execHostSnoop s = .next (lineTaken w n) := by
  simp only [execHostSnoop, hs, hr, if_true, hw]
  rw [hv]
  rfl

theorem execHostSnoop_data {d : Nat} {vs : List Nat} (hv : v = d :: vs) :
    execHostSnoop s = .next { lineTaken w n with mem := (lineTaken w n).mem.setLine n (BitVec.ofNat 512 d) } := by
  simp only [execHostSnoop, hs, hr, if_true, hw]
  rw [hv]
  rfl
end
end

/-- Settles O54: each step of the device and of the host by what its operation does in each case. -/
theorem deviceSteps : Obligations.DeviceSteps := by
  intro s w p n k d v vs q keep u does c data asked hs
  refine ⟨⟨_, execColdReset_at hs, rfl, rfl, rfl, rfl, rfl, rfl, rfl, rfl, rfl, rfl⟩,
    fun hv hm => ?written, fun hv hm => ?refused, execPlotOffline_at hs, execPlotCycle_at hs,
    fun hp hr => ?reads, fun hp hr => execHostRead_elsewhere hs hp hr, fun hp => execHostRead_bar hs hp,
    ⟨barRead_devid, fun h => barRead_elsewhere h⟩, fun hp hw hk hin => ?writes, fun hp h => execHostWrite_elsewhere hs hp h,
    fun hp => ?bar, fun hr hn => execHostSnoop_early hs hr hn, fun hr hw => ?snoop, fun hq ha => ?performs⟩
  case written => exact (execRegisterWrite_context hs hv).trans (congrArg _ (if_pos hm))
  case refused => exact (execRegisterWrite_context hs hv).trans (congrArg _ (if_neg (Bool.eq_false_iff.mp hm)))
  case reads => exact (execHostRead_line hs hp hr).trans (congrArg _ (newEng_host hr rfl))
  case writes => exact (execHostWrite_line hs hp hw hin).trans (congrArg _ (newEng_host (wholly_start hw) rfl))
  case bar =>
    have write : exec .hostWrite s = .next (barWrite u n k data) := execHostWrite_bar hs hp
    refine ⟨fun ho hk hin => ?_, fun ho h => ?_, fun hk => ⟨fun die hn hdie => ?_, fun hn => ?_, fun hn => ?_, fun hn => ?_⟩⟩
    · exact write.trans (congrArg _ (barWrite_kick hk hin ho))
    · exact write.trans (congrArg _ (barWrite_unlisted ho h))
    all_goals rw [hk, hn] at write
    · exact write.trans (congrArg _ (barWrite_qcmd hdie))
    · exact write.trans (congrArg _ barWrite_obreq)
    · exact write.trans (congrArg _ barWrite_ctxctl)
    · exact write.trans (congrArg _ barWrite_rack)
  case snoop =>
    intro woken taken
    exact ⟨fun hv => execHostSnoop_silent hs hr hw hv, fun hv => execHostSnoop_data hs hr hw hv⟩
  case performs =>
    intro y
    exact ⟨fun hact => performEng_hostRead hq ha hact, fun hact => performEng_hostRead hq ha hact, fun hact => performEng_hostWrite hq ha hact⟩

end Sys2Proof
end

section
/-! SUPPORT. Power and furrows (R463 to R478): windows and boundaries, the guard, thermal thresholds, and rack caps. -/
namespace Sys2Proof
open Machine

/-! ### Rack caps (R476) -/

section
variable {now : Nat} {w : Power} {v : Word}

/-- The power state after a rack cap message that is taken. -/
def rackTaken (now : Nat) (w : Power) (v : Word) : Power :=
  { w with
    last := some (v.extractLsb' 0 32), cap := BitVec.ofNat 16 (min (max (v.extractLsb' 32 16).toNat 600) 1800), src := 1
    lease := some now, acc := w.acc + 1 }

theorem rackMessage_first (h : w.last = none) : rackMessage now w v = rackTaken now w v := by
  simp only [rackMessage, h, rackTaken]

section
variable {l : BitVec 32} (h : w.last = some l)
include h

theorem rackMessage_duplicate (hs : v.extractLsb' 0 32 = l) : rackMessage now w v = { w with dup := w.dup + 1 } := by
  simp only [rackMessage, h, hs, BitVec.sub_self, BitVec.toNat_zero, if_true]

theorem rackMessage_next (hs : v.extractLsb' 0 32 = l + 1) : rackMessage now w v = rackTaken now w v := by
  have hd : (v.extractLsb' 0 32 - l).toNat = 1 := by
    rw [hs, BitVec.add_comm, BitVec.add_sub_cancel]
    rfl
  simp only [rackMessage, h, hd, Nat.one_ne_zero, if_false, show ¬ 2 ^ 31 ≤ 1 by decide, if_true, rackTaken]

theorem rackMessage_gap (h1 : 1 < (v.extractLsb' 0 32 - l).toNat) (h2 : (v.extractLsb' 0 32 - l).toNat < 2 ^ 31) :
    rackMessage now w v = { rackTaken now w v with gap := w.gap + 1 } := by
  simp only [rackMessage, h, show ¬ (v.extractLsb' 0 32 - l).toNat = 0 by omega, Nat.not_le.mpr h2,
    show ¬ (v.extractLsb' 0 32 - l).toNat = 1 by omega, if_false, rackTaken]

theorem rackMessage_old (h2 : 2 ^ 31 ≤ (v.extractLsb' 0 32 - l).toNat) : rackMessage now w v = { w with old := w.old + 1 } := by
  simp only [rackMessage, h, show ¬ (v.extractLsb' 0 32 - l).toNat = 0 by omega, h2, if_false, if_true]
end
end

/-! ### The steps -/

section
variable {s : State} {p n k : Nat} {v : List Nat} (hs : s.cur = .at p n k v)
include hs

theorem execSamplingWindow_at (hp : p < 36)
    (hf : ∀ f ∈ furrowsOf p, (furrowAt { s with cur := .idle } f).windows < s.cycles / 64) : execSamplingWindow s =
      .next (((furrowsOf p).zip (List.range 4)).foldl (fun t x => furrowWindow t x.1 (v.drop (9 * x.2))) { s with cur := .idle }) := by
  have hall : (furrowsOf p).all (fun f => decide ((furrowAt { s with cur := .idle } f).windows < s.cycles / 64)) = true :=
    List.all_eq_true.mpr fun f hm => decide_eq_true (hf f hm)
  simp only [execSamplingWindow, hs, hp, hall, and_self, if_true]

theorem execIntervalBoundary_at (h : s.power.intervals < s.timers.getD 0 0 / 2500) :
    execIntervalBoundary s = .next (boundary { s with cur := .idle } n) := by
  simp only [execIntervalBoundary, hs, h, if_true]

section
variable (hn : n < 132)
include hn

/-- A furrow whose guard trips: stopped, its supply nominal, and its permit spent. -/
def guardTripped (s : State) (n : Nat) : State := modFurrow s n (fun x => { x with
  guarded := true, clearing := true, supply := .nominal, req := 0, inBand := false, fil := false, quietRun := 0, filRun := 0 })

theorem execGuardTrip_trips (hg : (furrowAt { s with cur := .idle } n).guarded = false)
    (hc : (furrowAt { s with cur := .idle } n).clearing = false) (hb : s.power.boundaryAt ≠ some s.cycles) :
    execGuardTrip s = .next (clearQuiet (guardTripped { s with cur := .idle } n) n) := by
  simp only [execGuardTrip, hs, Nat.not_le.mpr hn, if_false, hc, hg, hb, or_self, Bool.false_eq_true, guardTripped]

theorem execGuardTrip_clears (hc : (furrowAt { s with cur := .idle } n).clearing = true) :
    execGuardTrip s = .next (clearQuiet { s with cur := .idle } n) := by
  simp only [execGuardTrip, hs, Nat.not_le.mpr hn, if_false, hc, if_true]
end

theorem thermalEvent_at (allow : Threshold → Bool) : thermalEvent allow s =
    .next { s with cur := .idle, thermal := s.thermal.modify p (fun d => { d with
      temp := BitVec.ofNat 11 k, thresholds := d.thresholds.modify n (crossNow (s.timers.getD p 0) (k % 2048) allow) }) } := by
  simp only [thermalEvent, hs]

theorem execRackCapMessage_at : execRackCapMessage s =
    .next { s with cur := .idle, power := rackMessage (s.timers.getD 0 0) s.power (BitVec.ofNat 64 n) } := by
  simp only [execRackCapMessage, hs]

theorem execLeaseExpiry_at {t : Nat} (hl : s.power.lease = some t) (ht : t + 10000000 ≤ s.timers.getD 0 0) : execLeaseExpiry s =
    .next { s with cur := .idle, power := { s.power with cap := s.power.fallback, src := 2, lease := none } } := by
  simp only [execLeaseExpiry, hs, hl, ht, if_true]
end

theorem clearQuiet_quiet {s : State} {f : Nat} (h : furrowQuiet s f = true) : clearQuiet s f = clearFurrow s f := if_pos h

theorem clearQuiet_running {s : State} {f : Nat} (h : furrowQuiet s f = false) : clearQuiet s f = s := if_neg (Bool.eq_false_iff.mp h)

/-- Settles O55: each step by what its operation does in each case. -/
theorem powerSteps : Obligations.PowerSteps := by
  intro s p n k now v u does thermal msg cap seq w taken hs
  have rack : ∀ {y : Power}, rackMessage (u.timers.getD 0 0) w msg = y → does .rackCapMessage { u with power := y } := fun h =>
    (execRackCapMessage_at hs).trans (congrArg (fun y => Host.Outcome.next { u with power := y }) h)
  refine ⟨fun hp hf => execSamplingWindow_at hs hp hf, fun h => execIntervalBoundary_at hs h, fun hg hc hn hb => ?trips, fun hc hn => ?clears,
    thermalEvent_at hs _, thermalEvent_at hs _, thermalEvent_at hs _, fun h => rack (rackMessage_first h), fun l h => ?messages,
    fun hl ht => execLeaseExpiry_at hs hl ht⟩
  case trips =>
    intro g
    exact ⟨fun hq => (execGuardTrip_trips hs hn hg hc hb).trans (congrArg _ (clearQuiet_quiet hq)),
      fun hq => (execGuardTrip_trips hs hn hg hc hb).trans (congrArg _ (clearQuiet_running hq))⟩
  case clears =>
    exact ⟨fun hq => (execGuardTrip_clears hs hn hc).trans (congrArg _ (clearQuiet_quiet hq)),
      fun hq => (execGuardTrip_clears hs hn hc).trans (congrArg _ (clearQuiet_running hq))⟩
  case messages =>
    exact ⟨fun hd => rack (rackMessage_duplicate h hd), fun hd => rack (rackMessage_next h hd),
      fun h1 h2 => rack (rackMessage_gap h h1 h2), fun h2 => rack (rackMessage_old h h2)⟩

end Sys2Proof
end

section
/-! SUPPORT. Link ports (R479 to R489): commands and events, lane failures and quarantine, and the traffic of peers. -/
namespace Sys2Proof
open Machine

/-! ### A port after a change (R487) -/

section
variable {s : State} {k : Nat} {e : PortEvent}

/-- What a change of a port leaves of it alone reads as before. -/
theorem portAt_modLink_field {α : Type} {f : LinkPort → LinkPort} (field : LinkPort → α) (hf : ∀ x, field (f x) = field x) :
    field (portAt (modLink s k f) k) = field (portAt s k) := by
  simp only [portAt, modLink, List.getD_eq_getElem?_getD, List.getElem?_modify_eq]
  cases s.ports[k]? with
  | none => rfl
  | some x => exact hf x

theorem portAt_notePort_st : (portAt (notePort s k e) k).st = (portAt s k).st := portAt_modLink_field LinkPort.st fun _ => rfl

theorem portCarries_iff {x : LinkPort} : portCarries x = true ↔ x.st = .up ∨ x.st = .degraded := by
  rw [portCarries, Bool.or_eq_true, beq_iff_eq, beq_iff_eq]

theorem portCarries_notePort (h : (portAt s k).st = .up ∨ (portAt s k).st = .degraded) : portCarries (portAt (notePort s k e) k) = true := by
  rw [portCarries_iff, portAt_notePort_st]
  exact h

/-- A port that enters QUARANTINED, before its streams move. -/
def quarantined (s : State) (k : Nat) : State := modLink s k (fun x => { x with st := .quarantined, lanes := 0, retraining := false })

theorem linkEvent_quarantined : linkEvent (quarantined s k) k =
    if (portAt s k).eve then { quarantined s k with msi := s.msi ++ [(portAt s k).evv] } else quarantined s k := by
  have heve : (portAt (quarantined s k) k).eve = (portAt s k).eve := portAt_modLink_field LinkPort.eve fun _ => rfl
  have hevv : (portAt (quarantined s k) k).evv = (portAt s k).evv := portAt_modLink_field LinkPort.evv fun _ => rfl
  rw [linkEvent, heve, hevv]
  rfl

theorem linkEvent_streams : (linkEvent s k).streams = s.streams := by
  unfold linkEvent
  split <;> rfl

theorem quarantine_eq : quarantine s k = (s.streams.filter (fun x => x.out.any (fun y => y.via == k))).foldl (fun w x => moveStream w k x)
    (if (portAt s k).eve then { quarantined s k with msi := s.msi ++ [(portAt s k).evv] } else quarantined s k) := by
  have hstreams : (linkEvent (quarantined s k) k).streams = s.streams := linkEvent_streams
  rw [← linkEvent_quarantined, ← hstreams]
  rfl

/-! ### Commands and events -/

theorem trainPort_down (h : (portAt s k).st = .down) :
    trainPort s k = modLink (notePort s k .train) k (fun x => { x with st := .training }) := if_pos (portAt_notePort_st.trans h)

theorem trainPort_other (h : (portAt s k).st ≠ .down) : trainPort s k = notePort s k .train :=
  if_neg fun hd => h (portAt_notePort_st.symm.trans hd)

theorem quarantinePort_off (h : (portAt s k).st = .down ∨ (portAt s k).st = .quarantined) :
    quarantinePort s k = notePort s k .quarantine :=
  if_pos (by rwa [portAt_notePort_st])

theorem quarantinePort_on (hd : (portAt s k).st ≠ .down) (hq : (portAt s k).st ≠ .quarantined) :
    quarantinePort s k = quarantine (notePort s k .quarantine) k :=
  if_neg (by rw [portAt_notePort_st]; exact fun h => h.elim hd hq)

theorem releasePort_quarantined (h : (portAt s k).st = .quarantined) : releasePort s k =
    modLink (notePort s k .release) k (fun x => { x with st := .down, lanes := 0, spare := false, failures := 0 }) :=
  if_pos (portAt_notePort_st.trans h)

theorem portEvent_may {f : State → Nat → State} (h : portMay s k e = true) : portEvent e f s k = f (notePort s k e) k := if_pos h

theorem portEvent_late {f : State → Nat → State} (h : ¬ portMay s k e = true) : portEvent e f s k = s := if_neg h

/-! ### Lane failures -/

/-- A port with one more lane failure counted. -/
def laneFailed (s : State) (k : Nat) : State := modLink s k (fun x => { x with failures := x.failures + 1 })

theorem failLane_up (h : (portAt (laneFailed s k) k).st = .up) :
    failLane s k = linkEvent (modLink (laneFailed s k) k (fun x => { x with st := .degraded, spare := true })) k := by
  have hdef : failLane s k = match (portAt (laneFailed s k) k).st with
    | .up => linkEvent (modLink (laneFailed s k) k (fun x => { x with st := .degraded, spare := true })) k
    | .degraded => if (portAt (laneFailed s k) k).lanes = 8 then
        modLink (laneFailed s k) k (fun x => { x with lanes := 4, retraining := true }) else quarantine (laneFailed s k) k
    | .down | .training | .quarantined => laneFailed s k := rfl
  simp only [hdef, h]

theorem failLane_degraded (h : (portAt (laneFailed s k) k).st = .degraded) : failLane s k =
    if (portAt (laneFailed s k) k).lanes = 8 then modLink (laneFailed s k) k (fun x => { x with lanes := 4, retraining := true })
    else quarantine (laneFailed s k) k := by
  unfold failLane
  exact (congrArg (fun st => match st with
    | .up => linkEvent (modLink (laneFailed s k) k (fun x => { x with st := .degraded, spare := true })) k
    | .degraded => if (portAt (laneFailed s k) k).lanes = 8 then
        modLink (laneFailed s k) k (fun x => { x with lanes := 4, retraining := true }) else quarantine (laneFailed s k) k
    | .down | .training | .quarantined => laneFailed s k) h :)
end

/-! ### Answers and requests of peers (R483, R484) -/

section
variable {s : State} {r : OutReq} {found : Nat} {keep : Bool}

theorem answerRequest_refused : answerRequest s r true found keep = peerError s r.ref := if_pos rfl

theorem answerRequest_part {q : PartRef} (h : r.ref = .part q) :
    answerRequest s r false found keep = answerPart s q r.store found (if keep then r.keep else none) := by
  simp only [answerRequest, Bool.false_eq_true, if_false, h]

section
variable {i : Nat} (h : r.ref = .eng i)
include h

theorem answerRequest_engStore (hs : r.store = true) : answerRequest s r false found keep = dropEng s i := by
  simp only [answerRequest, Bool.false_eq_true, if_false, h, answerEng, hs, if_true]

theorem answerRequest_engLoad (hs : r.store = false) : answerRequest s r false found keep =
    modEng s i (fun q => { q with done := true, sys := true, got := lineGet (BitVec.ofNat 512 found) (q.pa % 64) q.bytes }) := by
  simp only [answerRequest, Bool.false_eq_true, if_false, h, answerEng, hs]
end

theorem askPieces_line {q : PeerAsk} (h : rangeOf q.offset ≠ .window) : askPieces q = [q] := if_pos h
end

section
variable {s : State} {src port : Nat} {seq : BitVec 32} {q : PeerAsk}

/-- The stream of requests that comes from a port of a peer, and the sequence number that it goes on with (R485). -/
def peerStream (s : State) (src port : Nat) : LinkIn :=
  (s.inStreams.find? (fun y => y.src == src && y.port == port)).getD (LinkIn.mk src port none [])
def peerNext (s : State) (src port : Nat) : BitVec 32 := ((peerStream s src port).last.map (fun l => l + 1)).getD 0

/-- The state with a request of a peer taken in its stream. -/
def askTaken (s : State) (src port : Nat) (seq : BitVec 32) : State :=
  { s with inStreams := { peerStream s src port with last := some seq } :: s.inStreams.filter (fun z => !(z.src == src && z.port == port)) }

theorem takeAsk_eq : takeAsk s src port seq q =
    if seq ≠ peerNext s src port ∨ askPending s src port = true then s
    else if peerAllowed (askTaken s src port seq) q.offset q.bytes then
      (askPieces q).foldl (fun w x => newEng w (.peer src port seq) 37 0 0 (0, x.offset, x.bytes) (.ask x)) (askTaken s src port seq)
    else keepResponse (askTaken s src port seq) src port seq true 0 := by
  have hnext : peerNext s src port = match (peerStream s src port).last with
      | none => 0
      | some l => l + 1 := by
    unfold peerNext
    cases (peerStream s src port).last <;> rfl
  rw [hnext]
  rfl

theorem takeAsk_later (h : seq ≠ peerNext s src port ∨ askPending s src port = true) : takeAsk s src port seq q = s :=
  takeAsk_eq.trans (if_pos h)

variable (hseq : seq = peerNext s src port) (hp : askPending s src port = false)
include hseq hp

theorem takeAsk_allowed (ha : peerAllowed (askTaken s src port seq) q.offset q.bytes = true) : takeAsk s src port seq q =
    (askPieces q).foldl (fun w x => newEng w (.peer src port seq) 37 0 0 (0, x.offset, x.bytes) (.ask x)) (askTaken s src port seq) :=
  takeAsk_eq.trans ((if_neg fun h => h.elim (· hseq) (fun ht => Bool.noConfusion (ht.symm.trans hp))).trans (if_pos ha))

theorem takeAsk_outside (ha : peerAllowed (askTaken s src port seq) q.offset q.bytes = false) :
    takeAsk s src port seq q = keepResponse (askTaken s src port seq) src port seq true 0 :=
  takeAsk_eq.trans ((if_neg fun h => h.elim (· hseq) (fun ht => Bool.noConfusion (ht.symm.trans hp))).trans (if_neg (Bool.eq_false_iff.mp ha)))
end

/-! ### The steps -/

section
variable {s : State} {p n k : Nat} {v : List Nat} (hs : s.cur = .at p n k v)
include hs

theorem portStep_at (f : State → Nat → State) : portStep f s = .next (f { s with cur := .idle } p) := by simp only [portStep, hs]

theorem execTrainingComplete_at (hst : (portAt { s with cur := .idle } p).st = .training)
    (hm : portMay { s with cur := .idle } p .trained = true) : execTrainingComplete s =
      .next (modLink (notePort { s with cur := .idle } p .trained) p (fun x => { x with
        st := .up, lanes := 8, nport := BitVec.ofNat 4 n, nid := BitVec.ofNat 10 k })) := by
  simp only [execTrainingComplete, hs, hst, hm, and_self, if_true]

theorem execTrainingTimeout_at (hst : (portAt { s with cur := .idle } p).st = .training)
    (hm : portMay { s with cur := .idle } p .trainingTimeout = true) : execTrainingTimeout s =
      .next (modLink (notePort { s with cur := .idle } p .trainingTimeout) p (fun x => { x with st := .down })) :=
  (portStep_at hs _).trans (congrArg _ ((portEvent_may hm).trans (if_pos (portAt_notePort_st.trans hst))))

theorem execRetrainComplete_at : execRetrainComplete s =
    .next (kickPeers (modLink { s with cur := .idle } p (fun x => { x with retraining := false }))) :=
  portStep_at hs fun u i => kickPeers (modLink u i (fun x => { x with retraining := false }))

theorem execFlitCrcError_at (hc : (portAt { s with cur := .idle } p).st = .up ∨ (portAt { s with cur := .idle } p).st = .degraded) :
    execFlitCrcError s = .next (modLink { s with cur := .idle } p (fun x => { x with crcerr := x.crcerr + 1, retry := x.retry + 1 })) :=
  (portStep_at hs _).trans (congrArg _ (if_pos (portCarries_iff.mpr hc)))

section
variable (hc : (portAt { s with cur := .idle } p).st = .up ∨ (portAt { s with cur := .idle } p).st = .degraded)
  (hm : portMay { s with cur := .idle } p .retryFailure = true)
include hc hm

theorem execCrcRetryFailure_at : execCrcRetryFailure s = .next (quarantine (notePort { s with cur := .idle } p .retryFailure) p) :=
  (portStep_at hs _).trans (congrArg _ ((portEvent_may hm).trans (if_pos (portCarries_notePort hc))))

theorem execRequestTimeout_at {st : LinkStream} {r : OutReq} (hst : st ∈ s.streams) (hr : r ∈ st.out) (hvia : r.via = p)
    (hlate : r.sentAt + 100000 ≤ s.timers.getD (p / 3) 0) :
    execRequestTimeout s = .next (quarantine (notePort { s with cur := .idle } p .retryFailure) p) := by
  have hany : s.streams.any (fun x => x.out.any (fun y => y.via == p && decide (y.sentAt + 100000 ≤ s.timers.getD (p / 3) 0))) = true :=
    List.any_eq_true.mpr ⟨st, hst, List.any_eq_true.mpr ⟨r, hr, by rw [hvia, beq_self_eq_true, decide_eq_true hlate]; rfl⟩⟩
  refine (portStep_at hs _).trans (congrArg _ ((portEvent_may hm).trans (if_pos ?_)))
  exact Bool.and_eq_true_iff.mpr ⟨portCarries_notePort hc, hany⟩
end

theorem execPrtbaseWrite_at : execPrtbaseWrite s = .next (writePrtbase { s with cur := .idle } (BitVec.ofNat 64 n)) := by
  simp only [execPrtbaseWrite, hs]

theorem execPeerResponse_at {st : LinkStream} {r : OutReq} (hst : s.streams.find? (fun x => x.peer == p && x.port == n) = some st)
    (hr : st.out.find? (fun y => y.seq == BitVec.ofNat 32 k && !portHolds { s with cur := .idle } y.via) = some r) : execPeerResponse s =
      .next (kickPeers (answerRequest (ackKernels
        { s with cur := .idle, streams := s.streams.map (fun y => if y = st then { y with out := y.out.erase r } else y) } p n r.seq) r
        (v.getD 0 0 != 0) (v.getD 1 0) (v.getD 2 0 != 0))) := by
  simp only [execPeerResponse, hs, hst, hr]

theorem execPeerRequest_arrives (hc : portCarries (portAt { s with cur := .idle } (v.getD 8 0)) = true)
    (hh : portHolds { s with cur := .idle } (v.getD 8 0) = false) :
    execPeerRequest s = .next (takeAsk { s with cur := .idle } p n (BitVec.ofNat 32 k) (peerAsk v)) := by
  simp only [execPeerRequest, hs, hc, hh, Bool.not_false, Bool.and_self, if_true]

theorem execPeerRequest_held (h : ¬ (portCarries (portAt { s with cur := .idle } (v.getD 8 0)) = true ∧
      portHolds { s with cur := .idle } (v.getD 8 0) = false)) : execPeerRequest s = .next { s with cur := .idle } := by
  simp only [execPeerRequest, hs]
  refine if_neg fun hand => h ?_
  rwa [Bool.and_eq_true, Bool.not_eq_true'] at hand
end

theorem writePrtbase_inside {s : State} {w : Word} (h : wholly .hbm (w &&& 0x000F_FFFF_FFFF_E000).toNat 8192 = true) :
    writePrtbase s w = { s with dev := { s.dev with prtbase := w &&& 0x000F_FFFF_FFFF_E000, routes := [] } } := if_pos h

theorem writePrtbase_outside {s : State} {w : Word} (h : wholly .hbm (w &&& 0x000F_FFFF_FFFF_E000).toNat 8192 = false) :
    writePrtbase s w = s := if_neg (Bool.eq_false_iff.mp h)

/-- Settles O56: each command, event and message of a port by what its operation does in each case. -/
theorem linkSteps : Obligations.LinkSteps := by
  intro s p n k v st r u does port carries a down may noted failed hs
  refine ⟨fun h => (execPrtbaseWrite_at hs).trans (congrArg _ (writePrtbase_inside h)),
    fun h => (execPrtbaseWrite_at hs).trans (congrArg _ (writePrtbase_outside h)), fun h => ?down, fun h => ?quarantined,
    fun hd hq => (portStep_at hs _).trans (congrArg _ (quarantinePort_on hd hq)),
    fun h => ⟨fun hm => execTrainingComplete_at hs h hm, fun hm => execTrainingTimeout_at hs h hm⟩,
    fun hm => (portStep_at hs _).trans (congrArg _ (portEvent_may hm)), fun hm => (portStep_at hs _).trans (congrArg _ (portEvent_late hm)),
    failLane_up, fun h hl => (failLane_degraded h).trans (if_pos hl), fun h hl => (failLane_degraded h).trans (if_neg hl),
    execRetrainComplete_at hs, fun hc => execFlitCrcError_at hs hc,
    fun hc hm => ⟨execCrcRetryFailure_at hs hc hm, fun hst hr hvia hl => execRequestTimeout_at hs hc hm hst hr hvia hl⟩, fun hm => ?late,
    quarantine_eq, fun hst hr => ?answered, ?asked⟩
  case down =>
    exact ⟨(portStep_at hs _).trans (congrArg _ (trainPort_down h)), (portStep_at hs _).trans (congrArg _ (quarantinePort_off (.inl h)))⟩
  case quarantined =>
    have hdown : port.st ≠ .down := fun hd => PortState.noConfusion (hd.symm.trans h)
    exact ⟨(portStep_at hs _).trans (congrArg _ (trainPort_other hdown)),
      (portStep_at hs _).trans (congrArg _ (quarantinePort_off (.inr h))),
      (portStep_at hs _).trans (congrArg _ (releasePort_quarantined h))⟩
  case late =>
    exact ⟨(portStep_at hs _).trans (congrArg _ (portEvent_late hm)), (portStep_at hs _).trans (congrArg _ (portEvent_late hm))⟩
  case answered =>
    intro t found
    have answer : exec .peerResponse s = .next (kickPeers (answerRequest t r (v.getD 0 0 != 0) found (v.getD 2 0 != 0))) :=
      execPeerResponse_at hs hst hr
    refine ⟨fun hv => ?_, fun hv => ?_⟩
    · rw [bne_iff_ne.mpr hv] at answer
      exact answer
    · rw [hv, bne_self_eq_false] at answer
      refine ⟨fun q hq => ?_, fun i hi hstore => ?_, fun i hi hstore => ?_⟩
      · refine answer.trans (congrArg _ (congrArg kickPeers ((answerRequest_part hq).trans (congrArg _ ?_))))
        exact ite_congr_of_iff bne_iff_ne rfl rfl
      · exact answer.trans (congrArg _ (congrArg kickPeers (answerRequest_engStore hi hstore)))
      · exact answer.trans (congrArg _ (congrArg kickPeers (answerRequest_engLoad hi hstore)))
  case asked =>
    intro x next ask t arrives
    refine ⟨fun h => ?_, fun ⟨hc, hh⟩ hseq hp => ⟨fun ha => ?_, fun ha => ?_⟩, askPieces_line⟩
    · by_cases ha : arrives
      · exact (execPeerRequest_arrives hs ha.1 ha.2).trans (congrArg _ (takeAsk_later (h.resolve_left (· ha))))
      · exact execPeerRequest_held hs ha
    · exact (execPeerRequest_arrives hs hc hh).trans (congrArg _ (takeAsk_allowed hseq hp ha))
    · exact (execPeerRequest_arrives hs hc hh).trans (congrArg _ (takeAsk_outside hseq hp ha))

end Sys2Proof
end

section
/-! SUPPORT. One step of the schedule (R117): what each kind of entry runs, and the end of a step where nothing is due. -/
namespace Sys2Proof
open Machine

theorem stationInstr_decoded {c : Copy} {slot : BitVec 7} {st : Station} {i : Instr} (hst : c.stations[slot.toNat]? = some st)
    (hd : decode st.op st.cfg = .ok i) : stationInstr c slot = .ok i := by
  simp only [stationInstr, hst, hd]

section
variable {u z : State} {p t pe : Nat} {c : Copy} {x m : MatchedSet} {i : Instr}

/-- The instruction of a set of a copy, run as the set's firing in the prepared state. -/
def fireSet (u : State) (p t pe : Nat) (c : Copy) (m : MatchedSet) (i : Instr) : Host.Outcome State Fault Refusal :=
  exec i { prepare u p t pe c.id m i with cur := .firing p c.id m }

theorem runSet_ok (h : stationInstr c m.slot = .ok i) : runSet u p t pe c m = fireSet u p t pe c m i := by
  simp only [runSet, h, fireSet]

theorem runBehind_alone (h : runSet u p t pe c x = .next z) (hm : stillReady z p c m = false) :
    runBehind u p t pe (some (c, x, m)) = .next z := by
  simp only [runBehind, h, hm, Bool.false_eq_true, if_false]

theorem runBehind_both (h : runSet u p t pe c x = .next z) (hm : stillReady z p c m = true) :
    runBehind u p t pe (some (c, x, m)) = runSet z p t pe c m := by
  simp only [runBehind, h, hm, if_true]

theorem runBehind_fault {f : Fault} (h : runSet u p t pe c x = .fault f) : runBehind u p t pe (some (c, x, m)) = .fault f := by
  simp only [runBehind, h]

theorem runBehind_refused {g : Refusal} (h : runSet u p t pe c x = .refused g) : runBehind u p t pe (some (c, x, m)) = .refused g := by
  simp only [runBehind, h]
end

section
variable {s : State} {rest : List Sched} {p t pe slot : Nat}

theorem entryStep_fire (hs : s.sched = .fire p t pe :: rest) :
    entryStep s = runChosen { s with sched := rest } p t pe (chooseSet { s with sched := rest } p t pe) := by
  simp only [entryStep, hs]

theorem entryStep_behind (hs : s.sched = .behind p t pe :: rest) :
    entryStep s = runBehind { s with sched := rest } p t pe (chooseBehind { s with sched := rest } p t pe) := by
  simp only [entryStep, hs]

section
variable (hs : s.sched = .row p t slot :: rest)
include hs

theorem entryStep_row_none (h : chooseRow { s with sched := rest } p t (BitVec.ofNat 7 slot) = none) :
    entryStep s = .next { s with sched := rest } := by
  simp only [entryStep, hs, h]

theorem entryStep_row {c : Copy} {i : Instr} (h : chooseRow { s with sched := rest } p t (BitVec.ofNat 7 slot) = some c)
    (hi : stationInstr c (BitVec.ofNat 7 slot) = .ok i) :
    entryStep s = exec i { s with sched := rest, cur := .row p c.id (BitVec.ofNat 7 slot) } := by
  simp only [entryStep, hs, h, runStation, hi]
end

/-! ### The end of a step -/

section
variable {w : State}

theorem settleDoubled_rest (h : w.doubled = []) : settleDoubled w = w := by
  rw [settleDoubled, h, List.foldl_nil, ← h]

theorem settleKernels_rest (h : ∀ x ∈ w.kernels, x.due = false ∧ x.finish = .open) : settleKernels w = w := by
  have hdue : w.kernels.filter (fun k => k.due && k.acks.isEmpty && k.lines.isEmpty) = [] :=
    List.filter_eq_nil_iff.mpr fun x hx => by
      obtain ⟨hd, -⟩ := h x hx
      rw [hd, Bool.false_and, Bool.false_and]
      exact Bool.false_ne_true
  have hopen : w.kernels.filter (fun k => k.finish != .open) = [] :=
    List.filter_eq_nil_iff.mpr fun x hx => by
      obtain ⟨-, hf⟩ := h x hx
      rw [hf, bne_self_eq_false]
      exact Bool.false_ne_true
  simp only [settleKernels, hdue, hopen, List.foldl_nil]

theorem settleContexts_rest (h : ∀ x ∈ w.ctxs, x.2.stateDue = false ∧ (x.2.phase = .preempting → x.2.unacked ≠ [])) :
    settleContexts w = w := by
  have hdue : w.ctxs.filter (fun x => x.2.stateDue || (x.2.phase == .preempting && x.2.unacked.isEmpty)) = [] :=
    List.filter_eq_nil_iff.mpr fun x hx => by
      obtain ⟨hd, hu⟩ := h x hx
      rw [hd, Bool.false_or, Bool.and_eq_true, beq_iff_eq, List.isEmpty_iff]
      exact fun ⟨hp, hnil⟩ => hu hp hnil
  simp only [settleContexts, hdue, List.foldl_nil]

theorem settleStep_rest (hd : w.doubled = []) (hk : ∀ x ∈ w.kernels, x.due = false ∧ x.finish = .open)
    (hc : ∀ x ∈ w.ctxs, x.2.stateDue = false ∧ (x.2.phase = .preempting → x.2.unacked ≠ [])) : settleStep (.next w) = .next w :=
  congrArg Host.Outcome.next (by rw [settleDoubled_rest hd, settleKernels_rest hk, settleContexts_rest hc])
end
end

/-- Settles O1: each kind of entry by the branch of `entryStep` that takes it. -/
theorem stepRunsTheDecodedInstruction : Obligations.StepRunsTheDecodedInstruction := by
  intro s w z p t pe slot n k q v i j c x m st st' f g rest u runs fires
  have steps : ∀ {r : Host.Outcome State Fault Refusal}, entryStep s = r → runs r := fun h => congrArg settleStep h
  refine ⟨fun hs => ⟨fun hc hst hd => ?fires, fun hc => ?idle⟩, fun hs => ⟨fun hc hst hd => ?behind, fun hc => ?noneBehind⟩,
    fun hs => ⟨fun hc hst hd => ?row, fun hc => steps (entryStep_row_none hs hc)⟩, ?event, ?unit, ?walk, ?slot, ?engine, ?job, ?accError,
    ?write, ?clock, fun hd hk hc => settleStep_rest hd hk hc⟩
  case fires =>
    refine steps ((entryStep_fire hs).trans ?_)
    rw [hc]
    exact runSet_ok (stationInstr_decoded hst hd)
  case idle =>
    refine steps ((entryStep_fire hs).trans ?_)
    rw [hc]
    rfl
  case behind =>
    have hset : runSet u p t pe c x = fires u x i := runSet_ok (stationInstr_decoded hst hd)
    have hbehind : entryStep s = runBehind u p t pe (some (c, x, m)) := (entryStep_behind hs).trans (congrArg _ hc)
    exact ⟨fun hz hm => steps (hbehind.trans (runBehind_alone (hset.trans hz) hm)),
      fun hz hm hst' hd' => steps (hbehind.trans ((runBehind_both (hset.trans hz) hm).trans (runSet_ok (stationInstr_decoded hst' hd')))),
      fun hf => steps (hbehind.trans (runBehind_fault (hset.trans hf))), fun hg => steps (hbehind.trans (runBehind_refused (hset.trans hg)))⟩
  case noneBehind => exact steps ((entryStep_behind hs).trans (congrArg (runBehind u p t pe) hc))
  case row => exact steps (entryStep_row hs hc (stationInstr_decoded (by rw [BitVec.toNat_ofNat]; exact hst) hd))
  all_goals
    intro hs
    exact steps (by simp only [entryStep, hs, u])

end Sys2Proof
end

section
/-! SUPPORT. Words of the encoding tables (R60 to R73), decoded. -/
namespace Sys2Proof
open Machine

/-- Settles O2: each word is decoded by evaluation. -/
theorem writtenWordsDecode : Obligations.WrittenWordsDecode := by
  unfold Obligations.WrittenWordsDecode
  refine ⟨?_, ?_, ?_, ?_, ?_, ?_, ?_, ?_, ?_, ?_, ?_, ?_, ?_, ?_, ?_, ?_, ?_, ?_, ?_, ?_, ?_, ?_, ?_, ?_, ?_, ?_, ?_, ?_, ?_, ?_, ?_, ?_, ?_, ?_, ?_⟩
  all_goals rfl

end Sys2Proof
end

section
/-! SUPPORT. What cold reset leaves (R5, R17). -/
namespace Sys2Proof
open Machine

/-- Settles O58: the registers are evaluated, the rest is read off `State.reset`. -/
theorem resetState : Obligations.ResetState := by
  unfold Obligations.ResetState
  intro s
  refine ⟨fun p d c => ?devid, ?caps, ?lease, ?dies, ?volts, fun a => rfl, rfl, fun q => rfl, fun c => rfl, rfl, rfl, rfl, rfl,
    rfl, rfl, fun line => rfl⟩
  case devid =>
    have h : readReg s p c d 0 = devid s := rfl
    rw [h]
    decide
  case caps => decide
  case lease => decide
  case dies => decide
  case volts => decide

end Sys2Proof
end

section
/-! SUPPORT. Coherent stores of the device's units (R205, R240, R247): the bytes of memory and of a line, where the latest value of a
line is carried, and what each piece of a store changes. -/
namespace Sys2Proof
open Machine

/-! ### Bytes of memory (R1) -/

section
variable {m : Mem} {a n v i : Nat}

theorem Mem.read_byte (hi : i < n) : m.read a n / 256 ^ i % 256 = (m.byte (a + i)).toNat := by
  induction i generalizing a n with
  | zero =>
    obtain ⟨n, rfl⟩ := Nat.exists_eq_succ_of_ne_zero (Nat.ne_zero_of_lt hi)
    have hb : (m.byte a).toNat < 256 := (m.byte a).isLt
    rw [Mem.read, Nat.pow_zero, Nat.div_one, Nat.add_mul_mod_self_left, Nat.mod_eq_of_lt hb]
    rfl
  | succ i ih =>
    obtain ⟨n, rfl⟩ := Nat.exists_eq_succ_of_ne_zero (Nat.ne_zero_of_lt hi)
    have hb : (m.byte a).toNat < 256 := (m.byte a).isLt
    rw [Mem.read, Nat.pow_succ', ← Nat.div_div_eq_div_mul, Nat.add_mul_div_left _ _ (by decide), Nat.div_eq_of_lt hb, Nat.zero_add,
      ih (Nat.lt_of_succ_lt_succ hi), Nat.add_right_comm, Nat.add_assoc]

theorem Mem.read_lt : m.read a n < 256 ^ n := by
  induction n generalizing a with
  | zero => exact Nat.one_pos
  | succ n ih =>
    have hb : (m.byte a).toNat < 256 := (m.byte a).isLt
    have hr := ih (a := a + 1)
    rw [Mem.read, Nat.pow_succ]
    omega

/-- Byte `i` of a number, the least significant first. -/
def byteOf (v i : Nat) : Nat := v / 256 ^ i % 256

theorem byteOf_mod (hi : i < n) : byteOf (v % 256 ^ n) i = byteOf v i := by
  obtain ⟨k, rfl⟩ := Nat.exists_eq_add_of_lt hi
  rw [byteOf, byteOf, show i + k + 1 = i + (k + 1) by omega, Nat.pow_add, Nat.mod_mul_right_div_self, Nat.pow_succ',
    Nat.mod_mul_right_mod]

theorem byteOf_div {k : Nat} : byteOf (v / 256 ^ k) i = byteOf v (k + i) := by
  rw [byteOf, byteOf, Nat.div_div_eq_div_mul, ← Nat.pow_add]

theorem Mem.byte_write_inside (h : m.wf = true) (hi : i < n) : ((m.write a n v).byte (a + i)).toNat = byteOf v i := by
  rw [← Mem.read_byte hi, Mem.read_write_same h, ← byteOf, byteOf_mod hi]

theorem Mem.byte_write {c : Nat} (h : m.wf = true) :
    ((m.write a n v).byte c).toNat = if a ≤ c ∧ c < a + n then byteOf v (c - a) else (m.byte c).toNat := by
  split
  · next hin =>
    obtain ⟨i, rfl⟩ := Nat.exists_eq_add_of_le hin.1
    rw [Mem.byte_write_inside h (by omega), Nat.add_sub_cancel_left]
  · next hout => rw [Mem.byte_write_outside (by omega)]
end

/-! ### Bytes of a line -/

section
variable {m : Mem} {l o i n v : Nat} {d : LineData}

theorem lineGet_eq_byteOf : lineGet d o 1 = byteOf d.toNat o := by
  rw [lineGet, byteOf, Nat.shiftRight_eq_div_pow, Nat.pow_mul] <;> rfl

theorem line_bytes : (256 : Nat) ^ 64 = 2 ^ 512 := by rw [show (256 : Nat) = 2 ^ 8 from rfl, ← Nat.pow_mul]

theorem lineGet_line (ho : o < 64) : lineGet (m.line l) o 1 = (m.byte (64 * l + o)).toNat := by
  rw [lineGet_eq_byteOf, Mem.line, BitVec.toNat_ofNat, ← line_bytes, Nat.mod_eq_of_lt Mem.read_lt, byteOf, Mem.read_byte ho]

theorem line_setLine (h : m.wf = true) : (m.setLine l d).line l = d := by
  refine BitVec.eq_of_toNat_eq ?_
  rw [Mem.line, Mem.setLine, Mem.read_write_same h, line_bytes, BitVec.toNat_ofNat, Nat.mod_mod, Nat.mod_eq_of_lt d.isLt]

theorem byte_setLine_other {c : Nat} (hc : c / 64 ≠ l) : (m.setLine l d).byte c = m.byte c :=
  Mem.byte_write_outside (by omega)

theorem lineGet_eq_extract : lineGet d o 1 = (d.extractLsb' (8 * o) 8).toNat := by
  rw [lineGet, BitVec.extractLsb'_toNat]

/-- A byte of a line after a store inside it. -/
theorem lineGet_lineSet (hi : i < 64) :
    lineGet (lineSet d o n v) i 1 = if o ≤ i ∧ i < o + n then byteOf v (i - o) else lineGet d i 1 := by
  have hbit : ∀ j < 8, (lineSet d o n v).getLsbD (8 * i + j) =
      if o ≤ i ∧ i < o + n then v.testBit (8 * (i - o) + j) else d.getLsbD (8 * i + j) := by
    intro j hj
    have hlt : 8 * i + j < 512 := by omega
    simp only [lineSet, BitVec.getLsbD_or, BitVec.getLsbD_and, BitVec.getLsbD_not, BitVec.getLsbD_ofNat, hlt, decide_true, Bool.true_and,
      Nat.testBit_shiftLeft, Nat.testBit_two_pow_sub_one, Nat.testBit_mod_two_pow]
    split
    · next hin =>
      have hge : 8 * i + j ≥ 8 * o := by omega
      have hless : 8 * i + j - 8 * o < 8 * n := by omega
      rw [decide_eq_true hge, decide_eq_true hless, show 8 * i + j - 8 * o = 8 * (i - o) + j by omega]
      simp only [Bool.and_self, Bool.not_true, Bool.and_false, Bool.false_or, Bool.true_and]
    · next hout =>
      have hno : (decide (8 * i + j ≥ 8 * o) && decide (8 * i + j - 8 * o < 8 * n)) = false := by
        rw [Bool.and_eq_false_iff, decide_eq_false_iff_not, decide_eq_false_iff_not]
        omega
      rw [← Bool.and_assoc, hno]
      simp only [Bool.not_false, Bool.and_true, Bool.false_and, Bool.or_false]
  rw [lineGet_eq_extract]
  split
  · next hin =>
    refine Nat.eq_of_testBit_eq fun j => ?_
    rw [byteOf, show (256 : Nat) = 2 ^ 8 from rfl, ← Nat.pow_mul, Nat.testBit_mod_two_pow, Nat.testBit_div_two_pow]
    by_cases hj : j < 8
    · rw [← BitVec.getLsbD, BitVec.getLsbD_extractLsb', decide_eq_true hj, Bool.true_and, Bool.true_and, hbit j hj, if_pos hin]
      rw [Nat.add_comm]
    · rw [← BitVec.getLsbD, BitVec.getLsbD_extractLsb', decide_eq_false hj, Bool.false_and, Bool.false_and]
  · next hout =>
    rw [lineGet_eq_extract]
    refine congrArg BitVec.toNat (BitVec.eq_of_getLsbD_eq fun j hj => ?_)
    rw [BitVec.getLsbD_extractLsb', BitVec.getLsbD_extractLsb', hbit j hj, if_neg hout]
end

/-! ### Where the latest value of a line is carried (R240) -/

/-- An L1 line owns a tracked line. -/
def ownsLine (l : Nat) (y : L1Line) : Bool := y.line == l && !y.rep && ownedState y.st

/-- What carries the latest value of a line away from its home: its owner, or a message. -/
def carriedLine (s : State) (l : Nat) : Option LineData :=
  (ownerData s l).or ((s.fromOwner.findSome? (fun m => if m.line = l then plotMsgData m.msg else none)).or
    (s.toHome.findSome? (fun m => if m.line = l then homeMsgData m.msg else none)))

theorem cohLine_eq {s : State} {l : Nat} : cohLine s l = (carriedLine s l).getD (s.mem.line l) := by
  unfold cohLine carriedLine
  cases ownerData s l with
  | some d => rfl
  | none =>
    simp only [Option.none_or]
    cases s.fromOwner.findSome? (fun m => if m.line = l then plotMsgData m.msg else none) with
    | some d => rfl
    | none =>
      simp only [Option.none_or]
      cases s.toHome.findSome? (fun m => if m.line = l then homeMsgData m.msg else none) with
      | some d => rfl
      | none => rfl

/-- An L1 line after an edit of the tracked copies of a line, and the lines of an L1 after it. -/
def editLine (line : Nat) (g : L1Line → Option L1Line) (x : L1Line) : Option L1Line :=
  if x.line = line ∧ x.rep = false then g x else some x
def editLines (line : Nat) (g : L1Line → Option L1Line) (xs : List L1Line) : List L1Line := xs.filterMap (editLine line g)

/-- Under an edit the copies that own a line are those that owned it, with their data changed by `F`. -/
def OwnersKept (line : Nat) (g : L1Line → Option L1Line) (l : Nat) (F : LineData → LineData) : Prop :=
  (∀ x, ownsLine l x = true → ∃ y, editLine line g x = some y ∧ ownsLine l y = true ∧ y.data = F x.data) ∧
    ∀ x y, ownsLine l x = false → editLine line g x = some y → ownsLine l y = false

section
variable {line l : Nat} {g : L1Line → Option L1Line} {F : LineData → LineData} {x y : L1Line}

theorem ownsLine_iff : ownsLine l y = true ↔ (y.line = l ∧ y.rep = false) ∧ ownedState y.st = true := by
  rw [ownsLine, Bool.and_eq_true, Bool.and_eq_true, beq_iff_eq, Bool.not_eq_true']

theorem ownsLine_of_unowned (h : ownedState y.st = false) : ownsLine l y = false := by rw [ownsLine, h, Bool.and_false]

theorem find?_editLines (h : OwnersKept line g l F) (xs : List L1Line) :
    ((editLines line g xs).find? (ownsLine l)).map (fun y => y.data) =
      ((xs.find? (ownsLine l)).map (fun y => y.data)).map F := by
  obtain ⟨hkeep, hnew⟩ := h
  induction xs with
  | nil => rfl
  | cons x xs ih =>
    unfold editLines at ih ⊢
    by_cases hx : ownsLine l x = true
    · obtain ⟨y, hy, hown, hdata⟩ := hkeep x hx
      rw [List.filterMap_cons_some hy, List.find?_cons_of_pos hown, List.find?_cons_of_pos hx]
      exact congrArg some hdata
    · rw [List.find?_cons_of_neg hx]
      cases hy : editLine line g x with
      | none => rw [List.filterMap_cons_none hy]; exact ih
      | some y =>
        rw [List.filterMap_cons_some hy, List.find?_cons_of_neg (Bool.eq_false_iff.mp (hnew x y (Bool.eq_false_iff.mpr hx) hy))]
        exact ih

theorem ownerData_edit {s : State} {ps : List Plot} (h : OwnersKept line g l F)
    (hps : ps = s.plots.map (fun p => { p with l1 := editLines line g p.l1 })) :
    ownerData { s with plots := ps } l = (ownerData s l).map F := by
  rw [hps]
  unfold ownerData
  rw [List.findSome?_map, List.map_findSome?]
  exact congrArg (fun f => List.findSome? f s.plots) (funext fun p => find?_editLines h p.l1)

/-- An edit of one line leaves the owners of any other. -/
theorem ownersKept_other (hl : l ≠ line) (hg : ∀ x y, g x = some y → y.line = x.line) : OwnersKept line g l id := by
  refine ⟨fun x hx => ⟨x, if_neg fun ⟨hxl, _⟩ => hl ((ownsLine_iff.mp hx).1.1.symm.trans hxl), hx, rfl⟩, fun x y hx hy => ?_⟩
  unfold editLine at hy
  split at hy
  · next hxl =>
    refine Bool.eq_false_iff.mpr fun hown => hl ?_
    exact (ownsLine_iff.mp hown).1.1.symm.trans ((hg x y hy).trans hxl.1)
  · obtain rfl := Option.some.inj hy
    exact hx

/-! ### Copies removed, and copies changed (R247, R251) -/

theorem recalled_spec (h : recalled x = some y) : y.line = x.line ∧ ownedState y.st = false := by
  unfold recalled at h
  cases hst : x.st with
  | s | e | m => simp only [hst, reduceCtorEq] at h
  | miA | smD =>
    simp only [hst, Option.some.injEq] at h
    subst h
    exact ⟨rfl, rfl⟩
  | isD | isI | imD | iiA =>
    simp only [hst, Option.some.injEq] at h
    subst h
    exact ⟨rfl, by rw [hst]; rfl⟩

theorem editLine_recalled_unowned (h : editLine line recalled x = some y) : ownsLine line y = false := by
  unfold editLine at h
  split at h
  · exact ownsLine_of_unowned (recalled_spec h).2
  · next hx =>
    obtain rfl := Option.some.inj h
    exact Bool.eq_false_iff.mpr fun hown => hx (ownsLine_iff.mp hown).1

variable {f : LineData → LineData}

theorem unshared_owned (h : ownedState x.st = true) : unshared f x = some { x with data := f x.data } := by
  unfold unshared
  cases hst : x.st with
  | s | smD => rw [hst] at h; exact Bool.noConfusion h
  | e | m | isD | isI | imD | miA | iiA => rfl

theorem unshared_spec (h : unshared f x = some y) : y.line = x.line ∧ (ownedState x.st = false → ownedState y.st = false) := by
  unfold unshared at h
  cases hst : x.st with
  | s => simp only [hst, reduceCtorEq] at h
  | smD =>
    simp only [hst, Option.some.injEq] at h
    subst h
    exact ⟨rfl, fun _ => rfl⟩
  | e | m | isD | isI | imD | miA | iiA =>
    simp only [hst, Option.some.injEq] at h
    subst h
    exact ⟨rfl, id⟩

theorem ownersKept_unshared : OwnersKept line (unshared f) line f := by
  refine ⟨fun x hx => ?_, fun x y hx hy => ?_⟩
  · obtain ⟨hline, howned⟩ := ownsLine_iff.mp hx
    exact ⟨{ x with data := f x.data }, (if_pos hline).trans (unshared_owned howned), hx, rfl⟩
  · unfold editLine at hy
    split at hy
    · next hline =>
      refine ownsLine_of_unowned ((unshared_spec hy).2 (Bool.eq_false_iff.mpr fun howned => ?_))
      exact Bool.noConfusion (hx.symm.trans (ownsLine_iff.mpr ⟨hline, howned⟩))
    · obtain rfl := Option.some.inj hy
      exact hx
end


section
variable {s t : State} {line l : Nat} {f : LineData → LineData}

theorem cohLine_congr (hc : carriedLine t l = carriedLine s l) (hm : t.mem.line l = s.mem.line l) : cohLine t l = cohLine s l := by
  rw [cohLine_eq, cohLine_eq, hc, hm]

theorem carriedLine_congr (hp : t.plots = s.plots) (ho : t.fromOwner = s.fromOwner) (hh : t.toHome = s.toHome) :
    carriedLine t l = carriedLine s l := by
  unfold carriedLine ownerData
  rw [hp, ho, hh]

theorem Mem.line_congr {m m' : Mem} (h : ∀ c, c / 64 = l → m'.byte c = m.byte c) : m'.line l = m.line l := by
  refine BitVec.eq_of_getLsbD_eq fun j hj => ?_
  have hget := congrArg BitVec.toNat (h (64 * l + j / 8) (by omega))
  rw [← lineGet_line (by omega), ← lineGet_line (by omega), lineGet_eq_extract, lineGet_eq_extract] at hget
  have hbit := congrArg (fun b : BitVec 8 => b.getLsbD (j % 8)) (BitVec.eq_of_toNat_eq hget)
  simpa only [BitVec.getLsbD_extractLsb', Nat.mod_lt j (show 8 > 0 by decide), decide_true, Bool.true_and, Nat.div_add_mod] using hbit

/-! ### A line recalled to its home (R247, R256) -/

theorem quiet_spec (h : quiet s line = true) : (∀ m ∈ s.fromOwner, m.line ≠ line) ∧
    ∀ m ∈ s.toHome, m.line = line → homeMsgData m.msg = none := by
  unfold quiet at h
  obtain ⟨h, hHome⟩ := Bool.and_eq_true_iff.mp h
  have hOwner := (Bool.and_eq_true_iff.mp h).2
  refine ⟨fun m hm => bne_iff_ne.mp (List.all_eq_true.mp hOwner m hm), fun m hm hl => ?_⟩
  have hmsg := List.all_eq_true.mp hHome m hm
  rwa [hl, bne_self_eq_false, Bool.false_or, Option.isNone_iff_eq_none] at hmsg

theorem find?_recalled (xs : List L1Line) : (editLines line recalled xs).find? (ownsLine line) = none := by
  refine List.find?_eq_none.mpr fun y hy => ?_
  obtain ⟨x, _, hxy⟩ := List.mem_filterMap.mp hy
  exact Bool.eq_false_iff.mp (editLine_recalled_unowned hxy)

/-- The L1s after an edit of the tracked copies of a line. -/
def editPlots (line : Nat) (g : L1Line → Option L1Line) (ps : List Plot) : List Plot :=
  ps.map (fun p => { p with l1 := editLines line g p.l1 })

/-- Memory after a line's copies are recalled. -/
def recalledMem (s : State) (line : Nat) : Mem :=
  if s.mem.line line = cohLine s line then s.mem else s.mem.setLine line (cohLine s line)

theorem recallLine_eq : recallLine s line =
    { s with
      mem := recalledMem s line, plots := editPlots line recalled s.plots
      dir := (setDir s { dirAt s line with st := .i, sharers := [], owner := 0 }).dir } := by
  unfold recallLine recalledMem
  generalize cohLine s line = d
  unfold setDir
  dsimp only
  split <;> rfl

theorem recallLine_mem : (recallLine s line).mem = recalledMem s line := by rw [recallLine_eq]

theorem carriedLine_recallLine_eq :
    carriedLine (recallLine s line) l = carriedLine { s with plots := editPlots line recalled s.plots } l := by
  rw [recallLine_eq]
  exact carriedLine_congr rfl rfl rfl

theorem carriedLine_recallLine_same (h : quiet s line = true) : carriedLine (recallLine s line) line = none := by
  obtain ⟨hOwner, hHome⟩ := quiet_spec h
  rw [carriedLine_recallLine_eq, carriedLine, Option.or_eq_none_iff, Option.or_eq_none_iff, List.findSome?_eq_none_iff,
    List.findSome?_eq_none_iff]
  refine ⟨?_, fun m hm => if_neg (hOwner m hm), fun m hm => ?_⟩
  · unfold ownerData editPlots
    rw [List.findSome?_map, List.findSome?_eq_none_iff]
    exact fun p _ => congrArg (Option.map _) (find?_recalled p.l1)
  · split
    · next hl => exact hHome m hm hl
    · rfl

theorem carriedLine_editPlots_other {g : L1Line → Option L1Line} (hl : l ≠ line) (hg : ∀ x y, g x = some y → y.line = x.line) :
    ownerData { s with plots := editPlots line g s.plots } l = ownerData s l :=
  (ownerData_edit (ownersKept_other hl hg) rfl).trans Option.map_id_apply

theorem carriedLine_recallLine_other (hl : l ≠ line) : carriedLine (recallLine s line) l = carriedLine s l := by
  rw [carriedLine_recallLine_eq, carriedLine, carriedLine_editPlots_other hl fun _ _ h => (recalled_spec h).1]
  rfl

theorem line_recallLine_same (hw : s.mem.wf = true) : (recallLine s line).mem.line line = cohLine s line := by
  rw [recallLine_mem, recalledMem]
  split
  · next h => exact h
  · exact line_setLine hw

theorem byte_recallLine_other {c : Nat} (hc : c / 64 ≠ line) : (recallLine s line).mem.byte c = s.mem.byte c := by
  rw [recallLine_mem, recalledMem]
  split
  · rfl
  · exact byte_setLine_other hc

/-! ### A line changed where it stands (assumption 13) -/

theorem plotMsgData_patchMsg {m : PlotMsg} : plotMsgData (patchMsg f m) = (plotMsgData m).map f := by
  cases m <;> rfl

/-- What `patchLine` makes of a message on its way to the home of the line. -/
def patchHome (f : LineData → LineData) : HomeMsg → HomeMsg
  | .fwdDone d r => .fwdDone (f d) r
  | .putm d => .putm (f d)
  | x => x

theorem homeMsgData_patchHome {m : HomeMsg} : homeMsgData (patchHome f m) = (homeMsgData m).map f := by
  cases m <;> rfl

/-- The messages that `patchLine` leaves. -/
def patchOwner (line : Nat) (f : LineData → LineData) (m : ToPlot) : ToPlot :=
  if m.line = line then { m with msg := patchMsg f m.msg } else m
def patchToHome (line : Nat) (f : LineData → LineData) (m : ToHome) : ToHome :=
  if m.line = line then { m with msg := patchHome f m.msg } else m

theorem patchOwner_data {m : ToPlot} :
    (if (patchOwner line f m).line = l then plotMsgData (patchOwner line f m).msg else none) =
      (if m.line = l then plotMsgData m.msg else none).map (if l = line then f else id) := by
  unfold patchOwner
  by_cases hm : m.line = line <;> by_cases hl : m.line = l
  · rw [if_pos hm, if_pos hl, if_pos hl, if_pos (hl.symm.trans hm), plotMsgData_patchMsg]
  · rw [if_pos hm, if_neg hl, if_neg hl, Option.map_none]
  · rw [if_neg hm, if_pos hl, if_neg (hl ▸ hm), Option.map_id_apply]
  · rw [if_neg hm, if_neg hl, Option.map_none]

theorem patchToHome_data {m : ToHome} :
    (if (patchToHome line f m).line = l then homeMsgData (patchToHome line f m).msg else none) =
      (if m.line = l then homeMsgData m.msg else none).map (if l = line then f else id) := by
  unfold patchToHome
  by_cases hm : m.line = line <;> by_cases hl : m.line = l
  · rw [if_pos hm, if_pos hl, if_pos hl, if_pos (hl.symm.trans hm), homeMsgData_patchHome]
  · rw [if_pos hm, if_neg hl, if_neg hl, Option.map_none]
  · rw [if_neg hm, if_pos hl, if_neg (hl ▸ hm), Option.map_id_apply]
  · rw [if_neg hm, if_neg hl, Option.map_none]

/-- A grant on its way to an L1 carries the line from then on, since its shared copy is gone. -/
def patchToPlot (line : Nat) (f : LineData → LineData) (d : LineData) (m : ToPlot) : ToPlot :=
  if m.line = line then { m with msg := if m.msg = .grant then .dataM d else patchMsg f m.msg } else m

theorem patchLine_eq : patchLine s line f =
    { s with
      mem := s.mem.setLine line (f (s.mem.line line)), plots := editPlots line (unshared f) s.plots
      dir := (setDir s (unlisted (dirAt s line))).dir
      toPlot := s.toPlot.map (patchToPlot line f (f (s.mem.line line))), fromOwner := s.fromOwner.map (patchOwner line f)
      toHome := s.toHome.map (patchToHome line f) } := by
  unfold patchLine
  generalize f (s.mem.line line) = d
  unfold setDir
  rfl

theorem carriedLine_patchLine_eq : carriedLine (patchLine s line f) l =
    carriedLine { s with
      plots := editPlots line (unshared f) s.plots, fromOwner := s.fromOwner.map (patchOwner line f)
      toHome := s.toHome.map (patchToHome line f) } l := by
  rw [patchLine_eq]
  exact carriedLine_congr rfl rfl rfl

theorem carriedLine_patchLine :
    carriedLine (patchLine s line f) l = (carriedLine s l).map (if l = line then f else id) := by
  have hplots : ownerData { s with plots := editPlots line (unshared f) s.plots } l =
      (ownerData s l).map (if l = line then f else id) := by
    split
    · next h => subst h; exact ownerData_edit ownersKept_unshared rfl
    · next h => exact ownerData_edit (ownersKept_other h fun _ _ h => (unshared_spec h).1) rfl
  rw [carriedLine_patchLine_eq, carriedLine, carriedLine, Option.map_or, Option.map_or, List.findSome?_map, List.findSome?_map,
    List.map_findSome?, List.map_findSome?]
  exact congr (congrArg Option.or hplots) (congr (congrArg Option.or
    (congrArg (fun g => List.findSome? g s.fromOwner) (funext fun _ => patchOwner_data)))
    (congrArg (fun g => List.findSome? g s.toHome) (funext fun _ => patchToHome_data)))

theorem cohLine_patchLine_same (hw : s.mem.wf = true) : cohLine (patchLine s line f) line = f (cohLine s line) := by
  have hm : (patchLine s line f).mem.line line = f (s.mem.line line) := line_setLine hw
  rw [cohLine_eq, cohLine_eq, carriedLine_patchLine, if_pos rfl, hm]
  cases carriedLine s line <;> rfl

theorem carriedLine_patchLine_other (hl : l ≠ line) : carriedLine (patchLine s line f) l = carriedLine s l := by
  rw [carriedLine_patchLine, if_neg hl, Option.map_id_apply]

theorem byte_patchLine_other {c : Nat} (hc : c / 64 ≠ line) : (patchLine s line f).mem.byte c = s.mem.byte c :=
  byte_setLine_other hc
end

/-! ### What a store leaves alone -/

/-- Between two states only memory, the directory, lines and messages of lines, L1s and watches of queues differ. -/
structure OnlyLinesChange (s t : State) : Prop where
  frame : t = { s with
    mem := t.mem, plots := t.plots, dir := t.dir, toHome := t.toHome, toPlot := t.toPlot, fromOwner := t.fromOwner
    hostLines := t.hostLines, queues := t.queues }
  plot : ∀ p, plotAt t p = { plotAt s p with l1 := (plotAt t p).l1 }
  queue : ∀ q, queueAt t q = { queueAt s q with watch := (queueAt t q).watch, hit := (queueAt t q).hit }

section
variable {s t u : State} {line a n v : Nat}

theorem OnlyLinesChange.refl : OnlyLinesChange s s := ⟨rfl, fun _ => rfl, fun _ => rfl⟩

theorem OnlyLinesChange.trans (h : OnlyLinesChange s t) (h' : OnlyLinesChange t u) : OnlyLinesChange s u where
  frame := h'.frame.trans (congrArg (fun x : State => { x with
    mem := u.mem, plots := u.plots, dir := u.dir, toHome := u.toHome, toPlot := u.toPlot, fromOwner := u.fromOwner
    hostLines := u.hostLines, queues := u.queues }) h.frame)
  plot p := (h'.plot p).trans (congrArg (fun x : Plot => { x with l1 := (plotAt u p).l1 }) (h.plot p))
  queue q := (h'.queue q).trans
    (congrArg (fun x : Queue => { x with watch := (queueAt u q).watch, hit := (queueAt u q).hit }) (h.queue q))

theorem OnlyLinesChange.fresh (h : OnlyLinesChange s t) : t.fresh = s.fresh := by rw [h.frame]

/-- Plots and queues that stand as they were stay as they are. -/
theorem OnlyLinesChange.of_eq (hf : t = { s with
      mem := t.mem, dir := t.dir, toHome := t.toHome, toPlot := t.toPlot, fromOwner := t.fromOwner, hostLines := t.hostLines }) :
    OnlyLinesChange s t := by
  have hp : t.plots = s.plots := by rw [hf]
  have hq : t.queues = s.queues := by rw [hf]
  refine ⟨hf.trans ?_, fun p => ?_, fun q => ?_⟩
  · rw [hp, hq]
  · rw [plotAt, hp]; rfl
  · rw [queueAt, hq]; rfl

theorem getD_editPlots {g : L1Line → Option L1Line} (ps : List Plot) (p : Nat) :
    (editPlots line g ps).getD p Plot.reset =
      { ps.getD p Plot.reset with l1 := ((editPlots line g ps).getD p Plot.reset).l1 } := by
  unfold editPlots
  rw [List.getD_eq_getElem?_getD, List.getD_eq_getElem?_getD, List.getElem?_map]
  cases ps[p]? <;> rfl

theorem OnlyLinesChange.of_edit {g : L1Line → Option L1Line} (hp : t.plots = editPlots line g s.plots)
    (hf : t = { s with
      mem := t.mem, plots := t.plots, dir := t.dir, toHome := t.toHome, toPlot := t.toPlot, fromOwner := t.fromOwner }) :
    OnlyLinesChange s t := by
  have hq : t.queues = s.queues := by rw [hf]
  have hh : t.hostLines = s.hostLines := by rw [hf]
  refine ⟨hf.trans ?_, fun p => ?_, fun q => ?_⟩
  · rw [hq, hh]
  · rw [plotAt, plotAt, hp]; exact getD_editPlots s.plots p
  · rw [queueAt, hq]; rfl

theorem onlyLinesChange_recallLine : OnlyLinesChange s (recallLine s line) := by
  rw [recallLine_eq]
  generalize recalledMem s line = m
  exact .of_edit rfl rfl

theorem onlyLinesChange_patchLine {f : LineData → LineData} : OnlyLinesChange s (patchLine s line f) := by
  rw [patchLine_eq]
  exact .of_edit rfl rfl

/-- A store met by the watch of a queue's engine (R370). -/
def watchMet (line : Nat) (x : Nat × Queue) : Nat × Queue :=
  if x.2.watch = some line then (x.1, { x.2 with watch := none, hit := true }) else x

theorem lookupD_watchMet (q : Nat) (xs : List (Nat × Queue)) :
    ∃ w h, lookupD Queue.blank q (xs.map (watchMet line)) = { lookupD Queue.blank q xs with watch := w, hit := h } := by
  induction xs with
  | nil => exact ⟨_, _, rfl⟩
  | cons x xs ih =>
    obtain ⟨k, y⟩ := x
    rw [List.map_cons, watchMet]
    by_cases hk : k = q
    · split <;> exact ⟨_, _, by rw [lookupD, lookupD, if_pos hk, if_pos hk]⟩
    · split <;> rw [lookupD, lookupD, if_neg hk, if_neg hk] <;> exact ih

theorem onlyLinesChange_wakeWatch : OnlyLinesChange s (wakeWatch s line) := by
  refine ⟨rfl, fun _ => rfl, fun q => ?_⟩
  obtain ⟨w, h, hq⟩ := lookupD_watchMet (line := line) q s.queues
  have hat : queueAt (wakeWatch s line) q = { queueAt s q with watch := w, hit := h } := hq
  rw [hat]

theorem onlyLinesChange_noteStore : OnlyLinesChange s (noteStore s line) := by
  unfold noteStore
  split
  · exact .refl
  · exact onlyLinesChange_wakeWatch

theorem onlyLinesChange_ownHostLine : OnlyLinesChange s (ownHostLine s a) := by
  unfold ownHostLine
  split
  · exact .of_eq rfl
  · exact .refl

/-- A line's host copy removed before a store (R257). -/
def hostCleared (s : State) (line : Nat) : State := if (dirAt s line).hostFlag then setHostFlag s line false else s

theorem hostCleared_eq : hostCleared s line = { s with dir := (hostCleared s line).dir } := by
  unfold hostCleared
  split <;> rfl

theorem onlyLinesChange_hostCleared : OnlyLinesChange s (hostCleared s line) := by
  rw [hostCleared_eq]
  exact .of_eq rfl

/-- The state with another memory. -/
def withMem (s : State) (m : Mem) : State := { s with mem := m }

theorem onlyLinesChange_withMem {m : Mem} : OnlyLinesChange s (withMem s m) := .of_eq rfl

theorem hbmWrite_quiet (h : quiet (hostCleared s (a / 64)) (a / 64) = true) : hbmWrite s a n v =
    withMem (recallLine (hostCleared s (a / 64)) (a / 64))
      (((recallLine (hostCleared s (a / 64)) (a / 64)).mem.write a n v).clearMarks a n) := if_pos h

theorem hbmWrite_busy (h : quiet (hostCleared s (a / 64)) (a / 64) ≠ true) : hbmWrite s a n v =
    withMem (patchLine (hostCleared s (a / 64)) (a / 64) (fun d => lineSet d (a % 64) n v))
      ((patchLine (hostCleared s (a / 64)) (a / 64) (fun d => lineSet d (a % 64) n v)).mem.clearMarks a n) := if_neg h

theorem engineStore_eq : engineStore s a n v =
    if rangeOf a == .hbm || rangeOf a == .window then withMem (engineWrite s a n v) ((engineWrite s a n v).mem.setFull a n)
    else engineWrite s a n v := rfl

theorem onlyLinesChange_hbmWrite : OnlyLinesChange s (hbmWrite s a n v) := by
  by_cases h : quiet (hostCleared s (a / 64)) (a / 64) = true
  · rw [hbmWrite_quiet h]
    exact (onlyLinesChange_hostCleared.trans onlyLinesChange_recallLine).trans onlyLinesChange_withMem
  · rw [hbmWrite_busy h]
    exact (onlyLinesChange_hostCleared.trans onlyLinesChange_patchLine).trans onlyLinesChange_withMem

theorem lineWrite_hbm (h : rangeOf a = .hbm) : lineWrite s a n v = hbmWrite (noteStore s (a / 64)) a n v := by
  unfold lineWrite
  simp only [h]

/-- Where the bytes of a range other than HBM are stored at the home, which keeps the lines of L1s and messages as they are. -/
theorem lineWrite_home (h : rangeOf a ≠ .hbm) : ∃ m hl, lineWrite s a n v = { noteStore s (a / 64) with mem := m, hostLines := hl } ∧
    ∀ c, m.byte c = (s.mem.write a n v).byte c := by
  have hmem : (noteStore s (a / 64)).mem = s.mem := by rw [noteStore]; split <;> rfl
  have hown : ∀ t : State, ownHostLine t a = { t with hostLines := (ownHostLine t a).hostLines } := by
    intro t
    unfold ownHostLine
    split <;> rfl
  unfold lineWrite
  cases hr : rangeOf a with
  | hbm => exact absurd hr h
  | host =>
    refine ⟨_, (ownHostLine (noteStore s (a / 64)) a).hostLines, ?_, fun c => rfl⟩
    dsimp only
    rw [hown]
    simp only [hmem]
  | window | peer | unmapped => exact ⟨_, (noteStore s (a / 64)).hostLines, rfl, fun c => by rw [hmem]; rfl⟩

theorem onlyLinesChange_lineWrite : OnlyLinesChange s (lineWrite s a n v) := by
  by_cases h : rangeOf a = .hbm
  · rw [lineWrite_hbm h]
    exact onlyLinesChange_noteStore.trans onlyLinesChange_hbmWrite
  · obtain ⟨m, hl, ht, _⟩ := lineWrite_home (s := s) (n := n) (v := v) h
    rw [ht]
    exact onlyLinesChange_noteStore.trans (.of_eq rfl)

theorem onlyLinesChange_engineWriteFrom (fuel : Nat) : OnlyLinesChange s (engineWriteFrom fuel s a n v) := by
  induction fuel generalizing s a n v with
  | zero => exact .refl
  | succ fuel ih =>
    rw [engineWriteFrom]
    split
    · exact .refl
    · split
      · exact onlyLinesChange_lineWrite
      · exact onlyLinesChange_lineWrite.trans ih

theorem onlyLinesChange_engineStore : OnlyLinesChange s (engineStore s a n v) := by
  rw [engineStore_eq]
  split
  · exact (onlyLinesChange_engineWriteFrom _).trans onlyLinesChange_withMem
  · exact onlyLinesChange_engineWriteFrom _
end

/-! ### The bytes that a store leaves to be read (R205, R240) -/

section
variable {s t : State} {a c l i n v : Nat}

/-- A line lies in one range of R19. -/
theorem rangeOf_line (h : c / 64 = a / 64) : rangeOf c = rangeOf a := by
  have hcut : ∀ k, (c < 64 * k ↔ a < 64 * k) := fun k => by omega
  have hhbm : c < hbmBytes ↔ a < hbmBytes := hcut 0x2_0000_0000
  have hwb : c < windowBase ↔ a < windowBase := hcut 0x4_0000_0000
  have hwe : c < windowEnd ↔ a < windowEnd := hcut 0x4_0008_0000
  have hhb : c < hostBase ↔ a < hostBase := hcut 0x100_0000_0000
  have hhe : c < hostEnd ↔ a < hostEnd := hcut 0x200_0000_0000
  have hpb : c < peerBase ↔ a < peerBase := hcut 0x2000_0000_0000
  have hpe : c < peerEnd ↔ a < peerEnd := hcut 0x4000_0000_0000
  simp only [rangeOf, ← Nat.not_lt, hhbm, hwb, hwe, hhb, hhe, hpb, hpe]

theorem engineRead_one : engineRead s c 1 =
    if rangeOf c = .hbm then lineGet (cohLine s (c / 64)) (c % 64) 1
    else if rangeOf c = .peer then (Config.peerByte s.fresh c).toNat else (s.mem.byte c).toNat := rfl

theorem engineRead_succ : engineRead s a (n + 1) = engineRead s a 1 + 256 * engineRead s (a + 1) n := rfl

theorem engineRead_congr (hf : t.fresh = s.fresh) (hl : cohLine t (c / 64) = cohLine s (c / 64)) (hm : t.mem.byte c = s.mem.byte c) :
    engineRead t c 1 = engineRead s c 1 := by
  rw [engineRead_one, engineRead_one, hf, hl, hm]

theorem carriedLine_hostCleared : carriedLine (hostCleared s i) l = carriedLine s l := by
  rw [hostCleared_eq]
  exact carriedLine_congr rfl rfl rfl

theorem hostCleared_mem : (hostCleared s i).mem = s.mem := by rw [hostCleared_eq]

theorem cohLine_hostCleared : cohLine (hostCleared s i) l = cohLine s l :=
  cohLine_congr carriedLine_hostCleared (by rw [hostCleared_mem])

theorem cohLine_noteStore : cohLine (noteStore s i) l = cohLine s l := by
  unfold noteStore
  split <;> rfl

theorem noteStore_mem : (noteStore s i).mem = s.mem := by
  unfold noteStore
  split <;> rfl

theorem carriedLine_withMem {m : Mem} : carriedLine (withMem s m) l = carriedLine s l := carriedLine_congr rfl rfl rfl

theorem withMem_mem {m : Mem} : (withMem s m).mem = m := rfl

theorem Mem.byte_clearMarks {m : Mem} : (m.clearMarks a n).byte c = m.byte c := rfl

theorem Mem.line_clearMarks {m : Mem} : (m.clearMarks a n).line l = m.line l := Mem.line_congr fun _ _ => Mem.byte_clearMarks

theorem cohLine_clearMarks : cohLine (withMem s (s.mem.clearMarks a n)) l = cohLine s l :=
  cohLine_congr carriedLine_withMem Mem.line_clearMarks

theorem byte_hbmWrite_other (hc : c / 64 ≠ a / 64) (hn : a % 64 + n ≤ 64) : (hbmWrite s a n v).mem.byte c = s.mem.byte c := by
  by_cases h : quiet (hostCleared s (a / 64)) (a / 64) = true
  · rw [hbmWrite_quiet h, withMem_mem, Mem.byte_clearMarks, Mem.byte_write_outside (by omega), byte_recallLine_other hc,
      hostCleared_mem]
  · rw [hbmWrite_busy h, withMem_mem, Mem.byte_clearMarks, byte_patchLine_other hc, hostCleared_mem]

theorem carriedLine_hbmWrite_other (hl : l ≠ a / 64) : carriedLine (hbmWrite s a n v) l = carriedLine s l := by
  by_cases h : quiet (hostCleared s (a / 64)) (a / 64) = true
  · rw [hbmWrite_quiet h, carriedLine_withMem, carriedLine_recallLine_other hl, carriedLine_hostCleared]
  · rw [hbmWrite_busy h, carriedLine_withMem, carriedLine_patchLine_other hl, carriedLine_hostCleared]

theorem cohLine_hbmWrite_other (hl : l ≠ a / 64) (hn : a % 64 + n ≤ 64) : cohLine (hbmWrite s a n v) l = cohLine s l :=
  cohLine_congr (carriedLine_hbmWrite_other hl) (Mem.line_congr fun _ hc => byte_hbmWrite_other (hc ▸ hl) hn)

/-- The line written, at rest: its home alone has it, with the bytes stored. -/
theorem cohLine_hbmWrite_quiet (hw : s.mem.wf = true) (h : quiet (hostCleared s (a / 64)) (a / 64) = true) (hi : i < 64) :
    lineGet (cohLine (hbmWrite s a n v) (a / 64)) i 1 =
      if a % 64 ≤ i ∧ i < a % 64 + n then byteOf v (i - a % 64) else lineGet (cohLine s (a / 64)) i 1 := by
  have hw' : (hostCleared s (a / 64)).mem.wf = true := by rw [hostCleared_mem]; exact hw
  have hrec : (recallLine (hostCleared s (a / 64)) (a / 64)).mem.line (a / 64) = cohLine s (a / 64) :=
    (line_recallLine_same hw').trans cohLine_hostCleared
  have hbyte : lineGet (cohLine (hbmWrite s a n v) (a / 64)) i 1 =
      (((recallLine (hostCleared s (a / 64)) (a / 64)).mem.write a n v).byte (64 * (a / 64) + i)).toNat := by
    rw [hbmWrite_quiet h, cohLine_eq, carriedLine_withMem, carriedLine_recallLine_same h, Option.getD_none, withMem_mem,
      Mem.line_clearMarks, lineGet_line hi]
  rw [hbyte, Mem.byte_write (recallLine_wf _ _ hw'), ← lineGet_line hi, hrec]
  refine ite_congr_of_iff (by omega) (congrArg (byteOf v) (by omega)) rfl

/-- The line written, wherever it stands (assumption 13). -/
theorem cohLine_hbmWrite_busy (hw : s.mem.wf = true) (h : quiet (hostCleared s (a / 64)) (a / 64) ≠ true) (hi : i < 64) :
    lineGet (cohLine (hbmWrite s a n v) (a / 64)) i 1 =
      if a % 64 ≤ i ∧ i < a % 64 + n then byteOf v (i - a % 64) else lineGet (cohLine s (a / 64)) i 1 := by
  have hw' : (hostCleared s (a / 64)).mem.wf = true := by rw [hostCleared_mem]; exact hw
  have hline : cohLine (hbmWrite s a n v) (a / 64) = lineSet (cohLine s (a / 64)) (a % 64) n v := by
    rw [hbmWrite_busy h, cohLine_clearMarks, cohLine_patchLine_same hw', cohLine_hostCleared]
  rw [hline, lineGet_lineSet hi]

/-- A store inside one line, for any range: what each byte then reads as. -/
theorem engineRead_lineWrite (hw : s.mem.wf = true) (hn : a % 64 + n ≤ 64) : engineRead (lineWrite s a n v) c 1 =
    if (a ≤ c ∧ c < a + n) ∧ rangeOf c ≠ .peer then byteOf v (c - a) else engineRead s c 1 := by
  have hfresh : (lineWrite s a n v).fresh = s.fresh := onlyLinesChange_lineWrite.fresh
  by_cases hr : rangeOf a = .hbm
  · have hw' : (noteStore s (a / 64)).mem.wf = true := by rw [noteStore_mem]; exact hw
    rw [lineWrite_hbm hr] at hfresh ⊢
    by_cases hc : c / 64 = a / 64
    · have hrc : rangeOf c = .hbm := (rangeOf_line hc).trans hr
      have hline := if hq : quiet (hostCleared (noteStore s (a / 64)) (a / 64)) (a / 64) = true
        then cohLine_hbmWrite_quiet (n := n) (v := v) hw' hq (Nat.mod_lt c (show 64 > 0 by decide))
        else cohLine_hbmWrite_busy (n := n) (v := v) hw' hq (Nat.mod_lt c (show 64 > 0 by decide))
      rw [engineRead_one, engineRead_one, if_pos hrc, if_pos hrc, hc, hline, cohLine_noteStore]
      refine ite_congr_of_iff ⟨fun h => ⟨by omega, by rw [hrc]; decide⟩, fun h => by omega⟩ (congrArg (byteOf v) (by omega)) rfl
    · rw [if_neg (by omega)]
      refine engineRead_congr hfresh ((cohLine_hbmWrite_other hc hn).trans cohLine_noteStore) ?_
      rw [byte_hbmWrite_other hc hn, noteStore_mem]
  · obtain ⟨m, hl, ht, hm⟩ := lineWrite_home (s := s) (n := n) (v := v) hr
    have hbyte : (lineWrite s a n v).mem.byte c = (s.mem.write a n v).byte c := by rw [ht]; exact hm c
    by_cases hin : a ≤ c ∧ c < a + n
    · have hrc : rangeOf c = rangeOf a := rangeOf_line (by omega)
      rw [engineRead_one, engineRead_one, hrc, if_neg hr, if_neg hr, hbyte, hfresh, Mem.byte_write hw, if_pos hin]
      by_cases hp : rangeOf a = .peer
      · rw [if_pos hp, if_pos hp, if_neg fun h => h.2 hp]
      · rw [if_neg hp, if_pos ⟨hin, hp⟩]
    · rw [if_neg fun h => hin h.1]
      by_cases hrc : rangeOf c = .hbm
      · have hlc : c / 64 ≠ a / 64 := fun h => hr ((rangeOf_line h).symm.trans hrc)
        have hcoh : cohLine (lineWrite s a n v) (c / 64) = cohLine s (c / 64) := by
          refine cohLine_congr ?_ (Mem.line_congr fun d hd => ?_)
          · rw [ht]
            unfold noteStore
            split <;> exact carriedLine_congr rfl rfl rfl
          · rw [ht]
            exact (hm d).trans (Mem.byte_write_outside (by omega))
        rw [engineRead_one, engineRead_one, if_pos hrc, if_pos hrc, hcoh]
      · rw [engineRead_one, engineRead_one, if_neg hrc, if_neg hrc, hfresh, hbyte, Mem.byte_write_outside (by omega)]

/-- A store of any extent, cut at the lines. -/
theorem engineRead_engineWriteFrom (fuel : Nat) (hw : s.mem.wf = true) (hf : a % 64 + n ≤ 64 * fuel) :
    engineRead (engineWriteFrom fuel s a n v) c 1 =
      if (a ≤ c ∧ c < a + n) ∧ rangeOf c ≠ .peer then byteOf v (c - a) else engineRead s c 1 := by
  induction fuel generalizing s a n v with
  | zero =>
    rw [if_neg (by omega)]
    rfl
  | succ fuel ih =>
    rw [engineWriteFrom]
    split
    · rw [if_neg (by omega)]
    · split
      · exact engineRead_lineWrite hw (by omega)
      · rw [ih (lineWrite_wf _ _ _ _ hw) (by omega), engineRead_lineWrite hw (by omega), byteOf_div]
        by_cases hp : rangeOf c = .peer
        · rw [if_neg fun h => h.2 hp, if_neg fun h => h.2 hp, if_neg fun h => h.2 hp]
        · by_cases hlow : a + (64 - a % 64) ≤ c
          · rw [if_neg (c := (a ≤ c ∧ c < a + (64 - a % 64)) ∧ _) (by omega)]
            exact ite_congr_of_iff (and_congr_left' (by omega)) (congrArg (byteOf v) (by omega)) rfl
          · rw [if_neg (c := (a + (64 - a % 64) ≤ c ∧ _) ∧ _) (by omega)]
            exact ite_congr_of_iff (and_congr_left' (by omega)) rfl rfl

theorem engineRead_engineWrite (hw : s.mem.wf = true) : engineRead (engineWrite s a n v) c 1 =
    if (a ≤ c ∧ c < a + n) ∧ rangeOf c ≠ .peer then byteOf v (c - a) else engineRead s c 1 :=
  engineRead_engineWriteFrom _ hw (by omega)

theorem Mem.byte_setFull {m : Mem} : (m.setFull a n).byte c = m.byte c := rfl

theorem engineRead_setFull : engineRead (withMem s (s.mem.setFull a n)) c 1 = engineRead s c 1 :=
  engineRead_congr rfl (cohLine_congr carriedLine_withMem (Mem.line_congr fun _ _ => Mem.byte_setFull)) Mem.byte_setFull

theorem engineRead_engineStore (hw : s.mem.wf = true) : engineRead (engineStore s a n v) c 1 =
    if (a ≤ c ∧ c < a + n) ∧ rangeOf c ≠ .peer then byteOf v (c - a) else engineRead s c 1 := by
  rw [← engineRead_engineWrite hw, engineStore_eq]
  split
  · exact engineRead_setFull
  · rfl

/-- Bytes that are those of a number read as that number. -/
theorem engineRead_of_bytes (h : ∀ c, a ≤ c → c < a + n → engineRead t c 1 = byteOf v (c - a)) :
    engineRead t a n = v % 256 ^ n := by
  induction n generalizing a v with
  | zero => exact (Nat.mod_one v).symm
  | succ n ih =>
    have hrest : engineRead t (a + 1) n = v / 256 % 256 ^ n := ih fun c hc hcn => by
      rw [h c (by omega) (by omega), ← Nat.pow_one 256, byteOf_div]
      exact congrArg (byteOf v) (by omega)
    rw [engineRead_succ, h a (Nat.le_refl a) (by omega), hrest, Nat.sub_self, Nat.pow_succ', Nat.mod_mul, byteOf, Nat.pow_zero, Nat.div_one]

theorem full_setFull {m : Mem} (h : a ≤ c ∧ c < a + n) : (m.setFull a n).full c = true := by
  rw [Mem.full, Bool.not_eq_true', ← Bool.not_eq_true, List.contains_iff_mem, Mem.setFull, List.mem_filter]
  rintro ⟨_, hout⟩
  simp only [Bool.not_eq_true', Bool.and_eq_false_iff, decide_eq_false_iff_not] at hout
  omega

theorem full_engineStore (hr : rangeOf a = .hbm ∨ rangeOf a = .window) (h : a ≤ c ∧ c < a + n) :
    (engineStore s a n v).mem.full c = true := by
  have hdev : (rangeOf a == .hbm || rangeOf a == .window) = true := by
    rcases hr with hr | hr <;> rw [hr] <;> rfl
  rw [engineStore_eq, if_pos hdev]
  exact full_setFull h
end

/-- Settles O60: a store is a run of stores inside one line; each leaves its bytes with whatever carries the line's latest value
then, and no other byte. -/
theorem storeFrame : Obligations.StoreFrame := by
  unfold Obligations.StoreFrame
  intro s a n v hw t
  obtain ⟨hframe, hplot, hqueue⟩ : OnlyLinesChange s t := onlyLinesChange_engineStore
  refine ⟨fun hpeer => engineRead_of_bytes fun c hc hcn => ?_, fun c hc => ?_, fun hr c hc hcn => full_engineStore hr ⟨hc, hcn⟩,
    engineStore_wf s a n v hw, hframe, hplot, hqueue⟩
  · exact (engineRead_engineStore hw).trans (if_pos ⟨⟨hc, hcn⟩, hpeer c hc hcn⟩)
  · exact (engineRead_engineStore hw).trans (if_neg (by omega))

end Sys2Proof
end

section
/-! SUPPORT. What a computing firing leaves alone (R9, R62, R64, R91): everything that O59 names but the bytes of a peer, which are an
input of the model. -/
namespace Sys2Proof
open Machine

/-- What a computing firing on plot `p` may change; of contexts, those that `P` holds of. -/
structure ComputeFrame (P : BitVec 12 → Prop) (p : Nat) (s t : State) : Prop where
  frame : t = { s with
    cur := t.cur, fresh := t.fresh, flights := t.flights, rows := t.rows, homeWaiters := t.homeWaiters, engReqs := t.engReqs
    plots := t.plots, ctxs := t.ctxs, doubled := t.doubled, tlbis := t.tlbis, regWrites := t.regWrites }
  plot : ∀ q, q ≠ p → plotAt t q = plotAt s q
  lines : t.plots.map (fun x => x.l1) = s.plots.map (fun x => x.l1)
  ctx : ∀ c, ¬ P c → ctxAt t c = ctxAt s c
  regs : ∀ c, (ctxAt t c).regs = { (ctxAt s c).regs with csec := (ctxAt t c).regs.csec }

section
variable {P : BitVec 12 → Prop} {p : Nat} {s t u : State}

theorem ComputeFrame.trans (h : ComputeFrame P p s t) (h' : ComputeFrame P p t u) : ComputeFrame P p s u where
  frame := h'.frame.trans (congrArg (fun x : State => { x with
    cur := u.cur, fresh := u.fresh, flights := u.flights, rows := u.rows, homeWaiters := u.homeWaiters, engReqs := u.engReqs
    plots := u.plots, ctxs := u.ctxs, doubled := u.doubled, tlbis := u.tlbis, regWrites := u.regWrites }) h.frame)
  plot q hq := (h'.plot q hq).trans (h.plot q hq)
  lines := h'.lines.trans h.lines
  ctx c hc := (h'.ctx c hc).trans (h.ctx c hc)
  regs c := (h'.regs c).trans (congrArg (fun r : CtxRegs => { r with csec := (ctxAt u c).regs.csec }) (h.regs c))

/-- What stands beside plots and contexts. -/
theorem ComputeFrame.of_rest (hf : t = { s with
      cur := t.cur, fresh := t.fresh, flights := t.flights, rows := t.rows, homeWaiters := t.homeWaiters, engReqs := t.engReqs
      doubled := t.doubled, tlbis := t.tlbis, regWrites := t.regWrites }) : ComputeFrame P p s t := by
  have hp : t.plots = s.plots := by rw [hf]
  have hc : t.ctxs = s.ctxs := by rw [hf]
  refine ⟨hf.trans ?_, fun q _ => ?_, by rw [hp], fun c _ => ?_, fun c => ?_⟩
  · rw [hp, hc]
  · rw [plotAt, hp]; rfl
  · rw [ctxAt, hc]; rfl
  · rw [ctxAt, hc]; rfl

theorem ComputeFrame.refl : ComputeFrame P p s s := .of_rest rfl

theorem map_l1_modify {f : Plot → Plot} (hf : ∀ x, (f x).l1 = x.l1) (xs : List Plot) (p : Nat) :
    (xs.modify p f).map (fun x => x.l1) = xs.map (fun x => x.l1) := by
  refine List.ext_getElem? fun j => ?_
  rw [List.getElem?_map, List.getElem?_map, List.getElem?_modify]
  cases xs[j]? with
  | none => rfl
  | some x =>
    refine congrArg some ?_
    show (if p = j then f x else x).l1 = x.l1
    split
    · exact hf x
    · rfl

theorem computeFrame_modPlot {f : Plot → Plot} (hf : ∀ x, (f x).l1 = x.l1) : ComputeFrame P p s (modPlot s p f) where
  frame := rfl
  plot q hq := plotAt_modPlot_other s p q f hq
  lines := map_l1_modify hf s.plots p
  ctx _ _ := rfl
  regs _ := rfl

theorem computeFrame_modCtx {c : BitVec 12} {f : Ctx → Ctx} (hP : P c)
    (hf : ∀ x, (f x).regs = { x.regs with csec := (f x).regs.csec }) : ComputeFrame P p s (modCtx s c f) where
  frame := rfl
  plot _ _ := rfl
  lines := rfl
  ctx d hd := ctxAt_modCtx_other s c d f fun h => hd (h ▸ hP)
  regs d := by
    by_cases h : d = c
    · subst h; rw [ctxAt_modCtx]; exact hf _
    · rw [ctxAt_modCtx_other s c d f h]

/-! ### The pieces of a firing -/

variable {b : BlockId} {m : MatchedSet} {h : Head}

theorem computeFrame_takeSet : ComputeFrame P p s (takeSet s p b m) := by
  unfold takeSet modCopy modBlocks
  exact computeFrame_modPlot fun _ => rfl

theorem computeFrame_spent {k : Nat} : ComputeFrame P p s { s with cur := .idle, fresh := k } := .of_rest rfl

theorem computeFrame_countSet {c : BitVec 12} {yld : Bool} (hP : P c) : ComputeFrame P p s (countSet s p c yld) := by
  unfold countSet modCount
  exact computeFrame_modCtx hP fun _ => rfl

theorem computeFrame_consume (hP : P b.ctx) : ComputeFrame P p s (consume s p b m) := by
  unfold consume
  exact (computeFrame_takeSet.trans computeFrame_spent).trans (computeFrame_countSet hP)

theorem computeFrame_sendAll {xs : List Send} : ComputeFrame P p s (sendAll s p b xs) := .of_rest rfl

theorem computeFrame_sendEntry {edge : EdgeKind} {q : Nat} {slot : BitVec 7} {port : BitVec 2} {k : Token} :
    ComputeFrame P p s (sendEntry s edge q b slot port k) := .of_rest rfl

theorem computeFrame_modGroup {g : BitVec 3} {f : Group → Group} : ComputeFrame P p s (modGroup s p g f) := by
  unfold modGroup modUnit
  exact computeFrame_modPlot fun _ => rfl

theorem computeFrame_freshHandlerWave {c : BitVec 12} {g : BitVec 3} {thread : BitVec 10} :
    ComputeFrame P p s (freshHandlerWave s p c g thread) := by
  unfold freshHandlerWave
  exact computeFrame_modPlot fun _ => rfl

theorem computeFrame_dropGroup {g : BitVec 3} {ws : List HomeWaiter} : ComputeFrame P p s (modPlot s p (Plot.dropGroup ws p g)) :=
  computeFrame_modPlot fun _ => rfl

theorem computeFrame_discard {g : BitVec 3} : ComputeFrame P p s (dropFlights (mutePending s p g) p g) := .of_rest rfl

theorem computeFrame_killGroup {g : BitVec 3} {cause : BitVec 8} : ComputeFrame P p s (killGroup s p g cause) := by
  unfold killGroup
  exact (computeFrame_discard.trans computeFrame_dropGroup).trans computeFrame_modGroup

theorem computeFrame_requestStop {c : BitVec 12} {flags : BitVec 16} {cause : BitVec 8} {freeze kill : Bool} (hP : P c) :
    ComputeFrame P p s (requestStop s c flags cause freeze kill) := by
  unfold requestStop
  refine computeFrame_modCtx hP fun x => ?_
  dsimp only
  split <;> rfl

theorem computeFrame_csec {c : BitVec 12} {r : CauseRecord} (hP : P c) :
    ComputeFrame P p s (modCtx s c (fun x => { x with regs := { x.regs with csec := r } })) :=
  computeFrame_modCtx hP fun _ => rfl

theorem computeFrame_doubled {l : List Nat} : ComputeFrame P p s { s with doubled := l } := .of_rest rfl

theorem computeFrame_doubleFault {c : BitVec 12} {record : Nat} {r : CauseRecord} (hP : P c) :
    ComputeFrame P p s (doubleFault s c record r) := by
  unfold doubleFault
  exact (computeFrame_doubled.trans (computeFrame_csec hP)).trans (computeFrame_requestStop hP)

theorem computeFrame_deliverFault {g : BitVec 3} {e : FaultInfo} {slot : BitVec 8} {env : Envelope} {kept : Kept}
    (hP : ∀ x, groupAt s p g = some x → P x.ctx) : ComputeFrame P p s (deliverFault s p g e slot b env kept).1 := by
  obtain ⟨-, hd⟩ | ⟨x, hx, ⟨-, hd⟩ | ⟨-, hd⟩ | ⟨-, r, hd⟩ | ⟨-, hd⟩ | ⟨n, r, -, hd⟩⟩ := deliverFault_cases s p g e slot b env kept
  · rw [hd]; exact .refl
  · rw [hd]; exact .refl
  · rw [hd]; exact computeFrame_killGroup
  · rw [hd]; exact computeFrame_doubleFault (hP x hx)
  · rw [hd]; exact .refl
  · rw [hd]
    exact (computeFrame_modGroup.trans computeFrame_freshHandlerWave).trans computeFrame_sendEntry

theorem computeFrame_faulted {e : FaultInfo} (hP : ∀ x, groupAt s p (setSlot m) = some x → P x.ctx) :
    ComputeFrame P p s (faultedFrom s p b m h e) := by
  have hd := (computeFrame_spent (P := P) (p := p) (s := s) (k := s.fresh + 64)).trans
    (computeFrame_deliverFault (e := e) (slot := 0#1 ++ m.slot) (b := b) (g := setSlot m) (env := envOf m.toks)
      (kept := .set b m) hP)
  unfold faultedFrom faultSet
  dsimp only
  split
  · exact hd.trans computeFrame_takeSet
  · exact hd
end

section
variable {p : Nat} {s t : State} {b : BlockId} {m : MatchedSet} {h : Head}

/-- A fault's delivery is no firing and draws no free value. -/
theorem deliverFault_cur_fresh {g : BitVec 3} {e : FaultInfo} {slot : BitVec 8} {env : Envelope} {kept : Kept} :
    (deliverFault s p g e slot b env kept).1.cur = s.cur ∧ (deliverFault s p g e slot b env kept).1.fresh = s.fresh := by
  obtain ⟨-, hd⟩ | ⟨x, -, ⟨-, hd⟩ | ⟨-, hd⟩ | ⟨-, r, hd⟩ | ⟨-, hd⟩ | ⟨n, r, -, hd⟩⟩ := deliverFault_cases s p g e slot b env kept
  all_goals rw [hd]; exact ⟨rfl, rfl⟩

theorem faulted_cur_fresh {e : FaultInfo} :
    (faultedFrom s p b m h e).cur = .idle ∧ (faultedFrom s p b m h e).fresh = s.fresh + 64 := by
  have hd := deliverFault_cur_fresh (s := { s with cur := .idle, fresh := s.fresh + 64 }) (p := p) (g := setSlot m) (e := e)
    (slot := 0#1 ++ m.slot) (b := b) (env := envOf m.toks) (kept := .set b m)
  unfold faultedFrom faultSet
  dsimp only
  split <;> exact hd

/-- The contexts that a firing may touch: that of its block, and that of the group of its set. -/
def firingCtx (s : State) (p : Nat) (b : BlockId) (m : MatchedSet) (c : BitVec 12) : Prop :=
  c = b.ctx ∨ ∃ x, groupAt s p (setSlot m) = some x ∧ x.ctx = c

/-- What every computing firing leaves: its frame, no present step, and 64 free values spent. -/
def Computed (s t : State) (p : Nat) (b : BlockId) (m : MatchedSet) : Prop :=
  ComputeFrame (firingCtx s p b m) p s t ∧ t.cur = .idle ∧ t.fresh = s.fresh + 64

theorem computed_faulted {e : FaultInfo} : Computed s (faultedFrom s p b m h e) p b m :=
  ⟨computeFrame_faulted fun x hx => .inr ⟨x, hx, rfl⟩, faulted_cur_fresh⟩

theorem computed_sent {xs : List Send} : Computed s (sentFrom s p b m xs) p b m :=
  ⟨(computeFrame_consume (.inl rfl)).trans computeFrame_sendAll, rfl, rfl⟩

theorem computed_consume : Computed s (consume s p b m) p b m := ⟨computeFrame_consume (.inl rfl), rfl, rfl⟩

theorem computed_fire {body : FireCtx → Except FaultInfo (List Send)} (hs : s.cur = .firing p b m)
    (ht : fire h body s = .next t) : Computed s t p b m := by
  obtain ⟨hno, -⟩ | ⟨p', b', m', hc, hcase⟩ := fireWith_cases ht
  · exact absurd hs (hno p b m)
  · obtain ⟨rfl, rfl, rfl⟩ := Cur.firing.inj (hs.symm.trans hc)
    obtain ⟨-, rfl⟩ | ⟨-, rfl⟩ | ⟨-, ⟨e, -, rfl⟩ | ⟨u, xs, hb, rfl⟩⟩ := hcase
    · exact computed_faulted
    · exact computed_consume
    · exact computed_faulted
    · cases hy : body (fireCtxOf s p b m h) with
      | error e => rw [hy] at hb; cases hb
      | ok ys =>
        rw [hy] at hb
        obtain ⟨rfl, rfl⟩ := Prod.mk.inj (Except.ok.inj hb)
        exact computed_sent

theorem computed_markReturns {n : Nat} (ht : Computed s t p b m) : Computed s (markReturns n t) p b m :=
  ⟨ht.1.trans (.of_rest rfl), ht.2⟩

/-- A computing instruction is a firing that sends tokens, `wadv` through a return port (R471). -/
theorem exec_of_computes {i : Instr} (hi : computes i = true) :
    (∃ h body, ∀ s, exec i s = fire h body s) ∨ ∃ h body, ∀ s, exec i s = throughPort s (fire h body s) := by
  cases i with
  | mov | sink | steer | select | gate | const | lpent | lpnext | lpexit | tagrd | tagwr | add | sub | mul | mulh | mad | div
    | rem | neg | abs | min | max | and | or | xor | andn | shl | shr | sar | rotl | cmp | clz | ctz | popc | brev | sext |
    zext | adds | subs | lea | lut4 | bext | bins | bsplit | bjoin | dec | pext | pdep | bsel | pkb | pkm | pks | pkx | pki |
    pkr | pkp | pkl | pkscan | fadd | fsub | fmul | fma | fmin | fmax | fcmp | fabs | fneg | fcls | frcp | frsq | fex2 | flg2
    | fsin | fcos | ftanh | fdiv | fsqrt | cvt | frnd | fscl | plgat | plsct | qnt | dqnt | bsc | agen =>
    refine .inl ⟨?_, ?_, fun s => ?_⟩
    rotate_left 2
    · unfold exec
      exact rfl
  | wadv => exact .inr ⟨_, _, fun _ => rfl⟩
  | _ => exact absurd hi Bool.false_ne_true

theorem computed_exec {i : Instr} (hi : computes i = true) (hs : s.cur = .firing p b m) (ht : exec i s = .next t) :
    Computed s t p b m := by
  obtain ⟨h, body, he⟩ | ⟨h, body, he⟩ := exec_of_computes hi
  · exact computed_fire hs ((he s).symm.trans ht)
  · rw [he] at ht
    cases hf : fire h body s with
    | next t' =>
      rw [hf] at ht
      obtain rfl := Host.Outcome.next.inj ht
      exact computed_markReturns (computed_fire hs hf)
    | fault r => rw [hf] at ht; cases ht
    | refused r => rw [hf] at ht; cases ht

/-! ### The bytes that units of the device read -/

theorem ownerData_eq_lines {l : Nat} : ownerData s l =
    (s.plots.map (fun x => x.l1)).findSome? (fun ys => (ys.find? (ownsLine l)).map (fun y => y.data)) := by
  rw [List.findSome?_map]
  rfl

theorem cohLine_computed (ht : Computed s t p b m) (l : Nat) : cohLine t l = cohLine s l := by
  have hlines : ownerData t l = ownerData s l := by rw [ownerData_eq_lines, ownerData_eq_lines, ht.1.lines]
  refine cohLine_congr ?_ ?_
  · rw [carriedLine, carriedLine, hlines, ht.1.frame]
  · rw [ht.1.frame]

/-- What a peer's memory holds does not hang on the free values that a firing draws. -/
def PeerSteady : Prop := ∀ f c, rangeOf c = .peer → Config.peerByte (f + 64) c = Config.peerByte f c

theorem engineRead_computed (hq : PeerSteady) (ht : Computed s t p b m) (a n : Nat) : engineRead t a n = engineRead s a n := by
  have hmem : t.mem = s.mem := by rw [ht.1.frame]
  have hbyte : ∀ c, engineRead t c 1 = engineRead s c 1 := by
    intro c
    rw [engineRead_one, engineRead_one, cohLine_computed ht, hmem, ht.2.2]
    by_cases hr : rangeOf c = .peer
    · rw [hq s.fresh c hr]
    · rw [if_neg hr, if_neg hr]
  induction n generalizing a with
  | zero => rfl
  | succ n ih => rw [engineRead_succ, engineRead_succ (s := s), hbyte, ih]
end

/-! ### What O59 comes to -/

theorem plotAt_takeSet (s : State) (p : Nat) (b : BlockId) (m : MatchedSet) : plotAt (takeSet s p b m) p =
    { plotAt s p with blocks := { (plotAt s p).blocks with copies := (plotAt (takeSet s p b m) p).blocks.copies } } := by
  unfold takeSet modCopy modBlocks
  by_cases hp : p < s.plots.length
  · rw [plotAt_modPlot s p _ hp]
  · rw [modPlot, List.modify_eq_self (Nat.not_lt.mp hp)]

theorem sentFrom_frame (s : State) (p : Nat) (b : BlockId) (m : MatchedSet) (xs : List Send) :
    let u := sentFrom s p b m xs
    u = { s with cur := .idle, fresh := u.fresh, flights := u.flights, plots := u.plots, ctxs := u.ctxs } ∧
      (∀ q, q ≠ p → plotAt u q = plotAt s q) ∧
      plotAt u p = { plotAt s p with blocks := { (plotAt s p).blocks with copies := (plotAt u p).blocks.copies } } ∧
      (∀ c, c ≠ b.ctx → ctxAt u c = ctxAt s c) ∧
      ctxAt u b.ctx = { ctxAt s b.ctx with counts := (ctxAt u b.ctx).counts } :=
  ⟨rfl, fun q hq => consume_other_plot s p q b m hq, plotAt_takeSet s p b m, fun c hc => consume_other_ctx s p b m c hc,
    consume_ctx s p b m⟩

/-- The clauses of O59 but the bytes that are read. -/
theorem exec_frame {i : Instr} {s t : State} {p : Nat} {b : BlockId} {m : MatchedSet} (hi : computes i = true)
    (hs : s.cur = .firing p b m) (ht : exec i s = .next t) :
    t = { s with
        cur := .idle, fresh := t.fresh, flights := t.flights, rows := t.rows, homeWaiters := t.homeWaiters, engReqs := t.engReqs
        plots := t.plots, ctxs := t.ctxs, doubled := t.doubled, tlbis := t.tlbis, regWrites := t.regWrites } ∧
      (∀ q, q ≠ p → plotAt t q = plotAt s q) ∧
      (∀ c, c ≠ b.ctx → (∀ x, groupAt s p (setSlot m) = some x → x.ctx ≠ c) → ctxAt t c = ctxAt s c) ∧
      (∀ c, (ctxAt t c).regs = { (ctxAt s c).regs with csec := (ctxAt t c).regs.csec }) := by
  obtain ⟨hframe, hcur, -⟩ := computed_exec hi hs ht
  refine ⟨?_, hframe.plot, fun c hc hg => hframe.ctx c ?_, hframe.regs⟩
  · have hf := hframe.frame
    rwa [hcur] at hf
  · rintro (rfl | ⟨x, hx, hxc⟩)
    · exact hc rfl
    · exact hg x hx hxc

/-- A `sink` with no operands, about to fire with any counter of free values. -/
def sinkHead : Head := Head.mk .w64 .none .always none none none 0
def sinkSet : MatchedSet := MatchedSet.mk 0 [] 0 []
def sinkState (f : Nat) : State := { State.reset with cur := .firing 0 (BlockId.mk 0 0 0) sinkSet, fresh := f }

theorem exec_sink_next (f : Nat) : ∃ t, exec (.sink sinkHead) (sinkState f) = .next t := by
  unfold exec execSink fire
  exact fireWith_next sinkHead _ _ (sinkState f)

theorem peerByte_of_read {s t : State} {c : Nat} (hc : rangeOf c = .peer) (h : engineRead t c 1 = engineRead s c 1) :
    Config.peerByte t.fresh c = Config.peerByte s.fresh c := by
  have hne : rangeOf c ≠ .hbm := by rw [hc]; decide
  rw [engineRead_one, engineRead_one, if_neg hne, if_neg hne, if_pos hc, if_pos hc] at h
  exact BitVec.eq_of_toNat_eq h

/-- What O59 comes to, and why it is not settled here: every clause holds but the one on the bytes that are read, and that one says of
`Config.peerByte`, an opaque input (assumption 12), that it does not hang on the counter of free values that each firing advances. The
model states no equation of that constant, so neither side of this equivalence has a proof or a refutation. -/
theorem computationFrame_iff : Obligations.ComputationFrame ↔ PeerSteady := by
  constructor
  · intro hall f c hc
    obtain ⟨t, ht⟩ := exec_sink_next f
    obtain ⟨⟨-, -, hread, -⟩, -⟩ := hall (sinkState f) t (.sink sinkHead) 0 (BlockId.mk 0 0 0) sinkSet [] |>.imp_left
      fun h => h rfl rfl ht
    obtain ⟨-, -, hfresh⟩ := computed_exec (i := .sink sinkHead) (s := sinkState f) rfl rfl ht
    have hbyte := peerByte_of_read hc (hread c 1)
    rwa [hfresh] at hbyte
  · intro hq s t i p b m xs
    refine ⟨fun hi hs ht => ?_, sentFrom_frame s p b m xs⟩
    obtain ⟨hrest, hplots, hctx, hregs⟩ := exec_frame hi hs ht
    exact ⟨hrest, hplots, engineRead_computed hq (computed_exec hi hs ht), hctx, hregs⟩

end Sys2Proof
end
